-- ==== Sys2Proof/Word.lean ====
section
/-! DEFINITION. The words the machine computes with: 32-bit registers and instruction words, 64-bit register pairs and
addresses, bytes of memory (R2, R47, R89). -/

/-- A 32-bit register or instruction word. -/
abbrev Sys2Proof.Word := BitVec 32

/-- A register pair (R47) or an address (R89). -/
abbrev Sys2Proof.DWord := BitVec 64

/-- A byte of memory. -/
abbrev Sys2Proof.Byte := BitVec 8
end

