-- ==== Sys2Proof/Machine/Bits.lean ====
section
/-! DEFINITION. Bit-field, sign-extension and byte-order helpers (R2). Everything that reads bits out of words, or bytes out
of memory order, is stated here once. -/

namespace Sys2Proof

/-- The slice of `n` bits of `w` from bit `lo` up (R2). -/
def fld (w lo n : Nat) : Nat := w / 2 ^ lo % 2 ^ n

/-- Every field of the list, given as (lowest bit, width), is zero (R161). -/
def clearFields (w : Nat) (fs : List (Nat × Nat)) : Bool := fs.all fun p => fld w p.1 p.2 == 0

/-- Bit `i` of `w`. -/
def bitOf (w i : Nat) : Bool := w / 2 ^ i % 2 == 1

/-- `w` read as a signed number of `n` bits. -/
def signedOf (n w : Nat) : Int := if w % 2 ^ n < 2 ^ (n - 1) then (w % 2 ^ n : Nat) else (w % 2 ^ n : Nat) - (2 ^ n : Nat)

/-- The `n` low bytes of `w`, least significant first (R2). -/
def bytesOf : Nat → Nat → List Byte
  | 0, _ => []
  | n + 1, w => BitVec.ofNat 8 w :: bytesOf n (w / 256)

/-- The number whose bytes, least significant first, are `bs` (R2). -/
def leNat : List Byte → Nat
  | [] => 0
  | b :: bs => b.toNat + 256 * leNat bs

/-- A word made of bytes, least significant first; missing bytes read as zero. -/
def wordOf (bs : List Byte) : Word := BitVec.ofNat 32 (leNat (bs.take 4))

/-- The bytes of `bs` as 32-bit words, least significant byte first; `n` words are formed. -/
def wordsOf : Nat → List Byte → List Word
  | 0, _ => []
  | n + 1, bs => wordOf bs :: wordsOf n (bs.drop 4)

/-- The low and high halves of a register pair (R47). -/
def lo32 (x : DWord) : Word := x.setWidth 32
def hi32 (x : DWord) : Word := (x >>> 32).setWidth 32

/-- A register pair from its halves (R47). -/
def pairOf (lo hi : Word) : DWord := hi.setWidth 64 <<< 32 ||| lo.setWidth 64

/-- `n` rounded up to a multiple of `k`. -/
def roundUp (n k : Nat) : Nat := (n + k - 1) / k * k

/-- The quotient rounded up. -/
def ceilDiv (n k : Nat) : Nat := (n + k - 1) / k

/-- The numbers from `lo` on, `n` of them. -/
def upFrom (lo : Nat) : Nat → List Nat
  | 0 => []
  | n + 1 => lo :: upFrom (lo + 1) n

/-- The positions of the set bits of `w` among its `n` lowest, ascending. -/
def setBits (n w : Nat) : List Nat := (upFrom 0 n).filter fun i => bitOf w i

/-- The sum of `2 ^ i` over the numbers of a list without repeats. -/
def maskOf (is : List Nat) : Nat := is.foldl (fun m i => m ||| 2 ^ i) 0

end Sys2Proof
end

