-- ==== Sys2Proof/Syntax.lean ====
section
/-! DEFINITION. The abstract syntax: operand forms (R48, R49), the code spaces of the fields, and `Instr`, one constructor
for each row of the opcode table: thread instructions, matrix stream instructions, and the steps of the engines, front ends,
timers, memory system and management complex (95_what_each_step_holds.md). -/

namespace Sys2Proof

/-- Type codes (R61). -/
inductive Ty where
  | i8 | n8 | i16 | n16 | i32 | n32 | i64 | n64 | f16 | bf16 | f32 | f64
  | t8 | t6 | e4m3 | e5m2
deriving DecidableEq, Repr

/-- Rounding modes (R73). -/
inductive Rnd where
  | rn | rz | rd | ru | rna | dith
deriving DecidableEq, Repr

/-- Scopes (R96). -/
inductive Scope where
  | wg | core | clu | dev | fab | sys
deriving DecidableEq, Repr

/-- Order codes (R97). -/
inductive Order where
  | plain | acq | rel | ar
deriving DecidableEq, Repr

/-- Access sizes of LD, ST, LSP and SSP (R236). -/
inductive Size where
  | n8 | i8 | n16 | i16 | n32 | n64 | x16
deriving DecidableEq, Repr

/-- ICMP conditions (R195). -/
inductive ICond where
  | eq | ne | lt | le | ltu | leu | tst | ntst
deriving DecidableEq, Repr

/-- FCMP and DCMP conditions (R196). -/
inductive FCond where
  | eq | ne | lt | le | gt | ge | ord | un
deriving DecidableEq, Repr

/-- FOP operations (R199). -/
inductive FopFn where
  | add | sub | mul | fma | fms | div | sqrt | min | max
deriving DecidableEq, Repr

/-- FRND types (R200). -/
inductive FrndTy where
  | f32 | f64 | h2 | b2
deriving DecidableEq, Repr

/-- FSF functions (R201). -/
inductive SfFn where
  | rcp | rsq | lg2 | ex2 | sinpi | cospi | tanh
deriving DecidableEq, Repr

/-- Block lengths of CONVB, SCALEB and RESV (R204, R297). -/
inductive BlkLen where
  | l32 | l64 | l128 | l256
deriving DecidableEq, Repr

/-- SWZ modes (R209). -/
inductive SwzMode where
  | bcast | xor | up | down | rot | idx
deriving DecidableEq, Repr

/-- VOTE operations (R210). -/
inductive VoteOp where
  | ballot | any | all | eq
deriving DecidableEq, Repr

/-- LRED and LSCAN operations (R211). -/
inductive RedOp where
  | add | min | max | and | or | xor
deriving DecidableEq, Repr

/-- TRSP element sizes (R212). -/
inductive TrspSize where
  | n8 | n16 | n32
deriving DecidableEq, Repr

/-- Atomic operations (R241). -/
inductive AtomOp where
  | add | min | max | and | or | xor | xchg | cas
deriving DecidableEq, Repr

/-- FENCE kinds (R245). -/
inductive FenceKind where
  | full | rel | acq
deriving DecidableEq, Repr

/-- SAMPLE formats (R240). -/
inductive SampleFmt where
  | unorm4 | half4 | single
deriving DecidableEq, Repr

/-- Port catalogue (R254). -/
inductive Port where
  | unbound | copy | gather | coll | cpl | hoistout | hoistin | halyard | mailbox
deriving DecidableEq, Repr

/-- RTRI culling (R290). -/
inductive Cull where
  | none | back | front
deriving DecidableEq, Repr

/-- Reservation formats (R295). -/
inductive ResFmt where
  | t6 | t8 | e4m3 | e5m2 | i8 | n8 | bf16 | f16 | f32 | f64 | b1
deriving DecidableEq, Repr

/-- Accumulator tile modes (R304). -/
inductive TileMode where
  | bfp48 | i32 | f64
deriving DecidableEq, Repr

/-- ACCRD selections (R326). -/
inductive AccSel where
  | elem | exp | head | rowst | tilest | flush | seqst | seqpc
deriving DecidableEq, Repr

/-- Special registers read with SRD (R55). -/
inductive Spr where
  | tstat | xflags | cntrs | tilew | repst | poison0 | poison1 | poison2 | poison3 | fenable | gangid | qbound
  | qportlo | qporthi | spawnct | cyclo | cychi | coreid
deriving DecidableEq, Repr

/-- A source register field (R48): a register, the zero source, the packet's literal word, or the read-only sources. -/
inductive Src where
  | v (r : Fin 120) | zero | lit (w : Word) | lane | tid | wg
deriving DecidableEq, Repr

/-- A destination register field (R48): a register, or vzero, which discards. -/
inductive Dst where
  | v (r : Fin 120) | zero
deriving DecidableEq, Repr

/-- A guard or predicate field: p0 to p6, and 7 for the always-true pt (R49, R159). -/
abbrev Pred := Fin 8

/-- The amount of FSH (R192): a register, or an immediate. -/
inductive ShAmt where
  | reg (e : Src) | imm (n : BitVec 5)
deriving DecidableEq, Repr

/-- The entry address of SPAWN, CONT, HOIST and BIN (R229, R271, R285): a signed packet offset, or a register pair. -/
inductive Target where
  | off (o : BitVec 15) | pair (a : Src)
deriving DecidableEq, Repr

/-- The privilege levels (R343). -/
inductive Level where
  | u | f | r | s
deriving DecidableEq, Repr

/-- Who reads or writes a system register (R346 to R348): the view it names (0 the global view, n + 1 the view of VF n), its
level, whether it is the host or a management-core thread, and the latch it owns (R360). -/
structure Requester where
  view  : Nat
  level : Level
  host  : Bool
  latch : Nat
deriving DecidableEq, Repr

/-- What another rank brings to a matched collective command (R268): the code, type, operation, count and root it named, whether
its context is open in the group, and its source elements. -/
structure Contribution where
  rank  : Nat
  cmd   : Nat
  ty    : Ty
  opr   : Nat
  count : Nat
  root  : Nat
  isOpen : Bool
  data  : List DWord
deriving DecidableEq, Repr

/-- The steps of the part: one constructor for each row of the opcode table (steps that only the outside world brings stand last). -/
inductive Instr where
  /-- NOP (R169): No operation; takes no effect in any lane and uses no pipe. -/
  | nop (g : Pred)
  /-- IADD (R190): 32-bit integer add, wrapping. -/
  | iadd (g : Pred) (d : Dst) (a : Src) (b : Src)
  /-- ISUB (R190): 32-bit integer subtract, wrapping. -/
  | isub (g : Pred) (d : Dst) (a : Src) (b : Src)
  /-- IMUL (R190): Low 32 bits of an integer product. -/
  | imul (g : Pred) (d : Dst) (a : Src) (b : Src)
  /-- IMULH (R190): High 32 bits of a signed product. -/
  | imulh (g : Pred) (d : Dst) (a : Src) (b : Src)
  /-- NMULH (R190): High 32 bits of an unsigned product. -/
  | nmulh (g : Pred) (d : Dst) (a : Src) (b : Src)
  /-- IMA (R190): Integer multiply-add into d, wrapping. -/
  | ima (g : Pred) (d : Dst) (a : Src) (b : Src)
  /-- IMIN (R190): Signed integer minimum. -/
  | imin (g : Pred) (d : Dst) (a : Src) (b : Src)
  /-- IMAX (R190): Signed integer maximum. -/
  | imax (g : Pred) (d : Dst) (a : Src) (b : Src)
  /-- NMIN (R190): Unsigned integer minimum. -/
  | nmin (g : Pred) (d : Dst) (a : Src) (b : Src)
  /-- NMAX (R190): Unsigned integer maximum. -/
  | nmax (g : Pred) (d : Dst) (a : Src) (b : Src)
  /-- ISAD (R190): Sum of absolute byte differences accumulated into d. -/
  | isad (g : Pred) (d : Dst) (a : Src) (b : Src)
  /-- IADD64 (R190): 64-bit integer add on register pairs. -/
  | iadd64 (g : Pred) (d : Dst) (a : Src) (b : Src)
  /-- ISUB64 (R190): 64-bit integer subtract on register pairs. -/
  | isub64 (g : Pred) (d : Dst) (a : Src) (b : Src)
  /-- IMUL64 (R190): Low 64 bits of a 64-bit product. -/
  | imul64 (g : Pred) (d : Dst) (a : Src) (b : Src)
  /-- IMAW (R190): Signed 32x32 multiply accumulated into a 64-bit pair. -/
  | imaw (g : Pred) (d : Dst) (a : Src) (b : Src)
  /-- AND (R191): Bitwise AND. -/
  | and (g : Pred) (d : Dst) (a : Src) (b : Src)
  /-- OR (R191): Bitwise OR. -/
  | or (g : Pred) (d : Dst) (a : Src) (b : Src)
  /-- XOR (R191): Bitwise XOR. -/
  | xor (g : Pred) (d : Dst) (a : Src) (b : Src)
  /-- ANDN (R191): Bitwise a AND NOT b. -/
  | andn (g : Pred) (d : Dst) (a : Src) (b : Src)
  /-- SHL (R191): Logical shift left, zero for amounts of 32 or more. -/
  | shl (g : Pred) (d : Dst) (a : Src) (b : Src)
  /-- SHR (R191): Logical shift right. -/
  | shr (g : Pred) (d : Dst) (a : Src) (b : Src)
  /-- SAR (R191): Arithmetic shift right. -/
  | sar (g : Pred) (d : Dst) (a : Src) (b : Src)
  /-- SEL (R191): Bitwise select of a and b under the mask held in d. -/
  | sel (g : Pred) (d : Dst) (a : Src) (b : Src)
  /-- TERN (R192): Bitwise ternary logic function of three sources by an 8-bit table. -/
  | tern (g : Pred) (d : Dst) (a : Src) (b : Src) (e : Src) (tt : BitVec 8)
  /-- FSH (R192): Funnel shift of a 64-bit concatenation left or right. -/
  | fsh (g : Pred) (d : Dst) (a : Src) (b : Src) (dir : Bool) (amt : ShAmt)
  /-- PCNT (R191): Population count of a 32- or 64-bit source. -/
  | pcnt (g : Pred) (d : Dst) (a : Src) (w : Bool)
  /-- CLZ (R191): Count of leading zero bits. -/
  | clz (g : Pred) (d : Dst) (a : Src) (w : Bool)
  /-- BREV (R191): Bit reversal of a 32- or 64-bit value. -/
  | brev (g : Pred) (d : Dst) (a : Src) (w : Bool)
  /-- BFE (R192): Bit-field extract with sign or zero extension. -/
  | bfe (g : Pred) (d : Dst) (a : Src) (sx : Bool) (pos : BitVec 5) (len : BitVec 5)
  /-- BFI (R192): Bit-field insert into d. -/
  | bfi (g : Pred) (d : Dst) (a : Src) (pos : BitVec 5) (len : BitVec 5)
  /-- BPERM (R192): Byte permutation of two sources by a selector. -/
  | bperm (g : Pred) (d : Dst) (a : Src) (b : Src) (e : Src)
  /-- FADD_F32 (R193): f32 add rounded with rn. -/
  | faddF32 (g : Pred) (d : Dst) (a : Src) (b : Src)
  /-- FSUB_F32 (R193): f32 subtract. -/
  | fsubF32 (g : Pred) (d : Dst) (a : Src) (b : Src)
  /-- FMUL_F32 (R193): f32 multiply. -/
  | fmulF32 (g : Pred) (d : Dst) (a : Src) (b : Src)
  /-- FMA_F32 (R193): f32 fused multiply-add into d. -/
  | fmaF32 (g : Pred) (d : Dst) (a : Src) (b : Src)
  /-- FMIN_F32 (R194): f32 minimumNumber. -/
  | fminF32 (g : Pred) (d : Dst) (a : Src) (b : Src)
  /-- FMAX_F32 (R194): f32 maximumNumber. -/
  | fmaxF32 (g : Pred) (d : Dst) (a : Src) (b : Src)
  /-- FADD_H2 (R193): Packed f16 pair add. -/
  | faddH2 (g : Pred) (d : Dst) (a : Src) (b : Src)
  /-- FMUL_H2 (R193): Packed f16 pair multiply. -/
  | fmulH2 (g : Pred) (d : Dst) (a : Src) (b : Src)
  /-- FMA_H2 (R193): Packed f16 pair fused multiply-add. -/
  | fmaH2 (g : Pred) (d : Dst) (a : Src) (b : Src)
  /-- FADD_B2 (R193): Packed bf16 pair add. -/
  | faddB2 (g : Pred) (d : Dst) (a : Src) (b : Src)
  /-- FMUL_B2 (R193): Packed bf16 pair multiply. -/
  | fmulB2 (g : Pred) (d : Dst) (a : Src) (b : Src)
  /-- FMA_B2 (R193): Packed bf16 pair fused multiply-add. -/
  | fmaB2 (g : Pred) (d : Dst) (a : Src) (b : Src)
  /-- ICMP (R195): Integer compare writing a predicate. -/
  | icmp (g : Pred) (w : Bool) (c : ICond) (p : Pred) (a : Src) (b : Src)
  /-- FCMP (R196): f32 compare writing a predicate. -/
  | fcmp (g : Pred) (c : FCond) (p : Pred) (a : Src) (b : Src)
  /-- PLOP (R197): Predicate logic by a 4-bit truth table. -/
  | plop (g : Pred) (p : Pred) (a : Pred) (b : Pred) (tt : BitVec 4)
  /-- FCLASS (R198): Classifies an f32 or f64 value into a one-hot mask. -/
  | fclass (g : Pred) (d : Dst) (a : Src) (w : Bool)
  /-- DADD (R193): f64 add. -/
  | dadd (g : Pred) (d : Dst) (a : Src) (b : Src)
  /-- DMUL (R193): f64 multiply. -/
  | dmul (g : Pred) (d : Dst) (a : Src) (b : Src)
  /-- DFMA (R193): f64 fused multiply-add. -/
  | dfma (g : Pred) (d : Dst) (a : Src) (b : Src)
  /-- DCMP (R196): f64 compare writing a predicate. -/
  | dcmp (g : Pred) (c : FCond) (p : Pred) (a : Src) (b : Src)
  /-- FOP (R199): General float operation at an explicit type and rounding. -/
  | fop (g : Pred) (d : Dst) (a : Src) (b : Src) (pk : Bool) (fn : FopFn) (ty : Ty) (rnd : Rnd) (e : Src)
  /-- FRND (R200): Rounds a float to an integral value in its own format. -/
  | frnd (g : Pred) (d : Dst) (a : Src) (x : Bool) (ty : FrndTy) (rnd : Rnd)
  /-- FSF (R201): f32 special function such as reciprocal or log2. -/
  | fsf (g : Pred) (d : Dst) (a : Src) (fn : SfFn)
  /-- CONV (R202): Converts between any two type codes. -/
  | conv (g : Pred) (d : Dst) (a : Src) (ts : Ty) (tt : Ty) (rnd : Rnd)
  /-- CONVB (R204): Block conversion of f32 values to narrow codes with an E8M0 scale. -/
  | convb (g : Pred) (d : Dst) (a : Src) (tt : Ty) (len : BlkLen) (rnd : Rnd) (e : Dst) (ph : BitVec 7)
  /-- CONVX (R203): Widens packed narrow codes to f32 or an f16 pair. -/
  | convx (g : Pred) (d : Dst) (a : Src) (h : Bool) (k : BitVec 2) (ty : Ty)
  /-- SCALEB (R204): Block conversion of packed pairs to narrow codes with a scale. -/
  | scaleb (g : Pred) (d : Dst) (a : Src) (tt : Ty) (len : BlkLen) (b2 : Bool) (rnd : Rnd) (e : Dst) (ph : BitVec 7)
  /-- IDOT4 (R205): Signed 4-way byte dot product accumulated into d. -/
  | idot4 (g : Pred) (d : Dst) (a : Src) (b : Src)
  /-- FDOT2 (R205): f16 pair dot product accumulated into f32 with one rounding. -/
  | fdot2 (g : Pred) (d : Dst) (a : Src) (b : Src)
  /-- NMAW (R190): Unsigned 32x32 multiply accumulated into a 64-bit pair. -/
  | nmaw (g : Pred) (d : Dst) (a : Src) (b : Src)
  /-- MOV (R206): Register move, 32 or 64 bits. -/
  | mov (g : Pred) (d : Dst) (a : Src) (w : Bool)
  /-- MOVI (R206): Moves a sign-extended 14-bit immediate. -/
  | movi (g : Pred) (d : Dst) (imm : BitVec 14)
  /-- MOVHI (R206): Writes a 14-bit immediate into bits 31:18 of d. -/
  | movhi (g : Pred) (d : Dst) (imm : BitVec 14)
  /-- MOVK (R206): Reads a launch constant. -/
  | movk (g : Pred) (d : Dst) (w : Bool) (n : BitVec 5)
  /-- SRD (R207): Reads a special register, optionally clearing its clearable fields. -/
  | srd (g : Pred) (d : Dst) (clr : Bool) (idx : Spr)
  /-- SWZ (R209): Lane swizzle within a tile. -/
  | swz (g : Pred) (d : Dst) (a : Src) (b : Src) (mode : SwzMode) (n : BitVec 5)
  /-- VOTE (R210): Predicate vote across the active lanes of a tile. -/
  | vote (g : Pred) (d : Dst) (ps : Pred) (op : VoteOp)
  /-- LRED (R211): Lane reduction over a tile in a fixed tree. -/
  | lred (g : Pred) (d : Dst) (a : Src) (ty : Ty) (op : RedOp) (rnd : Rnd)
  /-- LSCAN (R211): Inclusive or exclusive lane scan over a tile. -/
  | lscan (g : Pred) (d : Dst) (a : Src) (x : Bool) (ty : Ty) (op : RedOp) (rnd : Rnd)
  /-- TRSP (R212): Transposes elements across a group of lanes. -/
  | trsp (g : Pred) (d : Dst) (a : Src) (sz : TrspSize)
  /-- PART (R213): Sets the thread's tile width LOGW. -/
  | part (g : Pred) (n : Fin 6)
  /-- REP (R214): Starts a repeat sequence of the governed instruction. -/
  | rep (sb : BitVec 2) (sa : BitVec 2) (sd : BitVec 2) (tot : BitVec 5)
  /-- DERX (R216): Quad-convergent horizontal derivative. -/
  | derx (g : Pred) (d : Dst) (a : Src) (coarse : Bool)
  /-- DERY (R216): Quad-convergent vertical derivative. -/
  | dery (g : Pred) (d : Dst) (a : Src) (coarse : Bool)
  /-- QPUT (R217): Pushes a word into a bound queue register. -/
  | qput (g : Pred) (a : Src) (q : BitVec 4)
  /-- QGET (R217): Pops a word from a bound queue register. -/
  | qget (g : Pred) (d : Dst) (q : BitVec 4)
  /-- JMP (R227): Branch by a signed packet offset. -/
  | jmp (g : Pred) (off : BitVec 21)
  /-- JMPX (R227): Branch to a register target, optionally writing the link. -/
  | jmpx (g : Pred) (a : Src) (link : Bool)
  /-- CALL (R227): Branch writing the link pair v118:v119. -/
  | call (g : Pred) (off : BitVec 21)
  /-- RET (R227): Return to the address in v118:v119. -/
  | ret (g : Pred)
  /-- EXIT (R228): Ends the thread. -/
  | exit (g : Pred)
  /-- SPAWN (R229): Creates one new thread per active lane with a payload. -/
  | spawn (g : Pred) (tgt : Target) (vs : Fin 120) (n : Fin 17)
  /-- CONT (R229): Ends the thread and creates its continuation with the same id. -/
  | cont (g : Pred) (tgt : Target) (n : Fin 17)
  /-- REORDER (R230): Arrives at a workgroup key-sorted regrouping round. -/
  | reorder (g : Pred) (a : Src) (n : Fin 121)
  /-- YIELD (R231): Ranks the PC group last for the next n selections. -/
  | yield (g : Pred) (n : BitVec 6)
  /-- BAR (R232): Arrives at a workgroup or gang barrier and parks. -/
  | bar (g : Pred) (gang : Bool) (b : BitVec 4)
  /-- GBAR (R233): Arrives at a sync-group barrier. -/
  | gbar (g : Pred) (idx : BitVec 8)
  /-- WAIT (R234): Parks until the outstanding counters are at or below their limits. -/
  | wait (g : Pred) (l : BitVec 3) (s : BitVec 3) (c : BitVec 3) (t : BitVec 3)
  /-- TRAP (R226): Raises USER_TRAP with a code. -/
  | trap (g : Pred) (imm : BitVec 14)
  /-- RETT (R225): Returns from the trap handler, replaying the replay log. -/
  | rett (g : Pred)
  /-- BREAK (R226): Raises BREAKPOINT or halts for the debugger. -/
  | brk (g : Pred) (imm : BitVec 14)
  /-- TIME (R235): Reads the deadline counter into a pair. -/
  | time (g : Pred) (d : Dst)
  /-- LD (R236): Global load with scope and order. -/
  | ld (g : Pred) (d : Dst) (a : Src) (acq : Bool) (sc : Scope) (sz : Size)
  /-- ST (R236): Global store with scope and order. -/
  | st (g : Pred) (v : Src) (a : Src) (rel : Bool) (sc : Scope) (sz : Size)
  /-- LSP (R238): Local-space load. -/
  | lsp (g : Pred) (d : Dst) (a : Src) (sz : Size)
  /-- SSP (R238): Local-space store. -/
  | ssp (g : Pred) (v : Src) (a : Src) (sz : Size)
  /-- LDLOD (R239): Level-of-detail load with fallback walk. -/
  | ldlod (g : Pred) (d : Dst) (a : Src) (b : Src) (lvl : BitVec 4) (lreg : Bool) (e : Dst) (sz : Fin 5)
  /-- SAMPLE (R240): Filtered sample of a LOD resource. -/
  | sample (g : Pred) (d : Dst) (a : Src) (b : Src) (fmt : SampleFmt) (bilin : Bool) (e : Src)
  /-- ATM (R241): Global atomic read-modify-write. -/
  | atm (g : Pred) (d : Dst) (a : Src) (b : Src) (op : AtomOp) (ty : Ty) (sc : Scope) (ord : Order) (e : Src)
  /-- ATMS (R241): Local-space atomic read-modify-write. -/
  | atms (g : Pred) (d : Dst) (a : Src) (b : Src) (op : AtomOp) (ty : Ty) (e : Src)
  /-- RDM (R242): Reduction into memory without a return value. -/
  | rdm (g : Pred) (a : Src) (b : Src) (op : RedOp) (ty : Ty) (sc : Scope) (rel : Bool)
  /-- VBMIN (R243): Unsigned 64-bit visibility minimum into memory. -/
  | vbmin (g : Pred) (a : Src) (b : Src)
  /-- PREF (R244): Speculative prefetch of a line. -/
  | pref (g : Pred) (a : Src) (l2 : Bool)
  /-- FENCE (R245): Memory fence of a scope and kind. -/
  | fence (g : Pred) (k : FenceKind) (sc : Scope)
  /-- MONWAIT (R246): Waits for a change to a monitored word's line. -/
  | monwait (g : Pred) (v : Src) (a : Src) (sc : Scope)
  /-- TXBEGIN (R247): Opens a transaction with an abort target. -/
  | txbegin (g : Pred) (off : BitVec 21)
  /-- TXEND (R250): Ends a transaction, checking lane conflicts and sending it for validation. -/
  | txend (g : Pred)
  /-- TXCTL_ABORT (R251): Aborts the open transaction with EXPLICIT. -/
  | txctlAbort (g : Pred)
  /-- TXCTL_TEST (R251): Writes INTX and IRREV into d. -/
  | txctlTest (g : Pred) (d : Dst)
  /-- QBIND (R253): Binds a queue register to an engine port. -/
  | qbind (g : Pred) (port : Port) (a : Src) (q : BitVec 4)
  /-- CPLWAIT (R269): Parks until a completion object's counter reaches a value. -/
  | cplwait (g : Pred) (v : Src) (a : Src) (ext : Bool) (sc : Scope)
  /-- CPLTEST (R270): Reads a completion counter as an acquire. -/
  | cpltest (g : Pred) (d : Dst) (a : Src) (sc : Scope)
  /-- HOIST (R271): Pushes one record per active lane into a hoist. -/
  | hoist (g : Pred) (q : BitVec 4) (vs : Fin 120) (b : Src) (tgt : Target) (n : Fin 17) (any : Bool)
  /-- HOIST_CLOSE (R273): Closes a hoist after the lane's earlier records. -/
  | hoistClose (g : Pred) (q : BitVec 4)
  /-- BIN_FLUSH (R285): Makes the bins of an entry due at once. -/
  | binFlush (g : Pred) (tgt : Target)
  /-- BIN_COUNT (R285): Counts the threads in the bins of an entry. -/
  | binCount (g : Pred) (d : Dst) (tgt : Target)
  /-- RBOX (R289): Ray test against the 8 boxes of a node. -/
  | rbox (g : Pred) (d : Dst) (a : Src) (b : Src)
  /-- RTRI (R290): Watertight ray-triangle test. -/
  | rtri (g : Pred) (d : Dst) (a : Src) (b : Src) (cull : Cull)
  /-- RSTK_PUSH (R292): Pushes a pair onto the traversal stack. -/
  | rstkPush (g : Pred) (a : Src)
  /-- RSTK_POP (R292): Pops a pair from the traversal stack. -/
  | rstkPop (g : Pred) (d : Dst)
  /-- RSTK_DEPTH (R292): Reads the traversal stack depth. -/
  | rstkDepth (g : Pred) (d : Dst)
  /-- RSTK_CLEAR (R292): Clears the traversal stack. -/
  | rstkClear (g : Pred)
  /-- RESV (R297): Creates an operand-buffer reservation. -/
  | resv (g : Pred) (d : Dst) (a : Src) (b : Src) (fmt : ResFmt) (bl : BlkLen) (scl : Bool) (ten : Bool) (ph : BitVec 7)
  /-- RFREE (R298): Frees a reservation. -/
  | rfree (g : Pred) (a : Src)
  /-- ACCRD (R326): Reads an accumulator row or tile status into lanes. -/
  | accrd (g : Pred) (d : Dst) (what : AccSel) (fmt : BitVec 4) (rnd : Rnd) (t : BitVec 3) (row : BitVec 4) (half : Bool)
  /-- SEQ (R310): Submits a matrix stream to the workgroup's sequencer. -/
  | seq (g : Pred) (a : Src) (b : Src) (e : Src)
  /-- SYSRD (R293): Reads a system register by index. -/
  | sysrd (g : Pred) (d : Dst) (idx : BitVec 14)
  /-- SYSWR (R293): Writes a system register by index. -/
  | syswr (g : Pred) (v : Src) (idx : BitVec 14)
  /-- MNOP (R317): Matrix no operation. -/
  | mnop
  /-- MZERO (R318): Sets a tile's mode and clears it. -/
  | mzero (mode : TileMode) (t : BitVec 3)
  /-- MMAC (R319): Accumulates one K-chunk product into a tile. -/
  | mmac (bi : Bool) (ai : Bool) (ki : Bool) (w : Bool) (bid : BitVec 6) (aid : BitVec 6) (mem : BitVec 4) (t : BitVec 3) (kb : BitVec 11) (ar : BitVec 11) (br : BitVec 10)
  /-- MBIN (R319): Accumulates a binary AND or XOR popcount product into a tile. -/
  | mbin (xr : Bool) (bi : Bool) (ai : Bool) (ki : Bool) (w : Bool) (bid : BitVec 6) (aid : BitVec 6) (mem : BitVec 4) (t : BitVec 3) (kb : BitVec 11) (ar : BitVec 11) (br : BitVec 10)
  /-- MRENORM (R320): Shifts BFP48 rows left or right. -/
  | mrenorm (n : BitVec 6) (right : Bool) (all : Bool) (row : BitVec 4) (t : BitVec 3)
  /-- MEXPORT (R321): Converts a tile's rows into a reservation. -/
  | mexport (dith : Bool) (did : BitVec 6) (t : BitVec 3) (dr : BitVec 12) (dc : BitVec 12)
  /-- MWAIT (R312): Sequencer arrives at a barrier and stalls until it completes. -/
  | mwait (b : BitVec 4)
  /-- MSIG (R312): Sequencer arrives at a barrier and continues. -/
  | msig (b : BitVec 4)
  /-- MLOOP (R322): Starts a counted loop body in the matrix stream. -/
  | mloop (len : BitVec 10) (p : Bool) (cnt : BitVec 12)
  /-- MEND (R322): Ends the matrix stream. -/
  | mend
  /-- MPHASE (R323): Sets a reservation's dither phase. -/
  | mphase (ph : BitVec 7) (id : BitVec 6)
  /-- MSTEP (R325): Turns ordered mode of a tile on or off. -/
  | mstep (mask : BitVec 12) (on : Bool) (t : BitVec 3)
  /-- BIN_LAUNCH (R24): A due bin launches as a fresh lane group once its core has the resources. -/
  | binLaunch (core : Nat) (bin : Nat)
  /-- RING_UNIT_MOVE (R26): The unit at the head of a continuation ring moves into a bin that can accept it. -/
  | ringUnitMove (wg : Nat)
  /-- WORKGROUP_PLACEMENT (R34): The dispatcher places a ready workgroup on a core once resources are free. -/
  | workgroupPlacement (wg : Nat) (hint : Option Nat)
  /-- GANG_PLACEMENT (R36): The dispatcher places a gang or co-resident entry all or nothing. -/
  | gangPlacement (wg : Nat)
  /-- HOIST_DELIVERY (R42): A hoist delivers its head record as a new thread in a bound workgroup. -/
  | hoistDelivery (h : Nat)
  /-- LOAD_RETURN (R219): A load-class operation writes its destinations and its counter falls. -/
  | loadReturn (op : Nat)
  /-- STORE_PERFORM (R219): A store-class operation performs at its point of coherence and its counter falls. -/
  | storePerform (op : Nat)
  /-- TX_VALIDATION (R114): Home slices validate a transaction's read set and commit or abort it. -/
  | txValidation (uid : Nat)
  /-- MONWAIT_POLL (R246): A 1 us re-read of an off-device monitored word. -/
  | monwaitPoll (uid : Nat)
  /-- CPLWAIT_POLL (R269): A 1 us re-read of a completion counter by a parked CPLWAIT. -/
  | cplwaitPoll (uid : Nat)
  /-- COPY (R263): Copy command taken whole at the copy port. -/
  | copy (cmd : Nat)
  /-- FILL (R263): Fill command with an 8-byte pattern. -/
  | fill (cmd : Nat)
  /-- TILE (R264): Strided 2-D tile copy command. -/
  | tile (cmd : Nat)
  /-- GATHER (R265): Indexed gather command. -/
  | gather (cmd : Nat)
  /-- SCATTER (R265): Indexed scatter command. -/
  | scatter (cmd : Nat)
  /-- ALLREDUCE (R267): Collective reduction written on every rank. -/
  | allreduce (cmd : Nat) (peers : List Contribution)
  /-- REDUCE (R267): Collective reduction written on the root. -/
  | reduce (cmd : Nat) (peers : List Contribution)
  /-- BROADCAST (R267): Collective broadcast from the root. -/
  | broadcast (cmd : Nat) (peers : List Contribution)
  /-- ALLGATHER (R267): Collective all-gather. -/
  | allgather (cmd : Nat) (peers : List Contribution)
  /-- REDUCESCATTER (R267): Collective reduce-scatter. -/
  | reducescatter (cmd : Nat) (peers : List Contribution)
  /-- GRAPH (R283): Launches a subgraph from a kernel. -/
  | graph (cmd : Nat)
  /-- COMMAND_COMPLETE (R260): An engine command finishes, updating its completion object, counter and notify. -/
  | commandComplete (cmd : Nat)
  /-- NOTIFY_PUSH (R261): A waiting notify word enters the cpl queue once it has room. -/
  | notifyPush (wg : Nat)
  /-- RESUME (R314): Mailbox word resuming a trapped sequencer. -/
  | resume (wg : Nat)
  /-- ABANDON (R314): Mailbox word ending the running or trapped stream. -/
  | abandon (wg : Nat)
  /-- CLRFLAGS (R314): Mailbox word clearing the sequencer flags. -/
  | clrflags (wg : Nat)
  /-- SEQ_STREAM_START (R311): A queued matrix stream starts when the sequencer becomes idle. -/
  | seqStreamStart (wg : Nat)
  /-- ORDERED_STEP_APPLY (R325): A tile port applies a complete ordered step once its arrivals are present. -/
  | orderedStepApply (wg : Nat) (t : Nat)
  /-- QUEUE_NOTIFY (R354): A write to HAL_QTAIL makes entries pending. -/
  | queueNotify (fe : Nat) (q : Nat) (v : Word)
  /-- QUEUE_ENABLE (R352): A write to HAL_QCTL setting EN enables the queue and consumes pending entries. -/
  | queueEnable (fe : Nat) (q : Nat) (v : Word)
  /-- RUN (R354): Queue entry that runs a graph. -/
  | run (fe : Nat) (q : Nat) (idx : Nat)
  /-- REGISTER (R364): Queue entry that admits a strip chain template. -/
  | register (fe : Nat) (q : Nat) (idx : Nat)
  /-- RETIRE (R364): Queue entry that retires a stream's template. -/
  | retire (fe : Nat) (q : Nat) (idx : Nat)
  /-- GRAPH_START (R276): The walker starts a graph, checking it and launching its ready nodes. -/
  | graphStart (g : Nat)
  /-- KERNEL_NODE (R277): Launch of a KERNEL node's workgroups. -/
  | kernelNode (g : Nat) (n : Nat)
  /-- COPY_NODE (R279): Launch of a COPY node's command on a copy engine. -/
  | copyNode (g : Nat) (n : Nat)
  /-- COND_NODE (R280): COND node reads its predicate and chooses a successor list. -/
  | condNode (g : Nat) (n : Nat)
  /-- LOOP_NODE (R281): LOOP node starts its iterations. -/
  | loopNode (g : Nat) (n : Nat)
  /-- LOOP_ITERATION_END (R281): A loop iteration ends and the predicate is re-read. -/
  | loopIterationEnd (g : Nat) (n : Nat)
  /-- SIGNAL_NODE (R279): SIGNAL node adds VALUE to an object. -/
  | signalNode (g : Nat) (n : Nat)
  /-- EXTWAIT_NODE (R279): EXTWAIT node waits for an object's counter. -/
  | extwaitNode (g : Nat) (n : Nat)
  /-- SUBGRAPH_NODE (R279): SUBGRAPH node runs a nested graph. -/
  | subgraphNode (g : Nat) (n : Nat)
  /-- RENDER_NODE (R287): Render stage of a strip rasterises its carry list and meshlet list. -/
  | renderNode (g : Nat) (n : Nat) (upto : Option Nat)
  /-- SHADE_NODE (R136): Shade stage walks the strip's tiles and places quads into bins. -/
  | shadeNode (g : Nat) (n : Nat)
  /-- PUBLISH_NODE (R284): Hands the output strip to a serialiser or encoder. -/
  | publishNode (g : Nat) (n : Nat)
  /-- NODE_COMPLETE (R276): A node completes and decrements its successors' counts. -/
  | nodeComplete (g : Nat) (n : Nat)
  /-- CHAIN_INSTANTIATE (R364): The walker instantiates a registered template for a strip. -/
  | chainInstantiate (slot : Nat)
  /-- TILE_COMPLETE (R139): A shade tile completes and the cell fill is applied. -/
  | tileComplete (slot : Nat) (sq : Nat) (t : Nat)
  /-- HALO_COPY (R126): The bunting copies head, tail and edge lines into a halo slot. -/
  | haloCopy (slot : Nat) (sq : Nat)
  /-- SHADING_RATE_PREDICTION (R141): Periodic prediction that may raise the strip's shading-rate level. -/
  | shadingRatePrediction (slot : Nat) (sq : Nat)
  /-- RENDER_WINDOW_END (R130): End of the render window stops the binner and sets RENDER_CUT. -/
  | renderWindowEnd (slot : Nat) (sq : Nat)
  /-- SHADE_HARD_FINISH (R143): T_sf ends incomplete tiles and fills them. -/
  | shadeHardFinish (slot : Nat) (sq : Nat)
  /-- HARD_FINISH (R144): T_f ends a late upscale and fills the output strip. -/
  | hardFinish (slot : Nat) (sq : Nat)
  /-- SCANOUT (R144): A serialiser reaches a strip's scan time and sends it or BGO. -/
  | scanout (slot : Nat) (sq : Nat)
  /-- STREAM_OPEN (R364): TTS_SCTL OPEN checks and opens a stream. -/
  | streamOpen (slot : Nat)
  /-- STREAM_CLOSE (R364): TTS_SCTL CLOSE retires and frees a stream. -/
  | streamClose (slot : Nat)
  /-- RESERVATION_START (R368): A strip reservation interval starts and clears its cores. -/
  | reservationStart (slot : Nat) (sq : Nat) (stage : Nat)
  /-- RESERVATION_END (R368): A reservation window closes and its cores return to other work. -/
  | reservationEnd (slot : Nat) (sq : Nat) (stage : Nat)
  /-- TTS_STEP (R361): A write to TTS_STEPHI applies a signed step to the counter. -/
  | ttsStep (v : Word)
  /-- STEP_HOLD_END (R361): A negative step has been absorbed and the counter resumes. -/
  | stepHoldEnd
  /-- HIGH_PRIORITY_PREEMPT (R358): A HIGH unit waiting 50 us pre-empts lower work. -/
  | highPriorityPreempt (wg : Nat)
  /-- NORMAL_PRIORITY_PREEMPT (R358): A NORMAL unit waiting 1 ms pre-empts BATCH work. -/
  | normalPriorityPreempt (wg : Nat)
  /-- SLICE_END (R412): A time slice ends, rolling back and zeroing the outgoing front end's cores. -/
  | sliceEnd (fe : Nat)
  /-- PREEMPT_HALT (R369): A core halts a set of workgroups for pre-emption. -/
  | preemptHalt (wgs : List Nat)
  /-- PRECISE_SAVE (R371): The front end writes precise images of halted workgroups. -/
  | preciseSave (wgs : List Nat)
  /-- RESUME_PLACEMENT (R373): A saved unit is placed again and restored. -/
  | resumePlacement (wg : Nat)
  /-- CHECKPOINT (R375): A periodic or forced checkpoint of a context. -/
  | checkpoint (asid : Nat)
  /-- CHECKPOINT_COMPLETE (R375): All checkpoint writes perform and the undo log empties. -/
  | checkpointComplete (asid : Nat)
  /-- ROLLBACK (R378): The context returns to its last complete checkpoint. -/
  | rollback (asid : Nat)
  /-- WATCHDOG_FIRE (R384): The deadlock watchdog count reaches HAL_WDOG. -/
  | watchdogFire (asid : Nat)
  /-- ACCESS_FAULT (R396): A translation faults at stage 1 or stage 2. -/
  | accessFault (f : Nat)
  /-- FAULT_RECORD_WRITE (R399): A fault record is written into the ring once there is room. -/
  | faultRecordWrite (f : Nat)
  /-- PRQ_ENTRY_GRANT (R400): A waiting faulting access obtains a page-request entry. -/
  | prqEntryGrant (f : Nat)
  /-- PAGE_REQUEST_RETRY (R399): TLB_PRRESP code 0 retries the walk of a waiting record. -/
  | pageRequestRetry (fe : Nat) (token : Nat)
  /-- PAGE_REQUEST_REFUSE (R399): TLB_PRRESP code 1 refuses a waiting record. -/
  | pageRequestRefuse (fe : Nat) (token : Nat)
  /-- TLB_INV_STAGE1_RANGE (R395): TLB_INVCTL KIND 0 invalidates a stage-1 range of a context. -/
  | tlbInvStage1Range (fe : Nat) (lvl : Level) (ctx : Nat)
  /-- TLB_INV_CONTEXT (R395): TLB_INVCTL KIND 1 invalidates all of a context. -/
  | tlbInvContext (fe : Nat) (lvl : Level) (ctx : Nat)
  /-- TLB_INV_STAGE2_RANGE (R395): TLB_INVCTL KIND 2 invalidates a stage-2 range. -/
  | tlbInvStage2Range (fe : Nat) (lvl : Level)
  /-- TLB_INV_FRONT_END (R395): TLB_INVCTL KIND 3 invalidates all of the front end. -/
  | tlbInvFrontEnd (fe : Nat) (lvl : Level)
  /-- TLB_INV_COMPLETE (R395): An invalidation completes and BUSY clears. -/
  | tlbInvComplete (fe : Nat)
  /-- LOD_FLUSH (R407): Removes a context's keys from every feedback filter. -/
  | lodFlush (fe : Nat) (v : Word)
  /-- REGISTER_WRITE (R3): Write to a system register with no row of its own, under its access code. -/
  | registerWrite (req : Requester) (idx : Nat) (v : Word)
  /-- PTN_RANGE_COMMIT (R410): A write to PTN_RANGE commits or refuses a new range and colour mask. -/
  | ptnRangeCommit (f : Nat) (v : Word)
  /-- SCRUB_COMPLETE (R413): A front end's scrub finishes its clusters and colours. -/
  | scrubComplete (f : Nat)
  /-- VF_FLR (R417): Function-level reset of a VF at its reset point. -/
  | vfFlr (n : Nat)
  /-- FLR_COMPLETE (R417): The FLR of a VF completes. -/
  | flrComplete (n : Nat)
  /-- IDLE_COLLAPSE (R420): A VF idle for WAKE_IDLE starts collapse. -/
  | idleCollapse (n : Nat)
  /-- COLLAPSE (R420): A WAKE_CTL COLLAPSE write starts collapse of an idle VF. -/
  | collapse (n : Nat)
  /-- COLLAPSE_COMPLETE (R421): Halt, saves and gating finish and the VF is COLLAPSED. -/
  | collapseComplete (n : Nat)
  /-- WAKE_WAKE (R422): A wake write starts a VF's wake. -/
  | wakeWake (n : Nat)
  /-- RESERVATION_WAKE (R422): The scheduler wakes a VF ahead of a reservation interval. -/
  | reservationWake (n : Nat)
  /-- WAKE_COMPLETE (R422): A wake restores the VF to AWAKE and sends pending vectors. -/
  | wakeComplete (n : Nat)
  /-- DEEP_STATE_ENTRY (R424): The device enters the deep state. -/
  | deepStateEntry
  /-- OPP_STEP (R425): One operating-point step completes. -/
  | oppStep
  /-- HALVED_ISSUE_END (R426): The 64-cycle halved-issue period ends. -/
  | halvedIssueEnd (cl : Nat)
  /-- BBX_PERSIST_COMPLETE (R443): A black-box persist finishes and PERSIST is recorded. -/
  | bbxPersistComplete
  /-- RAY_TEST_COMPLETE (R288): A class-T ray test, or an ACCRD, writes its destinations and the T counter falls. -/
  | rayTestComplete (op : Nat)
  /-- TTS_DLCLO_READ (R360): A read of TTS_DLCLO latches the high half for the requester. -/
  | ttsDlcloRead (req : Nat)
  /-- PPS_EDGE (R360): A PPS rising edge latches the counter. -/
  | ppsEdge
  /-- REFERENCE_LOST (R361): Loss of the 10 MHz reference switches to the internal oscillator. -/
  | referenceLost
  /-- GENLOCK_EDGE (R446): A genlock rising edge latches the counter. -/
  | genlockEdge
  /-- FE_DENIED_READ (R348): Read-and-clear of FE_DENIED. -/
  | feDeniedRead (req : Requester)
  /-- FE_NOSHADOW_READ (R348): Read-and-clear of FE_NOSHADOW of a cluster. -/
  | feNoshadowRead (req : Requester) (c : Nat)
  /-- FE_NOTIFYDROP_READ (R416): Read-and-clear of FE_NOTIFYDROP of a VF. -/
  | feNotifydropRead (req : Requester) (n : Nat)
  /-- STREAM_COUNTER_READ (R362): Read-and-clear of a stream's RC counters. -/
  | streamCounterRead (req : Requester) (slot : Nat) (o : Nat)
  /-- TLB_SPECDROP_READ (R406): Read-and-clear of TLB_SPECDROP. -/
  | tlbSpecdropRead (req : Requester) (fe : Nat)
  /-- LOD_FBDROP_READ (R407): Read-and-clear of LOD_FBDROP. -/
  | lodFbdropRead (req : Requester) (fe : Nat) (c : Nat)
  /-- PRQ_WAITS_READ (R408): Read-and-clear of PRQ_WAITS. -/
  | prqWaitsRead (req : Requester) (fe : Nat)
  /-- PWR_DROOPS_READ (R425): Read-and-clear of PWR_DROOPS. -/
  | pwrDroopsRead (req : Requester)
  /-- STAGE2_RESOLVE (R397): The security core resolves a stage-2 fault and the access walks again. -/
  | stage2Resolve (f : Nat)
  /-- STAGE2_REFUSED (R397): The security core refuses a stage-2 fault. -/
  | stage2Refused (f : Nat)
  /-- DROOP_ALARM (R426): A droop detector stretches the clock and halves issue. -/
  | droopAlarm (cl : Nat)
  /-- THROTTLE_DOWN (R428): Each 1 ms over limit lowers the cap by one point. -/
  | throttleDown
  /-- THROTTLE_UP (R428): Each 10 ms under limit raises the cap by one point. -/
  | throttleUp
  /-- THERMAL_TRIP (R429): 115 C halts all cores and stops every context. -/
  | thermalTrip
  /-- COLD_RESET (R430): Power-on or PERST# reset and boot. -/
  | coldReset
  /-- WARM_RESET (R430): PF FLR or hot reset and boot. -/
  | warmReset
  /-- ATTEST (R435): Returns a signed attestation report. -/
  | attest (body : List Byte)
  /-- GET_MEAS (R436): Returns the measurements without signature. -/
  | getMeas (body : List Byte)
  /-- UPDATE (R438): Writes a firmware image chunk, verifying on the last. -/
  | update (body : List Byte)
  /-- COMMIT_SVN (R433): Raises a live rollback counter to the running SVN. -/
  | commitSvn (body : List Byte)
  /-- XFER_OWNER (R439): Transfers device ownership to a new key. -/
  | xferOwner (body : List Byte)
  /-- SET_CONFIG (R441): Writes a new configuration record. -/
  | setConfig (body : List Byte)
  /-- BBX_READ (R438): Returns 64 black-box events. -/
  | bbxRead (body : List Byte)
  /-- BBX_SAVE (R443): Persists the black box. -/
  | bbxSave (body : List Byte)
  /-- FABRIC (R451): Writes a fabric window or collective-group entry. -/
  | fabric (body : List Byte)
  /-- BMC_BBX_SAVE (R453): The board management controller requests a black-box save over I3C. -/
  | bmcBbxSave
  /-- REDUCTION_DELIVERY (R451): A fabric reduction epoch result arrives and is applied as one RDM. -/
  | reductionDelivery (pa : Nat) (ty : Ty) (v : Word)
  /-- REFERENCE_RESTORED (R360): The selected 10 MHz reference becomes present again and REFOK rises. -/
  | referenceRestored
  /-- POWER_LOSS (R440): Loss of supply, after which only flash state survives, an owner slot is whole old or whole new, and an attestation leaf may be lost. -/
  | powerLoss
  /-- UNCORRECTABLE_ERROR (R450): An uncorrectable error in management-core memory takes the device to recovery. -/
  | uncorrectableError
  /-- POSTED_WRITE (R445): A host PCIe posted write to device-homed memory performs at its home L2 slice as a store at .sys, in arrival order. -/
  | postedWrite (pa : Nat) (data : List Byte)
  /-- FABRIC_ACCESS (R424): A peer device's access over the fabric to memory homed on this device, held at its port during the deep state. -/
  | fabricAccess (pa : Nat) (data : Option (List Byte))
  /-- EVENT_MESSAGE (R449): An IEEE 1588 event message passes the timing port and is timestamped from the deadline counter. -/
  | eventMessage
  /-- FUNCTION_CORE_UNRESPONSIVE (R345): A function core stops responding and the root core marks its VF FATAL. -/
  | functionCoreUnresponsive (n : Nat)
  /-- FABRIC_PORT_FALLBACK (R451): A fabric port whose link partner or channel does not train at 112 GBd falls back to the nominal rate. -/
  | fabricPortFallback (port : Nat)
  /-- L2_EVICTION (R111): An L2 slice evicts a line by its replacement choice. -/
  | l2Eviction (line : Nat)
  /-- L1_DIRTY_TIMEOUT (R98): A line dirty for 16,384 core cycles is written back. -/
  | l1DirtyTimeout (core : Nat) (asid : Nat) (line : Nat)
  /-- L1_NARROW_TIMEOUT (R98): A narrow line filled 65,536 core cycles ago is invalidated. -/
  | l1NarrowTimeout (core : Nat) (asid : Nat) (line : Nat)
  /-- PC_GROUP_AGED (R16): A PC group ready for 64 cycles without issuing becomes aged. -/
  | pcGroupAged (gid : Nat) (pc : DWord)
  /-- BIN_TIMER_EXPIRY (R23): A bin's timer expires while it holds threads, making it due. -/
  | binTimerExpiry (core : Nat) (bin : Nat)
  /-- REORDER_TIMER_EXPIRY (R31): A REORDER round's timer expires and closes the round. -/
  | reorderTimerExpiry (wg : Nat)
deriving DecidableEq, Repr

end Sys2Proof
end

