-- ==== Sys2Proof/Machine/Operands.lean ====
section
/-! DEFINITION. The operand forms: which registers each instruction reads and writes, how many consecutive registers a field
names, how it must be aligned, and which register codes are legal there (R46 to R48, R186). One table serves legality, the
register range, readiness, shared destinations in a chain, and the operand that POISON_CONSUMED reports. -/

namespace Sys2Proof

/-- Register field codes (R48). -/
def Src.code : Src → Nat
  | .v r => r.val | .zero => 120 | .lit _ => 121 | .lane => 122 | .tid => 123 | .wg => 124

def Dst.code : Dst → Nat
  | .v r => r.val | .zero => 120

/-- One operand: `code` is the register field code; `n` the number of consecutive registers; `al` the alignment of the first;
`group` marks the positions in which codes 121 to 124 are illegal; `field` is false for an implicit operand; `lit` is the literal word. -/
structure Opnd where
  code  : Nat
  isDst : Bool
  n     : Nat
  al    : Nat
  group : Bool
  field : Bool
  lit   : Word
deriving DecidableEq, Repr

/-- The literal word of a source field; zero when it names none. -/
def Src.litWord : Src → Word
  | .lit w => w
  | _ => 0#32

/-- A 32-bit source, a 64-bit source, and a source of one or the other width. -/
def Opnd.s (a : Src) : Opnd := ⟨a.code, false, 1, 1, false, true, a.litWord⟩
def Opnd.s2 (a : Src) : Opnd := ⟨a.code, false, 2, 2, false, true, a.litWord⟩
def Opnd.sw (w : Bool) (a : Src) : Opnd := if w then .s2 a else .s a
/-- Destinations of the same widths. -/
def Opnd.d (d : Dst) : Opnd := ⟨d.code, true, 1, 1, false, true, 0#32⟩
def Opnd.d2 (d : Dst) : Opnd := ⟨d.code, true, 2, 2, false, true, 0#32⟩
def Opnd.dw (w : Bool) (d : Dst) : Opnd := if w then .d2 d else .d d
/-- The destination field read as a source as well. -/
def Opnd.ds (d : Dst) : Opnd := ⟨d.code, false, 1, 1, false, true, 0#32⟩
def Opnd.ds2 (d : Dst) : Opnd := ⟨d.code, false, 2, 2, false, true, 0#32⟩
def Opnd.dsw (w : Bool) (d : Dst) : Opnd := if w then .ds2 d else .ds d
/-- Groups of `n` consecutive registers. -/
def Opnd.sg (n al : Nat) (a : Src) : Opnd := ⟨a.code, false, n, al, true, true, a.litWord⟩
def Opnd.dg (n al : Nat) (d : Dst) : Opnd := ⟨d.code, true, n, al, true, true, 0#32⟩
/-- Registers named by no field of their own: a payload, or the link pair. -/
def Opnd.impl (first n : Nat) (isDst : Bool) : Opnd := ⟨first, isDst, n, 1, true, false, 0#32⟩

/-- Is a type 64 bits wide? -/
def Ty.wide : Ty → Bool
  | .i64 | .n64 | .f64 => true
  | _ => false

def Ty.isFloat : Ty → Bool
  | .f16 | .bf16 | .f32 | .f64 | .t8 | .t6 | .e4m3 | .e5m2 => true
  | _ => false

/-- Is a type one of the narrow formats (codes 0xC to 0xF)? -/
def Ty.narrow : Ty → Bool
  | .t8 | .t6 | .e4m3 | .e5m2 => true
  | _ => false

/-- The block length in elements. -/
def BlkLen.elems : BlkLen → Nat
  | .l32 => 32 | .l64 => 64 | .l128 => 128 | .l256 => 256

/-- Source registers per lane of CONVB, and of SCALEB (R204). -/
def convbRegs (l : BlkLen) : Nat := l.elems / 32
def scalebRegs (l : BlkLen) : Nat := max 1 (l.elems / 64)

/-- The entry register pair of an indirect target. -/
def Target.opnds : Target → List Opnd
  | .off _ => []
  | .pair a => [.s2 a]

/-- The registers of an access of a given size (R236): one, a pair, or four from a multiple of four. -/
def Size.src (z : Size) (a : Src) : Opnd :=
  match z with | .n64 => .s2 a | .x16 => .sg 4 4 a | _ => .s a
def Size.dst (z : Size) (d : Dst) : Opnd :=
  match z with | .n64 => .d2 d | .x16 => .dg 4 4 d | _ => .d d

/-- The data registers of LDLOD with element size 2^k (R239). -/
def lodDst (k : Nat) (d : Dst) : Opnd :=
  if k ≤ 2 then .d d else if k = 3 then .d2 d else .dg 4 4 d

/-- The operands of an instruction, sources in the order A, B, E, then D where it is a source, then implicit ones (R223). -/
def Instr.operands : Instr → List Opnd
  | .iadd _ d a b | .isub _ d a b | .imul _ d a b | .imulh _ d a b | .nmulh _ d a b | .imin _ d a b | .imax _ d a b
  | .nmin _ d a b | .nmax _ d a b | .and _ d a b | .or _ d a b | .xor _ d a b | .andn _ d a b | .shl _ d a b | .shr _ d a b
  | .sar _ d a b | .faddF32 _ d a b | .fsubF32 _ d a b | .fmulF32 _ d a b | .fminF32 _ d a b | .fmaxF32 _ d a b
  | .faddH2 _ d a b | .fmulH2 _ d a b | .faddB2 _ d a b | .fmulB2 _ d a b => [.s a, .s b, .d d]
  | .ima _ d a b | .isad _ d a b | .sel _ d a b | .fmaF32 _ d a b | .fmaH2 _ d a b | .fmaB2 _ d a b | .idot4 _ d a b
  | .fdot2 _ d a b => [.s a, .s b, .ds d, .d d]
  | .iadd64 _ d a b | .isub64 _ d a b | .imul64 _ d a b | .dadd _ d a b | .dmul _ d a b => [.s2 a, .s2 b, .d2 d]
  | .imaw _ d a b | .nmaw _ d a b => [.s a, .s b, .ds2 d, .d2 d]
  | .dfma _ d a b => [.s2 a, .s2 b, .ds2 d, .d2 d]
  | .tern _ d a b e _ | .bperm _ d a b e => [.s a, .s b, .s e, .d d]
  | .fsh _ d a b _ (.reg e) => [.s a, .s b, .s e, .d d]
  | .fsh _ d a b _ (.imm _) => [.s a, .s b, .d d]
  | .pcnt _ d a w | .clz _ d a w | .fclass _ d a w => [.sw w a, .d d]
  | .brev _ d a w | .mov _ d a w => [.sw w a, .dw w d]
  | .bfe _ d a _ _ _ => [.s a, .d d]
  | .bfi _ d a _ _ => [.s a, .ds d, .d d]
  | .icmp _ w _ _ a b => [.sw w a, .sw w b]
  | .fcmp _ _ _ a b => [.s a, .s b]
  | .dcmp _ _ _ a b => [.s2 a, .s2 b]
  | .fop _ d a b _ fn ty _ e =>
      let w := ty.wide
      match fn with
      | .fma | .fms => [.sw w a, .sw w b, .sw w e, .dw w d]
      | .sqrt => [.sw w a, .dw w d]
      | _ => [.sw w a, .sw w b, .dw w d]
  | .frnd _ d a _ ty _ => [.sw (ty == .f64) a, .dw (ty == .f64) d]
  | .fsf _ d a _ | .convx _ d a _ _ _ | .derx _ d a _ | .dery _ d a _ => [.s a, .d d]
  | .conv _ d a ts tt _ => [.sw ts.wide a, .dw tt.wide d]
  | .convb _ d a _ len _ e _ =>
      let n := convbRegs len
      [if n = 1 then .s a else .sg n 1 a, .dw (n == 8) d, .d e]
  | .scaleb _ d a _ len _ _ e _ =>
      let n := scalebRegs len
      [if n = 1 then .s a else .sg n 1 a, .dw (n == 4) d, .d e]
  | .movi _ d _ => [.d d]
  | .movhi _ d _ => [.ds d, .d d]
  | .movk _ d w _ => [.dw w d]
  | .srd _ d _ _ | .vote _ d _ _ | .qget _ d _ | .txctlTest _ d | .rstkDepth _ d | .sysrd _ d _ => [.d d]
  | .swz _ d a b mode _ => if mode = .idx then [.s a, .s b, .d d] else [.s a, .d d]
  | .lred _ d a ty _ _ | .lscan _ d a _ ty _ _ => [.sw ty.wide a, .dw ty.wide d]
  | .trsp _ d a _ => [.sg 8 1 a, .dg 8 1 d]
  | .qput _ a _ | .rfree _ a | .reorder _ a _ => [.s a]
  | .jmpx _ a link => [.s2 a] ++ (if link then [.impl 118 2 true] else [])
  | .call _ _ => [.impl 118 2 true]
  | .ret _ => [.impl 118 2 false]
  | .spawn _ tgt vs n => tgt.opnds ++ (if n.val = 0 then [] else [.impl vs.val n.val false])
  | .cont _ tgt n => tgt.opnds ++ (if n.val = 0 then [] else [.impl 0 n.val false])
  | .time _ d | .rstkPop _ d => [.d2 d]
  | .ld _ d a _ _ sz => [.s2 a, sz.dst d]
  | .st _ v a _ _ sz => [.s2 a, sz.src v]
  | .lsp _ d a sz => [.s a, sz.dst d]
  | .ssp _ v a sz => [.s a, sz.src v]
  | .ldlod _ d a b _ _ e sz => [.s2 a, .s2 b, lodDst sz.val d, .d e]
  | .sample _ d a b _ _ e => [.s2 a, .s2 b, .s e, .dg 5 1 d]
  | .atm _ d a b op ty _ _ e =>
      let w := ty.wide
      [.s2 a, .sw w b] ++ (if op = .cas then [.sw w e] else []) ++ [.dw w d]
  | .atms _ d a b op ty e =>
      let w := ty.wide
      [.s a, .sw w b] ++ (if op = .cas then [.sw w e] else []) ++ [.dw w d]
  | .rdm _ a b _ ty _ _ => [.s2 a, .sw ty.wide b]
  | .vbmin _ a b => [.s2 a, .s2 b]
  | .pref _ a _ => [.s2 a]
  | .monwait _ v a _ => [.s2 a, .s v]
  | .qbind _ _ a _ => [.s a]
  | .cplwait _ v a _ _ => [.s2 a, .s2 v]
  | .cpltest _ d a _ => [.s2 a, .d2 d]
  | .hoist _ _ vs b tgt n any =>
      (if any then [] else [.s b]) ++ tgt.opnds ++ (if n.val = 0 then [] else [.impl vs.val n.val false])
  | .binFlush _ tgt => tgt.opnds
  | .binCount _ d tgt => tgt.opnds ++ [.d d]
  | .rbox _ d a b => [.sg 8 1 a, .s2 b, ⟨d.code, true, 2, 1, false, true, 0#32⟩]
  | .rtri _ d a b _ => [.sg 8 1 a, .s2 b, ⟨d.code, true, 4, 1, false, true, 0#32⟩]
  | .rstkPush _ a => [.s2 a]
  | .resv _ d a b _ _ _ _ _ => [.s a, .s b, .d d]
  | .accrd _ d what fmt _ _ _ _ => [.dw (what == .elem && fmt == 0xB#4) d]
  | .seq _ a b e => [.s2 a, .s b, .s e]
  | .syswr _ v _ => [.s v]
  | _ => []

/-- Is a register code legal in its position (R47, R48)? -/
def Opnd.legal (o : Opnd) : Bool :=
  if o.code < 120 then o.code % o.al == 0
  else if o.code = 120 then true
  else !o.isDst && !o.group && o.code ≤ 124

/-- Does the operand stay below the rounded register count `a` (R46)? -/
def Opnd.inRange (a : Nat) (o : Opnd) : Bool := o.code ≥ 120 || o.code + o.n ≤ a

/-- The registers an operand names. -/
def Opnd.regs (o : Opnd) : List Nat := if o.code < 120 then upFrom o.code o.n else []

def Instr.srcs (i : Instr) : List Opnd := i.operands.filter (!·.isDst)
def Instr.dsts (i : Instr) : List Opnd := i.operands.filter (·.isDst)

/-- The destination predicate, if the instruction has one (R156). -/
def Instr.predDst : Instr → Option Pred
  | .icmp _ _ _ p _ _ | .fcmp _ _ p _ _ | .dcmp _ _ p _ _ | .plop _ p _ _ _ => if p.val = 7 then none else some p
  | _ => none

/-- The pipes (R7). -/
inductive Pipe where
  | none | i | f | x | m | c
deriving DecidableEq, Repr

/-- The literal sources of an instruction. -/
def Src.lits : Src → List Word
  | .lit w => [w]
  | _ => []

/-- Do two lists of registers share one? -/
def overlaps (a b : List Nat) : Bool := a.any fun x => b.contains x

/-- What the entries add to the field codes: combinations of fields that trap with ILLEGAL_INSTRUCTION.
DEDUCED (notes/assumptions/46.md). -/
def Instr.extraOk : Instr → Bool
  | .bfe _ _ _ _ pos len | .bfi _ _ _ pos len => pos.toNat + (if len = 0#5 then 32 else len.toNat) ≤ 32
  | .fop _ _ _ b pk fn ty _ e =>
      (ty == .f16 || ty == .bf16 || ty == .f32 || ty == .f64) && (!pk || ty == .f16 || ty == .bf16)
      && (fn == .fma || fn == .fms || e == .v 0) && (fn != .sqrt || b == .v 0)
  | .convx _ _ _ h k ty => ty.narrow && (!h || k == 0#2 || k == 2#2)
  | .convb _ d _ tt len _ e _ =>
      tt.narrow && !overlaps (Opnd.dw (convbRegs len == 8) d).regs (Opnd.d e).regs
  | .scaleb _ d _ tt len _ _ e _ =>
      tt.narrow && !overlaps (Opnd.dw (scalebRegs len == 4) d).regs (Opnd.d e).regs
  | .movk _ _ w n => !w || n.toNat % 2 == 0
  | .srd _ _ clr idx => !clr || idx == .tstat || idx == .xflags
  | .swz _ _ _ b mode n => if mode = .idx then n == 0#5 else b == .v 0
  | .lred _ _ _ ty op rnd | .lscan _ _ _ _ ty op rnd =>
      (ty == .i32 || ty == .n32 || ty == .i64 || ty == .n64 || ty == .f32 || ty == .f64)
      && (!ty.isFloat || op == .add || op == .min || op == .max)
      && (if ty.isFloat && op == .add then rnd != .dith else rnd == .rn)
  | .spawn _ _ vs n => n.val != 0 || vs.val == 0
  | .hoist _ _ vs b _ n any => (n.val != 0 || vs.val == 0) && (!any || b == .v 0)
  | .bar _ gang b => !gang || b.toNat < 4
  | .st _ _ _ _ _ sz | .ssp _ _ _ sz => sz != .i8 && sz != .i16
  | .ldlod _ d _ _ lvl lreg e sz => (!lreg || lvl == 0#4) && !overlaps (lodDst sz.val d).regs (Opnd.d e).regs
  | .atm _ _ _ _ op ty _ _ e | .atms _ _ _ _ op ty e =>
      (ty == .i32 || ty == .n32 || ty == .i64 || ty == .n64 || ty == .f32)
      && (ty != .f32 || !(op == .and || op == .or || op == .xor)) && (op == .cas || e == .v 0)
  | .rdm _ _ _ op ty _ _ =>
      (ty == .i32 || ty == .n32 || ty == .i64 || ty == .n64 || ty == .f32 || ty == .bf16 || ty == .e4m3 || ty == .e5m2)
      && (!ty.isFloat || op == .add || op == .min || op == .max)
  | .monwait _ _ _ sc | .cplwait _ _ _ _ sc | .cpltest _ _ _ sc => sc != .wg && sc != .core
  | .accrd _ _ what fmt rnd _ _ half =>
      if what = .elem then [0x4, 0x9, 0xA, 0xB, 0xC, 0xE, 0xF].contains fmt.toNat
      else fmt == 0#4 && rnd == .rn && !half
  | _ => true

end Sys2Proof
end

