-- ==== Sys2Proof/Machine/Num.lean ====
section
/-! DEFINITION. Number formats and rounding (04_number_formats.md): decoding and rounding for every type of R61, as exact
arithmetic on magnitudes. Every rounded result of the machine is formed here. -/

namespace Sys2Proof

/-- Sticky exception flags in the bit positions of XFLAGS (R57): NV 0, DZ 1, OF 2, UF 3, NX 4. -/
abbrev Flags := BitVec 5

def fNV : Flags := 1#5
def fDZ : Flags := 2#5
def fOF : Flags := 4#5
def fUF : Flags := 8#5
def fNX : Flags := 16#5

/-- A magnitude `m * 2 ^ e`; with `st` it lies strictly between that and `(m + 1) * 2 ^ e`. -/
structure Mag where
  m  : Nat
  e  : Int
  st : Bool
deriving DecidableEq, Repr

/-- A decoded value: a NaN (signalling or not), an infinity, or a finite value with its sign. -/
inductive FVal where
  | nan (sig : Bool) | inf (neg : Bool) | fin (neg : Bool) (v : Mag)
deriving DecidableEq, Repr

/-- The number `m * 2 ^ e` without sticky part. -/
def Mag.mk2 (m : Nat) (e : Int) : Mag := ⟨m, e, false⟩

def FVal.zero (neg : Bool) : FVal := .fin neg (.mk2 0 0)

def FVal.isNan : FVal → Bool
  | .nan _ => true
  | _ => false
def FVal.isSNan : FVal → Bool
  | .nan s => s
  | _ => false
def FVal.isInf : FVal → Bool
  | .inf _ => true
  | _ => false
def FVal.isZero : FVal → Bool
  | .fin _ v => v.m == 0
  | _ => false
def FVal.sign : FVal → Bool
  | .nan _ => false
  | .inf n => n
  | .fin n _ => n

/-- Exponent bits, fraction bits and bias of the binary formats (R64, R70). -/
def Ty.ew : Ty → Nat
  | .f64 => 11 | .f32 | .bf16 => 8 | .f16 | .e5m2 => 5 | .e4m3 => 4 | _ => 0
def Ty.mw : Ty → Nat
  | .f64 => 52 | .f32 => 23 | .bf16 => 7 | .f16 => 10 | .e5m2 => 2 | .e4m3 => 3 | _ => 0
def Ty.bias : Ty → Nat
  | .f64 => 1023 | .f32 | .bf16 => 127 | .f16 | .e5m2 => 15 | .e4m3 => 7 | _ => 0

/-- Width in bits (R61). -/
def Ty.width : Ty → Nat
  | .i8 | .n8 | .t8 | .e4m3 | .e5m2 => 8
  | .t6 => 6
  | .i16 | .n16 | .f16 | .bf16 => 16
  | .i32 | .n32 | .f32 => 32
  | .i64 | .n64 | .f64 => 64

def Ty.isSigned : Ty → Bool
  | .i8 | .i16 | .i32 | .i64 => true
  | _ => false

def Ty.isInt : Ty → Bool
  | .i8 | .n8 | .i16 | .n16 | .i32 | .n32 | .i64 | .n64 => true
  | _ => false

def Ty.isTapered : Ty → Bool
  | .t8 | .t6 => true
  | _ => false

/-- The code of the largest finite magnitude. -/
def Ty.maxMag : Ty → Nat
  | .f64 => 0x7FEFFFFFFFFFFFFF | .f32 => 0x7F7FFFFF | .bf16 => 0x7F7F | .f16 => 0x7BFF | .e5m2 => 0x7B | .e4m3 => 0x7E
  | .t8 => 0x7F | .t6 => 0x1F | _ => 0

/-- The canonical quiet NaN (R65). -/
def Ty.cnan : Ty → Nat
  | .f64 => 0x7FF8000000000000 | .f32 => 0x7FC00000 | .bf16 => 0x7FC0 | .f16 => 0x7E00 | .e4m3 => 0x7F | .e5m2 => 0x7E
  | .t8 => 0x80 | .t6 => 0x20 | _ => 0

/-- The value of a magnitude code of a binary format (R64, R70). -/
def binMag (t : Ty) (c : Nat) : Mag :=
  let ex := c / 2 ^ t.mw
  let f := c % 2 ^ t.mw
  if ex = 0 then .mk2 f (1 - t.bias - t.mw) else .mk2 (2 ^ t.mw + f) ((ex : Int) - t.bias - t.mw)

/-- The length of the run of bits equal to `r` from bit `i - 1` of `w` downward (R68). -/
def runLen (w : Nat) (r : Bool) : Nat → Nat
  | 0 => 0
  | i + 1 => if bitOf w i = r then runLen w r i + 1 else 0

/-- The value of a nonzero magnitude field of `n` bits of a tapered format (R68). -/
def taperMag (n c : Nat) : Mag :=
  let r := bitOf c (n - 1)
  let k := runLen c r n
  let reg : Int := if r then (k : Int) - 1 else -(k : Int)
  let rest := n - (k + 1)
  let e := if rest = 0 then 0 else c / 2 ^ (rest - 1) % 2
  let fb := rest - 1
  .mk2 (2 ^ fb + c % 2 ^ fb) (2 * reg + e - fb)

/-- The value of a magnitude code. -/
def magOf (t : Ty) (c : Nat) : Mag :=
  if t.isTapered then (if c = 0 then .mk2 0 0 else taperMag (t.width - 1) c) else binMag t c

/-- Decoding (R64 to R70). A reserved tapered code reads as a signalling NaN (R78, R202). -/
def decodeF (t : Ty) (w : Nat) : FVal :=
  let neg := bitOf w (t.width - 1)
  let c := w % 2 ^ (t.width - 1)
  if t.isTapered then
    (if c = 0 then (if neg then .nan true else .zero false) else .fin neg (magOf t c))
  else if c ≤ t.maxMag then .fin neg (binMag t c)
  else if t = .e4m3 then .nan false
  else if c % 2 ^ t.mw = 0 then .inf neg
  else .nan (t != .e5m2 && !bitOf c (t.mw - 1))

/-- Reads an integer type from the low bits of a word (R186). -/
def intOf (t : Ty) (w : Nat) : Int := if t.isSigned then signedOf t.width w else (w % 2 ^ t.width : Nat)

/-- floor(log2) of a nonzero magnitude. -/
def Mag.lg (v : Mag) : Int := (Nat.log2 v.m : Int) + v.e

/-- The dither threshold of element `i` with phase `p` (R75). -/
def dithT (i p : Nat) : Nat :=
  ((upFrom 0 7).filter fun k => bitOf ((i + p) % 128) k).foldl (fun t k => t + 2 ^ (6 - k)) 0

/-- Does rounding choose hi (R74, R75)? `odd` is the last code bit of lo; q = (num + sticky) / den; `t` the dither threshold. Called
only for inexact values. -/
def roundsUp (md : Rnd) (neg odd : Bool) (num den : Nat) (st : Bool) (t : Nat) : Bool :=
  match md with
  | .rn => 2 * num > den || (2 * num == den && (st || odd))
  | .rna => 2 * num ≥ den
  | .rz => false
  | .rd => neg
  | .ru => !neg
  | .dith => num * 128 / den + t ≥ 128

/-- `v / 2 ^ u` as floor, remainder numerator and denominator, and sticky. -/
def Mag.split (v : Mag) (u : Int) : Nat × Nat × Nat × Bool :=
  if v.e ≥ u then (v.m * 2 ^ (v.e - u).toNat, 0, 1, v.st)
  else
    let d := 2 ^ (u - v.e).toNat
    (v.m / d, v.m % d, d, v.st)

/-- Rounds a magnitude to a multiple of `2 ^ u`: the multiple, and whether that changed the value. -/
def roundAt (md : Rnd) (neg : Bool) (t : Nat) (v : Mag) (u : Int) : Nat × Bool :=
  let (q, r, d, st) := v.split u
  if r = 0 && !st then (q, false)
  else (if roundsUp md neg (q % 2 == 1) r d st t then q + 1 else q, true)

/-- The magnitude code of a binary format with unbounded upper range nearest to `v` under the mode, whether that is inexact, and
whether the result is tiny (R66, R74). -/
def roundBin (ty : Ty) (md : Rnd) (neg : Bool) (t : Nat) (v : Mag) : Nat × Bool × Bool :=
  if v.m = 0 && !v.st then (0, false, false)
  else
    let emin : Int := 1 - ty.bias
    let l := if v.m = 0 then v.e - 1 else v.lg
    let ex := max l emin
    let (q, nx) := roundAt md neg t v (ex - ty.mw)
    let tiny := l < emin && (l < emin - 1 || (roundAt md neg t v (l - ty.mw)).1 < 2 ^ (ty.mw + 1))
    ((ex - emin).toNat * 2 ^ ty.mw + q, nx, tiny)

/-- Compares magnitudes without sticky parts: is `a` at most `b`? -/
def Mag.le (a b : Mag) : Bool :=
  let u := min a.e b.e
  decide (a.m * 2 ^ (a.e - u).toNat ≤ b.m * 2 ^ (b.e - u).toNat)

def Mag.lt (a b : Mag) : Bool := !b.le a

/-- Does `v`, with its sticky part, exceed `b`? -/
def Mag.above (v b : Mag) : Bool := b.lt v || (v.st && b.le v)

/-- The largest code of a tapered format whose magnitude is at most `v`. -/
def taperFloor (ty : Ty) (v : Mag) : Nat :=
  ((upFrom 1 ty.maxMag).filter fun c => (magOf ty c).le v).foldl max 0

/-- Rounds within the range of a tapered format: code and inexactness (R74). -/
def roundTaper (ty : Ty) (md : Rnd) (neg : Bool) (t : Nat) (v : Mag) : Nat × Bool :=
  let lo := taperFloor ty v
  let a := magOf ty lo
  let b := magOf ty (lo + 1)
  let u := min v.e (min a.e b.e)
  let s (x : Mag) := x.m * 2 ^ (x.e - u).toNat
  let num := s v - s a
  if num = 0 && !v.st then (lo, false)
  else (if roundsUp md neg (lo % 2 == 1) num (s b - s a) v.st t then lo + 1 else lo, true)

/-- The smallest nonzero magnitude of a narrow format. -/
def Ty.minMag (t : Ty) : Mag := magOf t 1

/-- A sign put on a magnitude code. -/
def signed (t : Ty) (neg : Bool) (c : Nat) : Nat := if neg then 2 ^ (t.width - 1) + c else c

/-- Rounds a finite value to a floating type (R74, R77, R79 and IEEE 754-2019): code and flags. `sat` says how an overflow of a narrow
type is flagged: R77 step 4 raises OF and NX, a clamped block scale NX alone (R84). -/
def roundF (ty : Ty) (md : Rnd) (t : Nat) (neg : Bool) (v : Mag) (sat : Flags := fOF ||| fNX) : Nat × Flags :=
  if v.m = 0 && !v.st then (if ty.isTapered then 0 else signed ty neg 0, 0)
  else if ty.narrow then
    if v.above (magOf ty ty.maxMag) then (signed ty neg ty.maxMag, sat)
    else
      let half := { ty.minMag with e := ty.minMag.e - 1 }
      if v.lt half then (if ty.isTapered then 0 else signed ty neg 0, fUF ||| fNX)
      else if v.lt ty.minMag then (signed ty neg 1, fUF ||| fNX)
      else if ty.isTapered then
        let (c, nx) := roundTaper ty md neg t v
        (signed ty neg c, if nx then fNX else 0)
      else
        let (c, nx, tiny) := roundBin ty md neg t v
        (signed ty neg c, (if nx then fNX else 0) ||| (if nx && tiny then fUF else 0))
  else
    let md' := if md = .dith && v.above (magOf ty ty.maxMag) then .rn else md
    let (c, nx, tiny) := roundBin ty md' neg t v
    if c > ty.maxMag then
      let toInf := match md' with
        | .rz => false | .rd => neg | .ru => !neg | _ => true
      (signed ty neg (if toInf then ty.maxMag + 1 else ty.maxMag), fOF ||| fNX)
    else (signed ty neg c, (if nx then fNX else 0) ||| (if nx && tiny then fUF else 0))

/-- Encodes a decoded value in a floating type under a mode and dither threshold (R77 to R79). -/
def encodeF (ty : Ty) (md : Rnd) (t : Nat) (x : FVal) : Nat × Flags :=
  match x with
  | .nan s => (ty.cnan, if s then fNV else 0)
  | .inf n => if ty = .t8 || ty = .t6 || ty = .e4m3 then (signed ty n ty.maxMag, fOF ||| fNX) else (signed ty n (ty.maxMag + 1), 0)
  | .fin n v => roundF ty md t n v

/-- Rounds to an integer of the type, saturating with NV (R79). -/
def encodeI (ty : Ty) (md : Rnd) (t : Nat) (x : FVal) : Nat × Flags :=
  let lo : Int := if ty.isSigned then -(2 ^ (ty.width - 1) : Nat) else 0
  let hi : Int := if ty.isSigned then (2 ^ (ty.width - 1) : Nat) - 1 else (2 ^ ty.width : Nat) - 1
  let out (i : Int) : Nat := (i % (2 ^ 64 : Nat)).toNat
  match x with
  | .nan _ => (0, fNV)
  | .inf n => (out (if n then lo else hi), fNV)
  | .fin n v =>
      let (q, nx) := roundAt md n t v 0
      let i : Int := if n then -(q : Int) else q
      if i < lo then (out lo, fNV) else if hi < i then (out hi, fNV) else (out i, if nx then fNX else 0)

/-- Integer to integer with saturation (R63). -/
def satI (ty : Ty) (i : Int) : Nat :=
  let lo : Int := if ty.isSigned then -(2 ^ (ty.width - 1) : Nat) else 0
  let hi : Int := if ty.isSigned then (2 ^ (ty.width - 1) : Nat) - 1 else (2 ^ ty.width : Nat) - 1
  ((max lo (min hi i)) % (2 ^ 64 : Nat)).toNat

/-- An integer as a value. -/
def ofInt (i : Int) : FVal := .fin (decide (i < 0)) (.mk2 i.natAbs 0)

/-- Exact signed integer of a finite value scaled by `2 ^ u`, where `u` is at most its exponent. -/
def scaledInt (neg : Bool) (v : Mag) (u : Int) : Int :=
  let k : Nat := v.m * 2 ^ (v.e - u).toNat
  if neg then -(k : Int) else k

/-- The exact sum of finite values, with the zero sign of IEEE 754-2019 for the mode. -/
def addFin (md : Rnd) (an : Bool) (a : Mag) (bn : Bool) (b : Mag) : FVal :=
  let u := min a.e b.e
  let s := scaledInt an a u + scaledInt bn b u
  if s = 0 then
    (if a.m = 0 && b.m = 0 && an == bn then .zero an
     else .zero (md == .rd))
  else .fin (decide (s < 0)) (.mk2 s.natAbs u)

def FVal.neg : FVal → FVal
  | .nan s => .nan s
  | .inf n => .inf (!n)
  | .fin n v => .fin (!n) v

/-- NV for a signalling operand. -/
def sigNV (xs : List FVal) : Flags := if xs.any FVal.isSNan then fNV else 0

/-- Exact addition: the value before rounding, and the flags of an invalid operation (R193, IEEE 754-2019). -/
def addV (md : Rnd) (x y : FVal) : FVal × Flags :=
  if x.isNan || y.isNan then (.nan false, sigNV [x, y])
  else match x, y with
    | .inf a, .inf b => if a == b then (.inf a, 0) else (.nan false, fNV)
    | .inf a, _ => (.inf a, 0)
    | _, .inf b => (.inf b, 0)
    | .fin a v, .fin b w => (addFin md a v b w, 0)
    | _, _ => (.nan false, 0)

/-- The exact sum of several values: a NaN among them makes it NaN, and then only a signalling one is invalid; infinities of opposite sign
are invalid. DESIGN CHOICE for a quiet NaN beside opposite infinities (DESIGN CHOICE, notes/assumptions/52.md). -/
def sumV (xs : List FVal) : FVal × Flags :=
  if xs.any FVal.isNan then (.nan false, sigNV xs)
  else match xs with
    | [] => (.zero false, 0)
    | x :: ys => ys.foldl (fun (acc : FVal × Flags) y => let r := addV .rn acc.1 y; (r.1, acc.2 ||| r.2)) (x, 0)

/-- Exact multiplication. -/
def mulV (x y : FVal) : FVal × Flags :=
  if x.isNan || y.isNan then (.nan false, sigNV [x, y])
  else match x, y with
    | .fin a v, .fin b w => (.fin (a != b) (.mk2 (v.m * w.m) (v.e + w.e)), 0)
    | _, _ => if x.isZero || y.isZero then (.nan false, fNV) else (.inf (x.sign != y.sign), 0)

/-- Exact multiply-add: 0 times infinity raises NV even with a quiet NaN addend (R193). -/
def fmaV (md : Rnd) (x y z : FVal) : FVal × Flags :=
  let inv := (x.isZero && y.isInf) || (x.isInf && y.isZero)
  if x.isNan || y.isNan || z.isNan then (.nan false, sigNV [x, y, z] ||| (if inv then fNV else 0))
  else
    let p := mulV x y
    if inv then p else addV md p.1 z

/-- Division with enough quotient bits and a sticky part (R199). -/
def divV (x y : FVal) : FVal × Flags :=
  if x.isNan || y.isNan then (.nan false, sigNV [x, y])
  else match x, y with
    | .inf _, .inf _ => (.nan false, fNV)
    | .inf a, _ => (.inf (a != y.sign), 0)
    | _, .inf b => (.zero (x.sign != b), 0)
    | .fin a v, .fin b w =>
        if w.m = 0 then (if v.m = 0 then (.nan false, fNV) else (.inf (a != b), fDZ))
        else if v.m = 0 then (.zero (a != b), 0)
        else
          let k := 140 + Nat.log2 w.m
          let n := v.m * 2 ^ k
          (.fin (a != b) ⟨n / w.m, v.e - w.e - k, n % w.m != 0⟩, 0)
    | _, _ => (.nan false, 0)

/-- Integer square root by bisection on bits, `k` bits. -/
def isqrt (n : Nat) : Nat → Nat → Nat
  | 0, r => r
  | k + 1, r => if (r + 2 ^ k) * (r + 2 ^ k) ≤ n then isqrt n k (r + 2 ^ k) else isqrt n k r

/-- Square root with a sticky part (R199). -/
def sqrtV (x : FVal) : FVal × Flags :=
  match x with
  | .nan s => (.nan false, if s then fNV else 0)
  | .inf false => (.inf false, 0)
  | .inf true => (.nan false, fNV)
  | .fin n v =>
      if v.m = 0 then (.zero n, 0)
      else if n then (.nan false, fNV)
      else
        let k : Nat := 200 + (v.e % 2).toNat
        let m := v.m * 2 ^ k
        let r := isqrt m (Nat.log2 m / 2 + 1) 0
        (.fin false ⟨r, (v.e - k) / 2, r * r != m⟩, 0)

/-- Is `x` below `y`, with -0 below +0 (R194)? Neither is a NaN. -/
def FVal.ltZ (x y : FVal) : Bool :=
  match x, y with
  | .inf a, .inf b => a && !b
  | .inf a, _ => a
  | _, .inf b => !b
  | .fin a v, .fin b w =>
      if v.m = 0 && w.m = 0 then a && !b
      else
        let u := min v.e w.e
        decide (scaledInt a v u < scaledInt b w u)
  | _, _ => false

/-- Numeric order of values that are not NaNs: -0 and +0 are equal (R196). -/
def FVal.ltN (x y : FVal) : Bool := if x.isZero && y.isZero then false else x.ltZ y

/-- minimumNumber and maximumNumber (R194). -/
def minmaxV (mx : Bool) (x y : FVal) : FVal × Flags :=
  let fl := sigNV [x, y]
  if x.isNan && y.isNan then (.nan false, fl)
  else if x.isNan then (y, fl)
  else if y.isNan then (x, fl)
  else (if (if mx then y.ltZ x else x.ltZ y) then x else y, fl)

/-- One rounded operation: the exact value, rounded, with both sets of flags. -/
def finish (ty : Ty) (md : Rnd) (t : Nat) (r : FVal × Flags) : Nat × Flags :=
  let (c, f) := encodeF ty md t r.1
  (c, r.2 ||| f)

def fAdd (ty : Ty) (md : Rnd) (t a b : Nat) : Nat × Flags := finish ty md t (addV md (decodeF ty a) (decodeF ty b))
def fSub (ty : Ty) (md : Rnd) (t a b : Nat) : Nat × Flags := finish ty md t (addV md (decodeF ty a) (decodeF ty b).neg)
def fMul (ty : Ty) (md : Rnd) (t a b : Nat) : Nat × Flags := finish ty md t (mulV (decodeF ty a) (decodeF ty b))
def fFma (ty : Ty) (md : Rnd) (t a b c : Nat) : Nat × Flags :=
  finish ty md t (fmaV md (decodeF ty a) (decodeF ty b) (decodeF ty c))
def fFms (ty : Ty) (md : Rnd) (t a b c : Nat) : Nat × Flags :=
  finish ty md t (fmaV md (decodeF ty a) (decodeF ty b) (decodeF ty c).neg)
def fDiv (ty : Ty) (md : Rnd) (t a b : Nat) : Nat × Flags := finish ty md t (divV (decodeF ty a) (decodeF ty b))
def fSqrt (ty : Ty) (md : Rnd) (t a : Nat) : Nat × Flags := finish ty md t (sqrtV (decodeF ty a))
def fMinMax (mx : Bool) (ty : Ty) (a b : Nat) : Nat × Flags := finish ty .rn 0 (minmaxV mx (decodeF ty a) (decodeF ty b))

/-- A packed pair: both elements computed on their own, flags joined (R67); the dither index of element j is lane + 32 j (R76). -/
def packed (f : Nat → Nat → Nat → Nat → Nat × Flags) (lane a b c : Nat) : Nat × Flags :=
  let r0 := f (dithT lane 0) (fld a 0 16) (fld b 0 16) (fld c 0 16)
  let r1 := f (dithT (lane + 32) 0) (fld a 16 16) (fld b 16 16) (fld c 16 16)
  (r0.1 + r1.1 * 2 ^ 16, r0.2 ||| r1.2)

/-- Rounding to an integral value in the value's own format (R200). -/
def fRnd (ty : Ty) (md : Rnd) (t : Nat) (x : Bool) (a : Nat) : Nat × Flags :=
  match decodeF ty a with
  | .nan s => (ty.cnan, if s then fNV else 0)
  | .inf _ => (a % 2 ^ ty.width, 0)
  | .fin n v =>
      let (q, nx) := roundAt md n t v 0
      ((roundF ty .rn 0 n (.mk2 q 0)).1, if x && nx then fNX else 0)

/-! Special functions (R201): fixed-point values with `w` fraction bits, each within `2 ^ 16` units of the exact one. -/

/-- Sum of `t`, `t * z / d`, …: the power series whose next term comes from the last by `next k`. -/
def series (next : Nat → Int → Int) : Nat → Nat → Int → Int → Int
  | 0, _, _, s => s
  | n + 1, k, t, s => series next n (k + 1) (next k t) (s + t)

/-- atanh(1/n) and atan(1/n) by their series, with `w` bits. -/
def atanInv (alt : Bool) (w n : Nat) : Int :=
  let one : Int := (2 ^ w : Nat)
  ((upFrom 0 w).foldl (fun (p : Int × Int) k =>
      let t := p.1 / (2 * k + 1 : Nat)
      (p.1 / (n * n : Nat), if alt && k % 2 = 1 then p.2 - t else p.2 + t)) (one / n, 0)).2

def ln2Fix (w : Nat) : Int := 2 * atanInv false w 3
def piFix (w : Nat) : Int := 16 * atanInv true w 5 - 4 * atanInv true w 239

/-- e^r for 0 ≤ r < 1. -/
def expFix (w : Nat) (r : Int) : Int :=
  series (fun k t => t * r / (2 ^ w : Nat) / (k + 1 : Nat)) w 0 (2 ^ w : Nat) 0

/-- ln(1 + u) through atanh(u / (2 + u)), for 0 ≤ u < 1. -/
def lnFix (w : Nat) (u : Int) : Int :=
  let one : Int := (2 ^ w : Nat)
  let z := u * one / (2 * one + u)
  let z2 := z * z / one
  2 * ((upFrom 0 w).foldl (fun (p : Int × Int) k => (p.1 * z2 / one, p.2 + p.1 / (2 * k + 1 : Nat))) (z, 0)).2

/-- sin and cos of `y`, for 0 ≤ y < 2. -/
def sinFix (w : Nat) (y : Int) : Int :=
  series (fun k t => -(t * y / (2 ^ w : Nat) * y / (2 ^ w : Nat) / ((2 * k + 2) * (2 * k + 3) : Nat))) w 0 y 0
def cosFix (w : Nat) (y : Int) : Int :=
  series (fun k t => -(t * y / (2 ^ w : Nat) * y / (2 ^ w : Nat) / ((2 * k + 1) * (2 * k + 2) : Nat))) w 0 (2 ^ w : Nat) 0

/-- A finite f32 value as a fixed-point number (floor). -/
def toFix (w : Nat) (v : Mag) : Int := (v.split (-(w : Int))).1

/-- The sign of the function's value, its magnitude with `w` fraction bits, and a power of two that scales it. Exact results are
taken out before. -/
def sfFix (fn : SfFn) (w : Nat) (n : Bool) (v : Mag) : Bool × Int × Int :=
  let one : Int := (2 ^ w : Nat)
  match fn with
  | .lg2 =>
      let l := v.lg
      let u := toFix w { v with e := v.e - l } - one
      let r := l * one + lnFix w u * one / ln2Fix w
      (decide (r < 0), r.natAbs, 0)
  | .ex2 =>
      let x := if n then -toFix w v else toFix w v
      let k := x / one
      (false, expFix w ((x % one) * ln2Fix w / one), k)
  | .tanh =>
      let y := 2 * toFix w v
      let k := y / ln2Fix w
      let ex := expFix w (y % ln2Fix w) * 2 ^ k.toNat
      (n, (ex - one) * one / (ex + one), 0)
  | .sinpi | .cospi =>
      let r := toFix w v % (2 * one)
      let r' := if fn = .cospi then (r + one / 2) % (2 * one) else r
      let neg := decide (r' ≥ one)
      let q := r' % one
      let h := if 2 * q > one then one - q else q
      ((if fn = .cospi then neg else n != neg),
        if 4 * h > one then cosFix w ((one / 2 - h) * piFix w / one) else sinFix w (h * piFix w / one), 0)
  | _ => (false, 0, 0)

/-- Rounds once both ends of the error interval agree; else computes again with twice the bits (at most six times). -/
def sfRound (fn : SfFn) (n : Bool) (v : Mag) : Nat → Nat → Nat × Flags
  | 0, w =>
      let (s, x, k') := sfFix fn w n v
      roundF .f32 .rn 0 s ⟨x.toNat, k' - w, true⟩
  | k + 1, w =>
      let (s, x, k') := sfFix fn w n v
      let lo := roundF .f32 .rn 0 s ⟨(x - 2 ^ 20).toNat, k' - w, true⟩
      let hi := roundF .f32 .rn 0 s ⟨(x + 2 ^ 20).toNat, k' - w, true⟩
      if lo = hi then lo else sfRound fn n v k (2 * w)

/-- Is a magnitude a multiple of `2 ^ u`? -/
def Mag.multOf (v : Mag) (u : Int) : Bool := (v.split u).2.1 == 0

/-- FSF (R201). -/
def fSf (fn : SfFn) (a : Nat) : Nat × Flags :=
  match decodeF .f32 a with
  | .nan s => (Ty.f32.cnan, if s then fNV else 0)
  | .inf n => match fn with
      | .rcp => (signed .f32 n 0, 0)
      | .rsq => if n then (Ty.f32.cnan, fNV) else (0, 0)
      | .lg2 => if n then (Ty.f32.cnan, fNV) else (0x7F800000, 0)
      | .ex2 => if n then (0, 0) else (0x7F800000, 0)
      | .sinpi | .cospi => (Ty.f32.cnan, fNV)
      | .tanh => (signed .f32 n 0x3F800000, 0)
  | .fin n v =>
      match fn with
      | .rcp => finish .f32 .rn 0 (divV (.fin false (.mk2 1 0)) (.fin n v))
      | .rsq =>
          if v.m = 0 then (signed .f32 n 0x7F800000, fDZ)
          else if n then (Ty.f32.cnan, fNV)
          else
            -- 1/sqrt(x) = sqrt(2^600 / m') / 2^300 with the remainder kept in the sticky part
            let k : Nat := (v.e % 2).toNat
            let m := v.m * 2 ^ k
            let h := (v.e - k) / 2
            let z := 2 ^ 400 / m
            let r := isqrt z 201 0
            roundF .f32 .rn 0 false ⟨r, -200 - h, r * r * m != 2 ^ 400⟩
      | .lg2 =>
          if v.m = 0 then (0xFF800000, fDZ)
          else if n then (Ty.f32.cnan, fNV)
          else if v.m = 2 ^ Nat.log2 v.m then finish .f32 .rn 0 (ofInt v.lg, 0)
          else sfRound .lg2 n v 6 384
      | .ex2 =>
          if v.m = 0 then (0x3F800000, 0)
          else if v.lg ≥ 8 then roundF .f32 .rn 0 false ⟨1, if n then -400 else 400, true⟩
          else if v.multOf 0 then
            let i := scaledInt n v (min v.e 0) / 2 ^ (- min v.e 0).toNat
            roundF .f32 .rn 0 false (.mk2 1 i)
          else if v.lg < -40 then (0x3F800000, fNX)
          else sfRound .ex2 n v 6 384
      | .tanh =>
          if v.m = 0 then (signed .f32 n 0, 0)
          else if v.lg ≥ 6 then (signed .f32 n 0x3F800000, fNX)
          else sfRound .tanh n v 6 384
      | .sinpi =>
          if v.multOf 0 then (signed .f32 n 0, 0)
          else if v.multOf (-1) then
            (signed .f32 (n != ((v.split 0).1 % 2 == 1)) 0x3F800000, 0)
          else sfRound .sinpi n v 6 384
      | .cospi =>
          if v.multOf 0 then (signed .f32 ((v.split 0).1 % 2 == 1) 0x3F800000, 0)
          else if v.multOf (-1) then (0, 0)
          else if v.lg < -60 then (0x3F800000, fNX)
          else sfRound .cospi n v 6 384

/-- CONV (R202): from type `ts` to type `tt`. -/
def fConv (ts tt : Ty) (md : Rnd) (t : Nat) (a : Nat) : Nat × Flags :=
  if ts.isInt then
    (if tt.isInt then (satI tt (intOf ts a), 0) else finish tt md t (ofInt (intOf ts a), 0))
  else
    let x := decodeF ts (a % 2 ^ ts.width)
    if tt.isInt then encodeI tt md t x else encodeF tt md t x

/-- A result of a type as it stands in a register or a pair (R62, R186). -/
def regForm (t : Ty) (c : Nat) : Nat := if t.wide then c % 2 ^ 64 else c % 2 ^ 32

/-! Block conversion (R83, R84). -/

def Ty.blockEmax : Ty → Int
  | .e4m3 => 8 | .e5m2 => 15 | _ => 0

/-- The unclamped scale exponent of step 4, with the largest finite magnitude; `none` where steps 1 to 3 decide. -/
def blockMax (xs : List FVal) : Option Mag :=
  xs.foldl (fun o x => match x, o with
    | .fin _ v, none => if v.m = 0 then none else some v
    | .fin _ v, some b => if v.m = 0 then some b else if b.lt v then some v else some b
    | _, o => o) none

/-- The scale code, and whether step 4 gave a code above 254 before clamping (R83). -/
def blockScale (tt : Ty) (xs : List FVal) : Nat × Bool :=
  if xs.any FVal.isNan then (255, false)
  else match blockMax xs with
    | some m =>
        let c := m.lg - tt.blockEmax + 127
        ((max 0 (min 254 c)).toNat, decide (c > 254))
    | none => if xs.any FVal.isInf then (254, false) else (127, false)

/-- One element's code and flags under scale `c` (R84). -/
def blockElem (tt : Ty) (md : Rnd) (c : Nat) (past : Bool) (t : Nat) (x : FVal) : Nat × Flags :=
  if c = 255 then (0, if x.isSNan then fNV else 0)
  else match x with
    | .inf n => (signed tt n tt.maxMag, fOF ||| fNX)
    | .fin n v => roundF tt md t n { v with e := v.e - ((c : Int) - 127) } (if past then fOF ||| fNX else fNX)
    | .nan _ => (0, 0)

end Sys2Proof
end

