-- ==== Sys2Proof/Machine/Alu.lean ====
section
/-! DEFINITION. What each instruction of rows 0x0_ to 0x3_, and MOV, MOVI and MOVHI, computes from the values of its operands in
one lane (R190 to R206). The same functions serve the instruction itself and the replay of its derived entry (R224, R225). -/

namespace Sys2Proof

/-- A lane's computation: the lane number and the source operands in the order of `Instr.srcs`, to the result and the flags. -/
abbrev AluFn := Nat → DWord → DWord → DWord → DWord × Flags

/-- A 32-bit computation without flags. -/
def alu32 (f : Word → Word → Word → Word) : AluFn := fun _ a b c => ((f (lo32 a) (lo32 b) (lo32 c)).setWidth 64, 0)

/-- A 64-bit computation without flags. -/
def alu64 (f : DWord → DWord → DWord → DWord) : AluFn := fun _ a b c => (f a b c, 0)

/-- A float computation on codes. -/
def aluF (f : Nat → Nat → Nat → Nat → Nat × Flags) : AluFn := fun l a b c =>
  let r := f l a.toNat b.toNat c.toNat
  (BitVec.ofNat 64 r.1, r.2)

/-! Integer arithmetic (R190). -/
def fnIadd : AluFn := alu32 fun a b _ => a + b
def fnIsub : AluFn := alu32 fun a b _ => a - b
def fnImul : AluFn := alu32 fun a b _ => a * b
def fnImulh : AluFn := alu32 fun a b _ => ((a.signExtend 64 * b.signExtend 64) >>> 32).setWidth 32
def fnNmulh : AluFn := alu32 fun a b _ => ((a.setWidth 64 * b.setWidth 64) >>> 32).setWidth 32
def fnIma : AluFn := alu32 fun a b d => a * b + d
def fnImin : AluFn := alu32 fun a b _ => if a.sle b then a else b
def fnImax : AluFn := alu32 fun a b _ => if b.sle a then a else b
def fnNmin : AluFn := alu32 fun a b _ => if a ≤ b then a else b
def fnNmax : AluFn := alu32 fun a b _ => if b ≤ a then a else b

/-- The absolute difference of byte `i` of two words. -/
def byteDiff (a b : Word) (i : Nat) : Word :=
  let x := (a >>> (8 * i)) &&& 0xFF#32
  let y := (b >>> (8 * i)) &&& 0xFF#32
  if x ≤ y then y - x else x - y

def fnIsad : AluFn := alu32 fun a b d => d + byteDiff a b 0 + byteDiff a b 1 + byteDiff a b 2 + byteDiff a b 3
def fnIadd64 : AluFn := alu64 fun a b _ => a + b
def fnIsub64 : AluFn := alu64 fun a b _ => a - b
def fnImul64 : AluFn := alu64 fun a b _ => a * b
def fnImaw : AluFn := alu64 fun a b d => (lo32 a).signExtend 64 * (lo32 b).signExtend 64 + d
def fnNmaw : AluFn := alu64 fun a b d => (lo32 a).setWidth 64 * (lo32 b).setWidth 64 + d

/-! Logic, shifts and bit fields (R191, R192). -/
def fnAnd : AluFn := alu32 fun a b _ => a &&& b
def fnOr : AluFn := alu32 fun a b _ => a ||| b
def fnXor : AluFn := alu32 fun a b _ => a ^^^ b
def fnAndn : AluFn := alu32 fun a b _ => a &&& ~~~b
def fnShl : AluFn := alu32 fun a b _ => if b.toNat ≥ 32 then 0#32 else a <<< b.toNat
def fnShr : AluFn := alu32 fun a b _ => if b.toNat ≥ 32 then 0#32 else a >>> b.toNat
def fnSar : AluFn := alu32 fun a b _ => if b.toNat ≥ 32 then a.sshiftRight 31 else a.sshiftRight b.toNat
def fnSel : AluFn := alu32 fun a b d => (a &&& d) ||| (b &&& ~~~d)

/-- The word whose bits are `f 0` to `f 31`. -/
def wordBits (f : Nat → Bool) : Word := BitVec.ofNat 32 (maskOf ((upFrom 0 32).filter f))

def fnTern (tt : BitVec 8) : AluFn := alu32 fun a b e => wordBits fun i =>
  tt.getLsbD (4 * (a.getLsbD i).toNat + 2 * (b.getLsbD i).toNat + (e.getLsbD i).toNat)

/-- FSH: the 64-bit concatenation a:b shifted by `n`. -/
def funnel (dir : Bool) (n : Nat) (a b : Word) : Word :=
  let x := pairOf b a
  if dir then lo32 (x >>> n) else hi32 (x <<< n)

def fnFsh (dir : Bool) (amt : ShAmt) : AluFn := alu32 fun a b e =>
  funnel dir (match amt with | .imm n => n.toNat | .reg _ => e.toNat % 32) a b

def fnPcnt (w : Bool) : AluFn := alu64 fun a _ _ => BitVec.ofNat 64 (setBits (if w then 64 else 32) a.toNat).length
def fnClz (w : Bool) : AluFn := alu64 fun a _ _ =>
  let n := if w then 64 else 32
  let x := a.toNat % 2 ^ n
  BitVec.ofNat 64 (if x = 0 then n else n - 1 - Nat.log2 x)
def fnBrev (w : Bool) : AluFn := alu64 fun a _ _ =>
  let n := if w then 64 else 32
  BitVec.ofNat 64 (maskOf ((upFrom 0 n).filter fun i => a.getLsbD (n - 1 - i)))

/-- LEN 0 means 32 (R192). -/
def fieldLen (len : BitVec 5) : Nat := if len = 0#5 then 32 else len.toNat

def fnBfe (sx : Bool) (pos len : BitVec 5) : AluFn := alu32 fun a _ _ =>
  let f := fld a.toNat pos.toNat (fieldLen len)
  if sx then BitVec.ofInt 32 (signedOf (fieldLen len) f) else BitVec.ofNat 32 f
def fnBfi (pos len : BitVec 5) : AluFn := alu32 fun a d _ =>
  let m : Word := BitVec.ofNat 32 ((2 ^ fieldLen len - 1) * 2 ^ pos.toNat)
  (d &&& ~~~m) ||| ((a <<< pos.toNat) &&& m)

/-- Byte `i` of BPERM's result. -/
def bpermByte (a b e : Word) (i : Nat) : Nat :=
  let s := fld e.toNat (4 * i) 4
  let y := fld (pairOf a b).toNat (8 * (s % 8)) 8
  if s ≥ 8 then (if y ≥ 128 then 0xFF else 0) else y

def fnBperm : AluFn := alu32 fun a b e =>
  BitVec.ofNat 32 (bpermByte a b e 0 + 2 ^ 8 * bpermByte a b e 1 + 2 ^ 16 * bpermByte a b e 2 + 2 ^ 24 * bpermByte a b e 3)

/-! Float arithmetic (R193, R194): rounding to nearest even. -/
def fnFaddF32 : AluFn := aluF fun _ a b _ => fAdd .f32 .rn 0 a b
def fnFsubF32 : AluFn := aluF fun _ a b _ => fSub .f32 .rn 0 a b
def fnFmulF32 : AluFn := aluF fun _ a b _ => fMul .f32 .rn 0 a b
def fnFmaF32 : AluFn := aluF fun _ a b c => fFma .f32 .rn 0 a b c
def fnFminF32 : AluFn := aluF fun _ a b _ => fMinMax false .f32 a b
def fnFmaxF32 : AluFn := aluF fun _ a b _ => fMinMax true .f32 a b
def fnFaddH2 : AluFn := aluF (packed fun t a b _ => fAdd .f16 .rn t a b)
def fnFmulH2 : AluFn := aluF (packed fun t a b _ => fMul .f16 .rn t a b)
def fnFmaH2 : AluFn := aluF (packed fun t a b c => fFma .f16 .rn t a b c)
def fnFaddB2 : AluFn := aluF (packed fun t a b _ => fAdd .bf16 .rn t a b)
def fnFmulB2 : AluFn := aluF (packed fun t a b _ => fMul .bf16 .rn t a b)
def fnFmaB2 : AluFn := aluF (packed fun t a b c => fFma .bf16 .rn t a b c)
def fnDadd : AluFn := aluF fun _ a b _ => fAdd .f64 .rn 0 a b
def fnDmul : AluFn := aluF fun _ a b _ => fMul .f64 .rn 0 a b
def fnDfma : AluFn := aluF fun _ a b c => fFma .f64 .rn 0 a b c

/-- The class mask of R198. -/
def classOf (ty : Ty) (w : Nat) : Nat :=
  match decodeF ty w with
  | .nan s => if s then 1 else 2
  | .inf n => if n then 4 else 512
  | .fin n v =>
      let sub := fld w ty.mw ty.ew == 0
      if v.m = 0 then (if n then 32 else 64)
      else if sub then (if n then 16 else 128)
      else (if n then 8 else 256)

def fnFclass (w : Bool) : AluFn := aluF fun _ a _ _ => (classOf (if w then .f64 else .f32) a, 0)

/-- One FOP operation at a type (R199). -/
def fopOne (fn : FopFn) (ty : Ty) (md : Rnd) (t a b c : Nat) : Nat × Flags :=
  match fn with
  | .add => fAdd ty md t a b
  | .sub => fSub ty md t a b
  | .mul => fMul ty md t a b
  | .fma => fFma ty md t a b c
  | .fms => fFms ty md t a b c
  | .div => fDiv ty md t a b
  | .sqrt => fSqrt ty md t a
  | .min => fMinMax false ty a b
  | .max => fMinMax true ty a b

def fnFop (pk : Bool) (fn : FopFn) (ty : Ty) (md : Rnd) : AluFn := aluF fun l a b c =>
  if pk then packed (fopOne fn ty md) l a b c else fopOne fn ty md (dithT l 0) a b c

def fnFrnd (x : Bool) (ty : FrndTy) (md : Rnd) : AluFn := aluF fun l a b c =>
  match ty with
  | .f32 => fRnd .f32 md (dithT l 0) x a
  | .f64 => fRnd .f64 md (dithT l 0) x a
  | .h2 => packed (fun t a _ _ => fRnd .f16 md t x a) l a b c
  | .b2 => packed (fun t a _ _ => fRnd .bf16 md t x a) l a b c

def fnFsf (fn : SfFn) : AluFn := aluF fun _ a _ _ => fSf fn (a % 2 ^ 32)

def fnConv (ts tt : Ty) (md : Rnd) : AluFn := aluF fun l a _ _ =>
  let r := fConv ts tt md (dithT l 0) a
  (regForm tt r.1, r.2)

def fnConvx (h : Bool) (k : BitVec 2) (ty : Ty) : AluFn := aluF fun _ a _ _ =>
  if h then
    let r0 := encodeF .f16 .rn 0 (decodeF ty (fld a (8 * k.toNat) 8))
    let r1 := encodeF .f16 .rn 0 (decodeF ty (fld a (8 * k.toNat + 8) 8))
    (r0.1 + 2 ^ 16 * r1.1, r0.2 ||| r1.2)
  else encodeF .f32 .rn 0 (decodeF ty (fld a (8 * k.toNat) 8))

/-! Dot products (R205). -/
def sbyte (a : Word) (i : Nat) : Word := ((a >>> (8 * i)).setWidth 8).signExtend 32
def fnIdot4 : AluFn := alu32 fun a b d =>
  d + sbyte a 0 * sbyte b 0 + sbyte a 1 * sbyte b 1 + sbyte a 2 * sbyte b 2 + sbyte a 3 * sbyte b 3

/-- FDOT2: d + a0 b0 + a1 b1 exactly, rounded once. Both invalid products and signalling operands raise NV, whatever the others. -/
def fdot2 (a b d : Nat) : Nat × Flags :=
  let a0 := decodeF .f16 (fld a 0 16); let a1 := decodeF .f16 (fld a 16 16)
  let b0 := decodeF .f16 (fld b 0 16); let b1 := decodeF .f16 (fld b 16 16)
  let x := decodeF .f32 d
  let p0 := mulV a0 b0; let p1 := mulV a1 b1
  let r := sumV [x, p0.1, p1.1]
  finish .f32 .rn 0 (r.1, sigNV [a0, a1, b0, b1, x] ||| p0.2 ||| p1.2 ||| r.2)

def fnFdot2 : AluFn := aluF fun _ a b d => fdot2 a b d

/-! Moves (R206). -/
def fnMov (w : Bool) : AluFn := alu64 fun a _ _ => if w then a else (lo32 a).setWidth 64
def fnMovi (imm : BitVec 14) : AluFn := alu32 fun _ _ _ => imm.signExtend 32
def fnMovhi (imm : BitVec 14) : AluFn := alu32 fun d _ _ => (imm.setWidth 32 <<< 18) ||| (d &&& 0x3FFFF#32)

/-! Compares (R195 to R197). -/
def icmpTrue (w : Bool) (c : ICond) (a b : DWord) : Bool :=
  let n := if w then 64 else 32
  let x := a.toNat % 2 ^ n
  let y := b.toNat % 2 ^ n
  match c with
  | .eq => x == y
  | .ne => x != y
  | .lt => decide (signedOf n x < signedOf n y)
  | .le => decide (signedOf n x ≤ signedOf n y)
  | .ltu => decide (x < y)
  | .leu => decide (x ≤ y)
  | .tst => x &&& y != 0
  | .ntst => x &&& y == 0

def fcmpTrue (ty : Ty) (c : FCond) (a b : Nat) : Bool × Flags :=
  let x := decodeF ty a
  let y := decodeF ty b
  let un := x.isNan || y.isNan
  let lt := !un && x.ltN y
  let gt := !un && y.ltN x
  let eq := !un && !lt && !gt
  let r := match c with
    | .eq => eq | .ne => !eq | .lt => lt | .le => lt || eq | .gt => gt | .ge => gt || eq | .ord => !un | .un => un
  let quiet := match c with
    | .lt | .le | .gt | .ge => true
    | _ => false
  (r, if x.isSNan || y.isSNan || (quiet && un) then fNV else 0)

/-- The computation of an instruction whose poisoned sources make a derived entry (R224); CONVB and SCALEB combine lanes and are not
among them. -/
def Instr.aluFn : Instr → Option AluFn
  | .iadd .. => some fnIadd | .isub .. => some fnIsub | .imul .. => some fnImul | .imulh .. => some fnImulh
  | .nmulh .. => some fnNmulh | .ima .. => some fnIma | .imin .. => some fnImin | .imax .. => some fnImax
  | .nmin .. => some fnNmin | .nmax .. => some fnNmax | .isad .. => some fnIsad | .iadd64 .. => some fnIadd64
  | .isub64 .. => some fnIsub64 | .imul64 .. => some fnImul64 | .imaw .. => some fnImaw | .nmaw .. => some fnNmaw
  | .and .. => some fnAnd | .or .. => some fnOr | .xor .. => some fnXor | .andn .. => some fnAndn | .shl .. => some fnShl
  | .shr .. => some fnShr | .sar .. => some fnSar | .sel .. => some fnSel | .tern _ _ _ _ _ tt => some (fnTern tt)
  | .fsh _ _ _ _ dir amt => some (fnFsh dir amt) | .pcnt _ _ _ w => some (fnPcnt w) | .clz _ _ _ w => some (fnClz w)
  | .brev _ _ _ w => some (fnBrev w) | .bfe _ _ _ sx pos len => some (fnBfe sx pos len)
  | .bfi _ _ _ pos len => some (fnBfi pos len) | .bperm .. => some fnBperm
  | .faddF32 .. => some fnFaddF32 | .fsubF32 .. => some fnFsubF32 | .fmulF32 .. => some fnFmulF32
  | .fmaF32 .. => some fnFmaF32 | .fminF32 .. => some fnFminF32 | .fmaxF32 .. => some fnFmaxF32
  | .faddH2 .. => some fnFaddH2 | .fmulH2 .. => some fnFmulH2 | .fmaH2 .. => some fnFmaH2
  | .faddB2 .. => some fnFaddB2 | .fmulB2 .. => some fnFmulB2 | .fmaB2 .. => some fnFmaB2
  | .dadd .. => some fnDadd | .dmul .. => some fnDmul | .dfma .. => some fnDfma
  | .fclass _ _ _ w => some (fnFclass w) | .fop _ _ _ _ pk fn ty md _ => some (fnFop pk fn ty md)
  | .frnd _ _ _ x ty md => some (fnFrnd x ty md) | .fsf _ _ _ fn => some (fnFsf fn)
  | .conv _ _ _ ts tt md => some (fnConv ts tt md) | .convx _ _ _ h k ty => some (fnConvx h k ty)
  | .idot4 .. => some fnIdot4 | .fdot2 .. => some fnFdot2
  | .mov _ _ _ w => some (fnMov w) | .movi _ _ imm => some (fnMovi imm) | .movhi _ _ imm => some (fnMovhi imm)
  | _ => none

end Sys2Proof
end

