-- ==== Sys2Proof/Config.lean ====
section
/-! DEFINITION. What the spec leaves open and this model keeps free: opaque values without a body, so that no proof can see one
(notes/assumptions/1.md), and the functions that the spec takes from other documents (notes/assumptions/5.md). -/

namespace Sys2Proof.Config

/-- The value found under a poison bit, the n-th time one is needed (R50: the spec gives the bit, not the value).
DESIGN CHOICE (notes/assumptions/1.md). -/
opaque poisonWord : Nat → Word

/-- How far the deadline counter, in units of 2^-32 s, moves in the n-th step (R235, R360). DESIGN CHOICE (notes/assumptions/7.md). -/
opaque dlcTicks : Nat → Nat

/-- How many cycles core `c` receives in step `n` (R55). DESIGN CHOICE (notes/assumptions/7.md). -/
opaque coreCycles : Nat → Nat → Nat

/-- SHAKE256 with an output of `n` bytes (R434, defined outside the spec). DESIGN CHOICE (notes/assumptions/5.md). -/
opaque shake256 : List Byte → (n : Nat) → Vector Byte n

/-- XMSS signing with a leaf of the attestation key, and verification (R433, R435, RFC 8391, defined outside the spec). -/
opaque xmssSign : Nat → List Byte → Vector Byte 2820
opaque xmssVerify : List Byte → List Byte → List Byte → Bool

/-- What a configuration record says (R441: the spec names its parts and gives no layout): whether it is whole and provides every
core and package, its VERSION, the maker public key, the device-identity digest, the rollback floor of a KIND, the bytes it signs and
its signature. DESIGN CHOICE (notes/assumptions/5.md). -/
opaque cfgWhole : List Byte → Bool
opaque cfgVersion : List Byte → Nat
opaque cfgMaker : List Byte → List Byte
opaque cfgIdentity : List Byte → List Byte
opaque cfgFloor : List Byte → Nat → Nat
opaque cfgSigned : List Byte → List Byte
opaque cfgSig : List Byte → List Byte

/-- The digest of the maker key held in mask ROM (R433), and the default owner key of manufacture (R439). -/
opaque romDigest : List Byte
opaque defaultOwner : List Byte

/-- The CODE of a RESET event for each row of R430's table (R442). DEDUCED (notes/assumptions/26.md). -/
opaque resetCode : Nat → Nat

/-- The address of the first packet and of the trap handler of a firmware image, in the private memory of its core (R9, R432: the spec gives
an image a body of code and data and no layout of it). DESIGN CHOICE (notes/assumptions/51.md). -/
opaque fwEntry : List Byte → DWord
opaque fwTrap : List Byte → DWord

/-- The vendor ID that the PF reports in its configuration space (R437: the spec gives no value). DESIGN CHOICE (notes/assumptions/5.md). -/
opaque vendorId : Nat

/-- The AV1 bytes an encoder makes of a strip (R448, defined outside the spec). -/
opaque av1Encode : List Byte → List Byte

/-- The n-th value read from a source that the spec names but does not fix: sensors, the device's unique secrets and identity.
DESIGN CHOICE (notes/assumptions/1.md). -/
opaque freeWord : Nat → Word

/-- The L2 slice, named by its cluster, that homes a line (R99: the spec gives no rule). -/
opaque sliceOf : Nat → Nat

end Sys2Proof.Config
end

