-- ==== Sys2Proof/Machine/State.lean ====
section
/-! DEFINITION. The state of the machine, as plain data: threads and lane groups, workgroups and launches, the matrix path, memory
and its caches, translation, engines and graphs, strips, system registers, power and the management complex (INVENTORY.md). -/

namespace Sys2Proof.Machine

/-- Stops of the machine. `stuck`: an event names a record that does not exist; raised by nobody (every meaning takes such a step
as no step). Safe. -/
inductive Fault where
  | stuck
deriving DecidableEq, Repr

/-- Refusals. `notModelled`: an instruction that has no meaning yet, by its mnemonic; raised by the dispatch alone. Safe. -/
inductive Refusal where
  | notModelled (mnemonic : String)
deriving DecidableEq, Repr

/-- A sparse map: keys strictly rising, and no entry holding the default value. -/
abbrev SMap (α : Type) := List (Nat × α)

/-! ## Threads -/

/-- A poison mark (R50, R224): clean; owned by a log entry, of whose value it takes word `k`; or unrecoverable. -/
inductive Mark where
  | clean | owned (e : Nat) (k : Nat) | lost
deriving DecidableEq, Repr

/-- A v register with its poison mark (R46, R50). -/
structure Reg where
  val  : Word
  mark : Mark
deriving DecidableEq, Repr

/-- REPST (R58). -/
structure Rep where
  active : Bool
  total  : Nat
  done   : Nat
  sd     : Nat
  sa     : Nat
  sb     : Nat
deriving DecidableEq, Repr

def Rep.none : Rep := ⟨false, 0, 0, 0, 0, 0⟩

/-- TSTAT (R56). -/
structure TStat where
  conflicts : Nat
  abort     : Nat
  irrev     : Bool
  intx      : Bool
  monFull   : Bool
  degraded  : Bool
  skipped   : Bool
deriving DecidableEq, Repr

def TStat.zero : TStat := ⟨0, 0, false, false, false, false, false⟩

/-- The trap registers (R223). -/
structure TrapRegs where
  xpc   : DWord
  inh   : Bool
  rslot : Nat
  oslot : Nat
  cause : Nat
  code  : Nat
  xaddr : DWord
  xrep  : Rep
deriving DecidableEq, Repr

def TrapRegs.zero : TrapRegs := ⟨0, false, 0, 0, 0, 0, 0, .none⟩

/-- One lane's access: address pair, a second pair (coordinates, a node address), the data words, the comparand, the place of a local
access (workgroup, operand buffer, offset); whether the thread issued it in a transaction, whether it waits behind another access,
the fault it waits for, the results of an access that has performed and is not yet complete, the thread's tile (R139), whether the
address was poisoned where that makes the result poisoned (R50), and of the issuing thread whether it is a helper lane (R138), its id and the
index of its workgroup (R398), which an access keeps when the thread has ended. -/
structure LaneAcc where
  uid   : Nat
  lane  : Nat
  addr  : DWord
  addr2 : DWord
  data  : List Word
  cmp   : DWord
  loc   : Option (Nat × Bool × Nat)
  tx    : Bool
  held  : Bool
  fault : Option Nat
  ready : Option (List (Dst × List Word))
  tile  : Option Nat
  pois  : Bool
  helper : Bool
  tid   : Word
  wgIx  : Word
deriving DecidableEq, Repr

/-- A source of a derived entry: a clean word, or word `k` of the value of entry `e` (R224). -/
inductive LogSrc where
  | val (w : Word) | ent (e : Nat) (k : Nat)
deriving DecidableEq, Repr

inductive LogKind where
  | access (a : LaneAcc) (store : Bool)
  | derived (lane : Nat) (srcs : List (List LogSrc))
deriving DecidableEq, Repr

/-- A replay log entry (R224). -/
structure LogEntry where
  id    : Nat
  instr : Instr
  kind  : LogKind
deriving DecidableEq, Repr

/-- A line touched by a transaction (R113): virtual and physical line address, bytes, and for the write set the written bytes. -/
structure TxLine where
  va   : Nat
  pa   : Nat
  mask : Nat
  data : List Byte
deriving DecidableEq, Repr

/-- An open transaction (R113, R247). -/
structure Tx where
  abortTo : DWord
  reads   : List TxLine
  writes  : List TxLine
deriving DecidableEq, Repr

/-- A barrier: of a workgroup, of a gang, or an entry of a launch's sync-group table (R35, R37, R40). -/
inductive BarKey where
  | wg (id b : Nat) | gang (id b : Nat) | group (launch g : Nat)
deriving DecidableEq, Repr

/-- Where a thread is parked inside an instruction it has issued (R13). A thread that waits before issue is not ready instead. The waits
on memory keep the slot of their word and the moment of their last read. -/
inductive Park where
  | bar (k : BarKey)
  | reorder (key n : Nat) (arrived : Bool) (at' : DWord)
  | mon (va pa : Nat) (want : Word) (sc : Scope) (slot last : Nat)
  | cpl (va pa : Nat) (want : DWord) (sc : Scope) (ext : Bool) (slot last : Nat)
  | held (va : Nat) (want : DWord) (i : Instr) (slot : Nat)
  | txend
  | debug
deriving DecidableEq, Repr

/-- A trap to be taken before the thread's next chain: FP_EXCEPTION with the raising instruction's address and slot (R57), or
MEM_FAULT with the access address (R224). -/
structure Pend where
  cause : Nat
  oslot : Nat
  xaddr : DWord
deriving DecidableEq, Repr

/-- A thread (R12, R59). `uid` is the model's name for it, `lastIss` the step in which it last issued (R17), `yields` one more than the
selections for which its PC group still ranks last (R231). -/
structure Thread where
  uid     : Nat
  wg      : Nat
  gid     : Nat
  lane    : Nat
  tid     : Word
  pc      : DWord
  regs    : Vector Reg 120
  preds   : BitVec 7
  cntL    : Nat
  cntS    : Nat
  cntC    : Nat
  cntT    : Nat
  logw    : Nat
  rep     : Rep
  xfl     : BitVec 5
  st      : TStat
  trap    : TrapRegs
  log     : List LogEntry
  tx      : Option Tx
  park    : Option Park
  pend    : List Pend
  cmds    : List (Nat × List Word)
  pixel   : Bool
  helper  : Bool
  tile    : Option Nat
  yields  : Nat
  lastIss : Nat
deriving DecidableEq, Repr

/-- A lane group (R15): its core, scheduler and workgroup. Its lanes are the threads that name it. -/
structure LaneGroup where
  id    : Nat
  core  : Nat
  sched : Nat
  wg    : Nat
  aged  : List DWord
deriving DecidableEq, Repr

/-- The issuing chain (R17, R54): its PC group as it stood before the chain, the address of its first word, the address after it,
the slot of the instruction being executed, lanes whose instructions are muted except at the slot where they trap, the lanes that
trapped so far with their slots, and the lanes that turn out not to be ready (R13). -/
structure Issue where
  core    : Nat
  gid     : Nat
  lanes   : List Thread
  pc      : DWord
  next    : DWord
  slot    : Nat
  muted   : List (Nat × Nat)
  trapped : List (Nat × Nat)
  retried : List Nat
deriving DecidableEq, Repr

/-! ## Bins, rings, workgroups -/

/-- What a created thread starts with: payload words with their poison, entry, thread id, pixel, helper and tile (R25). `empty` is an
empty quad position. -/
structure Seed where
  empty   : Bool
  entry   : DWord
  tid     : Word
  payload : List (Word × Bool)
  origin  : Nat
  pixel   : Bool
  helper  : Bool
  tile    : Option Nat
deriving DecidableEq, Repr

/-- A bin (R22, R23): number, key (workgroup, entry, quad), its place in the order of opening, the moment at which its timer started, the
units placed, whether it is due and the moment at which it became so. -/
structure Bin where
  core  : Nat
  num   : Nat
  wg    : Nat
  entry : DWord
  quad  : Bool
  opened : Nat
  since : Nat
  lanes : List Seed
  due   : Option Nat
deriving DecidableEq, Repr

/-- A barrier generation (R35, R312): expected and arrived threads, the expected ones that still stand in a bin or a ring, by workgroup and
thread id (R13), and whether the sequencer is expected and has arrived. -/
structure Gen where
  key      : BarKey
  expected : List Nat
  seeds    : List (Nat × Word)
  arrived  : List Nat
  seqIn    : Bool
  seqHere  : Bool
deriving DecidableEq, Repr

/-- A queue binding (R52, R254). `buf` holds the buffered words with the uid of the thread that pushed each. -/
structure QBind where
  port : Port
  arg  : Nat
  buf  : List (Nat × Word)
deriving DecidableEq, Repr

def QBind.none : QBind := ⟨.unbound, 0, []⟩

/-! ## The matrix path -/

/-- A reservation record (R295). -/
structure Resv where
  id    : Nat
  base  : Nat
  count : Nat
  fmt   : ResFmt
  bl    : BlkLen
  sc    : Bool
  rl    : Nat
  soff  : Nat
  ten   : Bool
  ph    : Nat
deriving DecidableEq, Repr

/-- A BFP48 element: finite with its mantissa, or special (R304). -/
inductive Bfp where
  | fin (m : Int) | pinf | ninf | nan
deriving DecidableEq, Repr

/-- A row of a tile: EMPTY, E and OVF, the BFP48 columns, and the values of the other modes as bit patterns (R304). -/
structure TileRow where
  empty : Bool
  e     : Int
  ovf   : Bool
  cols  : List Bfp
  vals  : List DWord
deriving DecidableEq, Repr

/-- An open loop: address after the MLOOP, address of its end, iterations left, saved index (R322). -/
structure Loop where
  start : Nat
  stop  : Nat
  left  : Nat
  saved : Nat
deriving DecidableEq, Repr

/-- An arrival at a tile port (R324): the member and the workgroup that sent it, its instruction with the loop index, the word offset and the
open loops at which it was executed, and the reservation records that it read there (R298). -/
structure Arrival where
  member : Nat
  wg     : Nat
  instr  : Instr
  idx    : Nat
  place  : Nat
  loops  : List Loop
  resv   : List Resv
deriving DecidableEq, Repr

/-- A tile (R304, R325). `mask` is the contributor set of ordered mode, `pos` the step position: members already applied in the step. -/
structure Tile where
  mode    : TileMode
  rows    : List TileRow
  rcnt    : Nat
  flush   : Nat
  ordered : Bool
  mask    : Nat
  pos     : List Nat
  waiting : List Arrival
  offReq  : Bool
deriving DecidableEq, Repr

/-- A queued stream (R310), with the thread that issued it, its id (R398) included. -/
structure Stream where
  va   : Nat
  mask : Nat
  par  : Word
  uid  : Nat
  tid  : Word
deriving DecidableEq, Repr

inductive SeqState where
  | idle | running | stalled | trapped
deriving DecidableEq, Repr

/-- A matrix sequencer (R310 to R316, R326) with its tiles and weight-buffer region. -/
structure Seq where
  slot  : Nat
  st    : SeqState
  queue : List Stream
  cur   : Option Stream
  pc    : Nat
  loops : List Loop
  idx   : Nat
  flags : BitVec 5
  cause : Nat
  stallBar : Option (Nat × Bool)
  wait  : Bool
  fault : Option Nat
  tiles : List Tile
  wbuf  : SMap Byte
  mail  : List Word
  drop  : Bool
deriving DecidableEq, Repr

/-- A REORDER round (R31): its count, the moment at which its timer started, the arrived threads with their keys, in order. -/
structure Round where
  n       : Nat
  since   : Nat
  arrived : List (Nat × Nat)
deriving DecidableEq, Repr

inductive WgState where
  | waiting | resident | halted | saved | done
deriving DecidableEq, Repr

/-- A workgroup (R33). -/
structure Wg where
  id       : Nat
  index    : Nat
  launch   : Nat
  core     : Nat
  state    : WgState
  base     : Nat
  spad     : SMap Byte
  obase    : Nat
  obuf     : SMap Byte
  resv     : List Resv
  queues   : Vector QBind 16
  spawnCt  : Word
  ringRd   : Nat
  ringWr   : Nat
  ringOk   : Nat
  ring     : List (List Seed)
  paused   : Bool
  round    : Option Round
  seq      : Option Seq
  gang     : Option (Nat × Nat)
  cplWords : List Word
  opened   : Nat
  since    : Nat
deriving DecidableEq, Repr

/-- One entry of a sync-group table (R38). -/
structure SyncGroup where
  index   : Nat
  members : List Nat
  co      : Bool
deriving DecidableEq, Repr

/-- Priorities of queues (R351), highest first. -/
inductive Prio where
  | strip | high | normal | batch
deriving DecidableEq, Repr

/-- A launch: the kernel's declarations, the node that made it and what it carries (R277, R278). -/
structure Launch where
  id       : Nat
  asid     : Nat
  level    : Level
  regs     : Nat
  wgsize   : Nat
  scratch  : Nat
  gangSize : Nat
  rstack   : Nat
  binTimer : Nat
  obuf     : Nat
  ensign   : Bool
  isMatrix : Bool
  consts   : List Word
  trap     : Option DWord
  groups   : List SyncGroup
  entry    : DWord
  code     : Nat × Nat
  cring    : Nat
  crcap    : Nat
  prio     : Prio
  graph    : Nat
  node     : Nat
  shade    : Option (Nat × Nat)
  placed   : Bool
  sysScope : Bool
deriving DecidableEq, Repr

/-! ## Memory, caches and translation -/

/-- Memory by the address of each byte's home: device physical addresses as they are, host memory from 2^64 on by PCIe address, peer
memory from 2^66 on by device number and its physical address (R390, R451). In canonical form: addresses strictly rising and no listed byte zero. -/
abbrev Mem := List Host.Cell

/-- An L1 line (R98, R392): core, address space, virtual and physical line, write grant, scope tag, dirty bytes, the core's cycle counts at
which it was filled and at which it became dirty, data. -/
structure L1Line where
  core  : Nat
  asid  : Nat
  va    : Nat
  pa    : Nat
  wr    : Bool
  sc    : Scope
  dirty : Nat
  filledAt : Nat
  dirtyAt : Nat
  data  : List Byte
deriving DecidableEq, Repr

/-- An L2 line with the colour of its fill (R8, R411). Its bytes stand in memory: the L2 is the point of coherence of its home. -/
structure L2Line where
  line   : Nat
  colour : Nat
deriving DecidableEq, Repr

/-- An instruction cache line of a launch (R7, R158), with the key of its first byte's home. -/
structure ILine where
  core   : Nat
  launch : Nat
  va     : Nat
  pa     : Nat
  data   : List Byte
deriving DecidableEq, Repr

/-- A remote data cache line (R100), with the address spaces that have used it. -/
structure RdcLine where
  asids : List Nat
  pa    : Nat
  dirty : Nat
  data  : List Byte
deriving DecidableEq, Repr

/-- A fabric window (R451): 0 none, 1 peer memory, 2 reduction. -/
structure FabWin where
  kind  : Nat
  dev   : Nat
  base  : Nat
  len   : Nat
  ty    : Ty
  count : Nat
deriving DecidableEq, Repr

def FabWin.none : FabWin := ⟨0, 0, 0, 0, .f32, 0⟩

/-- An RDM shadow (R111): line, element format, binary32 elements. -/
structure Shadow where
  line  : Nat
  ty    : Ty
  elems : List Nat
deriving DecidableEq, Repr

/-- A cluster TLB entry (R391): page of 2^`bits` bytes, its physical page, what both stages grant, and whether D is already set. -/
structure TlbEntry where
  cluster : Nat
  asid    : Nat
  bits    : Nat
  va      : Nat
  ia      : Nat
  pa      : Nat
  r       : Bool
  w       : Bool
  x       : Bool
  d       : Bool
deriving DecidableEq, Repr

/-- The counter classes of accesses (R219): loads, stores, and class T. -/
inductive OpClass where
  | l | s | t
deriving DecidableEq, Repr

/-- An operation in flight (R53, R219): its instruction and workgroup, its class, the slices that have counted it as an RDM without a
shadow (R111), and its lanes' accesses. -/
structure Op where
  id    : Nat
  instr : Instr
  core  : Nat
  wg    : Nat
  asid  : Nat
  cls   : OpClass
  slot  : Nat
  counted : List Nat
  lanes : List LaneAcc
deriving DecidableEq, Repr

/-- Who made a faulting access (R397, R461): an operation, the read of a wait or of a replay with its instruction, a fetch, a command, a sequencer, a front-end read of a graph, of
a queue entry, an access of a node, a device access on the context's behalf, a fault record, or a requester that is gone. -/
inductive FaultSrc where
  | op (id uid : Nat) | wait (uid : Nat) (i : Instr) | fetch (uids : List Nat) | cmd (id : Nat) | seq (wg : Nat) | front (graph : Nat)
  | entry (fe q : Nat) | node (graph n : Nat) | device (asid : Nat) | record (f : Nat) | gone
  | dropped (kind n : Nat)
deriving DecidableEq, Repr

/-- An access of the device that a stage-1 fault drops (R461): a feedback entry with its cluster and the fields of R150; a miss record of a stream
with its bytes; the OBUs of an encoder with its ring. -/
inductive DevWrite where
  | entry (cluster asid rid page level kind frame : Nat) | miss (slot fe asid ring cap : Nat) (bs : List Byte)
  | obus (e asid base : Nat) (bs : List Byte)
deriving DecidableEq, Repr

inductive FaultPhase where
  | new | waitEntry | waitRing | waitResp | stage2
deriving DecidableEq, Repr

/-- A fault (R396 to R400): where it stands, the step in which it was detected, and the fields of its record. -/
structure FaultRec where
  id     : Nat
  step   : Nat
  asid   : Nat
  src    : FaultSrc
  phase  : FaultPhase
  stage2 : Bool
  shared : Bool
  entry  : Bool
  va     : Nat
  kind   : Nat
  access : Nat
  level  : Nat
  resp   : Bool
  replay : Bool
  lanes  : Bool
  token  : Nat
  tid    : Word
  wg     : Word
  tag    : Nat
  redo   : List Instr
deriving DecidableEq, Repr

/-! ## Engines and graphs -/

/-- Who issued a command: a thread of a workgroup, or a COPY node (R256, R279). -/
inductive CmdOwner where
  | thread (wg uid : Nat) (tid : Word) | node (graph n : Nat)
deriving DecidableEq, Repr

/-- A command complete at its port (R256 to R262): its words, the next unit it moves, its status, whether its writes are done, and
whether it is paused on a fault; the queue of its owner's graph, and for a GRAPH with JOIN the kernel node that waits for it (R283). -/
structure Cmd where
  id     : Nat
  asid   : Nat
  owner  : CmdOwner
  core   : Nat
  words  : List Word
  pos    : Nat
  status : Nat
  ended  : Bool
  paused : Bool
  seqNo  : Nat
  queue  : Nat
  join   : Option (Nat × Nat)
deriving DecidableEq, Repr

inductive NodeState where
  | idle | ready | running | paused | done
deriving DecidableEq, Repr

/-- A node of a running graph (R275, R276): successors, count, state, status, iteration, the launch, command or graph it runs, the numbers read
from its body (CSCOPE of a kernel), its stage in a strip chain (R284: 1 render, 2 shade, 3 upscale, 4 publish, 0 none), and the LOOP whose body holds it. -/
structure GNode where
  kind   : Nat
  pred   : Nat
  succ   : List Nat
  cnt    : Nat
  state  : NodeState
  status : Nat
  iter   : Nat
  ref    : Nat
  body   : List Nat
  stage  : Nat
  inLoop : Option Nat
deriving DecidableEq, Repr

/-- Where a graph came from: a queue entry, a GRAPH command, a SUBGRAPH node, an instance of a strip chain. -/
inductive GraphSrc where
  | queue (fe q idx : Nat) | cmd (id : Nat) | node (graph n : Nat) | strip (slot sq : Nat)
deriving DecidableEq, Repr

/-- A graph (R274, R276): its queue, whether its completion raises QDONE (R354), and the kernel node that waits for it (R283). -/
structure Graph where
  id      : Nat
  asid    : Nat
  src     : GraphSrc
  va      : Nat
  started : Bool
  succVa  : Nat
  nodeVa  : Nat
  cpl     : Nat
  cscope  : Nat
  depth   : Nat
  nodes   : List GNode
  status  : Nat
  stop    : Bool
  queue   : Nat
  irq     : Bool
  join    : Option (Nat × Nat)
deriving DecidableEq, Repr

/-- A record of a hoist (R42, R272): its destination, what it creates, and the context that pushed it (R383). -/
structure HoistRec where
  dest : Option Nat
  seed : Seed
  asid : Nat
deriving DecidableEq, Repr

/-- A hoist (R42, R272): its records, and whether it is closed. -/
structure Hoist where
  recs   : List HoistRec
  closed : Bool
deriving DecidableEq, Repr

/-! ## The outside -/

/-- What leaves the device: an MSI-X vector of a function (R349), the answer to a register read (R346), a mailbox response with the vendor ID and the
type of its DOE header (R436, R437),
lines a serialiser sends (R144), a fabric contribution (R112), a timestamp (R449), the line a peer has read (R424), a register that the BMC
has read (R453), the bytes of device memory that a host has read (R445). -/
inductive Out where
  | msix (view vector : Nat) | read (view idx : Nat) (v : Word) | mailbox (vendor ty : Nat) (bytes : List Byte)
  | scan (ser slot sq : Nat) (bytes : List Byte) | fabric (pa : Nat) (ty : Ty) (v : Word) | stamp (v : Nat)
  | peer (pa : Nat) (bytes : List Byte) | bmc (idx : Nat) (v : Word) | host (pa : Nat) (bytes : List Byte)
deriving DecidableEq, Repr

/-! ## Strips (R121 to R145, R362 to R368) -/

/-- A stream descriptor (R121). -/
structure Desc where
  ow : Nat
  oh : Nat
  sh : Nat
  uf : Nat
  halo : Nat
  ofmt : Nat
  dv : Nat
  ds : Nat
  dout : Nat
  maxlvl : Nat
  base : Nat
  bgs : DWord
  bgo : Word
  matcount : Nat
  mattab : Nat
  miss : Nat
  misscap : Nat
  midmat : Nat
deriving DecidableEq, Repr

/-- An instance of a chain (R364): its sequence number and graph, the shading-rate level, the miss flags and the filled tiles (R145),
meshlets still to rasterise and those kept for the next strip (R130), the tiles that have begun with their levels and those that are
complete, the next tile to place, when the first bin placement took place (R140), the stages that have completed (with 5 once its hard finish
has passed, and 6 once its level has its first value), the stages whose windows have opened (and, plus 10, whose reservations have begun),
whether its halo is copied, it was published, scanned out, and its record was written. -/
structure Strip where
  sq     : Nat
  graph  : Nat
  lvl    : Nat
  flags  : Nat
  filled : List Nat
  cut    : Nat
  todo   : List Nat
  kept   : List Nat
  begun  : List (Nat × Nat)
  tiles  : List Nat
  next   : Nat
  first  : Option Nat
  ended  : List Nat
  opened : List Nat
  halo   : Bool
  out    : Bool
  scanned : Bool
  late   : Bool
deriving DecidableEq, Repr

/-- A strip stream (R121, R364): slot, owning front end, descriptor; the registered template's address space, address, queue and
the render node's meshlet lists; the sequence numbers of the next instance and of the next scan-out; the engine of its PUBLISH node;
the instances; the carry list, the cost counters K_k as E and 16 × Σ factor_L (R140), the level of the last strip (R142); whether it retires or closes. -/
structure StripStream where
  slot   : Nat
  fe     : Nat
  desc   : Desc
  asid   : Nat
  tmpl   : Option Nat
  queue  : Nat
  nextSq : Nat
  scanSq : Nat
  eng    : Nat × Nat
  strips : List Strip
  carry  : List Nat
  carryOv : Bool
  costs  : SMap (Option (Nat × Nat))
  prev   : Option Nat
  retire : Bool
  close  : Bool
deriving DecidableEq, Repr

/-- Cores held by a reservation window (R368): stream slot, sequence number, stage, cores. -/
structure Hold where
  slot  : Nat
  sq    : Nat
  stage : Nat
  cores : List Nat
deriving DecidableEq, Repr

/-! ## Pre-emption and partitions -/

/-- A checkpoint of a context (R375): which of the alternate slots it uses, whether every write has performed, the execution state and the graph state it captured, with the
operations, commands and events under way, and its position in the undo log. -/
structure Ckp where
  asid     : Nat
  slot     : Nat
  complete : Bool
  threads  : List Thread
  groups   : List LaneGroup
  bins     : List Bin
  wgs      : List Wg
  gens     : List Gen
  launches : List Launch
  graphs   : List Graph
  ops      : List Op
  cmds     : List Cmd
  events   : List Instr
  pos      : Nat
deriving DecidableEq, Repr

/-- An image in a save area (R371): address space, queue, workgroup, whose image it is (0 of a precise save, 1 and 2 of the alternate slots
of checkpoints, R375), offset and length. -/
structure SaveImage where
  asid : Nat
  q    : Nat
  wg   : Nat
  slot : Nat
  off  : Nat
  len  : Nat
deriving DecidableEq, Repr

/-- A halt in progress (R369, R371): what follows it. -/
inductive HaltFor where
  | save | rollback | checkpoint | stay
deriving DecidableEq, Repr

/-- A scrub (R413): front end, the clusters and colours to do. -/
structure Scrub where
  fe       : Nat
  clusters : List Nat
  colours  : List Nat
deriving DecidableEq, Repr

/-- A TLB invalidation in progress (R394): front end, kind, context, first address, length in bytes. -/
structure Inval where
  fe   : Nat
  kind : Nat
  ctx  : Nat
  addr : Nat
  len  : Nat
deriving DecidableEq, Repr

/-! ## Firmware and flash (R430 to R443, R452) -/

/-- Where the device stands (R431): held before boot, running, in recovery, or stopped by a thermal trip (R429). -/
inductive Boot where
  | held | ready | recovery | tripped
deriving DecidableEq, Repr

/-- An owner slot (R439, R440): the owner public key (empty stands for the default owner key of manufacture) and the transfer counter,
with the owner sealing seed and the stored measurement baselines that an owner keeps. -/
structure Owner where
  key   : List Byte
  count : Nat
  seed  : List Byte
  baselines : List Byte
deriving DecidableEq, Repr

/-- What flash holds: two image slots of each KIND in order (R432), two configuration records (R441), two owner slots and which is in use (R440),
the live rollback counters of KIND 1 to 3 (R433), the leaf counter (R435), the newer copy of the black box, and whether the older one is
being written (R443). -/
structure Flash where
  images  : List (List Byte)
  configs : List (List Byte)
  owners  : List Owner
  owner   : Nat
  live    : List Nat
  leaf    : Nat
  boxes   : List (List Byte)
  box     : Nat
deriving DecidableEq, Repr

/-- A black-box event (R442). -/
structure BoxEv where
  time   : Nat
  kind   : Nat
  source : Nat
  code   : Nat
  asid   : Nat
  addr   : Nat
deriving DecidableEq, Repr

/-- A collective-group entry (R452). -/
structure CGroup where
  fe    : Nat
  ctx   : Nat
  group : Nat
  n     : Nat
  rank  : Nat
  devs  : List Nat
deriving DecidableEq, Repr

/-! ## The whole machine -/

/-- An input of the outside world: an event, or a PCIe access to a BAR (R345, R346): BAR 0 of the PF, or BAR 2 of VF `bar - 1`, at a byte
offset, with the value that a write carries; a read of a register by the board management controller (R453); a data object that arrives at
the security mailbox, its DOE header's vendor ID and type with the header word and body (R436, R437); a host's read of device memory (R445);
an error in a line, hard or corrected (R450); the failure of the next flash write (R436); or what the sensors give, the power in W averaged over 1 ms and the hottest junction in 1/8 °C
(R425). -/
inductive Input where
  | ev (i : Instr) | mmio (bar off : Nat) (v : Option Word) | bmc (idx : Nat) | doe (vendor ty : Nat) (bytes : List Byte)
  | hostRead (pa len : Nat) | memError (key : Nat) (hard : Bool) | flashFail | sensor (power : Nat) (temp : Int)
deriving DecidableEq, Repr

structure State where
  /-- The model's own fields (notes/assumptions/4.md): step number, counter of free values and names, events to come, inputs of the
  outside world with the step at which each lands, the issuing chain, the second chain of a dual issue, the workgroup whose sequencer
  executes, the turn of selection, and that of the timers. -/
  stepNo  : Nat
  fresh   : Nat
  agenda  : List Instr
  inputs  : List (Nat × Input)
  iss     : Issue
  second  : Option (Nat × DWord × Nat)
  seqWg   : Nat
  turn    : Nat
  timerNo : Nat
  lastSel : SMap Nat
  /-- Threads and what holds them; `past` and `ended` hold what stands in the cores after workgroups have completed and threads have ended
  (with their cores), until the place is used again. -/
  threads : List Thread
  groups  : List LaneGroup
  bins    : List Bin
  wgs     : List Wg
  past    : List Wg
  ended   : List (Nat × Thread)
  gens    : List Gen
  launches : List Launch
  /-- Memory, caches, translation, operations in flight. -/
  mem     : Mem
  l1      : List L1Line
  icache  : List ILine
  l2      : List L2Line
  rdc     : List RdcLine
  shadows : List Shadow
  windows : SMap FabWin
  undo    : List (Nat × Nat × List Byte)
  tlb     : List TlbEntry
  ops     : List Op
  faults  : List FaultRec
  devq    : List DevWrite
  tokens  : List (Nat × Nat)
  filter  : List (Nat × List Nat)
  /-- Engines and graphs. -/
  cmds    : List Cmd
  collSeq : SMap Nat
  graphs  : List Graph
  hoists  : Vector Hoist 64
  /-- Strips. -/
  streams : List StripStream
  holds   : List Hold
  keyNext : List Nat
  /-- Pre-emption, partitions, power. `stalls` holds the contexts halted for an irrevocable operation (R379), `rrLast` the context that
  the dispatcher served last for each front end and priority (R356), `fatals` the stopped contexts whose commands and graphs are still to
  complete with ABORTED before FATAL is raised (R403), `wdogs` those whose watchdog has fired and whose images are still to be written before
  WATCHDOG is raised (R350, R384), `waking` the VFs that wake with one more than the moment at which each began (R419), and
  `gated` the cores that a collapse of class 2 or 3 has gated, by VF (R418). -/
  halts   : List (Nat × HaltFor)
  saves   : List SaveImage
  stalls  : List Nat
  rrLast  : SMap Nat
  fatals  : List Nat
  wdogs   : List Nat
  ckps    : List Ckp
  protect : SMap Nat
  scrubs  : List Scrub
  slices  : SMap Nat
  flrs    : List Nat
  invals  : List Inval
  waking  : SMap Nat
  gated   : SMap (Option (List Nat))
  deep    : Bool
  cap     : Nat
  halved  : List Nat
  /-- Firmware, flash, black box, fabric. `running` holds the slot of the running configuration record and, in order, the SVN of the running
  image of each KIND; `boxCount` counts the events since cold reset, and `boxNext` tells that another persist follows the one that runs
  (R443); `boxDroop` is the moment of the last droop event (R426); `flashBad` tells that the next flash write fails (R436), and
  `corrected` counts the errors that were corrected (R450). -/
  boot    : Boot
  meas    : List Byte
  digests : List (List Byte)
  running : List Nat
  upload  : Option (Nat × List Byte)
  flash   : Flash
  box     : List BoxEv
  boxCount : Nat
  boxSnap : Option (List BoxEv)
  boxNext : Bool
  boxLast : Option Nat
  boxDroop : Option Nat
  flashBad : Bool
  cgroups : List CGroup
  slowPorts : List Nat
  ecc     : List Nat
  corrected : Nat
  /-- System registers by view * 16,384 + index, the contexts' FENABLE and hoist grants, the deadline counter, the timers that run on it
  and the steps in which the cores' cycle counters started (at 1000 that of all). `clocks` holds one more than the moment at which a timer
  started: at 4a that of context a's checkpoints (R375), at 4f + 1 that of front end f's slice (R412), at 4n + 2 that of VF n's idle time
  (R420), at 4a + 3 that of context a's watchdog (R383), at 8192 + 64 k + n that of the predictions of stream k's instance with sequence
  number n modulo 64 (R141), at 16384 and 16385 those of the throttle cap's fall and rise (R428). -/
  regs    : SMap Word
  fenable : SMap Word
  hgrant  : SMap Word
  dlc     : Nat
  frac    : Nat
  holdLeft : Nat
  ref10   : Bool
  latches : SMap Nat
  clocks  : SMap Nat
  cycles  : SMap Nat
  out     : List Out
deriving DecidableEq, Repr

/-- The machine right after a cold reset, before boot (R430, R431): every core is held, no thread exists, nothing is listed in memory, and
every register is at its reset value. What the spec gives no reset value for is named in notes/assumptions/3.md and 4.md.
DESIGN CHOICE (notes/assumptions/3.md). -/
def State.reset : State where
  stepNo := 0
  fresh := 1
  agenda := []
  inputs := []
  iss := ⟨0, 0, [], 0, 0, 0, [], [], []⟩
  second := none
  seqWg := 0
  turn := 0
  timerNo := 0
  lastSel := []
  threads := []
  groups := []
  bins := []
  wgs := []
  past := []
  ended := []
  gens := []
  launches := []
  mem := []
  l1 := []
  icache := []
  l2 := []
  rdc := []
  shadows := []
  windows := []
  undo := []
  tlb := []
  ops := []
  faults := []
  devq := []
  tokens := []
  filter := []
  cmds := []
  collSeq := []
  graphs := []
  hoists := Vector.replicate 64 ⟨[], false⟩
  streams := []
  holds := []
  keyNext := []
  halts := []
  saves := []
  stalls := []
  rrLast := []
  fatals := []
  wdogs := []
  ckps := []
  protect := []
  scrubs := []
  slices := []
  flrs := []
  invals := []
  waking := []
  gated := []
  deep := false
  cap := 4
  halved := []
  boot := .held
  meas := List.replicate 64 0#8
  digests := []
  running := []
  upload := none
  flash := ⟨List.replicate 6 [], [[], []], List.replicate 2 ⟨[], 0, [], []⟩, 0, [0, 0, 0], 0, [[], []], 0⟩
  box := []
  boxCount := 0
  boxSnap := none
  boxNext := false
  boxLast := none
  boxDroop := none
  flashBad := false
  cgroups := []
  slowPorts := []
  ecc := []
  corrected := 0
  regs := []
  fenable := []
  hgrant := []
  dlc := 0
  frac := 0
  holdLeft := 0
  ref10 := false
  latches := []
  clocks := []
  cycles := []
  out := []

end Sys2Proof.Machine
end

