-- ==== Sys2Proof/WellFormed.lean ====
section
/-! DEFINITION. Well-formed instructions: those whose words no rule of R171 makes trap with ILLEGAL_INSTRUCTION by themselves. -/

namespace Sys2Proof

/-- The literal words an instruction names, one for each field that holds code 121. -/
def Instr.literals : Instr → List Word
  | .iadd _ _ a b | .isub _ _ a b | .imul _ _ a b | .imulh _ _ a b | .nmulh _ _ a b | .ima _ _ a b | .imin _ _ a b
  | .imax _ _ a b | .nmin _ _ a b | .nmax _ _ a b | .isad _ _ a b | .iadd64 _ _ a b | .isub64 _ _ a b | .imul64 _ _ a b
  | .imaw _ _ a b | .and _ _ a b | .or _ _ a b | .xor _ _ a b | .andn _ _ a b | .shl _ _ a b | .shr _ _ a b | .sar _ _ a b
  | .sel _ _ a b | .faddF32 _ _ a b | .fsubF32 _ _ a b | .fmulF32 _ _ a b | .fmaF32 _ _ a b | .fminF32 _ _ a b
  | .fmaxF32 _ _ a b | .faddH2 _ _ a b | .fmulH2 _ _ a b | .fmaH2 _ _ a b | .faddB2 _ _ a b | .fmulB2 _ _ a b
  | .fmaB2 _ _ a b | .dadd _ _ a b | .dmul _ _ a b | .dfma _ _ a b | .idot4 _ _ a b | .fdot2 _ _ a b | .nmaw _ _ a b
  | .tern _ _ a b _ _ | .fsh _ _ a b _ _ | .bperm _ _ a b _ | .icmp _ _ _ _ a b | .fcmp _ _ _ a b | .dcmp _ _ _ a b
  | .fop _ _ a b _ _ _ _ _ | .swz _ _ a b _ _ | .vbmin _ a b | .rdm _ a b _ _ _ _ | .ldlod _ _ a b _ _ _ _
  | .sample _ _ a b _ _ _ | .atm _ _ a b _ _ _ _ _ | .atms _ _ a b _ _ _ | .rbox _ _ a b | .rtri _ _ a b _
  | .resv _ _ a b _ _ _ _ _ | .seq _ a b _ | .st _ a b _ _ _ | .ssp _ a b _ | .monwait _ a b _ | .cplwait _ a b _ _ =>
      a.lits ++ b.lits
  | .pcnt _ _ a _ | .clz _ _ a _ | .brev _ _ a _ | .bfe _ _ a _ _ _ | .bfi _ _ a _ _ | .fclass _ _ a _ | .frnd _ _ a _ _ _
  | .fsf _ _ a _ | .conv _ _ a _ _ _ | .convb _ _ a _ _ _ _ _ | .convx _ _ a _ _ _ | .scaleb _ _ a _ _ _ _ _ _ | .mov _ _ a _
  | .lred _ _ a _ _ _ | .lscan _ _ a _ _ _ _ | .trsp _ _ a _ | .derx _ _ a _ | .dery _ _ a _ | .qput _ a _ | .jmpx _ a _
  | .reorder _ a _ | .ld _ _ a _ _ _ | .lsp _ _ a _ | .pref _ a _ | .qbind _ _ a _ | .cpltest _ _ a _ | .rstkPush _ a
  | .rfree _ a | .syswr _ a _ => a.lits
  | _ => []

/-- The literals of the register fields that stand in extension words, which R48 forbids. -/
def Instr.extLiterals : Instr → List Word
  | .tern _ _ _ _ e _ | .bperm _ _ _ _ e | .fsh _ _ _ _ _ (.reg e) | .fop _ _ _ _ _ _ _ _ e | .sample _ _ _ _ _ _ e
  | .atm _ _ _ _ _ _ _ _ e | .atms _ _ _ _ _ _ e | .seq _ _ _ e => e.lits
  | .spawn _ (.pair a) _ _ | .cont _ (.pair a) _ | .hoist _ _ _ _ (.pair a) _ _ | .binFlush _ (.pair a)
  | .binCount _ _ (.pair a) => a.lits
  | .hoist _ _ _ b _ _ _ => b.lits
  | _ => []

/-- Is the instruction two words long whatever its fields hold (R168)? -/
def Instr.twoWords : Instr → Bool
  | .tern .. | .fsh .. | .bfe .. | .bfi .. | .bperm .. | .fop .. | .conv .. | .convb .. | .scaleb .. | .swz .. | .lred ..
  | .lscan .. | .spawn .. | .cont .. | .reorder .. | .ldlod .. | .sample .. | .atm .. | .atms .. | .rdm .. | .hoist ..
  | .hoistClose .. | .binFlush .. | .binCount .. | .rbox .. | .rtri .. | .resv .. | .accrd .. | .seq .. | .mmac .. | .mbin ..
  | .mexport .. => true
  | _ => false

/-- One literal at most, and none in a two-word instruction (R48, R154). -/
def Instr.literalsOk (i : Instr) : Bool :=
  if i.twoWords then i.literals.isEmpty && i.extLiterals.isEmpty
  else match i.literals with
    | [] => true
    | w :: ws => ws.all (· == w)

/-- Well-formed: every register code stands where it may, and every combination of fields is one its entry allows. -/
def Instr.wf (i : Instr) : Bool := i.operands.all Opnd.legal && i.extraOk && i.literalsOk

/-- Slots an instruction takes in a packet (R154). -/
def Instr.slots (i : Instr) : Nat := if i.twoWords || !i.literals.isEmpty then 2 else 1

end Sys2Proof
end

