-- ==== Sys2Proof/Machine/Ops.lean ====
section
/-! DEFINITION. The named operations on the state: sparse maps, registers, threads, events to come, fatal context errors, taking a
trap (R221) and returning from one (R225, its register part). -/

namespace Sys2Proof.Machine

/-! ## Sparse maps -/

/-- Reads key `k`; a key that is not listed holds `d`. -/
def mget (d : α) : SMap α → Nat → α
  | [], _ => d
  | (k', v) :: m, k => if k = k' then v else mget d m k

/-- Writes key `k`, keeping the keys rising and the default unlisted. -/
def mput [DecidableEq α] (d : α) : SMap α → Nat → α → SMap α
  | [], k, v => if v = d then [] else [(k, v)]
  | (k', v') :: m, k, v =>
      if k < k' then (if v = d then (k', v') :: m else (k, v) :: (k', v') :: m)
      else if k = k' then (if v = d then m else (k, v) :: m)
      else (k', v') :: mput d m k v

/-- The canonical form: keys strictly rising from `lo` on, no default listed. -/
def mwfFrom [DecidableEq α] (d : α) : Nat → SMap α → Bool
  | _, [] => true
  | lo, (k, v) :: m => decide (lo ≤ k) && decide (v ≠ d) && mwfFrom d (k + 1) m

/-- Memory in canonical form: an unlisted byte reads 0 (DESIGN CHOICE, notes/assumptions/2.md). -/
def Mem.wf (m : Mem) : Bool := mwfFrom (0#8) 0 m

/-- Writes bytes at consecutive keys. -/
def mputs [DecidableEq α] (d : α) : SMap α → Nat → List α → SMap α
  | m, _, [] => m
  | m, k, v :: vs => mputs d (mput d m k v) (k + 1) vs

/-- Reads `n` consecutive keys. -/
def mgets (d : α) (m : SMap α) (k n : Nat) : List α := (upFrom k n).map (mget d m)

/-! ## Places -/

/-- Array cores are 0 to 215, ensign cores 216 to 251, and the management cores follow (R6, R9). -/
def isEnsign (core : Nat) : Bool := core ≥ 216

/-- The cluster of a core. A management core's accesses go through a place of its own, behind the clusters and the front ends (R9). -/
def clusterOf (core : Nat) : Nat :=
  if core < 216 then core / 12 else if core < 252 then (core - 216) / 2 else core - 252 + 40

/-- The front end of an address-space id (R344). -/
def feOf (asid : Nat) : Nat := asid / 64

/-- Microseconds in units of the deadline counter. -/
def micros (n : Nat) : Nat := n * 2 ^ 32 / 1000000

/-! ## Core cycles (R55) -/

/-- The cycles that a core receives in `n` steps from step `start` on. -/
def cyclesSum (core start : Nat) : Nat → Nat
  | 0 => 0
  | n + 1 => cyclesSum core start n + Config.coreCycles core (start + n)

/-- The step in which a core's cycle counter last started: its own (R418, R424), or that of the device's last reset. -/
def State.cycleStart (s : State) (core : Nat) : Nat := max (mget 0 s.cycles core) (mget 0 s.cycles 1000)

/-- A core's cycle counter, which keeps running while the core is halted. -/
def State.cycleCount (s : State) (core : Nat) : Nat := cyclesSum core (s.cycleStart core) (s.stepNo - s.cycleStart core)

/-- The counters of some cores start at 0. -/
def State.restartCycles (s : State) (cores : List Nat) : State :=
  { s with cycles := cores.foldl (fun m c => mput 0 m c s.stepNo) s.cycles }

/-! ## Lists of records -/

def State.thr? (s : State) (uid : Nat) : Option Thread := s.threads.find? (·.uid == uid)
def State.updThr (s : State) (uid : Nat) (f : Thread → Thread) : State :=
  { s with threads := s.threads.map fun t => if t.uid = uid then f t else t }
def State.wg? (s : State) (id : Nat) : Option Wg := s.wgs.find? (·.id == id)
def State.updWg (s : State) (id : Nat) (f : Wg → Wg) : State :=
  { s with wgs := s.wgs.map fun w => if w.id = id then f w else w }
def State.launch? (s : State) (id : Nat) : Option Launch := s.launches.find? (·.id == id)
def State.launchOfWg (s : State) (wg : Nat) : Option Launch := (s.wg? wg).bind fun w => s.launch? w.launch
def State.asidOf (s : State) (wg : Nat) : Nat := ((s.launchOfWg wg).map (·.asid)).getD 0
def State.coreOf (s : State) (wg : Nat) : Nat := ((s.wg? wg).map (·.core)).getD 0
def State.updCmd (s : State) (id : Nat) (f : Cmd → Cmd) : State :=
  { s with cmds := s.cmds.map fun c => if c.id = id then f c else c }
def State.cmd? (s : State) (id : Nat) : Option Cmd := s.cmds.find? (·.id == id)
def State.updGraph (s : State) (id : Nat) (f : Graph → Graph) : State :=
  { s with graphs := s.graphs.map fun g => if g.id = id then f g else g }
def State.graph? (s : State) (id : Nat) : Option Graph := s.graphs.find? (·.id == id)
def State.updSeq (s : State) (wg : Nat) (f : Seq → Seq) : State := s.updWg wg fun w => { w with seq := w.seq.map f }

/-- Puts an event at the end of those to come. -/
def State.post (s : State) (i : Instr) : State := { s with agenda := s.agenda ++ [i] }
def State.posts (s : State) (is : List Instr) : State := { s with agenda := s.agenda ++ is }

/-- Puts an event among those to come unless it is there already. DESIGN CHOICE (notes/assumptions/49.md). -/
def State.postOnce (s : State) (i : Instr) : State := if s.agenda.contains i then s else s.post i

/-- A fresh name for a record. -/
def State.newId (s : State) : Nat × State := (s.fresh, { s with fresh := s.fresh + 1 })

/-- Folds a state operation over a list. -/
def State.over (s : State) (xs : List α) (f : State → α → State) : State := xs.foldl f s

/-! ## System registers -/

/-- Where a register is stored: TTS_, PTN_ and SCR_ read the same in every view, and the eight registers of a VF's WAKE_ block are part of the
global one (R347, R360, R409, R414, R419). An open index that no table lists, such as those of a VF's WAKE_ block past its offset 7, reads 0 and
ignores writes. DESIGN CHOICE (notes/assumptions/43.md). -/
def regHome (view idx : Nat) : Nat × Nat :=
  if 0x0C00 ≤ idx && idx < 0x1800 then (0, idx)
  else if 0x1800 ≤ idx && idx < 0x1808 && view > 0 then (0, idx + 8 * (view - 1))
  else (view, idx)

/-- The key of a register (R346). -/
def regKey (view idx : Nat) : Nat := (regHome view idx).1 * 16384 + (regHome view idx).2

/-- The reset value of a register by its key (R351, R381, R406, R407, R409, R419, R425). -/
def regReset (key : Nat) : Word :=
  let idx := key % 16384
  if 0x0800 ≤ idx && idx < 0x0A00 then
    (if idx % 16 = 0 then 0x08000000#32 else if idx % 16 = 3 then 16#32 else 0#32)
  else if 0x0A00 ≤ idx && idx < 0x0C00 then (if idx % 8 = 0 then 100#32 else if idx % 8 = 5 then 10000#32 else 0#32)
  else if 0x1000 ≤ idx && idx < 0x1088 then
    (if idx = 0x1000 then 0x80110000#32 else if idx = 0x1001 || idx = 0x1002 || idx = 0x1005 || idx = 0x1006 then 0xFFFFFFFF#32
     else if idx % 8 = 3 then 1000#32 else 0#32)
  else if key = idx && 0x1800 ≤ idx && idx < 0x1880 then (if idx % 8 = 2 then 1000#32 else 0#32)
  else if 0x1C00 ≤ idx && idx < 0x1E00 then (if idx % 8 = 4 then 16#32 else 0#32)
  else if 0x2400 ≤ idx && idx < 0x2600 then (if idx % 8 = 2 then 64#32 else 0#32)
  else if idx = 0x2C02 then 2400#32
  else 0#32

/-- Registers whose value differs from reset are listed. -/
def regGet : SMap Word → Nat → Word
  | [], k => regReset k
  | (k', v) :: m, k => if k = k' then v else regGet m k

/-- Lists a register in its place, unless it holds its reset value. -/
def regInsert (m : SMap Word) (k : Nat) (v : Word) : SMap Word :=
  if v = regReset k then m else (m.takeWhile fun p => p.1 < k) ++ (k, v) :: m.dropWhile fun p => p.1 < k

/-- Writes a register: what was listed of it goes. -/
def regPut (m : SMap Word) (k : Nat) (v : Word) : SMap Word := regInsert (m.filter fun p => p.1 != k) k v

def State.rreg (s : State) (view idx : Nat) : Word := regGet s.regs (regKey view idx)
def State.wreg (s : State) (view idx : Nat) (v : Word) : State := { s with regs := regPut s.regs (regKey view idx) v }
def State.rregN (s : State) (view idx : Nat) : Nat := (s.rreg view idx).toNat
/-- A register pair as a number. -/
def State.rreg2 (s : State) (view idx : Nat) : Nat := s.rregN view idx + 2 ^ 32 * s.rregN view (idx + 1)
/-- Adds one, saturating (R348). -/
def State.bump (s : State) (view idx : Nat) : State :=
  if s.rreg view idx = 0xFFFFFFFF#32 then s else s.wreg view idx (s.rreg view idx + 1)
/-- Sets or clears one bit. -/
def State.setBit (s : State) (view idx b : Nat) (on : Bool) : State :=
  s.wreg view idx (if on then s.rreg view idx ||| (1#32 <<< b) else s.rreg view idx &&& ~~~(1#32 <<< b))

/-- Is VF `view - 1` collapsed at class 2 or 3, so that its vectors stay pending (R350, R421)? -/
def State.vecHeld (s : State) (view : Nat) : Bool :=
  view > 0 && fld (s.rregN view 0x1803) 0 3 ≥ 2 && fld (s.rregN view 0x1800) 0 2 ≥ 2

/-- Sends a vector, or keeps it pending while the VF is collapsed (R350): the pending ones stand in an index that reads as zero. -/
def State.vector (s : State) (view c : Nat) : State :=
  if s.vecHeld view then s.setBit view 0x0412 c true else { s with out := s.out ++ [.msix view c] }

/-- Raises cause `c` of FE_IRQST (R349, R350): the vector is sent when the bit rises unmasked. -/
def State.irq (s : State) (view c : Nat) : State :=
  let old := bitOf (s.rregN view 0x0410) c
  let s' := s.setBit view 0x0410 c true
  if !old && !bitOf (s.rregN view 0x0411) c then s'.vector view c else s'

/-! ## Registers of a thread -/

def Thread.reg (t : Thread) (r : Nat) : Reg := if h : r < 120 then t.regs[r] else ⟨0, .clean⟩
def Thread.val (t : Thread) (r : Nat) : Word := (t.reg r).val
def Thread.poisoned (t : Thread) (r : Nat) : Bool := (t.reg r).mark != .clean
def Thread.setReg (t : Thread) (r : Nat) (v : Word) (m : Mark) : Thread :=
  if h : r < 120 then { t with regs := t.regs.set r ⟨v, m⟩ } else t

/-- A predicate; 7 is pt (R49). -/
def Thread.pred (t : Thread) (p : Pred) : Bool := if p.val = 7 then true else t.preds.getLsbD p.val
def Thread.setPred (t : Thread) (p : Pred) (b : Bool) : Thread :=
  if p.val = 7 then t else { t with preds := if b then t.preds ||| (1#7 <<< p.val) else t.preds &&& ~~~(1#7 <<< p.val) }

/-- The workgroup index of a thread (R48: vwg). -/
def State.wgIndex (s : State) (t : Thread) : Word := BitVec.ofNat 32 (((s.wg? t.wg).map (·.index)).getD 0)

/-- The value of a source operand of one register or a pair (R48): vzero is 0, a literal is sign-extended in a pair. -/
def State.opnd (s : State) (t : Thread) (o : Opnd) : DWord :=
  if o.code < 120 then
    (if o.n = 2 then pairOf (t.val o.code) (t.val (o.code + 1)) else (t.val o.code).setWidth 64)
  else if o.code = 121 then (if o.n = 2 then o.lit.signExtend 64 else o.lit.setWidth 64)
  else if o.code = 122 then (BitVec.ofNat 32 t.lane).setWidth 64
  else if o.code = 123 then t.tid.setWidth 64
  else if o.code = 124 then (s.wgIndex t).setWidth 64
  else 0

/-- The words of a group operand (R48). -/
def Thread.group (t : Thread) (o : Opnd) : List Word :=
  if o.code < 120 then o.regs.map t.val else List.replicate o.n 0

def State.src (s : State) (t : Thread) (a : Src) : Word := lo32 (s.opnd t (.s a))
def State.src2 (s : State) (t : Thread) (a : Src) : DWord := s.opnd t (.s2 a)

/-- Is any register of the operand poisoned? -/
def Thread.opPois (t : Thread) (o : Opnd) : Bool := o.regs.any t.poisoned

/-- Writes the words of a value to a destination, each with its mark; vzero discards (R48). -/
def Thread.wrWords (t : Thread) (d : Dst) (ws : List Word) (m : Nat → Mark) : Thread :=
  match d with
  | .zero => t
  | .v r => ((upFrom 0 ws.length).zip ws).foldl (fun t p => t.setReg (r.val + p.1) p.2 (m p.1)) t

/-- Clean writes of one register and of a pair. -/
def Thread.wr (t : Thread) (d : Dst) (x : Word) : Thread := t.wrWords d [x] fun _ => .clean
def Thread.wr2 (t : Thread) (d : Dst) (x : DWord) : Thread := t.wrWords d [lo32 x, hi32 x] fun _ => .clean
def Thread.wrW (t : Thread) (w : Bool) (d : Dst) (x : DWord) : Thread := if w then t.wr2 d x else t.wr d (lo32 x)

/-- Does any register hold poison? -/
def Thread.anyPoison (t : Thread) : Bool := t.regs.toList.any fun r => r.mark != .clean

/-- Entries of the replay log (R224). -/
def LogEntry.isStore (e : LogEntry) : Bool :=
  match e.kind with
  | .access _ st => st
  | .derived .. => false
def LogEntry.isDerived (e : LogEntry) : Bool :=
  match e.kind with
  | .access .. => false
  | .derived .. => true

/-- The log empties when it holds no store-kind entry and no register is poisoned (R224). -/
def Thread.trimLog (t : Thread) : Thread :=
  if t.log.any (·.isStore) || t.anyPoison then t else { t with log := [] }

/-! ## The issuing chain -/

/-- The active lanes of an instruction with guard `g` (R19), as they stood before the chain. -/
def State.active (s : State) (g : Pred) : List Thread := s.iss.lanes.filter (·.pred g)

/-- The active lanes in which the instruction takes effect: all but those that trap at another slot of the chain (R171). -/
def State.acting (s : State) (g : Pred) : List Thread :=
  (s.active g).filter fun t => s.iss.muted.all fun p => p.1 != t.uid || p.2 == s.iss.slot

/-- Packet address and slot of a word address (R153). -/
def packetOf (a : DWord) : DWord := BitVec.ofNat 64 (a.toNat / 12 * 12)
def slotOf (a : DWord) : Nat := a.toNat % 12 / 4

/-- The address of the instruction being executed. -/
def Issue.instrAddr (i : Issue) : DWord := BitVec.ofNat 64 ((packetOf i.pc).toNat + 4 * i.slot)

/-! ## The black box (R442, R443) -/

/-- An event enters the ring, over the oldest. -/
def State.boxPut (s : State) (kind source code asid addr : Nat) : State :=
  { s with
    box := (if s.box.length ≥ 1024 then s.box.drop 1 else s.box) ++ [⟨s.dlc, kind, source, code, asid, addr⟩]
    boxCount := s.boxCount + 1 }

/-- The record is persisted as it stands; one persist runs at a time, and one that is wanted meanwhile follows it. -/
def State.persist (s : State) : State :=
  if s.boxSnap.isSome then { s with boxNext := true } else ({ s with boxSnap := some s.box } : State).postOnce .bbxPersistComplete

/-- A FATAL event: the first in any 10 s persists the record. -/
def State.boxFatal (s : State) (fe code asid addr : Nat) : State :=
  let s1 := s.boxPut 3 fe code asid addr
  match s.boxLast with
  | some t => if s.dlc < t + 10 * 2 ^ 32 then s1 else ({ s1 with boxLast := some s.dlc } : State).persist
  | none => ({ s1 with boxLast := some s.dlc } : State).persist

/-! ## Placement events (R356) -/

def Prio.num : Prio → Nat
  | .strip => 0 | .high => 1 | .normal => 2 | .batch => 3

/-- Insertion by a key of numbers, earlier first. -/
def insKey (k : α → List Nat) (x : α) : List α → List α
  | [] => [x]
  | y :: ys => if k y < k x then y :: insKey k x ys else x :: y :: ys
def sortKey (k : α → List Nat) (xs : List α) : List α := xs.foldr (insKey k) []

/-- Where a context stands in the turn of its front end's contexts of a priority (R356): `rrLast` holds one more than the context served
last. -/
def State.turnOf (s : State) (asid prio : Nat) : Nat := (asid % 64 + 64 - mget 0 s.rrLast (4 * feOf asid + prio) % 64) % 64

/-- A workgroup of a context has been placed: the turn passes on. -/
def State.served (s : State) (asid prio : Nat) : State :=
  { s with rrLast := mput 0 s.rrLast (4 * feOf asid + prio) (asid % 64 + 1) }

/-- The order in which the dispatcher takes a waiting workgroup: priority, how many of its context's come before it, the turn of its
context, launch, index (R356). -/
def State.dispatchKey (s : State) (w : Wg) : List Nat :=
  match s.launch? w.launch with
  | none => [9]
  | some l =>
      let before := (s.wgs.filter fun x => (x.state == .waiting || x.state == .saved) &&
        (match s.launch? x.launch with | some m => m.asid == l.asid && m.prio == l.prio | none => false) &&
        (x.launch < w.launch || (x.launch == w.launch && x.index < w.index))).length
      [Prio.num l.prio, before, feOf l.asid, s.turnOf l.asid (Prio.num l.prio), w.launch, w.index]

/-- Does a workgroup lie in a co-resident entry of its launch (R39)? -/
def State.coResident (s : State) (w : Wg) : Bool :=
  match s.launch? w.launch with
  | some l => l.groups.any fun g => g.co && g.members.contains w.index
  | none => false

/-- A trial of placement that the dispatcher has yet to make. -/
def Instr.places : Instr → Bool
  | .resumePlacement _ | .gangPlacement _ | .workgroupPlacement _ none => true
  | _ => false

/-- The event in which a waiting or saved workgroup is tried. -/
def State.placement (s : State) (w : Wg) : Instr :=
  if w.state = .saved then .resumePlacement w.id
  else if w.gang.isSome || s.coResident w then .gangPlacement w.id else .workgroupPlacement w.id none

/-- The dispatcher tries every waiting and every saved unit, in order; those that it had yet to try take their places in the order as it
stands now (R356). Wakes that wait for the placement of their units try again (R422). -/
def State.dispatch (s : State) : State :=
  { s with agenda := (s.agenda.filter fun i => !Instr.places i) ++ (sortKey s.dispatchKey (s.wgs.filter fun w =>
      w.state == .waiting || w.state == .saved)).map s.placement
      ++ ((s.waking.map fun p => Instr.wakeComplete p.1).filter fun i => !s.agenda.contains i) }

/-- The bin timer of a workgroup's launch in time of the deadline counter (R23). -/
def State.binPeriod (s : State) (wg : Nat) : Nat := (((s.launchOfWg wg).map (·.binTimer)).getD 0) * 2 ^ 32 / 10000000

/-- Does a bin's timer run: it holds a thread and is not yet due? -/
def Bin.running (b : Bin) : Bool := b.due.isNone && b.lanes.any fun sd => !sd.empty

/-- The moment since which a bin is due (R23): it was full, or its timer has expired. While its workgroup is off the device or halted the timer
does not run (R43). -/
def State.dueAt (s : State) (b : Bin) : Option Nat :=
  if b.due.isSome then b.due
  else if b.running && ((s.wg? b.wg).map (·.state)) == some .resident && decide (b.since + s.binPeriod b.wg ≤ s.dlc) then
    some (b.since + s.binPeriod b.wg)
  else none

/-- The first due bin of a core, in order of due time and number (R24). -/
def State.firstDue (s : State) (core : Nat) : Option Bin :=
  (sortKey (fun (b : Bin) => [(s.dueAt b).getD 0, b.num]) (s.bins.filter fun b => b.core == core && (s.dueAt b).isSome)).head?

/-- A core has freed resources: its first due bin may launch, the heads of its workgroups' rings may move, and units may be placed (R24, R26,
R44). -/
def State.coreFreed (s : State) (core : Nat) : State :=
  let s1 := match s.firstDue core with
    | some b => s.postOnce (.binLaunch core b.num)
    | none => s
  (s1.over (s1.wgs.filter fun w => w.core == core && w.state == .resident && !w.ring.isEmpty) fun s w => s.postOnce (.ringUnitMove w.id)).dispatch

/-! ## The remote data cache (R100) -/

/-- Bytes written where `mask` has a bit. -/
def writeMasked (m : Mem) (base mask : Nat) (data : List Byte) : Mem :=
  ((upFrom 0 data.length).zip data).foldl (fun m p => if bitOf mask p.1 then mput 0#8 m (base + p.1) p.2 else m) m

/-- Writes back one line of the remote data cache. -/
def State.rdcFlush (s : State) (r : RdcLine) : State :=
  if r.dirty = 0 then s
  else { s with
    mem := writeMasked s.mem r.pa r.dirty r.data
    rdc := s.rdc.map fun (x : RdcLine) => if x.pa = r.pa then { x with dirty := 0 } else x }

/-- Writes back, and for an acquire drops, the lines of an address space (R100). -/
def State.rdcSync (s : State) (asid : Nat) (drop : Bool) : State :=
  let s1 := s.over (s.rdc.filter (·.asids.contains asid)) State.rdcFlush
  if drop then { s1 with rdc := s1.rdc.filter fun (r : RdcLine) => !r.asids.contains asid } else s1

/-! ## Fatal context errors (R403) -/

/-- The event in which an operation performs (95_what_each_step_holds.md). -/
def Op.event (o : Op) : Instr :=
  match o.cls with
  | .l => .loadReturn o.id
  | .s => .storePerform o.id
  | .t => .rayTestComplete o.id

/-- TLB_FATAL of a context. -/
def State.fatalCode (s : State) (asid : Nat) : Nat := s.rregN (feOf asid) (0x1C00 + 8 * (asid % 64) + 7)

/-- The workgroups of a context. -/
def State.wgsOf (s : State) (asid : Nat) : List Wg :=
  s.wgs.filter fun w => ((s.launch? w.launch).map (·.asid)) == some asid

/-- Held accesses may perform again. -/
def State.unhold (s : State) (f : Op → LaneAcc → Bool) : State :=
  { s with
    ops := s.ops.map fun (o : Op) => { o with lanes := o.lanes.map fun (l : LaneAcc) => if l.held && f o l then { l with held := false } else l }
    agenda := s.agenda ++ (s.ops.filter fun o => o.lanes.any fun l => l.held && f o l).map Op.event }

/-- Does an operation of an ended thread still complete (R30): all but loads, which are discarded? -/
def Op.outlives (o : Op) : Bool :=
  o.cls == .s || (match o.instr with | .atm .. | .atms .. => true | _ => false)

/-- Ends what belongs to a set of workgroups as EXIT would: threads, groups, bins, generations, sequencers, and the loads in flight, while
other operations complete (R30); their cores have freed resources. -/
def State.dropWgs (s : State) (ids : List Nat) : State :=
  let gone := (s.threads.filter fun t => ids.contains t.wg).map (·.uid)
  let cores := ((s.wgs.filter fun w => ids.contains w.id && (w.state == .resident || w.state == .halted)).map (·.core)).eraseDups
  (({ s with
    threads := s.threads.filter fun t => !ids.contains t.wg
    groups := s.groups.filter fun g => !ids.contains g.wg
    bins := s.bins.filter fun b => !ids.contains b.wg
    gens := (s.gens.map fun g => { g with
      expected := g.expected.filter (!gone.contains ·), arrived := g.arrived.filter (!gone.contains ·)
      seeds := g.seeds.filter fun p => !ids.contains p.1 }).filter
        fun g => match g.key with
          | .wg id _ => !ids.contains id
          | _ => !(g.expected.isEmpty && g.seeds.isEmpty)
    ops := (s.ops.map fun o => { o with lanes := o.lanes.filter fun l => !(gone.contains l.uid && !o.outlives) }).filter
      fun o => !o.lanes.isEmpty
    tokens := s.tokens.filter fun p => !gone.contains p.2
    saves := s.saves.filter fun (i : SaveImage) => !(ids.contains i.wg && i.slot == 0)
    wgs := s.wgs.filter fun w => !ids.contains w.id } : State).unhold fun _ l => gone.contains l.uid).over cores fun s c => s.coreFreed c

/-- Does a graph come from a queue entry? -/
def Graph.queued (g : Graph) : Bool :=
  match g.src with
  | .queue .. => true
  | _ => false

/-- Is a fault that of an access which goes on when its context has stopped: an operation that completes (R30), the write of a fault record,
of which none is dropped (R399), or an access that the device makes of what it has formed (R461)? -/
def State.faultStays (s : State) (f : FaultRec) : Bool :=
  match f.src with
  | .op id uid => s.ops.any fun o => o.id == id && o.lanes.any (·.uid == uid)
  | .record _ | .dropped .. => true
  | _ => false

/-- What becomes of a fault when a context stops, once its work has ended: one that holds no entry is gone with its access. -/
def State.faultAfterStop (s : State) (asid : Nat) (f : FaultRec) : Option FaultRec :=
  if f.asid ≠ asid || s.faultStays f then some f
  else match f.phase with
    | .new | .waitEntry => none
    | _ => some { f with src := .gone, redo := [] }

/-- Stops a context (R403, steps 1 to 4): its workgroups end, its commands and running graphs complete with ABORTED, its queues lose EN. The
completions are events to come; faults that hold an entry keep it until they are resolved (R399, R400). -/
def State.stopCtx (s : State) (asid : Nat) : State :=
  let fe := feOf asid
  let s1 := s.dropWgs ((s.wgsOf asid).map (·.id))
  let s2 := { s1 with
    launches := s1.launches.filter fun (l : Launch) => l.asid != asid
    cmds := s1.cmds.map fun (c : Cmd) => if c.asid = asid then { c with status := 9, ended := true, paused := false } else c
    graphs := s1.graphs.map fun (g : Graph) => if g.asid = asid && (g.started || !g.queued) then { g with
      status := 9, stop := true, started := true, nodes := g.nodes.map fun (n : GNode) => { n with state := .done } } else g
    faults := s1.faults.filterMap (s1.faultAfterStop asid)
    stalls := s1.stalls.filter (· != asid)
    saves := s1.saves.filter fun (i : SaveImage) => i.asid != asid
    halts := s1.halts.filter fun (h : Nat × HaltFor) => s1.wgs.any fun w => w.id == h.1
    ckps := s1.ckps.filter fun (c : Ckp) => c.asid != asid
    undo := s1.undo.filter fun (u : Nat × Nat × List Byte) => u.1 != asid }
  let s3 := s2.posts (((s2.cmds.filter (·.asid == asid)).map fun c => Instr.commandComplete c.id)
    ++ (s2.graphs.filter fun g => g.asid == asid && g.started).map fun g => Instr.graphStart g.id)
  s3.over (upFrom 0 32) fun (s : State) q =>
    let w := s.rreg fe (0x0800 + 16 * q)
    if fld w.toNat 16 6 = asid % 64 then s.wreg fe (0x0800 + 16 * q) (w &&& 0x7FFFFFFF#32) else s

/-- FATAL is raised for a stopped context once its commands and running graphs have completed, and what they have written has performed as a
release at .sys (R350, R403). -/
def State.fatalDone (s : State) (asid : Nat) : State :=
  if s.fatals.contains asid && !(s.cmds.any (·.asid == asid)) && !(s.graphs.any fun g => g.asid == asid && g.started) then
    let s1 := (({ s with fatals := s.fatals.filter (· != asid), wdogs := s.wdogs.filter (· != asid) } : State).rdcSync asid false).irq
      (feOf asid) 4
    if s.wdogs.contains asid then s1.irq (feOf asid) 5 else s1
  else s

/-- The place of a management core, from 0 for the root core over 1 to 16 for the function cores to 17 for the security core (R9), as an
address-space id beyond those of R344. DESIGN CHOICE (notes/assumptions/51.md). -/
def mgmtAsid (k : Nat) : Nat := 64 * (40 + k)

/-- A management core whose thread cannot go on stops; the VF of a function core is marked FATAL (R345, R350). DESIGN CHOICE (notes/assumptions/51.md). -/
def State.mgmtStop (s : State) (asid : Nat) : State :=
  let k := feOf asid - 40
  let s1 := s.stopCtx asid
  if 1 ≤ k && k ≤ 16 then s1.irq k 4 else s1

/-- A fatal context error with the fault address where one exists (R403, R442): the context stops, the code is recorded unless one stands, and
FATAL is raised. -/
def State.fatalAt (s : State) (asid code addr : Nat) : State :=
  if mgmtAsid 0 ≤ asid then s.mgmtStop asid else
  let fe := feOf asid
  let s4 := s.stopCtx asid
  let s5 := if s4.fatalCode asid = 0 then s4.wreg fe (0x1C00 + 8 * (asid % 64) + 7) (BitVec.ofNat 32 code) else s4
  let s6 : State := { s5 with fatals := if s5.fatals.contains asid then s5.fatals else s5.fatals ++ [asid] }
  (s6.fatalDone asid).boxFatal fe code asid addr

/-- The same where there is no fault address. -/
def State.fatal (s : State) (asid code : Nat) : State := s.fatalAt asid code 0

/-! ## Traps (R221 to R223) -/

/-- Leaves an open transaction with an abort code (R115): the write set is dropped and the thread stands at the abort target. -/
def Thread.abortTx (t : Thread) (code : Nat) : Thread :=
  match t.tx with
  | none => t
  | some x => { t with
      tx := none
      pc := x.abortTo
      park := none
      rep := .none
      st := { t.st with
        abort := code, intx := false, irrev := false
        conflicts := if code = 2 || code = 3 then min 8 (t.st.conflicts + 1) else t.st.conflicts } }

/-- Instructions whose accesses are transactional inside a transaction (R248). -/
def Instr.transactional : Instr → Bool
  | .ld .. | .st .. | .atm .. => true
  | _ => false

/-- Lowers the counter of a class. -/
def Thread.lower (t : Thread) : OpClass → Thread
  | .l => { t with cntL := t.cntL - 1 }
  | .s => { t with cntS := t.cntS - 1 }
  | .t => { t with cntT := t.cntT - 1 }

/-- Raises the counter of a class (R53). -/
def Thread.raiseCnt (t : Thread) : OpClass → Thread
  | .l => { t with cntL := t.cntL + 1 }
  | .s => { t with cntS := t.cntS + 1 }
  | .t => { t with cntT := t.cntT + 1 }

def Thread.cnt (t : Thread) : OpClass → Nat
  | .l => t.cntL | .s => t.cntS | .t => t.cntT

/-- Replaces an operation; one without lanes is gone. -/
def State.setOp (s : State) (id : Nat) (f : Op → Op) : State :=
  { s with ops := (s.ops.map fun (o : Op) => if o.id = id then f o else o).filter fun o => !o.lanes.isEmpty }

/-- Accesses of global memory, and those that write it. -/
def Instr.isGlobal : Instr → Bool
  | .ld .. | .st .. | .atm .. | .rdm .. | .vbmin .. | .ldlod .. | .sample .. | .cpltest .. | .rbox .. | .rtri .. => true
  | _ => false
def Instr.writesGlobal : Instr → Bool
  | .st .. | .atm .. | .rdm .. | .vbmin .. => true
  | _ => false

/-- Aborts a thread's transaction (R115, R249): transactional accesses in flight are discarded. -/
def State.abortTx (s : State) (uid code : Nat) : State :=
  let mine := fun (o : Op) => Instr.transactional o.instr && o.lanes.any fun l => l.uid == uid && l.tx
  let s1 := s.over (s.ops.filter mine) fun (s : State) o => s.updThr uid (·.lower o.cls)
  let strip := fun (o : Op) => if mine o then { o with lanes := o.lanes.filter fun l => !(l.uid == uid && l.tx) } else o
  let s2 : State := { s1 with ops := (s1.ops.map strip).filter fun o => !o.lanes.isEmpty }
  (s2.updThr uid (·.abortTx code)).unhold fun _ l => l.uid == uid

/-- Trap entry of one thread (R221 step 4): the trap registers, REPST, INH and the PC. DEDUCED (notes/assumptions/14.md). -/
def Thread.enterTrap (t : Thread) (entry : DWord) (cause oslot code : Nat) (xaddr resume : DWord) : Thread :=
  { t with
    trap := { xpc := packetOf resume, inh := true, rslot := slotOf resume, oslot := oslot, cause := cause, code := code,
              xaddr := xaddr, xrep := t.rep }
    rep := .none
    park := none
    pc := entry }

/-- Taking a trap (R221): cause, slot of the offending word, XINFO.CODE, access address, resume point. A revocable transaction aborts
with FAULT first and its abort target becomes the resume point; a handler that traps, or a launch without a trap entry, stops the
context. -/
def State.takeTrap (s : State) (uid cause oslot code : Nat) (xaddr resume : DWord) : State :=
  match s.thr? uid with
  | none => s
  | some t =>
      let rv := t.tx.isSome && !t.st.irrev
      let resume' := if rv then ((t.tx.map (·.abortTo)).getD resume) else resume
      let s1 := if rv then s.abortTx uid 5 else s
      if t.trap.inh then s1.fatalAt (s.asidOf t.wg) 2 xaddr.toNat
      else match (s.launchOfWg t.wg).bind (·.trap) with
        | none => s1.fatalAt (s.asidOf t.wg) 3 xaddr.toNat
        | some entry => s1.updThr uid fun t => t.enterTrap entry cause oslot code xaddr resume'

/-- A trap that an earlier chain has raised is taken before the thread's next one (R57, R224). DEDUCED (notes/assumptions/14.md). -/
def State.takePend (s : State) (uid : Nat) : State :=
  match s.thr? uid with
  | none => s
  | some t => match t.pend with
    | [] => s
    | p :: ps => (s.updThr uid fun t => { t with pend := ps }).takeTrap uid p.cause p.oslot 0 p.xaddr t.pc

/-- A precise trap of the instruction being executed, resuming at this chain (R222). The lane is recorded as trapped at its slot. -/
def State.trapHere (s : State) (uid cause code : Nat) (xaddr : DWord) : State :=
  let s1 := s.takeTrap uid cause s.iss.slot code xaddr s.iss.pc
  { s1 with iss := { s1.iss with trapped := s1.iss.trapped ++ [(uid, s.iss.slot)] } }

/-- A trap that resumes at the chain that follows (R222). -/
def State.trapNext (s : State) (uid cause code : Nat) (xaddr : DWord) : State :=
  s.takeTrap uid cause s.iss.slot code xaddr s.iss.next

/-- The code of XINFO for a first poisoned operand (R223). -/
def firstPoisoned (t : Thread) (os : List Opnd) : Nat :=
  match os.find? t.opPois with
  | none => 0
  | some o => if o.field then o.code else ((o.regs.find? t.poisoned).getD o.code)

/-- Is an unrecoverable register among them (R224)? -/
def anyLost (t : Thread) (os : List Opnd) : Bool := os.any fun o => o.regs.any fun r => (t.reg r).mark == .lost

/-- POISON_CONSUMED in a lane (R187, R220, R223). -/
def State.trapPoison (s : State) (t : Thread) (full : Bool) (os : List Opnd) : State :=
  s.trapHere t.uid 3 ((if full then 1 else 0) + (if anyLost t os then 2 else 0) + 4 * firstPoisoned t os) 0

/-- The return's register part (R225): INH, REPST and the trap registers, and the PC at the resume point. -/
def Thread.leaveTrap (t : Thread) : Thread :=
  { t with rep := t.trap.xrep, pc := t.trap.xpc + BitVec.ofNat 64 (4 * t.trap.rslot), trap := .zero }

/-! ## Issue of a thread instruction -/

/-- The launch and the core of the issuing PC group. -/
def State.issWg (s : State) : Nat := ((s.iss.lanes.head?).map (·.wg)).getD 0
def State.issLaunch (s : State) : Option Launch := s.launchOfWg s.issWg
def State.issAsid (s : State) : Nat := s.asidOf s.issWg

/-- The register count of a launch, rounded up to a multiple of 8 (R46). -/
def Launch.aregs (l : Launch) : Nat := roundUp l.regs 8

/-- Outside the scalar profile (R41). -/
def notScalar : Instr → Bool
  | .derx .. | .dery .. | .sample .. | .reorder .. | .spawn .. | .cont .. | .gbar .. | .resv .. | .rfree .. | .seq ..
  | .accrd .. => true
  | _ => false

/-- The cause that an instruction's words give at issue, in every lane of the PC group (R171, R172): ILLEGAL_INSTRUCTION before
REG_RANGE. -/
def State.issueCause (s : State) (i : Instr) : Option Nat :=
  let regs := (s.issLaunch.map (·.aregs)).getD 120
  let isStk := match i with
    | .rstkPush .. | .rstkPop .. | .rstkDepth .. | .rstkClear .. => (s.issLaunch.map (·.rstack)).getD 0 == 0
    | _ => false
  if !i.wf || (isEnsign s.iss.core && notScalar i) || isStk then some 1
  else if i.operands.all (·.inRange regs) then none
  else some 2

/-- Every lane of the PC group traps at this chain with a cause of the words (R171). -/
def State.trapAll (s : State) (cause : Nat) : State := s.over s.iss.lanes fun s t => s.trapHere t.uid cause 0 0

/-- A thread instruction: the causes of its words first, then its effect. -/
def issued (i : Instr) (s : State) (body : State → State) : Host.Outcome State Fault Refusal :=
  .next (match s.issueCause i with
    | some c => s.trapAll c
    | none => body s)

/-- The effect lane by lane, in ascending lane order, in the lanes that act. -/
def State.eachLane (s : State) (g : Pred) (f : State → Thread → State) : State := s.over (s.acting g) f

/-- Lane by lane, with POISON_CONSUMED where a consumed operand is poisoned (R220). -/
def State.consuming (s : State) (g : Pred) (os : List Opnd) (f : State → Thread → State) : State :=
  s.eachLane g fun s t => if os.any t.opPois then s.trapPoison t false os else f s t

/-- A lane whose instruction takes effect as a transfer out of the chain (a transaction abort): the chain's other words have no effect
there (R249). -/
def State.leaves (s : State) (uid : Nat) : State :=
  { s with iss := { s.iss with trapped := s.iss.trapped ++ [(uid, s.iss.slot)] } }

/-- An operation that R113 makes illegal: aborts a revocable transaction, traps in an irrevocable one (R115, R116). -/
def State.illegalInTx (s : State) (t : Thread) : State :=
  if t.st.irrev then s.trapHere t.uid 18 0 0 else (s.abortTx t.uid 7).leaves t.uid

/-- Holds the lane at this chain: it is not ready, none of its words takes effect there, and it issues again (R13, R17). -/
def State.retry (s : State) (uid : Nat) : State :=
  let s1 := s.updThr uid fun t => { t with pc := s.iss.pc }
  { s1 with iss := { s1.iss with retried := s1.iss.retried ++ [uid] } }

/-- The target of a packet offset: P + 12 × OFF (R164). One that wraps at 2^52 is no multiple of 12: the branch is taken without a trap, to the
slot that the address names of the packet that contains it. DESIGN CHOICE (notes/assumptions/56.md). -/
def State.target (s : State) (off : Int) : DWord := BitVec.ofNat 64 (((packetOf s.iss.pc).toInt + 12 * off).emod (2 ^ 52)).toNat

/-- Is an address a legal target: bits 63:52 clear (R227), a packet address (R165)? The cause and the address it reports. -/
def targetCause (a : DWord) : Option (Nat × DWord) :=
  if a.toNat ≥ 2 ^ 52 then some (7, a) else if a.toNat % 12 ≠ 0 then some (10, 0) else none

end Sys2Proof.Machine
end

