-- ==== Sys2Proof/Machine/Flags.lean ====
section
/-! DEFINITION. Flags and status words: raising exception flags (R57, R85), the words that SRD reads and its clears (R55 to R58), the
trap-register words (R223), and the execution of a lane computation with poison and flags (R50, R188, R224). -/

namespace Sys2Proof.Machine

/-- FENABLE of the context of a workgroup (R55). -/
def State.fenableOf (s : State) (wg : Nat) : Flags := (mget 0#32 s.fenable (s.asidOf wg)).setWidth 5

/-- Raises flags in a thread: they stick, and an enabled one makes the thread trap before its next instruction, naming the raising
instruction (R57). -/
def State.raise (s : State) (t : Thread) (fl : Flags) : State :=
  if fl = 0 then s
  else s.updThr t.uid fun t => { t with
    xfl := t.xfl ||| fl
    pend := if fl &&& s.fenableOf t.wg = 0 || t.pend.any (·.cause == 5) then t.pend
            else t.pend ++ [⟨5, s.iss.slot, s.iss.instrAddr⟩] }

/-! ## Words of the special registers -/

def boolNat (b : Bool) : Nat := if b then 1 else 0

/-- TSTAT (R56). -/
def TStat.word (t : TStat) : Word := BitVec.ofNat 32
  (t.conflicts * 2 ^ 16 + t.abort * 2 ^ 8 + boolNat t.irrev * 16 + boolNat t.intx * 8 + boolNat t.monFull * 4
    + boolNat t.degraded * 2 + boolNat t.skipped)

/-- CNTRS (R58). -/
def Thread.cntrs (t : Thread) : Word := BitVec.ofNat 32 (t.cntT * 2 ^ 24 + t.cntC * 2 ^ 16 + t.cntS * 2 ^ 8 + t.cntL)

/-- REPST (R58). -/
def Rep.word (r : Rep) : Word := BitVec.ofNat 32
  (boolNat r.active * 2 ^ 31 + r.total * 2 ^ 24 + r.done * 2 ^ 16 + r.sd * 2 ^ 12 + r.sa * 2 ^ 10 + r.sb * 2 ^ 8)

/-- POISON word i (R55): the poison bits of v(32i) to v(32i + 31). -/
def Thread.poisonWord (t : Thread) (i : Nat) : Word :=
  BitVec.ofNat 32 (maskOf ((upFrom 0 32).filter fun k => t.poisoned (32 * i + k)))

/-- A port's 4-bit code (R254). -/
def Port.num : Port → Nat
  | .unbound => 0 | .copy => 1 | .gather => 2 | .coll => 3 | .cpl => 4 | .hoistout => 5 | .hoistin => 6 | .halyard => 7
  | .mailbox => 8

/-- QPORTLO and QPORTHI from queue `lo` on (R55). -/
def Wg.qports (w : Wg) (lo : Nat) : Word :=
  BitVec.ofNat 32 ((upFrom 0 8).foldl (fun n i => n + Port.num (w.queues.toList.getD (lo + i) .none).port * 2 ^ (4 * i)) 0)

def Wg.qbound (w : Wg) : Word :=
  BitVec.ofNat 32 (maskOf ((upFrom 0 16).filter fun i => (w.queues.toList.getD i .none).port != .unbound))

/-- The cluster where a front end's partition begins (R409: CFIRST in PTN_RANGE bits 4:0). -/
def State.partBase (s : State) (fe : Nat) : Nat := fld (s.rregN 0 (0x1000 + 8 * fe)) 0 5

/-- COREID (R55). The spec gives an ensign core no index within its cluster, and a management core no cluster: what it gives no value for is
free, one value for each core. DESIGN CHOICE (notes/assumptions/1.md). -/
def State.coreId (s : State) (asid core : Nat) : Nat :=
  let free := (Config.freeWord (2 ^ 64 + core)).toNat
  if core < 216 then (clusterOf core - s.partBase (feOf asid)) * 2 ^ 8 + core % 12
  else if core < 252 then (clusterOf core - s.partBase (feOf asid)) * 2 ^ 8 + fld free 0 4
  else fld free 8 8 * 2 ^ 8 + fld free 0 4

/-- The value of a special register (R55). -/
def State.spr (s : State) (t : Thread) (x : Spr) : Word :=
  let w := s.wg? t.wg
  let core := ((w.map (·.core)).getD 0)
  match x with
  | .tstat => t.st.word
  | .xflags => t.xfl.setWidth 32
  | .cntrs => t.cntrs
  | .tilew => BitVec.ofNat 32 t.logw
  | .repst => t.rep.word
  | .poison0 => t.poisonWord 0
  | .poison1 => t.poisonWord 1
  | .poison2 => t.poisonWord 2
  | .poison3 => t.poisonWord 3
  | .fenable => (s.fenableOf t.wg).setWidth 32
  | .gangid => match w.bind (·.gang) with
      | none => 0#32
      | some (_, m) => BitVec.ofNat 32 (((s.launchOfWg t.wg).map (·.gangSize)).getD 0 * 2 ^ 16 + m)
  | .qbound => (w.map (·.qbound)).getD 0
  | .qportlo => (w.map (·.qports 0)).getD 0
  | .qporthi => (w.map (·.qports 8)).getD 0
  | .spawnct => (w.map (·.spawnCt)).getD 0
  | .cyclo => BitVec.ofNat 32 (s.cycleCount core)
  | .cychi => BitVec.ofNat 32 (s.cycleCount core / 2 ^ 32)
  | .coreid => BitVec.ofNat 32 (s.coreId (s.asidOf t.wg) core)

/-- The clear of `.clr` (R55 to R57): the fields marked clear. -/
def Thread.clearSpr (t : Thread) (x : Spr) : Thread :=
  match x with
  | .tstat => { t with st := { t.st with abort := 0, monFull := false, degraded := false, skipped := false } }
  | .xflags => { t with xfl := 0 }
  | _ => t

/-- XCAUSE and XINFO (R223). -/
def Thread.xcause (t : Thread) : Word := BitVec.ofNat 32
  (boolNat t.trap.inh * 2 ^ 31 + t.log.length % 256 * 2 ^ 16 + t.trap.rslot * 2 ^ 12 + t.trap.oslot * 2 ^ 8 + t.trap.cause)
def Thread.xinfo (t : Thread) : Word := BitVec.ofNat 32 t.trap.code

/-! ## A computation in each lane -/

/-- The sources of a derived entry: each clean word as a value, each poisoned one as its owner's word (R224). -/
def State.logSrc (s : State) (t : Thread) (o : Opnd) : List LogSrc :=
  if o.code < 120 then o.regs.map fun r => match (t.reg r).mark with
    | .owned e k => .ent e k
    | _ => .val (t.val r)
  else if o.n = 2 then [.val (lo32 (s.opnd t o)), .val (hi32 (s.opnd t o))] else [.val (lo32 (s.opnd t o))]

/-- The value under a poison bit: free (notes/assumptions/1.md). -/
def State.freeWords (s : State) (n : Nat) : List Word × State :=
  ((upFrom s.fresh n).map Config.poisonWord, { s with fresh := s.fresh + n })

/-- Writes words to destinations one after the other, all owned by an entry. -/
def Thread.wrOwned (t : Thread) (e : Nat) (ws : List Word) (ds : List (Dst × Nat)) : Thread :=
  (ds.foldl (fun (acc : Thread × Nat) x =>
    (acc.1.wrWords x.1 ((ws.drop acc.2).take x.2) fun k => .owned e (acc.2 + k), acc.2 + x.2)) (t, 0)).1

/-- A derived entry (R224): it holds the instruction and its sources, and owns the destinations, given with their lengths. A full log, or
a log that may not grow in the handler, traps. No flag is raised. -/
def State.deriveInto (s : State) (i : Instr) (t : Thread) (os : List Opnd) (srcs : List (List LogSrc)) (ds : List (Dst × Nat)) : State :=
  if t.trap.inh then s.trapPoison t false os
  else if (t.log.filter (·.isDerived)).length ≥ 64 then s.trapPoison t true os
  else
    let (ws, s1) := s.freeWords (ds.foldl (fun n x => n + x.2) 0)
    let (id, s2) := s1.newId
    let e : LogEntry := ⟨id, i, .derived t.lane srcs⟩
    s2.updThr t.uid fun t => ({ t with log := t.log ++ [e] }).wrOwned id ws ds

/-- One lane of an instruction that reads poison (R224): an unrecoverable source makes the result unrecoverable; otherwise a derived
entry is made and owns the destination. -/
def State.derive (s : State) (i : Instr) (d : Dst) (w : Bool) (t : Thread) : State :=
  let n := if w then 2 else 1
  if anyLost t i.srcs then
    let (ws, s1) := s.freeWords n
    s1.updThr t.uid fun t => t.wrWords d ws fun _ => .lost
  else s.deriveInto i t i.srcs (i.srcs.map (s.logSrc t)) [(d, n)]

/-- The three operand values of a lane computation. -/
def State.vals (s : State) (t : Thread) (i : Instr) : DWord × DWord × DWord :=
  match i.srcs.map (s.opnd t) with
  | [] => (0, 0, 0)
  | [a] => (a, 0, 0)
  | [a, b] => (a, b, 0)
  | a :: b :: c :: _ => (a, b, c)

/-- One lane: the result clean in the destination, its flags raised (R50, R188). -/
def State.aluLane (i : Instr) (f : AluFn) (d : Dst) (w : Bool) (s : State) (t : Thread) : State :=
  if i.srcs.any t.opPois then s.derive i d w t
  else
    let (a, b, c) := s.vals t i
    let r := f t.lane a b c
    (s.updThr t.uid fun t => (t.wrW w d r.1).trimLog).raise t r.2

/-- An instruction that computes one register or pair in each lane. -/
def aluExec (i : Instr) (f : AluFn) (g : Pred) (d : Dst) (w : Bool) (s : State) : Host.Outcome State Fault Refusal :=
  issued i s fun s => s.eachLane g (State.aluLane i f d w)

/-- A compare: writes its predicate; a poisoned source traps (R187). -/
def cmpExec (i : Instr) (f : DWord → DWord → Bool × Flags) (g : Pred) (p : Pred) (s : State) :
    Host.Outcome State Fault Refusal :=
  issued i s fun s => s.consuming g i.srcs fun s t =>
    let (a, b, _) := s.vals t i
    let r := f a b
    (s.updThr t.uid (·.setPred p r.1)).raise t r.2

end Sys2Proof.Machine
end

