-- ==== Sys2Proof/Machine/Lanes.lean ====
section
/-! DEFINITION. Lane operations (R86 to R88, R208 to R212), block conversion (R83, R84, R204), derivatives (R216), PART and SRD. They
see the lanes of the issuing PC group as they stood before the chain (R19, R54). -/

namespace Sys2Proof.Machine

/-- The thread at a lane among `ts`. -/
def atLane (ts : List Thread) (l : Nat) : Option Thread := ts.find? (·.lane == l)

/-- The active lanes of the tile of lane `l`, by position; `none` where no active lane stands (R58, R208). -/
def tileOf (ts : List Thread) (logw l : Nat) : List (Option Thread) :=
  (upFrom (l / 2 ^ logw * 2 ^ logw) (2 ^ logw)).map (atLane ts)

/-- A lane operation over tiles: all active lanes must hold one LOGW, or each traps with TILE_MISMATCH (R58). -/
def State.tiled (s : State) (g : Pred) (f : State → Thread → State) : State :=
  let ts := s.active g
  if ts.all fun t => t.logw == ((ts.head?).map (·.logw)).getD 5 then s.eachLane g f
  else s.eachLane g fun s t => s.trapHere t.uid 13 0 0

/-- Writes a lane result, clean or as a free value with unrecoverable poison (R187, R224); its flags rise either way, from the values
found (R211, R216). -/
def State.laneOut (s : State) (t : Thread) (d : Dst) (w : Bool) (pois : Bool) (x : DWord) (fl : Flags) : State :=
  (if pois then
    let (ws, s1) := s.freeWords (if w then 2 else 1)
    s1.updThr t.uid fun t => t.wrWords d ws fun _ => .lost
  else s.updThr t.uid fun t => (t.wrW w d x).trimLog).raise t fl

/-- SWZ's source position (R209). -/
def swzPos (mode : SwzMode) (p n w : Nat) (b : Nat) : Option Nat :=
  let r : Int := match mode with
    | .bcast => n
    | .xor => ((p ^^^ n : Nat) : Int)
    | .up => (p : Int) - n
    | .down => p + n
    | .rot => (((p + n) % w : Nat) : Int)
    | .idx => ((b % 32 : Nat) : Int)
  if 0 ≤ r && r < w then some r.toNat else none

/-- SWZ (R209). In mode idx the poison of b, on which the position rests, counts with that of the value delivered (R187).
DESIGN CHOICE (notes/assumptions/72.md). -/
def execSwz (g : Pred) (d : Dst) (a b : Src) (mode : SwzMode) (n : BitVec 5) (s : State) : Host.Outcome State Fault Refusal :=
  issued (.swz g d a b mode n) s fun s =>
    let ts := s.active g
    s.tiled g fun s t =>
      let w := 2 ^ t.logw
      let from' := ((swzPos mode (t.lane % w) n.toNat w (s.src t b).toNat).bind fun p => atLane ts (t.lane / w * w + p)).getD t
      s.laneOut t d false (from'.opPois (.s a) || (mode == .idx && t.opPois (.s b))) ((s.src from' a).setWidth 64) 0

/-- VOTE (R210). -/
def execVote (g : Pred) (d : Dst) (ps : Pred) (op : VoteOp) (s : State) : Host.Outcome State Fault Refusal :=
  issued (.vote g d ps op) s fun s =>
    let ts := s.active g
    s.tiled g fun s t =>
      let w := 2 ^ t.logw
      let tl := (tileOf ts t.logw t.lane).filterMap id
      let yes := tl.filter (·.pred ps)
      let x := match op with
        | .ballot => maskOf (yes.map fun t => t.lane % w)
        | .any => boolNat (!yes.isEmpty)
        | .all => boolNat (yes.length == tl.length)
        | .eq => boolNat (yes.isEmpty || yes.length == tl.length)
      s.laneOut t d false false (BitVec.ofNat 64 x) 0

/-- One node of a reduction (R86, R211): integers wrap, floats round with the mode and follow R194. -/
def redNode (ty : Ty) (op : RedOp) (rnd : Rnd) (a b : Nat) : Nat × Flags :=
  let n := 2 ^ ty.width
  match op with
  | .add => if ty.isFloat then fAdd ty rnd 0 a b else ((a + b) % n, 0)
  | .min => if ty.isFloat then fMinMax false ty a b else (if intOf ty a ≤ intOf ty b then a % n else b % n, 0)
  | .max => if ty.isFloat then fMinMax true ty a b else (if intOf ty a ≤ intOf ty b then b % n else a % n, 0)
  | .and => (a &&& b, 0)
  | .or => (a ||| b, 0)
  | .xor => (a ^^^ b, 0)

/-- The identity of an operation (R88). -/
def redIdent (ty : Ty) (op : RedOp) : Nat :=
  match op with
  | .add => if ty.isFloat then signed ty true 0 else 0
  | .min => if ty.isFloat then ty.maxMag + 1 else if ty.isSigned then 2 ^ (ty.width - 1) - 1 else 2 ^ ty.width - 1
  | .max => if ty.isFloat then signed ty true (ty.maxMag + 1) else if ty.isSigned then 2 ^ (ty.width - 1) else 0
  | .and => 2 ^ ty.width - 1
  | .or | .xor => 0

/-- One level of the pairwise tree (R86). -/
def pairUp (f : Nat → Nat → Nat × Flags) : List Nat → List Nat × Flags
  | a :: b :: xs =>
      let r := f a b
      let (ys, fl) := pairUp f xs
      (r.1 :: ys, r.2 ||| fl)
  | xs => (xs, 0)

/-- The whole tree of 2^k values. -/
def treeRed (f : Nat → Nat → Nat × Flags) : Nat → List Nat → Nat × Flags
  | 0, xs => (xs.headD 0, 0)
  | k + 1, xs =>
      let (ys, fl) := pairUp f xs
      let r := treeRed f k ys
      (r.1, fl ||| r.2)

/-- The inclusive scan (R87): `k` steps, the next of distance `d`. -/
def scanRed (f : Nat → Nat → Nat × Flags) : Nat → Nat → List Nat → List Nat × Flags
  | 0, _, ys => (ys, 0)
  | k + 1, d, ys =>
      let rs := ((upFrom 0 ys.length).zip ys).map fun p => if p.1 < d then (p.2, 0) else f (ys.getD (p.1 - d) 0) p.2
      let fl := rs.foldl (fun fl r => fl ||| r.2) (0 : Flags)
      let r := scanRed f k (2 * d) (rs.map (·.1))
      (r.1, fl ||| r.2)

/-- The values of a tile, identities where no active lane stands, and the OR of their poison. -/
def State.tileVals (s : State) (ts : List Thread) (t : Thread) (ty : Ty) (op : RedOp) (a : Src) : List Nat × Bool :=
  let tl := tileOf ts t.logw t.lane
  let o := Opnd.sw ty.wide a
  (tl.map fun x => match x with
    | some u => (s.opnd u o).toNat
    | none => redIdent ty op,
   tl.any fun x => (x.map (·.opPois o)).getD false)

/-- LRED (R86, R211). -/
def execLred (g : Pred) (d : Dst) (a : Src) (ty : Ty) (op : RedOp) (rnd : Rnd) (s : State) :
    Host.Outcome State Fault Refusal :=
  issued (.lred g d a ty op rnd) s fun s =>
    let ts := s.active g
    s.tiled g fun s t =>
      let (xs, p) := s.tileVals ts t ty op a
      let r := treeRed (redNode ty op rnd) t.logw xs
      s.laneOut t d ty.wide p (BitVec.ofNat 64 r.1) r.2

/-- LSCAN (R87, R211). -/
def execLscan (g : Pred) (d : Dst) (a : Src) (x : Bool) (ty : Ty) (op : RedOp) (rnd : Rnd) (s : State) :
    Host.Outcome State Fault Refusal :=
  issued (.lscan g d a x ty op rnd) s fun s =>
    let ts := s.active g
    s.tiled g fun s t =>
      let (xs, p) := s.tileVals ts t ty op a
      let r := scanRed (redNode ty op rnd) t.logw 1 xs
      let pos := t.lane % 2 ^ t.logw
      let y := if x then (if pos = 0 then redIdent ty op else r.1.getD (pos - 1) 0) else r.1.getD pos 0
      s.laneOut t d ty.wide p (BitVec.ofNat 64 y) r.2

/-- Element `e` of `sz` bits of eight registers from `a` in a lane; empty and inactive lanes supply zero (R212). -/
def trspElem (t : Option Thread) (a : Src) (sz e : Nat) : Nat × Bool :=
  match t with
  | none => (0, false)
  | some t =>
      let r := e * sz / 32
      let ws := t.group (.sg 8 1 a)
      (fld (ws.getD r 0#32).toNat (e * sz % 32) sz, match a with | .v n => t.poisoned (n.val + r) | _ => false)

def TrspSize.bits : TrspSize → Nat
  | .n8 => 8 | .n16 => 16 | .n32 => 32

/-- TRSP (R212). -/
def execTrsp (g : Pred) (d : Dst) (a : Src) (sz : TrspSize) (s : State) : Host.Outcome State Fault Refusal :=
  issued (.trsp g d a sz) s fun s =>
    let ts := s.active g
    let b := TrspSize.bits sz
    let n := 256 / b
    s.eachLane g fun s t =>
      let base := t.lane / n * n
      let p := t.lane - base
      let per := 32 / b
      let out := (upFrom 0 8).map fun r =>
        (upFrom 0 per).foldl (fun (acc : Nat × Bool) k =>
          let x := trspElem (atLane ts (base + r * per + k)) a b p
          (acc.1 + x.1 * 2 ^ (k * b), acc.2 || x.2)) (0, false)
      let (ws, s1) := if out.any (·.2) then s.freeWords 8 else ([], s)
      s1.updThr t.uid fun t => (t.wrWords d (((upFrom 0 8).zip out).map fun q =>
          if q.2.2 then ws.getD q.1 0#32 else BitVec.ofNat 32 q.2.1)
        fun r => if (out.getD r (0, false)).2 then .lost else .clean).trimLog

/-! ## Block conversion -/

/-- The block, the element index and the output byte of element (register j, half h) of lane l: CONVB and SCALEB (R204). -/
def blkPlace (scale : Bool) (len : BlkLen) (l j h : Nat) : Nat × Nat × Nat :=
  if !scale then (0, 32 * j + l, j)
  else if len = .l32 then (l / 16, 2 * (l % 16) + h, 2 * j + h)
  else (0, 64 * j + 2 * l + h, 2 * j + h)

/-- The operand of a block's source: one register, or a group (R48). -/
def blkOpnd (a : Src) (n : Nat) : Opnd := if n = 1 then .s a else .sg n 1 a

/-- The source words of a lane (R204); an inactive lane supplies zeros. -/
def State.blkWords (s : State) (ts : List Thread) (a : Src) (n l : Nat) : List Word :=
  match atLane ts l with
  | none => List.replicate n 0
  | some t => if n = 1 then [s.src t a] else t.group (blkOpnd a n)

/-- Element value of lane l, from the source words of the lanes (R204). -/
def blkElem (ws : List (List Word)) (scale b2 : Bool) (l j h : Nat) : FVal :=
  let w := ((ws.getD l []).getD j 0#32).toNat
  if scale then decodeF (if b2 then .bf16 else .f16) (fld w (16 * h) 16) else decodeF .f32 w

/-- The parameters of a block conversion. -/
structure BlkConv where
  scale : Bool
  tt    : Ty
  len   : BlkLen
  b2    : Bool
  rnd   : Rnd
  ph    : Nat
deriving DecidableEq, Repr

/-- Source registers per lane, whether the codes fill a pair, and the block of a lane. -/
def BlkConv.regs (k : BlkConv) : Nat := if k.scale then scalebRegs k.len else convbRegs k.len
def BlkConv.wide (k : BlkConv) : Bool := if k.scale then k.regs == 4 else k.regs == 8
def BlkConv.blockOf (k : BlkConv) (l : Nat) : Nat := (blkPlace k.scale k.len l 0 0).1

/-- One block converted (R204): its scale code, the codes with their lanes, bytes and flags. -/
def BlkConv.codes (k : BlkConv) (ws : List (List Word)) (blk : Nat) : Nat × List (Nat × Nat × Nat × Flags) :=
  let hs := if k.scale then [0, 1] else [0]
  let coords := (upFrom 0 32).flatMap fun l => (upFrom 0 k.regs).flatMap fun j => hs.map fun h => (l, j, h)
  let mine := coords.filter fun c => (blkPlace k.scale k.len c.1 c.2.1 c.2.2).1 == blk
  let els := mine.map fun c => (c, blkElem ws k.scale k.b2 c.1 c.2.1 c.2.2)
  let (c, past) := blockScale k.tt (els.map (·.2))
  (c, els.map fun p =>
    let pl := blkPlace k.scale k.len p.1.1 p.1.2.1 p.1.2.2
    (p.1.1, pl.2.2, blockElem k.tt k.rnd c past (dithT pl.2.1 k.ph) p.2))

/-- The code bytes of a lane, and the flags of a block. -/
def blkValue (codes : List (Nat × Nat × Nat × Flags)) (l : Nat) : DWord :=
  BitVec.ofNat 64 ((codes.filter fun x => x.1 == l).foldl (fun v x => v + x.2.2.1 * 2 ^ (8 * x.2.1)) 0)
def blkFlags (codes : List (Nat × Nat × Nat × Flags)) : Flags := codes.foldl (fun fl x => fl ||| x.2.2.2) 0

/-- The parameters of an instruction that converts blocks. -/
def Instr.blkConv : Instr → Option BlkConv
  | .convb _ _ _ tt len rnd _ ph => some ⟨false, tt, len, false, rnd, ph.toNat⟩
  | .scaleb _ _ _ tt len b2 rnd _ ph => some ⟨true, tt, len, b2, rnd, ph.toNat⟩
  | _ => none

/-- What a block conversion writes in a lane, from the source words of the lanes: the words of the codes and the scale, and the flags. -/
def BlkConv.outs (k : BlkConv) (ws : List (List Word)) (l : Nat) : List Word × Flags :=
  let r := k.codes ws (k.blockOf l)
  let v := blkValue r.2 l
  ((if k.wide then [lo32 v, hi32 v] else [lo32 v]) ++ [BitVec.ofNat 32 r.1], blkFlags r.2)

/-- CONVB and SCALEB (R204): codes and scale of each block; every active lane of a block takes its flags and poison. A lane in whose own
registers alone the block is poisoned makes a derived entry, which holds the words of the other lanes (R224); any other poison is
unrecoverable. DESIGN CHOICE (notes/assumptions/53.md). -/
def State.convBlock (s : State) (i : Instr) (k : BlkConv) (g : Pred) (d : Dst) (a : Src) (e : Dst) : State :=
  let ts := s.active g
  let ws := (upFrom 0 32).map (s.blkWords ts a k.regs)
  let o := blkOpnd a k.regs
  s.over (if k.scale && k.len == .l32 then [0, 1] else [0]) fun s blk =>
    let r := k.codes ws blk
    let pois := ts.filter fun t => k.blockOf t.lane == blk && t.opPois o
    s.over ((s.acting g).filter fun t => k.blockOf t.lane == blk) fun s t =>
      if (pois.map (·.uid)) == [t.uid] && !anyLost t [o] then
        s.deriveInto i t [o] ((upFrom 0 32).map fun l => if l = t.lane then s.logSrc t o else (ws.getD l []).map .val)
          [(d, if k.wide then 2 else 1), (e, 1)]
      else (s.laneOut t d k.wide (!pois.isEmpty) (blkValue r.2 t.lane) (blkFlags r.2)).laneOut t e false (!pois.isEmpty)
        (BitVec.ofNat 64 r.1) 0

/-- CONVB (R204). -/
def execConvb (g : Pred) (d : Dst) (a : Src) (tt : Ty) (len : BlkLen) (rnd : Rnd) (e : Dst) (ph : BitVec 7) (s : State) :
    Host.Outcome State Fault Refusal :=
  issued (.convb g d a tt len rnd e ph) s fun s => 
    s.convBlock (.convb g d a tt len rnd e ph) ⟨false, tt, len, false, rnd, ph.toNat⟩ g d a e

/-- SCALEB (R204). -/
def execScaleb (g : Pred) (d : Dst) (a : Src) (tt : Ty) (len : BlkLen) (b2 : Bool) (rnd : Rnd) (e : Dst) (ph : BitVec 7)
    (s : State) : Host.Outcome State Fault Refusal :=
  issued (.scaleb g d a tt len b2 rnd e ph) s fun s => 
    s.convBlock (.scaleb g d a tt len b2 rnd e ph) ⟨true, tt, len, b2, rnd, ph.toNat⟩ g d a e

/-! ## Derivatives -/

/-- The lanes u and w whose values are subtracted (R216). -/
def derPair (y coarse : Bool) (l : Nat) : Nat × Nat :=
  let q := l / 4 * 4
  let j := l - q
  if y then (if coarse then (q, q + 2) else (q + j % 2, q + j % 2 + 2))
  else (if coarse then (q, q + 1) else (q + 2 * (j / 2), q + 2 * (j / 2) + 1))

/-- DERX and DERY (R21, R216). In pixel work every live lane of the quad supplies its value; elsewhere only active lanes do, and a
missing one sets DER_DEGRADED. -/
def State.derive2 (s : State) (y : Bool) (g : Pred) (d : Dst) (a : Src) (coarse : Bool) : State :=
  let all := s.iss.lanes
  let act := s.active g
  s.eachLane g fun s t =>
    let (u, w) := derPair y coarse t.lane
    let ts := if t.pixel then all else act
    match atLane ts u, atLane ts w with
    | some tu, some tw =>
        let r := fSub .f32 .rn 0 (s.src tw a).toNat (s.src tu a).toNat
        s.laneOut t d false (tu.opPois (.s a) || tw.opPois (.s a)) (BitVec.ofNat 64 r.1) r.2
    | _, _ =>
        let s1 := s.laneOut t d false false 0 0
        if t.pixel then s1 else s1.updThr t.uid fun t => { t with st := { t.st with degraded := true } }

/-- DERX (R216). -/
def execDerx (g : Pred) (d : Dst) (a : Src) (coarse : Bool) (s : State) : Host.Outcome State Fault Refusal :=
  issued (.derx g d a coarse) s fun s => s.derive2 false g d a coarse

/-- DERY (R216). -/
def execDery (g : Pred) (d : Dst) (a : Src) (coarse : Bool) (s : State) : Host.Outcome State Fault Refusal :=
  issued (.dery g d a coarse) s fun s => s.derive2 true g d a coarse

/-- PART (R213). -/
def execPart (g : Pred) (n : Fin 6) (s : State) : Host.Outcome State Fault Refusal :=
  issued (.part g n) s fun s => s.eachLane g fun s t => s.updThr t.uid fun t => { t with logw := n.val }

/-- SRD (R55, R207): the value before the chain; `.clr` clears in the same step. -/
def execSrd (g : Pred) (d : Dst) (clr : Bool) (idx : Spr) (s : State) : Host.Outcome State Fault Refusal :=
  issued (.srd g d clr idx) s fun s => s.eachLane g fun s t =>
    let x := s.spr t idx
    s.updThr t.uid fun u => ((if clr then u.clearSpr idx else u).wr d x).trimLog

end Sys2Proof.Machine
end

