-- ==== Sys2Proof/Machine/Memory.lean ====
section
/-! DEFINITION. The memory hierarchy: homes (R390, R451), shadows (R111), the remote data cache (R100), what a write at a home
brings about (R99, R246, R269), translation (R385 to R393), the undo log (R376) and the L1 (R98, R392). -/

namespace Sys2Proof.Machine

def Scope.num : Scope → Nat
  | .wg => 0 | .core => 1 | .clu => 2 | .dev => 3 | .fab => 4 | .sys => 5

/-- Narrow scopes (R98). -/
def Scope.narrow (sc : Scope) : Bool := Scope.num sc ≤ 1

/-! ## Homes -/

/-- Where a byte lives; `own` is the private memory of a management core (R9). -/
inductive Home where
  | dram | bunting | peer | reduce | host | own
deriving DecidableEq, Repr

def hostBase : Nat := 2 ^ 64
def peerBase : Nat := 2 ^ 66
def buntingBase : Nat := 2 ^ 40
/-- The private memory of management core `252 + k` (R9): no other agent has an address for it. -/
def ownBase (k : Nat) : Nat := 2 ^ 100 + k * 2 ^ 52

/-- The home of a memory key. -/
def homeOf (key : Nat) : Home :=
  if key < 2 ^ 40 then .dram
  else if key < 2 ^ 41 then .bunting
  else if key < hostBase then .reduce
  else if key < peerBase then .host
  else if key < 2 ^ 100 then .peer
  else .own

/-- The home of a physical address for a front end (R390, R451); `none` outside every range. -/
def State.homeKey (s : State) (_fe pa : Nat) : Option Nat :=
  if pa < 0x10000000000 then some pa
  else if pa < 0x10003000000 then some pa
  else if pa < 0x800000000000 then none
  else if pa < 0xC00000000000 then
    let w := mget .none s.windows (fld pa 40 6)
    let off := fld pa 0 40
    if w.kind = 0 || off ≥ w.len then none
    else if w.kind = 1 then some (peerBase + w.dev * 2 ^ 48 + w.base + off) else some pa
  else if pa < 2 ^ 48 then some (hostBase + (pa - 0xC00000000000 + s.rreg2 0 0x1E09) % 2 ^ 64)
  else none

/-- The first byte of a line. -/
def lineOf (a : Nat) : Nat := a / 128 * 128

/-! ## Shadows (R111) -/

/-- Bytes of an element. -/
def Ty.bytes (ty : Ty) : Nat := Ty.width ty / 8

/-- Folds the shadow of a line, each element rounded with rn (R77, R111). -/
def State.fold (s : State) (line : Nat) : State :=
  match s.shadows.find? (·.line == line) with
  | none => s
  | some h => { s with
      mem := mputs 0#8 s.mem line (h.elems.flatMap fun e => bytesOf (Ty.bytes h.ty) (fConv .f32 h.ty .rn 0 e).1)
      shadows := s.shadows.filter (·.line != line) }

/-! ## The L2 (R6, R8, R411) -/

/-- The L2 slice, by its cluster, that homes a line. DESIGN CHOICE (notes/assumptions/1.md). -/
def sliceOfLine (line : Nat) : Nat := Config.sliceOf line % 18

/-- H of R411. -/
def colourHash (pa : Nat) : Nat :=
  fld pa 7 6 ^^^ fld pa 13 6 ^^^ fld pa 19 6 ^^^ fld pa 25 6 ^^^ fld pa 31 6 ^^^ fld pa 37 6 ^^^ fld pa 43 5

/-- The colours of a front end's committed mask (R409, R411); the mask stands in indices that read as zero. -/
def State.colours (s : State) (f : Nat) : List Nat := setBits 64 (s.rreg2 0 (0x1005 + 8 * f))

/-- The colour into which a front end's fill of a line goes (R411). -/
def State.fillColour (s : State) (fe line : Nat) : Option Nat :=
  let cs := s.colours fe
  if cs.isEmpty then none else cs[colourHash line % cs.length]?

/-- MONWAITs on a device-homed line return (R246). -/
def State.monWake (s : State) (line : Nat) : State :=
  { s with threads := s.threads.map fun (t : Thread) => match t.park with
    | some (.mon _ pa _ _ _ _) =>
        if lineOf pa = line then { t with park := none, st := { t.st with monFull := false } } else t
    | _ => t }

/-- A line leaves the L2: its shadow folds (R111), and MONWAITs on it return (R246). -/
def State.l2Evict (s : State) (line : Nat) : State :=
  let s1 := s.fold line
  ({ s1 with l2 := s1.l2.filter fun (x : L2Line) => x.line != line } : State).monWake line

/-- An element of a list, by a free value. -/
def pickFree (xs : List α) (k : Nat) : Option α := xs[(Config.freeWord k).toNat % xs.length]?

/-- Room for a line of a colour in its slice of the L2, which holds 1,536 lines of each: the line that goes is of that colour, a free choice.
DESIGN CHOICE (notes/assumptions/60.md). -/
def State.l2Room (s : State) (colour line : Nat) : State :=
  let same := s.l2.filter (·.colour == colour)
  let peers := same.filter fun x => sliceOfLine x.line == sliceOfLine line
  if same.length < 1536 || peers.length < 1536 then s
  else match pickFree peers s.fresh with
    | some v => ({ s with fresh := s.fresh + 1 } : State).l2Evict v.line
    | none => s

/-- The L2 holds a line for a requester's front end (R411): a lookup finds it in any colour; a fill goes into a colour of the requester's mask,
and with an empty mask the line is not kept. -/
def State.l2Fill (s : State) (fe line : Nat) : State :=
  if s.l2.any (·.line == line) then s
  else match s.fillColour fe line with
    | none => s
    | some c =>
        let s1 := s.l2Room c line
        { s1 with l2 := s1.l2 ++ [⟨line, c⟩] }

/-! ## What a write at its home brings about -/

/-- After a write of the line of `key` at its home: tracked L1 copies go, but for the writer's own after a narrow write-back (R99);
MONWAITs on the line return (R246), and CPLWAITs on it read again (R269). DEDUCED (notes/assumptions/36.md). -/
def State.touched (s : State) (key : Nat) (keep : Option Nat) : State :=
  let line := lineOf key
  let polls := s.threads.filterMap fun (t : Thread) => match t.park with
    | some (.cpl _ pa _ _ _ _ _) => if lineOf pa = line then some (Instr.cplwaitPoll t.uid) else none
    | _ => none
  { s.monWake line with
    l1 := s.l1.filter fun (l : L1Line) => !(l.pa == line && !Scope.narrow l.sc && some l.core != keep)
    agenda := s.agenda ++ polls }

/-! ## The remote data cache (R100) -/

/-- A line leaves the remote data cache, written back first. -/
def State.rdcDrop (s : State) (line : Nat) : State :=
  let s1 := s.over (s.rdc.filter (·.pa == line)) State.rdcFlush
  { s1 with rdc := s1.rdc.filter (·.pa != line) }

/-- Room for a line in its slice of the remote data cache, which holds 16,384 lines (R6): another line, a free choice, leaves it.
DESIGN CHOICE (notes/assumptions/60.md). -/
def State.rdcRoom (s : State) (line : Nat) : State :=
  let peers := s.rdc.filter fun r => sliceOfLine r.pa == sliceOfLine line
  if s.rdc.length < 16384 || peers.length < 16384 then s
  else match pickFree peers s.fresh with
    | some v => ({ s with fresh := s.fresh + 1 } : State).rdcDrop v.pa
    | none => s

/-- The remote data cache holds a line for an address space. -/
def State.rdcFill (s : State) (asid line : Nat) : State :=
  match s.rdc.find? (·.pa == line) with
  | none =>
      let s1 := s.rdcRoom line
      { s1 with rdc := s1.rdc ++ [⟨[asid], line, 0, mgets 0#8 s1.mem line 128⟩] }
  | some _ => { s with rdc := s.rdc.map fun (r : RdcLine) =>
      if r.pa = line && !r.asids.contains asid then { r with asids := r.asids ++ [asid] } else r }

/-! ## Access at the point of coherence -/

/-- Free bytes, for reads that the spec leaves open (notes/assumptions/1.md). -/
def State.freeBytes (s : State) (n : Nat) : List Byte × State :=
  ((upFrom s.fresh n).map fun k => (Config.freeWord k).setWidth 8, { s with fresh := s.fresh + n })

/-- Does a line hold an uncorrectable error (R450)? DESIGN CHOICE (notes/assumptions/50.md). -/
def State.bad (s : State) (key : Nat) : Bool := s.ecc.contains (lineOf key)

/-- MEMORY_ERROR: an uncorrectable error read for a context stops it (R450), and is recorded (R442, R443).
DEDUCED (notes/assumptions/33.md). -/
def State.memErr (s : State) (asid key : Nat) : State :=
  if s.bad key then ((s.fatalAt asid 8 key).boxPut 8 0xFFFF 8 asid key).persist else s

/-- A device-homed line at its home: its shadow folds (R111), and the L2 holds it (R8). -/
def State.atHome (s : State) (asid key : Nat) : State := (s.fold (lineOf key)).l2Fill (feOf asid) (lineOf key)

/-- Reads bytes of one line at the point of coherence of a scope. DEDUCED (notes/assumptions/37.md). -/
def State.homeRead (s0 : State) (asid key n : Nat) (sc : Scope) : List Byte × State :=
  let s := s0.memErr asid key
  match homeOf key with
  | .dram => let s1 := s.atHome asid key; (mgets 0#8 s1.mem key n, s1)
  | .bunting | .host | .own => (mgets 0#8 s.mem key n, s)
  | .reduce => s.freeBytes n
  | .peer =>
      if Scope.num sc ≥ 4 then let s1 := s.rdcDrop (lineOf key); (mgets 0#8 s1.mem key n, s1)
      else
        let s1 := s.rdcFill asid (lineOf key)
        ((((s1.rdc.find? (·.pa == lineOf key)).map (·.data)).getD []).drop (key % 128) |>.take n, s1)

/-- Writes bytes of one line at the point of coherence of a scope. DEDUCED (notes/assumptions/37.md). -/
def State.homeWrite (s : State) (asid key : Nat) (bs : List Byte) (sc : Scope) (keep : Option Nat) : State :=
  match homeOf key with
  | .dram => let s1 := s.atHome asid key; ({ s1 with mem := mputs 0#8 s1.mem key bs } : State).touched key keep
  | .bunting | .host | .own => ({ s with mem := mputs 0#8 s.mem key bs } : State).touched key keep
  | .reduce => s
  | .peer =>
      if Scope.num sc ≥ 4 then
        let s1 := s.rdcDrop (lineOf key)
        ({ s1 with mem := mputs 0#8 s1.mem key bs } : State).touched key keep
      else
        let s1 := s.rdcFill asid (lineOf key)
        let k := key % 128
        ({ s1 with rdc := s1.rdc.map fun (r : RdcLine) => if r.pa = lineOf key then { r with
            dirty := r.dirty ||| ((2 ^ bs.length - 1) * 2 ^ k)
            data := r.data.take k ++ bs ++ r.data.drop (k + bs.length) } else r } : State).touched key keep

/-! ## Translation (R385 to R393) -/

/-- What an access needs of a translation (R388). -/
inductive XAcc where
  | load | store | atomic | fetch
deriving DecidableEq, Repr

/-- A leaf: page bits, output base, permissions, A and D, and the key of its entry. -/
structure Leaf where
  bits : Nat
  base : Nat
  r    : Bool
  w    : Bool
  x    : Bool
  a    : Bool
  d    : Bool
  key  : Nat
deriving DecidableEq, Repr

/-- What one entry says at a level (R386). Kinds are those of R398. -/
inductive EntryIs where
  | table (oa : Nat) | leaf (bits oa : Nat) | bad (kind : Nat)
deriving DecidableEq, Repr

def entryIs (lvl e : Nat) : EntryIs :=
  let oa := fld e 12 36 * 4096
  let t := bitOf e 1
  let p64 := bitOf e 7
  if !bitOf e 0 then .bad 0
  else if fld e 48 8 != 0 || fld e 8 4 != 0 || (t && lvl == 3) || (!t && lvl == 0) || (p64 && lvl != 3)
      || (t && fld e 2 6 != 0) then .bad 4
  else if t then .table oa
  else
    let bits := if lvl = 1 then 30 else if lvl = 2 then 21 else if p64 then 16 else 12
    if oa % 2 ^ bits != 0 then .bad 4 else .leaf bits oa

def mkLeaf (e bits oa key : Nat) : Leaf := ⟨bits, oa, bitOf e 2, bitOf e 3, bitOf e 4, bitOf e 5, bitOf e 6, key⟩

/-- The index of a level (R385). -/
def lvlIndex (stage1 : Bool) (va lvl : Nat) : Nat := if stage1 && lvl = 0 then fld va 39 13 else fld va (39 - 9 * lvl) 9

/-- The bit of an entry, set by an atomic OR at .dev (R389). -/
def State.orEntry (s : State) (asid key bits : Nat) : State :=
  let (bs, s1) := s.homeRead asid key 8 .dev
  let v := leNat bs
  if v ||| bits = v then s1 else s1.homeWrite asid key (bytesOf 8 (v ||| bits)) .dev none

/-- A stage-2 walk; any failure is a stage-2 fault (R396). -/
def State.walk2 (s : State) (asid table ia : Nat) : List Nat → Option Leaf × State
  | [] => (none, s)
  | lvl :: ls =>
      match s.homeKey (feOf asid) (table + 8 * lvlIndex false ia lvl) with
      | none => (none, s)
      | some k =>
          let (bs, s1) := s.homeRead asid k 8 .dev
          let e := leNat bs
          match entryIs lvl e with
          | .bad _ => (none, s1)
          | .leaf bits oa => (some (mkLeaf e bits oa k), s1)
          | .table oa => s1.walk2 asid oa ia ls

/-- The stage-2 root of a front end (R406). DEDUCED (notes/assumptions/44.md). -/
def State.s2root (s : State) (asid : Nat) : Nat := s.rreg2 (feOf asid) 0x1E00

/-- The home of an intermediate address that is to be read: stage 2 grants R, and its leaf's A is set. -/
def State.readIa (s : State) (asid ia : Nat) (spec : Bool) : Option Nat × State :=
  let (l, s1) := s.walk2 asid (s.s2root asid) ia [0, 1, 2, 3]
  match l with
  | none => (none, s1)
  | some l =>
      if !l.r then (none, s1)
      else match s1.homeKey (feOf asid) (l.base + ia % 2 ^ l.bits) with
        | none => (none, s1)
        | some k => (some k, if spec then s1 else s1.orEntry asid l.key 32)

/-- A stage-1 fault with its kind and level, or a stage-2 fault. -/
inductive XFault where
  | s1 (kind level : Nat) | s2
deriving DecidableEq, Repr

/-- A stage-1 walk: each table is read through stage 2 (R386). -/
def State.walk1 (s : State) (asid table va : Nat) (spec : Bool) : List Nat → (Except XFault (Leaf × Nat)) × State
  | [] => (.error .s2, s)
  | lvl :: ls =>
      let (k, s1) := s.readIa asid ((table + 8 * lvlIndex true va lvl) % 2 ^ 48) spec
      match k with
      | none => (.error .s2, s1)
      | some k =>
          let (bs, s2) := s1.homeRead asid k 8 .dev
          let e := leNat bs
          match entryIs lvl e with
          | .bad kind => (.error (.s1 kind lvl), s2)
          | .leaf bits oa => (if oa + 2 ^ bits > 2 ^ 48 then .error (.s1 5 lvl) else .ok (mkLeaf e bits oa k, lvl), s2)
          | .table oa => s2.walk1 asid oa va spec ls

/-- Does a leaf grant an access (R388)? The kind of the denial if not. -/
def Leaf.denies (l : Leaf) : XAcc → Option Nat
  | .load => if l.r then none else some 1
  | .store => if l.w then none else some 2
  | .atomic => if !l.r then some 1 else if l.w then none else some 2
  | .fetch => if l.x then none else some 3

def XAcc.writes : XAcc → Bool
  | .store | .atomic => true
  | _ => false

/-- A granted translation: the key of the byte's home, and whether the page grants writes with D set. -/
structure Phys where
  key : Nat
  w   : Bool
deriving DecidableEq, Repr

/-- Does a page lie in one home, byte after byte (R390)? A page that reaches past its home is not cached. -/
def State.wholePage (s : State) (fe base bits : Nat) : Bool :=
  match s.homeKey fe base, s.homeKey fe (base + 2 ^ bits - 1) with
  | some a, some b => b == a + 2 ^ bits - 1
  | _, _ => false

/-- A fresh walk of both stages. A and D are set, and the translation is cached, unless the access is speculative (R389, R401).
DEDUCED (notes/assumptions/36.md). -/
def State.walk (s : State) (cluster asid va : Nat) (acc : XAcc) (spec : Bool) : (Except XFault Phys) × State :=
  let (r, s1) := s.walk1 asid (s.rreg2 (feOf asid) (0x1C00 + 8 * (asid % 64)) % 2 ^ 48) va spec [0, 1, 2, 3]
  match r with
  | .error f => (.error f, s1)
  | .ok (l1, lvl) =>
      match l1.denies acc with
      | some kind => (.error (.s1 kind lvl), s1)
      | none =>
          let ia := l1.base + va % 2 ^ l1.bits
          let (l2, s2) := s1.walk2 asid (s.s2root asid) ia [0, 1, 2, 3]
          match l2 with
          | none => (.error .s2, s2)
          | some l2 =>
              match l2.denies acc, s2.homeKey (feOf asid) (l2.base + ia % 2 ^ l2.bits) with
              | none, some key =>
                  if spec then (.ok ⟨key, false⟩, s2)
                  else
                    let up := if acc.writes then 96 else 32
                    let s3 := (s2.orEntry asid l1.key up).orEntry asid l2.key up
                    let bits := min l1.bits l2.bits
                    let d := (l1.d && l2.d) || acc.writes
                    let e : TlbEntry := ⟨cluster, asid, bits, va / 2 ^ bits * 2 ^ bits, ia / 2 ^ bits * 2 ^ bits, key - va % 2 ^ bits,
                      l1.r && l2.r, l1.w && l2.w, l1.x && l2.x, d⟩
                    let whole := s3.wholePage (feOf asid) (l2.base + ia % 2 ^ l2.bits - va % 2 ^ bits) bits
                    (.ok ⟨key, e.w && d⟩, { s3 with tlb := s3.tlb.filter (fun (x : TlbEntry) =>
                      !(x.cluster == cluster && x.asid == asid && (x.va < e.va + 2 ^ bits && e.va < x.va + 2 ^ x.bits)))
                        ++ if whole then [e] else [] })
              | _, _ => (.error .s2, s2)

/-- Does a cached entry grant an access, D included (R389, R393)? -/
def TlbEntry.grants (e : TlbEntry) : XAcc → Bool
  | .load => e.r
  | .store => e.w && e.d
  | .atomic => e.r && e.w && e.d
  | .fetch => e.x

/-- The cached entry of a cluster TLB that grants an access, if any (R391). -/
def State.tlbHit (s : State) (cluster asid va : Nat) (acc : XAcc) : Option TlbEntry :=
  s.tlb.find? fun e => e.cluster == cluster && e.asid == asid && decide (e.va ≤ va) && decide (va < e.va + 2 ^ e.bits) && e.grants acc

/-- Translation at the cluster TLB (R391, R393): a cached entry that grants serves; otherwise both stages are walked. A management core
addresses its private memory, untranslated. DESIGN CHOICE (notes/assumptions/51.md). -/
def State.xlate (s : State) (cluster asid va : Nat) (acc : XAcc) (spec : Bool) : (Except XFault Phys) × State :=
  if cluster ≥ 40 then (.ok ⟨ownBase (cluster - 40) + va % 2 ^ 52, true⟩, s)
  else match s.tlbHit cluster asid va acc with
  | some e => (.ok ⟨e.pa + (va - e.va), e.w && e.d⟩, s)
  | none => s.walk cluster asid va acc spec

/-! ## Checkpointed contexts (R375 to R379) -/

/-- The queue of a context that keeps checkpoints, if any: mode ROLLBACK (R375). -/
def State.rollbackQueue (s : State) (asid : Nat) : Option Nat :=
  (upFrom 0 32).find? fun q =>
    let w := s.rregN (feOf asid) (0x0800 + 16 * q)
    fld w 16 6 == asid % 64 && bitOf w 25

/-- The front ends whose valid partitions hold a cluster (R409). -/
def State.sharers (s : State) (cl : Nat) : List Nat :=
  (upFrom 0 17).filter fun f =>
    let r := s.rregN 0 (0x1000 + 8 * f)
    bitOf r 31 && decide (fld r 0 5 ≤ cl) && decide (cl ≤ fld r 16 5)

/-- Does a context take checkpoints: a ROLLBACK queue, or a partition that shares a cluster (R359, R375)? -/
def State.takesCkp (s : State) (asid : Nat) : Bool :=
  (s.rollbackQueue asid).isSome
    || (upFrom 0 18).any fun cl => (s.sharers cl).contains (feOf asid) && (s.sharers cl).length ≥ 2

/-- A context that takes checkpoints stands halted for an irrevocable operation (R379). -/
def State.stallFor (s : State) (asid : Nat) : State :=
  if s.takesCkp asid && !s.stalls.contains asid then { s with stalls := s.stalls ++ [asid] } else s

/-- An irrevocable operation of a context that takes checkpoints is followed by a checkpoint, until whose images are written the
context stands halted (R379). -/
def State.irrevocable (s : State) (asid : Nat) : State :=
  if s.takesCkp asid then (s.postOnce (.checkpoint asid)).stallFor asid else s

/-- Is an access irrevocable by its scope or its home (R379)? -/
def irrevAccess (sc : Scope) (key : Nat) : Bool := Scope.num sc ≥ 4 || homeOf key == .peer || homeOf key == .host || homeOf key == .bunting
  || homeOf key == .reduce

/-- Writes bytes at a virtual address of a context at .dev, 8 bytes a unit, up to the first that faults. -/
def State.ctxWrite (s : State) (cluster asid : Nat) (sc : Scope) : Nat → Nat → List Byte → Except XFault State
  | 0, _, _ => .ok s
  | n + 1, va, bs =>
      match bs with
      | [] => .ok s
      | _ =>
          let k := 8 - va % 8
          match s.xlate cluster asid (va % 2 ^ 52) .store false with
          | (.ok p, s1) => (s1.homeWrite asid p.key (bs.take k) sc none).ctxWrite cluster asid sc n (va + k) (bs.drop k)
          | (.error f, _) => .error f

/-- Reads bytes at a virtual address of a context at a scope's point of coherence, 8 bytes a unit. -/
def State.ctxRead (s : State) (cluster asid : Nat) (sc : Scope) : Nat → Nat → Nat → (Except XFault (List Byte)) × State
  | 0, _, _ => (.ok [], s)
  | fuel + 1, va, n =>
      if n = 0 then (.ok [], s)
      else
        let k := min n (8 - va % 8)
        match s.xlate cluster asid (va % 2 ^ 52) .load false with
        | (.error f, s1) => (.error f, s1)
        | (.ok p, s1) =>
            let (bs, s2) := s1.homeRead asid p.key k sc
            match s2.ctxRead cluster asid sc fuel (va + k) (n - k) with
            | (.error f, s3) => (.error f, s3)
            | (.ok cs, s3) => (.ok (bs ++ cs), s3)

/-! ## Faults detected (R396 to R398) -/

/-- The lane group of a thread. -/
def State.gidOf (s : State) (uid : Nat) : Nat := ((s.thr? uid).map (·.gid)).getD 0

/-- Do two requesters belong to one operation (R398): lanes of one operation in flight, or lanes of one lane group that make the reads of
one wait, or replay entries of one instruction, in one step? -/
def State.sameOp (s : State) (r : FaultRec) (src : FaultSrc) : Bool :=
  match r.src, src with
  | .op a _, .op b _ => a == b
  | .wait a i, .wait b j => r.step == s.stepNo && s.gidOf a == s.gidOf b && a != b && i == j
  | _, _ => false

/-- Records a fault that has been detected; ACCESS_FAULT deals with it. Records of one operation for one page and KIND merge (R398). -/
def State.newFault (s : State) (asid : Nat) (src : FaultSrc) (va access : Nat) (f : XFault) (resp : Bool) (tid wg : Word) (tag : Nat)
    (redo : List Instr) : Nat × State :=
  let (st2, kind, level) := match f with
    | .s1 k l => (false, k, l)
    | .s2 => (true, 0, 0)
  let same := s.faults.find? fun (r : FaultRec) => s.sameOp r src && r.phase == .new && !r.stage2 && !st2
    && r.va / 4096 == va / 4096 && r.kind == kind
  match same with
  | some r => (r.id, { s with faults := s.faults.map fun (x : FaultRec) =>
      if x.id = r.id then { x with lanes := true, redo := x.redo ++ redo } else x })
  | none =>
      let (id, s1) := s.newId
      let r : FaultRec := ⟨id, s.stepNo, asid, src, .new, st2, false, false, va, kind, access, level, resp, false, false, 0, tid, wg, tag, redo⟩
      (id, ({ s1 with faults := s1.faults ++ [r] } : State).post (.accessFault id))

/-- The fault of a device access on a context's behalf (R461): an answer is awaited, and then the event happens again. An access that
faults again meanwhile waits with the first. DEDUCED (notes/assumptions/33.md). -/
def State.deviceFault (s : State) (asid : Nat) (src : FaultSrc) (va access : Nat) (f : XFault) (redo : List Instr) : State :=
  if s.faults.any fun r => r.src == src && r.va == va && r.access == access then
    { s with faults := s.faults.map fun (r : FaultRec) => if r.src = src && r.va = va && r.access = access then
        { r with redo := r.redo ++ redo.filter fun i => !r.redo.contains i } else r }
  else
  (s.newFault asid src va access f true 0xFFFFFFFF#32 0xFFFFFFFF#32 0 redo).2

/-- The undo records of a context since its last checkpoint was taken. -/
def State.undoLog (s : State) (asid : Nat) : List (Nat × Nat × List Byte) :=
  (s.undo.filter fun u => u.1 == asid).drop (((s.ckps.find? fun c => c.asid == asid && !c.complete).map (·.pos)).getD 0)

/-- What becomes of a write about to be made: its record stands in the log, the log is full, or the undo area faults. -/
inductive UndoRes where
  | ok (s : State) | full | fault (va : Nat) (f : XFault)

/-- A record of the undo log (R376). -/
def undoRecord (va seqNo : Nat) (line : List Byte) : List Byte := bytesOf 8 va ++ bytesOf 8 seqNo ++ line

/-- The undo log (R376, R377): before the first write of a line since the last checkpoint, its record goes to the undo area. At 75% of
the area a checkpoint is forced. -/
def State.undoTry (s : State) (cluster asid va : Nat) (line : List Byte) : UndoRes :=
  if !s.takesCkp asid || (s.undoLog asid).any (fun u => u.2.1 == lineOf va) then .ok s
  else
    let fe := feOf asid
    let b := 0x0A00 + 8 * (asid % 64)
    let used := s.rregN fe (b + 4)
    let size := s.rregN fe (b + 3)
    let noted := fun (s1 : State) =>
      let s2 : State := { s1 with undo := s1.undo ++ [(asid, lineOf va, line)] }
      if used + 144 ≥ size * 3 / 4 then s2.postOnce (.checkpoint asid) else s2
    if size = 0 then .ok (noted s)
    else if used + 144 > size then .full
    else match s.ctxWrite cluster asid .dev 40 (s.rreg2 fe (b + 1) + used) (undoRecord (lineOf va) (used / 144) line) with
      | .ok s1 => .ok (noted (s1.wreg fe (b + 4) (BitVec.ofNat 32 (used + 144))))
      | .error f => .fault (s.rreg2 fe (b + 1) + used) f

/-- The record of a write that does not wait for it. -/
def State.undoNote (s : State) (cluster asid va : Nat) (line : List Byte) : State :=
  match s.undoTry cluster asid va line with
  | .ok s1 => s1
  | _ => s

/-- Before a write: may it go on? Where the log is full it is made again until a checkpoint has emptied the log (R377), and where the undo
area faults, once the fault is answered (R461). -/
def State.undoGate (s : State) (cluster asid va : Nat) (line : List Byte) (redo : Instr) : Bool × State :=
  match s.undoTry cluster asid va line with
  | .ok s1 => (true, s1)
  | .full => (false, (s.postOnce (.checkpoint asid)).postOnce redo)
  | .fault at' f => (false, s.deviceFault asid (.device asid) at' 6 f [redo])

/-- The same before a write of bytes at a virtual address of a context, whose translation is looked up without a trace. -/
def State.undoBefore (s : State) (cluster asid va : Nat) (redo : Instr) : Bool × State :=
  if !s.takesCkp asid then (true, s)
  else match s.xlate cluster asid va .store true with
    | (.error _, _) => (true, s)
    | (.ok p, _) => s.undoGate cluster asid va (s.homeRead asid (lineOf p.key) 128 .dev).1 redo

/-- The same before a device's write of `n` bytes: every line of it. -/
def State.undoSpan (s : State) (cluster asid va n : Nat) (redo : Instr) : Bool × State :=
  ((upFrom 0 (n / 128 + 2)).filter fun k => k = 0 || lineOf va + 128 * k < va + n).foldl (fun acc k =>
    if acc.1 then acc.2.undoBefore cluster asid (if k = 0 then va else lineOf va + 128 * k) redo else acc) (true, s)

/-- Is a context's undo log full, so that its cores stall (R377)? -/
def State.undoFull (s : State) (asid : Nat) : Bool :=
  let b := 0x0A00 + 8 * (asid % 64)
  s.takesCkp asid && s.rregN (feOf asid) (b + 3) ≠ 0 && s.rregN (feOf asid) (b + 4) + 144 > s.rregN (feOf asid) (b + 3)

/-! ## The L1 (R98) -/

def L1Line.isAt (l : L1Line) (core asid va : Nat) : Bool := l.core == core && l.asid == asid && l.va == lineOf va

def State.l1at (s : State) (core asid va : Nat) : Option L1Line := s.l1.find? (·.isAt core asid va)

def State.updL1 (s : State) (core asid va : Nat) (f : L1Line → L1Line) : State :=
  { s with l1 := s.l1.map fun (l : L1Line) => if l.isAt core asid va then f l else l }

/-- Runs of set bits of a mask: first bit and length. -/
def runsOf (mask : Nat) : List Nat → List (Nat × Nat)
  | [] => []
  | i :: is =>
      let rs := runsOf mask is
      if !bitOf mask i then rs
      else match rs with
        | (j, n) :: rest => if j = i + 1 then (i, n + 1) :: rest else (i, 1) :: (j, n) :: rest
        | [] => [(i, 1)]

/-- Writes a line back to the point of coherence of a scope; the line becomes clean. -/
def State.writeBack (s : State) (l : L1Line) (sc : Scope) : State :=
  if l.dirty = 0 then s
  else (s.updL1 l.core l.asid l.va fun l => { l with dirty := 0 }).over (runsOf l.dirty (upFrom 0 128)) fun s r =>
    s.homeWrite l.asid (l.pa + r.1) (l.data.drop r.1 |>.take r.2) sc (some l.core)

/-- A line leaves an L1, written back first. -/
def State.l1Drop (s : State) (l : L1Line) (sc : Scope) : State :=
  let s1 := s.writeBack l sc
  { s1 with l1 := s1.l1.filter fun (x : L1Line) => !x.isAt l.core l.asid l.va }

/-- The scope below which a release or an acquire acts on the L1: the tag of a peer line stops at .dev (R98). -/
def tagBelow (l : L1Line) (sc : Scope) : Bool := Scope.num l.sc < Scope.num sc

/-- A release, or the write-back half of a fence, at a scope (R98, R100). -/
def State.release (s : State) (core asid : Nat) (sc : Scope) : State :=
  if Scope.narrow sc then s
  else
    let s1 := s.over (s.l1.filter fun l => l.core == core && tagBelow l sc) fun s l => s.writeBack l sc
    if Scope.num sc ≥ 4 then s1.rdcSync asid false else s1

/-- An acquire, or the invalidating half of a fence, at a scope (R98, R100). -/
def State.acquire (s : State) (core asid : Nat) (sc : Scope) : State :=
  if Scope.narrow sc then s
  else
    let s1 := s.over (s.l1.filter fun l => l.core == core && tagBelow l sc) fun s l => s.l1Drop l sc
    if Scope.num sc ≥ 4 then s1.rdcSync asid true else s1

/-- The tag of a line filled from the point of coherence of a scope (R98). -/
def fillTag (key : Nat) (sc : Scope) : Scope :=
  if Scope.narrow sc then .core
  else match homeOf key with
    | .host | .bunting => .core
    | .peer => if Scope.num sc > 3 then .dev else sc
    | _ => sc

/-- The line that stands at the tag of an address for another page leaves the L1 (R392). -/
def State.l1Stale (s : State) (core asid va base : Nat) : State :=
  s.over (s.l1.filter fun l => l.isAt core asid va && l.pa != base) fun s l => s.l1Drop l .dev

/-- Room for a line in the L1, which holds 1,024 (R7): another line, a free choice, leaves it. DESIGN CHOICE (notes/assumptions/60.md). -/
def State.l1Room (s : State) (core : Nat) : State :=
  let own := s.l1.filter (·.core == core)
  if own.length < 1024 then s
  else match pickFree own s.fresh with
    | some l => ({ s with fresh := s.fresh + 1 } : State).l1Drop l .dev
    | none => s

/-- The L1 holds the line of an address for a scope: a line of the same physical line under another tag moves (R392); a line whose
tag is too low, or none, is filled. DEDUCED (notes/assumptions/36.md). -/
def State.l1Fill (s : State) (core asid va key : Nat) (w : Bool) (sc : Scope) : State :=
  let base := key - va % 128
  let s0 := s.l1Stale core asid va base
  let s1 : State := { s0 with l1 := s0.l1.map fun (l : L1Line) =>
    if l.core = core && l.pa = base then { l with asid := asid, va := lineOf va, wr := w } else l }
  let poc := if Scope.narrow sc then Scope.dev else sc
  match s1.l1at core asid va with
  | some l =>
      if Scope.narrow sc || Scope.num l.sc ≥ Scope.num sc then s1
      else
        let s2 := s1.writeBack l poc
        let (bs, s3) := s2.homeRead asid base 128 poc
        s3.updL1 core asid va fun l => { l with data := bs, sc := fillTag key sc, wr := w, filledAt := s.cycleCount core }
  | none =>
      let (bs, s2) := (s1.l1Room core).homeRead asid base 128 poc
      { s2 with l1 := s2.l1 ++ [⟨core, asid, lineOf va, base, w, fillTag key sc, 0, s2.cycleCount core, 0, bs⟩] }

/-- The bytes of a line at an address. -/
def L1Line.bytesAt (l : L1Line) (va n : Nat) : List Byte := l.data.drop (va % 128) |>.take n

/-- A load through the L1 (R98): a hit needs no translation. -/
def State.l1Load (s : State) (core asid va n : Nat) (sc : Scope) : (Except XFault (List Byte)) × State :=
  let hit := match s.l1at core asid va with
    | some l => if Scope.narrow sc || Scope.num l.sc ≥ Scope.num sc then some l else none
    | none => none
  match hit with
  | some l => (.ok (l.bytesAt va n), s)
  | none =>
      match s.xlate (clusterOf core) asid va .load false with
      | (.error f, s1) => (.error f, s1)
      | (.ok p, s1) =>
          let s2 := s1.l1Fill core asid va p.key p.w sc
          (.ok (((s2.l1at core asid va).map (·.bytesAt va n)).getD []), s2)

/-- The translation of a write: a line with the write grant serves (R392). -/
def State.l1Grant (s : State) (core asid va : Nat) (acc : XAcc) : (Except XFault Phys) × State :=
  match s.l1at core asid va with
  | some l => if l.wr then (.ok ⟨l.pa + va % 128, true⟩, s) else s.xlate (clusterOf core) asid va acc false
  | none => s.xlate (clusterOf core) asid va acc false

/-- The line of an address as the core sees it, for the undo log. -/
def State.lineSeen (s : State) (core asid va key : Nat) : List Byte × State :=
  match s.l1at core asid va with
  | some l => (l.data, s)
  | none => s.homeRead asid (key - va % 128) 128 .dev

/-- Bytes replaced in a line's data. -/
def patch (data : List Byte) (k : Nat) (bs : List Byte) : List Byte := data.take k ++ bs ++ data.drop (k + bs.length)

/-- Own lines of an address, virtual or physical, leave the L1 before an access at the point of coherence. -/
def State.l1Out (s : State) (core asid va line : Nat) : State :=
  s.over (s.l1.filter fun l => l.core == core && (l.pa == line || l.isAt core asid va)) fun s l => s.l1Drop l .dev

/-- A store through the L1 (R98): narrow stores into the line, wider ones at the point of coherence. -/
def State.l1Store (s : State) (core asid va : Nat) (bs : List Byte) (sc : Scope) : (Option XFault) × State :=
  match s.l1Grant core asid va .store with
  | (.error f, s1) => (some f, s1)
  | (.ok p, s1) =>
      let s2 := if s1.takesCkp asid then
          let (ln, s2) := s1.lineSeen core asid va p.key
          s2.undoNote (clusterOf core) asid va ln
        else s1
      if Scope.narrow sc then
        let s3 := s2.l1Fill core asid va p.key true .core
        (none, s3.updL1 core asid va fun l => { l with
          wr := true, sc := .core
          dirtyAt := if l.dirty = 0 then s.cycleCount core else l.dirtyAt
          dirty := l.dirty ||| ((2 ^ bs.length - 1) * 2 ^ (va % 128))
          data := patch l.data (va % 128) bs })
      else
        let s3 := s2.l1Out core asid va (p.key - va % 128)
        (none, s3.homeWrite asid p.key bs sc none)

end Sys2Proof.Machine
end

