-- ==== Sys2Proof/Machine/Threads.lean ====
section
/-! DEFINITION. The life of threads: lane groups (R15), bins (R22 to R24), the continuation ring (R25 to R27), barriers (R35, R37, R40,
R312), REORDER rounds (R31, R32), the end of a thread (R30) and of a workgroup (R33). -/

namespace Sys2Proof.Machine

/-! ## What a core has in use -/

/-- A workgroup that holds its core: running, or halted in place (R418). -/
def Wg.holds (w : Wg) : Bool := w.state == .resident || w.state == .halted
def State.coreWgs (s : State) (core : Nat) : List Nat := (s.wgs.filter fun w => w.core == core && w.holds).map (·.id)
def State.wgThreads (s : State) (wg : Nat) : List Thread := s.threads.filter (·.wg == wg)
def State.coreThreads (s : State) (core : Nat) : Nat :=
  (s.threads.filter fun t => (s.coreWgs core).contains t.wg).length
def State.coreGroups (s : State) (core : Nat) : Nat := (s.groups.filter (·.core == core)).length
/-- Register-file bytes of a lane group of a launch (R24). -/
def Launch.groupBytes (l : Launch) : Nat := 32 * l.aregs * 4
def State.coreRegBytes (s : State) (core : Nat) : Nat :=
  (s.groups.filter (·.core == core)).foldl (fun n g => n + ((s.launchOfWg g.wg).map (·.groupBytes)).getD 0) 0

/-! ## Traversal areas (R291) -/

/-- The scratchpad allocation of a launch, rounded up to 1 KiB (R91). -/
def Launch.spadSize (l : Launch) : Nat := roundUp l.scratch 1024
/-- Slots of a launch's traversal area, its size and base, and the offsets of a thread's depth word and entries. -/
def Launch.rSlots (l : Launch) : Nat := 32 * ceilDiv l.wgsize 32
def Launch.rSize (l : Launch) : Nat := l.rSlots * (4 + 8 * l.rstack)
def Launch.rBase (l : Launch) : Nat := l.spadSize - l.rSize
def Launch.rDepthAt (l : Launch) (tid : Nat) : Nat := l.rBase + 4 * (tid % l.rSlots)
def Launch.rEntryAt (l : Launch) (tid e : Nat) : Nat := l.rBase + 4 * l.rSlots + 8 * (e * l.rSlots + tid % l.rSlots)

/-- A created thread's depth word is zero, but for CONT, which keeps it (R291). -/
def State.zeroDepth (s : State) (wg : Nat) (sd : Seed) : State :=
  match s.launchOfWg wg with
  | some l =>
      if l.rstack = 0 || sd.origin = 1 || sd.empty then s
      else s.updWg wg fun w => { w with spad := mputs 0#8 w.spad (l.rDepthAt sd.tid.toNat) [0#8, 0#8, 0#8, 0#8] }
  | none => s

/-! ## Threads and lane groups -/

/-- A thread as it starts (R25, R28, R59). -/
def newThread (uid wg gid lane : Nat) (sd : Seed) : Thread :=
  { uid := uid, wg := wg, gid := gid, lane := lane, tid := sd.tid, pc := sd.entry
    regs := Vector.ofFn fun (i : Fin 120) => match sd.payload[i.val]? with
      | some p => ⟨p.1, if p.2 then .lost else .clean⟩
      | none => ⟨0, .clean⟩
    preds := 0, cntL := 0, cntS := 0, cntC := 0, cntT := 0, logw := 5, rep := .none, xfl := 0, st := .zero, trap := .zero, log := []
    tx := none, park := none, pend := [], cmds := [], pixel := sd.pixel, helper := sd.helper, tile := sd.tile, yields := 0, lastIss := 0 }

/-- A new lane group goes to the scheduler that owns fewer (R15). It takes the registers of threads that have ended on its core. -/
def State.newGroup (s : State) (core wg : Nat) : Nat × State :=
  let (id, s1) := s.newId
  let own := fun k => (s1.groups.filter fun g => g.core == core && g.sched == k).length
  (id, { s1 with
    groups := s1.groups ++ [⟨id, core, if own 0 ≤ own 1 then 0 else 1, wg, []⟩]
    ended := s1.ended.filter fun p => p.1 != core })

/-- A thread that an open generation expects has left its bin: it is known by its own name from now on. -/
def Gen.placed (g : Gen) (wg : Nat) (tid : Word) (uid : Nat) : Gen :=
  if g.seeds.contains (wg, tid) then { g with seeds := g.seeds.erase (wg, tid), expected := g.expected ++ [uid] } else g

/-- Puts a thread at a lane of a group. -/
def State.addThread (s : State) (wg gid lane : Nat) (sd : Seed) : State :=
  if sd.empty then s
  else
    let (uid, s1) := s.newId
    { s1 with
      threads := s1.threads ++ [newThread uid wg gid lane sd]
      gens := s1.gens.map fun (g : Gen) => g.placed wg sd.tid uid }

/-- Groups without a thread are released (R15). -/
def State.pruneGroups (s : State) : State := { s with groups := s.groups.filter fun g => s.threads.any fun t => t.gid == g.id }

/-! ## Bins (R22 to R24) and the continuation ring (R25 to R27) -/

def Bin.key (b : Bin) (core wg : Nat) (entry : DWord) (quad : Bool) : Bool :=
  b.core == core && b.wg == wg && b.entry == entry && b.quad == quad

/-- A unit enters a bin; a full bin is due (R23). -/
def State.binPut (s : State) (core num : Nat) (unit : List Seed) : State :=
  let put := fun (b : Bin) => { b with
    lanes := b.lanes ++ unit
    due := if b.lanes.length + unit.length ≥ 32 then some ((s.dueAt b).getD s.dlc) else b.due }
  let s1 : State := { s with bins := s.bins.map fun (b : Bin) => if b.core = core && b.num = num then put b else b }
  if s1.bins.any fun b => b.core == core && b.num == num && b.due.isSome then s1.postOnce (.binLaunch core num) else s1

/-- A tile of a strip begins when its first quad enters a bin, at the level that the strip then has (R140, R141). -/
def Strip.begins (t : Strip) (k now : Nat) : Strip :=
  if t.begun.any (·.1 == k) then t else { t with begun := t.begun ++ [(k, t.lvl)], first := some (t.first.getD now) }

/-- Is a unit a quad that the shade stage has made, and of which tile? -/
def shadeTile (unit : List Seed) : Option Nat := (unit.find? fun sd => sd.origin == 3 && !sd.empty).bind (·.tile)

/-- A unit has entered a bin: the tile of a quad of the shade stage begins. -/
def State.tileBegins (s : State) (wg : Nat) (unit : List Seed) : State :=
  match (s.launchOfWg wg).bind (·.shade), shadeTile unit with
  | some (slot, sq), some k => { s with streams := s.streams.map fun (x : StripStream) => if x.slot = slot then { x with
      strips := x.strips.map fun (t : Strip) => if t.sq = sq then t.begins k s.dlc else t } else x }
  | _, _ => s

/-- Steps 2 and 3 of R26: the earliest-opened bin of the key with room, or a free bin. -/
def State.binAccept (s : State) (core wg : Nat) (entry : DWord) (unit : List Seed) : Option State :=
  let quad := unit.length == 4
  let room := s.bins.filter fun b => b.key core wg entry quad && b.lanes.length + unit.length ≤ 32
  match (sortKey (fun (b : Bin) => [b.opened]) room).head? with
  | some b => some ((s.binPut core b.num unit).tileBegins wg unit)
  | none =>
      match (upFrom 0 64).find? fun n => !(s.bins.any fun b => b.core == core && b.num == n) with
      | some n =>
          let (id, s1) := s.newId
          some (({ s1 with bins := s1.bins ++ [⟨core, n, wg, entry, quad, id, s.dlc, [], none⟩] } : State).binPut core n unit |>.tileBegins wg unit)
      | none => none

/-- A continuation-ring record (R25). -/
def Seed.record (sd : Seed) (opens : Bool) : List Byte :=
  if sd.empty then List.replicate 64 0#8 ++ bytesOf 8 sd.entry.toNat ++ bytesOf 6 0 ++ bytesOf 1 (if opens then 1 else 0)
    ++ bytesOf 1 4 ++ List.replicate 16 0#8
  else
    ((upFrom 0 16).flatMap fun i => bytesOf 4 (((sd.payload[i]?).map fun p => p.1.toNat).getD 0))
      ++ bytesOf 8 sd.entry.toNat ++ bytesOf 4 sd.tid.toNat ++ bytesOf 1 sd.payload.length ++ bytesOf 1 sd.origin
      ++ bytesOf 1 (if opens then 1 else 0) ++ bytesOf 1 ((if sd.pixel then 1 else 0) + (if sd.helper then 2 else 0))
      ++ bytesOf 2 (maskOf ((upFrom 0 16).filter fun i => ((sd.payload[i]?).map (·.2)).getD false))
      ++ bytesOf 2 (sd.tile.getD 0xFFFF) ++ bytesOf 12 0

/-- The records of a unit. -/
def unitRecords (u : List Seed) : List (List Byte) :=
  ((upFrom 0 u.length).zip u).map fun p => p.2.record (p.1 == 0 && u.length == 4)

/-- A fault on the ring pauses it (R25, R461). -/
def State.ringPause (s : State) (wg asid va access : Nat) (f : XFault) : State :=
  (s.updWg wg fun w => { w with paused := true }).deviceFault asid (.device asid) va access f [.ringUnitMove wg]

/-- The address of record `i` of a workgroup's continuation ring (R25, R277). -/
def ringAt (w : Wg) (l : Launch) (i : Nat) : Nat := l.cring + w.index * l.crcap * 96 + 96 * (i % max 1 l.crcap)

/-- Does an answer to a fault on the ring stand out? -/
def State.ringHeld (s : State) (wg : Nat) : Bool := s.faults.any fun r => r.redo.contains (.ringUnitMove wg)

/-- Writes the ring's records that are not yet in memory, in order; each is covered by an undo record (R376). -/
def State.ringWrite (s : State) (wg : Nat) : State :=
  match s.wg? wg, s.launchOfWg wg with
  | some w, some l =>
      let recs := (w.ring.flatMap unitRecords).drop (w.ringOk - w.ringRd)
      s.over ((upFrom w.ringOk recs.length).zip recs) fun s p =>
        if ((s.wg? wg).map (·.paused)).getD true then s
        else
          let va := ringAt w l p.1
          match s.undoSpan (clusterOf w.core) l.asid va 96 (.ringUnitMove wg) with
          | (false, s0) => s0.updWg wg fun w => { w with paused := true }
          | (true, s0) => match s0.ctxWrite (clusterOf w.core) l.asid .dev 13 va p.2 with
            | .ok s1 => s1.updWg wg fun w => { w with ringOk := w.ringOk + 1 }
            | .error f => s0.ringPause wg l.asid va 6 f
  | _, _ => s

/-- A unit is placed (R26): behind the ring when it holds records, else in a bin, else in the ring; a full ring stops the context (R27). -/
def State.placeUnit (s : State) (wg : Nat) (entry : DWord) (unit : List Seed) : State :=
  match s.wg? wg, s.launchOfWg wg with
  | some w, some l =>
      let s1 := s.over unit fun s sd => s.zeroDepth wg sd
      let toRing := fun (s : State) =>
        if w.ringWr - w.ringRd + unit.length > l.crcap then s.fatal l.asid 1
        else (((s.updWg wg fun w => { w with ring := w.ring ++ [unit], ringWr := w.ringWr + unit.length }).ringWrite wg).postOnce
          (.ringUnitMove wg))
      if w.ring.isEmpty then
        (match s1.binAccept w.core wg entry unit with
        | some s2 => s2
        | none => toRing s1)
      else toRing s1
  | _, _ => s

/-- Reads the records of the ring's head unit back. -/
def State.ringRead (s : State) (w : Wg) (l : Launch) : Nat → Nat → Except (Nat × XFault) State
  | 0, _ => .ok s
  | n + 1, i => match s.ctxRead (clusterOf w.core) l.asid .dev 13 (ringAt w l i) 96 with
    | (.error f, _) => .error (ringAt w l i, f)
    | (.ok _, s1) => s1.ringRead w l n (i + 1)

/-- The ring of a workgroup with other units, of which the first `same` records stand in memory as they are. -/
def Wg.setRing (w : Wg) (ring : List (List Seed)) (same : Nat) : Wg :=
  { w with ring := ring, ringWr := w.ringRd + (ring.map (·.length)).foldl (· + ·) 0, ringOk := min w.ringOk (w.ringRd + same) }

/-- RING_UNIT_MOVE (R26): the unit at the head of the ring moves into a bin that accepts it, and the shade stage may place its next tile
(R136). A ring that a fault has paused waits for the answer (R25, R461). -/
def execRingUnitMove (wg : Nat) (s : State) : Host.Outcome State Fault Refusal :=
  .next (if s.ringHeld wg then s else
    let s0 := (s.updWg wg fun w => { w with paused := false }).ringWrite wg
    match s0.wg? wg, s0.launchOfWg wg with
    | some w, some l =>
        (match w.ring with
        | [] => s0
        | unit :: rest =>
            if w.paused || w.state ≠ .resident then s0
            else
              match s0.ringRead w l unit.length w.ringRd with
              | .error (va, f) => s0.ringPause wg l.asid va 5 f
              | .ok s1 =>
                  match s1.binAccept w.core wg ((unit.head?.map (·.entry)).getD 0) unit with
                  | none => s1
                  | some s2 =>
                      let s3 := s2.updWg wg fun w => { w with ring := rest, ringRd := w.ringRd + unit.length }
                      let s4 := if l.shade.isSome && !l.placed then s3.postOnce (.shadeNode l.graph l.node) else s3
                      if rest.isEmpty then s4 else s4.postOnce (.ringUnitMove wg))
    | _, _ => s0)

/-- The threads of a bin in lane order (R15): a single bin by thread id; a quad bin by each quad's lowest thread id. -/
def quadsOf : Nat → List Seed → List (List Seed)
  | 0, _ => []
  | n + 1, xs => if xs.isEmpty then [] else xs.take 4 :: quadsOf n (xs.drop 4)
def lowTid (q : List Seed) : Nat := (q.filter (!·.empty)).foldl (fun n sd => min n sd.tid.toNat) (2 ^ 32)
def Bin.order (b : Bin) : List Seed :=
  if b.quad then (sortKey (fun q => [lowTid q]) (quadsOf 32 b.lanes)).flatMap id
  else sortKey (fun (sd : Seed) => [sd.tid.toNat]) b.lanes

/-- BIN_LAUNCH (R24): the first due bin of its core, when there is room. -/
def execBinLaunch (core bin : Nat) (s : State) : Host.Outcome State Fault Refusal :=
  .next (match s.firstDue core with
    | none => s
    | some b =>
        if b.num ≠ bin then s
        else match s.launchOfWg b.wg with
          | none => s
          | some l =>
              let n := (b.lanes.filter (!·.empty)).length
              if s.coreGroups core ≥ 64 || s.coreThreads core + n > 2048 || s.coreRegBytes core + l.groupBytes > 524288 then s
              else
                let (gid, s1) := s.newGroup core b.wg
                let seeds := b.order
                let s2 := s1.over ((upFrom 0 seeds.length).zip seeds) fun s p => s.addThread b.wg gid p.1 p.2
                let s3 : State := { s2 with bins := s2.bins.filter fun (x : Bin) => !(x.core == core && x.num == bin) }
                s3.coreFreed core)

/-- BIN_TIMER_EXPIRY (R23): the bin is due from the moment of its timer on. -/
def execBinTimerExpiry (core bin : Nat) (s : State) : Host.Outcome State Fault Refusal :=
  .next (if s.bins.any fun b => b.core == core && b.num == bin && b.running && ((s.wg? b.wg).map (·.state)) == some .resident then
    let due := fun (b : Bin) => if b.core = core && b.num = bin && b.running then
      { b with due := some (min s.dlc (b.since + s.binPeriod b.wg)) } else b
    let s1 : State := { s with bins := s.bins.map due }
    match s1.firstDue core with
    | some b => s1.postOnce (.binLaunch core b.num)
    | none => s1
  else s)

/-! ## Barriers (R35, R37, R40, R107, R312) -/

/-- The workgroups that meet at a barrier. -/
def State.barWgs (s : State) (k : BarKey) : List Nat :=
  match k with
  | .wg id _ => [id]
  | .gang id _ => (s.wgs.filter fun w => (w.gang.map (·.1)) == some id).map (·.id)
  | .group l g => match s.launch? l with
      | none => []
      | some la => (s.wgs.filter fun w => w.launch == l &&
          (la.groups.any fun x => x.index == g && x.members.contains w.index)).map (·.id)

/-- The live threads that a generation opened now expects, of those that have a lane. -/
def State.barLive (s : State) (k : BarKey) : List Nat :=
  (s.threads.filter fun t => (s.barWgs k).contains t.wg).map (·.uid)

/-- The ids of a workgroup's live threads that still stand in a bin or in the continuation ring (R13). DEDUCED (notes/assumptions/59.md). -/
def State.seedsOf (s : State) (wg : Nat) : List Word :=
  ((((s.bins.filter (·.wg == wg)).flatMap (·.lanes)) ++ ((((s.wg? wg).map (·.ring)).getD []).flatMap id)).filter (!·.empty)).map (·.tid)

/-- The live threads of a workgroup, whether or not they have a lane yet. -/
def State.liveCount (s : State) (wg : Nat) : Nat := (s.wgThreads wg).length + (s.seedsOf wg).length

/-- The live threads without a lane that a generation opened now expects. -/
def State.barSeeds (s : State) (k : BarKey) : List (Nat × Word) := (s.barWgs k).flatMap fun w => (s.seedsOf w).map fun t => (w, t)

def BarKey.scope : BarKey → Scope
  | .wg .. => .wg | .gang .. => .clu | .group .. => .dev

/-- Is a running sequencer attached to barrier `b` (R312)? -/
def Seq.attached (q : Seq) (b : Nat) : Bool :=
  (q.st == .running || q.st == .stalled) && ((q.cur.map fun c => bitOf c.mask b).getD false)

def State.seqAttached (s : State) (k : BarKey) : Bool :=
  match k with
  | .wg id b => (((s.wg? id).bind (·.seq)).map (·.attached b)).getD false
  | _ => false

def State.updGen (s : State) (k : BarKey) (f : Gen → Gen) : State :=
  { s with gens := s.gens.map fun (g : Gen) => if g.key = k then f g else g }

/-- The open generation of a barrier, opened by this arrival if there is none. DEDUCED (notes/assumptions/40.md). -/
def State.openGen (s : State) (k : BarKey) : State :=
  if s.gens.any (·.key == k) then s
  else { s with gens := s.gens ++ [⟨k, s.barLive k, s.barSeeds k, [], s.seqAttached k, false⟩] }

def Gen.complete (g : Gen) : Bool := g.seeds.isEmpty && g.expected.all (g.arrived.contains ·) && (!g.seqIn || g.seqHere)

/-- A released thread continues, as an acquire at the barrier's scope. -/
def State.barRelease (s : State) (k : BarKey) (uid : Nat) : State :=
  match s.thr? uid with
  | none => s
  | some t => (s.updThr uid fun t => { t with park := none }).acquire (s.coreOf t.wg) (s.asidOf t.wg) k.scope

/-- The sequencer that waits at a barrier goes on: past an MWAIT that has arrived, or again at an instruction that could not arrive. -/
def State.seqWake (s : State) (k : BarKey) : State :=
  match k with
  | .wg id b => s.updSeq id fun q => if (q.stallBar.map (·.1)) == some b then { q with st := .running, stallBar := none } else q
  | _ => s

/-- A generation that is complete releases its arrivals; those that it did not expect open the next one. -/
def State.genCheck (s : State) (k : BarKey) : Nat → State
  | 0 => s
  | n + 1 =>
      match s.gens.find? (·.key == k) with
      | none => s
      | some g =>
          if !g.complete then s
          else
            let s1 : State := { s with gens := s.gens.filter fun (x : Gen) => x.key != k }
            let s2 := (s1.over (g.arrived.filter (g.expected.contains ·)) fun s u => s.barRelease k u).seqWake k
            let late := g.arrived.filter fun u => !(g.expected.contains u)
            if late.isEmpty then s2
            else ((s2.openGen k).updGen k fun g => { g with arrived := late }).genCheck k n

/-- A thread arrives (R35): the release has taken effect, it parks, and the generation may complete. -/
def State.arrive (s : State) (k : BarKey) (uid : Nat) : State :=
  ((((s.openGen k).updGen k fun g => { g with arrived := g.arrived ++ [uid] }).updThr uid fun t => { t with
    park := some (.bar k) }).genCheck k 2)

/-- A thread leaves every expected set (R35); generations that this completes complete. -/
def State.leaveGens (s : State) (uid : Nat) : State :=
  let mine := (s.gens.filter fun g => g.expected.contains uid).map (·.key)
  let s1 : State := { s with gens := s.gens.map fun (g : Gen) => { g with
    expected := g.expected.filter (· != uid), arrived := g.arrived.filter (· != uid) } }
  s1.over mine fun s k => s.genCheck k 2

/-! ## REORDER (R31, R32) -/

/-- A unit of a round: its key, its threads. A pixel quad is one unit. -/
structure RUnit where
  key  : Nat
  low  : Nat
  uids : List Nat
  quad : Bool
deriving DecidableEq, Repr

/-- The live threads of a thread's quad, when it is pixel work. -/
def State.quadOf (s : State) (t : Thread) : List Thread :=
  if t.pixel then s.threads.filter fun u => u.gid == t.gid && u.lane / 4 == t.lane / 4 else [t]

/-- The units that have arrived in a round, and the threads that stay for the next one. -/
def State.roundUnits (s : State) (arr : List (Nat × Nat)) : List RUnit :=
  let ts := arr.filterMap fun p => s.thr? p.1
  let full := ts.filter fun t => (s.quadOf t).all fun u => arr.any fun p => p.1 == u.uid
  let lead := full.filter fun t => (s.quadOf t).all fun u => t.lane ≤ u.lane
  lead.map fun t => ⟨((arr.find? fun p => p.1 == t.uid).map (·.2)).getD 0,
    (s.quadOf t).foldl (fun n u => min n u.tid.toNat) (2 ^ 32), (s.quadOf t).map (·.uid), t.pixel⟩

/-- The lanes that units take in order: (group, first lane) of each. -/
def roundPlaces : Nat → List RUnit → List (Nat × Nat)
  | _, [] => []
  | pos, u :: us =>
      let p := if u.quad then roundUp pos 4 else pos
      (p / 32, p % 32) :: roundPlaces (p + (if u.quad then 4 else 1)) us

/-- What moves with a thread (R32): v0 to v(n-1) with their poison bits; the rest of v reads 0, clean. -/
def Thread.keepRegs (t : Thread) (n : Nat) : Thread :=
  { t with regs := Vector.ofFn fun (i : Fin 120) => if i.val < n then t.regs[i.val] else ⟨0, .clean⟩ }

/-- REORDER_ROUND_CLOSE (R32). -/
def State.closeRound (s : State) (wg : Nat) : State :=
  match s.wg? wg, s.launchOfWg wg with
  | some w, some l =>
      (match w.round with
      | none => s
      | some r =>
          let units := sortKey (fun (u : RUnit) => [u.key, u.low]) (s.roundUnits r.arrived)
          let gone := units.flatMap (·.uids)
          let stay := r.arrived.filter fun p => !(gone.contains p.1)
          let places := roundPlaces 0 units
          let need := (places.foldl (fun n p => max n (p.1 + 1)) 0)
          let whole := s.groups.filter fun g => g.core == w.core && g.wg == wg &&
            (s.threads.filter (·.gid == g.id)).all fun t => gone.contains t.uid
          let free := 64 - s.coreGroups w.core + whole.length
          let space := 524288 - s.coreRegBytes w.core + whole.length * l.groupBytes
          let s0 := s.updWg wg fun w => { w with round := if stay.isEmpty then none else some ⟨r.n, s.dlc, stay⟩ }
          if need > free || need * l.groupBytes > space then
            s0.over gone fun s u => s.updThr u fun t => { t with park := none, st := { t.st with skipped := true } }
          else
            let s1 : State := { s0 with groups := s0.groups.filter fun g => !(whole.any fun x => x.id == g.id) }
            let (gids, s2) := (upFrom 0 need).foldl (fun (acc : List Nat × State) _ =>
              let (id, s) := acc.2.newGroup w.core wg
              (acc.1 ++ [id], s)) ([], s1)
            let moves := (units.zip places).flatMap fun p =>
              p.1.uids.map fun u => (u, gids.getD p.2.1 0, p.2.2, p.1.quad)
            let s3 := s2.over moves fun s m => s.updThr m.1 fun t =>
              { (t.keepRegs r.n) with
                gid := m.2.1, lane := if m.2.2.2 then m.2.2.1 + t.lane % 4 else m.2.2.1, park := none
                st := { t.st with skipped := false } }
            ((s3.over gone fun s u => s.updThr u (·.trimLog)).pruneGroups).coreFreed w.core)
  | _, _ => s

/-- Every live thread of the workgroup has arrived: the round closes (R31). -/
def State.roundCheck (s : State) (wg : Nat) : State :=
  match (s.wg? wg).bind (·.round) with
  | none => s
  | some r => if (s.seedsOf wg).isEmpty && (s.wgThreads wg).all fun t => r.arrived.any fun p => p.1 == t.uid then s.closeRound wg else s

/-- A thread whose counters are all zero counts as arrived (R31); another count traps with REORDER_MISMATCH. -/
def State.reorderArrive (s : State) (uid : Nat) : State :=
  match s.thr? uid with
  | none => s
  | some t => match t.park with
    | some (.reorder key n false a) =>
        if t.cntL + t.cntS + t.cntC + t.cntT ≠ 0 then s
        else
          let r := ((s.wg? t.wg).bind (·.round)).getD ⟨n, s.dlc, []⟩
          if r.n ≠ n then s.takeTrap uid 15 (slotOf a) 0 0 a
          else ((s.updThr uid fun t => { t with park := some (.reorder key n true a) }).updWg t.wg fun w => { w with
            round := some ⟨n, r.since, r.arrived ++ [(uid, key)]⟩ }).roundCheck t.wg
    | _ => s

/-- Does a workgroup run on its core, so that its timers run (R43)? -/
def State.runs (s : State) (wg : Nat) : Bool := ((s.wg? wg).map (·.state)) == some .resident

/-- REORDER_TIMER_EXPIRY (R31). -/
def execReorderTimerExpiry (wg : Nat) (s : State) : Host.Outcome State Fault Refusal := .next (if s.runs wg then s.closeRound wg else s)

/-! ## Queue bindings (R52, R255) and the words of a sequencer (R314) -/

def Wg.qb (w : Wg) (q : Nat) : QBind := w.queues.toList.getD q .none
def State.qbOf (s : State) (wg q : Nat) : QBind := ((s.wg? wg).map (·.qb q)).getD .none
def State.setQb (s : State) (wg q : Nat) (b : QBind) : State :=
  s.updWg wg fun w => { w with queues := if h : q < 16 then w.queues.set q b else w.queues }

/-- The queue register of a workgroup into which a port's words go: of several that are bound to the port, the lowest.
DESIGN CHOICE (notes/assumptions/41.md). -/
def State.boundTo (s : State) (wg : Nat) (p : Port) : Option Nat := (upFrom 0 16).find? fun q => (s.qbOf wg q).port == p

/-- Mailbox words that wait at the sequencer move to the binding while it has room; without a binding they are discarded (R255, R314). -/
def State.mailFlush (s : State) (wg : Nat) : State :=
  match (s.wg? wg).bind (·.seq) with
  | none => s
  | some x =>
      match s.boundTo wg .mailbox with
      | none => s.updSeq wg fun x => { x with mail := [] }
      | some q =>
          let b := s.qbOf wg q
          let k := 16 - b.buf.length
          (s.setQb wg q { b with buf := b.buf ++ (x.mail.take k).map fun w => (0, w) }).updSeq wg fun x => { x with mail := x.mail.drop k }

/-- The sequencer pushes a word toward the threads. -/
def State.mailPush (s : State) (wg : Nat) (w : Word) : State :=
  (s.updSeq wg fun x => { x with mail := x.mail ++ [w] }).mailFlush wg

/-- The mailbox word of a sequencer (R314): KIND, the low bits of SEQPC, CAUSE. -/
def seqWord (kind pc cause : Nat) : Word := BitVec.ofNat 32 (kind * 2 ^ 28 + pc % 2 ^ 16 * 2 ^ 8 + cause)

/-! ## The end of a workgroup and of a thread (R30, R33) -/

/-- Is every hoist bound for input closed and drained (R33)? -/
def State.hoistsDone (s : State) (w : Wg) : Bool :=
  w.queues.toList.all fun q => q.port != .hoistin ||
    (match s.hoists.toList[q.arg]? with | some h => h.closed && h.recs.isEmpty | none => true)

/-- The completion scope of a launch's node (R107): .dev unless the node names .sys. -/
def State.nodeScope (_ : State) (l : Launch) : Scope := if l.sysScope then .sys else .dev

/-- WORKGROUP_COMPLETE (R33): a resident workgroup with nothing left completes, as a release by its threads once every access of theirs has
performed (R107); when every workgroup of its launch has, the node does. A trapped stream of a workgroup without threads ends as by
ABANDON (R315). Its buffers stand as they are until another workgroup is placed on the core (R34). DEDUCED (notes/assumptions/40.md). -/
def State.wgCheck (s : State) (wg : Nat) : State :=
  match s.wg? wg, s.launchOfWg wg with
  | some w, some l =>
      let orphan := (match w.seq with | some q => q.st == .trapped | none => false) && (s.wgThreads wg).isEmpty
      let pc := (w.seq.map (·.pc)).getD 0
      let s0 := if orphan then (s.updSeq wg fun q => { q with st := .idle, cur := none, queue := [], loops := [], idx := 0, drop := false }).mailPush
        wg (seqWord 1 pc 0) else s
      let idle := match (s0.wg? wg).bind (·.seq) with | some q => q.st == .idle && q.queue.isEmpty | none => true
      if w.state = .resident && (s.wgThreads wg).isEmpty && !(s.bins.any (·.wg == wg)) && w.ring.isEmpty && s.hoistsDone w && idle
          && !(s.ops.any (·.wg == wg)) && (l.shade.isNone || l.placed) then
        let s1 := s0.release w.core l.asid (s0.nodeScope l)
        let kept : State := { s1 with past := s1.past ++ ((s1.wg? wg).map fun w => { w with state := .done }).toList }
        let s2 := kept.updWg wg fun w => { w with state := .done, spad := [], obuf := [], resv := [], seq := none, round := none }
        let s3 : State := { s2 with
          halts := s2.halts.filter fun (h : Nat × HaltFor) => h.1 != wg
          gens := s2.gens.filter fun (g : Gen) => match g.key with | .wg id _ => id != wg | _ => true }
        let s4 := if s3.wgs.all fun x => x.launch != l.id || x.state == .done then
            ({ s3 with
              wgs := s3.wgs.filter fun (x : Wg) => x.launch != l.id
              launches := s3.launches.filter fun (x : Launch) => x.id != l.id } : State).post (.nodeComplete l.graph l.node)
          else s3
        s4.coreFreed w.core
      else s0
  | _, _ => s

/-- Is a tile of a shade launch not over: a thread of it lives or is to start, or an access of one has not performed (R139)? -/
def State.tileBusy (s : State) (l : Launch) (k : Nat) : Bool :=
  let mine := (s.wgs.filter (·.launch == l.id)).map (·.id)
  let seeded := fun (sd : Seed) => !sd.empty && sd.tile == some k
  (s.threads.any fun t => mine.contains t.wg && t.tile == some k)
    || (s.bins.any fun b => mine.contains b.wg && b.lanes.any seeded)
    || (s.wgs.any fun w => w.launch == l.id && w.ring.any fun u => u.any seeded)
    || (s.ops.any fun o => mine.contains o.wg && o.lanes.any fun x => x.tile == some k)

/-- The tile of a thread that has ended is over (R139). -/
def State.tileCheck (s : State) (wg : Nat) (tile : Option Nat) : State :=
  match tile, s.launchOfWg wg with
  | some k, some l => match l.shade with
    | some (slot, sq) => if s.tileBusy l k then s else s.post (.tileComplete slot sq k)
    | none => s
  | _, _ => s

/-- Takes threads away: their lanes, expected sets, arrivals and tokens. -/
def State.removeThread (s : State) (uid : Nat) : State :=
  match s.thr? uid with
  | none => s
  | some t =>
      let s1 : State := { s with
        threads := s.threads.filter fun (x : Thread) => x.uid != uid
        tokens := s.tokens.filter fun p => p.2 != uid }
      let s2 := (s1.pruneGroups.leaveGens uid).updWg t.wg fun w => { w with
        round := w.round.map fun r => { r with arrived := r.arrived.filter fun p => p.1 != uid } }
      s2.roundCheck t.wg

/-- The transactional accesses of a thread that ends with an open transaction are discarded with its write set (R228). -/
def State.dropTxLanes (s : State) (t : Thread) : State :=
  if t.tx.isNone || t.st.irrev then s
  else { s with ops := (s.ops.map fun (o : Op) => if Instr.transactional o.instr then
      { o with lanes := o.lanes.filter fun l => !(l.uid == t.uid && l.tx) } else o).filter fun o => !o.lanes.isEmpty }

/-- EXIT of a thread (R30, R228): its loads in flight are discarded, its other accesses complete, and its registers stand in the core until
they are used again. -/
def State.endThread (s : State) (uid : Nat) : State :=
  match s.thr? uid with
  | none => s
  | some t =>
      let core := s.coreOf t.wg
      let s1 : State := { s.dropTxLanes t with ended := s.ended ++ [(core, t)] }
      (((s1.removeThread uid).tileCheck t.wg t.tile).wgCheck t.wg).coreFreed core

end Sys2Proof.Machine
end

