-- ==== Sys2Proof/Machine/Access.lean ====
section
/-! DEFINITION. Accesses of threads: the local space (R91 to R94), atomics (R241), reductions at memory (R110 to R112, R242),
transactional accesses (R113, R248), the issue of an operation and its completion lane by lane (R219), and the faults they make
(R396 to R398). -/

namespace Sys2Proof.Machine

/-! ## Sizes and values -/

def Size.bytes : Size → Nat
  | .n8 | .i8 => 1 | .n16 | .i16 => 2 | .n32 => 4 | .n64 => 8 | .x16 => 16

/-- The registers that a load of a size fills (R62, R236). -/
def Size.load (z : Size) (bs : List Byte) : List Word :=
  match z with
  | .i8 => [(BitVec.ofNat 8 (leNat bs)).signExtend 32]
  | .i16 => [(BitVec.ofNat 16 (leNat bs)).signExtend 32]
  | .n64 => wordsOf 2 bs
  | .x16 => wordsOf 4 bs
  | _ => wordsOf 1 bs

/-- The words of a source operand. -/
def State.srcWords (s : State) (t : Thread) (o : Opnd) : List Word :=
  if o.group then t.group o else if o.n = 2 then [lo32 (s.opnd t o), hi32 (s.opnd t o)] else [lo32 (s.opnd t o)]

/-- The bytes of words. -/
def bytesOfWords (ws : List Word) : List Byte := ws.flatMap fun w => bytesOf 4 w.toNat

/-- The registers of a type's value. -/
def tyWords (ty : Ty) (v : Nat) : List Word :=
  if ty.wide then [BitVec.ofNat 32 v, BitVec.ofNat 32 (v / 2 ^ 32)] else [BitVec.ofNat 32 v]

/-- An access with nothing set but the thread and the address. -/
def LaneAcc.at (t : Thread) (a : DWord) : LaneAcc := ⟨t.uid, t.lane, a, 0, [], 0, none, false, false, none, none, t.tile, false,
  t.helper, t.tid, 0⟩

/-- The same with the index of the thread's workgroup. -/
def State.laneAt (s : State) (t : Thread) (a : DWord) : LaneAcc := { LaneAcc.at t a with wgIx := s.wgIndex t }

/-! ## The local space -/

/-- The gang size and the member at an index: a workgroup outside a gang is member 0 of a gang of one (R37). -/
def State.gangOf (s : State) (w : Wg) : Nat :=
  match w.gang with
  | none => 1
  | some _ => ((s.launch? w.launch).map (·.gangSize)).getD 1

/-- The member of a gang at an index. One that has completed is still reached: its scratchpad is empty and reads as zeros.
DESIGN CHOICE (notes/assumptions/65.md). -/
def State.memberOf (s : State) (w : Wg) (m : Nat) : Option Wg :=
  if m = 15 then some w
  else match w.gang with
    | none => if m = 0 then some w else none
    | some (gid, _) => s.wgs.find? fun (x : Wg) => match x.gang with
        | some (g, k) => g == gid && k == m && x.launch == w.launch
        | none => false

/-- Where a local address lies, or the trap cause (R37, R41, R91). -/
def State.localPlace (s : State) (w : Wg) (addr n : Nat) (atms : Bool) : Except Nat (Nat × Bool × Nat) :=
  let size := fun (x : Wg) => ((s.launch? x.launch).map (·.spadSize)).getD 0
  if addr < 0x60000 then
    (if addr + n ≤ size w then .ok (w.id, false, addr) else .error 8)
  else if 0x400000 ≤ addr && addr < 0x800000 then
    (if isEnsign w.core then .error 1
     else match w.resv.find? (·.id == fld addr 16 6) with
       | none => .error 8
       | some r =>
           if atms || fld addr 0 16 + n > min 65536 (r.count * 128) then .error 8
           else .ok (w.id, true, r.base * 128 + fld addr 0 16))
  else if 0x10000000 ≤ addr && addr < 0x20000000 then
    (let m := fld addr 24 4
     if isEnsign w.core then .error 1
     else if m ≠ 15 && m ≥ s.gangOf w then .error 9
     else match s.memberOf w m with
       | none => .error 8
       | some x => if fld addr 0 24 + n ≤ size x then .ok (x.id, false, fld addr 0 24) else .error 8)
  else .error 8

/-- Reads and writes at a local place. The operand-buffer offset counts from the core's buffer. -/
def State.locRead (s : State) (p : Nat × Bool × Nat) (n : Nat) : List Byte :=
  match s.wg? p.1 with
  | none => List.replicate n 0#8
  | some w => if p.2.1 then mgets 0#8 w.obuf p.2.2 n else mgets 0#8 w.spad p.2.2 n

def State.locWrite (s : State) (p : Nat × Bool × Nat) (bs : List Byte) : State :=
  s.updWg p.1 fun w => if p.2.1 then { w with obuf := mputs 0#8 w.obuf p.2.2 bs } else { w with spad := mputs 0#8 w.spad p.2.2 bs }

/-! ## Atomics -/

/-- The new value of an atomic (R241). -/
def atomNew (op : AtomOp) (ty : Ty) (old b e : Nat) : Nat :=
  match op with
  | .add => (redNode ty .add .rn old b).1
  | .min => (redNode ty .min .rn old b).1
  | .max => (redNode ty .max .rn old b).1
  | .and => old &&& b
  | .or => old ||| b
  | .xor => old ^^^ b
  | .xchg => b
  | .cas => if old = e then b else old

/-- What host memory provides as PCIe AtomicOps (R241). -/
def hostAtomic (op : AtomOp) (ty : Ty) : Bool :=
  match op with
  | .xchg | .cas => true
  | .add => !ty.isFloat
  | _ => false

/-- The undo record of a write about to be made (R376). -/
def State.beforeWrite (s : State) (core asid va key : Nat) : State :=
  if s.takesCkp asid then
    let (ln, s1) := s.lineSeen core asid va key
    s1.undoNote (clusterOf core) asid va ln
  else s

/-- An atomic on global memory (R241): narrow in the L1, wider at the point of coherence. The old bytes. -/
def State.gAtomic (s : State) (core asid va : Nat) (op : AtomOp) (ty : Ty) (b e : Nat) (sc : Scope) :
    (Except XFault Nat) × State :=
  let n := Ty.bytes ty
  match s.l1Grant core asid va .atomic with
  | (.error f, s1) => (.error f, s1)
  | (.ok p, s1) =>
      if homeOf p.key = .host && !hostAtomic op ty then (.error (.s1 6 0xFF), s1)
      else
        let s2 := s1.beforeWrite core asid va p.key
        if Scope.narrow sc then
          let s3 := s2.l1Fill core asid va p.key true .core
          let old := leNat (((s3.l1at core asid va).map (·.bytesAt va n)).getD [])
          (.ok old, s3.updL1 core asid va fun l => { l with
            wr := true, sc := .core
            dirtyAt := if l.dirty = 0 then s.cycleCount core else l.dirtyAt
            dirty := l.dirty ||| ((2 ^ n - 1) * 2 ^ (va % 128))
            data := patch l.data (va % 128) (bytesOf n (atomNew op ty old b e)) })
        else
          let s3 := s2.l1Out core asid va (p.key - va % 128)
          let (bs, s4) := s3.homeRead asid p.key n sc
          (.ok (leNat bs), s4.homeWrite asid p.key (bytesOf n (atomNew op ty (leNat bs) b e)) sc none)

/-! ## Reductions at memory -/

/-- The elements of an RDM operand: byte offset and value (R242). -/
def rdmElems (ty : Ty) (v : Nat) : List (Nat × Nat) :=
  match ty with
  | .bf16 => [(0, fld v 0 16), (2, fld v 16 16)]
  | .e4m3 | .e5m2 => (upFrom 0 4).map fun k => (k, fld v (8 * k) 8)
  | _ => [(0, v % 2 ^ Ty.width ty)]

/-- Does an RDM accumulate in a shadow on a device-homed line (R111)? -/
def rdmShadowed (op : RedOp) (ty : Ty) : Bool := op == .add && (ty == .bf16 || ty == .e4m3 || ty == .e5m2)

/-- Applies elements directly in their format (R110, R111 step 4). -/
def State.rdmDirect (s : State) (asid key : Nat) (op : RedOp) (ty : Ty) (els : List (Nat × Nat)) (sc : Scope) : State :=
  s.over els fun s e =>
    let (bs, s1) := s.homeRead asid (key + e.1) (Ty.bytes ty) sc
    s1.homeWrite asid (key + e.1) (bytesOf (Ty.bytes ty) (redNode ty op .rn (leNat bs) e.2).1) sc none

/-- Before an RDM, the shadow of the line in another format folds (R111). -/
def State.shadowReady (s : State) (line : Nat) (ty : Ty) : State :=
  if s.shadows.any fun h => h.line == line && h.ty != ty then s.fold line else s

/-- Does an RDM at a home find no shadow of its line and no free slot for one (R111 step 4)? -/
def State.noSlot (s : State) (key : Nat) (op : RedOp) (ty : Ty) : Bool :=
  let line := lineOf key
  let s1 := s.shadowReady line ty
  homeOf key == .dram && rdmShadowed op ty && !(s1.shadows.any (·.line == line))
    && (s1.shadows.filter fun h => sliceOfLine h.line == sliceOfLine line).length ≥ 256

/-- Elements of an RDM at their home (R110 to R112, R127): in a fabric window they leave for the switches, whatever the operation and the
type, each as one word (the spec gives a window one TYPE and addition; DESIGN CHOICE, notes/assumptions/61.md); on a device-homed line
they accumulate in a shadow where R111 says so. -/
def State.rdmEls (s : State) (asid key : Nat) (op : RedOp) (ty : Ty) (els : List (Nat × Nat)) : State :=
  match homeOf key with
  | .reduce => { s with out := s.out ++ els.map fun e => .fabric (key + e.1) ty (BitVec.ofNat 32 e.2) }
  | .peer => s.rdmDirect asid key op ty els .fab
  | .bunting | .host | .own => s.rdmDirect asid key op ty els .dev
  | .dram =>
      if !rdmShadowed op ty then s.rdmDirect asid key op ty els .dev
      else
        let line := lineOf key
        let s1 := (s.shadowReady line ty).l2Fill (feOf asid) line
        if s.noSlot key op ty then s1.rdmDirect asid key op ty els .dev
        else
          let s2 : State := if s1.shadows.any (·.line == line) then s1 else { s1 with shadows := s1.shadows ++ [⟨line, ty,
            (upFrom 0 (128 / Ty.bytes ty)).map fun k =>
              (fConv ty .f32 .rn 0 (leNat (mgets 0#8 s1.mem (line + k * Ty.bytes ty) (Ty.bytes ty)))).1⟩] }
          let add := fun (h : Shadow) => els.foldl (fun (xs : List Nat) e =>
            let k := (key - line + e.1) / Ty.bytes ty
            xs.set k (fAdd .f32 .rn 0 (xs.getD k 0) (fConv ty .f32 .rn 0 e.2).1).1) h.elems
          ({ s2 with shadows := s2.shadows.map fun (h : Shadow) => if h.line = line then { h with elems := add h } else h }
            : State).touched key none

/-- An RDM at its home. -/
def State.rdmAt (s : State) (asid key : Nat) (op : RedOp) (ty : Ty) (v : Nat) : State := s.rdmEls asid key op ty (rdmElems ty v)

/-- An RDM of a thread: translated as an atomic, its core's own copy of the line first written back and dropped. The slice that applied
it without a shadow, if any. DEDUCED (notes/assumptions/37.md). -/
def State.gRdm (s : State) (core asid va : Nat) (op : RedOp) (ty : Ty) (v : Nat) : (Except XFault (Option Nat)) × State :=
  match s.l1Grant core asid va .atomic with
  | (.error f, s1) => (.error f, s1)
  | (.ok p, s1) =>
      if homeOf p.key = .host && !(op == .add && !ty.isFloat) then (.error (.s1 6 0xFF), s1)
      else
        let s2 := (s1.beforeWrite core asid va p.key).l1Out core asid va (p.key - va % 128)
        (.ok (if s2.noSlot p.key op ty then some (sliceOfLine (lineOf p.key)) else none), s2.rdmAt asid p.key op ty v)

/-! ## Transactional accesses (R113, R115, R116, R248) -/

/-- Why a transactional access did not take place: an abort code. -/
abbrev TxAbort := Nat

/-- The bytes of the write set over a line's bytes. -/
def TxLine.overlay (x : TxLine) (data : List Byte) : List Byte :=
  ((upFrom 0 data.length).zip data).map fun p => if bitOf x.mask p.1 then x.data.getD p.1 0#8 else p.2

/-- A transactional load (R113, R379): the line enters the read set with its values, and the thread's own stores are seen. Lines are known by
their physical address (R392). A line that is in the read set already gives the values recorded there, which validation compares
(the spec does not say whether it is read afresh; DESIGN CHOICE, notes/assumptions/10.md). -/
def State.txLoad (s : State) (t : Thread) (x : Tx) (core asid va n : Nat) (sc : Scope) : (Except TxAbort (List Byte)) × State :=
  let line := lineOf va
  let out := fun (pa : Nat) (data : List Byte) =>
    (((x.writes.find? (·.pa == pa)).map (·.overlay data)).getD data).drop (va % 128) |>.take n
  match x.reads.find? (·.va == line) with
  | some r => (.ok (out r.pa r.data), s)
  | none =>
      match s.l1Load core asid line 128 sc with
      | (.error _, s1) => (.error 5, s1)
      | (.ok data, s1) =>
          let pa := ((s1.l1at core asid line).map (·.pa)).getD 0
          match x.reads.find? (·.pa == pa) with
          | some r => (.ok (out pa r.data), s1)
          | none =>
              if homeOf pa = .bunting then (.error 5, s1)
              else if x.reads.length ≥ 32 then (.error 1, s1)
              else
                let s2 := if irrevAccess .dev pa then s1.irrevocable asid else s1
                (.ok (out pa data), s2.updThr t.uid fun t => { t with tx := t.tx.map fun x => { x with
                  reads := x.reads ++ [⟨line, pa, 2 ^ 128 - 1, data⟩] } })

/-- Bytes into a line of the write set, but for those that a higher lane of the same ST writes (R237). -/
def TxLine.add (w : TxLine) (k : Nat) (bs : List Byte) (keep : Nat → Bool) : TxLine :=
  { w with
    mask := w.mask ||| maskOf (((upFrom 0 bs.length).filter keep).map (k + ·))
    data := ((upFrom 0 128).zip w.data).map fun p => if k ≤ p.1 && p.1 < k + bs.length && keep (p.1 - k) then bs.getD (p.1 - k) 0#8 else p.2 }

/-- A transactional store (R113): the bytes enter the write set. -/
def State.txStore (s : State) (t : Thread) (x : Tx) (core asid va : Nat) (bs : List Byte) (keep : Nat → Bool) :
    (Option TxAbort) × State :=
  let add := fun (w : TxLine) => w.add (va % 128) bs keep
  match s.l1Grant core asid va .store with
  | (.error _, s1) => (some 5, s1)
  | (.ok p, s1) =>
      let pa := p.key - va % 128
      if homeOf p.key = .bunting then (some 5, s1)
      else if x.writes.any (·.pa == pa) then
        (none, s1.updThr t.uid fun t => { t with tx := t.tx.map fun x => { x with
          writes := x.writes.map fun w => if w.pa = pa then add w else w } })
      else if x.writes.length ≥ 16 then (some 1, s1)
      else (none, s1.updThr t.uid fun t => { t with tx := t.tx.map fun x => { x with
        writes := x.writes ++ [add ⟨lineOf va, pa, 0, List.replicate 128 0#8⟩] } })

/-- An irrevocable transaction notes the lines it has read or written (R116). -/
def Thread.noteLine (t : Thread) (va pa : Nat) (write : Bool) : Thread :=
  let add := fun (xs : List TxLine) => if xs.any (·.pa == pa) then xs else xs ++ [⟨va, pa, 0, []⟩]
  { t with tx := t.tx.map fun x => if write then { x with writes := add x.writes } else { x with reads := add x.reads } }

/-! ## Faults (R396 to R398) -/

/-- The code of a kind of access in a fault record (R398). -/
def Instr.accessCode : Instr → Nat
  | .ld .. => 0
  | .st .. => 1
  | .atm .. => 2
  | .rdm .. | .vbmin .. => 3
  | .rbox .. | .rtri .. | .cpltest .. | .cplwait .. | .monwait .. => 7
  | _ => 0

/-! ## What one lane does at issue -/

/-- What one lane does at issue. -/
inductive LaneDo where
  | go (l : LaneAcc) | trap (cause : Nat) (addr : DWord) | txBad
deriving DecidableEq, Repr

/-- The checks of a global access (R89, R113). DEDUCED (notes/assumptions/38.md). -/
def globalChk (n : Nat) (sc : Scope) (t : Thread) (l : LaneAcc) : LaneDo :=
  if l.addr.toNat % n != 0 then .trap 6 l.addr
  else if l.addr.toNat ≥ 2 ^ 52 then .trap 7 l.addr
  else if t.tx.isSome && Scope.num sc ≥ 4 then .txBad
  else .go { l with tx := t.tx.isSome }

/-- Does a local address lie in the operand buffer or the gang window (R91)? -/
def inWindow (addr : Nat) : Bool := (0x400000 ≤ addr && addr < 0x800000) || (0x10000000 ≤ addr && addr < 0x20000000)

/-- The checks of a local access (R89, R91): on an ensign core one of the operand buffer or the gang window is illegal before all else
(R41, R172). DEDUCED (notes/assumptions/33.md). -/
def State.localChk (s : State) (n : Nat) (atms : Bool) (t : Thread) (l : LaneAcc) : LaneDo :=
  if isEnsign (s.coreOf t.wg) && inWindow l.addr.toNat then .trap 1 0
  else if l.addr.toNat % n != 0 then .trap 6 l.addr
  else match s.wg? t.wg with
    | none => .trap 8 l.addr
    | some w => match s.localPlace w l.addr.toNat n atms with
      | .error c => .trap c (if c = 8 then l.addr else 0)
      | .ok p => .go { l with loc := some p }

/-- The acting lanes that are not helper lanes (R138). -/
def State.realLanes (s : State) (g : Pred) : List Thread := (s.acting g).filter (!·.helper)

/-! ## Performing one lane's access -/

/-- What performing gives: results for destinations, a fault, or an abort of the transaction. -/
inductive LaneRes where
  | done (outs : List (Dst × List Word)) | fault (f : XFault) | abort (code : Nat)
deriving DecidableEq, Repr

/-- The open transaction that an access belongs to: none when it was issued outside, or its thread is gone. -/
def State.txOf (s : State) (l : LaneAcc) : Option (Thread × Tx) :=
  if l.tx then (s.thr? l.uid).bind fun t => t.tx.map fun x => (t, x) else none

/-- Is the open transaction irrevocable? -/
def txIrrev : Option (Thread × Tx) → Bool
  | some (t, _) => t.st.irrev
  | none => false

/-- The scope of an access: .dev in an irrevocable transaction (R116). -/
def txScope (x : Option (Thread × Tx)) (sc : Scope) : Scope := if txIrrev x then .dev else sc

/-- After an access: the irrevocable transaction notes its line, and an irrevocable operation of a checkpointed context is followed by
a checkpoint (R116, R379). -/
def State.afterAccess (s : State) (core asid va : Nat) (x : Option (Thread × Tx)) (uid : Nat) (sc : Scope) (write : Bool) : State :=
  if !txIrrev x && !s.takesCkp asid then s else
  let key := match s.xlate (clusterOf core) asid va (if write then .store else .load) true with
    | (.ok p, _) => p.key
    | _ => 0
  let s1 := if txIrrev x then s.updThr uid (·.noteLine (lineOf va) (key - va % 128) write) else s
  if irrevAccess sc key then s1.irrevocable asid else s1

/-- The value and the comparand of an access as numbers. -/
def LaneAcc.val (l : LaneAcc) : Nat := leNat (bytesOfWords l.data)

/-- LD (R236, R248). -/
def State.doLd (s : State) (o : Op) (l : LaneAcc) (d : Dst) (acq : Bool) (sc : Scope) (sz : Size) : LaneRes × State :=
  let n := Size.bytes sz
  let va := l.addr.toNat
  match s.txOf l with
  | some (t, x) =>
      if t.st.irrev then
        match s.l1Load o.core o.asid va n .dev with
        | (.error f, s1) => (.fault f, s1)
        | (.ok bs, s1) => (.done [(d, Size.load sz bs)], s1.afterAccess o.core o.asid va (some (t, x)) l.uid .dev false)
      else match s.txLoad t x o.core o.asid va n sc with
        | (.error c, s1) => (.abort c, s1)
        | (.ok bs, s1) => (.done [(d, Size.load sz bs)], if acq then s1.acquire o.core o.asid sc else s1)
  | none =>
      match s.l1Load o.core o.asid va n sc with
      | (.error f, s1) => (.fault f, s1)
      | (.ok bs, s1) =>
          let s2 := s1.afterAccess o.core o.asid va none l.uid sc false
          (.done [(d, Size.load sz bs)], if acq then s2.acquire o.core o.asid sc else s2)

/-- ST (R236, R237, R248). -/
def State.doSt (s : State) (o : Op) (l : LaneAcc) (rel : Bool) (sc : Scope) (sz : Size) : LaneRes × State :=
  let va := l.addr.toNat
  let bs := (bytesOfWords l.data).take (Size.bytes sz)
  let x := s.txOf l
  match x, txIrrev x with
  | some (t, tx), false =>
      let above := fun (k : Nat) => !(o.lanes.any fun y => y.tx && y.lane > l.lane && y.addr.toNat ≤ va + k
        && va + k < y.addr.toNat + Size.bytes sz)
      match s.txStore t tx o.core o.asid va bs above with
      | (some c, s1) => (.abort c, s1)
      | (none, s1) => (.done [], s1)
  | _, _ =>
      let s0 := if rel then s.release o.core o.asid sc else s
      match s0.l1Store o.core o.asid va bs (txScope x sc) with
      | (some f, s1) => (.fault f, s1)
      | (none, s1) => (.done [], s1.afterAccess o.core o.asid va x l.uid sc true)

/-- ATM (R241, R248). -/
def State.doAtm (s : State) (o : Op) (l : LaneAcc) (d : Dst) (op : AtomOp) (ty : Ty) (sc : Scope) (ord : Order) : LaneRes × State :=
  let va := l.addr.toNat
  let n := Ty.bytes ty
  let x := s.txOf l
  match x, txIrrev x with
  | some (t, tx), false =>
      match s.txLoad t tx o.core o.asid va n .core with
      | (.error c, s1) => (.abort c, s1)
      | (.ok bs, s1) =>
          match s1.txOf l with
          | none => (.done [], s1)
          | some (t, tx) =>
              match s1.txStore t tx o.core o.asid va (bytesOf n (atomNew op ty (leNat bs) l.val l.cmp.toNat)) fun _ => true with
              | (some c, s2) => (.abort c, s2)
              | (none, s2) => (.done [(d, tyWords ty (leNat bs))], s2)
  | _, _ =>
      let plain := x.isSome
      let s0 := if !plain && (ord == .rel || ord == .ar) then s.release o.core o.asid sc else s
      match s0.gAtomic o.core o.asid va op ty l.val l.cmp.toNat (txScope x sc) with
      | (.error f, s1) => (.fault f, s1)
      | (.ok old, s1) =>
          let s2 := s1.afterAccess o.core o.asid va x l.uid sc true
          (.done [(d, tyWords ty old)], if !plain && (ord == .acq || ord == .ar) then s2.acquire o.core o.asid sc else s2)

/-- Is the home of an address in the bunting? -/
def State.inBunting (s : State) (core asid va : Nat) : Bool :=
  match s.l1at core asid va with
  | some l => homeOf l.pa == .bunting
  | none => match s.xlate (clusterOf core) asid va .load true with
    | (.ok p, _) => homeOf p.key == .bunting
    | _ => false

/-- An access that is not transactional, at some addresses: inside a revocable transaction one to the bunting aborts it (R127, R248). -/
def State.offBunting (s : State) (o : Op) (l : LaneAcc) (vas : List Nat) (r : LaneRes × State) : LaneRes × State :=
  if (s.txOf l).isSome && !txIrrev (s.txOf l) && vas.any fun a => s.inBunting o.core o.asid a then (.abort 5, s) else r

/-- ATMS, LSP and SSP (R93, R238, R241). -/
def State.doLocal (s : State) (l : LaneAcc) (f : Nat × Bool × Nat → State → List (Dst × List Word) × State) : LaneRes × State :=
  match l.loc with
  | none => (.done [], s)
  | some p => let r := f p s; (.done r.1, r.2)

/-- FE_NOSHADOW of a slice counts an RDM instruction once (R111, R348). -/
def State.countNoShadow (s : State) (o : Op) (slice : Option Nat) : State :=
  match slice with
  | none => s
  | some k =>
      if ((s.ops.find? (·.id == o.id)).map (·.counted)).getD [] |>.contains k then s
      else (s.bump 0 (0x0460 + k)).setOp o.id fun o => { o with counted := o.counted ++ [k] }

/-- RDM and VBMIN (R242, R243); inside a revocable transaction an access to the bunting aborts it (R248). -/
def State.doRdm (s : State) (o : Op) (l : LaneAcc) (op : RedOp) (ty : Ty) (sc : Scope) (rel : Bool) : LaneRes × State :=
  let va := l.addr.toNat
  let s0 := if rel then s.release o.core o.asid sc else s
  s.offBunting o l [va] (match s0.gRdm o.core o.asid va op ty l.val with
    | (.error f, s1) => (.fault f, s1)
    | (.ok k, s1) => (.done [], (s1.countNoShadow o k).afterAccess o.core o.asid va none l.uid sc true))

/-! ## Issue of an operation -/

/-- Has every access of the thread performed, and is it complete? DEDUCED (notes/assumptions/32.md). -/
def State.drained (s : State) (uid : Nat) : Bool := !(s.ops.any fun o => o.lanes.any (·.uid == uid))

/-- Does a global access of the thread wait to perform? -/
def State.globalBefore (s : State) (uid : Nat) : Bool :=
  s.ops.any fun o => Instr.isGlobal o.instr && o.lanes.any fun l => l.uid == uid && l.ready.isNone

/-- The operation that an instruction issues. -/
def State.newOp (s : State) (i : Instr) (cls : OpClass) : Op := ⟨0, i, s.iss.core, s.issWg, s.issAsid, cls, s.iss.slot, [], []⟩

/-- An operation with lanes goes into flight, and its completion is an event to come. -/
def State.launchOp (s : State) (o : Op) (done : Nat → Instr) (lanes : List LaneAcc) : State :=
  if lanes.isEmpty then s
  else
    let (id, s1) := s.newId
    ({ s1 with ops := s1.ops ++ [{ o with id := id, lanes := lanes }] } : State).post (done id)

end Sys2Proof.Machine
end

