-- ==== Sys2Proof/Machine/Device.lean ====
section
/-! DEFINITION. The accesses of the device that a stage-1 fault drops (R461): feedback entries (R151), miss records (R145) and the OBUs of an
encoder (R448). One that meets a stage-2 fault waits for the security core, and what follows it in its ring waits behind it. -/

namespace Sys2Proof.Machine

/-- The cluster at whose TLB a front end's own accesses are translated (DESIGN CHOICE, notes/assumptions/20.md); engines that a management core
uses reach its private memory (notes/assumptions/51.md). -/
def feCluster (fe : Nat) : Nat := if 40 ≤ fe then fe else 18 + fe

/-- A stream register (R362). -/
def streamReg (slot o : Nat) : Nat := 0x0D00 + 32 * slot + o
def State.sreg (s : State) (slot o : Nat) : Nat := s.rregN 0 (streamReg slot o)
/-- Adds to a saturating counter of a stream. -/
def State.scount (s : State) (slot o n : Nat) : State :=
  s.wreg 0 (streamReg slot o) (BitVec.ofNat 32 (min 0xFFFFFFFF (s.sreg slot o + n)))

/-- A field of bytes. -/
def fieldOf (bs : List Byte) (off n : Nat) : Nat := leNat (bs.drop off |>.take n)

/-- The ring that an access goes to: of a context's feedback, of a stream's misses, or of an encoder. -/
def DevWrite.ring : DevWrite → Nat × Nat
  | .entry _ asid .. => (0, asid)
  | .miss slot .. => (1, slot)
  | .obus e .. => (2, e)

/-- The context of an access. -/
def DevWrite.asid : DevWrite → Nat
  | .entry _ asid .. => asid
  | .miss _ _ asid .. => asid
  | .obus _ asid .. => asid

/-- What an access comes to: it is over, or an address waits for the security core, with the kind of access. -/
abbrev DevRes := Option (Nat × Nat)

/-- One feedback entry, unless its key is in the cluster's filter (R150, R151): the ring's WRITE register moves once it is written. -/
def State.putEntry (s : State) (cl asid rid page level kind frame : Nat) : DevRes × State :=
  let fe := feOf asid
  let b := 0x2400 + 8 * (asid % 64)
  let key := [asid, rid, level, page, frame]
  let size := s.rregN fe (b + 2)
  let wr := s.rregN fe (b + 3)
  let base := s.rreg2 fe b
  if s.filter.any fun p => p.1 == cl && p.2 == key then (none, s)
  else if base ≠ 0 && size ≠ 0 && (wr + 2 ^ 32 - s.rregN fe (b + 4)) % 2 ^ 32 = size then
    let old := bitOf (s.rregN fe (b + 6)) 0
    let s1 := (s.bump fe (b + 5)).setBit fe (b + 6) 0 true
    (none, if old then s1 else s1.irq fe 2)
  else if base = 0 || size = 0 then (none, s.bump fe (b + 5))
  else
    let e := bytesOf 4 rid ++ bytesOf 4 page ++ bytesOf 1 level ++ bytesOf 1 kind ++ bytesOf 2 0 ++ bytesOf 4 frame
    match s.ctxWrite cl asid .dev 4 (base + 16 * (wr % size)) e with
    | .error .s2 => (some (base + 16 * (wr % size), 6), s)
    | .error _ => (none, s.bump fe (b + 5))
    | .ok s1 =>
        let mine := s1.filter.filter (·.1 == cl)
        let rest := s1.filter.filter (·.1 != cl)
        (none, { s1.wreg fe (b + 3) (BitVec.ofNat 32 (wr + 1)) with
          filter := rest ++ (if mine.length ≥ 64 then mine.drop 1 else mine) ++ [(cl, key)] })

/-- A miss record (R145): what cannot be reached drops it and counts it. -/
def State.putMiss (s : State) (slot fe asid ring cap : Nat) (bs : List Byte) : DevRes × State :=
  let drop := s.scount slot 21 1
  let cl := feCluster fe
  if ring + 64 + 160 * cap > 2 ^ 52 then (none, drop)
  else match s.ctxRead cl asid .sys 3 ring 12 with
    | (.error .s2, _) => (some (ring, 5), s)
    | (.error _, _) => (none, drop)
    | (.ok c, s1) =>
        let wr := fieldOf c 0 4
        if (wr + 2 ^ 32 - fieldOf c 4 4) % 2 ^ 32 = cap then
          (match s1.ctxWrite cl asid .sys 2 (ring + 8) (bytesOf 4 (fieldOf c 8 4 + 1)) with
          | .ok s2 => (none, s2)
          | .error .s2 => (some (ring + 8, 6), s)
          | .error _ => (none, drop))
        else match s1.ctxWrite cl asid .sys 24 (ring + 64 + 160 * (wr % cap)) bs with
          | .error .s2 => (some (ring + 64 + 160 * (wr % cap), 6), s)
          | .error _ => (none, drop)
          | .ok s2 => match s2.ctxWrite cl asid .sys 2 ring (bytesOf 4 (wr + 1)) with
            | .error .s2 => (some (ring, 6), s)
            | .error _ => (none, drop)
            | .ok s3 => (none, ((s3.scount slot 20 1).irq fe 3).boxPut 6 fe (slot + 1) 0 0)

/-- Writes bytes into an encoder's ring from a WRITE position on, up to an address that faults. -/
def State.ringBytes (s : State) (asid base wr : Nat) : List Byte → Except (Nat × XFault) State
  | [] => .ok s
  | b :: bs =>
      let va := base + 64 + wr % 0xFFFC0
      match s.ctxWrite (feCluster (feOf asid)) asid .sys 1 va [b] with
      | .ok s1 => s1.ringBytes asid base (wr + 1) bs
      | .error f => .error (va, f)

/-- OBUs are dropped: the encoder's next frame is a key frame, marked by the engine's number plus 100 until that frame begins; DROPPED counts
when the control block can be written (R448, R461). -/
def State.dropObus (s : State) (e asid base : Nat) : State :=
  let cl := feCluster (feOf asid)
  let s1 : State := { s with keyNext := s.keyNext ++ [e + 100] }
  match s1.ctxRead cl asid .sys 2 (base + 8) 4 with
  | (.error _, _) => s1
  | (.ok c, s2) => match s2.ctxWrite cl asid .sys 2 (base + 8) (bytesOf 4 (leNat c + 1)) with
    | .ok s3 => s3
    | .error _ => s1

/-- The OBUs of a strip go into the ring of an encoder, if it has room (R448). -/
def State.putObus (s : State) (e asid base : Nat) (obus : List Byte) : DevRes × State :=
  let cl := feCluster (feOf asid)
  match s.ctxRead cl asid .sys 3 base 12 with
  | (.error .s2, _) => (some (base, 5), s)
  | (.error _, _) => (none, s.dropObus e asid base)
  | (.ok c, s1) =>
      let wr := fieldOf c 0 4
      if (wr + 2 ^ 32 - fieldOf c 4 4) % 2 ^ 32 + obus.length > 0xFFFC0 then (none, s1.dropObus e asid base)
      else match s1.ringBytes asid base wr obus with
        | .error (va, .s2) => (some (va, 6), s)
        | .error _ => (none, s1.dropObus e asid base)
        | .ok s2 => match s2.ctxWrite cl asid .sys 2 base (bytesOf 4 ((wr + obus.length) % 2 ^ 32)) with
          | .ok s3 => (none, s3)
          | .error .s2 => (some (base, 6), s)
          | .error _ => (none, s1.dropObus e asid base)

/-- An access is tried. -/
def State.devTry (s : State) : DevWrite → DevRes × State
  | .entry cl asid rid page level kind frame => s.putEntry cl asid rid page level kind frame
  | .miss slot fe asid ring cap bs => s.putMiss slot fe asid ring cap bs
  | .obus e asid base bs => s.putObus e asid base bs

/-- An access that the security core refuses is dropped and counted (R461). -/
def State.devLost (s : State) : DevWrite → State
  | .entry _ asid .. => s.bump (feOf asid) (0x2400 + 8 * (asid % 64) + 5)
  | .miss slot .. => s.scount slot 21 1
  | .obus e asid base _ => s.dropObus e asid base

/-- An access of the device: behind those of its ring that wait, else it is tried, and waits where stage 2 faults. -/
def State.devWrite (s : State) (w : DevWrite) : State :=
  let wait : State := { s with devq := s.devq ++ [w] }
  if s.devq.any fun x => DevWrite.ring x == DevWrite.ring w then wait
  else match s.devTry w with
    | (none, s1) => s1
    | (some (va, access), _) => (wait.newFault (DevWrite.asid w) (.dropped (DevWrite.ring w).1 (DevWrite.ring w).2) va access .s2 false
        0xFFFFFFFF#32 0xFFFFFFFF#32 0 []).2

/-- The security core has answered for the first access that waits in a ring: it is tried again, or dropped, and then those behind it go on. -/
def State.devAnswer (s : State) (ring : Nat × Nat) (granted : Bool) : State :=
  let mine := s.devq.filter fun w => DevWrite.ring w == ring
  let s1 : State := { s with devq := s.devq.filter fun w => DevWrite.ring w != ring }
  match mine with
  | [] => s
  | w :: ws => if granted then s1.over mine State.devWrite else (s1.devLost w).over ws State.devWrite

/-- A feedback entry of a core's cluster, formed with the context's frame tag. -/
def State.feedback (s : State) (core asid : Nat) (rid page level kind : Nat) : State :=
  s.devWrite (.entry (clusterOf core) asid rid page level kind (s.rregN (feOf asid) (0x2400 + 8 * (asid % 64) + 7)))

end Sys2Proof.Machine
end

