-- ==== Sys2Proof/Machine/Lod.lean ====
section
/-! DEFINITION. Level-of-detail resources: descriptors (R146), pages and residency (R147), the walk (R148, R149), feedback (R150,
R151), and the results of LDLOD (R239) and SAMPLE (R240). -/

namespace Sys2Proof.Machine

/-- Speculative reads of bytes of a context (R149, R401): the core's own L1 line where it has one, else the home; `none` where a translation
fails, and where the address is not one of 52 bits. DESIGN CHOICE (notes/assumptions/73.md). -/
def State.readSpec (s : State) (core asid : Nat) : Nat → Nat → Nat → Option (List Byte) × State
  | 0, _, _ => (some [], s)
  | fuel + 1, va, n =>
      if n = 0 then (some [], s)
      else if va ≥ 2 ^ 52 then (none, s)
      else
        let k := min n (128 - va % 128)
        let r : Option (List Byte) × State := match s.l1at core asid va with
          | some l => (some (l.bytesAt va k), s)
          | none => match s.xlate (clusterOf core) asid va .load true with
            | (.error _, s1) => (none, s1)
            | (.ok p, s1) => let r := s1.homeRead asid p.key k .dev; (some r.1, r.2)
        match r with
        | (none, s1) => (none, s1)
        | (some bs, s1) =>
            match s1.readSpec core asid fuel (va + k) (n - k) with
            | (none, s2) => (none, s2)
            | (some cs, s2) => (some (bs ++ cs), s2)

/-- A level record (R146). -/
structure LodLevel where
  base   : Nat
  width  : Nat
  height : Nat
  bw     : Nat
  sx     : Bool
  sy     : Bool
  mapoff : Nat
deriving DecidableEq, Repr

structure LodDesc where
  rid    : Nat
  floor  : Nat
  es     : Nat
  fb     : Bool
  map    : Nat
  border : List Byte
  levels : List LodLevel
deriving DecidableEq, Repr

/-- A level record that keeps the rules of R146. -/
def lodLevel (es : Nat) (bs : List Byte) : Option LodLevel :=
  let base := fieldOf bs 0 8
  let w := fieldOf bs 8 4
  let h := fieldOf bs 12 4
  let bw := fieldOf bs 16 1
  let sh := fieldOf bs 17 1
  if base % 65536 = 0 && 1 ≤ w && w ≤ 2 ^ 24 && 1 ≤ h && h ≤ 2 ^ 24 && bw + es ≤ 16 && sh < 4 && fieldOf bs 18 2 = 0
      && fieldOf bs 24 8 = 0
  then some ⟨base, w, h, bw, bitOf sh 0, bitOf sh 1, fieldOf bs 20 4⟩ else none

/-- All of a list, or nothing. -/
def allSome : List (Option α) → Option (List α)
  | [] => some []
  | none :: _ => none
  | some x :: xs => (allSome xs).map fun ys => x :: ys

/-- Reads a descriptor that keeps the rules of R146. -/
def State.lodDesc (s : State) (core asid va : Nat) : Option LodDesc × State :=
  match s.readSpec core asid 2 va 64 with
  | (none, s1) => (none, s1)
  | (some h, s1) =>
      let nl := fieldOf h 4 1
      let fl := fieldOf h 5 1
      let es := fieldOf h 6 1
      let fb := fieldOf h 7 1
      if !(1 ≤ nl && nl ≤ 16 && fl < nl && es ≤ 4 && fb < 2 && fieldOf h 8 8 % 8 = 0 && fieldOf h 32 32 = 0) then (none, s1)
      else match s1.readSpec core asid 6 (va + 64) (32 * nl) with
        | (none, s2) => (none, s2)
        | (some r, s2) =>
            ((allSome ((upFrom 0 nl).map fun k => lodLevel es (r.drop (32 * k)))).map fun ls =>
              ⟨fieldOf h 0 4, fl, es, fb == 1, fieldOf h 8 8, h.drop 16 |>.take 16, ls⟩, s2)

/-! ## Pages (R147) -/

def LodLevel.bh (l : LodLevel) (es : Nat) : Nat := 2 ^ (16 - es - l.bw)
def LodLevel.page (l : LodLevel) (es : Nat) (p : Nat × Nat) : Nat :=
  p.2 / l.bh es * ceilDiv l.width (2 ^ l.bw) + p.1 / 2 ^ l.bw
def LodLevel.addr (l : LodLevel) (es : Nat) (p : Nat × Nat) : Nat :=
  l.base + l.page es p * 65536 + ((p.2 % l.bh es) * 2 ^ l.bw + p.1 % 2 ^ l.bw) * 2 ^ es

/-- Without repeats, ascending. -/
def insertNat (n : Nat) : List Nat → List Nat
  | [] => [n]
  | m :: ms => if n < m then n :: m :: ms else if n = m then m :: ms else m :: insertNat n ms
def sortNat (ns : List Nat) : List Nat := ns.foldr insertNat []

/-- Is a page resident for the footprint's elements in it? -/
def State.lodResident (s : State) (core asid : Nat) (d : LodDesc) (l : LodLevel) (ps : List (Nat × Nat)) (page : Nat) : Bool :=
  let bit := l.mapoff + page
  let mapOk := match s.xlate (clusterOf core) asid (d.map + bit / 8) .load true with
    | (.ok p, s1) => d.map + bit / 8 < 2 ^ 52 && bitOf (leNat (s1.homeRead asid p.key 1 .dev).1) (bit % 8)
    | _ => false
  mapOk && (ps.filter fun p => l.page d.es p == page).all fun p =>
    let a := l.addr d.es p
    a < 2 ^ 52 && (match s.xlate (clusterOf core) asid a .load true with
      | (.ok _, _) => true
      | _ => false)

/-- The footprint's pages at a level that are not resident, ascending. -/
def State.lodMissing (s : State) (core asid : Nat) (d : LodDesc) (l : LodLevel) (ps : List (Nat × Nat)) : List Nat :=
  (sortNat (ps.map (l.page d.es))).filter fun p => !s.lodResident core asid d l ps p

/-- The walk of R148 from level `n` down to the floor: the level found with the positions there, or none. -/
def State.lodWalk (s : State) (core asid : Nat) (d : LodDesc) : Nat → List (Nat × Nat) → Option (Nat × List (Nat × Nat))
  | 0, ps => match d.levels[0]? with
      | none => none
      | some l => if (s.lodMissing core asid d l ps).isEmpty then some (0, ps) else none
  | n + 1, ps => match d.levels[n + 1]?, d.levels[n]? with
      | some l, some c =>
          if (s.lodMissing core asid d l ps).isEmpty then some (n + 1, ps)
          else if n + 1 = d.floor then none
          else s.lodWalk core asid d n (ps.map fun p =>
            (min (if l.sx then p.1 / 2 else p.1) (c.width - 1), min (if l.sy then p.2 / 2 else p.2) (c.height - 1)))
      | _, _ => none

/-! ## Requests (R148 to R150) -/

/-- What a walk gives: the elements at each footprint position with their addresses, the status byte and the level (R148, R149). -/
structure LodOut where
  data   : Option (List (List Byte))
  at'    : List Nat
  border : List Byte
  status : Nat
  level  : Nat
deriving DecidableEq, Repr

/-- A whole request with a descriptor: requested level, and the footprint it forms at the level wanted. -/
def State.lodRequest (s : State) (core asid : Nat) (d : LodDesc) (req : Nat) (helper : Bool)
    (foot : LodLevel → List (Nat × Nat)) : LodOut × State :=
  let want := max (min req (d.levels.length - 1)) d.floor
  match d.levels[want]? with
  | none => (⟨none, [], [], 0x20, 0⟩, s)
  | some lw =>
      let ps := foot lw
      let r := s.lodWalk core asid d want ps
      let kind := if r.isSome then 0 else 1
      let s1 := if (match r with | some (l, _) => l == want | none => false) || !d.fb || helper then s
        else s.over (s.lodMissing core asid d lw ps) fun s p => s.feedback core asid d.rid p want kind
      match r with
      | none => (⟨none, [], d.border.take (2 ^ d.es), 0x20, d.floor⟩, s1)
      | some (l, qs) =>
          let lv := d.levels.getD l lw
          let res := qs.foldl (fun (acc : List (List Byte) × State) q =>
            let r := acc.2.readSpec core asid 2 (lv.addr d.es q) (2 ^ d.es)
            (acc.1 ++ [r.1.getD (List.replicate (2 ^ d.es) 0#8)], r.2)) ([], s1)
          (⟨some res.1, qs.map (lv.addr d.es), [], if l = want then 0 else 0x10 + (want - l), l⟩, res.2)

/-- The status word of R239. -/
def LodOut.word (o : LodOut) : Word := BitVec.ofNat 32 (o.status + 256 * o.level)

/-- LDLOD (R239). DEDUCED (notes/assumptions/36.md). -/
def State.doLdlod (s : State) (o : Op) (l : LaneAcc) (d : Dst) (lvl : BitVec 4) (lreg : Bool) (e : Dst) (sz : Fin 5) :
    LaneRes × State :=
  let n := 2 ^ sz.val
  let words := fun (bs : List Byte) => wordsOf (max 1 (n / 4)) bs
  match s.lodDesc o.core o.asid l.addr.toNat with
  | (none, s1) => s.offBunting o l [l.addr.toNat] (.done [(d, words []), (e, [BitVec.ofNat 32 0x20])], s1)
  | (some ds, s1) =>
      if ds.es ≠ sz.val then s.offBunting o l [l.addr.toNat] (.done [(d, words []), (e, [BitVec.ofNat 32 0x20])], s1)
      else
        let x := (lo32 l.addr2).toNat % 2 ^ 24
        let y := (hi32 l.addr2).toNat % 2 ^ 24
        let req := if lreg then (hi32 l.addr2).toNat / 2 ^ 28 else lvl.toNat
        let (r, s2) := s1.lodRequest o.core o.asid ds req l.helper fun lv => [(min x (lv.width - 1), min y (lv.height - 1))]
        let bs := match r.data with
          | some (b :: _) => b
          | _ => r.border
        s.offBunting o l (l.addr.toNat :: ds.map :: r.at') (.done [(d, words bs), (e, [r.word])], s2)

/-! ## SAMPLE (R240) -/

/-- floor(x × k) of a finite value; NaN reads 0 and ±∞ reads ±2^30. -/
def floorMul (x : FVal) (k : Nat) : Int :=
  match x with
  | .fin neg m =>
      let v : Mag := { m with m := m.m * k }
      let fl : Int := (v.split 0).1
      let exact := (v.split 0).2.1 == 0
      if !neg then fl else if exact then -fl else -fl - 1
  | .inf neg => if neg then -((2 : Int) ^ 30) * (k : Int) else (2 : Int) ^ 30 * (k : Int)
  | .nan .. => 0

/-- The level offset: λ rounded with rn, NaN as 0, within 0 to NL - 1. -/
def lodLambda (w : Word) (nl : Nat) : Nat :=
  match decodeF .f32 w.toNat with
  | .fin neg m => if neg then 0 else min (roundAt .rn false 0 m 0).1 (nl - 1)
  | .inf neg => if neg then 0 else nl - 1
  | .nan .. => 0

def clampTo (x : Int) (w : Nat) : Nat := min x.toNat (w - 1)

/-- The footprint with its weights. -/
def sampleFoot (bilin : Bool) (u v : FVal) (lv : LodLevel) : List ((Nat × Nat) × Nat) :=
  if !bilin then [((clampTo (floorMul u lv.width) lv.width, clampTo (floorMul v lv.height) lv.height), 65536)]
  else
    let fx := floorMul u (256 * lv.width) - 128
    let fy := floorMul v (256 * lv.height) - 128
    let (x0, wx) := (fx / 256, (fx % 256).toNat)
    let (y0, wy) := (fy / 256, (fy % 256).toNat)
    let at' := fun (x y : Int) (w : Nat) => ((clampTo x lv.width, clampTo y lv.height), w)
    [at' x0 y0 ((256 - wx) * (256 - wy)), at' (x0 + 1) y0 (wx * (256 - wy)), at' x0 (y0 + 1) ((256 - wx) * wy),
      at' (x0 + 1) (y0 + 1) (wx * wy)].filter fun p => p.2 != 0

/-- The components R, G, B, A of an element, as exact values times 255 for bytes. -/
def sampleComps (fmt : SampleFmt) (bs : List Byte) : List FVal :=
  match fmt with
  | .unorm4 => (upFrom 0 4).map fun k => ofInt (fieldOf bs k 1 : Nat)
  | .half4 => (upFrom 0 4).map fun k => decodeF .f16 (fieldOf bs (2 * k) 2)
  | .single => [decodeF .f32 (fieldOf bs 0 4), .zero false, .zero false, ofInt 1]

/-- The filtered component: the exact weighted sum over 65,536 (and over 255 for bytes), rounded once. -/
def sampleComp (fmt : SampleFmt) (terms : List (FVal × Nat)) : Word :=
  let sum := terms.foldl (fun (acc : Option FVal) t =>
    let p := (mulV t.1 (ofInt (t.2 : Nat))).1
    match acc with
    | none => some p
    | some a => some (addV .rn a p).1) none
  let den : Nat := match fmt with | .unorm4 => 65536 * 255 | _ => 65536
  BitVec.ofNat 32 (encodeF .f32 .rn 0 (divV (sum.getD (.zero false)) (ofInt (den : Nat))).1).1

def SampleFmt.es : SampleFmt → Nat
  | .unorm4 => 2 | .half4 => 3 | .single => 2

/-- SAMPLE (R240). -/
def State.doSample (s : State) (o : Op) (l : LaneAcc) (d : Dst) (fmt : SampleFmt) (bilin : Bool) : LaneRes × State :=
  let fin := fun (els : List (List Byte × Nat)) (w : Word) =>
    LaneRes.done [(d, ((upFrom 0 4).map fun c => sampleComp fmt (els.map fun e => ((sampleComps fmt e.1).getD c (.zero false), e.2))) ++ [w])]
  match s.lodDesc o.core o.asid l.addr.toNat with
  | (none, s1) => s.offBunting o l [l.addr.toNat] (fin [([], 65536)] (BitVec.ofNat 32 0x20), s1)
  | (some ds, s1) =>
      if ds.es ≠ SampleFmt.es fmt then s.offBunting o l [l.addr.toNat] (fin [([], 65536)] (BitVec.ofNat 32 0x20), s1)
      else
        let nl := ds.levels.length
        let req := nl - 1 - lodLambda (l.data.headD 0#32) nl
        let u := decodeF .f32 (lo32 l.addr2).toNat
        let v := decodeF .f32 (hi32 l.addr2).toNat
        let want := max (min req (nl - 1)) ds.floor
        let ws := match ds.levels[want]? with
          | some lv => sampleFoot bilin u v lv
          | none => []
        let (r, s2) := s1.lodRequest o.core o.asid ds req l.helper fun _ => ws.map (·.1)
        s.offBunting o l (l.addr.toNat :: ds.map :: r.at') (match r.data with
        | some es => (fin (es.zip (ws.map (·.2))) r.word, s2)
        | none => (fin [(r.border, 65536)] r.word, s2))

end Sys2Proof.Machine
end

