-- ==== Sys2Proof/Machine/Ray.lean ====
section
/-! DEFINITION. The ray testers: RBOX (R289) and RTRI (R290) on a ray in eight registers (R288). -/

namespace Sys2Proof

/-- Is `x` at most `y`, both numbers? -/
def FVal.leN (x y : FVal) : Bool := !x.isNan && !y.isNan && !y.ltN x
def FVal.maxN (x y : FVal) : FVal := if x.ltN y then y else x
def FVal.minN (x y : FVal) : FVal := if y.ltN x then y else x
def FVal.isFin : FVal → Bool
  | .fin .. => true
  | _ => false

end Sys2Proof

namespace Sys2Proof.Machine

def f32Of (w : Word) : FVal := decodeF .f32 w.toNat

/-- A value rounded to f32, as a value. -/
def rnd32 (md : Rnd) (x : FVal) : FVal := decodeF .f32 (encodeF .f32 md 0 x).1

/-- Exact difference and quotient. -/
def subX (x y : FVal) : FVal := (addV .rn x y.neg).1
def divX (x y : FVal) : FVal := (divV x y).1
def mulX (x y : FVal) : FVal := (mulV x y).1

/-- The parts of a ray (R288). -/
structure Ray where
  o    : List FVal
  dir  : List FVal
  tmin : FVal
  tmax : FVal

def rayOf (ws : List Word) : Ray :=
  let f := fun k => f32Of (ws.getD k 0#32)
  ⟨[f 0, f 1, f 2], [f 3, f 4, f 5], f 6, f 7⟩

/-- A ray that misses everything (R288). -/
def Ray.bad (r : Ray) : Bool := !(r.o.all FVal.isFin && r.dir.all FVal.isFin) || r.tmin.isNan || r.tmax.isNan

def nth3 (xs : List FVal) (k : Nat) : FVal := xs.getD k (.zero false)

/-- One axis of the slab test: still hit, entry and exit. -/
def slab (r : Ray) (lo hi : FVal) (acc : Bool × FVal × FVal) (k : Nat) : Bool × FVal × FVal :=
  let (hit, tn, tf) := acc
  let o := nth3 r.o k
  let d := nth3 r.dir k
  if d.isZero then (hit && lo.leN o && o.leN hi, tn, tf)
  else
    let t0 := divX (subX lo o) d
    let t1 := divX (subX hi o) d
    (hit, tn.maxN (rnd32 .rd (t0.minN t1)), tf.minN (rnd32 .ru (t0.maxN t1)))

/-- Box `i` of a node: its entry distance when it is hit. -/
def rboxOne (r : Ray) (node : List Byte) (i : Nat) : Option FVal :=
  let b := fun k => decodeF .f32 (leNat (node.drop (24 * i + 4 * k) |>.take 4))
  let ok := (upFrom 0 3).all fun k => (b k).leN (b (k + 3))
  let (hit, tn, tf) := (upFrom 0 3).foldl (fun acc k => slab r (b k) (b (k + 3)) acc k) (true, r.tmin, r.tmax)
  if ok && hit && tn.leN tf then some tn else none

/-- Insertion by entry distance, ties to the lower index. -/
def insEntry (x : Nat × FVal) : List (Nat × FVal) → List (Nat × FVal)
  | [] => [x]
  | y :: ys => if y.2.ltN x.2 then y :: insEntry x ys else x :: y :: ys

/-- RBOX's two words (R289). -/
def rboxResult (ray : List Word) (node : List Byte) : List Word :=
  let r := rayOf ray
  let hits := if r.bad then [] else (upFrom 0 8).filterMap fun i => (rboxOne r node i).map fun t => (i, t)
  let order := hits.foldr insEntry []
  let nib := (upFrom 0 8).foldl (fun n j => n + ((order[j]?).map (·.1)).getD 15 * 16 ^ j) 0
  [BitVec.ofNat 32 (maskOf (hits.map (·.1)) + hits.length * 256), BitVec.ofNat 32 nib]

/-- Round-half-even of a value times 2^16, when the value is finite. -/
def snap16 (x : FVal) : Option Int :=
  match x with
  | .fin neg m =>
      let n : Int := (roundAt .rn neg 0 m (-16)).1
      some (if neg then -n else n)
  | _ => none

/-- RTRI's four words (R290). DEDUCED (notes/assumptions/39.md). -/
def rtriResult (ray : List Word) (tri : List Byte) (cull : Cull) : List Word :=
  let r := rayOf ray
  let mag := fun k => match nth3 r.dir k with
    | .fin _ m => FVal.fin false m
    | x => x
  let kz0 := if (mag 0).ltN (mag 1) then 1 else 0
  let kz := if (mag kz0).ltN (mag 2) then 2 else kz0
  let dz := nth3 r.dir kz
  let neg := dz.ltN (.zero false)
  let k1 := (kz + 1) % 3
  let k2 := (k1 + 1) % 3
  let (kx, ky) := if neg then (k2, k1) else (k1, k2)
  let sx := rnd32 .rn (divX (nth3 r.dir kx) dz)
  let sy := rnd32 .rn (divX (nth3 r.dir ky) dz)
  let sz := rnd32 .rn (divX (ofInt 1) dz)
  let vtx := fun (j k : Nat) => decodeF .f32 (leNat (tri.drop (12 * j + 4 * k) |>.take 4))
  let a := fun (j k : Nat) => rnd32 .rn (subX (vtx j k) (nth3 r.o k))
  let x := fun (j : Nat) => snap16 (rnd32 .rn (subX (a j kx) (mulX sx (a j kz))))
  let y := fun (j : Nat) => snap16 (rnd32 .rn (subX (a j ky) (mulX sy (a j kz))))
  let z := fun (j : Nat) => rnd32 .rn (mulX sz (a j kz))
  let small := fun (v : Option Int) => match v with
    | some n => decide (n.natAbs < 2 ^ 47)
    | none => false
  let fine := (upFrom 0 3).all fun j => small (x j) && small (y j) && (upFrom 0 3).all fun k => (vtx j k).isFin
  let known := (upFrom 0 3).all fun j => (x j).isSome && (y j).isSome
  let xi := fun j => (x j).getD 0
  let yi := fun j => (y j).getD 0
  let u := xi 1 * yi 2 - yi 1 * xi 2
  let v := xi 2 * yi 0 - yi 2 * xi 0
  let w := xi 0 * yi 1 - yi 0 * xi 1
  let det := u + v + w
  let t := (addV .rn (addV .rn (mulX (ofInt u) (z 0)) (mulX (ofInt v) (z 1))).1 (mulX (ofInt w) (z 2))).1
  let td := rnd32 .rn (divX t (ofInt det))
  let inside := (u ≥ 0 && v ≥ 0 && w ≥ 0) || (u ≤ 0 && v ≤ 0 && w ≤ 0)
  let culled := match cull with
    | .none => false
    | .back => det < 0
    | .front => det > 0
  let hit := !r.bad && fine && det != 0 && inside && !culled && r.tmin.leN td && td.leN r.tmax
  let word := fun (f : FVal) => BitVec.ofNat 32 (encodeF .f32 .rn 0 f).1
  let fl := BitVec.ofNat 32 ((if hit then 1 else 0) + (if known && det < 0 then 2 else 0) + (if fine then 0 else 4))
  if hit then [word td, word (divX (ofInt v) (ofInt det)), word (divX (ofInt w) (ofInt det)), fl]
  else [0x7F800000#32, 0#32, 0#32, fl]

/-- Reads consecutive bytes as plain loads at .wg, line by line. -/
def State.l1Range (s : State) (core asid : Nat) : Nat → Nat → Nat → (Except XFault (List Byte)) × State
  | 0, _, _ => (.ok [], s)
  | fuel + 1, va, n =>
      if n = 0 then (.ok [], s)
      else
        let k := min n (128 - va % 128)
        match s.l1Load core asid va k .wg with
        | (.error f, s1) => (.error f, s1)
        | (.ok bs, s1) => match s1.l1Range core asid fuel (va + k) (n - k) with
          | (.error f, s2) => (.error f, s2)
          | (.ok cs, s2) => (.ok (bs ++ cs), s2)

/-- Irrevocable reads of a checkpointed context (R379): the first and the last byte of what a tester reads. -/
def State.afterRange (s : State) (o : Op) (l : LaneAcc) (n : Nat) : State :=
  (s.afterAccess o.core o.asid l.addr.toNat none l.uid .wg false).afterAccess o.core o.asid (l.addr.toNat + n - 1) none l.uid .wg false

/-- RBOX and RTRI in one lane (R288). -/
def State.doRbox (s : State) (o : Op) (l : LaneAcc) (d : Dst) : LaneRes × State :=
  s.offBunting o l [l.addr.toNat, l.addr.toNat + 191] (match s.l1Range o.core o.asid 3 l.addr.toNat 192 with
  | (.error f, s1) => (.fault f, s1)
  | (.ok bs, s1) => (.done [(d, rboxResult l.data bs)], (s1.afterRange o l 192)))

def State.doRtri (s : State) (o : Op) (l : LaneAcc) (d : Dst) (cull : Cull) : LaneRes × State :=
  s.offBunting o l [l.addr.toNat, l.addr.toNat + 35] (match s.l1Range o.core o.asid 3 l.addr.toNat 36 with
  | (.error f, s1) => (.fault f, s1)
  | (.ok bs, s1) => (.done [(d, rtriResult l.data bs cull)], (s1.afterRange o l 36)))

end Sys2Proof.Machine
end

