-- ==== Sys2Proof/Machine/Perform.lean ====
section
/-! DEFINITION. Operations in flight: one lane's access performed, its results written and its counter lowered (R53, R219), and the
events LOAD_RETURN, STORE_PERFORM and RAY_TEST_COMPLETE. A thread's accesses perform in its program order (R102 allows it), and one that
waits holds back those that the memory model orders after it. -/

namespace Sys2Proof.Machine

/-- CPLTEST's read (R270). -/
def State.doCpltest (s : State) (o : Op) (l : LaneAcc) (d : Dst) (sc : Scope) : LaneRes × State :=
  s.offBunting o l [l.addr.toNat] (match s.l1Load o.core o.asid l.addr.toNat 8 sc with
  | (.error f, s1) => (.fault f, s1)
  | (.ok bs, s1) => (.done [(d, wordsOf 2 bs)],
      (s1.afterAccess o.core o.asid l.addr.toNat none l.uid sc false).acquire o.core o.asid sc))

/-- One lane's access of an operation. -/
def State.doAccess (s : State) (o : Op) (l : LaneAcc) : LaneRes × State :=
  match o.instr with
  | .ld _ d _ acq sc sz => s.doLd o l d acq sc sz
  | .st _ _ _ rel sc sz => s.doSt o l rel sc sz
  | .lsp _ d _ sz => s.doLocal l fun p s => ([(d, Size.load sz (s.locRead p (Size.bytes sz)))], s)
  | .ssp _ _ _ sz => s.doLocal l fun p s => ([], s.locWrite p ((bytesOfWords l.data).take (Size.bytes sz)))
  | .atms _ d _ _ op ty _ => s.doLocal l fun p s =>
      let old := leNat (s.locRead p (Ty.bytes ty))
      ([(d, tyWords ty old)], s.locWrite p (bytesOf (Ty.bytes ty) (atomNew op ty old l.val l.cmp.toNat)))
  | .ldlod _ d _ _ lvl lreg e sz => s.doLdlod o l d lvl lreg e sz
  | .sample _ d _ _ fmt bilin _ => s.doSample o l d fmt bilin
  | .atm _ d _ _ op ty sc ord _ => s.doAtm o l d op ty sc ord
  | .rdm _ _ _ op ty sc rel => s.doRdm o l op ty sc rel
  | .vbmin .. => s.doRdm o l .min .n64 .dev false
  | .cpltest _ d _ sc => s.doCpltest o l d sc
  | .rbox _ d _ _ => s.doRbox o l d
  | .rtri _ d _ _ cull => s.doRtri o l d cull
  | .rstkPop _ d | .rstkDepth _ d | .accrd _ d .. => (.done [(d, l.data)], s)
  | _ => (.done [], s)

/-! ## Issue of an operation -/

/-- A transactional access. -/
def State.doTx (s : State) (o : Op) (l : LaneAcc) : LaneRes × State :=
  match o.instr with
  | .ld _ d _ acq sc sz => s.doLd o l d acq sc sz
  | .st _ _ _ rel sc sz => s.doSt o l rel sc sz
  | .atm _ d _ _ op ty sc ord _ => s.doAtm o l d op ty sc ord
  | _ => (.done [], s)

/-- A lane joins an operation: its counter rises (R53). An access of a revocable transaction takes place in the sets of the transaction at
once, after the thread's earlier global accesses, so that an abort comes at the access (R249); its results come later. Another access inside
one, to the bunting, aborts it there too (R248). -/
def State.joinLane (s : State) (o : Op) (t : Thread) (l : LaneAcc) : Option LaneAcc × State :=
  if t.cnt o.cls ≥ 63 then (none, s.retry t.uid)
  else if !(l.tx && !t.st.irrev) then (some l, s.updThr t.uid (·.raiseCnt o.cls))
  else if !Instr.transactional o.instr then (match (s.doAccess o l).1 with
    | .abort c => (none, (s.abortTx t.uid c).leaves t.uid)
    | _ => (some l, s.updThr t.uid (·.raiseCnt o.cls)))
  else if s.globalBefore t.uid then (none, s.retry t.uid)
  else match s.doTx o l with
    | (.done outs, s1) => (some { l with ready := some outs }, s1.updThr t.uid (·.raiseCnt o.cls))
    | (.abort c, s1) => (none, (s1.abortTx t.uid c).leaves t.uid)
    | (.fault _, s1) => (none, (s1.abortTx t.uid 5).leaves t.uid)

/-- Issues an operation (R53, R219): each active lane traps, aborts, waits for room in its counter, or joins the operation; the counters of the
lanes that join rise, and the operation's completion is an event to come. DEDUCED (notes/assumptions/38.md). -/
def State.memIssue (s : State) (ts : List Thread) (i : Instr) (cls : OpClass) (os : List Opnd) (done : Nat → Instr)
    (mk : State → Thread → LaneDo) : State :=
  let plan := ts.filterMap fun t => match mk s t with | .go l => if os.any t.opPois then none else some l | _ => none
  let o := { s.newOp i cls with lanes := plan }
  let r := ts.foldl (fun (acc : State × List LaneAcc) t =>
    let s := acc.1
    let clean := !(((os.head?).map t.opPois).getD false)
    match clean, os.any t.opPois, mk s t with
      | true, _, .trap 1 a => (s.trapHere t.uid 1 0 a, acc.2)
      | _, true, _ => (s.trapPoison t false os, acc.2)
      | _, _, .trap c a => (s.trapHere t.uid c 0 a, acc.2)
      | _, _, .txBad => (s.illegalInTx t, acc.2)
      | _, _, .go l => let r := s.joinLane o t l; (r.2, acc.2 ++ r.1.toList)) (s, [])
  r.1.launchOp o done r.2

/-! ## Order among the accesses of a thread (R94, R100 to R103, R110) -/

/-- Accesses of several lines. -/
def Instr.wideAccess : Instr → Bool
  | .ldlod .. | .sample .. | .rbox .. | .rtri .. => true
  | _ => false

/-- Acquires and releases among accesses (R102). -/
def Instr.acquires : Instr → Bool
  | .ld _ _ _ acq _ _ => acq
  | .atm _ _ _ _ _ _ _ ord _ => ord == .acq || ord == .ar
  | .cpltest .. => true
  | _ => false
def Instr.releases : Instr → Bool
  | .st _ _ _ rel _ _ => rel
  | .rdm _ _ _ _ _ _ rel => rel
  | .atm _ _ _ _ _ _ _ ord _ => ord == .rel || ord == .ar
  | _ => false

/-- The key of the byte at which an access of a core takes place, if its translation is granted now. -/
def State.placeOf (s : State) (o : Op) (va : Nat) : Option Nat :=
  match s.l1at o.core o.asid va with
  | some l => some (l.pa + va % 128)
  | none => match s.xlate (clusterOf o.core) o.asid va (if Instr.writesGlobal o.instr then .store else .load) true with
    | (.ok p, _) => some p.key
    | (.error _, _) => none

/-- Do an access and a later one fall on one line, or write to host memory both, so that they perform in program order (R100 to R102, R110)? Lines
are told apart by their home, so that two addresses of one line are one; where the earlier one has no translation yet, they are
taken to meet. DESIGN CHOICE (notes/assumptions/10.md). -/
def State.linesMeet (s : State) (o : Op) (a : Nat) (p : Op) (b : Nat) : Bool :=
  lineOf a == lineOf b || (match s.placeOf o a with
    | none => true
    | some k => match s.placeOf p b with
      | none => false
      | some m => lineOf k == lineOf m
          || (homeOf k == .host && homeOf m == .host && Instr.writesGlobal o.instr && Instr.writesGlobal p.instr))

/-- Is an access one to memory, global or local? -/
def inMemory (o : Op) (l : LaneAcc) : Bool := Instr.isGlobal o.instr || l.loc.isSome

/-- Must an access come after an earlier one of its thread, which still waits (R94, R101, R102): after an acquire, before a release, of the local
space both, of several lines, or of one line? DESIGN CHOICE (notes/assumptions/10.md). -/
def State.orderedAfter (s : State) (o : Op) (a : LaneAcc) (p : Op) (b : LaneAcc) : Bool :=
  a.uid == b.uid && a.ready.isNone && inMemory o a && inMemory p b
    && (Instr.acquires o.instr || Instr.releases p.instr || (a.loc.isSome && b.loc.isSome)
      || (Instr.isGlobal o.instr && Instr.isGlobal p.instr && (Instr.wideAccess o.instr || Instr.wideAccess p.instr
        || s.linesMeet o a.addr.toNat p b.addr.toNat)))

/-- Does an earlier access that comes first still wait? -/
def State.earlierWaits (s : State) (p : Op) (b : LaneAcc) : List Op → Bool
  | [] => false
  | o :: os => if o.id = p.id then false else (o.lanes.any fun a => s.orderedAfter o a p b) || s.earlierWaits p b os

/-- Does a lower lane of a writing operation wait whose bytes may be those of this lane, so that the lanes take their turns (R93, R237, R241)? -/
def State.lowerWaits (s : State) (o : Op) (l : LaneAcc) : Bool :=
  (Instr.writesGlobal o.instr || l.loc.isSome) && o.lanes.any fun x => x.lane < l.lane && (x.held || x.fault.isSome)
    && (if l.loc.isSome then (x.loc.map (·.1)) == l.loc.map (·.1) else s.linesMeet o x.addr.toNat o l.addr.toNat)

/-- A lane's access is complete: its results are written clean, but for what a poisoned address makes poisoned (R50), its counter falls, and the lane leaves the operation; what was held
behind it may perform, and the workgroup of a thread that has ended may complete (R33, R107). -/
def State.finishLane (s : State) (o : Op) (l : LaneAcc) (outs : List (Dst × List Word)) : State :=
  let s1 := s.updThr l.uid fun t =>
    ((outs.foldl (fun (t : Thread) p => t.wrWords p.1 p.2 fun _ => if l.pois then .lost else .clean) t).lower o.cls).trimLog
  let s2 := s1.setOp o.id fun o => { o with lanes := o.lanes.filter fun x => !(x.uid == l.uid && x.lane == l.lane) }
  let s3 := (s2.unhold fun x y => y.uid == l.uid || x.id == o.id).reorderArrive l.uid
  if (s.thr? l.uid).isSome then s3 else (s3.tileCheck o.wg l.tile).wgCheck o.wg

/-- Marks the lane of an operation. -/
def State.markLane (s : State) (id uid : Nat) (f : LaneAcc → LaneAcc) : State :=
  s.setOp id fun o => { o with lanes := o.lanes.map fun (l : LaneAcc) => if l.uid = uid then f l else l }

/-- The undo log before a lane's write (R376, R377, R461). -/
def State.accGate (s : State) (o : Op) (l : LaneAcc) : Bool × State :=
  if !Instr.writesGlobal o.instr || !s.takesCkp o.asid then (true, s)
  else
    let va := l.addr.toNat
    match s.xlate (clusterOf o.core) o.asid va .store true with
    | (.error _, _) => (true, s)
    | (.ok p, _) => s.undoGate (clusterOf o.core) o.asid va (s.lineSeen o.core o.asid va p.key).1 o.event

/-- The address at which an access faults (R398): the first of its lines that is not granted. -/
def State.faultAddr (s : State) (o : Op) (l : LaneAcc) : Nat :=
  let n := match o.instr with | .rbox .. => 192 | .rtri .. => 36 | _ => 1
  let va := l.addr.toNat
  (((upFrom 0 3).map fun k => if k = 0 then va else lineOf va + 128 * k).find? fun a => a < va + n
    && (s.l1at o.core o.asid a).isNone && (match s.xlate (clusterOf o.core) o.asid a .load true with
      | (.error _, _) => true
      | _ => false)).getD va

/-- One lane of an operation performs now, whatever comes before it. -/
def State.actLane (s : State) (o : Op) (l : LaneAcc) : State :=
  match s.accGate o l with
  | (false, s0) => s0
  | (true, s0) => match s0.doAccess o l with
    | (.done outs, s1) => s1.finishLane o l outs
    | (.abort c, s1) => (s1.finishLane o l []).abortTx l.uid c
    | (.fault f, s1) =>
        let (fid, s2) := s1.newFault o.asid (.op o.id l.uid) (s1.faultAddr o l) (Instr.accessCode o.instr) f false l.tid l.wgIx 0 []
        s2.markLane o.id l.uid fun l => { l with fault := some fid }

/-- One lane of an operation, in its turn. -/
def State.stepLane (s : State) (id uid lane : Nat) : State :=
  match s.ops.find? (·.id == id) with
  | none => s
  | some o => match o.lanes.find? fun l => l.uid == uid && l.lane == lane with
    | none => s
    | some l =>
        if l.fault.isSome then s
        else match l.ready with
          | some outs => s.finishLane o l outs
          | none =>
              if inMemory o l && (s.earlierWaits o l s.ops || s.lowerWaits o l) then
                s.markLane id l.uid fun l => { l with held := true }
              else s.actLane o l

/-- Is a lane's thread off its core, so that its access is a replayable record (R369)? An access whose thread has ended goes on. -/
def State.offCore (s : State) (uid : Nat) : Bool :=
  match s.thr? uid with
  | none => false
  | some t => ((s.wg? t.wg).map fun w => w.state == .saved || w.state == .halted).getD false

/-- An operation performs, lane by lane in ascending lane order. -/
def State.performOp (s : State) (id : Nat) : State :=
  match s.ops.find? (·.id == id) with
  | none => s
  | some o => s.over (o.lanes.filter fun l => !l.held && !s.offCore l.uid) fun s l => s.stepLane id l.uid l.lane

/-- LOAD_RETURN (R219). -/
def execLoadReturn (op : Nat) (s : State) : Host.Outcome State Fault Refusal := .next (s.performOp op)

/-- STORE_PERFORM (R219). -/
def execStorePerform (op : Nat) (s : State) : Host.Outcome State Fault Refusal := .next (s.performOp op)

/-- RAY_TEST_COMPLETE (R288). -/
def execRayTestComplete (op : Nat) (s : State) : Host.Outcome State Fault Refusal := .next (s.performOp op)

end Sys2Proof.Machine
end

