-- ==== Sys2Proof/Machine/Seq.lean ====
section
/-! DEFINITION. The life of a matrix stream: its start, its end, a sequencer trap, and the sequencer's part in barriers (R310 to R315). -/

namespace Sys2Proof.Machine

/-! ## Streams -/

def State.seq? (s : State) (wg : Nat) : Option Seq := (s.wg? wg).bind (·.seq)

/-- The sequencer leaves the generations at which it has not arrived (R312). -/
def State.seqDetach (s : State) (wg : Nat) : State :=
  let mine := fun (k : BarKey) => match k with | .wg id _ => id == wg | _ => false
  let s1 : State := { s with gens := s.gens.map fun (g : Gen) => if mine g.key then { g with seqIn := g.seqIn && g.seqHere } else g }
  s1.over ((s1.gens.map (·.key)).filter mine) fun s k => s.genCheck k 2

/-- The stream at the head of the queue starts when the sequencer is idle (R311). -/
def State.seqStart (s : State) (wg : Nat) : State :=
  s.updSeq wg fun q => match q.st, q.queue with
    | .idle, x :: xs => { q with st := .running, cur := some x, queue := xs, pc := 0, loops := [], idx := 0, stallBar := none, wait := false, drop := false, fault := none }
    | _, _ => q

/-- A stream ends (R310, R314): the T count of its thread falls, the mailbox gets a word of KIND 1, and the next stream may start. -/
def State.seqEnd (s : State) (wg : Nat) : State :=
  match s.seq? wg with
  | none => s
  | some q =>
      let uid := (q.cur.map (·.uid)).getD 0
      let s1 := (s.updSeq wg fun q => { q with st := .idle, cur := none, loops := [], idx := 0, stallBar := none, wait := false, drop := false, fault := none }).seqDetach wg
      let s2 := if q.cur.isSome then (s1.updThr uid (·.lower .t)).reorderArrive uid else s1
      let s3 := s2.mailPush wg (seqWord 1 q.pc 0)
      let s4 := if q.queue.isEmpty then s3 else s3.post (.seqStreamStart wg)
      s4.wgCheck wg

/-- A sequencer trap (R315): cause, SEQPC, the mailbox word of KIND 2. -/
def State.seqTrap (s : State) (wg cause pc : Nat) : State :=
  (((s.updSeq wg fun q => { q with st := .trapped, cause := cause, pc := pc, stallBar := none, wait := false, fault := none }).seqDetach
    wg).mailPush wg (seqWord 2 pc cause)).wgCheck wg

/-- The sequencer arrives at a barrier (R312); a second arrival at an open generation waits for its completion, and then the word at `at'`
executes again. MWAIT waits after its arrival. -/
def State.seqArrive (s : State) (wg b at' : Nat) (waits : Bool) : State :=
  let k := BarKey.wg wg b
  if s.gens.any fun g => g.key == k && g.seqHere then
    s.updSeq wg fun q => { q with st := .stalled, stallBar := some (b, false), pc := at' }
  else
    let s1 := (s.openGen k).updGen k fun g => { g with seqHere := true }
    let s2 := if waits then s1.updSeq wg fun q => { q with st := .stalled, stallBar := some (b, true) } else s1
    s2.genCheck k 2

end Sys2Proof.Machine
end

