-- ==== Sys2Proof/Machine/Faults.lean ====
section
/-! DEFINITION. Faults: the page-request queue (R400), what a fault does to its requester (R397, R224), fault records and their ring
(R398, R399), responses, and the security core's answers to stage-2 faults (R397, R461). -/

namespace Sys2Proof.Machine

def State.fault? (s : State) (id : Nat) : Option FaultRec := s.faults.find? (·.id == id)
def State.updFault (s : State) (id : Nat) (f : FaultRec → FaultRec) : State :=
  { s with faults := s.faults.map fun (r : FaultRec) => if r.id = id then f r else r }

/-! ## The page-request queue (R400) -/

/-- Does a fault hold an entry? -/
def FaultRec.holds (r : FaultRec) : Bool :=
  match r.phase with
  | .new | .waitEntry => false
  | _ => true

/-- The entries that a front end holds. -/
def State.prqUsed (s : State) (fe : Nat) : Nat := (s.faults.filter fun r => feOf r.asid == fe && r.holds).length

/-- The shared entries that a front end holds: the PF has no reserved ones, a VF 64. -/
def State.prqShared (s : State) (fe : Nat) : Nat := if fe = 0 then s.prqUsed 0 else s.prqUsed fe - 64

/-- The shared entries that are free. -/
def State.prqFree (s : State) : Nat := 3072 - (upFrom 0 17).foldl (fun n f => n + s.prqShared f) 0

/-- May a front end take an entry? -/
def State.prqMay (s : State) (fe : Nat) : Bool :=
  if fe = 0 then s.prqUsed 0 < 1536 && s.prqFree > 0
  else s.prqUsed fe < 64 || (s.prqUsed fe < 64 + 1536 && s.prqFree > 0)

/-- A fault is resolved: its entry is free, and the faults that wait may try. -/
def State.prqDone (s : State) (id : Nat) : State :=
  let s1 : State := { s with faults := s.faults.filter fun (r : FaultRec) => r.id != id }
  s1.posts ((s1.faults.filter (·.phase == .waitEntry)).map fun r => Instr.prqEntryGrant r.id)

/-! ## What a stage-1 fault does (R224, R397) -/

/-- Load-kind entries (R224). -/
def Instr.loadKind : Instr → Bool
  | .ld .. | .cpltest .. | .rbox .. | .rtri .. => true
  | _ => false

/-- Does a later step of a replay need an entry: it owns a register, is store-kind, or a derived entry names it? -/
def Thread.needs (t : Thread) (e : LogEntry) : Bool :=
  e.isStore || e.isDerived || (t.regs.toList.any fun r => match r.mark with | .owned n _ => n == e.id | _ => false)
    || t.log.any fun x => match x.kind with
      | .derived _ srcs => srcs.any fun ws => ws.any fun w => match w with | .ent n _ => n == e.id | _ => false
      | _ => false

/-- The access entries of a log. -/
def Thread.accesses (t : Thread) : Nat := (t.log.filter fun e => !e.isDerived).length

/-- Where 190 access entries stand, those go that nothing needs (R224). DESIGN CHOICE (notes/assumptions/58.md). -/
def Thread.makeRoom (t : Thread) : Thread := if t.accesses < 190 then t else { t with log := t.log.filter t.needs }

/-- Does an entry rest on a value of one of some entries? -/
def LogEntry.restsOn (e : LogEntry) (gone : List Nat) : Bool :=
  match e.kind with
  | .derived _ srcs => srcs.any fun ws => ws.any fun w => match w with | .ent n _ => gone.contains n | _ => false
  | .access .. => false

/-- The oldest load-kind entry leaves a log, with the derived entries that rest on it; their registers are unrecoverable from then on (R224).
DESIGN CHOICE (notes/assumptions/58.md). -/
def Thread.dropLoad (t : Thread) : Thread :=
  match t.log.find? fun e => !e.isDerived && !e.isStore with
  | none => t
  | some o =>
      let gone := t.log.foldl (fun (g : List Nat) e => if e.restsOn g then g ++ [e.id] else g) [o.id]
      let lost := fun (r : Reg) => match r.mark with
        | .owned n _ => if gone.contains n then { r with mark := Mark.lost } else r
        | _ => r
      { t with log := t.log.filter fun e => !gone.contains e.id, regs := t.regs.map lost }

/-- An access entry: the destinations are poisoned and owned, and a store-kind one traps with MEM_FAULT before the next chain. In the
handler it is a DOUBLE_TRAP (R221). A load that finds 190 entries that are all needed leaves its destinations unrecoverable; another access then
takes the place of the oldest load, and where all are store-kind it has no entry. DESIGN CHOICE (notes/assumptions/58.md). -/
def State.logAccess (s : State) (t0 : Thread) (i : Instr) (slot : Nat) (l : LaneAcc) : State :=
  let t := t0.makeRoom
  if t.trap.inh then s.takeTrap t.uid 4 slot 0 l.addr t.pc
  else if t.accesses ≥ 190 && Instr.loadKind i then
    let regs := i.dsts.flatMap (·.regs)
    let (ws, s1) := s.freeWords regs.length
    s1.updThr t.uid fun t => ((upFrom 0 regs.length).zip regs).foldl (fun (t : Thread) p => t.setReg p.2 (ws.getD p.1 0#32) .lost) t
  else
    let regs := i.dsts.flatMap (·.regs)
    let (ws, s1) := s.freeWords regs.length
    let (id, s2) := s1.newId
    let store := !Instr.loadKind i
    let e : LogEntry := ⟨id, i, .access { l with held := false, fault := none } store⟩
    s2.updThr t.uid fun t0 =>
      let t := if t0.makeRoom.accesses ≥ 190 then t0.makeRoom.dropLoad else t0.makeRoom
      let t1 := ((upFrom 0 regs.length).zip regs).foldl (fun (t : Thread) p => t.setReg p.2 (ws.getD p.1 0#32) (.owned id p.1)) t
      { t1 with
        log := if t1.accesses ≥ 190 then t1.log else t1.log ++ [e]
        pend := if !store || t1.pend.any (·.cause == 4) then t1.pend else t1.pend ++ [⟨4, slot, l.addr⟩] }

/-- The threads whose reads a fault of waits or replays holds: those of the lanes that took part (R398). -/
def FaultRec.waiters (r : FaultRec) : List Nat :=
  r.redo.filterMap fun i => match i with
    | .monwaitPoll u | .cplwaitPoll u => some u
    | _ => none

/-- The faulting read of one lane's wait (R224): the lane waits no more, and gets its entry. -/
def State.failWait (s : State) (uid : Nat) : State :=
  match s.thr? uid with
  | none => s
  | some t => match t.park with
    | some (.held va want i slot) =>
        (s.updThr uid fun t => { t with park := none }).logAccess t i slot { s.laneAt t (BitVec.ofNat 64 va) with cmp := want }
    | _ => s

/-- The lanes of an operation that wait for a fault get their entries, and their counters fall (R219). -/
def State.failLanes (s : State) (op f : Nat) : State :=
  match s.ops.find? (·.id == op) with
  | none => s
  | some o => s.over (o.lanes.filter fun l => l.fault == some f) fun s l =>
      let s1 := match s.thr? l.uid with
        | some t => s.logAccess t o.instr o.slot l
        | none => s
      s1.finishLane o l []

/-- A node or a command ends with FAULT (R260, R282). -/
def State.cmdFault (s : State) (id : Nat) : State :=
  (s.updCmd id fun c => { c with status := 3, ended := true, paused := false }).post (.commandComplete id)
def State.nodeFault (s : State) (g n : Nat) : State :=
  (s.updGraph g fun x => { x with nodes := ((upFrom 0 x.nodes.length).zip x.nodes).map fun p =>
    if p.1 = n then { p.2 with status := 3, state := .running } else p.2 }).post (.nodeComplete g n)
def State.graphFault (s : State) (g : Nat) : State :=
  (s.updGraph g fun x => { x with status := if x.status = 0 then 3 else x.status, stop := true, started := true }).post (.graphStart g)

/-- A queue entry that cannot be read is consumed with BAD_ENTRY (DEDUCED, notes/assumptions/21.md). -/
def State.entryFault (s : State) (fe q : Nat) : State :=
  let b := 0x0800 + 16 * q
  let size := s.rregN fe (b + 3)
  let s1 := s.wreg fe (b + 4) (BitVec.ofNat 32 (if size = 0 then 0 else (s.rregN fe (b + 4) + 1) % size))
  (s1.wreg fe (b + 9) ((s1.rreg fe (b + 9) &&& 0x7FFFFF00#32) ||| 0x80000001#32)).postOnce (.run fe q (s1.rregN fe (b + 4)))

/-- A collapse or a wake goes on for what is left of a VF when one of its contexts has stopped. -/
def Instr.wakes : Instr → Bool
  | .collapseComplete _ | .wakeComplete _ => true
  | _ => false

/-- What a refusal does (R397, R461): stage 2, or the response to a stage-1 record. -/
def State.refuse (s : State) (r : FaultRec) : State :=
  match r.src with
  | .op .. | .wait .. => s.fatalAt r.asid 5 r.va
  | .seq wg =>
      if r.stage2 then s.fatalAt r.asid 5 r.va
      else if ((s.seq? wg).bind (·.fault)) = some r.id then s.seqTrap wg 5 (((s.seq? wg).map (·.pc)).getD 0)
      else s
  | .fetch _ => s.fatalAt r.asid (if r.stage2 then 5 else 6) r.va
  | .cmd id => s.cmdFault id
  | .front g => s.graphFault g
  | .entry fe q => s.entryFault fe q
  | .node g n => s.nodeFault g n
  | .device asid => (s.fatalAt asid 10 r.va).posts (r.redo.filter Instr.wakes)
  | .record _ => s.fatalAt r.asid 9 r.va
  | .dropped k n => s.devAnswer (k, n) false
  | .gone => s

/-- The access walks again (R397, R399). -/
def State.walkAgain (s : State) (r : FaultRec) : State :=
  match r.src with
  | .op id _ =>
      let clear := fun (l : LaneAcc) => if l.fault == some r.id then { l with fault := none } else l
      let s1 := s.setOp id fun o => { o with lanes := o.lanes.map clear }
      match s1.ops.find? (·.id == id) with
      | some o => s1.post o.event
      | none => s1
  | .cmd id => (s.updCmd id fun c => { c with paused := false }).posts r.redo
  | .seq wg => s.updSeq wg fun q => if q.fault = some r.id then { q with st := .running, fault := none } else q
  | .dropped k n => s.devAnswer (k, n) true
  | _ => s.posts r.redo

/-- A token that no waiting record of the front end holds. -/
def State.freeToken (s : State) (fe : Nat) : Nat :=
  ((upFrom 0 4097).find? fun k => !(s.faults.any fun r => feOf r.asid == fe && r.resp && r.holds && r.token == k)).getD 0

/-- A fault that holds its entry (R397): a stage-2 fault waits for the security core; a stage-1 fault acts on its requester and its
record goes to the ring. -/
def State.faultHeld (s : State) (r : FaultRec) : State :=
  if r.stage2 then s.updFault r.id fun r => { r with phase := .stage2 }
  else
    let s1 := s.updFault r.id fun r => { r with phase := .waitRing, token := if r.resp then s.freeToken (feOf r.asid) else 0 }
    let s2 := match r.src with
      | .op id _ => s1.failLanes id r.id
      | .wait .. => s1.over r.waiters State.failWait
      | _ => s1
    s2.post (.faultRecordWrite r.id)

/-- A fault tries for an entry; without one it waits, behind those of its front end that wait already, and is counted (R400, R408). -/
def State.faultTry (s : State) (r : FaultRec) : State :=
  let first := s.faults.find? fun x => x.phase == .waitEntry && feOf x.asid == feOf r.asid
  if s.prqMay (feOf r.asid) && (first.isNone || (first.map (·.id)) == some r.id) then s.faultHeld r
  else if r.phase = .new then (s.updFault r.id fun r => { r with phase := .waitEntry }).bump (feOf r.asid) 0x2002
  else s

/-- ACCESS_FAULT (R396, R397). -/
def execAccessFault (f : Nat) (s : State) : Host.Outcome State Fault Refusal :=
  .next (match s.fault? f with
    | some r => if r.phase = .new then s.faultTry r else s
    | none => s)

/-- PRQ_ENTRY_GRANT (R400). -/
def execPrqEntryGrant (f : Nat) (s : State) : Host.Outcome State Fault Refusal :=
  .next (match s.fault? f with
    | some r => if r.phase = .waitEntry then s.faultTry r else s
    | none => s)

/-! ## Fault records -/

/-- The 32 bytes of a record (R398). -/
def FaultRec.bytes (r : FaultRec) : List Byte :=
  bytesOf 8 r.va ++ bytesOf 1 r.kind ++ bytesOf 1 r.access ++ bytesOf 1 r.level
    ++ bytesOf 1 (boolNat r.resp + 2 * boolNat r.replay + 4 * boolNat r.lanes)
    ++ bytesOf 4 (if r.resp then r.token else 0) ++ bytesOf 4 r.tid.toNat ++ bytesOf 4 r.wg.toNat ++ bytesOf 2 r.tag ++ bytesOf 6 0

/-- A front-end read that faults pauses (R397): its record awaits a response, and then the event happens again.
DEDUCED (notes/assumptions/33.md). -/
def State.feFault (s : State) (asid : Nat) (src : FaultSrc) (va access : Nat) (f : XFault) (redo : Instr) : State :=
  if s.faults.any (·.redo == [redo]) then s else s.deviceFault asid src va access f [redo]

/-- FAULT_RECORD_WRITE (R399): the oldest waiting record of its context, once the ring has room. -/
def execFaultRecordWrite (f : Nat) (s : State) : Host.Outcome State Fault Refusal :=
  .next (match s.fault? f with
    | none => s
    | some r =>
        let first := s.faults.find? fun x => x.asid == r.asid && x.phase == .waitRing
        if (first.map (·.id)) ≠ some f || s.faults.any (·.src == .record f) then s
        else
          let fe := feOf r.asid
          let b := 0x1C00 + 8 * (r.asid % 64)
          let base := s.rreg2 fe (b + 2)
          let size := s.rregN fe (b + 4)
          let tail := s.rregN fe (b + 6)
          let used := (tail + 2 ^ 32 - s.rregN fe (b + 5)) % 2 ^ 32
          if base = 0 then (s.prqDone f).fatal r.asid 9
          else if used = size || size = 0 then s
          else
            let va := base + 32 * (tail % size)
            match s.xlate (feCluster fe) r.asid va .store false with
            | (.error .s2, s1) =>
                (s1.newFault r.asid (.record f) va 6 .s2 false 0xFFFFFFFF#32 0xFFFFFFFF#32 0 [.faultRecordWrite f]).2
            | (.error _, s1) => (s1.prqDone f).fatal r.asid 9
            | (.ok _, s1) =>
                match s1.ctxWrite (feCluster fe) r.asid .sys 8 va r.bytes with
                | .error _ => (s1.prqDone f).fatal r.asid 9
                | .ok s2 =>
                    let s3 := s2.wreg fe (b + 6) (BitVec.ofNat 32 (tail + 1))
                    let s4 := if used = 0 then s3.irq fe 1 else s3
                    let s5 := if r.resp then s4.updFault f fun r => { r with phase := .waitResp } else s4.prqDone f
                    s5.posts (((s5.faults.filter fun x => x.asid == r.asid && x.phase == .waitRing).take 1).map
                      fun x => Instr.faultRecordWrite x.id))

/-- The waiting record that holds a token. -/
def State.tokenRec (s : State) (fe token : Nat) : Option FaultRec :=
  s.faults.find? fun r => feOf r.asid == fe && r.phase == .waitResp && r.token == token

/-- PAGE_REQUEST_RETRY (R399). -/
def execPageRequestRetry (fe token : Nat) (s : State) : Host.Outcome State Fault Refusal :=
  .next (match s.tokenRec fe token with
    | some r => (s.prqDone r.id).walkAgain r
    | none => s)

/-- PAGE_REQUEST_REFUSE (R397, R399). -/
def execPageRequestRefuse (fe token : Nat) (s : State) : Host.Outcome State Fault Refusal :=
  .next (match s.tokenRec fe token with
    | some r => (s.prqDone r.id).refuse r
    | none => s)

/-- STAGE2_RESOLVE (R397). -/
def execStage2Resolve (f : Nat) (s : State) : Host.Outcome State Fault Refusal :=
  .next (match s.fault? f with
    | some r => if r.phase = .stage2 then (s.prqDone f).walkAgain r else s
    | none => s)

/-- STAGE2_REFUSED (R397). -/
def execStage2Refused (f : Nat) (s : State) : Host.Outcome State Fault Refusal :=
  .next (match s.fault? f with
    | some r => if r.phase = .stage2 then (s.prqDone f).refuse r else s
    | none => s)

end Sys2Proof.Machine
end

