-- ==== Sys2Proof/Machine/MemInstr.lean ====
section
/-! DEFINITION. The memory instructions at issue (R236 to R246), the ray testers (R288), completion tests and waits (R269, R270),
transactions (R247 to R251), traversal stacks (R291, R292), and the events of the L1, the L2 and the monitors. -/

namespace Sys2Proof.Machine

/-- An access at the address pair A. -/
def State.accAt (s : State) (t : Thread) (a : Src) : LaneAcc := s.laneAt t (s.src2 t a)

/-- LD (R236). -/
def execLd (g : Pred) (d : Dst) (a : Src) (acq : Bool) (sc : Scope) (sz : Size) (s : State) : Host.Outcome State Fault Refusal :=
  issued (.ld g d a acq sc sz) s fun s => s.memIssue (s.acting g) (.ld g d a acq sc sz) .l [.s2 a] .loadReturn fun s t =>
    globalChk (Size.bytes sz) sc t (s.accAt t a)

/-- ST (R236); a helper lane stores nothing (R138). -/
def execSt (g : Pred) (v : Src) (a : Src) (rel : Bool) (sc : Scope) (sz : Size) (s : State) : Host.Outcome State Fault Refusal :=
  issued (.st g v a rel sc sz) s fun s =>
    s.memIssue (s.realLanes g) (.st g v a rel sc sz) .s [.s2 a, Size.src sz v] .storePerform fun s t =>
      globalChk (Size.bytes sz) sc t { s.accAt t a with data := s.srcWords t (Size.src sz v) }

/-- LSP (R238). -/
def execLsp (g : Pred) (d : Dst) (a : Src) (sz : Size) (s : State) : Host.Outcome State Fault Refusal :=
  issued (.lsp g d a sz) s fun s => s.memIssue (s.acting g) (.lsp g d a sz) .l [.s a] .loadReturn fun s t =>
    s.localChk (Size.bytes sz) false t (s.laneAt t ((s.src t a).setWidth 64))

/-- SSP (R238); a helper lane stores nothing (R138). -/
def execSsp (g : Pred) (v : Src) (a : Src) (sz : Size) (s : State) : Host.Outcome State Fault Refusal :=
  issued (.ssp g v a sz) s fun s => s.memIssue (s.realLanes g) (.ssp g v a sz) .s [.s a, Size.src sz v] .storePerform fun s t =>
    s.localChk (Size.bytes sz) false t
      { s.laneAt t ((s.src t a).setWidth 64) with data := s.srcWords t (Size.src sz v) }

/-- LDLOD (R239). -/
def execLdlod (g : Pred) (d : Dst) (a b : Src) (lvl : BitVec 4) (lreg : Bool) (e : Dst) (sz : Fin 5) (s : State) :
    Host.Outcome State Fault Refusal :=
  issued (.ldlod g d a b lvl lreg e sz) s fun s =>
    s.memIssue (s.acting g) (.ldlod g d a b lvl lreg e sz) .l [.s2 a, .s2 b] .loadReturn fun s t =>
      .go { s.accAt t a with addr2 := s.src2 t b, tx := t.tx.isSome }

/-- SAMPLE (R240). -/
def execSample (g : Pred) (d : Dst) (a b : Src) (fmt : SampleFmt) (bilin : Bool) (e : Src) (s : State) :
    Host.Outcome State Fault Refusal :=
  issued (.sample g d a b fmt bilin e) s fun s =>
    s.memIssue (s.acting g) (.sample g d a b fmt bilin e) .l [.s2 a, .s2 b, .s e] .loadReturn fun s t =>
      .go { s.accAt t a with addr2 := s.src2 t b, data := [s.src t e], tx := t.tx.isSome }

/-- An atomic's operand and comparand. -/
def State.atomVals (s : State) (t : Thread) (l : LaneAcc) (op : AtomOp) (ty : Ty) (b e : Src) : LaneAcc :=
  { l with
    data := s.srcWords t (.sw ty.wide b)
    cmp := if op = .cas then s.opnd t (.sw ty.wide e) else 0 }

/-- The operands that an atomic consumes (R220). -/
def atomOpnds (a : Opnd) (op : AtomOp) (ty : Ty) (b e : Src) : List Opnd :=
  [a, .sw ty.wide b] ++ (if op = .cas then [.sw ty.wide e] else [])

/-- The class of an atomic (R219), and the event in which it performs. -/
def atomCls (d : Dst) : OpClass := if d = .zero then .s else .l
def atomDone (d : Dst) : Nat → Instr := if d = .zero then .storePerform else .loadReturn

/-- A value-returning atomic returns 0 in a helper lane (R138). -/
def State.helperZero (s : State) (g : Pred) (d : Dst) (w : Bool) : State :=
  s.over ((s.acting g).filter (·.helper)) fun s t => s.updThr t.uid fun t => (t.wrW w d 0).trimLog

/-- ATM (R241). -/
def execAtm (g : Pred) (d : Dst) (a b : Src) (op : AtomOp) (ty : Ty) (sc : Scope) (ord : Order) (e : Src) (s : State) :
    Host.Outcome State Fault Refusal :=
  issued (.atm g d a b op ty sc ord e) s fun s =>
    (s.helperZero g d ty.wide).memIssue (s.realLanes g) (.atm g d a b op ty sc ord e) (atomCls d) (atomOpnds (.s2 a) op ty b e)
      (atomDone d) fun s t => globalChk (Ty.bytes ty) sc t (s.atomVals t (s.accAt t a) op ty b e)

/-- ATMS (R241). -/
def execAtms (g : Pred) (d : Dst) (a b : Src) (op : AtomOp) (ty : Ty) (e : Src) (s : State) : Host.Outcome State Fault Refusal :=
  issued (.atms g d a b op ty e) s fun s =>
    (s.helperZero g d ty.wide).memIssue (s.realLanes g) (.atms g d a b op ty e) (atomCls d) (atomOpnds (.s a) op ty b e)
      (atomDone d) fun s t =>
        s.localChk (Ty.bytes ty) true t (s.atomVals t (s.laneAt t ((s.src t a).setWidth 64)) op ty b e)

/-- The access size of an RDM (R242). -/
def rdmBytes (ty : Ty) : Nat := if ty.wide then 8 else 4

/-- RDM (R242). -/
def execRdm (g : Pred) (a b : Src) (op : RedOp) (ty : Ty) (sc : Scope) (rel : Bool) (s : State) :
    Host.Outcome State Fault Refusal :=
  issued (.rdm g a b op ty sc rel) s fun s =>
    s.memIssue (s.realLanes g) (.rdm g a b op ty sc rel) .s [.s2 a, .sw ty.wide b] .storePerform fun s t =>
      globalChk (rdmBytes ty) sc t { s.accAt t a with data := s.srcWords t (.sw ty.wide b) }

/-- VBMIN (R243). -/
def execVbmin (g : Pred) (a b : Src) (s : State) : Host.Outcome State Fault Refusal :=
  issued (.vbmin g a b) s fun s => s.memIssue (s.realLanes g) (.vbmin g a b) .s [.s2 a, .s2 b] .storePerform fun s t =>
    globalChk 8 .dev t { s.accAt t a with data := s.srcWords t (.s2 b) }

/-- A prefetch of a line whose translation is cached (R244, R401): into the L1 as a plain miss, or into the home L2 slice alone. It is dropped
where the line is that of the bunting, of host memory or of a reduction window, and where a read would fold a shadow or meet an error.
DESIGN CHOICE (notes/assumptions/67.md). -/
def State.prefetch (s : State) (core asid va : Nat) (l2 : Bool) (p : Phys) : State :=
  let line := lineOf p.key
  let dev := homeOf p.key == .dram
  if !(dev || homeOf p.key == .peer) || s.bad line || s.shadows.any (·.line == line) then s
  else if l2 then (if dev then s.l2Fill (feOf asid) line else s)
  else if (s.l1at core asid va).isSome then s
  else s.l1Fill core asid va p.key p.w .core

/-- PREF (R244, R401): no effect that a program can see. One that misses the TLB is dropped, and counted in TLB_SPECDROP where it would fault.
DESIGN CHOICE (notes/assumptions/67.md). -/
def execPref (g : Pred) (a : Src) (l2 : Bool) (s : State) : Host.Outcome State Fault Refusal :=
  issued (.pref g a l2) s fun s => s.eachLane g fun s t =>
    let va := (s.src2 t a).toNat
    if t.opPois (.s2 a) || va ≥ 2 ^ 52 then s
    else match s.tlbHit (clusterOf s.iss.core) s.issAsid va .load with
      | some e => s.prefetch s.iss.core s.issAsid va l2 ⟨e.pa + (va - e.va), e.w && e.d⟩
      | none => match s.xlate (clusterOf s.iss.core) s.issAsid va .load true with
        | (.error _, s1) => s1.bump (feOf s.issAsid) 0x1E08
        | (.ok _, s1) => s1

/-- FENCE (R245): waits for the thread's accesses, then acts on the caches. -/
def execFence (g : Pred) (k : FenceKind) (sc : Scope) (s : State) : Host.Outcome State Fault Refusal :=
  issued (.fence g k sc) s fun s => s.eachLane g fun s t =>
    if t.tx.isSome && Scope.num sc ≥ 4 then s.illegalInTx t
    else if !s.drained t.uid then s.retry t.uid
    else match k with
      | .full => (s.release s.iss.core s.issAsid sc).acquire s.iss.core s.issAsid sc
      | .rel => s.release s.iss.core s.issAsid sc
      | .acq => s.acquire s.iss.core s.issAsid sc

/-! ## Waits on memory -/

/-- A thread returns from a wait. -/
def State.unpark (s : State) (uid : Nat) : State := s.updThr uid fun t => { t with park := none }

/-- MONWAIT returns with a value of MON_FULL (R246). -/
def State.monReturn (s : State) (uid : Nat) (full : Bool) : State :=
  s.updThr uid fun t => { t with park := none, st := { t.st with monFull := full } }

/-- A read of a wait, as an acquire at its scope: the bytes and the key read from. It may be irrevocable (R379). -/
def State.waitRead (s : State) (core asid va n : Nat) (sc : Scope) : (Except XFault (Nat × Nat)) × State :=
  match s.l1Load core asid va n sc with
  | (.error f, s1) => (.error f, s1)
  | (.ok bs, s1) =>
      let key := ((s1.l1at core asid va).map fun l => l.pa + va % 128).getD 0
      let s2 := s1.acquire core asid sc
      (.ok (leNat bs, key), if irrevAccess sc key then s2.irrevocable asid else s2)

/-- Before a fresh read of a word that is not homed on this device, its copies on this device go, so that the read reaches the home (R246, R269).
DESIGN CHOICE (notes/assumptions/68.md). -/
def State.freshen (s : State) (core asid va pa : Nat) : State :=
  if homeOf pa == .peer || homeOf pa == .host then (s.l1Out core asid va (lineOf pa)).rdcDrop (lineOf pa) else s

/-- The faulting read of a wait (R224, R397): the lane waits for the fault. -/
def State.waitFault (s : State) (t : Thread) (asid va : Nat) (want : DWord) (i : Instr) (slot : Nat) (f : XFault) (redo : Instr) : State :=
  let (_, s1) := s.newFault asid (.wait t.uid i) va (Instr.accessCode i) f false t.tid (s.wgIndex t) 0 [redo]
  s1.updThr t.uid fun t => { t with park := some (.held va want i slot) }

/-- The lanes of a core that hold monitor entries. -/
def State.monCount (s : State) (core : Nat) : Nat :=
  (s.threads.filter fun t => (match t.park with | some (.mon ..) => true | _ => false) && s.coreOf t.wg == core).length

/-- MONWAIT's read and wait (R246). -/
def State.monStart (s : State) (t : Thread) (core asid va : Nat) (want : Word) (sc : Scope) (i : Instr) (slot : Nat) : State :=
  match s.waitRead core asid va 4 sc with
  | (.error f, s1) => s1.waitFault t asid va (want.setWidth 64) i slot f (.monwaitPoll t.uid)
  | (.ok (v, key), s1) =>
      if v ≠ want.toNat then s1.monReturn t.uid false
      else if s1.monCount core ≥ 64 then s1.monReturn t.uid true
      else s1.updThr t.uid fun t => { t with park := some (.mon va key want sc slot s.dlc) }

/-- CPLWAIT's read and wait (R269). -/
def State.cplStart (s : State) (t : Thread) (core asid va : Nat) (want : DWord) (sc : Scope) (ext : Bool) (i : Instr) (slot : Nat) :
    State :=
  match s.waitRead core asid va 8 sc with
  | (.error f, s1) => s1.waitFault t asid va want i slot f (.cplwaitPoll t.uid)
  | (.ok (v, key), s1) =>
      if v ≥ want.toNat then s1.unpark t.uid
      else s1.updThr t.uid fun t => { t with park := some (.cpl va key want sc ext slot s.dlc) }

/-- A wait that is illegal in a transaction, misaligned or out of range; else it starts once the thread's accesses have performed. -/
def State.waitIssue (s : State) (t : Thread) (addr : DWord) (al : Nat) (start : State → State) : State :=
  if t.tx.isSome then s.illegalInTx t
  else if addr.toNat % al != 0 then s.trapHere t.uid 6 0 addr
  else if addr.toNat ≥ 2 ^ 52 then s.trapHere t.uid 7 0 addr
  else if !s.drained t.uid then s.retry t.uid
  else start s

/-- MONWAIT (R246). -/
def execMonwait (g : Pred) (v a : Src) (sc : Scope) (s : State) : Host.Outcome State Fault Refusal :=
  issued (.monwait g v a sc) s fun s => s.consuming g [.s2 a, .s v] fun s t =>
    s.waitIssue t (s.src2 t a) 4 fun s' =>
      s'.monStart t s.iss.core s.issAsid (s.src2 t a).toNat (s.src t v) sc (.monwait g v a sc) s.iss.slot

/-- CPLWAIT (R269). -/
def execCplwait (g : Pred) (v a : Src) (ext : Bool) (sc : Scope) (s : State) : Host.Outcome State Fault Refusal :=
  issued (.cplwait g v a ext sc) s fun s => s.consuming g [.s2 a, .s2 v] fun s t =>
    s.waitIssue t (s.src2 t a) 16 fun s' =>
      s'.cplStart t s.iss.core s.issAsid (s.src2 t a).toNat (s.src2 t v) sc ext (.cplwait g v a ext sc) s.iss.slot

/-- CPLTEST (R270). It is no consumer of poison (R402): a poisoned address is used as it is found, and the result is poisoned (R50). -/
def execCpltest (g : Pred) (d : Dst) (a : Src) (sc : Scope) (s : State) : Host.Outcome State Fault Refusal :=
  issued (.cpltest g d a sc) s fun s => s.memIssue (s.acting g) (.cpltest g d a sc) .l [] .loadReturn fun s t =>
    globalChk 16 sc t { s.accAt t a with pois := t.opPois (.s2 a) }

/-- The scope of a wait that has been issued. -/
def waitScope : Instr → Scope × Bool
  | .monwait _ _ _ sc => (sc, false)
  | .cplwait _ _ _ ext sc => (sc, ext)
  | _ => (.dev, false)

/-- Is the moment of a wait's next read come, 1 µs after its last (R246, R269)? -/
def State.readDue (s : State) (t : Thread) : Bool :=
  match t.park with
  | some (.mon _ _ _ _ _ last) | some (.cpl _ _ _ _ _ _ last) => decide (last + micros 1 ≤ s.dlc)
  | _ => false

/-- A read that lanes of one lane group are to make at one time is made in all of them at once, in ascending lane order, so that they go on as
one PC group (R16): the lane asked for, and those for which the same event is to come or whose moment has come. Waits of workgroups
that are halted or off the device read when they go on (R373). -/
def State.pollAll (s : State) (uid : Nat) (ev : Nat → Instr) (f : State → Nat → State) : State :=
  match s.thr? uid with
  | none => s
  | some t =>
      if !s.runs t.wg then s
      else
        let ts := sortKey (fun (u : Thread) => [u.lane]) (s.threads.filter fun u =>
          u.gid == t.gid && (u.uid == uid || s.agenda.contains (ev u.uid) || s.readDue u))
        ({ s with agenda := s.agenda.filter fun i => !((ts.map fun u => ev u.uid).contains i) } : State).over (ts.map (·.uid)) f

/-- One lane's MONWAIT reads again (R246): a fresh read of a word that is not homed on this device, which may fault as the first; or a read
held on a fault. -/
def State.monPoll (s : State) (uid : Nat) : State :=
  match s.thr? uid with
  | none => s
  | some t =>
      let core := s.coreOf t.wg
      let asid := s.asidOf t.wg
      match t.park with
      | some (.mon va pa want sc slot _) =>
          if homeOf pa = .peer || homeOf pa = .host then
            (match (s.freshen core asid va pa).waitRead core asid va 4 sc with
            | (.ok (v, _), s1) =>
                if v ≠ want.toNat then s1.monReturn uid false
                else s1.updThr uid fun t => { t with park := some (.mon va pa want sc slot s.dlc) }
            | (.error f, s1) => s1.waitFault t asid va (want.setWidth 64) (.monwait 7 .zero .zero sc) slot f (.monwaitPoll uid))
          else s
      | some (.held va want (.monwait g v a sc) slot) =>
          (s.unpark uid).monStart t core asid va (lo32 want) sc (.monwait g v a sc) slot
      | some (.held _ _ (.rett _) _) => s.unpark uid
      | _ => s

/-- MONWAIT_POLL (R246). -/
def execMonwaitPoll (uid : Nat) (s : State) : Host.Outcome State Fault Refusal := .next (s.pollAll uid .monwaitPoll State.monPoll)

/-- One lane's CPLWAIT reads its counter again (R269). -/
def State.cplPoll (s : State) (uid : Nat) : State :=
  match s.thr? uid with
  | none => s
  | some t =>
      let core := s.coreOf t.wg
      let asid := s.asidOf t.wg
      match t.park with
      | some (.cpl va pa want sc ext slot _) =>
          ((s.freshen core asid va pa).unpark uid).cplStart t core asid va want sc ext (.cplwait 7 .zero .zero ext sc) slot
      | some (.held va want (.cplwait g v a ext sc) slot) =>
          (s.unpark uid).cplStart t core asid va want sc ext (.cplwait g v a ext sc) slot
      | _ => s

/-- CPLWAIT_POLL (R269). -/
def execCplwaitPoll (uid : Nat) (s : State) : Host.Outcome State Fault Refusal := .next (s.pollAll uid .cplwaitPoll State.cplPoll)

/-! ## Ray testers -/

/-- The words of a ray. -/
def Thread.ray (t : Thread) (a : Src) : List Word := t.group (.sg 8 1 a)

/-- RBOX (R288, R289). -/
def execRbox (g : Pred) (d : Dst) (a b : Src) (s : State) : Host.Outcome State Fault Refusal :=
  issued (.rbox g d a b) s fun s =>
    s.memIssue (s.acting g) (.rbox g d a b) .t [.sg 8 1 a, .s2 b] .rayTestComplete fun s t =>
      globalChk 64 .wg t { s.accAt t b with data := t.ray a }

/-- RTRI (R288, R290). -/
def execRtri (g : Pred) (d : Dst) (a b : Src) (cull : Cull) (s : State) : Host.Outcome State Fault Refusal :=
  issued (.rtri g d a b cull) s fun s =>
    s.memIssue (s.acting g) (.rtri g d a b cull) .t [.sg 8 1 a, .s2 b] .rayTestComplete fun s t =>
      globalChk 4 .wg t { s.accAt t b with data := t.ray a }

/-! ## Traversal stacks (R291, R292) -/

/-- A stack operation in each lane: `f` gets the depth and gives the new depth, the entry to write, and the result words; `none` is
RSTACK_OVERFLOW. It waits for the thread's earlier local accesses. -/
def State.rstk (s : State) (g : Pred) (i : Instr) (cls : OpClass) (done : Nat → Instr) (os : List Opnd)
    (f : Launch → Nat → Thread → (Nat → DWord) → Option (Nat × Option (Nat × DWord) × List Word)) : State :=
  match s.issLaunch with
  | none => s
  | some l =>
      let busy := fun (t : Thread) => s.ops.any fun o => o.lanes.any fun x => x.uid == t.uid && x.loc.isSome
      let ready := (s.acting g).filter fun t => !busy t
      let s0 := s.over ((s.acting g).filter busy) fun s t => s.retry t.uid
      let plan := fun (s : State) (t : Thread) =>
        let rd := fun (off n : Nat) => leNat (s.locRead (t.wg, false, off) n)
        f l (rd (l.rDepthAt t.tid.toNat) 4) t fun e => BitVec.ofNat 64 (rd (l.rEntryAt t.tid.toNat e) 8)
      let r := ready.foldl (fun (acc : State × List LaneAcc) t =>
        let s := acc.1
        if os.any t.opPois then (s.trapPoison t false os, acc.2)
        else if t.cnt cls ≥ 63 then (s.retry t.uid, acc.2)
        else match plan s t with
          | none => (s.trapHere t.uid 22 0 0, acc.2)
          | some (n, wr, ws) =>
              let s1 := s.locWrite (t.wg, false, l.rDepthAt t.tid.toNat) (bytesOf 4 n)
              let s2 := match wr with
                | some (e, x) => s1.locWrite (t.wg, false, l.rEntryAt t.tid.toNat e) (bytesOf 8 x.toNat)
                | none => s1
              (s2.updThr t.uid (·.raiseCnt cls), acc.2 ++ [{ s.laneAt t 0 with data := ws }])) (s0, [])
      r.1.launchOp (s.newOp i cls) done r.2

/-- RSTK.push (R292). -/
def execRstkPush (g : Pred) (a : Src) (s : State) : Host.Outcome State Fault Refusal :=
  issued (.rstkPush g a) s fun s => s.rstk g (.rstkPush g a) .s .storePerform [.s2 a] fun l n t _ =>
    if n ≥ l.rstack then none else some (n + 1, some (n, s.src2 t a), [])

/-- RSTK.pop (R292). -/
def execRstkPop (g : Pred) (d : Dst) (s : State) : Host.Outcome State Fault Refusal :=
  issued (.rstkPop g d) s fun s => s.rstk g (.rstkPop g d) .l .loadReturn [] fun _ n _ rd =>
    if n = 0 then some (0, none, [0xFFFFFFFF#32, 0xFFFFFFFF#32])
    else some (n - 1, none, [lo32 (rd (n - 1)), hi32 (rd (n - 1))])

/-- RSTK.depth (R292). -/
def execRstkDepth (g : Pred) (d : Dst) (s : State) : Host.Outcome State Fault Refusal :=
  issued (.rstkDepth g d) s fun s => s.rstk g (.rstkDepth g d) .l .loadReturn [] fun _ n _ _ =>
    some (n, none, [BitVec.ofNat 32 n])

/-- RSTK.clear (R292). -/
def execRstkClear (g : Pred) (s : State) : Host.Outcome State Fault Refusal :=
  issued (.rstkClear g) s fun s => s.rstk g (.rstkClear g) .s .storePerform [] fun _ _ _ _ => some (0, none, [])

/-! ## Transactions -/

/-- TXBEGIN (R116, R247): with CONFLICTS = 8 the transaction is irrevocable and needs the partition's token. -/
def execTxbegin (g : Pred) (off : BitVec 21) (s : State) : Host.Outcome State Fault Refusal :=
  issued (.txbegin g off) s fun s => s.eachLane g fun s t =>
    let target := s.target off.toInt
    let fe := feOf s.issAsid
    let start := fun (t : Thread) (irrev : Bool) =>
      { t with tx := some ⟨target, [], []⟩, st := { t.st with intx := true, irrev := irrev } }
    if t.tx.isSome then s.illegalInTx t
    else if t.st.conflicts = 8 then
      (if s.tokens.any (·.1 == fe) then s.retry t.uid
       else { s.updThr t.uid (start · true) with tokens := s.tokens ++ [(fe, t.uid)] })
    else s.updThr t.uid (start · false)

/-- Closes a transaction that commits (R114, R250). -/
def Thread.closeTx (t : Thread) : Thread :=
  { t with tx := none, park := none, st := { t.st with intx := false, irrev := false, conflicts := 0 } }

/-- Do two transactions conflict (R114)? -/
def Tx.meets (x y : Tx) : Bool :=
  let hit := fun (ws rs : List TxLine) => ws.any fun w => rs.any fun r => r.pa == w.pa
  hit x.writes (y.reads ++ y.writes) || hit y.writes (x.reads ++ x.writes)

/-- Does a load of the thread's transaction wait to return (R250)? -/
def State.txLoading (s : State) (uid : Nat) : Bool := s.ops.any fun o => o.cls == .l && o.lanes.any fun l => l.uid == uid && l.tx

/-- TXEND (R114, R116, R250): it waits for the thread's transactional loads, an irrevocable one, whose stores perform at their homes, for
all its accesses; lanes are checked against lower lanes that keep their transactions; survivors wait for validation. -/
def execTxend (g : Pred) (s : State) : Host.Outcome State Fault Refusal :=
  issued (.txend g) s fun s =>
    ((s.acting g).foldl (fun (acc : State × List Tx) t =>
      let s := acc.1
      match t.tx with
      | none => (s.trapHere t.uid 19 0 0, acc.2)
      | some x =>
          if s.txLoading t.uid || (t.st.irrev && !s.drained t.uid) then (s.retry t.uid, acc.2)
          else if t.st.irrev then
            let s1 := (s.release s.iss.core s.issAsid .dev).acquire s.iss.core s.issAsid .dev
            ({ s1.updThr t.uid (·.closeTx) with tokens := s1.tokens.filter (·.2 != t.uid) }, acc.2)
          else if acc.2.any (·.meets x) then ((s.abortTx t.uid 2).leaves t.uid, acc.2)
          else ((s.updThr t.uid fun t => { t with park := some .txend }).post (.txValidation t.uid), acc.2 ++ [x])) (s, [])).1

/-- The lines that irrevocable transactions have read or written (R116). -/
def State.lockedLines (s : State) (uid : Nat) : List Nat :=
  (s.threads.filter fun t => t.uid != uid && t.st.irrev).flatMap fun t =>
    ((t.tx.map fun x => x.reads ++ x.writes).getD []).map (·.pa)

/-- Every read line still holds its value at its home (R114). -/
def State.txValid (s : State) (asid : Nat) : List TxLine → Bool × State
  | [] => (true, s)
  | r :: rs =>
      let (bs, s1) := s.homeRead asid r.pa 128 .dev
      if bs = r.data then s1.txValid asid rs else (false, s1)

/-- May the write set perform, as far as the undo log goes (R376, R377)? -/
def State.txGate (s : State) (core asid : Nat) (redo : Instr) : List TxLine → Bool × State
  | [] => (true, s)
  | w :: ws => match s.undoGate (clusterOf core) asid w.va (s.lineSeen core asid w.va w.pa).1 redo with
    | (true, s1) => s1.txGate core asid redo ws
    | r => r

/-- The whole write set performs at one moment (R114). -/
def State.txCommit (s : State) (core asid : Nat) (x : Tx) : State :=
  let s1 := s.release core asid .dev
  let s2 := s1.over x.writes fun s w =>
    (s.beforeWrite core asid w.va w.pa).over (runsOf w.mask (upFrom 0 128)) fun s r =>
      s.homeWrite asid (w.pa + r.1) (w.data.drop r.1 |>.take r.2) .dev none
  s2.acquire core asid .dev

/-- The outcome of a TXEND (R114, R115, R116); a commit that reaches lines whose access is irrevocable is irrevocable (R379). -/
def State.txOutcome (s : State) (uid : Nat) : State :=
  match s.thr? uid with
  | none => s
  | some t => match t.tx, t.park with
    | some x, some .txend =>
        let core := s.coreOf t.wg
        let asid := s.asidOf t.wg
        if (x.reads ++ x.writes).any fun l => (s.lockedLines uid).contains l.pa then s.abortTx uid 3
        else match s.txValid asid x.reads with
          | (true, s1) =>
              (match s1.txGate core asid (.txValidation uid) x.writes with
              | (false, s2) => s2
              | (true, s2) =>
                  let s3 := (s2.txCommit core asid x).updThr uid (·.closeTx)
                  if (x.reads ++ x.writes).any fun l => irrevAccess .dev l.pa then s3.irrevocable asid else s3)
          | (false, s1) => s1.abortTx uid 3
    | _, _ => s

/-- TX_VALIDATION (R114, R115): the commit is a release, so it comes after the thread's accesses outside the transaction. -/
def execTxValidation (uid : Nat) (s : State) : Host.Outcome State Fault Refusal :=
  .next (if s.globalBefore uid && ((s.thr? uid).bind (·.park)) == some .txend then s.post (.txValidation uid) else s.txOutcome uid)

/-- TXCTL.abort (R251). -/
def execTxctlAbort (g : Pred) (s : State) : Host.Outcome State Fault Refusal :=
  issued (.txctlAbort g) s fun s => s.eachLane g fun s t =>
    if t.tx.isNone then s
    else if t.st.irrev then s.trapHere t.uid 18 0 0
    else (s.abortTx t.uid 4).leaves t.uid

/-- TXCTL.test (R251). -/
def execTxctlTest (g : Pred) (d : Dst) (s : State) : Host.Outcome State Fault Refusal :=
  issued (.txctlTest g d) s fun s => s.eachLane g fun s t => s.updThr t.uid fun u =>
    (u.wr d (BitVec.ofNat 32 (boolNat t.st.intx + 2 * boolNat t.st.irrev))).trimLog

/-! ## Events of the caches -/

/-- L1_DIRTY_TIMEOUT (R98): the line is written back. -/
def execL1DirtyTimeout (core asid line : Nat) (s : State) : Host.Outcome State Fault Refusal :=
  .next (match s.l1at core asid line with
    | some l => s.writeBack l .dev
    | none => s)

/-- L1_NARROW_TIMEOUT (R98): a narrow line is written back if dirty, and invalidated. -/
def execL1NarrowTimeout (core asid line : Nat) (s : State) : Host.Outcome State Fault Refusal :=
  .next (match s.l1at core asid line with
    | some l => if Scope.narrow l.sc then s.l1Drop l .dev else s
    | none => s)

/-- L2_EVICTION (R111, R246, R411): the line leaves the L2. -/
def execL2Eviction (line : Nat) (s : State) : Host.Outcome State Fault Refusal :=
  .next (if homeOf (lineOf line) = .dram then s.l2Evict (lineOf line) else s)

end Sys2Proof.Machine
end

