-- ==== Sys2Proof/Machine/Control.lean ====
section
/-! DEFINITION. Branches, calls, the end and the creation of threads, regrouping, barriers, waits, traps and the return from the trap
handler with its replay (R214, R215, R225 to R235). -/

namespace Sys2Proof.Machine

/-! ## Branches and calls (R227) -/

/-- Moves a lane to a target. -/
def State.jump (s : State) (uid : Nat) (a : DWord) : State := s.updThr uid fun t => { t with pc := a }

/-- The link value P + 12 in v118:v119 (R166). -/
def State.link (s : State) (uid : Nat) : State :=
  s.updThr uid fun t => (t.wr2 (.v 118) (packetOf s.iss.pc + 12)).trimLog

/-- Traps a lane where a target is illegal. -/
def State.toTarget (s : State) (t : Thread) (a : DWord) (f : State → State) : State :=
  match targetCause a with
  | some (c, x) => s.trapHere t.uid c 0 x
  | none => f s

/-- JMP. -/
def execJmp (g : Pred) (off : BitVec 21) (s : State) : Host.Outcome State Fault Refusal :=
  issued (.jmp g off) s fun s => s.eachLane g fun s' t => s'.jump t.uid (s.target off.toInt)

/-- JMPX. -/
def execJmpx (g : Pred) (a : Src) (link : Bool) (s : State) : Host.Outcome State Fault Refusal :=
  issued (.jmpx g a link) s fun s => s.consuming g [.s2 a] fun s' t =>
    s'.toTarget t (s.src2 t a) fun s1 => (if link then s1.link t.uid else s1).jump t.uid (s.src2 t a)

/-- CALL. -/
def execCall (g : Pred) (off : BitVec 21) (s : State) : Host.Outcome State Fault Refusal :=
  issued (.call g off) s fun s => s.eachLane g fun s' t => (s'.link t.uid).jump t.uid (s.target off.toInt)

/-- RET. -/
def execRet (g : Pred) (s : State) : Host.Outcome State Fault Refusal :=
  issued (.ret g) s fun s => s.consuming g [.impl 118 2 false] fun s' t =>
    s'.toTarget t (s.src2 t (.v 118)) fun s1 => s1.jump t.uid (s.src2 t (.v 118))

/-! ## The end and the creation of threads -/

/-- EXIT (R30, R228): a revocable transaction is discarded, an irrevocable one commits as under TXEND. DEDUCED (notes/assumptions/40.md). -/
def execExit (g : Pred) (s : State) : Host.Outcome State Fault Refusal :=
  issued (.exit g) s fun s => s.eachLane g fun s t =>
    if t.tx.isSome && t.st.irrev then
      (if !s.drained t.uid then s.retry t.uid
       else ((s.release s.iss.core s.issAsid .dev).acquire s.iss.core s.issAsid .dev).endThread t.uid)
    else s.endThread t.uid

/-- The entry address of a target form. -/
def State.entryOf (s : State) (t : Thread) : Target → DWord
  | .off o => s.target o.toInt
  | .pair a => s.src2 t a

/-- The payload of a created thread with its poison bits (R28). -/
def Thread.payload (t : Thread) (vs n : Nat) : List (Word × Bool) := (upFrom vs n).map fun r => (t.val r, t.poisoned r)

/-- SPAWN (R28, R229); a helper lane creates nothing (R138). -/
def execSpawn (g : Pred) (tgt : Target) (vs : Fin 120) (n : Fin 17) (s : State) : Host.Outcome State Fault Refusal :=
  issued (.spawn g tgt vs n) s fun s => s.over (s.realLanes g) fun s t =>
    if t.tx.isSome then s.illegalInTx t
    else if tgt.opnds.any t.opPois then s.trapPoison t false tgt.opnds
    else
      let entry := s.entryOf t tgt
      s.toTarget t entry fun s =>
        if !s.drained t.uid then s.retry t.uid
        else
          let id := ((s.wg? t.wg).map (·.spawnCt)).getD 0
          let s1 := (s.release s.iss.core s.issAsid .wg).updWg t.wg fun w => { w with spawnCt := w.spawnCt + 1 }
          s1.placeUnit t.wg entry [⟨false, entry, id, t.payload vs.val n.val, 0, false, false, none⟩]

/-- What becomes of a lane at CONT on its own: a trap or an abort, or nothing. Its entry pair is no consumer of poison (R220, R402). -/
def State.contOwn (s : State) (t : Thread) (tgt : Target) (n : Nat) : Option (State → State) :=
  let os : List Opnd := if n = 0 then [] else [.impl 0 n false]
  if t.tx.isSome then some fun s => s.illegalInTx t
  else if os.any t.opPois then some fun s => s.trapPoison t false os
  else match targetCause (s.entryOf t tgt) with
    | some (c, x) => some fun s => s.trapHere t.uid c 0 x
    | none => none

/-- The thread that CONT creates (R29, R138, R139). -/
def Thread.contSeed (t : Thread) (entry : DWord) (n : Nat) : Seed :=
  ⟨false, entry, t.tid, t.payload 0 n, 1, t.pixel, t.helper, t.tile⟩

/-- Must a lane wait before CONT: for its L and T counters (R29), and for the release (R107)? -/
def State.contWaits (s : State) (t : Thread) : Bool := t.cntL + t.cntT != 0 || !s.drained t.uid

/-- The unit that replaces a quad's lanes or one thread: the old threads end and the new unit is placed. -/
def State.contUnit (s : State) (ts : List Thread) (entry : DWord) (unit : List Seed) : State :=
  match ts with
  | [] => s
  | t :: _ =>
      let s1 := (s.release s.iss.core s.issAsid .wg).over ts fun s t => s.removeThread t.uid
      (s1.placeUnit t.wg entry unit).coreFreed s.iss.core

/-- CONT of a pixel quad (R29): whole, at one entry, in one issue, or QUAD_SPLIT. -/
def State.contQuad (s0 s : State) (q : List Thread) (tgt : Target) (n : Nat) : State :=
  match q with
  | [] => s
  | t0 :: _ =>
      let entry := s0.entryOf t0 tgt
      let live := s.quadOf t0
      let split := live.any (fun u => q.all fun t => t.uid != u.uid) || q.any fun t => s0.entryOf t tgt != entry
      if split || q.any fun t => (s0.contOwn t tgt n).isSome then
        s.over q fun s t => match s0.contOwn t tgt n with
          | some f => f s
          | none => s.trapHere t.uid 14 0 0
      else if q.any s.contWaits then s.over q fun s t => s.retry t.uid
      else
        let seedAt := fun (k : Nat) => match q.find? fun t => t.lane % 4 == k with
          | some t => t.contSeed entry n
          | none => ⟨true, entry, 0, [], 1, true, false, none⟩
        s.contUnit q entry ((upFrom 0 4).map seedAt)

/-- CONT (R29, R229). -/
def execCont (g : Pred) (tgt : Target) (n : Fin 17) (s : State) : Host.Outcome State Fault Refusal :=
  issued (.cont g tgt n) s fun s =>
    let ts := s.acting g
    let single := fun (s' : State) (t : Thread) => match s.contOwn t tgt n.val with
      | some f => f s'
      | none =>
          if s'.contWaits t then s'.retry t.uid
          else
            let entry := s.entryOf t tgt
            s'.contUnit [t] entry [t.contSeed entry n.val]
    let s1 := s.over (ts.filter (!·.pixel)) single
    s1.over (upFrom 0 8) fun s' k => s.contQuad s' (ts.filter fun t => t.pixel && t.lane / 4 == k) tgt n.val

/-! ## Regrouping, turns and barriers -/

/-- REORDER (R31, R230). -/
def execReorder (g : Pred) (a : Src) (n : Fin 121) (s : State) : Host.Outcome State Fault Refusal :=
  issued (.reorder g a n) s fun s => s.consuming g [.s a] fun s' t =>
    if t.tx.isSome then s'.illegalInTx t
    else (s'.updThr t.uid fun u => { u with
      park := some (.reorder ((s.src t a).toNat % 2 ^ 16) n.val false s.iss.instrAddr) }).reorderArrive t.uid

/-- YIELD (R231). -/
def execYield (g : Pred) (n : BitVec 6) (s : State) : Host.Outcome State Fault Refusal :=
  issued (.yield g n) s fun s => s.eachLane g fun s t => s.updThr t.uid fun t => { t with yields := n.toNat + 2 }

/-- BAR (R35, R37, R232). -/
def execBar (g : Pred) (gang : Bool) (b : BitVec 4) (s : State) : Host.Outcome State Fault Refusal :=
  issued (.bar g gang b) s fun s => s.eachLane g fun s t =>
    if t.tx.isSome then s.illegalInTx t
    else match if gang then ((s.wg? t.wg).bind (·.gang)).map fun p => BarKey.gang p.1 b.toNat else some (.wg t.wg b.toNat) with
      | none => s.trapHere t.uid 9 0 0
      | some k =>
          if !s.drained t.uid then s.retry t.uid
          else (s.release s.iss.core s.issAsid k.scope).arrive k t.uid

/-- GBAR (R40, R233): membership first, then residency. -/
def execGbar (g : Pred) (idx : BitVec 8) (s : State) : Host.Outcome State Fault Refusal :=
  issued (.gbar g idx) s fun s => s.eachLane g fun s t =>
    let l := s.issLaunch
    let own := ((s.wg? t.wg).map (·.index)).getD 0
    let ent := l.bind fun l => l.groups.find? fun x => x.index == idx.toNat && x.members.contains own
    let away := s.wgs.any fun w => (l.map (·.id)) == some w.launch && ((ent.map (·.members)).getD []).contains w.index
      && !(w.state == .resident || w.state == .done)
    if t.tx.isSome then s.illegalInTx t
    else if ent.isNone then s.trapHere t.uid 17 0 0
    else if away then s.trapHere t.uid 16 0 0
    else if !s.drained t.uid then s.retry t.uid
    else (s.release s.iss.core s.issAsid .dev).arrive (.group ((l.map (·.id)).getD 0) idx.toNat) t.uid

/-- Are the counters at or below the limits of a WAIT; 7 ignores one (R234)? -/
def Thread.within (t : Thread) (l sl c x : BitVec 3) : Bool :=
  (l == 7 || t.cntL ≤ l.toNat) && (sl == 7 || t.cntS ≤ sl.toNat) && (c == 7 || t.cntC ≤ c.toNat) && (x == 7 || t.cntT ≤ x.toNat)

/-- WAIT (R234). -/
def execWait (g : Pred) (l sl c x : BitVec 3) (s : State) : Host.Outcome State Fault Refusal :=
  issued (.wait g l sl c x) s fun s => s.eachLane g fun s t => if t.within l sl c x then s else s.retry t.uid

/-! ## Traps -/

/-- TRAP (R226). -/
def execTrap (g : Pred) (imm : BitVec 14) (s : State) : Host.Outcome State Fault Refusal :=
  issued (.trap g imm) s fun s => s.eachLane g fun s t => s.trapNext t.uid 20 imm.toNat 0

/-- BREAK (R226, R348): with BRKROUTE set the thread halts for the debugger. DESIGN CHOICE (notes/assumptions/48.md). -/
def execBrk (g : Pred) (imm : BitVec 14) (s : State) : Host.Outcome State Fault Refusal :=
  issued (.brk g imm) s fun s => s.eachLane g fun s t =>
    if bitOf (s.rregN (feOf s.issAsid) (0x0500 + s.issAsid % 64)) 0 then s.updThr t.uid fun t => { t with park := some .debug }
    else s.trapNext t.uid 21 imm.toNat 0

/-- TIME (R235). -/
def execTime (g : Pred) (d : Dst) (s : State) : Host.Outcome State Fault Refusal :=
  issued (.time g d) s fun s => s.eachLane g fun s t => s.updThr t.uid fun t => (t.wr2 d (BitVec.ofNat 64 s.dlc)).trimLog

/-- REP (R214, R215): sets REPST unless a sequence resumes; the lanes stay at the REP. DEDUCED (notes/assumptions/31.md). -/
def execRep (sb sa sd : BitVec 2) (tot : BitVec 5) (s : State) : Host.Outcome State Fault Refusal :=
  issued (.rep sb sa sd tot) s fun s => s.eachLane 7 fun s t => s.updThr t.uid fun t => { t with
    pc := s.iss.pc
    rep := if t.rep.active then t.rep else ⟨true, tot.toNat + 1, 0, sd.toNat, sa.toNat, sb.toNat⟩ }

/-! ## RETT (R225) -/

/-- How a replay ends: whole, at an entry whose access faults, or waiting. -/
inductive ReplayEnd where
  | done | fault (addr : DWord) | wait
deriving DecidableEq, Repr

/-- The values formed so far, by entry. -/
abbrev ReplayEnv := List (Nat × List Word)

def replayWord (env : ReplayEnv) (x : LogSrc) : Word :=
  match x with
  | .val w => w
  | .ent e k => ((env.find? (·.1 == e)).map fun p => p.2.getD k 0#32).getD 0#32

/-- An entry kept after a stop, with the values formed so far in place of the entries that are gone. -/
def LogEntry.keep (env : ReplayEnv) (e : LogEntry) : LogEntry :=
  match e.kind with
  | .access .. => e
  | .derived lane srcs => { e with kind := .derived lane (srcs.map fun xs => xs.map fun x => match x with
      | .val w => .val w
      | .ent n k => if env.any (·.1 == n) then .val (replayWord env (.ent n k)) else .ent n k) }

/-- Writes an entry's value to the registers it owns. -/
def Thread.ownedWrite (t : Thread) (e : Nat) (ws : List Word) : Thread :=
  (upFrom 0 120).foldl (fun t r => match (t.reg r).mark with
    | .owned n k => if n = e then t.setReg r (ws.getD k 0#32) .clean else t
    | _ => t) t

/-- The words and flags of a derived entry. -/
def derivedValue (i : Instr) (lane : Nat) (xs : List (List Word)) : List Word × Flags :=
  let v := fun (k : Nat) => match xs.getD k [] with
    | [] => (0 : DWord)
    | [x] => x.setWidth 64
    | lo :: hi :: _ => pairOf lo hi
  match i.aluFn, Instr.blkConv i with
  | some f, _ => let r := f lane (v 0) (v 1) (v 2); ([lo32 r.1, hi32 r.1], r.2)
  | none, some k => k.outs xs lane
  | none, none => ([], 0)

/-- A replayed access that faults: a new record with REPLAY set; at stage 2 the thread waits at the RETT. -/
def State.replayFault (s : State) (t : Thread) (asid : Nat) (i : Instr) (l : LaneAcc) (f : XFault) : ReplayEnd × State :=
  let (id, s1) := s.newFault asid (.wait t.uid i) l.addr.toNat (Instr.accessCode i) f false t.tid (s.wgIndex t) 0 [.monwaitPoll t.uid]
  let s2 := s1.updFault id fun r => { r with replay := true }
  match f with
  | .s2 => (.wait, s2.updThr t.uid fun t => { t with park := some (.held 0 0 (.rett 7) 0) })
  | .s1 .. => (.fault l.addr, s2)

/-- The replay of the log in order; what is left of the log. A wait that is not over parks the thread. -/
def State.replay (s : State) (t : Thread) (core asid : Nat) (env : ReplayEnv) : List LogEntry → ReplayEnd × List LogEntry × State
  | [] => (.done, [], s)
  | e :: es =>
      let left := fun (xs : List LogEntry) => xs.map (·.keep env)
      let stop := fun (f : XFault) (l : LaneAcc) (s : State) =>
        let r := s.replayFault t asid e.instr l f
        (r.1, left (e :: es), r.2)
      match e.kind with
      | .access l _ =>
          let va := l.addr.toNat
          (match e.instr with
          | .monwait _ _ _ sc =>
              match s.waitRead core asid va 4 sc with
              | (.error f, s1) => stop f l s1
              | (.ok (v, key), s1) =>
                  if v ≠ l.cmp.toNat then (s1.monReturn t.uid false).replay t core asid env es
                  else if s1.monCount core ≥ 64 then (s1.monReturn t.uid true).replay t core asid env es
                  else (.wait, left es, s1.updThr t.uid fun t => { t with park := some (.mon va key (lo32 l.cmp) sc s.iss.slot s.dlc) })
          | .cplwait _ _ _ ext sc =>
              match s.waitRead core asid va 8 sc with
              | (.error f, s1) => stop f l s1
              | (.ok (v, key), s1) =>
                  if v ≥ l.cmp.toNat then s1.replay t core asid env es
                  else (.wait, left (e :: es), s1.updThr t.uid fun t => { t with park := some (.cpl va key l.cmp sc ext s.iss.slot s.dlc) })
          | i =>
              let o : Op := ⟨0, i, core, t.wg, asid, .l, 0, [], [l]⟩
              match s.accGate o l with
              | (false, s0) => (.wait, left (e :: es), s0)
              | (true, s0) => match s0.doAccess o l with
                | (.fault f, s1) => stop f l s1
                | (.abort _, s1) => s1.replay t core asid env es
                | (.done outs, s1) =>
                    let ws := outs.flatMap (·.2)
                    (s1.updThr t.uid (·.ownedWrite e.id ws)).replay t core asid (env ++ [(e.id, ws)]) es)
      | .derived lane srcs =>
          let r := derivedValue e.instr lane (srcs.map fun xs => xs.map (replayWord env))
          (s.updThr t.uid fun t => { (t.ownedWrite e.id r.1) with xfl := t.xfl ||| r.2 }).replay t core asid (env ++ [(e.id, r.1)]) es

/-- RETT in one lane: a replayed load sees the thread's own later stores, so they perform first. A CPLWAIT entry that still waits stays
in the log, and the RETT issues again once the wait is over (R374). -/
def State.rett (s : State) (t : Thread) : State :=
  let back := t.trap.xpc + BitVec.ofNat 64 (4 * t.trap.rslot)
  if !t.trap.inh then s.trapHere t.uid 1 0 0
  else if t.trap.xpc.toNat % 12 ≠ 0 || t.trap.rslot = 3 then s.trapHere t.uid 10 0 0
  else if !s.drained t.uid then s.retry t.uid
  else match s.replay t s.iss.core s.issAsid [] t.log with
    | (.done, _, s1) => s1.updThr t.uid fun t => { t.leaveTrap with log := [] }
    | (.wait, log, s1) => s1.updThr t.uid fun u => { u with log := log, pc := s.iss.instrAddr }
    | (.fault a, log, s1) =>
        (s1.updThr t.uid fun u => { u.leaveTrap with log := log }).takeTrap t.uid 4 s.iss.slot 0 a back

/-- RETT. -/
def execRett (g : Pred) (s : State) : Host.Outcome State Fault Refusal :=
  issued (.rett g) s fun s => s.eachLane g fun s t => s.rett t

end Sys2Proof.Machine
end

