-- ==== Sys2Proof/Decode.lean ====
section
/-! DEFINITION. Decoding instruction words (R153 to R175 and the encodings of each entry) and, after it, the encoder.
`decodeInstr` reads a thread instruction from its first word and the word that follows it in its packet, if there is one;
`decodeMatrix` reads a matrix stream word. Both are total and reject by name. -/

namespace Sys2Proof

/-- Why words are not an instruction (R171, R175). `opcode`: a reserved or illegal opcode. `mustBeZero`: a nonzero bit that R161 or
R174 requires to be zero. `register`: a code outside R48. `literal`: the literal code where R48 or R154 forbids it. `slot`: a
second word is needed in slot 2. `code`: an undefined function, type, rounding, scope or order code, or a combination of fields
that the entry refuses. Raised by nobody but the decoder; step turns each into ILLEGAL_INSTRUCTION or MSTREAM_ILLEGAL: safe. -/
inductive Reject where
  | opcode | mustBeZero | register | literal | slot | code
deriving DecidableEq, Repr

/-- Type codes (R61): the code of each name. -/
def Ty.code : Ty → Nat
  | .i8 => 0 | .n8 => 1 | .i16 => 2 | .n16 => 3 | .i32 => 4 | .n32 => 5 | .i64 => 6 | .n64 => 7
  | .f16 => 8 | .bf16 => 9 | .f32 => 10 | .f64 => 11 | .t8 => 12 | .t6 => 13 | .e4m3 => 14 | .e5m2 => 15

/-- Type codes (R61): the name of each code. -/
def Ty.ofCode : Nat → Except Reject Ty
  | 0 => .ok .i8 | 1 => .ok .n8 | 2 => .ok .i16 | 3 => .ok .n16 | 4 => .ok .i32 | 5 => .ok .n32
  | 6 => .ok .i64 | 7 => .ok .n64 | 8 => .ok .f16 | 9 => .ok .bf16 | 10 => .ok .f32 | 11 => .ok .f64
  | 12 => .ok .t8 | 13 => .ok .t6 | 14 => .ok .e4m3 | 15 => .ok .e5m2
  | _ => .error .code

/-- Rounding modes (R73): the code of each name. -/
def Rnd.code : Rnd → Nat
  | .rn => 0 | .rz => 1 | .rd => 2 | .ru => 3 | .rna => 4 | .dith => 5

/-- Rounding modes (R73): the name of each code. -/
def Rnd.ofCode : Nat → Except Reject Rnd
  | 0 => .ok .rn | 1 => .ok .rz | 2 => .ok .rd | 3 => .ok .ru | 4 => .ok .rna | 5 => .ok .dith
  | _ => .error .code

/-- Scopes (R96): the code of each name. -/
def Scope.code : Scope → Nat
  | .wg => 0 | .core => 1 | .clu => 2 | .dev => 3 | .fab => 4 | .sys => 5

/-- Scopes (R96): the name of each code. -/
def Scope.ofCode : Nat → Except Reject Scope
  | 0 => .ok .wg | 1 => .ok .core | 2 => .ok .clu | 3 => .ok .dev | 4 => .ok .fab | 5 => .ok .sys
  | _ => .error .code

/-- Order codes (R97): the code of each name. -/
def Order.code : Order → Nat
  | .plain => 0 | .acq => 1 | .rel => 2 | .ar => 3

/-- Order codes (R97): the name of each code. -/
def Order.ofCode : Nat → Except Reject Order
  | 0 => .ok .plain | 1 => .ok .acq | 2 => .ok .rel | 3 => .ok .ar
  | _ => .error .code

/-- Access sizes of LD, ST, LSP and SSP (R236): the code of each name. -/
def Size.code : Size → Nat
  | .n8 => 0 | .i8 => 1 | .n16 => 2 | .i16 => 3 | .n32 => 4 | .n64 => 5 | .x16 => 6

/-- Access sizes of LD, ST, LSP and SSP (R236): the name of each code. -/
def Size.ofCode : Nat → Except Reject Size
  | 0 => .ok .n8 | 1 => .ok .i8 | 2 => .ok .n16 | 3 => .ok .i16 | 4 => .ok .n32 | 5 => .ok .n64
  | 6 => .ok .x16
  | _ => .error .code

/-- ICMP conditions (R195): the code of each name. -/
def ICond.code : ICond → Nat
  | .eq => 0 | .ne => 1 | .lt => 2 | .le => 3 | .ltu => 4 | .leu => 5 | .tst => 6 | .ntst => 7

/-- ICMP conditions (R195): the name of each code. -/
def ICond.ofCode : Nat → Except Reject ICond
  | 0 => .ok .eq | 1 => .ok .ne | 2 => .ok .lt | 3 => .ok .le | 4 => .ok .ltu | 5 => .ok .leu
  | 6 => .ok .tst | 7 => .ok .ntst
  | _ => .error .code

/-- FCMP and DCMP conditions (R196): the code of each name. -/
def FCond.code : FCond → Nat
  | .eq => 0 | .ne => 1 | .lt => 2 | .le => 3 | .gt => 4 | .ge => 5 | .ord => 6 | .un => 7

/-- FCMP and DCMP conditions (R196): the name of each code. -/
def FCond.ofCode : Nat → Except Reject FCond
  | 0 => .ok .eq | 1 => .ok .ne | 2 => .ok .lt | 3 => .ok .le | 4 => .ok .gt | 5 => .ok .ge
  | 6 => .ok .ord | 7 => .ok .un
  | _ => .error .code

/-- FOP operations (R199): the code of each name. -/
def FopFn.code : FopFn → Nat
  | .add => 0 | .sub => 1 | .mul => 2 | .fma => 3 | .fms => 4 | .div => 5 | .sqrt => 6 | .min => 7
  | .max => 8

/-- FOP operations (R199): the name of each code. -/
def FopFn.ofCode : Nat → Except Reject FopFn
  | 0 => .ok .add | 1 => .ok .sub | 2 => .ok .mul | 3 => .ok .fma | 4 => .ok .fms | 5 => .ok .div
  | 6 => .ok .sqrt | 7 => .ok .min | 8 => .ok .max
  | _ => .error .code

/-- FRND types (R200): the code of each name. -/
def FrndTy.code : FrndTy → Nat
  | .f32 => 0 | .f64 => 1 | .h2 => 2 | .b2 => 3

/-- FRND types (R200): the name of each code. -/
def FrndTy.ofCode : Nat → Except Reject FrndTy
  | 0 => .ok .f32 | 1 => .ok .f64 | 2 => .ok .h2 | 3 => .ok .b2
  | _ => .error .code

/-- FSF functions (R201): the code of each name. -/
def SfFn.code : SfFn → Nat
  | .rcp => 0 | .rsq => 1 | .lg2 => 2 | .ex2 => 3 | .sinpi => 4 | .cospi => 5 | .tanh => 6

/-- FSF functions (R201): the name of each code. -/
def SfFn.ofCode : Nat → Except Reject SfFn
  | 0 => .ok .rcp | 1 => .ok .rsq | 2 => .ok .lg2 | 3 => .ok .ex2 | 4 => .ok .sinpi | 5 => .ok .cospi
  | 6 => .ok .tanh
  | _ => .error .code

/-- Block lengths of CONVB, SCALEB and RESV (R204, R297): the code of each name. -/
def BlkLen.code : BlkLen → Nat
  | .l32 => 0 | .l64 => 1 | .l128 => 2 | .l256 => 3

/-- Block lengths of CONVB, SCALEB and RESV (R204, R297): the name of each code. -/
def BlkLen.ofCode : Nat → Except Reject BlkLen
  | 0 => .ok .l32 | 1 => .ok .l64 | 2 => .ok .l128 | 3 => .ok .l256
  | _ => .error .code

/-- SWZ modes (R209): the code of each name. -/
def SwzMode.code : SwzMode → Nat
  | .bcast => 0 | .xor => 1 | .up => 2 | .down => 3 | .rot => 4 | .idx => 5

/-- SWZ modes (R209): the name of each code. -/
def SwzMode.ofCode : Nat → Except Reject SwzMode
  | 0 => .ok .bcast | 1 => .ok .xor | 2 => .ok .up | 3 => .ok .down | 4 => .ok .rot | 5 => .ok .idx
  | _ => .error .code

/-- VOTE operations (R210): the code of each name. -/
def VoteOp.code : VoteOp → Nat
  | .ballot => 0 | .any => 1 | .all => 2 | .eq => 3

/-- VOTE operations (R210): the name of each code. -/
def VoteOp.ofCode : Nat → Except Reject VoteOp
  | 0 => .ok .ballot | 1 => .ok .any | 2 => .ok .all | 3 => .ok .eq
  | _ => .error .code

/-- LRED and LSCAN operations (R211): the code of each name. -/
def RedOp.code : RedOp → Nat
  | .add => 0 | .min => 1 | .max => 2 | .and => 3 | .or => 4 | .xor => 5

/-- LRED and LSCAN operations (R211): the name of each code. -/
def RedOp.ofCode : Nat → Except Reject RedOp
  | 0 => .ok .add | 1 => .ok .min | 2 => .ok .max | 3 => .ok .and | 4 => .ok .or | 5 => .ok .xor
  | _ => .error .code

/-- TRSP element sizes (R212): the code of each name. -/
def TrspSize.code : TrspSize → Nat
  | .n8 => 0 | .n16 => 1 | .n32 => 2

/-- TRSP element sizes (R212): the name of each code. -/
def TrspSize.ofCode : Nat → Except Reject TrspSize
  | 0 => .ok .n8 | 1 => .ok .n16 | 2 => .ok .n32
  | _ => .error .code

/-- Atomic operations (R241): the code of each name. -/
def AtomOp.code : AtomOp → Nat
  | .add => 0 | .min => 1 | .max => 2 | .and => 3 | .or => 4 | .xor => 5 | .xchg => 6 | .cas => 7

/-- Atomic operations (R241): the name of each code. -/
def AtomOp.ofCode : Nat → Except Reject AtomOp
  | 0 => .ok .add | 1 => .ok .min | 2 => .ok .max | 3 => .ok .and | 4 => .ok .or | 5 => .ok .xor
  | 6 => .ok .xchg | 7 => .ok .cas
  | _ => .error .code

/-- FENCE kinds (R245): the code of each name. -/
def FenceKind.code : FenceKind → Nat
  | .full => 0 | .rel => 1 | .acq => 2

/-- FENCE kinds (R245): the name of each code. -/
def FenceKind.ofCode : Nat → Except Reject FenceKind
  | 0 => .ok .full | 1 => .ok .rel | 2 => .ok .acq
  | _ => .error .code

/-- SAMPLE formats (R240): the code of each name. -/
def SampleFmt.code : SampleFmt → Nat
  | .unorm4 => 0 | .half4 => 1 | .single => 2

/-- SAMPLE formats (R240): the name of each code. -/
def SampleFmt.ofCode : Nat → Except Reject SampleFmt
  | 0 => .ok .unorm4 | 1 => .ok .half4 | 2 => .ok .single
  | _ => .error .code

/-- Port catalogue (R254): the code of each name. -/
def Port.code : Port → Nat
  | .unbound => 0 | .copy => 1 | .gather => 2 | .coll => 3 | .cpl => 4 | .hoistout => 5 | .hoistin => 6 | .halyard => 7
  | .mailbox => 8

/-- Port catalogue (R254): the name of each code. -/
def Port.ofCode : Nat → Except Reject Port
  | 0 => .ok .unbound | 1 => .ok .copy | 2 => .ok .gather | 3 => .ok .coll | 4 => .ok .cpl | 5 => .ok .hoistout
  | 6 => .ok .hoistin | 7 => .ok .halyard | 8 => .ok .mailbox
  | _ => .error .code

/-- RTRI culling (R290): the code of each name. -/
def Cull.code : Cull → Nat
  | .none => 0 | .back => 1 | .front => 2

/-- RTRI culling (R290): the name of each code. -/
def Cull.ofCode : Nat → Except Reject Cull
  | 0 => .ok .none | 1 => .ok .back | 2 => .ok .front
  | _ => .error .code

/-- Reservation formats (R295): the code of each name. -/
def ResFmt.code : ResFmt → Nat
  | .t6 => 0 | .t8 => 1 | .e4m3 => 2 | .e5m2 => 3 | .i8 => 4 | .n8 => 5 | .bf16 => 6 | .f16 => 7
  | .f32 => 8 | .f64 => 9 | .b1 => 10

/-- Reservation formats (R295): the name of each code. -/
def ResFmt.ofCode : Nat → Except Reject ResFmt
  | 0 => .ok .t6 | 1 => .ok .t8 | 2 => .ok .e4m3 | 3 => .ok .e5m2 | 4 => .ok .i8 | 5 => .ok .n8
  | 6 => .ok .bf16 | 7 => .ok .f16 | 8 => .ok .f32 | 9 => .ok .f64 | 10 => .ok .b1
  | _ => .error .code

/-- Accumulator tile modes (R304): the code of each name. -/
def TileMode.code : TileMode → Nat
  | .bfp48 => 0 | .i32 => 1 | .f64 => 2

/-- Accumulator tile modes (R304): the name of each code. -/
def TileMode.ofCode : Nat → Except Reject TileMode
  | 0 => .ok .bfp48 | 1 => .ok .i32 | 2 => .ok .f64
  | _ => .error .code

/-- ACCRD selections (R326): the code of each name. -/
def AccSel.code : AccSel → Nat
  | .elem => 0 | .exp => 1 | .head => 2 | .rowst => 3 | .tilest => 4 | .flush => 5 | .seqst => 6 | .seqpc => 7

/-- ACCRD selections (R326): the name of each code. -/
def AccSel.ofCode : Nat → Except Reject AccSel
  | 0 => .ok .elem | 1 => .ok .exp | 2 => .ok .head | 3 => .ok .rowst | 4 => .ok .tilest | 5 => .ok .flush
  | 6 => .ok .seqst | 7 => .ok .seqpc
  | _ => .error .code

/-- Special registers read with SRD (R55): the code of each name. -/
def Spr.code : Spr → Nat
  | .tstat => 0 | .xflags => 1 | .cntrs => 2 | .tilew => 3 | .repst => 4 | .poison0 => 5 | .poison1 => 6 | .poison2 => 7
  | .poison3 => 8 | .fenable => 9 | .gangid => 10 | .qbound => 11 | .qportlo => 12 | .qporthi => 13 | .spawnct => 14 | .cyclo => 15
  | .cychi => 16 | .coreid => 17

/-- Special registers read with SRD (R55): the name of each code. -/
def Spr.ofCode : Nat → Except Reject Spr
  | 0 => .ok .tstat | 1 => .ok .xflags | 2 => .ok .cntrs | 3 => .ok .tilew | 4 => .ok .repst | 5 => .ok .poison0
  | 6 => .ok .poison1 | 7 => .ok .poison2 | 8 => .ok .poison3 | 9 => .ok .fenable | 10 => .ok .gangid | 11 => .ok .qbound
  | 12 => .ok .qportlo | 13 => .ok .qporthi | 14 => .ok .spawnct | 15 => .ok .cyclo | 16 => .ok .cychi | 17 => .ok .coreid
  | _ => .error .code

/-- A source field (R48). `lit` is the literal word, `none` where the literal code is illegal. -/
def srcAt (lit : Option Nat) (w lo : Nat) : Except Reject Src :=
  if h : fld w lo 7 < 120 then .ok (.v ⟨fld w lo 7, h⟩)
  else if fld w lo 7 = 120 then .ok .zero
  else if fld w lo 7 = 121 then match lit with
    | some x => .ok (.lit (BitVec.ofNat 32 x))
    | none => .error .literal
  else if fld w lo 7 = 122 then .ok .lane
  else if fld w lo 7 = 123 then .ok .tid
  else if fld w lo 7 = 124 then .ok .wg
  else .error .register

/-- A destination field (R48). -/
def dstAt (w lo : Nat) : Except Reject Dst :=
  if h : fld w lo 7 < 120 then .ok (.v ⟨fld w lo 7, h⟩)
  else if fld w lo 7 = 120 then .ok .zero
  else .error .register

/-- A field below a bound. -/
def finAt (k w lo n : Nat) : Except Reject (Fin k) := if h : fld w lo n < k then .ok ⟨fld w lo n, h⟩ else .error .code

/-- A predicate field (R49, R159). -/
def predAt (w lo : Nat) : Pred := ⟨fld w lo 3, Nat.mod_lt _ (by decide)⟩

/-- A field of bits. -/
def bvAt (n w lo : Nat) : BitVec n := BitVec.ofNat n (fld w lo n)

/-- The amount of FSH (R192): I in bit 8, AMT in 4:0, E in 16:10. -/
def shamtAt (x : Nat) : Except Reject ShAmt :=
  if bitOf x 8 then (if fld x 10 7 = 0 then .ok (.imm (bvAt 5 x 0)) else .error .mustBeZero)
  else if fld x 0 5 = 0 then (srcAt none x 10).bind fun e => .ok (.reg e) else .error .mustBeZero

/-- An entry target (R229, R271, R285): OFF in bits 31:17 and IND in bit 0 of `x`; the pair's field is at `lo` of `w`. -/
def targetAt (x w lo : Nat) : Except Reject Target :=
  if bitOf x 0 then (if fld x 17 15 = 0 then (srcAt none w lo).bind fun a => .ok (.pair a) else .error .mustBeZero)
  else if fld w lo 7 = 0 then .ok (.off (bvAt 15 x 17)) else .error .mustBeZero

/-- Goes on when every bit that must be zero is zero (R161, R174). -/
def zeros (b : Bool) (k : Except Reject α) : Except Reject α := if b then k else .error .mustBeZero

/-- The words of NOP (R169). -/
def decNop (w : Nat) : Except Reject Instr :=
  zeros (clearFields w [(0, 21)]) <|
  .ok (.nop (predAt w 21))

/-- The words of IADD (R190). -/
def decIadd (lit : Option Nat) (w : Nat) : Except Reject Instr :=
  (dstAt w 14).bind fun d =>
  (srcAt lit w 7).bind fun a =>
  (srcAt lit w 0).bind fun b =>
  .ok (.iadd (predAt w 21) d a b)

/-- The words of ISUB (R190). -/
def decIsub (lit : Option Nat) (w : Nat) : Except Reject Instr :=
  (dstAt w 14).bind fun d =>
  (srcAt lit w 7).bind fun a =>
  (srcAt lit w 0).bind fun b =>
  .ok (.isub (predAt w 21) d a b)

/-- The words of IMUL (R190). -/
def decImul (lit : Option Nat) (w : Nat) : Except Reject Instr :=
  (dstAt w 14).bind fun d =>
  (srcAt lit w 7).bind fun a =>
  (srcAt lit w 0).bind fun b =>
  .ok (.imul (predAt w 21) d a b)

/-- The words of IMULH (R190). -/
def decImulh (lit : Option Nat) (w : Nat) : Except Reject Instr :=
  (dstAt w 14).bind fun d =>
  (srcAt lit w 7).bind fun a =>
  (srcAt lit w 0).bind fun b =>
  .ok (.imulh (predAt w 21) d a b)

/-- The words of NMULH (R190). -/
def decNmulh (lit : Option Nat) (w : Nat) : Except Reject Instr :=
  (dstAt w 14).bind fun d =>
  (srcAt lit w 7).bind fun a =>
  (srcAt lit w 0).bind fun b =>
  .ok (.nmulh (predAt w 21) d a b)

/-- The words of IMA (R190). -/
def decIma (lit : Option Nat) (w : Nat) : Except Reject Instr :=
  (dstAt w 14).bind fun d =>
  (srcAt lit w 7).bind fun a =>
  (srcAt lit w 0).bind fun b =>
  .ok (.ima (predAt w 21) d a b)

/-- The words of IMIN (R190). -/
def decImin (lit : Option Nat) (w : Nat) : Except Reject Instr :=
  (dstAt w 14).bind fun d =>
  (srcAt lit w 7).bind fun a =>
  (srcAt lit w 0).bind fun b =>
  .ok (.imin (predAt w 21) d a b)

/-- The words of IMAX (R190). -/
def decImax (lit : Option Nat) (w : Nat) : Except Reject Instr :=
  (dstAt w 14).bind fun d =>
  (srcAt lit w 7).bind fun a =>
  (srcAt lit w 0).bind fun b =>
  .ok (.imax (predAt w 21) d a b)

/-- The words of NMIN (R190). -/
def decNmin (lit : Option Nat) (w : Nat) : Except Reject Instr :=
  (dstAt w 14).bind fun d =>
  (srcAt lit w 7).bind fun a =>
  (srcAt lit w 0).bind fun b =>
  .ok (.nmin (predAt w 21) d a b)

/-- The words of NMAX (R190). -/
def decNmax (lit : Option Nat) (w : Nat) : Except Reject Instr :=
  (dstAt w 14).bind fun d =>
  (srcAt lit w 7).bind fun a =>
  (srcAt lit w 0).bind fun b =>
  .ok (.nmax (predAt w 21) d a b)

/-- The words of ISAD (R190). -/
def decIsad (lit : Option Nat) (w : Nat) : Except Reject Instr :=
  (dstAt w 14).bind fun d =>
  (srcAt lit w 7).bind fun a =>
  (srcAt lit w 0).bind fun b =>
  .ok (.isad (predAt w 21) d a b)

/-- The words of IADD64 (R190). -/
def decIadd64 (lit : Option Nat) (w : Nat) : Except Reject Instr :=
  (dstAt w 14).bind fun d =>
  (srcAt lit w 7).bind fun a =>
  (srcAt lit w 0).bind fun b =>
  .ok (.iadd64 (predAt w 21) d a b)

/-- The words of ISUB64 (R190). -/
def decIsub64 (lit : Option Nat) (w : Nat) : Except Reject Instr :=
  (dstAt w 14).bind fun d =>
  (srcAt lit w 7).bind fun a =>
  (srcAt lit w 0).bind fun b =>
  .ok (.isub64 (predAt w 21) d a b)

/-- The words of IMUL64 (R190). -/
def decImul64 (lit : Option Nat) (w : Nat) : Except Reject Instr :=
  (dstAt w 14).bind fun d =>
  (srcAt lit w 7).bind fun a =>
  (srcAt lit w 0).bind fun b =>
  .ok (.imul64 (predAt w 21) d a b)

/-- The words of IMAW (R190). -/
def decImaw (lit : Option Nat) (w : Nat) : Except Reject Instr :=
  (dstAt w 14).bind fun d =>
  (srcAt lit w 7).bind fun a =>
  (srcAt lit w 0).bind fun b =>
  .ok (.imaw (predAt w 21) d a b)

/-- The words of AND (R191). -/
def decAnd (lit : Option Nat) (w : Nat) : Except Reject Instr :=
  (dstAt w 14).bind fun d =>
  (srcAt lit w 7).bind fun a =>
  (srcAt lit w 0).bind fun b =>
  .ok (.and (predAt w 21) d a b)

/-- The words of OR (R191). -/
def decOr (lit : Option Nat) (w : Nat) : Except Reject Instr :=
  (dstAt w 14).bind fun d =>
  (srcAt lit w 7).bind fun a =>
  (srcAt lit w 0).bind fun b =>
  .ok (.or (predAt w 21) d a b)

/-- The words of XOR (R191). -/
def decXor (lit : Option Nat) (w : Nat) : Except Reject Instr :=
  (dstAt w 14).bind fun d =>
  (srcAt lit w 7).bind fun a =>
  (srcAt lit w 0).bind fun b =>
  .ok (.xor (predAt w 21) d a b)

/-- The words of ANDN (R191). -/
def decAndn (lit : Option Nat) (w : Nat) : Except Reject Instr :=
  (dstAt w 14).bind fun d =>
  (srcAt lit w 7).bind fun a =>
  (srcAt lit w 0).bind fun b =>
  .ok (.andn (predAt w 21) d a b)

/-- The words of SHL (R191). -/
def decShl (lit : Option Nat) (w : Nat) : Except Reject Instr :=
  (dstAt w 14).bind fun d =>
  (srcAt lit w 7).bind fun a =>
  (srcAt lit w 0).bind fun b =>
  .ok (.shl (predAt w 21) d a b)

/-- The words of SHR (R191). -/
def decShr (lit : Option Nat) (w : Nat) : Except Reject Instr :=
  (dstAt w 14).bind fun d =>
  (srcAt lit w 7).bind fun a =>
  (srcAt lit w 0).bind fun b =>
  .ok (.shr (predAt w 21) d a b)

/-- The words of SAR (R191). -/
def decSar (lit : Option Nat) (w : Nat) : Except Reject Instr :=
  (dstAt w 14).bind fun d =>
  (srcAt lit w 7).bind fun a =>
  (srcAt lit w 0).bind fun b =>
  .ok (.sar (predAt w 21) d a b)

/-- The words of SEL (R191). -/
def decSel (lit : Option Nat) (w : Nat) : Except Reject Instr :=
  (dstAt w 14).bind fun d =>
  (srcAt lit w 7).bind fun a =>
  (srcAt lit w 0).bind fun b =>
  .ok (.sel (predAt w 21) d a b)

/-- The words of TERN (R192). -/
def decTern (w x : Nat) : Except Reject Instr :=
  zeros (clearFields x [(8, 2), (17, 15)]) <|
  (dstAt w 14).bind fun d =>
  (srcAt none w 7).bind fun a =>
  (srcAt none w 0).bind fun b =>
  (srcAt none x 10).bind fun e =>
  .ok (.tern (predAt w 21) d a b e (bvAt 8 x 0))

/-- The words of FSH (R192). -/
def decFsh (w x : Nat) : Except Reject Instr :=
  zeros (clearFields x [(5, 3), (17, 15)]) <|
  (dstAt w 14).bind fun d =>
  (srcAt none w 7).bind fun a =>
  (srcAt none w 0).bind fun b =>
  (shamtAt x).bind fun amt =>
  .ok (.fsh (predAt w 21) d a b (bitOf x 9) amt)

/-- The words of PCNT (R191). -/
def decPcnt (lit : Option Nat) (w : Nat) : Except Reject Instr :=
  zeros (clearFields w [(1, 6)]) <|
  (dstAt w 14).bind fun d =>
  (srcAt lit w 7).bind fun a =>
  .ok (.pcnt (predAt w 21) d a (bitOf w 0))

/-- The words of CLZ (R191). -/
def decClz (lit : Option Nat) (w : Nat) : Except Reject Instr :=
  zeros (clearFields w [(1, 6)]) <|
  (dstAt w 14).bind fun d =>
  (srcAt lit w 7).bind fun a =>
  .ok (.clz (predAt w 21) d a (bitOf w 0))

/-- The words of BREV (R191). -/
def decBrev (lit : Option Nat) (w : Nat) : Except Reject Instr :=
  zeros (clearFields w [(1, 6)]) <|
  (dstAt w 14).bind fun d =>
  (srcAt lit w 7).bind fun a =>
  .ok (.brev (predAt w 21) d a (bitOf w 0))

/-- The words of BFE (R192). -/
def decBfe (w x : Nat) : Except Reject Instr :=
  zeros (clearFields w [(0, 7)] && clearFields x [(10, 7), (18, 14)]) <|
  (dstAt w 14).bind fun d =>
  (srcAt none w 7).bind fun a =>
  .ok (.bfe (predAt w 21) d a (bitOf x 17) (bvAt 5 x 5) (bvAt 5 x 0))

/-- The words of BFI (R192). -/
def decBfi (w x : Nat) : Except Reject Instr :=
  zeros (clearFields w [(0, 7)] && clearFields x [(10, 22)]) <|
  (dstAt w 14).bind fun d =>
  (srcAt none w 7).bind fun a =>
  .ok (.bfi (predAt w 21) d a (bvAt 5 x 5) (bvAt 5 x 0))

/-- The words of BPERM (R192). -/
def decBperm (w x : Nat) : Except Reject Instr :=
  zeros (clearFields x [(0, 10), (17, 15)]) <|
  (dstAt w 14).bind fun d =>
  (srcAt none w 7).bind fun a =>
  (srcAt none w 0).bind fun b =>
  (srcAt none x 10).bind fun e =>
  .ok (.bperm (predAt w 21) d a b e)

/-- The words of FADD_F32 (R193). -/
def decFaddF32 (lit : Option Nat) (w : Nat) : Except Reject Instr :=
  (dstAt w 14).bind fun d =>
  (srcAt lit w 7).bind fun a =>
  (srcAt lit w 0).bind fun b =>
  .ok (.faddF32 (predAt w 21) d a b)

/-- The words of FSUB_F32 (R193). -/
def decFsubF32 (lit : Option Nat) (w : Nat) : Except Reject Instr :=
  (dstAt w 14).bind fun d =>
  (srcAt lit w 7).bind fun a =>
  (srcAt lit w 0).bind fun b =>
  .ok (.fsubF32 (predAt w 21) d a b)

/-- The words of FMUL_F32 (R193). -/
def decFmulF32 (lit : Option Nat) (w : Nat) : Except Reject Instr :=
  (dstAt w 14).bind fun d =>
  (srcAt lit w 7).bind fun a =>
  (srcAt lit w 0).bind fun b =>
  .ok (.fmulF32 (predAt w 21) d a b)

/-- The words of FMA_F32 (R193). -/
def decFmaF32 (lit : Option Nat) (w : Nat) : Except Reject Instr :=
  (dstAt w 14).bind fun d =>
  (srcAt lit w 7).bind fun a =>
  (srcAt lit w 0).bind fun b =>
  .ok (.fmaF32 (predAt w 21) d a b)

/-- The words of FMIN_F32 (R194). -/
def decFminF32 (lit : Option Nat) (w : Nat) : Except Reject Instr :=
  (dstAt w 14).bind fun d =>
  (srcAt lit w 7).bind fun a =>
  (srcAt lit w 0).bind fun b =>
  .ok (.fminF32 (predAt w 21) d a b)

/-- The words of FMAX_F32 (R194). -/
def decFmaxF32 (lit : Option Nat) (w : Nat) : Except Reject Instr :=
  (dstAt w 14).bind fun d =>
  (srcAt lit w 7).bind fun a =>
  (srcAt lit w 0).bind fun b =>
  .ok (.fmaxF32 (predAt w 21) d a b)

/-- The words of FADD_H2 (R193). -/
def decFaddH2 (lit : Option Nat) (w : Nat) : Except Reject Instr :=
  (dstAt w 14).bind fun d =>
  (srcAt lit w 7).bind fun a =>
  (srcAt lit w 0).bind fun b =>
  .ok (.faddH2 (predAt w 21) d a b)

/-- The words of FMUL_H2 (R193). -/
def decFmulH2 (lit : Option Nat) (w : Nat) : Except Reject Instr :=
  (dstAt w 14).bind fun d =>
  (srcAt lit w 7).bind fun a =>
  (srcAt lit w 0).bind fun b =>
  .ok (.fmulH2 (predAt w 21) d a b)

/-- The words of FMA_H2 (R193). -/
def decFmaH2 (lit : Option Nat) (w : Nat) : Except Reject Instr :=
  (dstAt w 14).bind fun d =>
  (srcAt lit w 7).bind fun a =>
  (srcAt lit w 0).bind fun b =>
  .ok (.fmaH2 (predAt w 21) d a b)

/-- The words of FADD_B2 (R193). -/
def decFaddB2 (lit : Option Nat) (w : Nat) : Except Reject Instr :=
  (dstAt w 14).bind fun d =>
  (srcAt lit w 7).bind fun a =>
  (srcAt lit w 0).bind fun b =>
  .ok (.faddB2 (predAt w 21) d a b)

/-- The words of FMUL_B2 (R193). -/
def decFmulB2 (lit : Option Nat) (w : Nat) : Except Reject Instr :=
  (dstAt w 14).bind fun d =>
  (srcAt lit w 7).bind fun a =>
  (srcAt lit w 0).bind fun b =>
  .ok (.fmulB2 (predAt w 21) d a b)

/-- The words of FMA_B2 (R193). -/
def decFmaB2 (lit : Option Nat) (w : Nat) : Except Reject Instr :=
  (dstAt w 14).bind fun d =>
  (srcAt lit w 7).bind fun a =>
  (srcAt lit w 0).bind fun b =>
  .ok (.fmaB2 (predAt w 21) d a b)

/-- The words of ICMP (R195). -/
def decIcmp (lit : Option Nat) (w : Nat) : Except Reject Instr :=
  (ICond.ofCode (fld w 17 3)).bind fun c =>
  (srcAt lit w 7).bind fun a =>
  (srcAt lit w 0).bind fun b =>
  .ok (.icmp (predAt w 21) (bitOf w 20) c (predAt w 14) a b)

/-- The words of FCMP (R196). -/
def decFcmp (lit : Option Nat) (w : Nat) : Except Reject Instr :=
  (FCond.ofCode (fld w 17 4)).bind fun c =>
  (srcAt lit w 7).bind fun a =>
  (srcAt lit w 0).bind fun b =>
  .ok (.fcmp (predAt w 21) c (predAt w 14) a b)

/-- The words of PLOP (R197). -/
def decPlop (w : Nat) : Except Reject Instr :=
  zeros (clearFields w [(4, 3), (13, 1), (17, 4)]) <|
  .ok (.plop (predAt w 21) (predAt w 14) (predAt w 7) (predAt w 10) (bvAt 4 w 0))

/-- The words of FCLASS (R198). -/
def decFclass (lit : Option Nat) (w : Nat) : Except Reject Instr :=
  zeros (clearFields w [(1, 6)]) <|
  (dstAt w 14).bind fun d =>
  (srcAt lit w 7).bind fun a =>
  .ok (.fclass (predAt w 21) d a (bitOf w 0))

/-- The words of DADD (R193). -/
def decDadd (lit : Option Nat) (w : Nat) : Except Reject Instr :=
  (dstAt w 14).bind fun d =>
  (srcAt lit w 7).bind fun a =>
  (srcAt lit w 0).bind fun b =>
  .ok (.dadd (predAt w 21) d a b)

/-- The words of DMUL (R193). -/
def decDmul (lit : Option Nat) (w : Nat) : Except Reject Instr :=
  (dstAt w 14).bind fun d =>
  (srcAt lit w 7).bind fun a =>
  (srcAt lit w 0).bind fun b =>
  .ok (.dmul (predAt w 21) d a b)

/-- The words of DFMA (R193). -/
def decDfma (lit : Option Nat) (w : Nat) : Except Reject Instr :=
  (dstAt w 14).bind fun d =>
  (srcAt lit w 7).bind fun a =>
  (srcAt lit w 0).bind fun b =>
  .ok (.dfma (predAt w 21) d a b)

/-- The words of DCMP (R196). -/
def decDcmp (lit : Option Nat) (w : Nat) : Except Reject Instr :=
  (FCond.ofCode (fld w 17 4)).bind fun c =>
  (srcAt lit w 7).bind fun a =>
  (srcAt lit w 0).bind fun b =>
  .ok (.dcmp (predAt w 21) c (predAt w 14) a b)

/-- The words of FOP (R199). -/
def decFop (w x : Nat) : Except Reject Instr :=
  zeros (clearFields x [(0, 10), (29, 3)]) <|
  (dstAt w 14).bind fun d =>
  (srcAt none w 7).bind fun a =>
  (srcAt none w 0).bind fun b =>
  (FopFn.ofCode (fld x 24 4)).bind fun fn =>
  (Ty.ofCode (fld x 20 4)).bind fun ty =>
  (Rnd.ofCode (fld x 17 3)).bind fun rnd =>
  (srcAt none x 10).bind fun e =>
  .ok (.fop (predAt w 21) d a b (bitOf x 28) fn ty rnd e)

/-- The words of FRND (R200). -/
def decFrnd (lit : Option Nat) (w : Nat) : Except Reject Instr :=
  zeros (clearFields w [(6, 1)]) <|
  (dstAt w 14).bind fun d =>
  (srcAt lit w 7).bind fun a =>
  (FrndTy.ofCode (fld w 3 2)).bind fun ty =>
  (Rnd.ofCode (fld w 0 3)).bind fun rnd =>
  .ok (.frnd (predAt w 21) d a (bitOf w 5) ty rnd)

/-- The words of FSF (R201). -/
def decFsf (lit : Option Nat) (w : Nat) : Except Reject Instr :=
  zeros (clearFields w [(4, 3)]) <|
  (dstAt w 14).bind fun d =>
  (srcAt lit w 7).bind fun a =>
  (SfFn.ofCode (fld w 0 4)).bind fun fn =>
  .ok (.fsf (predAt w 21) d a fn)

/-- The words of CONV (R202). -/
def decConv (w x : Nat) : Except Reject Instr :=
  zeros (clearFields w [(0, 7)] && clearFields x [(0, 17), (28, 4)]) <|
  (dstAt w 14).bind fun d =>
  (srcAt none w 7).bind fun a =>
  (Ty.ofCode (fld x 24 4)).bind fun ts =>
  (Ty.ofCode (fld x 20 4)).bind fun tt =>
  (Rnd.ofCode (fld x 17 3)).bind fun rnd =>
  .ok (.conv (predAt w 21) d a ts tt rnd)

/-- The words of CONVB (R204). -/
def decConvb (w x : Nat) : Except Reject Instr :=
  zeros (clearFields w [(0, 7)] && clearFields x [(7, 3), (20, 2), (28, 4)]) <|
  (dstAt w 14).bind fun d =>
  (srcAt none w 7).bind fun a =>
  (Ty.ofCode (fld x 24 4)).bind fun tt =>
  (BlkLen.ofCode (fld x 22 2)).bind fun len =>
  (Rnd.ofCode (fld x 17 3)).bind fun rnd =>
  (dstAt x 10).bind fun e =>
  .ok (.convb (predAt w 21) d a tt len rnd e (bvAt 7 x 0))

/-- The words of CONVX (R203). -/
def decConvx (lit : Option Nat) (w : Nat) : Except Reject Instr :=
  (dstAt w 14).bind fun d =>
  (srcAt lit w 7).bind fun a =>
  (Ty.ofCode (fld w 0 4)).bind fun ty =>
  .ok (.convx (predAt w 21) d a (bitOf w 6) (bvAt 2 w 4) ty)

/-- The words of SCALEB (R204). -/
def decScaleb (w x : Nat) : Except Reject Instr :=
  zeros (clearFields w [(0, 7)] && clearFields x [(7, 3), (21, 1), (28, 4)]) <|
  (dstAt w 14).bind fun d =>
  (srcAt none w 7).bind fun a =>
  (Ty.ofCode (fld x 24 4)).bind fun tt =>
  (BlkLen.ofCode (fld x 22 2)).bind fun len =>
  (Rnd.ofCode (fld x 17 3)).bind fun rnd =>
  (dstAt x 10).bind fun e =>
  .ok (.scaleb (predAt w 21) d a tt len (bitOf x 20) rnd e (bvAt 7 x 0))

/-- The words of IDOT4 (R205). -/
def decIdot4 (lit : Option Nat) (w : Nat) : Except Reject Instr :=
  (dstAt w 14).bind fun d =>
  (srcAt lit w 7).bind fun a =>
  (srcAt lit w 0).bind fun b =>
  .ok (.idot4 (predAt w 21) d a b)

/-- The words of FDOT2 (R205). -/
def decFdot2 (lit : Option Nat) (w : Nat) : Except Reject Instr :=
  (dstAt w 14).bind fun d =>
  (srcAt lit w 7).bind fun a =>
  (srcAt lit w 0).bind fun b =>
  .ok (.fdot2 (predAt w 21) d a b)

/-- The words of NMAW (R190). -/
def decNmaw (lit : Option Nat) (w : Nat) : Except Reject Instr :=
  (dstAt w 14).bind fun d =>
  (srcAt lit w 7).bind fun a =>
  (srcAt lit w 0).bind fun b =>
  .ok (.nmaw (predAt w 21) d a b)

/-- The words of MOV (R206). -/
def decMov (lit : Option Nat) (w : Nat) : Except Reject Instr :=
  zeros (clearFields w [(1, 6)]) <|
  (dstAt w 14).bind fun d =>
  (srcAt lit w 7).bind fun a =>
  .ok (.mov (predAt w 21) d a (bitOf w 0))

/-- The words of MOVI (R206). -/
def decMovi (w : Nat) : Except Reject Instr :=
  (dstAt w 14).bind fun d =>
  .ok (.movi (predAt w 21) d (bvAt 14 w 0))

/-- The words of MOVHI (R206). -/
def decMovhi (w : Nat) : Except Reject Instr :=
  (dstAt w 14).bind fun d =>
  .ok (.movhi (predAt w 21) d (bvAt 14 w 0))

/-- The words of MOVK (R206). -/
def decMovk (w : Nat) : Except Reject Instr :=
  zeros (clearFields w [(6, 8)]) <|
  (dstAt w 14).bind fun d =>
  .ok (.movk (predAt w 21) d (bitOf w 5) (bvAt 5 w 0))

/-- The words of SRD (R207). -/
def decSrd (w : Nat) : Except Reject Instr :=
  zeros (clearFields w [(6, 8)]) <|
  (dstAt w 14).bind fun d =>
  (Spr.ofCode (fld w 0 5)).bind fun idx =>
  .ok (.srd (predAt w 21) d (bitOf w 5) idx)

/-- The words of SWZ (R209). -/
def decSwz (w x : Nat) : Except Reject Instr :=
  zeros (clearFields x [(5, 19), (28, 4)]) <|
  (dstAt w 14).bind fun d =>
  (srcAt none w 7).bind fun a =>
  (srcAt none w 0).bind fun b =>
  (SwzMode.ofCode (fld x 24 4)).bind fun mode =>
  .ok (.swz (predAt w 21) d a b mode (bvAt 5 x 0))

/-- The words of VOTE (R210). -/
def decVote (w : Nat) : Except Reject Instr :=
  zeros (clearFields w [(2, 5), (10, 4)]) <|
  (dstAt w 14).bind fun d =>
  (VoteOp.ofCode (fld w 0 2)).bind fun op =>
  .ok (.vote (predAt w 21) d (predAt w 7) op)

/-- The words of LRED (R211). -/
def decLred (w x : Nat) : Except Reject Instr :=
  zeros (clearFields w [(0, 7)] && clearFields x [(0, 17), (28, 4)]) <|
  (dstAt w 14).bind fun d =>
  (srcAt none w 7).bind fun a =>
  (Ty.ofCode (fld x 24 4)).bind fun ty =>
  (RedOp.ofCode (fld x 20 4)).bind fun op =>
  (Rnd.ofCode (fld x 17 3)).bind fun rnd =>
  .ok (.lred (predAt w 21) d a ty op rnd)

/-- The words of LSCAN (R211). -/
def decLscan (w x : Nat) : Except Reject Instr :=
  zeros (clearFields w [(0, 7)] && clearFields x [(0, 17), (29, 3)]) <|
  (dstAt w 14).bind fun d =>
  (srcAt none w 7).bind fun a =>
  (Ty.ofCode (fld x 24 4)).bind fun ty =>
  (RedOp.ofCode (fld x 20 4)).bind fun op =>
  (Rnd.ofCode (fld x 17 3)).bind fun rnd =>
  .ok (.lscan (predAt w 21) d a (bitOf x 28) ty op rnd)

/-- The words of TRSP (R212). -/
def decTrsp (lit : Option Nat) (w : Nat) : Except Reject Instr :=
  zeros (clearFields w [(2, 5)]) <|
  (dstAt w 14).bind fun d =>
  (srcAt lit w 7).bind fun a =>
  (TrspSize.ofCode (fld w 0 2)).bind fun sz =>
  .ok (.trsp (predAt w 21) d a sz)

/-- The words of PART (R213). -/
def decPart (w : Nat) : Except Reject Instr :=
  zeros (clearFields w [(3, 18)]) <|
  (finAt 6 w 0 3).bind fun n =>
  .ok (.part (predAt w 21) n)

/-- The words of REP (R214). -/
def decRep (w : Nat) : Except Reject Instr :=
  zeros (clearFields w [(11, 10)] && fld w 21 3 == 7) <|
  .ok (.rep (bvAt 2 w 9) (bvAt 2 w 7) (bvAt 2 w 5) (bvAt 5 w 0))

/-- The words of DERX (R216). -/
def decDerx (lit : Option Nat) (w : Nat) : Except Reject Instr :=
  zeros (clearFields w [(1, 6)]) <|
  (dstAt w 14).bind fun d =>
  (srcAt lit w 7).bind fun a =>
  .ok (.derx (predAt w 21) d a (bitOf w 0))

/-- The words of DERY (R216). -/
def decDery (lit : Option Nat) (w : Nat) : Except Reject Instr :=
  zeros (clearFields w [(1, 6)]) <|
  (dstAt w 14).bind fun d =>
  (srcAt lit w 7).bind fun a =>
  .ok (.dery (predAt w 21) d a (bitOf w 0))

/-- The words of QPUT (R217). -/
def decQput (lit : Option Nat) (w : Nat) : Except Reject Instr :=
  zeros (clearFields w [(4, 3), (14, 7)]) <|
  (srcAt lit w 7).bind fun a =>
  .ok (.qput (predAt w 21) a (bvAt 4 w 0))

/-- The words of QGET (R217). -/
def decQget (w : Nat) : Except Reject Instr :=
  zeros (clearFields w [(4, 10)]) <|
  (dstAt w 14).bind fun d =>
  .ok (.qget (predAt w 21) d (bvAt 4 w 0))

/-- The words of JMP (R227). -/
def decJmp (w : Nat) : Except Reject Instr :=
  .ok (.jmp (predAt w 21) (bvAt 21 w 0))

/-- The words of JMPX (R227). -/
def decJmpx (lit : Option Nat) (w : Nat) : Except Reject Instr :=
  zeros (clearFields w [(1, 6), (14, 7)]) <|
  (srcAt lit w 7).bind fun a =>
  .ok (.jmpx (predAt w 21) a (bitOf w 0))

/-- The words of CALL (R227). -/
def decCall (w : Nat) : Except Reject Instr :=
  .ok (.call (predAt w 21) (bvAt 21 w 0))

/-- The words of RET (R227). -/
def decRet (w : Nat) : Except Reject Instr :=
  zeros (clearFields w [(0, 21)]) <|
  .ok (.ret (predAt w 21))

/-- The words of EXIT (R228). -/
def decExit (w : Nat) : Except Reject Instr :=
  zeros (clearFields w [(0, 21)]) <|
  .ok (.exit (predAt w 21))

/-- The words of SPAWN (R229). -/
def decSpawn (w x : Nat) : Except Reject Instr :=
  zeros (clearFields w [(0, 7), (14, 7)] && clearFields x [(1, 4)]) <|
  (targetAt x w 7).bind fun tgt =>
  (finAt 120 x 10 7).bind fun vs =>
  (finAt 17 x 5 5).bind fun n =>
  .ok (.spawn (predAt w 21) tgt vs n)

/-- The words of CONT (R229). -/
def decCont (w x : Nat) : Except Reject Instr :=
  zeros (clearFields w [(0, 7), (14, 7)] && clearFields x [(1, 4), (10, 7)]) <|
  (targetAt x w 7).bind fun tgt =>
  (finAt 17 x 5 5).bind fun n =>
  .ok (.cont (predAt w 21) tgt n)

/-- The words of REORDER (R230). -/
def decReorder (w x : Nat) : Except Reject Instr :=
  zeros (clearFields w [(0, 7), (14, 7)] && clearFields x [(7, 25)]) <|
  (srcAt none w 7).bind fun a =>
  (finAt 121 x 0 7).bind fun n =>
  .ok (.reorder (predAt w 21) a n)

/-- The words of YIELD (R231). -/
def decYield (w : Nat) : Except Reject Instr :=
  zeros (clearFields w [(6, 15)]) <|
  .ok (.yield (predAt w 21) (bvAt 6 w 0))

/-- The words of BAR (R232). -/
def decBar (w : Nat) : Except Reject Instr :=
  zeros (clearFields w [(5, 16)]) <|
  .ok (.bar (predAt w 21) (bitOf w 4) (bvAt 4 w 0))

/-- The words of GBAR (R233). -/
def decGbar (w : Nat) : Except Reject Instr :=
  zeros (clearFields w [(8, 13)]) <|
  .ok (.gbar (predAt w 21) (bvAt 8 w 0))

/-- The words of WAIT (R234). -/
def decWait (w : Nat) : Except Reject Instr :=
  zeros (clearFields w [(12, 9)]) <|
  .ok (.wait (predAt w 21) (bvAt 3 w 9) (bvAt 3 w 6) (bvAt 3 w 3) (bvAt 3 w 0))

/-- The words of TRAP (R226). -/
def decTrap (w : Nat) : Except Reject Instr :=
  zeros (clearFields w [(14, 7)]) <|
  .ok (.trap (predAt w 21) (bvAt 14 w 0))

/-- The words of RETT (R225). -/
def decRett (w : Nat) : Except Reject Instr :=
  zeros (clearFields w [(0, 21)]) <|
  .ok (.rett (predAt w 21))

/-- The words of BREAK (R226). -/
def decBrk (w : Nat) : Except Reject Instr :=
  zeros (clearFields w [(14, 7)]) <|
  .ok (.brk (predAt w 21) (bvAt 14 w 0))

/-- The words of TIME (R235). -/
def decTime (w : Nat) : Except Reject Instr :=
  zeros (clearFields w [(0, 14)]) <|
  (dstAt w 14).bind fun d =>
  .ok (.time (predAt w 21) d)

/-- The words of LD (R236). -/
def decLd (lit : Option Nat) (w : Nat) : Except Reject Instr :=
  (dstAt w 14).bind fun d =>
  (srcAt lit w 7).bind fun a =>
  (Scope.ofCode (fld w 3 3)).bind fun sc =>
  (Size.ofCode (fld w 0 3)).bind fun sz =>
  .ok (.ld (predAt w 21) d a (bitOf w 6) sc sz)

/-- The words of ST (R236). -/
def decSt (lit : Option Nat) (w : Nat) : Except Reject Instr :=
  (srcAt lit w 14).bind fun v =>
  (srcAt lit w 7).bind fun a =>
  (Scope.ofCode (fld w 3 3)).bind fun sc =>
  (Size.ofCode (fld w 0 3)).bind fun sz =>
  .ok (.st (predAt w 21) v a (bitOf w 6) sc sz)

/-- The words of LSP (R238). -/
def decLsp (lit : Option Nat) (w : Nat) : Except Reject Instr :=
  zeros (clearFields w [(3, 4)]) <|
  (dstAt w 14).bind fun d =>
  (srcAt lit w 7).bind fun a =>
  (Size.ofCode (fld w 0 3)).bind fun sz =>
  .ok (.lsp (predAt w 21) d a sz)

/-- The words of SSP (R238). -/
def decSsp (lit : Option Nat) (w : Nat) : Except Reject Instr :=
  zeros (clearFields w [(3, 4)]) <|
  (srcAt lit w 14).bind fun v =>
  (srcAt lit w 7).bind fun a =>
  (Size.ofCode (fld w 0 3)).bind fun sz =>
  .ok (.ssp (predAt w 21) v a sz)

/-- The words of LDLOD (R239). -/
def decLdlod (w x : Nat) : Except Reject Instr :=
  zeros (clearFields x [(0, 4), (7, 3), (17, 10)]) <|
  (dstAt w 14).bind fun d =>
  (srcAt none w 7).bind fun a =>
  (srcAt none w 0).bind fun b =>
  (dstAt x 10).bind fun e =>
  (finAt 5 x 4 3).bind fun sz =>
  .ok (.ldlod (predAt w 21) d a b (bvAt 4 x 28) (bitOf x 27) e sz)

/-- The words of SAMPLE (R240). -/
def decSample (w x : Nat) : Except Reject Instr :=
  zeros (clearFields x [(0, 10), (17, 12)]) <|
  (dstAt w 14).bind fun d =>
  (srcAt none w 7).bind fun a =>
  (srcAt none w 0).bind fun b =>
  (SampleFmt.ofCode (fld x 30 2)).bind fun fmt =>
  (srcAt none x 10).bind fun e =>
  .ok (.sample (predAt w 21) d a b fmt (bitOf x 29) e)

/-- The words of ATM (R241). -/
def decAtm (w x : Nat) : Except Reject Instr :=
  zeros (clearFields x [(0, 10), (17, 2)]) <|
  (dstAt w 14).bind fun d =>
  (srcAt none w 7).bind fun a =>
  (srcAt none w 0).bind fun b =>
  (AtomOp.ofCode (fld x 28 4)).bind fun op =>
  (Ty.ofCode (fld x 24 4)).bind fun ty =>
  (Scope.ofCode (fld x 21 3)).bind fun sc =>
  (Order.ofCode (fld x 19 2)).bind fun ord =>
  (srcAt none x 10).bind fun e =>
  .ok (.atm (predAt w 21) d a b op ty sc ord e)

/-- The words of ATMS (R241). -/
def decAtms (w x : Nat) : Except Reject Instr :=
  zeros (clearFields x [(0, 10), (17, 7)]) <|
  (dstAt w 14).bind fun d =>
  (srcAt none w 7).bind fun a =>
  (srcAt none w 0).bind fun b =>
  (AtomOp.ofCode (fld x 28 4)).bind fun op =>
  (Ty.ofCode (fld x 24 4)).bind fun ty =>
  (srcAt none x 10).bind fun e =>
  .ok (.atms (predAt w 21) d a b op ty e)

/-- The words of RDM (R242). -/
def decRdm (w x : Nat) : Except Reject Instr :=
  zeros (clearFields w [(14, 7)] && clearFields x [(0, 20)]) <|
  (srcAt none w 7).bind fun a =>
  (srcAt none w 0).bind fun b =>
  (RedOp.ofCode (fld x 28 4)).bind fun op =>
  (Ty.ofCode (fld x 24 4)).bind fun ty =>
  (Scope.ofCode (fld x 21 3)).bind fun sc =>
  .ok (.rdm (predAt w 21) a b op ty sc (bitOf x 20))

/-- The words of VBMIN (R243). -/
def decVbmin (lit : Option Nat) (w : Nat) : Except Reject Instr :=
  zeros (clearFields w [(14, 7)]) <|
  (srcAt lit w 7).bind fun a =>
  (srcAt lit w 0).bind fun b =>
  .ok (.vbmin (predAt w 21) a b)

/-- The words of PREF (R244). -/
def decPref (lit : Option Nat) (w : Nat) : Except Reject Instr :=
  zeros (clearFields w [(1, 6), (14, 7)]) <|
  (srcAt lit w 7).bind fun a =>
  .ok (.pref (predAt w 21) a (bitOf w 0))

/-- The words of FENCE (R245). -/
def decFence (w : Nat) : Except Reject Instr :=
  zeros (clearFields w [(5, 16)]) <|
  (FenceKind.ofCode (fld w 3 2)).bind fun k =>
  (Scope.ofCode (fld w 0 3)).bind fun sc =>
  .ok (.fence (predAt w 21) k sc)

/-- The words of MONWAIT (R246). -/
def decMonwait (lit : Option Nat) (w : Nat) : Except Reject Instr :=
  zeros (clearFields w [(3, 4)]) <|
  (srcAt lit w 14).bind fun v =>
  (srcAt lit w 7).bind fun a =>
  (Scope.ofCode (fld w 0 3)).bind fun sc =>
  .ok (.monwait (predAt w 21) v a sc)

/-- The words of TXBEGIN (R247). -/
def decTxbegin (w : Nat) : Except Reject Instr :=
  .ok (.txbegin (predAt w 21) (bvAt 21 w 0))

/-- The words of TXEND (R250). -/
def decTxend (w : Nat) : Except Reject Instr :=
  zeros (clearFields w [(0, 21)]) <|
  .ok (.txend (predAt w 21))

/-- The words of TXCTL_ABORT (R251). -/
def decTxctlAbort (w : Nat) : Except Reject Instr :=
  zeros (clearFields w [(1, 20)] && fld w 0 1 == 0) <|
  .ok (.txctlAbort (predAt w 21))

/-- The words of TXCTL_TEST (R251). -/
def decTxctlTest (w : Nat) : Except Reject Instr :=
  zeros (clearFields w [(1, 13)] && fld w 0 1 == 1) <|
  (dstAt w 14).bind fun d =>
  .ok (.txctlTest (predAt w 21) d)

/-- The words of QBIND (R253). -/
def decQbind (lit : Option Nat) (w : Nat) : Except Reject Instr :=
  zeros (clearFields w [(4, 3), (18, 3)]) <|
  (Port.ofCode (fld w 14 4)).bind fun port =>
  (srcAt lit w 7).bind fun a =>
  .ok (.qbind (predAt w 21) port a (bvAt 4 w 0))

/-- The words of CPLWAIT (R269). -/
def decCplwait (lit : Option Nat) (w : Nat) : Except Reject Instr :=
  zeros (clearFields w [(4, 3)]) <|
  (srcAt lit w 14).bind fun v =>
  (srcAt lit w 7).bind fun a =>
  (Scope.ofCode (fld w 0 3)).bind fun sc =>
  .ok (.cplwait (predAt w 21) v a (bitOf w 3) sc)

/-- The words of CPLTEST (R270). -/
def decCpltest (lit : Option Nat) (w : Nat) : Except Reject Instr :=
  zeros (clearFields w [(3, 4)]) <|
  (dstAt w 14).bind fun d =>
  (srcAt lit w 7).bind fun a =>
  (Scope.ofCode (fld w 0 3)).bind fun sc =>
  .ok (.cpltest (predAt w 21) d a sc)

/-- The words of HOIST (R271). -/
def decHoist (w x : Nat) : Except Reject Instr :=
  zeros (clearFields w [(18, 3)] && clearFields x [(1, 2)] && fld x 3 1 == 0) <|
  (finAt 120 w 7 7).bind fun vs =>
  (srcAt none w 0).bind fun b =>
  (targetAt x x 10).bind fun tgt =>
  (finAt 17 x 5 5).bind fun n =>
  .ok (.hoist (predAt w 21) (bvAt 4 w 14) vs b tgt n (bitOf x 4))

/-- The words of HOIST_CLOSE (R273). -/
def decHoistClose (w x : Nat) : Except Reject Instr :=
  zeros (clearFields w [(0, 14), (18, 3)] && clearFields x [(0, 3), (4, 28)] && fld x 3 1 == 1) <|
  .ok (.hoistClose (predAt w 21) (bvAt 4 w 14))

/-- The words of BIN_FLUSH (R285). -/
def decBinFlush (w x : Nat) : Except Reject Instr :=
  zeros (clearFields w [(0, 7), (14, 7)] && clearFields x [(2, 15)] && fld x 1 1 == 0) <|
  (targetAt x w 7).bind fun tgt =>
  .ok (.binFlush (predAt w 21) tgt)

/-- The words of BIN_COUNT (R285). -/
def decBinCount (w x : Nat) : Except Reject Instr :=
  zeros (clearFields w [(0, 7)] && clearFields x [(2, 15)] && fld x 1 1 == 1) <|
  (dstAt w 14).bind fun d =>
  (targetAt x w 7).bind fun tgt =>
  .ok (.binCount (predAt w 21) d tgt)

/-- The words of RBOX (R289). -/
def decRbox (w x : Nat) : Except Reject Instr :=
  zeros (clearFields x [(0, 32)]) <|
  (dstAt w 14).bind fun d =>
  (srcAt none w 7).bind fun a =>
  (srcAt none w 0).bind fun b =>
  .ok (.rbox (predAt w 21) d a b)

/-- The words of RTRI (R290). -/
def decRtri (w x : Nat) : Except Reject Instr :=
  zeros (clearFields x [(2, 30)]) <|
  (dstAt w 14).bind fun d =>
  (srcAt none w 7).bind fun a =>
  (srcAt none w 0).bind fun b =>
  (Cull.ofCode (fld x 0 2)).bind fun cull =>
  .ok (.rtri (predAt w 21) d a b cull)

/-- The words of RSTK_PUSH (R292). -/
def decRstkPush (lit : Option Nat) (w : Nat) : Except Reject Instr :=
  zeros (clearFields w [(2, 5), (14, 7)] && fld w 0 2 == 0) <|
  (srcAt lit w 7).bind fun a =>
  .ok (.rstkPush (predAt w 21) a)

/-- The words of RSTK_POP (R292). -/
def decRstkPop (w : Nat) : Except Reject Instr :=
  zeros (clearFields w [(2, 12)] && fld w 0 2 == 1) <|
  (dstAt w 14).bind fun d =>
  .ok (.rstkPop (predAt w 21) d)

/-- The words of RSTK_DEPTH (R292). -/
def decRstkDepth (w : Nat) : Except Reject Instr :=
  zeros (clearFields w [(2, 12)] && fld w 0 2 == 2) <|
  (dstAt w 14).bind fun d =>
  .ok (.rstkDepth (predAt w 21) d)

/-- The words of RSTK_CLEAR (R292). -/
def decRstkClear (w : Nat) : Except Reject Instr :=
  zeros (clearFields w [(2, 19)] && fld w 0 2 == 3) <|
  .ok (.rstkClear (predAt w 21))

/-- The words of RESV (R297). -/
def decResv (w x : Nat) : Except Reject Instr :=
  zeros (clearFields x [(7, 17)]) <|
  (dstAt w 14).bind fun d =>
  (srcAt none w 7).bind fun a =>
  (srcAt none w 0).bind fun b =>
  (ResFmt.ofCode (fld x 28 4)).bind fun fmt =>
  (BlkLen.ofCode (fld x 26 2)).bind fun bl =>
  .ok (.resv (predAt w 21) d a b fmt bl (bitOf x 25) (bitOf x 24) (bvAt 7 x 0))

/-- The words of RFREE (R298). -/
def decRfree (lit : Option Nat) (w : Nat) : Except Reject Instr :=
  zeros (clearFields w [(0, 7), (14, 7)]) <|
  (srcAt lit w 7).bind fun a =>
  .ok (.rfree (predAt w 21) a)

/-- The words of ACCRD (R326). -/
def decAccrd (w x : Nat) : Except Reject Instr :=
  zeros (clearFields w [(0, 14)] && clearFields x [(0, 2), (10, 7), (20, 4)]) <|
  (dstAt w 14).bind fun d =>
  (AccSel.ofCode (fld x 28 4)).bind fun what =>
  (Rnd.ofCode (fld x 17 3)).bind fun rnd =>
  .ok (.accrd (predAt w 21) d what (bvAt 4 x 24) rnd (bvAt 3 x 7) (bvAt 4 x 3) (bitOf x 2))

/-- The words of SEQ (R310). -/
def decSeq (w x : Nat) : Except Reject Instr :=
  zeros (clearFields w [(14, 7)] && clearFields x [(0, 10), (17, 15)]) <|
  (srcAt none w 7).bind fun a =>
  (srcAt none w 0).bind fun b =>
  (srcAt none x 10).bind fun e =>
  .ok (.seq (predAt w 21) a b e)

/-- The words of SYSRD (R293). -/
def decSysrd (w : Nat) : Except Reject Instr :=
  (dstAt w 14).bind fun d =>
  .ok (.sysrd (predAt w 21) d (bvAt 14 w 0))

/-- The words of SYSWR (R293). -/
def decSyswr (lit : Option Nat) (w : Nat) : Except Reject Instr :=
  (srcAt lit w 14).bind fun v =>
  .ok (.syswr (predAt w 21) v (bvAt 14 w 0))

/-- The words of MNOP (R317). -/
def decMnop (w : Nat) : Except Reject Instr :=
  zeros (clearFields w [(0, 24), (31, 1)]) <|
  .ok (.mnop)

/-- The words of MZERO (R318). -/
def decMzero (w : Nat) : Except Reject Instr :=
  zeros (clearFields w [(5, 19), (31, 1)]) <|
  (TileMode.ofCode (fld w 3 2)).bind fun mode =>
  .ok (.mzero mode (bvAt 3 w 0))

/-- The words of MMAC (R319). -/
def decMmac (w x : Nat) : Except Reject Instr :=
  zeros (clearFields w [(23, 1), (31, 1)]) <|
  .ok (.mmac (bitOf w 22) (bitOf w 21) (bitOf w 20) (bitOf w 19) (bvAt 6 w 13) (bvAt 6 w 7) (bvAt 4 w 3) (bvAt 3 w 0) (bvAt 11 x 21) (bvAt 11 x 10) (bvAt 10 x 0))

/-- The words of MBIN (R319). -/
def decMbin (w x : Nat) : Except Reject Instr :=
  zeros (clearFields w [(31, 1)]) <|
  .ok (.mbin (bitOf w 23) (bitOf w 22) (bitOf w 21) (bitOf w 20) (bitOf w 19) (bvAt 6 w 13) (bvAt 6 w 7) (bvAt 4 w 3) (bvAt 3 w 0) (bvAt 11 x 21) (bvAt 11 x 10) (bvAt 10 x 0))

/-- The words of MRENORM (R320). -/
def decMrenorm (w : Nat) : Except Reject Instr :=
  zeros (clearFields w [(15, 9), (31, 1)]) <|
  .ok (.mrenorm (bvAt 6 w 9) (bitOf w 8) (bitOf w 7) (bvAt 4 w 3) (bvAt 3 w 0))

/-- The words of MEXPORT (R321). -/
def decMexport (w x : Nat) : Except Reject Instr :=
  zeros (clearFields w [(10, 14), (31, 1)] && clearFields x [(0, 8)]) <|
  .ok (.mexport (bitOf w 9) (bvAt 6 w 3) (bvAt 3 w 0) (bvAt 12 x 20) (bvAt 12 x 8))

/-- The words of MWAIT (R312). -/
def decMwait (w : Nat) : Except Reject Instr :=
  zeros (clearFields w [(4, 20), (31, 1)]) <|
  .ok (.mwait (bvAt 4 w 0))

/-- The words of MSIG (R312). -/
def decMsig (w : Nat) : Except Reject Instr :=
  zeros (clearFields w [(4, 20), (31, 1)]) <|
  .ok (.msig (bvAt 4 w 0))

/-- The words of MLOOP (R322). -/
def decMloop (w : Nat) : Except Reject Instr :=
  zeros (clearFields w [(23, 1), (31, 1)]) <|
  .ok (.mloop (bvAt 10 w 13) (bitOf w 12) (bvAt 12 w 0))

/-- The words of MEND (R322). -/
def decMend (w : Nat) : Except Reject Instr :=
  zeros (clearFields w [(0, 24), (31, 1)]) <|
  .ok (.mend)

/-- The words of MPHASE (R323). -/
def decMphase (w : Nat) : Except Reject Instr :=
  zeros (clearFields w [(13, 11), (31, 1)]) <|
  .ok (.mphase (bvAt 7 w 6) (bvAt 6 w 0))

/-- The words of MSTEP (R325). -/
def decMstep (w : Nat) : Except Reject Instr :=
  zeros (clearFields w [(16, 8), (31, 1)]) <|
  .ok (.mstep (bvAt 12 w 4) (bitOf w 3) (bvAt 3 w 0))

/-- The second word of a two-word instruction; slot 2 has none (R154). -/
def withExt (nxt : Option Nat) (k : Nat → Except Reject Instr) : Except Reject Instr :=
  match nxt with
  | some x => k x
  | none => .error .slot

/-- The literal's absence in slot 2 is a slot error; elsewhere the next word is the literal (R154). -/
def litErr (nxt : Option Nat) (r : Except Reject Instr) : Except Reject Instr :=
  match nxt, r with
  | none, .error .literal => .error .slot
  | _, r => r

/-- Row 0x0_ of the opcode map (R168), by the low digit. -/
def decodeRow0 (lowDigit w : Nat) (nxt : Option Nat) : Except Reject Instr :=
  match lowDigit with
  | 0 => decNop w
  | 1 => litErr nxt (decIadd nxt w)
  | 2 => litErr nxt (decIsub nxt w)
  | 3 => litErr nxt (decImul nxt w)
  | 4 => litErr nxt (decImulh nxt w)
  | 5 => litErr nxt (decNmulh nxt w)
  | 6 => litErr nxt (decIma nxt w)
  | 7 => litErr nxt (decImin nxt w)
  | 8 => litErr nxt (decImax nxt w)
  | 9 => litErr nxt (decNmin nxt w)
  | 10 => litErr nxt (decNmax nxt w)
  | 11 => litErr nxt (decIsad nxt w)
  | 12 => litErr nxt (decIadd64 nxt w)
  | 13 => litErr nxt (decIsub64 nxt w)
  | 14 => litErr nxt (decImul64 nxt w)
  | 15 => litErr nxt (decImaw nxt w)
  | _ => .error .opcode

/-- Row 0x1_ of the opcode map (R168), by the low digit. -/
def decodeRow1 (lowDigit w : Nat) (nxt : Option Nat) : Except Reject Instr :=
  match lowDigit with
  | 0 => litErr nxt (decAnd nxt w)
  | 1 => litErr nxt (decOr nxt w)
  | 2 => litErr nxt (decXor nxt w)
  | 3 => litErr nxt (decAndn nxt w)
  | 4 => withExt nxt fun x => decTern w x
  | 5 => litErr nxt (decShl nxt w)
  | 6 => litErr nxt (decShr nxt w)
  | 7 => litErr nxt (decSar nxt w)
  | 8 => withExt nxt fun x => decFsh w x
  | 9 => litErr nxt (decPcnt nxt w)
  | 10 => litErr nxt (decClz nxt w)
  | 11 => litErr nxt (decBrev nxt w)
  | 12 => withExt nxt fun x => decBfe w x
  | 13 => withExt nxt fun x => decBfi w x
  | 14 => litErr nxt (decSel nxt w)
  | 15 => withExt nxt fun x => decBperm w x
  | _ => .error .opcode

/-- Row 0x2_ of the opcode map (R168), by the low digit. -/
def decodeRow2 (lowDigit w : Nat) (nxt : Option Nat) : Except Reject Instr :=
  match lowDigit with
  | 0 => litErr nxt (decFaddF32 nxt w)
  | 1 => litErr nxt (decFsubF32 nxt w)
  | 2 => litErr nxt (decFmulF32 nxt w)
  | 3 => litErr nxt (decFmaF32 nxt w)
  | 4 => litErr nxt (decFminF32 nxt w)
  | 5 => litErr nxt (decFmaxF32 nxt w)
  | 6 => litErr nxt (decFaddH2 nxt w)
  | 7 => litErr nxt (decFmulH2 nxt w)
  | 8 => litErr nxt (decFmaH2 nxt w)
  | 9 => litErr nxt (decFaddB2 nxt w)
  | 10 => litErr nxt (decFmulB2 nxt w)
  | 11 => litErr nxt (decFmaB2 nxt w)
  | 12 => litErr nxt (decIcmp nxt w)
  | 13 => litErr nxt (decFcmp nxt w)
  | 14 => decPlop w
  | 15 => litErr nxt (decFclass nxt w)
  | _ => .error .opcode

/-- Row 0x3_ of the opcode map (R168), by the low digit. -/
def decodeRow3 (lowDigit w : Nat) (nxt : Option Nat) : Except Reject Instr :=
  match lowDigit with
  | 0 => litErr nxt (decDadd nxt w)
  | 1 => litErr nxt (decDmul nxt w)
  | 2 => litErr nxt (decDfma nxt w)
  | 3 => litErr nxt (decDcmp nxt w)
  | 4 => withExt nxt fun x => decFop w x
  | 5 => litErr nxt (decFrnd nxt w)
  | 6 => litErr nxt (decFsf nxt w)
  | 7 => withExt nxt fun x => decConv w x
  | 8 => withExt nxt fun x => decConvb w x
  | 9 => litErr nxt (decConvx nxt w)
  | 10 => withExt nxt fun x => decScaleb w x
  | 11 => litErr nxt (decIdot4 nxt w)
  | 12 => litErr nxt (decFdot2 nxt w)
  | 13 => litErr nxt (decNmaw nxt w)
  | _ => .error .opcode

/-- Row 0x4_ of the opcode map (R168), by the low digit. -/
def decodeRow4 (lowDigit w : Nat) (nxt : Option Nat) : Except Reject Instr :=
  match lowDigit with
  | 0 => litErr nxt (decMov nxt w)
  | 1 => decMovi w
  | 2 => decMovhi w
  | 3 => decMovk w
  | 4 => decSrd w
  | 5 => withExt nxt fun x => decSwz w x
  | 6 => decVote w
  | 7 => withExt nxt fun x => decLred w x
  | 8 => withExt nxt fun x => decLscan w x
  | 9 => litErr nxt (decTrsp nxt w)
  | 10 => decPart w
  | 11 => decRep w
  | 12 => litErr nxt (decDerx nxt w)
  | 13 => litErr nxt (decDery nxt w)
  | 14 => litErr nxt (decQput nxt w)
  | 15 => decQget w
  | _ => .error .opcode

/-- Row 0x5_ of the opcode map (R168), by the low digit. -/
def decodeRow5 (lowDigit w : Nat) (nxt : Option Nat) : Except Reject Instr :=
  match lowDigit with
  | 0 => decJmp w
  | 1 => litErr nxt (decJmpx nxt w)
  | 2 => decCall w
  | 3 => decRet w
  | 4 => decExit w
  | 5 => withExt nxt fun x => decSpawn w x
  | 6 => withExt nxt fun x => decCont w x
  | 7 => withExt nxt fun x => decReorder w x
  | 8 => decYield w
  | 9 => decBar w
  | 10 => decGbar w
  | 11 => decWait w
  | 12 => decTrap w
  | 13 => decRett w
  | 14 => decBrk w
  | 15 => decTime w
  | _ => .error .opcode

/-- Row 0x6_ of the opcode map (R168), by the low digit. -/
def decodeRow6 (lowDigit w : Nat) (nxt : Option Nat) : Except Reject Instr :=
  match lowDigit with
  | 0 => litErr nxt (decLd nxt w)
  | 1 => litErr nxt (decSt nxt w)
  | 2 => litErr nxt (decLsp nxt w)
  | 3 => litErr nxt (decSsp nxt w)
  | 4 => withExt nxt fun x => decLdlod w x
  | 5 => withExt nxt fun x => decSample w x
  | 6 => withExt nxt fun x => decAtm w x
  | 7 => withExt nxt fun x => decAtms w x
  | 8 => withExt nxt fun x => decRdm w x
  | 9 => litErr nxt (decVbmin nxt w)
  | 10 => litErr nxt (decPref nxt w)
  | 11 => decFence w
  | 12 => litErr nxt (decMonwait nxt w)
  | 13 => decTxbegin w
  | 14 => decTxend w
  | 15 => if fld w 0 1 = 0 then decTxctlAbort w else decTxctlTest w
  | _ => .error .opcode

/-- Row 0x7_ of the opcode map (R168), by the low digit. -/
def decodeRow7 (lowDigit w : Nat) (nxt : Option Nat) : Except Reject Instr :=
  match lowDigit with
  | 0 => litErr nxt (decQbind nxt w)
  | 1 => litErr nxt (decCplwait nxt w)
  | 2 => litErr nxt (decCpltest nxt w)
  | 3 => withExt nxt fun x => if fld x 3 1 = 0 then decHoist w x else decHoistClose w x
  | 4 => withExt nxt fun x => if fld x 1 1 = 0 then decBinFlush w x else decBinCount w x
  | 5 => withExt nxt fun x => decRbox w x
  | 6 => withExt nxt fun x => decRtri w x
  | 7 => if fld w 0 2 = 0 then litErr nxt (decRstkPush nxt w) else if fld w 0 2 = 1 then decRstkPop w else if fld w 0 2 = 2 then decRstkDepth w else decRstkClear w
  | 8 => withExt nxt fun x => decResv w x
  | 9 => litErr nxt (decRfree nxt w)
  | 10 => withExt nxt fun x => decAccrd w x
  | 11 => withExt nxt fun x => decSeq w x
  | 12 => decSysrd w
  | 13 => litErr nxt (decSyswr nxt w)
  | _ => .error .opcode

/-- The opcode map (R168): the words of an instruction, `w` the first and `nxt` the one after it in its packet. -/
def decodeInstr (w : Nat) (nxt : Option Nat) : Except Reject Instr :=
  match fld w 28 3 with
  | 0 => decodeRow0 (fld w 24 4) w nxt
  | 1 => decodeRow1 (fld w 24 4) w nxt
  | 2 => decodeRow2 (fld w 24 4) w nxt
  | 3 => decodeRow3 (fld w 24 4) w nxt
  | 4 => decodeRow4 (fld w 24 4) w nxt
  | 5 => decodeRow5 (fld w 24 4) w nxt
  | 6 => decodeRow6 (fld w 24 4) w nxt
  | _ => decodeRow7 (fld w 24 4) w nxt

/-- The matrix stream map (R174): `w` the first word, `x` the word after it. -/
def decodeMatrix (w x : Nat) : Except Reject Instr :=
  match fld w 24 7 with
  | 0 => decMnop w
  | 1 => decMzero w
  | 2 => decMmac w x
  | 3 => decMbin w x
  | 4 => decMrenorm w
  | 5 => decMexport w x
  | 6 => decMwait w
  | 7 => decMsig w
  | 8 => decMloop w
  | 9 => decMend w
  | 10 => decMphase w
  | 11 => decMstep w
  | _ => .error .opcode

/-- Decoding whole: the words, and then what the entry says of their combination (R171). -/
def decodeThread (w : Nat) (nxt : Option Nat) : Except Reject Instr :=
  (decodeInstr w nxt).bind fun i => if i.wf then .ok i else .error .code

/-- Is the word's opcode that of a two-word instruction (R168)? What follows it is then never an instruction word. -/
def twoWordOp (w : Nat) : Bool := [0x14, 0x18, 0x1C, 0x1D, 0x1F, 0x34, 0x37, 0x38, 0x3A, 0x45, 0x47, 0x48, 0x55, 0x56, 0x57, 0x64, 0x65, 0x66, 0x67, 0x68, 0x73, 0x74, 0x75, 0x76, 0x78, 0x7A, 0x7B].contains (fld w 24 7)

/-- The pipe of an instruction (R167). -/
def Instr.pipe (i : Instr) : Pipe :=
  match i with
  | .iadd .. | .isub .. | .imul .. | .imulh .. | .nmulh .. | .ima .. | .imin .. | .imax .. | .nmin .. | .nmax ..
  | .isad .. | .iadd64 .. | .isub64 .. | .imul64 .. | .imaw .. | .and .. | .or .. | .xor .. | .andn .. | .shl ..
  | .shr .. | .sar .. | .sel .. | .tern .. | .fsh .. | .pcnt .. | .clz .. | .brev .. | .bfe .. | .bfi ..
  | .bperm .. | .icmp .. | .plop .. | .idot4 .. | .nmaw .. | .mov .. | .movi .. | .movhi .. | .movk .. => .i
  | .faddF32 .. | .fsubF32 .. | .fmulF32 .. | .fmaF32 .. | .fminF32 .. | .fmaxF32 .. | .faddH2 .. | .fmulH2 .. | .fmaH2 .. | .faddB2 ..
  | .fmulB2 .. | .fmaB2 .. | .fcmp .. | .fclass .. | .dadd .. | .dmul .. | .dfma .. | .dcmp .. | .fop .. | .frnd ..
  | .fdot2 .. => .f
  | .fsf .. | .conv .. | .convb .. | .convx .. | .scaleb .. | .swz .. | .vote .. | .lred .. | .lscan .. | .trsp ..
  | .derx .. | .dery .. => .x
  | .srd .. | .part .. | .rep .. | .jmp .. | .jmpx .. | .call .. | .ret .. | .exit .. | .spawn .. | .cont ..
  | .reorder .. | .yield .. | .bar .. | .gbar .. | .wait .. | .trap .. | .rett .. | .brk .. | .time .. | .sysrd ..
  | .syswr .. => .c
  | .qput .. | .qget .. | .ld .. | .st .. | .lsp .. | .ssp .. | .ldlod .. | .sample .. | .atm .. | .atms ..
  | .rdm .. | .vbmin .. | .pref .. | .fence .. | .monwait .. | .txbegin .. | .txend .. | .txctlAbort .. | .txctlTest .. | .qbind ..
  | .cplwait .. | .cpltest .. | .hoist .. | .hoistClose .. | .binFlush .. | .binCount .. | .rbox .. | .rtri .. | .rstkPush .. | .rstkPop ..
  | .rstkDepth .. | .rstkClear .. | .resv .. | .rfree .. | .accrd .. | .seq .. => .m
  | _ => .none

/-! The encoder. -/

/-- A source field's code (R48), and a literal's word. -/
def Src.enc (a : Src) : Nat := a.code
def Dst.enc (d : Dst) : Nat := d.code
def boolBit (b : Bool) : Nat := if b then 1 else 0

/-- The amount of FSH as extension bits (R192). -/
def ShAmt.enc : ShAmt → Nat
  | .reg e => e.enc * 2 ^ 10
  | .imm n => 2 ^ 8 + n.toNat

/-- An entry target: its bits in the extension word without the pair field, and the pair field. -/
def Target.enc : Target → Nat
  | .off o => o.toNat * 2 ^ 17
  | .pair _ => 1
def Target.encPair : Target → Nat
  | .off _ => 0
  | .pair a => a.enc

/-- A one-word instruction with its literal, if it names one. -/
def oneWord (w : Nat) (lits : List Word) : List Nat := w :: (lits.take 1).map BitVec.toNat


/-- The words of NOP (R169). -/
def encNop (g : Pred) : List Nat :=
  [0x00000000 + g.val * 2 ^ 21]

/-- The words of IADD (R190). -/
def encIadd (g : Pred) (d : Dst) (a : Src) (b : Src) : List Nat :=
  oneWord (0x01000000 + g.val * 2 ^ 21 + d.enc * 2 ^ 14 + a.enc * 2 ^ 7 + b.enc) (a.lits ++ b.lits)

/-- The words of ISUB (R190). -/
def encIsub (g : Pred) (d : Dst) (a : Src) (b : Src) : List Nat :=
  oneWord (0x02000000 + g.val * 2 ^ 21 + d.enc * 2 ^ 14 + a.enc * 2 ^ 7 + b.enc) (a.lits ++ b.lits)

/-- The words of IMUL (R190). -/
def encImul (g : Pred) (d : Dst) (a : Src) (b : Src) : List Nat :=
  oneWord (0x03000000 + g.val * 2 ^ 21 + d.enc * 2 ^ 14 + a.enc * 2 ^ 7 + b.enc) (a.lits ++ b.lits)

/-- The words of IMULH (R190). -/
def encImulh (g : Pred) (d : Dst) (a : Src) (b : Src) : List Nat :=
  oneWord (0x04000000 + g.val * 2 ^ 21 + d.enc * 2 ^ 14 + a.enc * 2 ^ 7 + b.enc) (a.lits ++ b.lits)

/-- The words of NMULH (R190). -/
def encNmulh (g : Pred) (d : Dst) (a : Src) (b : Src) : List Nat :=
  oneWord (0x05000000 + g.val * 2 ^ 21 + d.enc * 2 ^ 14 + a.enc * 2 ^ 7 + b.enc) (a.lits ++ b.lits)

/-- The words of IMA (R190). -/
def encIma (g : Pred) (d : Dst) (a : Src) (b : Src) : List Nat :=
  oneWord (0x06000000 + g.val * 2 ^ 21 + d.enc * 2 ^ 14 + a.enc * 2 ^ 7 + b.enc) (a.lits ++ b.lits)

/-- The words of IMIN (R190). -/
def encImin (g : Pred) (d : Dst) (a : Src) (b : Src) : List Nat :=
  oneWord (0x07000000 + g.val * 2 ^ 21 + d.enc * 2 ^ 14 + a.enc * 2 ^ 7 + b.enc) (a.lits ++ b.lits)

/-- The words of IMAX (R190). -/
def encImax (g : Pred) (d : Dst) (a : Src) (b : Src) : List Nat :=
  oneWord (0x08000000 + g.val * 2 ^ 21 + d.enc * 2 ^ 14 + a.enc * 2 ^ 7 + b.enc) (a.lits ++ b.lits)

/-- The words of NMIN (R190). -/
def encNmin (g : Pred) (d : Dst) (a : Src) (b : Src) : List Nat :=
  oneWord (0x09000000 + g.val * 2 ^ 21 + d.enc * 2 ^ 14 + a.enc * 2 ^ 7 + b.enc) (a.lits ++ b.lits)

/-- The words of NMAX (R190). -/
def encNmax (g : Pred) (d : Dst) (a : Src) (b : Src) : List Nat :=
  oneWord (0x0A000000 + g.val * 2 ^ 21 + d.enc * 2 ^ 14 + a.enc * 2 ^ 7 + b.enc) (a.lits ++ b.lits)

/-- The words of ISAD (R190). -/
def encIsad (g : Pred) (d : Dst) (a : Src) (b : Src) : List Nat :=
  oneWord (0x0B000000 + g.val * 2 ^ 21 + d.enc * 2 ^ 14 + a.enc * 2 ^ 7 + b.enc) (a.lits ++ b.lits)

/-- The words of IADD64 (R190). -/
def encIadd64 (g : Pred) (d : Dst) (a : Src) (b : Src) : List Nat :=
  oneWord (0x0C000000 + g.val * 2 ^ 21 + d.enc * 2 ^ 14 + a.enc * 2 ^ 7 + b.enc) (a.lits ++ b.lits)

/-- The words of ISUB64 (R190). -/
def encIsub64 (g : Pred) (d : Dst) (a : Src) (b : Src) : List Nat :=
  oneWord (0x0D000000 + g.val * 2 ^ 21 + d.enc * 2 ^ 14 + a.enc * 2 ^ 7 + b.enc) (a.lits ++ b.lits)

/-- The words of IMUL64 (R190). -/
def encImul64 (g : Pred) (d : Dst) (a : Src) (b : Src) : List Nat :=
  oneWord (0x0E000000 + g.val * 2 ^ 21 + d.enc * 2 ^ 14 + a.enc * 2 ^ 7 + b.enc) (a.lits ++ b.lits)

/-- The words of IMAW (R190). -/
def encImaw (g : Pred) (d : Dst) (a : Src) (b : Src) : List Nat :=
  oneWord (0x0F000000 + g.val * 2 ^ 21 + d.enc * 2 ^ 14 + a.enc * 2 ^ 7 + b.enc) (a.lits ++ b.lits)

/-- The words of AND (R191). -/
def encAnd (g : Pred) (d : Dst) (a : Src) (b : Src) : List Nat :=
  oneWord (0x10000000 + g.val * 2 ^ 21 + d.enc * 2 ^ 14 + a.enc * 2 ^ 7 + b.enc) (a.lits ++ b.lits)

/-- The words of OR (R191). -/
def encOr (g : Pred) (d : Dst) (a : Src) (b : Src) : List Nat :=
  oneWord (0x11000000 + g.val * 2 ^ 21 + d.enc * 2 ^ 14 + a.enc * 2 ^ 7 + b.enc) (a.lits ++ b.lits)

/-- The words of XOR (R191). -/
def encXor (g : Pred) (d : Dst) (a : Src) (b : Src) : List Nat :=
  oneWord (0x12000000 + g.val * 2 ^ 21 + d.enc * 2 ^ 14 + a.enc * 2 ^ 7 + b.enc) (a.lits ++ b.lits)

/-- The words of ANDN (R191). -/
def encAndn (g : Pred) (d : Dst) (a : Src) (b : Src) : List Nat :=
  oneWord (0x13000000 + g.val * 2 ^ 21 + d.enc * 2 ^ 14 + a.enc * 2 ^ 7 + b.enc) (a.lits ++ b.lits)

/-- The words of SHL (R191). -/
def encShl (g : Pred) (d : Dst) (a : Src) (b : Src) : List Nat :=
  oneWord (0x15000000 + g.val * 2 ^ 21 + d.enc * 2 ^ 14 + a.enc * 2 ^ 7 + b.enc) (a.lits ++ b.lits)

/-- The words of SHR (R191). -/
def encShr (g : Pred) (d : Dst) (a : Src) (b : Src) : List Nat :=
  oneWord (0x16000000 + g.val * 2 ^ 21 + d.enc * 2 ^ 14 + a.enc * 2 ^ 7 + b.enc) (a.lits ++ b.lits)

/-- The words of SAR (R191). -/
def encSar (g : Pred) (d : Dst) (a : Src) (b : Src) : List Nat :=
  oneWord (0x17000000 + g.val * 2 ^ 21 + d.enc * 2 ^ 14 + a.enc * 2 ^ 7 + b.enc) (a.lits ++ b.lits)

/-- The words of SEL (R191). -/
def encSel (g : Pred) (d : Dst) (a : Src) (b : Src) : List Nat :=
  oneWord (0x1E000000 + g.val * 2 ^ 21 + d.enc * 2 ^ 14 + a.enc * 2 ^ 7 + b.enc) (a.lits ++ b.lits)

/-- The words of TERN (R192). -/
def encTern (g : Pred) (d : Dst) (a : Src) (b : Src) (e : Src) (tt : BitVec 8) : List Nat :=
  [0x14000000 + g.val * 2 ^ 21 + d.enc * 2 ^ 14 + a.enc * 2 ^ 7 + b.enc, e.enc * 2 ^ 10 + tt.toNat]

/-- The words of FSH (R192). -/
def encFsh (g : Pred) (d : Dst) (a : Src) (b : Src) (dir : Bool) (amt : ShAmt) : List Nat :=
  [0x18000000 + g.val * 2 ^ 21 + d.enc * 2 ^ 14 + a.enc * 2 ^ 7 + b.enc, boolBit dir * 2 ^ 9 + amt.enc]

/-- The words of PCNT (R191). -/
def encPcnt (g : Pred) (d : Dst) (a : Src) (w : Bool) : List Nat :=
  oneWord (0x19000000 + g.val * 2 ^ 21 + d.enc * 2 ^ 14 + a.enc * 2 ^ 7 + boolBit w) (a.lits)

/-- The words of CLZ (R191). -/
def encClz (g : Pred) (d : Dst) (a : Src) (w : Bool) : List Nat :=
  oneWord (0x1A000000 + g.val * 2 ^ 21 + d.enc * 2 ^ 14 + a.enc * 2 ^ 7 + boolBit w) (a.lits)

/-- The words of BREV (R191). -/
def encBrev (g : Pred) (d : Dst) (a : Src) (w : Bool) : List Nat :=
  oneWord (0x1B000000 + g.val * 2 ^ 21 + d.enc * 2 ^ 14 + a.enc * 2 ^ 7 + boolBit w) (a.lits)

/-- The words of BFE (R192). -/
def encBfe (g : Pred) (d : Dst) (a : Src) (sx : Bool) (pos : BitVec 5) (len : BitVec 5) : List Nat :=
  [0x1C000000 + g.val * 2 ^ 21 + d.enc * 2 ^ 14 + a.enc * 2 ^ 7, boolBit sx * 2 ^ 17 + pos.toNat * 2 ^ 5 + len.toNat]

/-- The words of BFI (R192). -/
def encBfi (g : Pred) (d : Dst) (a : Src) (pos : BitVec 5) (len : BitVec 5) : List Nat :=
  [0x1D000000 + g.val * 2 ^ 21 + d.enc * 2 ^ 14 + a.enc * 2 ^ 7, pos.toNat * 2 ^ 5 + len.toNat]

/-- The words of BPERM (R192). -/
def encBperm (g : Pred) (d : Dst) (a : Src) (b : Src) (e : Src) : List Nat :=
  [0x1F000000 + g.val * 2 ^ 21 + d.enc * 2 ^ 14 + a.enc * 2 ^ 7 + b.enc, e.enc * 2 ^ 10]

/-- The words of FADD_F32 (R193). -/
def encFaddF32 (g : Pred) (d : Dst) (a : Src) (b : Src) : List Nat :=
  oneWord (0x20000000 + g.val * 2 ^ 21 + d.enc * 2 ^ 14 + a.enc * 2 ^ 7 + b.enc) (a.lits ++ b.lits)

/-- The words of FSUB_F32 (R193). -/
def encFsubF32 (g : Pred) (d : Dst) (a : Src) (b : Src) : List Nat :=
  oneWord (0x21000000 + g.val * 2 ^ 21 + d.enc * 2 ^ 14 + a.enc * 2 ^ 7 + b.enc) (a.lits ++ b.lits)

/-- The words of FMUL_F32 (R193). -/
def encFmulF32 (g : Pred) (d : Dst) (a : Src) (b : Src) : List Nat :=
  oneWord (0x22000000 + g.val * 2 ^ 21 + d.enc * 2 ^ 14 + a.enc * 2 ^ 7 + b.enc) (a.lits ++ b.lits)

/-- The words of FMA_F32 (R193). -/
def encFmaF32 (g : Pred) (d : Dst) (a : Src) (b : Src) : List Nat :=
  oneWord (0x23000000 + g.val * 2 ^ 21 + d.enc * 2 ^ 14 + a.enc * 2 ^ 7 + b.enc) (a.lits ++ b.lits)

/-- The words of FMIN_F32 (R194). -/
def encFminF32 (g : Pred) (d : Dst) (a : Src) (b : Src) : List Nat :=
  oneWord (0x24000000 + g.val * 2 ^ 21 + d.enc * 2 ^ 14 + a.enc * 2 ^ 7 + b.enc) (a.lits ++ b.lits)

/-- The words of FMAX_F32 (R194). -/
def encFmaxF32 (g : Pred) (d : Dst) (a : Src) (b : Src) : List Nat :=
  oneWord (0x25000000 + g.val * 2 ^ 21 + d.enc * 2 ^ 14 + a.enc * 2 ^ 7 + b.enc) (a.lits ++ b.lits)

/-- The words of FADD_H2 (R193). -/
def encFaddH2 (g : Pred) (d : Dst) (a : Src) (b : Src) : List Nat :=
  oneWord (0x26000000 + g.val * 2 ^ 21 + d.enc * 2 ^ 14 + a.enc * 2 ^ 7 + b.enc) (a.lits ++ b.lits)

/-- The words of FMUL_H2 (R193). -/
def encFmulH2 (g : Pred) (d : Dst) (a : Src) (b : Src) : List Nat :=
  oneWord (0x27000000 + g.val * 2 ^ 21 + d.enc * 2 ^ 14 + a.enc * 2 ^ 7 + b.enc) (a.lits ++ b.lits)

/-- The words of FMA_H2 (R193). -/
def encFmaH2 (g : Pred) (d : Dst) (a : Src) (b : Src) : List Nat :=
  oneWord (0x28000000 + g.val * 2 ^ 21 + d.enc * 2 ^ 14 + a.enc * 2 ^ 7 + b.enc) (a.lits ++ b.lits)

/-- The words of FADD_B2 (R193). -/
def encFaddB2 (g : Pred) (d : Dst) (a : Src) (b : Src) : List Nat :=
  oneWord (0x29000000 + g.val * 2 ^ 21 + d.enc * 2 ^ 14 + a.enc * 2 ^ 7 + b.enc) (a.lits ++ b.lits)

/-- The words of FMUL_B2 (R193). -/
def encFmulB2 (g : Pred) (d : Dst) (a : Src) (b : Src) : List Nat :=
  oneWord (0x2A000000 + g.val * 2 ^ 21 + d.enc * 2 ^ 14 + a.enc * 2 ^ 7 + b.enc) (a.lits ++ b.lits)

/-- The words of FMA_B2 (R193). -/
def encFmaB2 (g : Pred) (d : Dst) (a : Src) (b : Src) : List Nat :=
  oneWord (0x2B000000 + g.val * 2 ^ 21 + d.enc * 2 ^ 14 + a.enc * 2 ^ 7 + b.enc) (a.lits ++ b.lits)

/-- The words of ICMP (R195). -/
def encIcmp (g : Pred) (w : Bool) (c : ICond) (p : Pred) (a : Src) (b : Src) : List Nat :=
  oneWord (0x2C000000 + g.val * 2 ^ 21 + boolBit w * 2 ^ 20 + c.code * 2 ^ 17 + p.val * 2 ^ 14 + a.enc * 2 ^ 7 + b.enc) (a.lits ++ b.lits)

/-- The words of FCMP (R196). -/
def encFcmp (g : Pred) (c : FCond) (p : Pred) (a : Src) (b : Src) : List Nat :=
  oneWord (0x2D000000 + g.val * 2 ^ 21 + c.code * 2 ^ 17 + p.val * 2 ^ 14 + a.enc * 2 ^ 7 + b.enc) (a.lits ++ b.lits)

/-- The words of PLOP (R197). -/
def encPlop (g : Pred) (p : Pred) (a : Pred) (b : Pred) (tt : BitVec 4) : List Nat :=
  [0x2E000000 + g.val * 2 ^ 21 + p.val * 2 ^ 14 + a.val * 2 ^ 7 + b.val * 2 ^ 10 + tt.toNat]

/-- The words of FCLASS (R198). -/
def encFclass (g : Pred) (d : Dst) (a : Src) (w : Bool) : List Nat :=
  oneWord (0x2F000000 + g.val * 2 ^ 21 + d.enc * 2 ^ 14 + a.enc * 2 ^ 7 + boolBit w) (a.lits)

/-- The words of DADD (R193). -/
def encDadd (g : Pred) (d : Dst) (a : Src) (b : Src) : List Nat :=
  oneWord (0x30000000 + g.val * 2 ^ 21 + d.enc * 2 ^ 14 + a.enc * 2 ^ 7 + b.enc) (a.lits ++ b.lits)

/-- The words of DMUL (R193). -/
def encDmul (g : Pred) (d : Dst) (a : Src) (b : Src) : List Nat :=
  oneWord (0x31000000 + g.val * 2 ^ 21 + d.enc * 2 ^ 14 + a.enc * 2 ^ 7 + b.enc) (a.lits ++ b.lits)

/-- The words of DFMA (R193). -/
def encDfma (g : Pred) (d : Dst) (a : Src) (b : Src) : List Nat :=
  oneWord (0x32000000 + g.val * 2 ^ 21 + d.enc * 2 ^ 14 + a.enc * 2 ^ 7 + b.enc) (a.lits ++ b.lits)

/-- The words of DCMP (R196). -/
def encDcmp (g : Pred) (c : FCond) (p : Pred) (a : Src) (b : Src) : List Nat :=
  oneWord (0x33000000 + g.val * 2 ^ 21 + c.code * 2 ^ 17 + p.val * 2 ^ 14 + a.enc * 2 ^ 7 + b.enc) (a.lits ++ b.lits)

/-- The words of FOP (R199). -/
def encFop (g : Pred) (d : Dst) (a : Src) (b : Src) (pk : Bool) (fn : FopFn) (ty : Ty) (rnd : Rnd) (e : Src) : List Nat :=
  [0x34000000 + g.val * 2 ^ 21 + d.enc * 2 ^ 14 + a.enc * 2 ^ 7 + b.enc, boolBit pk * 2 ^ 28 + fn.code * 2 ^ 24 + ty.code * 2 ^ 20 + rnd.code * 2 ^ 17 + e.enc * 2 ^ 10]

/-- The words of FRND (R200). -/
def encFrnd (g : Pred) (d : Dst) (a : Src) (x : Bool) (ty : FrndTy) (rnd : Rnd) : List Nat :=
  oneWord (0x35000000 + g.val * 2 ^ 21 + d.enc * 2 ^ 14 + a.enc * 2 ^ 7 + boolBit x * 2 ^ 5 + ty.code * 2 ^ 3 + rnd.code) (a.lits)

/-- The words of FSF (R201). -/
def encFsf (g : Pred) (d : Dst) (a : Src) (fn : SfFn) : List Nat :=
  oneWord (0x36000000 + g.val * 2 ^ 21 + d.enc * 2 ^ 14 + a.enc * 2 ^ 7 + fn.code) (a.lits)

/-- The words of CONV (R202). -/
def encConv (g : Pred) (d : Dst) (a : Src) (ts : Ty) (tt : Ty) (rnd : Rnd) : List Nat :=
  [0x37000000 + g.val * 2 ^ 21 + d.enc * 2 ^ 14 + a.enc * 2 ^ 7, ts.code * 2 ^ 24 + tt.code * 2 ^ 20 + rnd.code * 2 ^ 17]

/-- The words of CONVB (R204). -/
def encConvb (g : Pred) (d : Dst) (a : Src) (tt : Ty) (len : BlkLen) (rnd : Rnd) (e : Dst) (ph : BitVec 7) : List Nat :=
  [0x38000000 + g.val * 2 ^ 21 + d.enc * 2 ^ 14 + a.enc * 2 ^ 7, tt.code * 2 ^ 24 + len.code * 2 ^ 22 + rnd.code * 2 ^ 17 + e.enc * 2 ^ 10 + ph.toNat]

/-- The words of CONVX (R203). -/
def encConvx (g : Pred) (d : Dst) (a : Src) (h : Bool) (k : BitVec 2) (ty : Ty) : List Nat :=
  oneWord (0x39000000 + g.val * 2 ^ 21 + d.enc * 2 ^ 14 + a.enc * 2 ^ 7 + boolBit h * 2 ^ 6 + k.toNat * 2 ^ 4 + ty.code) (a.lits)

/-- The words of SCALEB (R204). -/
def encScaleb (g : Pred) (d : Dst) (a : Src) (tt : Ty) (len : BlkLen) (b2 : Bool) (rnd : Rnd) (e : Dst) (ph : BitVec 7) : List Nat :=
  [0x3A000000 + g.val * 2 ^ 21 + d.enc * 2 ^ 14 + a.enc * 2 ^ 7, tt.code * 2 ^ 24 + len.code * 2 ^ 22 + boolBit b2 * 2 ^ 20 + rnd.code * 2 ^ 17 + e.enc * 2 ^ 10 + ph.toNat]

/-- The words of IDOT4 (R205). -/
def encIdot4 (g : Pred) (d : Dst) (a : Src) (b : Src) : List Nat :=
  oneWord (0x3B000000 + g.val * 2 ^ 21 + d.enc * 2 ^ 14 + a.enc * 2 ^ 7 + b.enc) (a.lits ++ b.lits)

/-- The words of FDOT2 (R205). -/
def encFdot2 (g : Pred) (d : Dst) (a : Src) (b : Src) : List Nat :=
  oneWord (0x3C000000 + g.val * 2 ^ 21 + d.enc * 2 ^ 14 + a.enc * 2 ^ 7 + b.enc) (a.lits ++ b.lits)

/-- The words of NMAW (R190). -/
def encNmaw (g : Pred) (d : Dst) (a : Src) (b : Src) : List Nat :=
  oneWord (0x3D000000 + g.val * 2 ^ 21 + d.enc * 2 ^ 14 + a.enc * 2 ^ 7 + b.enc) (a.lits ++ b.lits)

/-- The words of MOV (R206). -/
def encMov (g : Pred) (d : Dst) (a : Src) (w : Bool) : List Nat :=
  oneWord (0x40000000 + g.val * 2 ^ 21 + d.enc * 2 ^ 14 + a.enc * 2 ^ 7 + boolBit w) (a.lits)

/-- The words of MOVI (R206). -/
def encMovi (g : Pred) (d : Dst) (imm : BitVec 14) : List Nat :=
  [0x41000000 + g.val * 2 ^ 21 + d.enc * 2 ^ 14 + imm.toNat]

/-- The words of MOVHI (R206). -/
def encMovhi (g : Pred) (d : Dst) (imm : BitVec 14) : List Nat :=
  [0x42000000 + g.val * 2 ^ 21 + d.enc * 2 ^ 14 + imm.toNat]

/-- The words of MOVK (R206). -/
def encMovk (g : Pred) (d : Dst) (w : Bool) (n : BitVec 5) : List Nat :=
  [0x43000000 + g.val * 2 ^ 21 + d.enc * 2 ^ 14 + boolBit w * 2 ^ 5 + n.toNat]

/-- The words of SRD (R207). -/
def encSrd (g : Pred) (d : Dst) (clr : Bool) (idx : Spr) : List Nat :=
  [0x44000000 + g.val * 2 ^ 21 + d.enc * 2 ^ 14 + boolBit clr * 2 ^ 5 + idx.code]

/-- The words of SWZ (R209). -/
def encSwz (g : Pred) (d : Dst) (a : Src) (b : Src) (mode : SwzMode) (n : BitVec 5) : List Nat :=
  [0x45000000 + g.val * 2 ^ 21 + d.enc * 2 ^ 14 + a.enc * 2 ^ 7 + b.enc, mode.code * 2 ^ 24 + n.toNat]

/-- The words of VOTE (R210). -/
def encVote (g : Pred) (d : Dst) (ps : Pred) (op : VoteOp) : List Nat :=
  [0x46000000 + g.val * 2 ^ 21 + d.enc * 2 ^ 14 + ps.val * 2 ^ 7 + op.code]

/-- The words of LRED (R211). -/
def encLred (g : Pred) (d : Dst) (a : Src) (ty : Ty) (op : RedOp) (rnd : Rnd) : List Nat :=
  [0x47000000 + g.val * 2 ^ 21 + d.enc * 2 ^ 14 + a.enc * 2 ^ 7, ty.code * 2 ^ 24 + op.code * 2 ^ 20 + rnd.code * 2 ^ 17]

/-- The words of LSCAN (R211). -/
def encLscan (g : Pred) (d : Dst) (a : Src) (x : Bool) (ty : Ty) (op : RedOp) (rnd : Rnd) : List Nat :=
  [0x48000000 + g.val * 2 ^ 21 + d.enc * 2 ^ 14 + a.enc * 2 ^ 7, boolBit x * 2 ^ 28 + ty.code * 2 ^ 24 + op.code * 2 ^ 20 + rnd.code * 2 ^ 17]

/-- The words of TRSP (R212). -/
def encTrsp (g : Pred) (d : Dst) (a : Src) (sz : TrspSize) : List Nat :=
  oneWord (0x49000000 + g.val * 2 ^ 21 + d.enc * 2 ^ 14 + a.enc * 2 ^ 7 + sz.code) (a.lits)

/-- The words of PART (R213). -/
def encPart (g : Pred) (n : Fin 6) : List Nat :=
  [0x4A000000 + g.val * 2 ^ 21 + n.val]

/-- The words of REP (R214). -/
def encRep (sb : BitVec 2) (sa : BitVec 2) (sd : BitVec 2) (tot : BitVec 5) : List Nat :=
  [0x4BE00000 + sb.toNat * 2 ^ 9 + sa.toNat * 2 ^ 7 + sd.toNat * 2 ^ 5 + tot.toNat]

/-- The words of DERX (R216). -/
def encDerx (g : Pred) (d : Dst) (a : Src) (coarse : Bool) : List Nat :=
  oneWord (0x4C000000 + g.val * 2 ^ 21 + d.enc * 2 ^ 14 + a.enc * 2 ^ 7 + boolBit coarse) (a.lits)

/-- The words of DERY (R216). -/
def encDery (g : Pred) (d : Dst) (a : Src) (coarse : Bool) : List Nat :=
  oneWord (0x4D000000 + g.val * 2 ^ 21 + d.enc * 2 ^ 14 + a.enc * 2 ^ 7 + boolBit coarse) (a.lits)

/-- The words of QPUT (R217). -/
def encQput (g : Pred) (a : Src) (q : BitVec 4) : List Nat :=
  oneWord (0x4E000000 + g.val * 2 ^ 21 + a.enc * 2 ^ 7 + q.toNat) (a.lits)

/-- The words of QGET (R217). -/
def encQget (g : Pred) (d : Dst) (q : BitVec 4) : List Nat :=
  [0x4F000000 + g.val * 2 ^ 21 + d.enc * 2 ^ 14 + q.toNat]

/-- The words of JMP (R227). -/
def encJmp (g : Pred) (off : BitVec 21) : List Nat :=
  [0x50000000 + g.val * 2 ^ 21 + off.toNat]

/-- The words of JMPX (R227). -/
def encJmpx (g : Pred) (a : Src) (link : Bool) : List Nat :=
  oneWord (0x51000000 + g.val * 2 ^ 21 + a.enc * 2 ^ 7 + boolBit link) (a.lits)

/-- The words of CALL (R227). -/
def encCall (g : Pred) (off : BitVec 21) : List Nat :=
  [0x52000000 + g.val * 2 ^ 21 + off.toNat]

/-- The words of RET (R227). -/
def encRet (g : Pred) : List Nat :=
  [0x53000000 + g.val * 2 ^ 21]

/-- The words of EXIT (R228). -/
def encExit (g : Pred) : List Nat :=
  [0x54000000 + g.val * 2 ^ 21]

/-- The words of SPAWN (R229). -/
def encSpawn (g : Pred) (tgt : Target) (vs : Fin 120) (n : Fin 17) : List Nat :=
  [0x55000000 + g.val * 2 ^ 21 + tgt.encPair * 2 ^ 7, tgt.enc + vs.val * 2 ^ 10 + n.val * 2 ^ 5]

/-- The words of CONT (R229). -/
def encCont (g : Pred) (tgt : Target) (n : Fin 17) : List Nat :=
  [0x56000000 + g.val * 2 ^ 21 + tgt.encPair * 2 ^ 7, tgt.enc + n.val * 2 ^ 5]

/-- The words of REORDER (R230). -/
def encReorder (g : Pred) (a : Src) (n : Fin 121) : List Nat :=
  [0x57000000 + g.val * 2 ^ 21 + a.enc * 2 ^ 7, n.val]

/-- The words of YIELD (R231). -/
def encYield (g : Pred) (n : BitVec 6) : List Nat :=
  [0x58000000 + g.val * 2 ^ 21 + n.toNat]

/-- The words of BAR (R232). -/
def encBar (g : Pred) (gang : Bool) (b : BitVec 4) : List Nat :=
  [0x59000000 + g.val * 2 ^ 21 + boolBit gang * 2 ^ 4 + b.toNat]

/-- The words of GBAR (R233). -/
def encGbar (g : Pred) (idx : BitVec 8) : List Nat :=
  [0x5A000000 + g.val * 2 ^ 21 + idx.toNat]

/-- The words of WAIT (R234). -/
def encWait (g : Pred) (l : BitVec 3) (s : BitVec 3) (c : BitVec 3) (t : BitVec 3) : List Nat :=
  [0x5B000000 + g.val * 2 ^ 21 + l.toNat * 2 ^ 9 + s.toNat * 2 ^ 6 + c.toNat * 2 ^ 3 + t.toNat]

/-- The words of TRAP (R226). -/
def encTrap (g : Pred) (imm : BitVec 14) : List Nat :=
  [0x5C000000 + g.val * 2 ^ 21 + imm.toNat]

/-- The words of RETT (R225). -/
def encRett (g : Pred) : List Nat :=
  [0x5D000000 + g.val * 2 ^ 21]

/-- The words of BREAK (R226). -/
def encBrk (g : Pred) (imm : BitVec 14) : List Nat :=
  [0x5E000000 + g.val * 2 ^ 21 + imm.toNat]

/-- The words of TIME (R235). -/
def encTime (g : Pred) (d : Dst) : List Nat :=
  [0x5F000000 + g.val * 2 ^ 21 + d.enc * 2 ^ 14]

/-- The words of LD (R236). -/
def encLd (g : Pred) (d : Dst) (a : Src) (acq : Bool) (sc : Scope) (sz : Size) : List Nat :=
  oneWord (0x60000000 + g.val * 2 ^ 21 + d.enc * 2 ^ 14 + a.enc * 2 ^ 7 + boolBit acq * 2 ^ 6 + sc.code * 2 ^ 3 + sz.code) (a.lits)

/-- The words of ST (R236). -/
def encSt (g : Pred) (v : Src) (a : Src) (rel : Bool) (sc : Scope) (sz : Size) : List Nat :=
  oneWord (0x61000000 + g.val * 2 ^ 21 + v.enc * 2 ^ 14 + a.enc * 2 ^ 7 + boolBit rel * 2 ^ 6 + sc.code * 2 ^ 3 + sz.code) (v.lits ++ a.lits)

/-- The words of LSP (R238). -/
def encLsp (g : Pred) (d : Dst) (a : Src) (sz : Size) : List Nat :=
  oneWord (0x62000000 + g.val * 2 ^ 21 + d.enc * 2 ^ 14 + a.enc * 2 ^ 7 + sz.code) (a.lits)

/-- The words of SSP (R238). -/
def encSsp (g : Pred) (v : Src) (a : Src) (sz : Size) : List Nat :=
  oneWord (0x63000000 + g.val * 2 ^ 21 + v.enc * 2 ^ 14 + a.enc * 2 ^ 7 + sz.code) (v.lits ++ a.lits)

/-- The words of LDLOD (R239). -/
def encLdlod (g : Pred) (d : Dst) (a : Src) (b : Src) (lvl : BitVec 4) (lreg : Bool) (e : Dst) (sz : Fin 5) : List Nat :=
  [0x64000000 + g.val * 2 ^ 21 + d.enc * 2 ^ 14 + a.enc * 2 ^ 7 + b.enc, lvl.toNat * 2 ^ 28 + boolBit lreg * 2 ^ 27 + e.enc * 2 ^ 10 + sz.val * 2 ^ 4]

/-- The words of SAMPLE (R240). -/
def encSample (g : Pred) (d : Dst) (a : Src) (b : Src) (fmt : SampleFmt) (bilin : Bool) (e : Src) : List Nat :=
  [0x65000000 + g.val * 2 ^ 21 + d.enc * 2 ^ 14 + a.enc * 2 ^ 7 + b.enc, fmt.code * 2 ^ 30 + boolBit bilin * 2 ^ 29 + e.enc * 2 ^ 10]

/-- The words of ATM (R241). -/
def encAtm (g : Pred) (d : Dst) (a : Src) (b : Src) (op : AtomOp) (ty : Ty) (sc : Scope) (ord : Order) (e : Src) : List Nat :=
  [0x66000000 + g.val * 2 ^ 21 + d.enc * 2 ^ 14 + a.enc * 2 ^ 7 + b.enc, op.code * 2 ^ 28 + ty.code * 2 ^ 24 + sc.code * 2 ^ 21 + ord.code * 2 ^ 19 + e.enc * 2 ^ 10]

/-- The words of ATMS (R241). -/
def encAtms (g : Pred) (d : Dst) (a : Src) (b : Src) (op : AtomOp) (ty : Ty) (e : Src) : List Nat :=
  [0x67000000 + g.val * 2 ^ 21 + d.enc * 2 ^ 14 + a.enc * 2 ^ 7 + b.enc, op.code * 2 ^ 28 + ty.code * 2 ^ 24 + e.enc * 2 ^ 10]

/-- The words of RDM (R242). -/
def encRdm (g : Pred) (a : Src) (b : Src) (op : RedOp) (ty : Ty) (sc : Scope) (rel : Bool) : List Nat :=
  [0x68000000 + g.val * 2 ^ 21 + a.enc * 2 ^ 7 + b.enc, op.code * 2 ^ 28 + ty.code * 2 ^ 24 + sc.code * 2 ^ 21 + boolBit rel * 2 ^ 20]

/-- The words of VBMIN (R243). -/
def encVbmin (g : Pred) (a : Src) (b : Src) : List Nat :=
  oneWord (0x69000000 + g.val * 2 ^ 21 + a.enc * 2 ^ 7 + b.enc) (a.lits ++ b.lits)

/-- The words of PREF (R244). -/
def encPref (g : Pred) (a : Src) (l2 : Bool) : List Nat :=
  oneWord (0x6A000000 + g.val * 2 ^ 21 + a.enc * 2 ^ 7 + boolBit l2) (a.lits)

/-- The words of FENCE (R245). -/
def encFence (g : Pred) (k : FenceKind) (sc : Scope) : List Nat :=
  [0x6B000000 + g.val * 2 ^ 21 + k.code * 2 ^ 3 + sc.code]

/-- The words of MONWAIT (R246). -/
def encMonwait (g : Pred) (v : Src) (a : Src) (sc : Scope) : List Nat :=
  oneWord (0x6C000000 + g.val * 2 ^ 21 + v.enc * 2 ^ 14 + a.enc * 2 ^ 7 + sc.code) (v.lits ++ a.lits)

/-- The words of TXBEGIN (R247). -/
def encTxbegin (g : Pred) (off : BitVec 21) : List Nat :=
  [0x6D000000 + g.val * 2 ^ 21 + off.toNat]

/-- The words of TXEND (R250). -/
def encTxend (g : Pred) : List Nat :=
  [0x6E000000 + g.val * 2 ^ 21]

/-- The words of TXCTL_ABORT (R251). -/
def encTxctlAbort (g : Pred) : List Nat :=
  [0x6F000000 + g.val * 2 ^ 21]

/-- The words of TXCTL_TEST (R251). -/
def encTxctlTest (g : Pred) (d : Dst) : List Nat :=
  [0x6F000000 + g.val * 2 ^ 21 + d.enc * 2 ^ 14 + 1]

/-- The words of QBIND (R253). -/
def encQbind (g : Pred) (port : Port) (a : Src) (q : BitVec 4) : List Nat :=
  oneWord (0x70000000 + g.val * 2 ^ 21 + port.code * 2 ^ 14 + a.enc * 2 ^ 7 + q.toNat) (a.lits)

/-- The words of CPLWAIT (R269). -/
def encCplwait (g : Pred) (v : Src) (a : Src) (ext : Bool) (sc : Scope) : List Nat :=
  oneWord (0x71000000 + g.val * 2 ^ 21 + v.enc * 2 ^ 14 + a.enc * 2 ^ 7 + boolBit ext * 2 ^ 3 + sc.code) (v.lits ++ a.lits)

/-- The words of CPLTEST (R270). -/
def encCpltest (g : Pred) (d : Dst) (a : Src) (sc : Scope) : List Nat :=
  oneWord (0x72000000 + g.val * 2 ^ 21 + d.enc * 2 ^ 14 + a.enc * 2 ^ 7 + sc.code) (a.lits)

/-- The words of HOIST (R271). -/
def encHoist (g : Pred) (q : BitVec 4) (vs : Fin 120) (b : Src) (tgt : Target) (n : Fin 17) (any : Bool) : List Nat :=
  [0x73000000 + g.val * 2 ^ 21 + q.toNat * 2 ^ 14 + vs.val * 2 ^ 7 + b.enc, tgt.enc + tgt.encPair * 2 ^ 10 + n.val * 2 ^ 5 + boolBit any * 2 ^ 4]

/-- The words of HOIST_CLOSE (R273). -/
def encHoistClose (g : Pred) (q : BitVec 4) : List Nat :=
  [0x73000000 + g.val * 2 ^ 21 + q.toNat * 2 ^ 14, 8]

/-- The words of BIN_FLUSH (R285). -/
def encBinFlush (g : Pred) (tgt : Target) : List Nat :=
  [0x74000000 + g.val * 2 ^ 21 + tgt.encPair * 2 ^ 7, tgt.enc]

/-- The words of BIN_COUNT (R285). -/
def encBinCount (g : Pred) (d : Dst) (tgt : Target) : List Nat :=
  [0x74000000 + g.val * 2 ^ 21 + d.enc * 2 ^ 14 + tgt.encPair * 2 ^ 7, tgt.enc + 2]

/-- The words of RBOX (R289). -/
def encRbox (g : Pred) (d : Dst) (a : Src) (b : Src) : List Nat :=
  [0x75000000 + g.val * 2 ^ 21 + d.enc * 2 ^ 14 + a.enc * 2 ^ 7 + b.enc, 0]

/-- The words of RTRI (R290). -/
def encRtri (g : Pred) (d : Dst) (a : Src) (b : Src) (cull : Cull) : List Nat :=
  [0x76000000 + g.val * 2 ^ 21 + d.enc * 2 ^ 14 + a.enc * 2 ^ 7 + b.enc, cull.code]

/-- The words of RSTK_PUSH (R292). -/
def encRstkPush (g : Pred) (a : Src) : List Nat :=
  oneWord (0x77000000 + g.val * 2 ^ 21 + a.enc * 2 ^ 7) (a.lits)

/-- The words of RSTK_POP (R292). -/
def encRstkPop (g : Pred) (d : Dst) : List Nat :=
  [0x77000000 + g.val * 2 ^ 21 + d.enc * 2 ^ 14 + 1]

/-- The words of RSTK_DEPTH (R292). -/
def encRstkDepth (g : Pred) (d : Dst) : List Nat :=
  [0x77000000 + g.val * 2 ^ 21 + d.enc * 2 ^ 14 + 2]

/-- The words of RSTK_CLEAR (R292). -/
def encRstkClear (g : Pred) : List Nat :=
  [0x77000000 + g.val * 2 ^ 21 + 3]

/-- The words of RESV (R297). -/
def encResv (g : Pred) (d : Dst) (a : Src) (b : Src) (fmt : ResFmt) (bl : BlkLen) (scl : Bool) (ten : Bool) (ph : BitVec 7) : List Nat :=
  [0x78000000 + g.val * 2 ^ 21 + d.enc * 2 ^ 14 + a.enc * 2 ^ 7 + b.enc, fmt.code * 2 ^ 28 + bl.code * 2 ^ 26 + boolBit scl * 2 ^ 25 + boolBit ten * 2 ^ 24 + ph.toNat]

/-- The words of RFREE (R298). -/
def encRfree (g : Pred) (a : Src) : List Nat :=
  oneWord (0x79000000 + g.val * 2 ^ 21 + a.enc * 2 ^ 7) (a.lits)

/-- The words of ACCRD (R326). -/
def encAccrd (g : Pred) (d : Dst) (what : AccSel) (fmt : BitVec 4) (rnd : Rnd) (t : BitVec 3) (row : BitVec 4) (half : Bool) : List Nat :=
  [0x7A000000 + g.val * 2 ^ 21 + d.enc * 2 ^ 14, what.code * 2 ^ 28 + fmt.toNat * 2 ^ 24 + rnd.code * 2 ^ 17 + t.toNat * 2 ^ 7 + row.toNat * 2 ^ 3 + boolBit half * 2 ^ 2]

/-- The words of SEQ (R310). -/
def encSeq (g : Pred) (a : Src) (b : Src) (e : Src) : List Nat :=
  [0x7B000000 + g.val * 2 ^ 21 + a.enc * 2 ^ 7 + b.enc, e.enc * 2 ^ 10]

/-- The words of SYSRD (R293). -/
def encSysrd (g : Pred) (d : Dst) (idx : BitVec 14) : List Nat :=
  [0x7C000000 + g.val * 2 ^ 21 + d.enc * 2 ^ 14 + idx.toNat]

/-- The words of SYSWR (R293). -/
def encSyswr (g : Pred) (v : Src) (idx : BitVec 14) : List Nat :=
  oneWord (0x7D000000 + g.val * 2 ^ 21 + v.enc * 2 ^ 14 + idx.toNat) (v.lits)

/-- The words of MNOP (R317). -/
def encMnop : List Nat :=
  [0x00000000]

/-- The words of MZERO (R318). -/
def encMzero (mode : TileMode) (t : BitVec 3) : List Nat :=
  [0x01000000 + mode.code * 2 ^ 3 + t.toNat]

/-- The words of MMAC (R319). -/
def encMmac (bi : Bool) (ai : Bool) (ki : Bool) (w : Bool) (bid : BitVec 6) (aid : BitVec 6) (mem : BitVec 4) (t : BitVec 3) (kb : BitVec 11) (ar : BitVec 11) (br : BitVec 10) : List Nat :=
  [0x02000000 + boolBit bi * 2 ^ 22 + boolBit ai * 2 ^ 21 + boolBit ki * 2 ^ 20 + boolBit w * 2 ^ 19 + bid.toNat * 2 ^ 13 + aid.toNat * 2 ^ 7 + mem.toNat * 2 ^ 3 + t.toNat, kb.toNat * 2 ^ 21 + ar.toNat * 2 ^ 10 + br.toNat]

/-- The words of MBIN (R319). -/
def encMbin (xr : Bool) (bi : Bool) (ai : Bool) (ki : Bool) (w : Bool) (bid : BitVec 6) (aid : BitVec 6) (mem : BitVec 4) (t : BitVec 3) (kb : BitVec 11) (ar : BitVec 11) (br : BitVec 10) : List Nat :=
  [0x03000000 + boolBit xr * 2 ^ 23 + boolBit bi * 2 ^ 22 + boolBit ai * 2 ^ 21 + boolBit ki * 2 ^ 20 + boolBit w * 2 ^ 19 + bid.toNat * 2 ^ 13 + aid.toNat * 2 ^ 7 + mem.toNat * 2 ^ 3 + t.toNat, kb.toNat * 2 ^ 21 + ar.toNat * 2 ^ 10 + br.toNat]

/-- The words of MRENORM (R320). -/
def encMrenorm (n : BitVec 6) (right : Bool) (all : Bool) (row : BitVec 4) (t : BitVec 3) : List Nat :=
  [0x04000000 + n.toNat * 2 ^ 9 + boolBit right * 2 ^ 8 + boolBit all * 2 ^ 7 + row.toNat * 2 ^ 3 + t.toNat]

/-- The words of MEXPORT (R321). -/
def encMexport (dith : Bool) (did : BitVec 6) (t : BitVec 3) (dr : BitVec 12) (dc : BitVec 12) : List Nat :=
  [0x05000000 + boolBit dith * 2 ^ 9 + did.toNat * 2 ^ 3 + t.toNat, dr.toNat * 2 ^ 20 + dc.toNat * 2 ^ 8]

/-- The words of MWAIT (R312). -/
def encMwait (b : BitVec 4) : List Nat :=
  [0x06000000 + b.toNat]

/-- The words of MSIG (R312). -/
def encMsig (b : BitVec 4) : List Nat :=
  [0x07000000 + b.toNat]

/-- The words of MLOOP (R322). -/
def encMloop (len : BitVec 10) (p : Bool) (cnt : BitVec 12) : List Nat :=
  [0x08000000 + len.toNat * 2 ^ 13 + boolBit p * 2 ^ 12 + cnt.toNat]

/-- The words of MEND (R322). -/
def encMend : List Nat :=
  [0x09000000]

/-- The words of MPHASE (R323). -/
def encMphase (ph : BitVec 7) (id : BitVec 6) : List Nat :=
  [0x0A000000 + ph.toNat * 2 ^ 6 + id.toNat]

/-- The words of MSTEP (R325). -/
def encMstep (mask : BitVec 12) (on : Bool) (t : BitVec 3) : List Nat :=
  [0x0B000000 + mask.toNat * 2 ^ 4 + boolBit on * 2 ^ 3 + t.toNat]

/-- The words of a well-formed instruction, from the encoding tables of its entry, with C = 0; a step that has no words gives
none. -/
def encode (i : Instr) : List Nat :=
  match i with
  | .nop g => encNop g
  | .iadd g d a b => encIadd g d a b
  | .isub g d a b => encIsub g d a b
  | .imul g d a b => encImul g d a b
  | .imulh g d a b => encImulh g d a b
  | .nmulh g d a b => encNmulh g d a b
  | .ima g d a b => encIma g d a b
  | .imin g d a b => encImin g d a b
  | .imax g d a b => encImax g d a b
  | .nmin g d a b => encNmin g d a b
  | .nmax g d a b => encNmax g d a b
  | .isad g d a b => encIsad g d a b
  | .iadd64 g d a b => encIadd64 g d a b
  | .isub64 g d a b => encIsub64 g d a b
  | .imul64 g d a b => encImul64 g d a b
  | .imaw g d a b => encImaw g d a b
  | .and g d a b => encAnd g d a b
  | .or g d a b => encOr g d a b
  | .xor g d a b => encXor g d a b
  | .andn g d a b => encAndn g d a b
  | .shl g d a b => encShl g d a b
  | .shr g d a b => encShr g d a b
  | .sar g d a b => encSar g d a b
  | .sel g d a b => encSel g d a b
  | .tern g d a b e tt => encTern g d a b e tt
  | .fsh g d a b dir amt => encFsh g d a b dir amt
  | .pcnt g d a w => encPcnt g d a w
  | .clz g d a w => encClz g d a w
  | .brev g d a w => encBrev g d a w
  | .bfe g d a sx pos len => encBfe g d a sx pos len
  | .bfi g d a pos len => encBfi g d a pos len
  | .bperm g d a b e => encBperm g d a b e
  | .faddF32 g d a b => encFaddF32 g d a b
  | .fsubF32 g d a b => encFsubF32 g d a b
  | .fmulF32 g d a b => encFmulF32 g d a b
  | .fmaF32 g d a b => encFmaF32 g d a b
  | .fminF32 g d a b => encFminF32 g d a b
  | .fmaxF32 g d a b => encFmaxF32 g d a b
  | .faddH2 g d a b => encFaddH2 g d a b
  | .fmulH2 g d a b => encFmulH2 g d a b
  | .fmaH2 g d a b => encFmaH2 g d a b
  | .faddB2 g d a b => encFaddB2 g d a b
  | .fmulB2 g d a b => encFmulB2 g d a b
  | .fmaB2 g d a b => encFmaB2 g d a b
  | .icmp g w c p a b => encIcmp g w c p a b
  | .fcmp g c p a b => encFcmp g c p a b
  | .plop g p a b tt => encPlop g p a b tt
  | .fclass g d a w => encFclass g d a w
  | .dadd g d a b => encDadd g d a b
  | .dmul g d a b => encDmul g d a b
  | .dfma g d a b => encDfma g d a b
  | .dcmp g c p a b => encDcmp g c p a b
  | .fop g d a b pk fn ty rnd e => encFop g d a b pk fn ty rnd e
  | .frnd g d a x ty rnd => encFrnd g d a x ty rnd
  | .fsf g d a fn => encFsf g d a fn
  | .conv g d a ts tt rnd => encConv g d a ts tt rnd
  | .convb g d a tt len rnd e ph => encConvb g d a tt len rnd e ph
  | .convx g d a h k ty => encConvx g d a h k ty
  | .scaleb g d a tt len b2 rnd e ph => encScaleb g d a tt len b2 rnd e ph
  | .idot4 g d a b => encIdot4 g d a b
  | .fdot2 g d a b => encFdot2 g d a b
  | .nmaw g d a b => encNmaw g d a b
  | .mov g d a w => encMov g d a w
  | .movi g d imm => encMovi g d imm
  | .movhi g d imm => encMovhi g d imm
  | .movk g d w n => encMovk g d w n
  | .srd g d clr idx => encSrd g d clr idx
  | .swz g d a b mode n => encSwz g d a b mode n
  | .vote g d ps op => encVote g d ps op
  | .lred g d a ty op rnd => encLred g d a ty op rnd
  | .lscan g d a x ty op rnd => encLscan g d a x ty op rnd
  | .trsp g d a sz => encTrsp g d a sz
  | .part g n => encPart g n
  | .rep sb sa sd tot => encRep sb sa sd tot
  | .derx g d a coarse => encDerx g d a coarse
  | .dery g d a coarse => encDery g d a coarse
  | .qput g a q => encQput g a q
  | .qget g d q => encQget g d q
  | .jmp g off => encJmp g off
  | .jmpx g a link => encJmpx g a link
  | .call g off => encCall g off
  | .ret g => encRet g
  | .exit g => encExit g
  | .spawn g tgt vs n => encSpawn g tgt vs n
  | .cont g tgt n => encCont g tgt n
  | .reorder g a n => encReorder g a n
  | .yield g n => encYield g n
  | .bar g gang b => encBar g gang b
  | .gbar g idx => encGbar g idx
  | .wait g l s c t => encWait g l s c t
  | .trap g imm => encTrap g imm
  | .rett g => encRett g
  | .brk g imm => encBrk g imm
  | .time g d => encTime g d
  | .ld g d a acq sc sz => encLd g d a acq sc sz
  | .st g v a rel sc sz => encSt g v a rel sc sz
  | .lsp g d a sz => encLsp g d a sz
  | .ssp g v a sz => encSsp g v a sz
  | .ldlod g d a b lvl lreg e sz => encLdlod g d a b lvl lreg e sz
  | .sample g d a b fmt bilin e => encSample g d a b fmt bilin e
  | .atm g d a b op ty sc ord e => encAtm g d a b op ty sc ord e
  | .atms g d a b op ty e => encAtms g d a b op ty e
  | .rdm g a b op ty sc rel => encRdm g a b op ty sc rel
  | .vbmin g a b => encVbmin g a b
  | .pref g a l2 => encPref g a l2
  | .fence g k sc => encFence g k sc
  | .monwait g v a sc => encMonwait g v a sc
  | .txbegin g off => encTxbegin g off
  | .txend g => encTxend g
  | .txctlAbort g => encTxctlAbort g
  | .txctlTest g d => encTxctlTest g d
  | .qbind g port a q => encQbind g port a q
  | .cplwait g v a ext sc => encCplwait g v a ext sc
  | .cpltest g d a sc => encCpltest g d a sc
  | .hoist g q vs b tgt n any => encHoist g q vs b tgt n any
  | .hoistClose g q => encHoistClose g q
  | .binFlush g tgt => encBinFlush g tgt
  | .binCount g d tgt => encBinCount g d tgt
  | .rbox g d a b => encRbox g d a b
  | .rtri g d a b cull => encRtri g d a b cull
  | .rstkPush g a => encRstkPush g a
  | .rstkPop g d => encRstkPop g d
  | .rstkDepth g d => encRstkDepth g d
  | .rstkClear g => encRstkClear g
  | .resv g d a b fmt bl scl ten ph => encResv g d a b fmt bl scl ten ph
  | .rfree g a => encRfree g a
  | .accrd g d what fmt rnd t row half => encAccrd g d what fmt rnd t row half
  | .seq g a b e => encSeq g a b e
  | .sysrd g d idx => encSysrd g d idx
  | .syswr g v idx => encSyswr g v idx
  | .mnop => encMnop
  | .mzero mode t => encMzero mode t
  | .mmac bi ai ki w bid aid mem t kb ar br => encMmac bi ai ki w bid aid mem t kb ar br
  | .mbin xr bi ai ki w bid aid mem t kb ar br => encMbin xr bi ai ki w bid aid mem t kb ar br
  | .mrenorm n right all row t => encMrenorm n right all row t
  | .mexport dith did t dr dc => encMexport dith did t dr dc
  | .mwait b => encMwait b
  | .msig b => encMsig b
  | .mloop len p cnt => encMloop len p cnt
  | .mend => encMend
  | .mphase ph id => encMphase ph id
  | .mstep mask on t => encMstep mask on t
  | _ => []

/-- The instruction that the decoder reads from `nbits` bits `w` of the opcode table, the first word lowest; every bit above is
zero. A matrix word whose bits are not a thread instruction is read under the matrix stream map. -/
def decodeTableWord (nbits w : Nat) : Option Instr :=
  let v := w % 2 ^ nbits
  let w0 := fld v 0 32
  let w1 := fld v 32 32
  match decodeThread w0 (some w1) with
  | .ok i => some i
  | .error _ => match decodeMatrix w0 w1 with
    | .ok i => some i
    | .error _ => none

end Sys2Proof
end

