-- ==== Sys2Proof/Machine/Queues.lean ====
section
/-! DEFINITION. Queue registers and their ports (R52, R217, R253 to R259), notify and mailbox words toward threads (R261, R314), hoists
(R42, R271 to R273) and BIN (R285). -/

namespace Sys2Proof.Machine

/-! ## Bindings -/

/-- The bit of a hoist in the context's grants (R293). -/
def State.granted (s : State) (asid h : Nat) : Bool := bitOf (mget 0#32 s.hgrant (2 * asid + h / 32)).toNat (h % 32)

/-- Is a binding denied (R254)? -/
def State.portDenied (s : State) (t : Thread) (p : Port) (arg : Nat) : Bool :=
  let ens := isEnsign (s.coreOf t.wg)
  match p with
  | .hoistout => arg ≥ 64 || !s.granted (s.asidOf t.wg) arg
  | .hoistin => arg ≥ 64 || !s.granted (s.asidOf t.wg) arg || ens
  | .mailbox => arg ≠ 0 || ens || !((s.launchOfWg t.wg).map (·.isMatrix)).getD false
  | _ => arg ≠ 0

def State.updHoist (s : State) (h : Nat) (f : Hoist → Hoist) : State :=
  { s with hoists := if g : h < 64 then s.hoists.set h (f s.hoists[h]) else s.hoists }
def State.hoist (s : State) (h : Nat) : Hoist := s.hoists.toList.getD h ⟨[], false⟩

/-- A new binding takes the place of the old one (R255, R273). -/
def State.bind (s : State) (wg q : Nat) (p : Port) (arg : Nat) : State :=
  let s1 := (s.setQb wg q ⟨p, if p = .hoistout || p = .hoistin then arg else 0, []⟩).mailFlush wg
  let s2 := if p = .hoistout && (s1.hoist arg).closed && (s1.hoist arg).recs.isEmpty then
      s1.updHoist arg fun h => { h with closed := false } else s1
  let s3 := if p = .hoistin then s2.postOnce (.hoistDelivery arg) else s2
  if ((s3.wg? wg).map (·.cplWords)).getD [] ≠ [] then s3.postOnce (.notifyPush wg) else s3

/-- QBIND (R253 to R255). -/
def execQbind (g : Pred) (port : Port) (a : Src) (q : BitVec 4) (s : State) : Host.Outcome State Fault Refusal :=
  issued (.qbind g port a q) s fun s => s.consuming g [.s a] fun s' t =>
    let arg := (s.src t a).toNat
    if s'.portDenied t port arg then s'.trapHere t.uid 23 0 0 else (s'.bind t.wg q.toNat port arg).wgCheck t.wg

/-! ## Pushing -/

/-- The words of a command by port and code (R258). -/
def cmdLen (p : Port) (code : Nat) : Option Nat :=
  match p with
  | .copy => if code = 1 || code = 2 then some 8 else if code = 3 then some 12 else none
  | .gather => if code = 8 || code = 9 then some 12 else none
  | .coll => if 0x10 ≤ code && code ≤ 0x14 then some 10 else none
  | .halyard => if code = 0x20 then some 6 else none
  | _ => none

/-- The event in which a command runs. -/
def cmdEvent (id code : Nat) : Instr :=
  match code with
  | 1 => .copy id | 2 => .fill id | 3 => .tile id | 8 => .gather id | 9 => .scatter id
  | 0x10 => .allreduce id [] | 0x11 => .reduce id [] | 0x12 => .broadcast id [] | 0x13 => .allgather id []
  | 0x14 => .reducescatter id [] | _ => .graph id

def cmdCode (ws : List Word) : Nat := fld (ws.getD 0 0#32).toNat 26 6

/-- The queue of the graph that a workgroup's launch belongs to. -/
def State.queueOfWg (s : State) (wg : Nat) : Nat :=
  (((s.launchOfWg wg).bind fun l => s.graph? l.graph).map (·.queue)).getD 0

/-- The kernel node that a command makes wait: that of its owner, for a GRAPH command with JOIN (R283). -/
def State.joinOf (s : State) (wg : Nat) (ws : List Word) : Option (Nat × Nat) :=
  if cmdCode ws = 0x20 && bitOf (ws.getD 3 0#32).toNat 0 then (s.launchOfWg wg).map fun l => (l.graph, l.node) else none

/-- A command is complete at the port (R256, R259): C rises but for GRAPH, and the engine has it. The k-th collective of a group has number
k (R268). -/
def State.submit (s : State) (t : Thread) (core asid : Nat) (ws : List Word) : State :=
  let code := cmdCode ws
  let coll := 0x10 ≤ code && code ≤ 0x14
  let key := asid * 65536 + fld (ws.getD 1 0#32).toNat 0 16
  let k := if coll then mget 0 s.collSeq key else 0
  let s1 : State := if coll then { s with collSeq := mput 0 s.collSeq key (k + 1) } else s
  let s2 := if code = 0x20 then s1 else s1.updThr t.uid fun t => { t with cntC := t.cntC + 1 }
  let (id, s3) := s2.newId
  ({ s3 with cmds := s3.cmds ++ [⟨id, asid, .thread t.wg t.uid t.tid, core, ws, 0, 0, false, false, k,
    s.queueOfWg t.wg, s.joinOf t.wg ws⟩] } : State).post (cmdEvent id code)

/-- The words of a thread's command in progress at a port. -/
def Thread.partial' (t : Thread) (p : Port) : List Word := ((t.cmds.find? (·.1 == Port.num p)).map (·.2)).getD []
def Thread.setPartial (t : Thread) (p : Port) (ws : List Word) : Thread :=
  let rest := t.cmds.filter (·.1 != Port.num p)
  { t with cmds := if ws.isEmpty then rest else rest ++ [(Port.num p, ws)] }

/-- Would this word complete its command, one that raises C? -/
def Thread.lastWord (t : Thread) (p : Port) (w : Word) : Bool :=
  let ws := t.partial' p ++ [w]
  cmdLen p (cmdCode ws) == some ws.length

/-- QPUT to an engine port. -/
def State.enginePut (s : State) (t : Thread) (p : Port) (w : Word) : State :=
  let ws := t.partial' p ++ [w]
  if t.tx.isSome then s.illegalInTx t
  else if (cmdLen p (cmdCode ws)).isNone then s.trapHere t.uid 25 0 0
  else if !t.lastWord p w then s.updThr t.uid (·.setPartial p ws)
  else if !s.drained t.uid || (p != .halyard && t.cntC ≥ 63) then s.retry t.uid
  else ((s.release s.iss.core s.issAsid .dev).updThr t.uid (·.setPartial p [])).submit t s.iss.core s.issAsid ws

/-- The effect of a mailbox word (R314): each is an event; any other word is discarded. -/
def mailEvent (wg : Nat) (w : Word) : List Instr :=
  if w = 1#32 then [.resume wg] else if w = 2#32 then [.abandon wg] else if w = 3#32 then [.clrflags wg] else []

/-- QPUT (R217, R254); a helper lane pushes nothing (R138). -/
def execQput (g : Pred) (a : Src) (q : BitVec 4) (s : State) : Host.Outcome State Fault Refusal :=
  issued (.qput g a q) s fun s => s.over (s.realLanes g) fun s' t =>
    let b := s'.qbOf t.wg q.toNat
    let w := s.src t a
    match b.port with
    | .unbound => s'.trapHere t.uid 11 0 0
    | .cpl | .hoistout | .hoistin => s'.trapHere t.uid 12 0 0
    | .mailbox => if t.opPois (.s a) then s'.trapPoison t false [.s a] else s'.posts (mailEvent t.wg w)
    | p => if t.opPois (.s a) then s'.trapPoison t false [.s a] else s'.enginePut t p w

/-- QGET (R217): pops a word, or waits for one; in a helper lane 0 and no word (R138). -/
def execQget (g : Pred) (d : Dst) (q : BitVec 4) (s : State) : Host.Outcome State Fault Refusal :=
  issued (.qget g d q) s fun s => s.eachLane g fun s t =>
    if t.helper then s.updThr t.uid fun t => (t.wr d 0).trimLog
    else
      let b := s.qbOf t.wg q.toNat
      match b.port with
      | .unbound => s.trapHere t.uid 11 0 0
      | .cpl | .mailbox =>
          (match b.buf with
          | [] => s.retry t.uid
          | w :: rest =>
              let s1 := ((s.setQb t.wg q.toNat { b with buf := rest }).updThr t.uid fun t => (t.wr d w.2).trimLog).mailFlush t.wg
              if b.port = .cpl && ((s1.wg? t.wg).map (·.cplWords)).getD [] ≠ [] then s1.postOnce (.notifyPush t.wg) else s1)
      | _ => s.trapHere t.uid 12 0 0

/-- NOTIFY_PUSH (R261): waiting notify words move to the binding of port 4; without one they are discarded. -/
def execNotifyPush (wg : Nat) (s : State) : Host.Outcome State Fault Refusal :=
  .next (match s.wg? wg with
    | none => s
    | some w => match s.boundTo wg .cpl with
      | none => s.updWg wg fun w => { w with cplWords := [] }
      | some q =>
          let b := s.qbOf wg q
          let k := 16 - b.buf.length
          (s.setQb wg q { b with buf := b.buf ++ (w.cplWords.take k).map fun x => (0, x) }).updWg wg fun w => { w with
            cplWords := w.cplWords.drop k })

/-! ## Hoists -/

/-- HOIST (R271 to R273); helper lanes push nothing (R138). -/
def execHoist (g : Pred) (q : BitVec 4) (vs : Fin 120) (b : Src) (tgt : Target) (n : Fin 17) (any : Bool) (s : State) :
    Host.Outcome State Fault Refusal :=
  issued (.hoist g q vs b tgt n any) s fun s =>
    let os := (if any then [] else [.s b]) ++ tgt.opnds
    s.over (s.realLanes g) fun s' t =>
      let qb := s'.qbOf t.wg q.toNat
      let entry := s.entryOf t tgt
      if t.tx.isSome then s'.illegalInTx t
      else if qb.port = .unbound then s'.trapHere t.uid 11 0 0
      else if qb.port ≠ .hoistout then s'.trapHere t.uid 12 0 0
      else if os.any t.opPois then s'.trapPoison t false os
      else s'.toTarget t entry fun s' =>
        if (s'.hoist qb.arg).closed then s'.trapHere t.uid 26 0 0
        else if (s'.hoist qb.arg).recs.length ≥ 256 || !s'.drained t.uid || s'.iss.retried != s.iss.retried then s'.retry t.uid
        else
          let dest := if any then none else some (s.src t b).toNat
          let sd : Seed := ⟨false, entry, 0, t.payload vs.val n.val, 2, false, false, none⟩
          (((s'.release s.iss.core s.issAsid .dev).updHoist qb.arg fun h => { h with recs := h.recs ++ [⟨dest, sd, s.issAsid⟩] }).post
            (.hoistDelivery qb.arg)).irrevocable s.issAsid

/-- The workgroups that are bound for input to a hoist and run on their cores; one that is saved or halted receives nothing.
DESIGN CHOICE (notes/assumptions/64.md). -/
def State.hoistBound (s : State) (h : Nat) : List Wg :=
  s.wgs.filter fun w => w.state == .resident && w.queues.toList.any fun q => q.port == .hoistin && q.arg == h

/-- HOIST.close (R273). -/
def execHoistClose (g : Pred) (q : BitVec 4) (s : State) : Host.Outcome State Fault Refusal :=
  issued (.hoistClose g q) s fun s => s.over (s.realLanes g) fun s t =>
    let qb := s.qbOf t.wg q.toNat
    if t.tx.isSome then s.illegalInTx t
    else if qb.port = .unbound then s.trapHere t.uid 11 0 0
    else if qb.port ≠ .hoistout then s.trapHere t.uid 12 0 0
    else
      let s1 := s.updHoist qb.arg fun h => { h with closed := true }
      s1.over (s1.hoistBound qb.arg) fun s w => s.wgCheck w.id

/-- The workgroup that the record at the head of a hoist goes to (R42). -/
def State.hoistDest (s : State) (h : Nat) (r : HoistRec) : Option Wg :=
  match r.dest with
  | some i => (s.hoistBound h).find? fun w => BitVec.ofNat 32 w.index == BitVec.ofNat 32 i
  | none => (sortKey (fun (w : Wg) => [s.liveCount w.id, w.index, w.id]) (s.hoistBound h)).head?

/-- HOIST_DELIVERY (R42). -/
def execHoistDelivery (h : Nat) (s : State) : Host.Outcome State Fault Refusal :=
  .next (match (s.hoist h).recs with
    | [] => s
    | r :: rest => match s.hoistDest h r with
      | none => s
      | some w =>
          let s1 := (s.updHoist h fun x => { x with recs := rest }).updWg w.id fun w => { w with spawnCt := w.spawnCt + 1 }
          let s2 := (s1.acquire w.core (s1.asidOf w.id) .dev).placeUnit w.id r.seed.entry [{ r.seed with tid := w.spawnCt }]
          let s3 := (if rest.isEmpty then s2 else s2.post (.hoistDelivery h)).irrevocable (s1.asidOf w.id)
          s3.over (s3.hoistBound h) fun s w => s.wgCheck w.id)

/-! ## BIN (R285) -/

/-- The bins of a core for a workgroup and an entry. -/
def Bin.named (b : Bin) (core wg : Nat) (entry : DWord) : Bool := b.core == core && b.wg == wg && b.entry == entry

/-- BIN.flush. BIN is no consumer of poison (R402). -/
def execBinFlush (g : Pred) (tgt : Target) (s : State) : Host.Outcome State Fault Refusal :=
  issued (.binFlush g tgt) s fun s => s.eachLane g fun s' t =>
    let entry := s.entryOf t tgt
    s'.toTarget t entry fun s' =>
      let hit := fun (b : Bin) => b.named s.iss.core t.wg entry && b.due.isNone && b.lanes.any fun sd => !sd.empty
      let nums := (s'.bins.filter hit).map (·.num)
      let due := fun (b : Bin) => if hit b then { b with due := some s'.dlc } else b
      ({ s' with bins := s'.bins.map due } : State).over nums fun s n => s.postOnce (.binLaunch s.iss.core n)

/-- BIN.count. -/
def execBinCount (g : Pred) (d : Dst) (tgt : Target) (s : State) : Host.Outcome State Fault Refusal :=
  issued (.binCount g d tgt) s fun s => s.eachLane g fun s' t =>
    let entry := s.entryOf t tgt
    s'.toTarget t entry fun s' =>
      let mine := s'.bins.filter fun b => b.named s.iss.core t.wg entry
      let n := mine.foldl (fun n b => n + (b.lanes.filter fun sd => !sd.empty).length) 0
      s'.updThr t.uid fun t => (t.wr d (BitVec.ofNat 32 n)).trimLog

end Sys2Proof.Machine
end

