-- ==== Sys2Proof/Machine/Matrix.lean ====
section
/-! DEFINITION. The matrix datapath: operands from reservations and weight tiles (R295 to R303), accumulation into tiles (R304 to R309),
renormalisation and export (R320, R321), tile ports and ordered mode (R324, R325). -/

namespace Sys2Proof

/-- The element type of a format; b1 has none (R295). -/
def ResFmt.ty : ResFmt → Ty
  | .t6 => .t6 | .t8 => .t8 | .e4m3 => .e4m3 | .e5m2 => .e5m2 | .i8 => .i8 | .n8 => .n8 | .bf16 => .bf16 | .f16 => .f16
  | .f32 => .f32 | .f64 => .f64 | .b1 => .n8

/-- Bits of an element in the operand buffer (R296). -/
def ResFmt.bits : ResFmt → Nat
  | .bf16 | .f16 => 16 | .f32 => 32 | .f64 => 64 | .b1 => 1 | _ => 8

/-- Operand classes (R300). -/
inductive MClass where
  | narrow | half | wide | bit
deriving DecidableEq, Repr

def ResFmt.cls : ResFmt → MClass
  | .bf16 | .f16 => .half | .f32 | .f64 => .wide | .b1 => .bit | _ => .narrow

/-- Chunk depth K and tile width N (R300). -/
def MClass.k : MClass → Nat
  | .narrow => 32 | .half => 16 | .wide => 4 | .bit => 1024
def MClass.n : MClass → Nat
  | .wide => 16 | _ => 64

def MClass.modeOk (c : MClass) (m : TileMode) : Bool :=
  match c, m with
  | .narrow, .bfp48 | .narrow, .i32 | .half, .bfp48 | .wide, .f64 | .bit, .i32 => true
  | _, _ => false

end Sys2Proof

namespace Sys2Proof.Machine

/-! ## Elements -/

/-- An operand as fetched: its rows of values, whether a reserved code (R82) or a signalling NaN (R65) was met, how many subnormals were
flushed (R309). -/
structure Operand where
  rows : List (List FVal)
  nv   : Bool
  sub  : Nat

/-- An element at operand fetch (R65, R80 to R82): value, reserved code or signalling NaN met, subnormal flushed. -/
def fetchElem (f : ResFmt) (hasNan : Bool) (c : Nat) : FVal × Bool × Bool :=
  let ty := f.ty
  let v := if ty.isInt then ofInt (intOf ty c) else decodeF ty (c % 2 ^ ty.width)
  match f with
  | .t6 | .t8 => if v.isNan then (if hasNan then .nan false else .zero false, true, false) else (v, false, false)
  | .bf16 | .f16 =>
      if fld c ty.mw ty.ew = 0 && fld c 0 ty.mw ≠ 0 then (.zero (bitOf c 15), false, true)
      else (if v.isNan then .nan false else v, v.isSNan, false)
  | _ => (v, false, false)

/-- An element times its block scale (R72, R301). -/
def scaleV (c : Nat) (v : FVal) : FVal :=
  if c = 255 then .nan false
  else match v with
    | .fin n m => .fin n { m with e := m.e + ((c : Int) - 127) }
    | x => x

def mkOperand (rows : List (List (FVal × Bool × Bool))) : Operand :=
  ⟨rows.map fun r => r.map (·.1), rows.any fun r => r.any (·.2.1), (rows.flatMap id).foldl (fun n e => n + boolNat e.2.2) 0⟩

/-! ## Reservations -/

/-- The element area in bytes, and whether a row lies in it (R296). -/
def Resv.area (r : Resv) : Nat := if r.sc then r.soff * 128 else r.count * 128
def Resv.rowOk (r : Resv) (row : Nat) : Bool := (row + 1) * r.rl * r.fmt.bits ≤ r.area * 8

/-- The place of an element's scale, from the start of the workgroup's share. -/
def Resv.scaleAt (r : Resv) (row col : Nat) : Nat := (r.base + r.soff) * 128 + row * (r.rl / r.bl.elems) + col / r.bl.elems
def Resv.scaleOk (r : Resv) (row col : Nat) : Bool := !r.sc || r.scaleAt row col < (r.base + r.count) * 128

/-- The code of an element, and its scale code (127 without scales). -/
def Wg.elemAt (w : Wg) (r : Resv) (row col : Nat) : Nat :=
  let i := row * r.rl + col
  if r.fmt = .b1 then fld (mget 0#8 w.obuf (r.base * 128 + i / 8)).toNat (i % 8) 1
  else
    let n := r.fmt.bits / 8
    leNat (mgets 0#8 w.obuf (r.base * 128 + i * n) n)
def Wg.scaleOf (w : Wg) (r : Resv) (row col : Nat) : Nat :=
  if r.sc then (mget 0#8 w.obuf (r.scaleAt row col)).toNat else 127

/-- Do `n` rows from `row` and `k` columns from `col` lie in a reservation? -/
def Resv.covers (r : Resv) (row n col k : Nat) : Bool :=
  r.rowOk (row + n - 1) && col + k ≤ r.rl && r.scaleOk (row + n - 1) (col + k - 1)

/-- An operand of `n` rows and `k` columns from a reservation. -/
def Wg.operand (w : Wg) (r : Resv) (hasNan : Bool) (row n col k : Nat) : Operand :=
  mkOperand ((upFrom row n).map fun i =>
    let sc := w.scaleOf r i col
    (upFrom col k).map fun c =>
      let e := fetchElem r.fmt hasNan (w.elemAt r i c)
      (scaleV sc e.1, e.2))

/-- A row of bits (R307). -/
def Wg.bitRow (w : Wg) (r : Resv) (row col : Nat) : List Bool := (upFrom col 1024).map fun c => w.elemAt r row c == 1

/-! ## Weight tiles (R302, R303) -/

/-- A weight tile's header: format, scheme, scales; `none` for a header that breaks R303. -/
structure WHead where
  fmt    : ResFmt
  scheme : Nat
  sc     : Bool

def wfmtOf (c : Nat) : Option ResFmt :=
  match c with
  | 0 => some .t6 | 1 => some .t8 | 2 => some .e4m3 | 3 => some .e5m2 | 4 => some .i8 | 5 => some .n8 | 6 => some .bf16 | 7 => some .f16
  | 0xA => some .b1 | _ => none

def wheadOf (b : List Byte) : Option WHead :=
  let byte := fun (i : Nat) => (b.getD i 0#8).toNat
  match wfmtOf (byte 0) with
  | none => none
  | some f =>
      let ok := byte 1 ≤ 3 && byte 2 ≤ 1 && ((upFrom 3 13).all fun i => byte i == 0) && (f != .b1 || byte 1 == 0)
        && (byte 2 == 0 || byte 0 ≤ 3)
      if ok then some ⟨f, byte 1, byte 2 == 1⟩ else none

def WHead.sparse (h : WHead) : Bool := h.scheme % 2 == 1
def WHead.book (h : WHead) : Bool := h.scheme ≥ 2
/-- Stored values, and the bytes of each section in order. -/
def WHead.v (h : WHead) : Nat := if h.sparse then 32 * h.fmt.cls.k else 64 * h.fmt.cls.k
def WHead.scalesSz (h : WHead) : Nat := if h.sc then 64 else 0
def WHead.idxSz (h : WHead) : Nat := if h.sparse then 8 * h.fmt.cls.k else 0
def WHead.bookSz (h : WHead) : Nat := if h.book then h.v / 128 * 16 * (h.fmt.bits / 8) else 0
def WHead.valsSz (h : WHead) : Nat := if h.book then h.v / 2 else h.v * h.fmt.bits / 8
def WHead.size (h : WHead) : Nat := roundUp (16 + h.scalesSz + h.idxSz + h.bookSz + h.valsSz) 128

/-- A nibble of a section, the lower entry in the low nibble. -/
def nibble (b : List Byte) (i : Nat) : Nat := fld (b.getD (i / 2) 0#8).toNat (4 * (i % 2)) 4

/-- The two kept positions of a group of a column. -/
def WHead.kept (h : WHead) (b : List Byte) (j g : Nat) : Nat × Nat :=
  let x := nibble (b.drop (16 + h.scalesSz)) (j * (h.fmt.cls.k / 4) + g)
  (x % 4, x / 4)

/-- Does every group keep its positions in ascending order? -/
def WHead.keptOk (h : WHead) (b : List Byte) : Bool :=
  !h.sparse || (upFrom 0 64).all fun j => (upFrom 0 (h.fmt.cls.k / 4)).all fun g => (h.kept b j g).1 < (h.kept b j g).2

/-- The code of stored value `v`. -/
def WHead.stored (h : WHead) (b : List Byte) (v : Nat) : Nat :=
  let n := h.fmt.bits / 8
  let books := b.drop (16 + h.scalesSz + h.idxSz)
  let vals := books.drop h.bookSz
  if h.book then
    let c := nibble vals v
    leNat (books.drop ((v / 128 * 16 + c) * n) |>.take n)
  else if h.fmt = .b1 then fld (vals.getD (v / 8) 0#8).toNat (v % 8) 1
  else leNat (vals.drop (v * n) |>.take n)

/-- The code of element k of column j; `none` for a position that a sparse scheme leaves zero. -/
def WHead.code (h : WHead) (b : List Byte) (j k : Nat) : Option Nat :=
  let kk := h.fmt.cls.k
  if !h.sparse then some (h.stored b (j * kk + k))
  else
    let (p, q) := h.kept b j (k / 4)
    let base := j * (kk / 2) + 2 * (k / 4)
    if k % 4 = p then some (h.stored b base) else if k % 4 = q then some (h.stored b (base + 1)) else none

def WHead.operand (h : WHead) (b : List Byte) (hasNan : Bool) : Operand :=
  mkOperand ((upFrom 0 64).map fun j =>
    let sc := if h.sc then (b.getD (16 + j) 0#8).toNat else 127
    (upFrom 0 h.fmt.cls.k).map fun k => match h.code b j k with
      | some c => let e := fetchElem h.fmt hasNan c; (scaleV sc e.1, e.2)
      | none => (scaleV sc (.zero false), false, false))

def WHead.bitRow (h : WHead) (b : List Byte) (j : Nat) : List Bool := (upFrom 0 1024).map fun k => h.code b j k == some 1

/-! ## Exact sums -/

/-- A sum of products: m × 2^e, with the special values among its terms (R306). -/
structure MSum where
  m  : Int
  e  : Int
  nan  : Bool
  pinf : Bool
  ninf : Bool
  nv   : Bool

def MSum.zero : MSum := ⟨0, 0, false, false, false, false⟩

/-- Adds m × 2^e exactly. -/
def MSum.add (s : MSum) (m e : Int) : MSum :=
  if m = 0 then s
  else if s.m = 0 then { s with m := m, e := e }
  else
    let u := min s.e e
    { s with m := s.m * (2 ^ (s.e - u).toNat : Nat) + m * (2 ^ (e - u).toNat : Nat), e := u }

/-- Adds one product. -/
def MSum.term (s : MSum) (a b : FVal) : MSum :=
  match a, b with
  | .nan _, _ | _, .nan _ => { s with nan := true }
  | .fin n v, .fin n' v' =>
      s.add (if n != n' then -((v.m * v'.m : Nat) : Int) else (v.m * v'.m : Nat)) (v.e + v'.e)
  | x, y =>
      if x.isZero || y.isZero then { s with nan := true, nv := true }
      else if x.sign != y.sign then { s with ninf := true } else { s with pinf := true }

def dotSum (a b : List FVal) : MSum := (a.zip b).foldl (fun s p => s.term p.1 p.2) .zero

/-- trunc(s / 2^E), and floor(log2 |s|) of a nonzero sum. -/
def MSum.trunc (s : MSum) (e : Int) : Int :=
  if s.e ≥ e then s.m * (2 ^ (s.e - e).toNat : Nat) else Int.tdiv s.m (2 ^ (e - s.e).toNat : Nat)
def MSum.lg (s : MSum) : Int := (Nat.log2 s.m.natAbs : Int) + s.e

/-- round-half-even(m / 2^k). -/
def rhe (m : Int) (k : Nat) : Int :=
  let d : Nat := 2 ^ k
  let q := m.natAbs / d
  let r := m.natAbs % d
  let q' := if 2 * r > d || (2 * r = d && q % 2 = 1) then q + 1 else q
  if m < 0 then -(q' : Int) else q'

/-! ## BFP48 rows (R304 to R306) -/

def Bfp.m : Bfp → Int
  | .fin m => m
  | _ => 0
def Bfp.isFin : Bfp → Bool
  | .fin _ => true
  | _ => false

/-- The special outcome of a column (R306), with NV for infinities that oppose each other. -/
def outcome (s : MSum) (c : Bfp) : Bfp × Bool :=
  let p := s.pinf || c == .pinf
  let n := s.ninf || c == .ninf
  if p && n then (.nan, true)
  else if c = .nan || s.nan then (.nan, s.nv)
  else if p then (.pinf, s.nv) else if n then (.ninf, s.nv) else (.fin 0, s.nv)

def bfpMax : Int := 140737488355327

/-- The loop of R305: mantissas, E, aligned addends, renormalisation steps, overflow. -/
def bfpAlign (ss : List MSum) (fin : List Bool) : Nat → Int → List Int → List Int × Int × List Int × Nat × Bool
  | n, e, ms =>
      let as := (ss.zip fin).map fun p => if p.2 then p.1.trunc e else 0
      let past := fun (m a : Int) => decide ((m + a).natAbs > bfpMax.natAbs)
      let bad := ((ms.zip as).zip fin).any fun p => p.2 && past p.1.1 p.1.2
      if !bad then (ms, e, as, 0, false)
      else match n with
        | 0 =>
            let hit := fun (p : (Int × Int) × Bool) => p.2 && past p.1.1 p.1.2
            let l := (ms.zip as).zip fin
            (l.map fun p => if hit p then (if p.1.1 + p.1.2 < 0 then -bfpMax else bfpMax) else p.1.1, e,
              l.map fun p => if hit p then 0 else p.1.2, 0, true)
        | n + 1 =>
            let r := bfpAlign ss fin n (e + 8) (ms.map fun m => rhe m 8)
            (r.1, r.2.1, r.2.2.1, r.2.2.2.1 + 1, r.2.2.2.2)

/-- One chunk into one BFP48 row (R305): the row, renormalisation events, flags. -/
def bfpRow (row : TileRow) (ss : List MSum) : TileRow × Nat × Flags :=
  let sp := (ss.zip row.cols).map fun p => outcome p.1 p.2
  let fin := sp.map fun p => p.1.isFin
  let fl : Flags := if sp.any (·.2) then fNV else 0
  let big := (((ss.zip fin).filter fun p => p.2 && p.1.m != 0).map fun p => p.1.lg)
  let start : Option Int := if !row.empty then some row.e else match big with
    | [] => none
    | x :: xs => some (xs.foldl max x - 38)
  let put := fun (ms : List Int) => (sp.zip ms).map fun p => match p.1.1 with
    | .fin _ => Bfp.fin p.2
    | c => c
  match start with
  | none => ({ row with cols := put (row.cols.map (·.m)) }, 0, fl)
  | some e0 =>
      let r := bfpAlign ss fin 6 e0 (row.cols.map (·.m))
      ({ row with
          empty := false, e := r.2.1, ovf := row.ovf || r.2.2.2.2
          cols := put ((r.1.zip r.2.2.1).map fun p => p.1 + p.2) },
        r.2.2.2.1, if r.2.2.2.2 then fl ||| fOF else fl)

/-- H of a row (R304). -/
def TileRow.head (r : TileRow) : Int :=
  let top := (r.cols.filter (·.isFin)).foldl (fun n c => max n c.m.natAbs) 0
  if top = 0 then 46 else 46 - (Nat.log2 top : Int)

/-! ## I32 and F64 rows (R307, R308) -/

/-- Adds integers to an I32 row; a column without one adds 0 and sets OVF. -/
def i32Row (row : TileRow) (as : List (Option Int)) : TileRow :=
  let step := (row.vals.zip as).map fun p =>
    let x := signedOf 32 p.1.toNat
    match p.2 with
    | none => (x, true)
    | some a => (x + a, decide (x + a < -(2 ^ 31)) || decide (x + a ≥ 2 ^ 31))
  { row with vals := step.map fun p => BitVec.ofInt 64 (p.1 % 2 ^ 32), ovf := row.ovf || step.any (·.2) }

def i32Sum (s : MSum) : Option Int := if s.nan || s.pinf || s.ninf then none else some (s.trunc 0)

/-- d plus the products, exactly, rounded once. -/
def f64Sum (d : Nat) (a b : List FVal) : Nat × Flags :=
  let ps := (a.zip b).map fun p => mulV p.1 p.2
  let r := sumV (decodeF .f64 d :: ps.map (·.1))
  finish .f64 .rn 0 (r.1, ps.foldl (fun fl p => fl ||| p.2) r.2)

def f64Row (row : TileRow) (a : List FVal) (b : List (List FVal)) : TileRow × Flags :=
  let rs := (row.vals.zip b).map fun p => f64Sum p.1.toNat a p.2
  ({ row with vals := rs.map fun r => BitVec.ofNat 64 r.1 }, rs.foldl (fun f r => f ||| r.2) 0)

/-! ## Tiles -/

/-- A row after MZERO (R318). -/
def TileRow.zero (m : TileMode) : TileRow :=
  match m with
  | .bfp48 => ⟨true, 0, false, List.replicate 64 (.fin 0), []⟩
  | .i32 => ⟨false, 0, false, [], List.replicate 64 0⟩
  | .f64 => ⟨false, 0, false, [], List.replicate 16 0⟩

def Tile.zeroed (t : Tile) (m : TileMode) : Tile :=
  { t with mode := m, rows := List.replicate 16 (.zero m), rcnt := 0, flush := 0 }

/-- A tile as placement leaves it (R294). -/
def Tile.fresh : Tile := ⟨.bfp48, List.replicate 16 (.zero .bfp48), 0, 0, false, 0, [], [], false⟩

def sat (cap n : Nat) : Nat := min cap n

/-- One chunk of float or integer products into a tile: the tile, events, flags. -/
def Tile.mac (t : Tile) (a b : Operand) : Tile × Nat × Flags :=
  let fl0 : Flags := if a.nv || b.nv then fNV else 0
  let rows := (t.rows.zip a.rows).map fun p =>
    match t.mode with
    | .bfp48 => bfpRow p.1 (b.rows.map (dotSum p.2))
    | .i32 =>
        let ss := (b.rows.map (dotSum p.2)).map i32Sum
        (i32Row p.1 ss, 0, if ss.any (·.isNone) then fNV else 0)
    | .f64 => let r := f64Row p.1 p.2 b.rows; (r.1, 0, r.2)
  let n := rows.foldl (fun n r => n + r.2.1) 0
  ({ t with rows := rows.map (·.1), rcnt := sat 65535 (t.rcnt + n), flush := sat 4294967295 (t.flush + a.sub + b.sub) }, n,
    rows.foldl (fun f r => f ||| r.2.2) fl0)

/-- One chunk of bits into an I32 tile (R307). -/
def Tile.bin (t : Tile) (xr : Bool) (a b : List (List Bool)) : Tile :=
  { t with rows := (t.rows.zip a).map fun p => i32Row p.1 (b.map fun c =>
    some (((p.2.zip c).filter fun q => if xr then q.1 != q.2 else q.1 && q.2).length : Nat)) }

/-- MRENORM on one row (R320). -/
def TileRow.renorm (r : TileRow) (right : Bool) (n : Nat) : TileRow :=
  let each := fun (f : Int → Int) => r.cols.map fun c => match c with | .fin m => Bfp.fin (f m) | c => c
  if r.empty then r
  else if right then
    (if r.e + n > 2047 then { r with ovf := true } else { r with cols := each fun m => rhe m n, e := r.e + n })
  else if (r.cols.filter (·.isFin)).all fun c => c.m == 0 then { r with empty := true, e := 0 }
  else if r.head ≤ 8 then r
  else
    let k := (min (r.head - 8) (r.e + 2048)).toNat
    { r with cols := each fun m => m * (2 ^ k : Nat), e := r.e - k }

/-- The exact value of an element (R304). -/
def Tile.value (t : Tile) (row col : Nat) : FVal :=
  let r := t.rows.getD row (.zero t.mode)
  match t.mode with
  | .bfp48 => match r.cols.getD col (.fin 0) with
      | .nan => .nan false | .pinf => .inf false | .ninf => .inf true
      | .fin m => if r.empty then .zero false else .fin (decide (m < 0)) (.mk2 m.natAbs r.e)
  | .i32 => ofInt (signedOf 32 (r.vals.getD col 0).toNat)
  | .f64 => decodeF .f64 (r.vals.getD col 0).toNat

def Tile.cols (t : Tile) : Nat := if t.mode = .f64 then 16 else 64

/-! ## Tile ports (R324, R325) -/

def State.updTile (s : State) (wg t : Nat) (f : Tile → Tile) : State :=
  s.updSeq wg fun q => { q with tiles := ((upFrom 0 q.tiles.length).zip q.tiles).map fun p => if p.1 = t then f p.2 else p.2 }
def State.tile (s : State) (wg t : Nat) : Tile := (((s.seq? wg).map (·.tiles)).getD []).getD t .fresh

/-- Raises flags in a sequencer (R309). -/
def State.seqRaise (s : State) (wg : Nat) (fl : Flags) : State := s.updSeq wg fun q => { q with flags := q.flags ||| fl }

/-- The B operand of an MMAC or MBIN: from a reservation, or a weight tile's header and bytes. -/
inductive BSrc where
  | res (r : Resv) (row : Nat) | wt (h : WHead) (b : List Byte)

def BSrc.cls : BSrc → MClass
  | .res r _ => r.fmt.cls
  | .wt h _ => h.fmt.cls

/-- Where B comes from, or the trap cause (R302, R303, R319). -/
def Wg.bsrc (w : Wg) (q : Seq) (useW bi : Bool) (bid br idx : Nat) : Except Nat BSrc :=
  let step := if bi then idx else 0
  if !useW then
    match w.resv.find? (·.id == bid) with
    | none => .error 2
    | some r => .ok (.res r (r.fmt.cls.n * (br + step)))
  else
    let off := 128 * br
    if off + 16 > 131072 then .error 2
    else match wheadOf (mgets 0#8 q.wbuf off 16) with
      | none => .error 4
      | some h0 =>
          let at' := off + step * h0.size
          if at' + 16 > 131072 then .error 2
          else match wheadOf (mgets 0#8 q.wbuf at' 16) with
            | none => .error 4
            | some h =>
                if at' + h.size > 131072 then .error 2
                else
                  let b := mgets 0#8 q.wbuf at' h.size
                  if h.keptOk b then .ok (.wt h b) else .error 4

/-- What MMAC and MBIN ask for (R319). -/
structure Chunk where
  isBin : Bool
  xr   : Bool
  bi   : Bool
  ai   : Bool
  ki   : Bool
  w    : Bool
  bid  : Nat
  aid  : Nat
  mem  : Nat
  t    : Nat
  kb   : Nat
  ar   : Nat
  br   : Nat

def chunkOf : Instr → Option Chunk
  | .mmac bi ai ki w bid aid mem t kb ar br =>
      some ⟨false, false, bi, ai, ki, w, bid.toNat, aid.toNat, mem.toNat, t.toNat, kb.toNat, ar.toNat, br.toNat⟩
  | .mbin xr bi ai ki w bid aid mem t kb ar br =>
      some ⟨true, xr, bi, ai, ki, w, bid.toNat, aid.toNat, mem.toNat, t.toNat, kb.toNat, ar.toNat, br.toNat⟩
  | _ => none

/-- The checks of a chunk for a tile of a mode: A, B and its columns, or the trap cause. -/
def Wg.chunkSrc (w : Wg) (q : Seq) (c : Chunk) (idx : Nat) (mode : TileMode) : Except Nat (Resv × BSrc × Nat × Nat) :=
  match w.resv.find? (·.id == c.aid) with
  | none => .error 2
  | some ra => match w.bsrc q c.w c.bi c.bid c.br idx with
    | .error e => .error e
    | .ok b =>
        let cls := ra.fmt.cls
        let row := 16 * (c.ar + if c.ai then idx else 0)
        let col := cls.k * (c.kb + if c.ki then idx else 0)
        let bOk := match b with
          | .res rb r => rb.covers r cls.n col cls.k
          | .wt .. => true
        if cls ≠ b.cls || (cls == .bit) != c.isBin || !cls.modeOk mode then .error 3
        else if !ra.covers row 16 col cls.k || !bOk then .error 2
        else .ok (ra, b, row, col)

/-- Applies one arrival to its tile: the tile, its events, the flags for the issuing sequencer, or a trap cause. It reads the reservations
that it named when it was executed, freed or not (R298). DEDUCED (notes/assumptions/42.md). -/
def Wg.apply (w : Wg) (q : Seq) (a : Arrival) (t : Tile) : Except Nat (Tile × Nat × Flags) :=
  match a.instr with
  | .mzero mode _ => .ok (t.zeroed mode, 0, 0)
  | .mrenorm n right all row _ =>
      if t.mode ≠ .bfp48 then .error 3
      else .ok ({ t with rows := ((upFrom 0 16).zip t.rows).map fun p =>
        if all || p.1 = row.toNat then p.2.renorm right n.toNat else p.2 }, 0, 0)
  | .mstep mask on _ => .ok ({ t with ordered := on, mask := mask.toNat, pos := [] }, 0, 0)
  | i => match chunkOf i with
    | none => .ok (t, 0, 0)
    | some c => match { w with resv := a.resv }.chunkSrc q c a.idx t.mode with
      | .error e => .error e
      | .ok (ra, b, row, col) =>
          let hasNan := t.mode != .i32
          if c.isBin then
            let ar := (upFrom row 16).map fun r => w.bitRow ra r col
            let br := (upFrom 0 64).map fun j => match b with
              | .res rb r => w.bitRow rb (r + j) col
              | .wt h bs => h.bitRow bs j
            .ok (t.bin c.xr ar br, 0, 0)
          else
            let k := ra.fmt.cls.k
            let ao := w.operand ra hasNan row 16 col k
            let bo := match b with
              | .res rb r => w.operand rb hasNan r ra.fmt.cls.n col k
              | .wt h bs => h.operand bs hasNan
            .ok (t.mac ao bo)

/-- Does the A reservation of a chunk trap on renormalisation events (R295)? -/
def Arrival.eventTrap (a : Arrival) : Bool :=
  match chunkOf a.instr with
  | some c => ((a.resv.find? (·.id == c.aid)).map (·.ten)).getD false
  | none => false

/-- The arrival of a port that may apply now (R325): the next contributor's chunk, or, between steps, the first of the others. -/
def Tile.next (t : Tile) : Option Arrival :=
  if !t.ordered then t.waiting.head?
  else
    let members := setBits 12 t.mask
    let turn := members.find? fun m => !t.pos.contains m
    t.waiting.find? fun a =>
      if (chunkOf a.instr).isSome && members.contains a.member then some a.member == turn else t.pos.isEmpty

/-- The port moves past an arrival that has applied. -/
def Tile.pass (t : Tile) (a : Arrival) : Tile :=
  let t1 := { t with waiting := t.waiting.erase a }
  if !t.ordered || (chunkOf a.instr).isNone || !(setBits 12 t.mask).contains a.member then t1
  else
    let pos := t.pos ++ [a.member]
    { t1 with pos := if pos.length = (setBits 12 t.mask).length then [] else pos }

/-- The word that ends a loop body has executed: back to the start, or out of the loop (R322). -/
def Seq.loopBack (q : Seq) : Nat → Seq
  | 0 => q
  | n + 1 => match q.loops with
    | [] => q
    | l :: rest =>
        if q.pc ≠ l.stop then q
        else if l.left > 1 then { q with pc := l.start, idx := q.idx + 1, loops := { l with left := l.left - 1 } :: rest }
        else { q with idx := l.saved, loops := rest }.loopBack n

/-- A sequencer stands at an instruction that has had no effect. -/
def Seq.backTo (q : Seq) (a : Arrival) : Seq := { q with pc := a.place, idx := a.idx, loops := a.loops }

/-- Applies one arrival at tile `t` of workgroup `own`. Its sequencer goes on, or traps: before the effect, so that the arrival does not count, with the offending word, after a
renormalisation event with the next word. A stream that was abandoned ends (R314, R315). -/
def State.applyArrival (s : State) (own t : Nat) (a : Arrival) : State :=
  let goOn := fun (s : State) =>
    let s1 := s.updSeq a.wg fun q => if q.wait then { q with st := .running, wait := false } else q
    if ((s1.seq? a.wg).map (·.drop)).getD false then s1.seqEnd a.wg else s1
  match s.wg? a.wg, s.seq? a.wg with
  | some w, some q =>
      (match w.apply q a (s.tile own t) with
      | .error c =>
          let s1 := ((s.updTile own t fun x => { x with waiting := x.waiting.erase a }).updSeq a.wg (·.backTo a)).seqTrap a.wg c a.place
          if q.drop then s1.seqEnd a.wg else s1
      | .ok (x, n, fl) =>
          let y := match a.instr with
            | .mstep .. => { x with waiting := x.waiting.erase a }
            | _ => x.pass a
          let s1 := goOn ((s.updTile own t fun _ => y).seqRaise a.wg fl)
          if n > 0 && a.eventTrap && ((s1.seq? a.wg).map (·.cur.isSome)).getD false then
            let s2 := s1.updSeq a.wg (·.loopBack 5)
            s2.seqTrap a.wg 6 (((s2.seq? a.wg).map (·.pc)).getD 0)
          else s1)
  | _, _ => s.updTile own t fun x => x.pass a

/-- Another arrival may now apply. -/
def State.portCheck (s : State) (own t : Nat) : State :=
  if (s.tile own t).next.isSome then s.postOnce (.orderedStepApply own t) else s

/-- An arrival reaches a tile port: it applies, or it waits and its sequencer stalls on it. -/
def State.tileArrive (s : State) (own t : Nat) (a : Arrival) : State :=
  let s1 := s.updTile own t fun x => { x with waiting := x.waiting ++ [a] }
  if (s1.tile own t).next = some a then (s1.applyArrival own t a).portCheck own t
  else (s1.updSeq a.wg fun q => { q with st := .stalled, wait := true }).portCheck own t

/-- Every arrival that may apply at a port does, up to `n` of them. -/
def State.portDrain (s : State) (own t : Nat) : Nat → State
  | 0 => s
  | n + 1 => match (s.tile own t).next with
    | none => s
    | some a => (s.applyArrival own t a).portDrain own t n

/-- What still waits at the ports of a workgroup is withdrawn, and its sequencers stand at those instructions (R316): each has then taken its
whole effect or none. -/
def State.portWithdraw (s : State) (own : Nat) : State :=
  s.over (upFrom 0 8) fun s t =>
    let s1 := s.portDrain own t (s.tile own t).waiting.length
    (s1.over (s1.tile own t).waiting fun s a => s.updSeq a.wg fun q =>
      { (if q.wait then q.backTo a else q) with wait := false, st := if q.wait then .running else q.st }).updTile own t fun x =>
        { x with waiting := [] }

/-- ORDERED_STEP_APPLY (R325). -/
def execOrderedStepApply (wg t : Nat) (s : State) : Host.Outcome State Fault Refusal :=
  .next (match (s.tile wg t).next with
    | none => s
    | some a => (s.applyArrival wg t a).portCheck wg t)

end Sys2Proof.Machine
end

