-- ==== Sys2Proof/Machine/MatrixInstr.lean ====
section
/-! DEFINITION. Reservations, stream submission and tile reads by threads (R297, R298, R310, R326), the matrix stream instructions
(R317 to R325), and the mailbox commands (R314). The sequencer that executes is that of workgroup `seqWg`; its SEQPC already stands at the
next word. -/

namespace Sys2Proof.Machine

/-! ## Thread instructions -/

/-- Bits of a block length field, and the record that RESV makes (R295). -/
def resvRec (id : Nat) (a b : Word) (fmt : ResFmt) (bl : BlkLen) (sc ten : Bool) (ph : Nat) : Resv :=
  ⟨id, fld a.toNat 0 11, fld a.toNat 11 12, fmt, bl, sc, 32 * fld b.toNat 0 11, fld b.toNat 11 11, ten, ph⟩

/-- The operand limits of RESV (R297). -/
def resvBad (r : Resv) (a b : Word) (lines : Nat) : Bool :=
  fld a.toNat 23 9 ≠ 0 || fld b.toNat 22 10 ≠ 0 || r.count = 0 || r.base + r.count > lines || r.rl = 0
    || (r.sc && (!(r.fmt == .t6 || r.fmt == .t8 || r.fmt == .e4m3 || r.fmt == .e5m2) || r.soff = 0 || r.soff ≥ r.count || r.rl % r.bl.elems ≠ 0))
    || (!r.sc && r.soff ≠ 0)

/-- RESV (R297). -/
def execResv (g : Pred) (d : Dst) (a b : Src) (fmt : ResFmt) (bl : BlkLen) (scl ten : Bool) (ph : BitVec 7) (s : State) :
    Host.Outcome State Fault Refusal :=
  issued (.resv g d a b fmt bl scl ten ph) s fun s => s.consuming g [.s a, .s b] fun s' t =>
    let lines := ((s'.launchOfWg t.wg).map (·.obuf)).getD 0
    let held := ((s'.wg? t.wg).map (·.resv)).getD []
    let rec' := fun id => resvRec id (s.src t a) (s.src t b) fmt bl scl ten ph.toNat
    if resvBad (rec' 0) (s.src t a) (s.src t b) lines then s'.trapHere t.uid 27 0 0
    else match (upFrom 0 64).find? fun n => held.all fun r => r.id != n with
      | none => s'.updThr t.uid fun t => (t.wr d 0xFFFFFFFF#32).trimLog
      | some id => (s'.updWg t.wg fun w => { w with resv := w.resv ++ [rec' id] }).updThr t.uid fun t => (t.wr d (BitVec.ofNat 32 id)).trimLog

/-- RFREE (R298). -/
def execRfree (g : Pred) (a : Src) (s : State) : Host.Outcome State Fault Refusal :=
  issued (.rfree g a) s fun s => s.consuming g [.s a] fun s' t =>
    let id := (s.src t a).toNat
    if ((s'.wg? t.wg).map (·.resv)).getD [] |>.any (·.id == id) then
      s'.updWg t.wg fun w => { w with resv := w.resv.filter (·.id != id) }
    else s'.trapHere t.uid 27 0 0

/-- Is the queue of a workgroup's sequencer full, so that it accepts no SEQ word (R310)? -/
def State.seqFull (s : State) (wg : Nat) : Bool := ((s.seq? wg).map fun q => decide (q.queue.length ≥ 4)).getD false

def isSeq : Instr → Bool
  | .seq .. => true
  | _ => false

/-- SEQ (R310, R311). -/
def execSeq (g : Pred) (a b e : Src) (s : State) : Host.Outcome State Fault Refusal :=
  issued (.seq g a b e) s fun s => s.eachLane g fun s' t =>
    let va := s.src2 t a
    if s'.seqFull t.wg then s'.retry t.uid
    else if [Opnd.s2 a, .s b, .s e].any t.opPois then s'.trapPoison t false [.s2 a, .s b, .s e]
    else match s'.seq? t.wg with
    | none => if va.toNat ≥ 2 ^ 52 then s'.trapHere t.uid 7 0 va else if va.toNat % 4 ≠ 0 then s'.trapHere t.uid 6 0 va else s'.trapHere t.uid 27 0 0
    | some _ =>
        if va.toNat ≥ 2 ^ 52 then s'.trapHere t.uid 7 0 va
        else if va.toNat % 4 ≠ 0 then s'.trapHere t.uid 6 0 va
        else if (s.src t b).toNat ≥ 2 ^ 16 then s'.trapHere t.uid 27 0 0
        else if t.cntT ≥ 63 then s'.retry t.uid
        else
          ((s'.updSeq t.wg fun q => { q with queue := q.queue ++ [⟨va.toNat, (s.src t b).toNat, s.src t e, t.uid, t.tid⟩] }).updThr t.uid
            (·.raiseCnt .t)).seqStart t.wg

/-- SEQST (R326). -/
def Seq.status (q : Seq) : Nat :=
  let st := match q.st with | .idle => 0 | .running => 1 | .stalled => 2 | .trapped => 3
  q.queue.length * 2 ^ 24 + q.cause * 2 ^ 16 + st * 2 ^ 8 + q.flags.toNat

def TileMode.num : TileMode → Nat
  | .bfp48 => 0 | .i32 => 1 | .f64 => 2

/-- The floating-point type to which ACCRD converts, by code; codes 4 and B read raw values (R61, R326). -/
def accTy (f : Nat) : Option Ty :=
  match f with
  | 0x9 => some .bf16 | 0xA => some .f32 | 0xC => some .t8 | 0xE => some .e4m3 | 0xF => some .e5m2 | _ => none

/-- Does a read not suit the tile's mode (R326)? -/
def accBad (t : Tile) (what : AccSel) (f : Nat) (half : Bool) : Bool :=
  match what with
  | .elem => (f = 4 && t.mode ≠ .i32) || (f = 0xB && t.mode ≠ .f64) || (t.mode = .f64 && ((accTy f).isSome && f ≠ 0xA || half))
  | .exp | .head => t.mode ≠ .bfp48
  | _ => false

/-- What ACCRD reads in a lane: words and flags; `none` in a lane that writes nothing. -/
def Seq.accVal (q : Seq) (t : Tile) (what : AccSel) (f : Nat) (rnd : Rnd) (row lane : Nat) (half : Bool) : Option (List Word × Flags) :=
  let r := t.rows.getD row (.zero t.mode)
  let one := fun (n : Int) => some ([BitVec.ofInt 32 n], (0 : Flags))
  match what with
  | .elem =>
      let c := if t.mode = .f64 then lane else 32 * boolNat half + lane
      if c ≥ t.cols then none
      else if f = 4 then some ([lo32 (r.vals.getD c 0)], 0)
      else if f = 0xB then some ([lo32 (r.vals.getD c 0), hi32 (r.vals.getD c 0)], 0)
      else match accTy f with
        | some ty => let x := encodeF ty rnd (dithT lane 0) (t.value row c); some ([BitVec.ofNat 32 x.1], x.2)
        | none => none
  | .exp => one (if r.empty then 0 else r.e)
  | .head => one r.head
  | .rowst => one (boolNat r.empty + 2 * boolNat r.ovf : Nat)
  | .tilest => one (t.rcnt + TileMode.num t.mode * 2 ^ 16 + boolNat t.ordered * 2 ^ 18 : Nat)
  | .flush => one t.flush
  | .seqst => one q.status
  | .seqpc => one q.pc

/-- ACCRD (R326): the row is read at issue; the value is written at completion. DEDUCED (notes/assumptions/45.md). -/
def execAccrd (g : Pred) (d : Dst) (what : AccSel) (fmt : BitVec 4) (rnd : Rnd) (t : BitVec 3) (row : BitVec 4) (half : Bool) (s : State) :
    Host.Outcome State Fault Refusal :=
  issued (.accrd g d what fmt rnd t row half) s fun s =>
    let wg := s.issWg
    let tl := s.tile wg t.toNat
    match s.seq? wg with
    | none => s.eachLane g fun s t => s.trapHere t.uid 27 0 0
    | some q =>
        if accBad tl what fmt.toNat half then s.eachLane g fun s t => s.trapHere t.uid 27 0 0
        else
          let val := fun (u : Thread) => q.accVal tl what fmt.toNat rnd row.toNat u.lane half
          let ts := (s.acting g).filter fun u => (val u).isSome
          let s1 := s.memIssue ts (.accrd g d what fmt rnd t row half) .t [] .rayTestComplete fun _ u =>
            .go { s.laneAt u 0 with data := ((val u).map (·.1)).getD [] }
          s1.over (ts.filter fun u => u.cntT < 63) fun s u => s.raise u (((val u).map (·.2)).getD 0)

/-! ## Matrix stream instructions -/

/-- The sequencer that executes. -/
def State.sq (s : State) : Option (Wg × Seq) := (s.wg? s.seqWg).bind fun w => w.seq.map fun q => (w, q)

/-- A trap of the executing sequencer at an instruction of `n` words. -/
def State.sqTrap (s : State) (cause n : Nat) : State := s.seqTrap s.seqWg cause (((s.seq? s.seqWg).map (·.pc)).getD n - n)

/-- An arrival at one of the executing workgroup's own tiles. -/
def State.ownArrive (s : State) (w : Wg) (q : Seq) (i : Instr) (t n : Nat) : State :=
  s.tileArrive w.id t ⟨((w.gang.map (·.2)).getD 0), w.id, i, q.idx, q.pc - n, q.loops, w.resv⟩

/-- MNOP. -/
def execMnop (s : State) : Host.Outcome State Fault Refusal := .next s

/-- MZERO (R318). -/
def execMzero (mode : TileMode) (t : BitVec 3) (s : State) : Host.Outcome State Fault Refusal :=
  .next (match s.sq with
    | some (w, q) => s.ownArrive w q (.mzero mode t) t.toNat 1
    | none => s)

/-- The trap cause of a chunk for a tile whose mode is one of some: none where it suits one of them. -/
def Wg.chunkErr (w : Wg) (q : Seq) (c : Chunk) (modes : List TileMode) : Option Nat :=
  let errs := modes.filterMap fun m => match w.chunkSrc q c q.idx m with
    | .error e => some e
    | .ok _ => none
  if errs.length < modes.length then none else errs.min?

/-- MMAC and MBIN (R319): the destination member, the sources, then the arrival. One that comes early meets the tile, and so its mode, only when
it applies (R325). DEDUCED (notes/assumptions/42.md). -/
def State.chunk (s : State) (i : Instr) : State :=
  match s.sq, chunkOf i with
  | some (w, q), some c =>
      if c.w && c.bid ≠ 0 then s.sqTrap 1 2
      else if c.mem ≠ 15 && c.mem ≥ s.gangOf w then s.sqTrap 2 2
      else match s.memberOf w c.mem with
        | none => s.sqTrap 2 2
        | some own =>
            let a : Arrival := ⟨((w.gang.map (·.2)).getD 0), w.id, i, q.idx, q.pc - 2, q.loops, w.resv⟩
            let t := s.tile own.id c.t
            let now := { t with waiting := t.waiting ++ [a] }.next = some a
            match w.chunkErr q c (if now then [t.mode] else [.bfp48, .i32, .f64]) with
            | some e => s.sqTrap e 2
            | none => s.tileArrive own.id c.t a
  | _, _ => s

/-- MMAC. -/
def execMmac (bi ai ki w : Bool) (bid aid : BitVec 6) (mem : BitVec 4) (t : BitVec 3) (kb ar : BitVec 11) (br : BitVec 10) (s : State) :
    Host.Outcome State Fault Refusal := .next (s.chunk (.mmac bi ai ki w bid aid mem t kb ar br))

/-- MBIN. -/
def execMbin (xr bi ai ki w : Bool) (bid aid : BitVec 6) (mem : BitVec 4) (t : BitVec 3) (kb ar : BitVec 11) (br : BitVec 10) (s : State) :
    Host.Outcome State Fault Refusal := .next (s.chunk (.mbin xr bi ai ki w bid aid mem t kb ar br))

/-- MRENORM (R320). -/
def execMrenorm (n : BitVec 6) (right all : Bool) (row : BitVec 4) (t : BitVec 3) (s : State) : Host.Outcome State Fault Refusal :=
  .next (match s.sq with
    | some (w, q) =>
        if (all && row ≠ 0) || (!right && n ≠ 0) || (right && (n = 0 || n.toNat > 47)) then s.sqTrap 1 1
        else if (s.tile w.id t.toNat).mode ≠ .bfp48 then s.sqTrap 3 1
        else s.ownArrive w q (.mrenorm n right all row t) t.toNat 1
    | none => s)

/-- Is a format one that MEXPORT writes from a tile (R321)? -/
def exportFmt (f : ResFmt) (m : TileMode) : Bool :=
  match f with
  | .t8 | .e4m3 | .e5m2 | .bf16 | .f32 => true
  | .f64 => m == .f64
  | _ => false

/-- One exported block of a row: its codes, scale code and flags (R83, R84). -/
def exportBlock (ty : Ty) (rnd : Rnd) (ph : Nat) (xs : List FVal) : List Nat × Nat × Flags :=
  let (c, past) := blockScale ty xs
  let rs := ((upFrom 0 xs.length).zip xs).map fun p => blockElem ty rnd c past (dithT p.1 ph) p.2
  (rs.map (·.1), c, rs.foldl (fun f r => f ||| r.2) 0)

/-- Splits a list into runs of `k`. -/
def runs (k : Nat) : Nat → List α → List (List α)
  | 0, _ => []
  | n + 1, xs => if xs.isEmpty then [] else xs.take k :: runs k n (xs.drop k)

/-- Writes one row of a tile into a reservation: the buffer and the flags. -/
def exportRow (t : Tile) (r : Resv) (rnd : Rnd) (i row c0 : Nat) (buf : SMap Byte) : SMap Byte × Flags :=
  let ty := r.fmt.ty
  let n := r.fmt.bits / 8
  let vals := (upFrom 0 t.cols).map (t.value i)
  let at' := fun c => r.base * 128 + (row * r.rl + c) * n
  if r.sc then
    let blocks := runs r.bl.elems 64 vals
    ((upFrom 0 blocks.length).zip blocks).foldl (fun (acc : SMap Byte × Flags) p =>
      let x := exportBlock ty rnd r.ph p.2
      let c := c0 + p.1 * r.bl.elems
      (mput 0#8 (mputs 0#8 acc.1 (at' c) (x.1.map fun k => BitVec.ofNat 8 k)) (r.scaleAt row c) (BitVec.ofNat 8 x.2.1),
        acc.2 ||| x.2.2)) (buf, 0)
  else
    ((upFrom 0 vals.length).zip vals).foldl (fun (acc : SMap Byte × Flags) p =>
      let x := encodeF ty rnd (dithT ((c0 + p.1) % r.bl.elems) r.ph) p.2
      (mputs 0#8 acc.1 (at' (c0 + p.1)) (bytesOf n x.1), acc.2 ||| x.2)) (buf, 0)

/-- MEXPORT (R321). DEDUCED (notes/assumptions/42.md). -/
def execMexport (dith : Bool) (did : BitVec 6) (t : BitVec 3) (dr dc : BitVec 12) (s : State) : Host.Outcome State Fault Refusal :=
  .next (match s.sq with
    | none => s
    | some (w, _) =>
        let tl := s.tile w.id t.toNat
        match w.resv.find? (·.id == did.toNat) with
        | none => s.sqTrap 2 2
        | some r =>
            let c0 := 32 * dc.toNat
            if !exportFmt r.fmt tl.mode || (r.sc && tl.mode == .f64) then s.sqTrap 3 2
            else if !r.covers dr.toNat 16 c0 tl.cols || (r.sc && (r.bl.elems > 64 || c0 % r.bl.elems ≠ 0)) then s.sqTrap 2 2
            else
              let rnd : Rnd := if dith then .dith else .rn
              let (buf, fl) := (upFrom 0 16).foldl (fun (acc : SMap Byte × Flags) i =>
                let x := exportRow tl r rnd i (dr.toNat + i) c0 acc.1
                (x.1, acc.2 ||| x.2)) (w.obuf, 0)
              (s.updWg w.id fun w => { w with
                obuf := buf
                resv := w.resv.map fun x => if x.id = r.id && dith then { x with ph := (x.ph + 1) % 128 } else x }).seqRaise w.id fl)

/-- MSIG and MWAIT at a barrier of the mask (R312). -/
def State.sqBar (s : State) (b : Nat) (waits : Bool) : State :=
  match s.sq with
  | some (w, q) =>
      if !((q.cur.map fun c => bitOf c.mask b).getD false) then s.sqTrap 2 1 else s.seqArrive w.id b (q.pc - 1) waits
  | none => s

/-- MWAIT. -/
def execMwait (b : BitVec 4) (s : State) : Host.Outcome State Fault Refusal := .next (s.sqBar b.toNat true)

/-- MSIG. -/
def execMsig (b : BitVec 4) (s : State) : Host.Outcome State Fault Refusal := .next (s.sqBar b.toNat false)

/-- MLOOP (R322). DEDUCED (notes/assumptions/42.md). -/
def execMloop (len : BitVec 10) (p : Bool) (cnt : BitVec 12) (s : State) : Host.Outcome State Fault Refusal :=
  .next (match s.sq with
    | none => s
    | some (w, q) =>
        let stop := q.pc - 1 + len.toNat
        let n := if p then ((q.cur.map fun (c : Stream) => c.par).getD 0#32).toNat else cnt.toNat + 1
        let nest := match q.loops with | x :: _ => stop ≤ x.stop | [] => true
        if len.toNat < 2 || (p && cnt ≠ 0) || q.loops.length ≥ 4 || !nest then s.sqTrap 1 1
        else if n = 0 then s.updSeq w.id fun q => { q with pc := stop }
        else s.updSeq w.id fun q => { q with loops := ⟨q.pc, stop, n, q.idx⟩ :: q.loops, idx := 0 })

/-- MEND (R322). -/
def execMend (s : State) : Host.Outcome State Fault Refusal :=
  .next (match s.sq with
    | some (w, _) => s.seqEnd w.id
    | none => s)

/-- MPHASE (R323). -/
def execMphase (ph : BitVec 7) (id : BitVec 6) (s : State) : Host.Outcome State Fault Refusal :=
  .next (match s.sq with
    | some (w, _) =>
        if w.resv.any (·.id == id.toNat) then
          s.updWg w.id fun w => { w with resv := w.resv.map fun r => if r.id = id.toNat then { r with ph := ph.toNat } else r }
        else s.sqTrap 2 1
    | none => s)

/-- MSTEP (R325). -/
def execMstep (mask : BitVec 12) (on : Bool) (t : BitVec 3) (s : State) : Host.Outcome State Fault Refusal :=
  .next (match s.sq with
    | some (w, q) =>
        if !on && mask ≠ 0 then s.sqTrap 1 1
        else if on && (mask = 0 || (setBits 12 mask.toNat).any fun i => i ≥ s.gangOf w) then s.sqTrap 2 1
        else s.ownArrive w q (.mstep mask on t) t.toNat 1
    | none => s)

/-! ## Mailbox commands and the start of a stream -/

/-- RESUME (R314): a trapped sequencer goes on at SEQPC. -/
def execResume (wg : Nat) (s : State) : Host.Outcome State Fault Refusal :=
  .next (s.updSeq wg fun q => if q.st = .trapped then { q with st := .running } else q)

/-- ABANDON (R314): the stream ends at the boundary; a chunk that waits at a tile port applies first. -/
def execAbandon (wg : Nat) (s : State) : Host.Outcome State Fault Refusal :=
  .next (match s.seq? wg with
    | none => s
    | some q =>
        if q.st = .idle then s
        else if q.wait then s.updSeq wg fun q => { q with drop := true }
        else s.seqEnd wg)

/-- CLRFLAGS (R314). -/
def execClrflags (wg : Nat) (s : State) : Host.Outcome State Fault Refusal := .next (s.updSeq wg fun q => { q with flags := 0 })

/-- SEQ_STREAM_START (R311). -/
def execSeqStreamStart (wg : Nat) (s : State) : Host.Outcome State Fault Refusal := .next (s.seqStart wg)

end Sys2Proof.Machine
end

