-- ==== Sys2Proof/Machine/Engines.lean ====
section
/-! DEFINITION. Engine commands (R256 to R268): the checks on their words, the units that a copy engine moves, the collectives, the
GRAPH command's launch (R283), and the completion of a command (R260, R261). -/

namespace Sys2Proof.Machine

/-! ## Words of a command -/

def Cmd.w (c : Cmd) (i : Nat) : Nat := (c.words.getD i 0#32).toNat
def Cmd.w2 (c : Cmd) (i : Nat) : Nat := c.w i + 2 ^ 32 * c.w (i + 1)
def Cmd.code (c : Cmd) : Nat := fld (c.w 0) 26 6
def Cmd.tag (c : Cmd) : Nat := fld (c.w 0) 0 16
/-- The completion scope (R257). -/
def Cmd.scope (c : Cmd) : Scope :=
  match fld (c.w 0) 23 3 with
  | 2 => .clu | 4 => .fab | 5 => .sys | _ => .dev

/-- Where the address of the completion object stands (R263 to R266, R283). -/
def Cmd.cplAt (c : Cmd) : Nat :=
  match c.code with
  | 1 => 6 | 2 => 6 | 3 => 10 | 8 => 10 | 9 => 10 | 0x20 => 4 | _ => 8
def Cmd.cpl (c : Cmd) : Nat := c.w2 c.cplAt

def Cmd.isNode (c : Cmd) : Bool :=
  match c.owner with
  | .node .. => true
  | .thread .. => false

/-- The workgroup of a command's owner; a node has none. -/
def Cmd.wg (c : Cmd) : Option Nat :=
  match c.owner with
  | .thread wg _ _ => some wg
  | .node .. => none

/-- Does the header break its limits (R257)? -/
def Cmd.badHead (c : Cmd) : Bool :=
  let sc := fld (c.w 0) 23 3
  sc == 1 || sc ≥ 6 || fld (c.w 0) 16 6 != 0

/-- The first status of a list of checks, in the order of R257. -/
def firstBad : List (Bool × Nat) → Option Nat
  | [] => none
  | (b, st) :: rest => if b then some st else firstBad rest

/-- Do two ranges of bytes overlap? -/
def overlaps (a n b m : Nat) : Bool := decide (n > 0) && decide (m > 0) && decide (a < b + m) && decide (b < a + n)
/-- Does a range reach beyond the 52-bit virtual space (R260)? -/
def beyond (a n : Nat) : Bool := decide (n > 0) && decide (a + n > 2 ^ 52)

/-- A command ends with a status; its completion is an event to come. -/
def State.cmdEnd (s : State) (id status : Nat) : State :=
  (s.updCmd id fun c => { c with status := status, ended := true, paused := false }).postOnce (.commandComplete id)

/-! ## Places and units -/

/-- Where a unit lies: global memory, a workgroup's local storage, its weight-buffer region, or the bytes of a pattern. -/
inductive Spot where
  | glob (va : Nat) | loc (wg : Nat) (ob : Bool) (off : Nat) | wbuf (wg off : Nat) | bytes (bs : List Byte)
deriving DecidableEq, Repr

/-- Why a unit is not moved: a fault at an address with its ACCESS code, or the status that ends the command. -/
inductive EngStop where
  | fault (va access : Nat) (f : XFault) | ends (status : Nat)
deriving DecidableEq, Repr

/-- An uncorrectable error that an engine reads ends its command with FAULT (R450), and is recorded (R442, R443). -/
def State.engineBad (s : State) (asid key : Nat) : State := (s.boxPut 8 0xFFFF 8 asid key).persist

/-- Reads bytes of global memory for a command at a scope. -/
def State.engRead (s : State) (c : Cmd) (va n : Nat) (sc : Scope) : (Except EngStop (List Byte)) × State :=
  if beyond va n then (.error (.ends 4), s)
  else match s.xlate (clusterOf c.core) c.asid va .load false with
    | (.error f, s1) => (.error (.fault va 5 f), s1)
    | (.ok p, s1) =>
        if s1.bad p.key then (.error (.ends 3), s1.engineBad c.asid p.key)
        else
          let (bs, s2) := s1.homeRead c.asid p.key n sc
          (.ok bs, if irrevAccess sc p.key then s2.irrevocable c.asid else s2)

/-- Writes bytes of global memory for a command at a scope, after the undo record of the line (R376). -/
def State.engWrite (s : State) (c : Cmd) (va : Nat) (bs : List Byte) (sc : Scope) : Option EngStop × State :=
  if beyond va bs.length then (some (.ends 4), s)
  else match s.xlate (clusterOf c.core) c.asid va .store false with
    | (.error f, s1) => (some (.fault va 6 f), s1)
    | (.ok p, s1) =>
        let s2 := s1.beforeWrite c.core c.asid va p.key
        let s3 := s2.homeWrite c.asid p.key bs sc none
        (none, if irrevAccess sc p.key then s3.irrevocable c.asid else s3)

def State.spotRead (s : State) (c : Cmd) : Spot → (Except EngStop (List Byte)) × State
  | .glob va => s.engRead c va 8 .dev
  | .loc wg ob off => (.ok (s.locRead (wg, ob, off) 8), s)
  | .wbuf _ _ => (.error (.ends 1), s)
  | .bytes bs => (.ok bs, s)

def State.spotWrite (s : State) (c : Cmd) (bs : List Byte) : Spot → Option EngStop × State
  | .glob va => s.engWrite c va bs .dev
  | .loc wg ob off => (none, s.locWrite (wg, ob, off) bs)
  | .wbuf wg off => (none, s.updSeq wg fun q => { q with wbuf := mputs 0#8 q.wbuf off bs })
  | .bytes _ => (some (.ends 1), s)

/-- Is a unit the last one before a 4 KiB boundary of the destination (R108)? -/
def Spot.edge : Spot → Bool
  | .glob va => (va + 8) % 4096 == 0
  | .loc _ _ off | .wbuf _ off => (off + 8) % 4096 == 0
  | .bytes _ => false

/-- A command stops at a unit: it pauses on a page request (R262), or ends. -/
def State.engStop (s : State) (c : Cmd) (pos : Nat) (redo : Instr) : EngStop → State
  | .ends st => s.cmdEnd c.id st
  | .fault va access f =>
      let s1 := s.updCmd c.id fun c => { c with pos := pos, paused := true }
      match c.owner with
      | .thread wg _ tid =>
          (s1.newFault c.asid (.cmd c.id) va access f true tid (BitVec.ofNat 32 (((s.wg? wg).map (·.index)).getD 0xFFFFFFFF)) c.tag
            [redo]).2
      | .node .. => (s1.newFault c.asid (.cmd c.id) va access f true 0xFFFFFFFF#32 0xFFFFFFFF#32 c.tag [redo]).2

/-- Before a command writes a unit of global memory: may it (R376, R377, R461)? Elsewhere no undo record is due. -/
def State.engGate (s : State) (c : Cmd) (redo : Instr) : Spot → Bool × State
  | .glob va => if beyond va 8 then (true, s) else s.undoBefore (clusterOf c.core) c.asid va redo
  | _ => (true, s)

/-- Moves units from `u` on, up to a 4 KiB boundary of the destination; the rest follows as the same event again. -/
def State.engUnits (s : State) (c : Cmd) (total : Nat) (redo : Instr)
    (unit : State → Nat → (Except EngStop (Spot × Spot)) × State) : Nat → Nat → State
  | 0, u => (s.updCmd c.id fun c => { c with pos := u }).postOnce redo
  | n + 1, u =>
      if u ≥ total then s.cmdEnd c.id 0
      else match unit s u with
        | (.error e, s1) => s1.engStop c u redo e
        | (.ok (src, dst), s1) =>
            match s1.spotRead c src with
            | (.error e, s2) => s2.engStop c u redo e
            | (.ok bs, s2) =>
                match s2.engGate c redo dst with
                | (false, s3) => s3.updCmd c.id fun c => { c with pos := u }
                | (true, s2) => match s2.spotWrite c bs dst with
                  | (some e, s3) => s3.engStop c u redo e
                  | (none, s3) =>
                      if dst.edge && u + 1 < total then (s3.updCmd c.id fun c => { c with pos := u + 1 }).postOnce redo
                      else s3.engUnits c total redo unit n (u + 1)

/-- Runs a command that a copy engine holds: its checks before the first unit, then its units. A command that writes the local storage
of a workgroup that is off its core waits (R369). -/
def State.engRun (s : State) (id : Nat) (redo : Instr) (chk : State → Cmd → Option Nat) (total : Cmd → Nat) (isLocal : Cmd → Bool)
    (unit : Cmd → State → Nat → (Except EngStop (Spot × Spot)) × State) : State :=
  match s.cmd? id with
  | none => s
  | some c =>
      if c.ended || c.paused then s
      else if isLocal c && (match c.wg.bind s.wg? with | some w => w.state != .resident && w.state != .done | none => false) then s
      else match (if c.pos = 0 then chk s c else none) with
        | some st => s.cmdEnd id st
        | none => s.engUnits c (total c) redo (unit c) 512 c.pos

/-! ## COPY and FILL (R263) -/

def copyChk (_ : State) (c : Cmd) : Option Nat :=
  let n := c.w 1
  firstBad [(c.badHead || overlaps (c.w2 2) n (c.w2 4) n, 1),
    (n % 8 != 0 || c.w2 2 % 8 != 0 || c.w2 4 % 8 != 0 || c.cpl % 16 != 0, 2),
    (beyond (c.w2 2) n || beyond (c.w2 4) n, 4)]

/-- Unit `u` of a COPY, and of a FILL. -/
def copyUnit (c : Cmd) (s : State) (u : Nat) : (Except EngStop (Spot × Spot)) × State :=
  (.ok (.glob (c.w2 2 + 8 * u), .glob (c.w2 4 + 8 * u)), s)
def fillUnit (c : Cmd) (s : State) (u : Nat) : (Except EngStop (Spot × Spot)) × State :=
  (.ok (.bytes (bytesOf 8 (c.w2 4)), .glob (c.w2 2 + 8 * u)), s)

/-- COPY (R263). -/
def execCopy (cmd : Nat) (s : State) : Host.Outcome State Fault Refusal :=
  .next (s.engRun cmd (.copy cmd) copyChk (fun c => c.w 1 / 8) (fun _ => false) copyUnit)

def fillChk (_ : State) (c : Cmd) : Option Nat :=
  let n := c.w 1
  firstBad [(c.badHead, 1), (n % 8 != 0 || c.w2 2 % 8 != 0 || c.cpl % 16 != 0, 2), (beyond (c.w2 2) n, 4)]

/-- FILL (R263). -/
def execFill (cmd : Nat) (s : State) : Host.Outcome State Fault Refusal :=
  .next (s.engRun cmd (.fill cmd) fillChk (fun c => c.w 1 / 8) (fun _ => false) fillUnit)

/-! ## TILE (R264) -/

def Cmd.sk (c : Cmd) : Nat := fld (c.w 5) 0 4
def Cmd.dk (c : Cmd) : Nat := fld (c.w 5) 4 4

/-- A byte address of a tile's side as a place, or none where it lies outside its space. -/
def State.tileSpot (s : State) (c : Cmd) (kind base0 base1 off : Nat) : Option Spot :=
  match kind, c.wg.bind s.wg? with
  | 0, _ => some (.glob (base0 + 2 ^ 32 * base1 + off))
  | 1, some w =>
      if 0x400000 ≤ base0 + off && base0 + off < 0x800000 then none
      else match s.localPlace w (base0 + off) 8 false with
        | .ok p => some (.loc p.1 p.2.1 p.2.2)
        | .error _ => none
  | 2, some w => if base0 + off + 8 ≤ 131072 && w.seq.isSome then some (.wbuf w.id (base0 + off)) else none
  | 3, some w =>
      (w.resv.find? (·.id == base0)).bind fun r =>
        if base1 + off + 8 ≤ 128 * r.count then some (.loc w.id true (128 * r.base + base1 + off)) else none
  | _, _ => none

/-- Is a side of a tile outside its space: any row's first or last unit, or for global memory the whole range? -/
def State.tileOut (s : State) (c : Cmd) (kind base0 base1 pitch : Nat) : Bool :=
  if kind = 0 then beyond (base0 + 2 ^ 32 * base1) ((c.w 2 - 1) * pitch + c.w 1)
  else (upFrom 0 (c.w 2)).any fun i =>
    (s.tileSpot c kind base0 base1 (i * pitch)).isNone || (s.tileSpot c kind base0 base1 (i * pitch + c.w 1 - 8)).isNone

/-- Do the base words of a side break a field's limits, or its alignment? -/
def sideField (kind base0 base1 : Nat) : Bool :=
  kind ≥ 4 || ((kind = 1 || kind = 2) && base1 ≠ 0) || (kind = 3 && base0 > 63)
def sideAlign (kind base0 base1 : Nat) : Bool := if kind = 3 then base1 % 8 ≠ 0 else base0 % 8 ≠ 0

def tileChk (s : State) (c : Cmd) : Option Nat :=
  firstBad [(c.badHead || c.w 1 < 8 || c.w 1 > 65536 || c.w 2 < 1 || c.w 2 > 65536 || c.w 3 < c.w 1 || c.w 4 < c.w 1
      || fld (c.w 5) 8 24 != 0 || c.sk ≥ 2 || sideField c.sk (c.w 6) (c.w 7) || sideField c.dk (c.w 8) (c.w 9)
      || (c.isNode && (c.sk != 0 || c.dk != 0)), 1),
    (c.w 1 % 8 != 0 || c.w 3 % 8 != 0 || c.w 4 % 8 != 0 || sideAlign c.sk (c.w 6) (c.w 7) || sideAlign c.dk (c.w 8) (c.w 9)
      || c.cpl % 16 != 0, 2),
    (s.tileOut c c.sk (c.w 6) (c.w 7) (c.w 3) || s.tileOut c c.dk (c.w 8) (c.w 9) (c.w 4), 4)]

/-- Unit `u` of a TILE: rows after one another. -/
def tileUnit (c : Cmd) (s : State) (u : Nat) : (Except EngStop (Spot × Spot)) × State :=
  let per := c.w 1 / 8
  let row := u / per
  let col := 8 * (u % per)
  match s.tileSpot c c.sk (c.w 6) (c.w 7) (row * c.w 3 + col), s.tileSpot c c.dk (c.w 8) (c.w 9) (row * c.w 4 + col) with
  | some a, some b => (.ok (a, b), s)
  | _, _ => (.error (.ends 4), s)

/-- TILE (R264). -/
def execTile (cmd : Nat) (s : State) : Host.Outcome State Fault Refusal :=
  .next (s.engRun cmd (.tile cmd) tileChk (fun c => c.w 1 / 8 * c.w 2) (fun c => c.dk != 0) tileUnit)

/-! ## GATHER and SCATTER (R265) -/

/-- Bytes of an index. -/
def Cmd.iw (c : Cmd) : Nat := if bitOf (c.w 3) 0 then 8 else 4

def gatherChk (_ : State) (c : Cmd) : Option Nat :=
  firstBad [(c.badHead || c.w 1 < 8 || c.w 1 > 65536 || c.w 2 < 1 || c.w 2 > 2 ^ 24 || fld (c.w 3) 1 31 != 0, 1),
    (c.w 1 % 8 != 0 || c.w2 4 % c.iw != 0 || c.w2 6 % 8 != 0 || c.w2 8 % 8 != 0 || c.cpl % 16 != 0, 2),
    (beyond (c.w2 4) (c.w 2 * c.iw) || beyond (c.w2 8) (c.w 2 * c.w 1), 4)]

/-- The unit `u` of a GATHER, or of a SCATTER: the contiguous place and the indexed one, whose index is read first. -/
def gatherUnit (scatter : Bool) (c : Cmd) (s : State) (u : Nat) : (Except EngStop (Spot × Spot)) × State :=
  let per := c.w 1 / 8
  let e := u / per
  match s.engRead c (c.w2 4 + e * c.iw) c.iw .dev with
  | (.error x, s1) => (.error x, s1)
  | (.ok bs, s1) =>
      let a := (c.w2 6 + leNat bs * c.w 1) % 2 ^ 64
      let lin : Spot := .glob (c.w2 8 + 8 * u)
      let idx : Spot := .glob (a + 8 * (u % per))
      if a ≥ 2 ^ 52 then (.error (.ends 4), s1)
      else (.ok (if scatter then (lin, idx) else (idx, lin)), s1)

/-- GATHER (R265). -/
def execGather (cmd : Nat) (s : State) : Host.Outcome State Fault Refusal :=
  .next (s.engRun cmd (.gather cmd) gatherChk (fun c => c.w 1 / 8 * c.w 2) (fun _ => false) (gatherUnit false))

/-- SCATTER (R265). -/
def execScatter (cmd : Nat) (s : State) : Host.Outcome State Fault Refusal :=
  .next (s.engRun cmd (.scatter cmd) gatherChk (fun c => c.w 1 / 8 * c.w 2) (fun _ => false) (gatherUnit true))

/-! ## Collectives (R266 to R268) -/

/-- The entry of a context in a collective group (R452). -/
def State.cgroup (s : State) (asid g : Nat) : Option CGroup :=
  s.cgroups.find? fun x => x.fe == feOf asid && x.ctx == asid % 64 && x.group == g

def Cmd.opr (c : Cmd) : Nat := fld (c.w 1) 28 4
def Cmd.group (c : Cmd) : Nat := fld (c.w 1) 0 16
def Cmd.cty (c : Cmd) : Ty := match Ty.ofCode (fld (c.w 1) 24 4) with | .ok t => t | .error _ => .i32
def Cmd.count (c : Cmd) : Nat := c.w 2
def Cmd.reduces (c : Cmd) : Bool := c.code == 0x10 || c.code == 0x11 || c.code == 0x14

/-- Elements of the source and of the destination of a rank among `n`. -/
def Cmd.srcCount (c : Cmd) (n : Nat) : Nat := if c.code = 0x14 then n * c.count else c.count
def Cmd.dstCount (c : Cmd) (n : Nat) : Nat := if c.code = 0x13 then n * c.count else c.count

def collChk (s : State) (c : Cmd) : Option Nat :=
  let tc := fld (c.w 1) 24 4
  let es := Ty.bytes c.cty
  let g := s.cgroup c.asid c.group
  let n := (g.map (·.n)).getD 1
  let src := c.w2 4
  let dst := c.w2 6
  firstBad [(c.badHead || c.opr > 2 || (!c.reduces && c.opr != 0) || tc < 4 || tc > 11 || fld (c.w 1) 16 8 != 0 || c.count < 1
      || c.count > 2 ^ 31 || (if c.code = 0x11 || c.code = 0x12 then g.isSome && c.w 3 ≥ n else c.w 3 != 0)
      || (src != dst && overlaps src (es * c.srcCount n) dst (es * c.dstCount n)), 1),
    (src % es != 0 || dst % es != 0 || c.cpl % 16 != 0, 2),
    (beyond src (es * c.srcCount n) || beyond dst (es * c.dstCount n), 4),
    (g.isNone, 6)]

/-- Does a peer's command match (R268)? -/
def Cmd.meets (c : Cmd) (p : Contribution) : Bool :=
  p.isOpen && p.cmd == c.code && p.ty == c.cty && p.opr == c.opr && p.count == c.count && p.root == c.w 3

/-- The reduction of one element over all ranks (R267): a floating-point add is exact and rounds once. -/
def collReduce (ty : Ty) (opr : Nat) (xs : List Nat) : Nat :=
  match xs with
  | [] => 0
  | x :: rest =>
      if opr = 0 && ty.isFloat then
        (encodeF ty .rn 0 (rest.foldl (fun acc y => (addV .rn acc (decodeF ty y)).1) (decodeF ty x))).1
      else rest.foldl (fun acc y => (redNode ty (if opr = 0 then .add else if opr = 1 then .min else .max) .rn acc y).1) x

/-- Reads `n` elements of the own source at .fab. -/
def State.collSrc (s : State) (c : Cmd) (es : Nat) : Nat → Nat → (Except EngStop (List DWord)) × State
  | 0, _ => (.ok [], s)
  | n + 1, va =>
      match s.engRead c va es .fab with
      | (.error e, s1) => (.error e, s1)
      | (.ok bs, s1) =>
          match s1.collSrc c es n (va + es) with
          | (.error e, s2) => (.error e, s2)
          | (.ok xs, s2) => (.ok (BitVec.ofNat 64 (leNat bs) :: xs), s2)

/-- Element `k` of this rank's destination, from the contributions of all ranks (R267). -/
def collElem (c : Cmd) (all : List Contribution) (rank k : Nat) : Nat :=
  let at' := fun (p : Contribution) (i : Nat) => (p.data.getD i 0#64).toNat
  let of := fun (j i : Nat) => ((all.find? (·.rank == j)).map fun p => at' p i).getD 0
  match c.code with
  | 0x12 => of (c.w 3) k
  | 0x13 => of (k / c.count) (k % c.count)
  | 0x14 => collReduce c.cty c.opr (all.map fun p => at' p (rank * c.count + k))
  | _ => collReduce c.cty c.opr (all.map fun p => at' p k)

/-- Writes elements of the destination at .fab from `k` on. -/
def State.collWrite (s : State) (c : Cmd) (all : List Contribution) (rank es : Nat) (redo : Instr) : Nat → Nat → State
  | 0, _ => (s.rdcSync c.asid true).cmdEnd c.id 0
  | n + 1, k =>
      match s.engGate c redo (.glob (c.w2 6 + k * es)) with
      | (false, s1) => s1.updCmd c.id fun c => { c with pos := k }
      | (true, s0) => match s0.engWrite c (c.w2 6 + k * es) (bytesOf es (collElem c all rank k)) .fab with
        | (some e, s1) => s1.engStop c k redo e
        | (none, s1) => s1.collWrite c all rank es redo n (k + 1)

/-- A collective (R266 to R268). The peers' parts come from outside (DESIGN CHOICE, notes/assumptions/6.md): without them a group of more ranks waits. The
own source is read whole first, but for that of a BROADCAST on a rank other than ROOT (R267), and stands among the contributions from then
on. A context that takes checkpoints stands halted until the collective is complete (R379). -/
def State.collective (s : State) (id : Nat) (peers : List Contribution) (again : List Contribution → Instr) : State :=
  match s.cmd? id with
  | none => s
  | some c =>
      if c.ended || c.paused then s
      else match collChk s c, s.cgroup c.asid c.group with
        | some st, _ => s.cmdEnd id st
        | none, none => s.cmdEnd id 6
        | none, some g =>
            if !((upFrom 0 g.n).all fun j => j == g.rank || peers.any (·.rank == j)) then s.stallFor c.asid
            else if !(peers.all c.meets) then s.cmdEnd id 5
            else if peers.any (·.rank == g.rank) then
              (if c.code = 0x11 && g.rank ≠ c.w 3 then s.cmdEnd id 0
               else (s.stallFor c.asid).collWrite c peers g.rank (Ty.bytes c.cty) (again peers) (c.dstCount g.n - c.pos) c.pos)
            else
              let own := fun (xs : List DWord) => again (peers ++ [⟨g.rank, c.code, c.cty, c.opr, c.count, c.w 3, true, xs⟩])
              if c.code = 0x12 && g.rank ≠ c.w 3 then (s.stallFor c.asid).post (own [])
              else match (s.stallFor c.asid).collSrc c (Ty.bytes c.cty) (c.srcCount g.n) (c.w2 4) with
              | (.error e, s1) => s1.engStop c 0 (again peers) e
              | (.ok xs, s1) => s1.post (own xs)

/-- ALLREDUCE (R267). -/
def execAllreduce (cmd : Nat) (peers : List Contribution) (s : State) : Host.Outcome State Fault Refusal :=
  .next (s.collective cmd peers (.allreduce cmd))

/-- REDUCE (R267). -/
def execReduce (cmd : Nat) (peers : List Contribution) (s : State) : Host.Outcome State Fault Refusal :=
  .next (s.collective cmd peers (.reduce cmd))

/-- BROADCAST (R267). -/
def execBroadcast (cmd : Nat) (peers : List Contribution) (s : State) : Host.Outcome State Fault Refusal :=
  .next (s.collective cmd peers (.broadcast cmd))

/-- ALLGATHER (R267). -/
def execAllgather (cmd : Nat) (peers : List Contribution) (s : State) : Host.Outcome State Fault Refusal :=
  .next (s.collective cmd peers (.allgather cmd))

/-- REDUCESCATTER (R267). -/
def execReducescatter (cmd : Nat) (peers : List Contribution) (s : State) : Host.Outcome State Fault Refusal :=
  .next (s.collective cmd peers (.reducescatter cmd))

/-! ## GRAPH (R283) -/

/-- A graph handed to a walker, before it starts. -/
def newGraph (id asid : Nat) (src : GraphSrc) (va depth queue : Nat) (irq : Bool) (join : Option (Nat × Nat)) : Graph :=
  ⟨id, asid, src, va, false, 0, 0, 0, 3, depth, [], 0, false, queue, irq, join⟩

/-- GRAPH (R283): the subgraph starts; with JOIN the kernel node of the issuing thread waits for it. -/
def execGraph (cmd : Nat) (s : State) : Host.Outcome State Fault Refusal :=
  .next (match s.cmd? cmd with
    | none => s
    | some c =>
        if c.ended || c.paused || s.graphs.any (fun g => g.src == .cmd cmd) then s
        else match firstBad [(c.badHead || fld (c.w 3) 1 31 != 0, 1), (c.cpl % 16 != 0, 2)] with
          | some st => s.cmdEnd cmd st
          | none =>
              let (gid, s1) := s.newId
              let s2 : State := { s1 with graphs := s1.graphs ++ [newGraph gid c.asid (.cmd cmd) (c.w2 1) 0 c.queue false c.join] }
              (s2.post (.graphStart gid)).irrevocable c.asid)

/-! ## Completion (R260, R261) -/

/-- The undo record of a line that the device writes on a context's behalf (R376). -/
def State.undoFor (s : State) (cluster asid va key : Nat) : State :=
  if s.takesCkp asid then
    let (ln, s1) := s.homeRead asid (lineOf key) 128 .dev
    s1.undoNote cluster asid va ln
  else s

/-- Before an object is written: may it be (R376, R377, R461)? -/
def State.objGate (s : State) (cluster asid va : Nat) (redo : Instr) : Bool × State :=
  if va ≥ 2 ^ 52 then (true, s) else s.undoBefore cluster asid va redo

/-- An atomic add to an object's counter as a release at a scope, after the OR of the status bit at .dev (R260). -/
def State.objAdd (s : State) (cluster asid va status v : Nat) (sc : Scope) : Option XFault × State :=
  if va ≥ 2 ^ 52 then (some (.s1 0 0), s)
  else match s.xlate cluster asid va .atomic false with
    | (.error f, s1) => (some f, s1)
    | (.ok p, s1) =>
        let s2 := (if irrevAccess sc p.key then s1.irrevocable asid else s1).undoFor cluster asid va p.key
        let s3 := if status = 0 then s2 else
          let (e, s3) := s2.homeRead asid (p.key + 8) 8 .dev
          s3.homeWrite asid (p.key + 8) (bytesOf 8 (leNat e ||| 2 ^ status)) .dev none
        let s4 := if Scope.num sc ≥ 4 then s3.rdcSync asid false else s3
        let (n, s5) := s4.homeRead asid p.key 8 sc
        (none, s5.homeWrite asid p.key (bytesOf 8 (leNat n + v)) sc none)

/-- C falls (R259). -/
def State.lowerC (s : State) (uid : Nat) : State :=
  (s.updThr uid fun t => { t with cntC := t.cntC - 1 }).reorderArrive uid

/-- The notify word (R261) waits at the engine and moves when there is room; without a binding of port 4 it is discarded. -/
def State.notify (s : State) (c : Cmd) : State :=
  match c.wg.bind s.wg? with
  | none => s
  | some w =>
      if !bitOf (c.w 0) 22 || w.state = .done || (s.boundTo w.id .cpl).isNone then s
      else (s.updWg w.id fun w => { w with
        cplWords := w.cplWords ++ [BitVec.ofNat 32 (c.tag + c.status * 2 ^ 16 + c.code * 2 ^ 24)] }).postOnce (.notifyPush w.id)

/-- COMMAND_COMPLETE (R260). -/
def execCommandComplete (cmd : Nat) (s : State) : Host.Outcome State Fault Refusal :=
  .next (match s.cmd? cmd with
    | none => s
    | some c =>
        if !c.ended || s.faults.any (fun f => f.redo.contains (.commandComplete cmd)) then s
        else
          let finish := fun (s : State) =>
            let s1 := ({ s with cmds := s.cmds.filter fun (x : Cmd) => x.id != cmd } : State).fatalDone c.asid
            match c.owner with
            | .thread _ uid _ =>
                let s2 := (if c.code = 0x20 then s1 else s1.lowerC uid).notify c
                (match c.join with
                | some (g, n) => s2.postOnce (.nodeComplete g n)
                | none => s2)
            | .node g n => (s1.updGraph g fun x => { x with nodes := ((upFrom 0 x.nodes.length).zip x.nodes).map fun p =>
                if p.1 = n then { p.2 with status := c.status } else p.2 }).post (.nodeComplete g n)
          if c.cpl = 0 || c.cpl % 16 ≠ 0 then finish s
          else match s.objGate (clusterOf c.core) c.asid c.cpl (.commandComplete cmd) with
            | (false, s1) => s1
            | (true, s0) => match s0.objAdd (clusterOf c.core) c.asid c.cpl c.status 1 c.scope with
              | (some f, s1) => s1.deviceFault c.asid (.device c.asid) c.cpl 6 f [.commandComplete cmd]
              | (none, s1) => finish (if 0x10 ≤ c.code then s1.irrevocable c.asid else s1))

end Sys2Proof.Machine
end

