-- ==== Sys2Proof/Machine/Place.lean ====
section
/-! DEFINITION. The dispatcher (R34, R36, R39, R356 to R359, R368): the resources of a core, the cores that a unit may use, placement of
workgroups and gangs, and the return of saved units (R373). -/

namespace Sys2Proof.Machine

/-! ## Resources of a core (R34, R294, R357) -/

/-- The core number of a lane group whose workgroup is off the device. -/
def nowhere : Nat := 1000

/-- The least start, a multiple of `al`, of a free range of `n` among ranges of `cap`. -/
def freeRange (al cap n : Nat) (used : List (Nat × Nat)) : Option Nat :=
  let starts := 0 :: used.map fun u => roundUp (u.1 + u.2) al
  let ok := fun a => a + n ≤ cap && used.all fun u => !overlaps a n u.1 u.2
  (sortKey (fun a => [a]) (starts.filter ok)).head?

/-- Resident workgroups of a core with their launches. -/
def State.onCore (s : State) (core : Nat) : List (Wg × Launch) :=
  (s.wgs.filter fun w => w.core == core && w.holds).filterMap fun w => (s.launch? w.launch).map fun l => (w, l)

/-- What one workgroup asks of a core: threads, lane groups. -/
structure Demand where
  threads : Nat
  groups  : Nat
deriving DecidableEq, Repr

def Launch.demand (l : Launch) : Demand := ⟨l.wgsize, ceilDiv l.wgsize 32⟩

/-- A place on a core: scratchpad base, operand-buffer base, sequencer slot. -/
structure Slot where
  core  : Nat
  base  : Nat
  obase : Nat
  seq   : Nat
deriving DecidableEq, Repr

/-- Does a core have room for a workgroup (R34, R357)? -/
def State.room (s : State) (l : Launch) (d : Demand) (core : Nat) : Option Slot :=
  let res := s.onCore core
  let cap := if isEnsign core then 65536 else 393216
  let slots := res.filterMap fun p => p.1.seq.map (·.slot)
  let slot := (upFrom 0 4).find? fun k => !slots.contains k
  match freeRange 1024 cap l.spadSize (res.map fun p => (p.1.base, p.2.spadSize)),
        freeRange 1 2048 l.obuf (res.map fun p => (p.1.obase, p.2.obuf)) with
  | some b, some o =>
      if isEnsign core then
        (if s.coreThreads core + d.threads ≤ 4 then some ⟨core, b, o, 0⟩ else none)
      else if s.coreThreads core + d.threads ≤ 2048 && s.coreGroups core + d.groups ≤ 64
          && s.coreRegBytes core + d.groups * l.groupBytes ≤ 524288 && (!l.isMatrix || slot.isSome) then
        some ⟨core, b, o, slot.getD 0⟩
      else none
  | _, _ => none

/-! ## Partitions and slices (R356 to R359, R409 to R414) -/

def State.rangeOf (s : State) (fe : Nat) : Nat := s.rregN 0 (0x1000 + 8 * fe)
def State.partValid (s : State) (fe : Nat) : Bool := bitOf (s.rangeOf fe) 31
/-- The clusters of a front end's partition. -/
def State.clustersOf (s : State) (fe : Nat) : List Nat :=
  if s.partValid fe then (upFrom 0 18).filter fun c => fld (s.rangeOf fe) 0 5 ≤ c && c ≤ fld (s.rangeOf fe) 16 5 else []

/-- The array and ensign cores of a cluster. -/
def arrayCores (cl : Nat) : List Nat := upFrom (12 * cl) 12
def ensignCores (cl : Nat) : List Nat := upFrom (216 + 2 * cl) 2

/-- A front end's exclusive array cores (R367). -/
def State.exclusive (s : State) (fe : Nat) : List Nat :=
  ((s.clustersOf fe).filter fun c => s.sharers c == [fe]).flatMap arrayCores

/-- The state of a VF's wake class machine (R419); the PF is always awake. -/
def State.wakeState (s : State) (fe : Nat) : Nat := if fe = 0 then 0 else fld (s.rregN fe 0x1803) 0 3

/-- May a front end's units be placed at all: the device runs, the partition is valid, no scrub runs, the VF is awake? -/
def State.mayPlace (s : State) (fe : Nat) : Bool :=
  s.boot == .ready && s.partValid fe && !(s.scrubs.any (·.fe == fe)) && !s.flrs.contains fe && s.wakeState fe == 0

/-- STATE of WAKE_STAT. -/
def State.setWake (s : State) (n st : Nat) : State :=
  s.wreg (n + 1) 0x1803 ((s.rreg (n + 1) 0x1803 &&& 0xFFFF0000#32) ||| BitVec.ofNat 32 st)

/-- The deep state ends with a wake event of any VF (R424): the others are COLLAPSED, and the clusters are powered up (R55). -/
def State.endDeep (s : State) : State :=
  if !s.deep then s
  else ({ s with deep := false, cycles := [(1000, s.stepNo)] } : State).over (upFrom 0 16) fun s m => if s.wakeState (m + 1) = 4 then s.setWake m 2 else s

/-- Is the queue of a graph enabled (R384)? While EN is 0 none of its work is launched or placed, strip chains apart, whose windows rule them.
DESIGN CHOICE (notes/assumptions/54.md). -/
def State.graphOn (s : State) (g : Graph) : Bool :=
  (match g.src with | .strip .. => true | _ => false) || bitOf (s.rregN (feOf g.asid) (0x0800 + 16 * g.queue)) 31

/-- The same for the graph of a launch. -/
def State.queueOn (s : State) (l : Launch) : Bool :=
  match s.graph? l.graph with
  | some g => s.graphOn g
  | none => true

/-- Does a front end hold work on a cluster that is ready or resident (R412)? -/
def State.hasWork (s : State) (fe cl : Nat) : Bool :=
  s.wgs.any fun w => match s.launch? w.launch with
    | some l => feOf l.asid == fe && l.prio != .strip
        && (if w.holds then clusterOf w.core == cl else w.state != .done && s.mayPlace fe && s.queueOn l)
    | none => false

/-- The next holder of a cluster after a front end: the turn ascends and skips front ends without work there (R412). -/
def State.nextHolder (s : State) (fe cl : Nat) : Option Nat :=
  let others := (s.sharers cl).filter fun f => f != fe && s.hasWork f cl
  match others.find? (· > fe) with
  | some f => some f
  | none => others.head?

/-- The front end that holds a shared cluster's time (R359, R412): the last holder while it has work there, else the next in the turn after
it, the lowest before any has held it. -/
def State.turnHolder (s : State) (cl : Nat) : Option Nat :=
  match mget 0 s.slices cl with
  | 0 => ((s.sharers cl).filter fun f => s.hasWork f cl).head?
  | h + 1 => if (s.sharers cl).contains h && s.hasWork h cl then some h else s.nextHolder h cl

/-- May a front end use a cluster now? -/
def State.sliceOk (s : State) (fe cl : Nat) : Bool := (s.sharers cl).length ≤ 1 || s.turnHolder cl == some fe

/-- The array and ensign cores of a cluster are zeroed: dirty lines are written back, the L1 and the instruction cache are empty, and nothing
stands of ended work. -/
def State.zeroCores (s : State) (cl : Nat) : State :=
  let s1 := s.over (s.l1.filter fun l => clusterOf l.core == cl) fun s l => s.l1Drop l .dev
  { s1 with
    icache := s1.icache.filter fun (i : ILine) => clusterOf i.core != cl
    past := s1.past.filter fun (w : Wg) => clusterOf w.core != cl
    ended := s1.ended.filter fun (p : Nat × Thread) => clusterOf p.1 != cl }

/-- A front end takes a shared cluster; the cores of the one that held it are zeroed first (R412). -/
def State.takeCluster (s : State) (fe cl : Nat) : State :=
  if (s.sharers cl).length < 2 || mget 0 s.slices cl = fe + 1 then s
  else { s.zeroCores cl with slices := mput 0 s.slices cl (fe + 1) }

/-- The strip and stage that a launch belongs to. -/
def State.stripOf (s : State) (l : Launch) : Option (Nat × Nat × Nat) :=
  (s.graph? l.graph).bind fun g => match g.src with
    | .strip slot sq => some (slot, sq, ((g.nodes[l.node]?).map (·.stage)).getD 0)
    | _ => none

/-- The cores that a launch's workgroups may use, in ascending order: for a strip stage those held for it on which no other work stands any
more (R356, R368), else the partition's cores that no window holds. -/
def State.coresFor (s : State) (l : Launch) (ensign : Bool) : List Nat :=
  let fe := feOf l.asid
  let all := (s.clustersOf fe).flatMap fun c => if s.sliceOk fe c then (if ensign then ensignCores c else arrayCores c) else []
  if ensign then all
  else match s.stripOf l with
    | some (slot, sq, stage) =>
        if stage = 0 then all.filter fun c => !(s.holds.any fun h => h.cores.contains c)
        else (((s.holds.find? fun h => h.slot == slot && h.sq == sq && h.stage == stage).map (·.cores)).getD []).filter fun c =>
          (s.onCore c).all fun p => s.stripOf p.2 == some (slot, sq, stage)
    | none => all.filter fun c => !(s.holds.any fun h => h.cores.contains c)

/-! ## Units and gangs -/

/-- The unit that a workgroup is placed, saved and resumed in (R36, R39): its gang and the co-resident entries it touches, closed. -/
def State.linked (s : State) (a b : Wg) : Bool :=
  a.launch == b.launch && ((a.gang.map (·.1)).isSome && (a.gang.map (·.1)) == (b.gang.map (·.1))
    || (match s.launch? a.launch with
        | some l => l.groups.any fun g => g.co && g.members.contains a.index && g.members.contains b.index
        | none => false))

def State.closeUnit (s : State) : Nat → List Wg → List Wg
  | 0, us => us
  | n + 1, us =>
      let more := s.wgs.filter fun w => !(us.any (·.id == w.id)) && w.state != .done && us.any fun u => s.linked u w
      if more.isEmpty then us else s.closeUnit n (us ++ more)

def State.unitOf (s : State) (w : Wg) : List Wg := sortKey (fun (x : Wg) => [x.index]) (s.closeUnit s.wgs.length [w])

/-- The cores of a gang of `g` that starts at (cluster, s). -/
def gangCores (cl st g : Nat) : List Nat := (upFrom 0 g).map fun i => 12 * cl + (st + i) % 12

/-- Free thread slots over cores. -/
def State.freeSlots (s : State) (cores : List Nat) : Nat := cores.foldl (fun n c => n + (2048 - s.coreThreads c)) 0

/-- The start of a gang (R36): the most free thread slots, then the lower cluster, then the lower start. -/
def State.gangStart (s : State) (g : Nat) (ok : List Nat → Bool) : Option (List Nat) :=
  let all := ((upFrom 0 18).flatMap fun cl => (upFrom 0 12).map fun st => gangCores cl st g).filter ok
  match sortKey (fun cs => [2048 * 12 - s.freeSlots cs]) all with
  | [] => none
  | c :: cs => ((c :: cs).find? fun x => s.freeSlots x == s.freeSlots c)

/-- The demand of a workgroup: as launched, or what it holds when it was saved. -/
def State.demandOf (s : State) (w : Wg) (l : Launch) : Demand :=
  if w.state = .saved then ⟨(s.wgThreads w.id).length, (s.groups.filter (·.wg == w.id)).length⟩ else l.demand

/-! ## Putting a workgroup on a core -/

/-- A fresh sequencer (R294). -/
def newSeq (slot : Nat) : Seq :=
  ⟨slot, .idle, [], none, 0, [], 0, 0, 0, none, false, none, List.replicate 8 .fresh, [], [], false⟩

/-- Launched threads start as R15 and R59 say; on an ensign core each has a lane group of its own (R41). -/
def State.launchThreads (s : State) (w : Wg) (l : Launch) (core : Nat) : State :=
  let per := if isEnsign core then 1 else 32
  s.over (upFrom 0 (ceilDiv l.wgsize per)) fun s g =>
    let (gid, s1) := s.newGroup core w.id
    s1.over ((upFrom 0 per).filter fun j => per * g + j < l.wgsize) fun s j =>
      s.addThread w.id gid j ⟨false, l.entry, BitVec.ofNat 32 (per * g + j), [], 0, false, false, none⟩

/-- HAL_CTXST of a context. -/
def ctxst (asid : Nat) : Nat := 0x0A00 + 8 * (asid % 64) + 6

/-- PROTECT (R380). -/
def State.protected' (s : State) (asid : Nat) : Bool := bitOf (s.rregN (feOf asid) (ctxst asid)) 3

/-- A context resumes: with ROLLS ≥ 2, PROTECT is set and its time begins to count (R380). -/
def State.resumed (s : State) (asid : Nat) : State :=
  if fld (s.rregN (feOf asid) (ctxst asid)) 4 4 ≥ 2 && !s.protected' asid then
    { s.setBit (feOf asid) (ctxst asid) 3 true with protect := mput 0 s.protect asid 1 }
  else s

/-- Does a kernel node that has been launched name .sys in place of .dev (R107, R277)? What stands of its body is CSCOPE. -/
def GNode.namesSys (n : GNode) : Bool := (n.kind == 1 || n.kind == 9) && n.body.headD 0 == 5

/-- The scope of the acquire at the start of a launch's threads: .sys where its node names it, or one that it follows (R107).
DEDUCED (notes/assumptions/40.md). -/
def State.startScope (s : State) (l : Launch) : Scope :=
  let before := ((s.graph? l.graph).map (·.nodes)).getD []
  if l.sysScope || before.any fun n => n.succ.contains l.node && n.namesSys then .sys else .dev

/-- A waiting workgroup is placed (R34, R294): scratchpad and buffers zero, its threads start after the acquire of R107. -/
def State.putWg (s : State) (w : Wg) (l : Launch) (p : Slot) : State :=
  let (n, s0) := s.newId
  let s1 := ({ s0 with past := s0.past.filter fun x => x.core != p.core } : State).updWg w.id fun w => { w with
    core := p.core, state := .resident, base := p.base, obase := p.obase, spad := [], obuf := [], resv := []
    spawnCt := BitVec.ofNat 32 l.wgsize, seq := if l.isMatrix then some (newSeq p.seq) else none, opened := n }
  let s2 := (s1.takeCluster (feOf l.asid) (clusterOf p.core)).served l.asid (Prio.num l.prio)
  ((s2.resumed l.asid).launchThreads w l p.core).acquire p.core l.asid (s.startScope l)

/-- Free bin numbers of a core. -/
def State.freeBins (s : State) (core : Nat) : List Nat := (upFrom 0 64).filter fun n => !(s.bins.any fun b => b.core == core && b.num == n)

/-- The timer of a bin or of a round, between the moment at which it started and the time for which it has run by `now`: while a workgroup
is halted or saved its timers do not run, and what State holds of them is the second (R43, R369). -/
def Bin.turned (b : Bin) (now : Nat) : Bin := { b with since := now - b.since }
def Round.turned (r : Round) (now : Nat) : Round := { r with since := now - r.since }

/-- Replayable records of workgroups reissue, and their waits read again (R373). -/
def State.reissueOf (s : State) (ids : List Nat) : State :=
  s.posts (((s.ops.filter fun o => ids.contains o.wg).map Op.event)
    ++ (s.threads.filter fun t => ids.contains t.wg).filterMap fun t => match t.park with
      | some (.cpl ..) | some (.held _ _ (.cplwait ..) _) => some (Instr.cplwaitPoll t.uid)
      | some (.held _ _ (.monwait ..) _) => some (Instr.monwaitPoll t.uid)
      | _ => none)

/-- What a workgroup that goes on finds to do (R373): replayable records reissue, commands that write its core's storage continue, its due bins
may launch (R24), its ring may move (R26), the hoists bound to it deliver (R42), and it may be complete (R33). -/
def State.goesOn (s : State) (wg : Nat) : State :=
  match s.wg? wg with
  | none => s
  | some w =>
      let cmds := (s.cmds.filter fun c => c.wg == some wg && !c.ended && !c.paused).map fun c => cmdEvent c.id c.code
      let due := (s.bins.filter fun b => b.wg == wg && b.due.isSome).map fun b => Instr.binLaunch b.core b.num
      let hoists := w.queues.toList.filterMap fun q => if q.port == .hoistin then some (Instr.hoistDelivery q.arg) else none
      ((s.reissueOf [wg]).posts (cmds ++ due ++ hoists ++ [.ringUnitMove wg])).wgCheck wg

/-- A saved workgroup is restored lane for lane (R43, R373): its groups, bins and operations move to the core, its image is free, and it goes
on. -/
def State.restoreWg (s : State) (w : Wg) (l : Launch) (p : Slot) : State :=
  let (n, s0) := s.newId
  let nums := s0.freeBins p.core
  let mine := s0.bins.filter fun b => b.wg == w.id && b.core == nowhere
  let renum := (mine.zip nums).map fun x => (x.1.num, x.2)
  let s1 := s0.updWg w.id fun w => { w with
    core := p.core, state := .resident, base := p.base, obase := p.obase, opened := n
    seq := w.seq.map fun q => { q with slot := p.seq }, round := w.round.map (Round.turned · s.dlc) }
  let s2 : State := { s1 with
    bins := s1.bins.map fun (b : Bin) => if b.wg = w.id && b.core = nowhere then { b.turned s.dlc with
      core := p.core, num := ((renum.find? (·.1 == b.num)).map (·.2)).getD b.num } else b
    ops := s1.ops.map fun (o : Op) => if o.wg = w.id then { o with core := p.core } else o }
  let s3 := s2.over (s2.groups.filter (·.wg == w.id)) fun s g =>
    let own := fun k => (s.groups.filter fun x => x.core == p.core && x.sched == k).length
    let k := if own 0 ≤ own 1 then 0 else 1
    { s with groups := s.groups.map fun (x : LaneGroup) => if x.id = g.id then { x with core := p.core, sched := k } else x }
  let s4 := ((s3.takeCluster (feOf l.asid) (clusterOf p.core)).served l.asid (Prio.num l.prio)).resumed l.asid
  let s5 : State := { s4 with saves := s4.saves.filter fun (i : SaveImage) => !(i.wg == w.id && i.slot == 0) }
  (s5.acquire p.core l.asid .dev).goesOn w.id

def State.putOrRestore (s : State) (w : Wg) (l : Launch) (p : Slot) : State :=
  if w.state = .saved then s.restoreWg w l p else s.putWg w l p

/-- Has a core bins for those that a saved workgroup holds? -/
def State.binsFit (s : State) (w : Wg) (core : Nat) : Bool := (s.bins.filter fun b => b.wg == w.id).length ≤ (s.freeBins core).length

/-- A core that takes a single workgroup: the lowest-numbered with room, or the one that is asked for. -/
def State.pick (s : State) (w : Wg) (l : Launch) (want : Option Nat) (barred : List Nat) : Option Slot :=
  let d := s.demandOf w l
  let cores := (s.coresFor l l.ensign).filter fun c => !barred.contains c && (want.isNone || want == some c) && s.binsFit w c
  (cores.filterMap fun c => s.room l d c).head?

/-- A gang of workgroups on a start of R36: member i on core (s + i) mod 12, whether or not all members are still there. The start is one of
those whose cores have room for every member now. DESIGN CHOICE (notes/assumptions/63.md). -/
def State.placeGang (s : State) (ws : List Wg) (l : Launch) (barred : List Nat) : Option State :=
  let cores := s.coresFor l l.ensign
  let coreOf := fun (cs : List Nat) (w : Wg) => cs.getD ((w.gang.map (·.2)).getD 0) 0
  let rooms := fun (cs : List Nat) => ws.map fun w => (w, s.room l (s.demandOf w l) (coreOf cs w))
  let ok := fun (cs : List Nat) => (rooms cs).all (·.2.isSome) && ws.all fun w =>
    cores.contains (coreOf cs w) && !barred.contains (coreOf cs w) && s.binsFit w (coreOf cs w)
  (s.gangStart l.gangSize ok).map fun cs => s.over (rooms cs) fun s p => match p.2 with
    | some slot => s.putOrRestore p.1 l slot
    | none => s

/-- Places a unit all or nothing: gangs first, then single workgroups. -/
def State.placeUnitOn (s : State) (unit : List Wg) (barred : List Nat) : Option State :=
  let gangs := ((unit.filterMap fun w => w.gang.map (·.1)).eraseDups).map fun g =>
    sortKey (fun (w : Wg) => [(w.gang.map (·.2)).getD 0]) (unit.filter fun w => (w.gang.map (·.1)) == some g)
  let s1 := gangs.foldl (fun (acc : Option State) ws => acc.bind fun s =>
    ((ws.head?).bind fun w => s.launch? w.launch).bind fun l => s.placeGang ws l barred) (some s)
  (unit.filter (·.gang.isNone)).foldl (fun (acc : Option State) w => acc.bind fun s =>
    (s.launch? w.launch).bind fun l => (s.pick w l none barred).map fun p => s.putOrRestore w l p) s1

/-- The cores that a waiting unit keeps free (R36, R44): those of the chosen start of each of its gangs, and for its single workgroups the
cores with the most free thread slots. DESIGN CHOICE for co-resident entries (DESIGN CHOICE, notes/assumptions/57.md). -/
def State.keptFor (s : State) (w : Wg) (l : Launch) : List Nat :=
  let cores := s.coresFor l l.ensign
  let unit := s.unitOf w
  let gangs := (unit.filterMap fun x => x.gang.map (·.1)).eraseDups
  let singles := (unit.filter (·.gang.isNone)).length
  gangs.flatMap (fun _ => (s.gangStart l.gangSize fun cs => cs.all cores.contains).getD [])
    ++ (sortKey (fun c => [s.coreThreads c, c]) cores).take singles

/-- The work that waits for placement in a front end's partition, the oldest first. -/
def State.waitingIn (s : State) (fe : Nat) : List Wg :=
  sortKey (fun (x : Wg) => x.since :: s.dispatchKey x) (s.wgs.filter fun x => (x.state == .waiting || x.state == .saved) &&
    (match s.launch? x.launch with | some m => feOf m.asid == fe | none => false))

/-- The cores on which a workgroup may not be placed because a gang or a co-resident entry that is the oldest work of its priority waiting in
the partition, of a priority at least that of the workgroup, keeps them free (R36, R44). -/
def State.gangBars (s : State) (w : Wg) (l : Launch) : List Nat :=
  let waiting := s.waitingIn (feOf l.asid)
  let prioOf := fun (x : Wg) => ((s.launch? x.launch).map fun m => Prio.num m.prio).getD 9
  let unit := (s.unitOf w).map (·.id)
  [0, 1, 2, 3].flatMap fun k => match waiting.find? fun x => prioOf x == k with
    | none => []
    | some g =>
        if (g.gang.isNone && !s.coResident g) || k > prioOf w || unit.contains g.id then []
        else match s.launch? g.launch with
          | none => []
          | some m => s.keptFor g m

/-- What comes after a unit has been placed: the shade stage may place the tiles it holds (R277), hoists may deliver, and gangs that wait on
barriers of a group are unaffected. -/
def State.afterPlace (s : State) (unit : List Wg) : State :=
  s.over unit fun s w => match s.launch? w.launch with
    | some l => if l.shade.isSome && !l.placed then s.postOnce (.shadeNode l.graph l.node) else s
    | none => s

def State.tryUnit (s : State) (w : Wg) (l : Launch) : State :=
  let unit := s.unitOf w
  if s.mayPlace (feOf l.asid) && s.queueOn l && unit.all fun x => x.state == .waiting || x.state == .saved then
    match s.placeUnitOn unit (s.gangBars w l) with
    | some s1 => s1.afterPlace unit
    | none => s
  else s

/-- WORKGROUP_PLACEMENT (R34, R356): a single workgroup, on the core that the dispatcher chose. -/
def execWorkgroupPlacement (wg : Nat) (core : Option Nat) (s : State) : Host.Outcome State Fault Refusal :=
  .next (match s.wg? wg, s.launchOfWg wg with
    | some w, some l =>
        if w.state = .waiting && w.gang.isNone && !s.coResident w && s.mayPlace (feOf l.asid) && s.queueOn l then
          (match s.pick w l core (s.gangBars w l) with
          | some p => (s.putWg w l p).afterPlace [w]
          | none => s)
        else s
    | _, _ => s)

/-- GANG_PLACEMENT (R36, R39): a gang or the members of co-resident entries, all or nothing. -/
def execGangPlacement (wg : Nat) (s : State) : Host.Outcome State Fault Refusal :=
  .next (match s.wg? wg, s.launchOfWg wg with
    | some w, some l => if w.state = .waiting then s.tryUnit w l else s
    | _, _ => s)

/-- The first address of a range of a context at which its front end is denied an access, page by page (R461). -/
def State.barred (s : State) (acc' : XAcc) (asid va n : Nat) : Option (Nat × XFault) × State :=
  ((upFrom 0 (n / 4096 + 1)).map fun k => if k = 0 then va else (va + 4096 * k) / 4096 * 4096).foldl (fun acc a =>
    if acc.1.isSome || a ≥ va + n then acc
    else match acc.2.xlate (feCluster (feOf asid)) asid (a % 2 ^ 52) acc' false with
      | (.ok _, s1) => (none, s1)
      | (.error f, s1) => (some (a, f), s1)) (none, s)

/-- The images of some workgroups in a slot, as address and length. -/
def State.imagesOf (s : State) (slot : Nat) (wgs : List Nat) : List (Nat × Nat) :=
  (s.saves.filter fun i => i.slot == slot && wgs.contains i.wg).map fun i =>
    (s.rreg2 (feOf i.asid) (0x0800 + 16 * i.q + 6) + i.off, i.len)

/-- The same over several ranges that are to be read. -/
def State.unreadable (s : State) (asid : Nat) (rs : List (Nat × Nat)) : Option (Nat × XFault) × State :=
  rs.foldl (fun acc r => if acc.1.isSome then acc else acc.2.barred .load asid r.1 r.2) (none, s)

/-- RESUME_PLACEMENT (R373): a saved unit is placed again, when the front end can read its images (R461). Its graph's queue must be enabled
(R384), and no rollback of its context be due. -/
def execResumePlacement (wg : Nat) (s : State) : Host.Outcome State Fault Refusal :=
  .next (match s.wg? wg, s.launchOfWg wg with
    | some w, some l =>
        let ids := (s.unitOf w).map (·.id)
        if w.state ≠ .saved || s.halts.any fun h => ids.contains h.1 then s
        else match s.unreadable l.asid (s.imagesOf 0 ids) with
          | (some (va, f), s1) => s1.feFault l.asid (.device l.asid) va 5 f (.resumePlacement wg)
          | (none, s1) => s1.tryUnit w l
    | _, _ => s)

/-- PC_GROUP_AGED (R16). -/
def execPcGroupAged (gid : Nat) (pc : DWord) (s : State) : Host.Outcome State Fault Refusal :=
  .next { s with groups := s.groups.map fun (g : LaneGroup) =>
    if g.id = gid && !g.aged.contains pc && s.threads.any fun t => t.gid == gid && t.pc == pc then { g with aged := g.aged ++ [pc] }
    else g }

end Sys2Proof.Machine
end

