-- ==== Sys2Proof/Machine/Chain.lean ====
section
/-! DEFINITION. Strip streams as the walker and the dispatcher see them: the arithmetic of a stream (R122, R124), the hard times of its
chains (R365), the dependencies of their stages (R123, R366) and the launch constants (R284). -/

namespace Sys2Proof.Machine

/-! ## Arithmetic of a stream (R122, R124, R125) -/

/-- Output strip height, and the factor NUM/DEN. -/
def Desc.h (d : Desc) : Nat := 16 * 2 ^ d.sh
def Desc.num (d : Desc) : Nat := if d.uf = 1 then 3 else if d.uf = 2 then 2 else 1
def Desc.den (d : Desc) : Nat := if d.uf = 1 then 2 else 1
/-- Render width and height, strips of a frame, and the height of the tallest render strip. -/
def Desc.rw (d : Desc) : Nat := d.ow * d.den / d.num
def Desc.rh (d : Desc) : Nat := d.oh * d.den / d.num
def Desc.n (d : Desc) : Nat := ceilDiv d.oh d.h
def Desc.hm (d : Desc) : Nat := ceilDiv (d.h * d.den) d.num
/-- Bytes per output pixel. -/
def Desc.bpp (d : Desc) : Nat := if d.ofmt = 2 then 3 else 4
/-- First render line of strip `k`, and the line after its last. -/
def Desc.y0 (d : Desc) (k : Nat) : Nat := d.h * k * d.den / d.num
def Desc.y1 (d : Desc) (k : Nat) : Nat := min (d.h * (k + 1) * d.den / d.num) d.rh
/-- Output lines of strip `k`. -/
def Desc.lines (d : Desc) (k : Nat) : Nat := min (d.h * k + d.h) d.oh - d.h * k
/-- Tiles of a row, and of strip `k` (R136). -/
def Desc.tcols (d : Desc) : Nat := ceilDiv d.rw 16
def Desc.tiles (d : Desc) (k : Nat) : Nat := d.tcols * ceilDiv (d.y1 k - d.y0 k) 16

/-- Slot sizes of the four rings, rounded up to 4 KiB. -/
def Desc.visSize (d : Desc) : Nat := roundUp (d.rw * d.hm * 8) 4096
def Desc.haloSize (d : Desc) : Nat := roundUp (d.rw * 2 * d.halo * 8) 4096
def Desc.outSize (d : Desc) : Nat := roundUp (d.ow * d.h * d.bpp) 4096
def Desc.area (d : Desc) : Nat := (d.dv + d.ds) * d.visSize + 4 * d.haloSize + d.dout * d.outSize

/-- Keys of the slots of sequence number `sq` in the bunting. -/
def Desc.visAt (d : Desc) (sq : Nat) : Nat := buntingBase + d.base + sq % d.dv * d.visSize
def Desc.shadeAt (d : Desc) (sq : Nat) : Nat := buntingBase + d.base + (d.dv + sq % d.ds) * d.visSize
def Desc.haloAt (d : Desc) (sq : Nat) : Nat := buntingBase + d.base + (d.dv + d.ds) * d.visSize + sq % 4 * d.haloSize
def Desc.outAt (d : Desc) (sq : Nat) : Nat :=
  buntingBase + d.base + (d.dv + d.ds) * d.visSize + 4 * d.haloSize + sq % d.dout * d.outSize

/-! ## Streams and instances -/

def State.stream? (s : State) (slot : Nat) : Option StripStream := s.streams.find? (·.slot == slot)
def State.updStream (s : State) (slot : Nat) (f : StripStream → StripStream) : State :=
  { s with streams := s.streams.map fun (x : StripStream) => if x.slot = slot then f x else x }
def StripStream.strip? (x : StripStream) (sq : Nat) : Option Strip := x.strips.find? (·.sq == sq)
def State.strip? (s : State) (slot sq : Nat) : Option (StripStream × Strip) :=
  (s.stream? slot).bind fun x => (x.strip? sq).map fun t => (x, t)
def State.updStrip (s : State) (slot sq : Nat) (f : Strip → Strip) : State :=
  s.updStream slot fun x => { x with strips := x.strips.map fun (t : Strip) => if t.sq = sq then f t else t }

/-- Strip index and frame of a sequence number (R122). -/
def StripStream.k (x : StripStream) (sq : Nat) : Nat := sq % max 1 x.desc.n
def StripStream.frame (x : StripStream) (sq : Nat) : Nat := sq / max 1 x.desc.n
def StripStream.isLast (x : StripStream) (sq : Nat) : Bool := x.k sq + 1 == x.desc.n

/-! ## Hard times (R365), in units of 2^-32 s -/

def State.tOut (s : State) (x : StripStream) (sq : Nat) : Nat :=
  s.rreg2 0 (streamReg x.slot 3) + x.frame sq * s.sreg x.slot 5 + x.k sq * x.desc.h * s.sreg x.slot 6
/-- T_f and T_sf, which may lie before time 0. -/
def State.hardF (s : State) (x : StripStream) (sq : Nat) : Int := (s.tOut x sq : Int) - s.sreg x.slot 7
def State.hardSf (s : State) (x : StripStream) (sq : Nat) : Int :=
  (if x.k sq ≥ 1 then s.hardF x (sq - 1) else s.hardF x sq) - s.sreg x.slot 10
/-- The opening and the close of stage 1 (render), 2 (shade) or 3 (upscale). -/
def State.span (s : State) (x : StripStream) (sq stage : Nat) : Int × Int :=
  let sf := s.hardSf x sq
  let sh := sf - s.sreg x.slot 9
  if stage = 1 then (sh - s.sreg x.slot 8, sh) else if stage = 2 then (sh, sf)
  else (s.hardF x sq - s.sreg x.slot 10, s.hardF x sq)

/-- The same as moments of the deadline counter. -/
def State.tF (s : State) (x : StripStream) (sq : Nat) : Nat := (s.hardF x sq).toNat
def State.tSf (s : State) (x : StripStream) (sq : Nat) : Nat := (s.hardSf x sq).toNat
def State.window (s : State) (x : StripStream) (sq stage : Nat) : Nat × Nat :=
  ((s.span x sq stage).1.toNat, (s.span x sq stage).2.toNat)

/-- The deadline counter has reached a moment at which a timed event takes place; while it is held it stays (R361). -/
def State.reach (s : State) (t : Nat) : State := if s.dlc < t && s.holdLeft = 0 then { s with dlc := t } else s

/-! ## Dependencies of the stages (R123, R366) -/

/-- Has a stage of a sequence number completed? Instances that are gone have completed. -/
def StripStream.ended (x : StripStream) (sq stage : Nat) : Bool :=
  match x.strip? sq with
  | some t => t.ended.contains stage
  | none => sq < x.nextSq

/-- Is the output slot of an instance consumed: encoded when published, or scanned out (R123, R144)? -/
def StripStream.consumed (x : StripStream) (sq : Nat) : Bool :=
  match x.strip? sq with
  | some t => if x.eng.1 = 1 then t.ended.contains 4 else t.scanned
  | none => sq < x.nextSq

/-- May a stage of an instance start? -/
def StripStream.may (x : StripStream) (t : Strip) (stage : Nat) : Bool :=
  let sq := t.sq
  let before := fun (n st : Nat) => sq < n || x.ended (sq - n) st
  match stage with
  | 1 => t.opened.contains 1 && before x.desc.dv 2
  | 2 => t.opened.contains 2 && before x.desc.ds 3 && before 1 2 && t.ended.contains 1
  | 3 => t.opened.contains 3 && (x.isLast sq || x.ended (sq + 1) 2) && before 1 3 && t.ended.contains 2
      && (sq < x.desc.dout || x.consumed (sq - x.desc.dout))
  | 4 => t.ended.contains 3
  | _ => true

/-- May a node of a graph start, as far as its strip stage is concerned? A stage that has started stays open to its own nodes. -/
def State.gate (s : State) (g : Graph) (n : Nat) : Bool :=
  match g.src with
  | .strip slot sq =>
      let stage := ((g.nodes[n]?).map (·.stage)).getD 0
      (match s.strip? slot sq with
      | some (x, t) => x.may t stage
      | none => false)
  | _ => true

/-- The event in which a node runs. -/
def nodeEvent (g n kind : Nat) : Instr :=
  match kind with
  | 1 => .kernelNode g n | 2 => .copyNode g n | 3 => .condNode g n | 4 => .loopNode g n | 5 => .signalNode g n
  | 6 => .extwaitNode g n | 7 => .subgraphNode g n | 8 => .renderNode g n none | 9 => .shadeNode g n | _ => .publishNode g n

/-- The nodes of a graph with their indices. -/
def Graph.indexed (g : Graph) : List (Nat × GNode) := (upFrom 0 g.nodes.length).zip g.nodes

/-- Ready nodes of a stream's instances try again. -/
def State.stripGo (s : State) (slot : Nat) : State :=
  match s.stream? slot with
  | none => s
  | some x => s.over (x.strips.filterMap fun t => s.graph? t.graph) fun s g =>
      s.over (g.indexed.filter fun p => p.2.state == .ready) fun s p => s.postOnce (nodeEvent g.id p.1 p.2.kind)

/-- A stage of an instance has completed; what waits for it tries again, a halo copy included (R123). -/
def State.stageEnd (s : State) (slot sq stage : Nat) : State :=
  let s1 := (s.updStrip slot sq fun t => if t.ended.contains stage then t else { t with ended := t.ended ++ [stage] }).stripGo slot
  if stage = 3 then s1.postOnce (.haloCopy slot (sq + 1)) else s1

/-- STATE and STATUS of TTS_SCTL (R363). -/
def State.sctl (s : State) (slot state status : Nat) : State :=
  let r := streamReg slot 0
  s.wreg 0 r ((s.rreg 0 r &&& 0x001F0000#32) ||| BitVec.ofNat 32 (state * 2 ^ 12 + status * 2 ^ 8))

/-- Instances that have been published and consumed, whose graphs are gone and whose hard finish has passed, are gone. A stream that retires returns to STATE 1 with
its last one, and one that closes frees its slot (R364). -/
def State.stripSweep (s : State) (slot : Nat) : State :=
  match s.stream? slot with
  | none => s
  | some x =>
      let live := x.strips.filter fun t => (s.graph? t.graph).isSome || (x.eng.1 ≠ 1 && !t.scanned) || !t.ended.contains 5
      let s1 := s.updStream slot fun x => { x with strips := live }
      if !x.retire || !live.isEmpty then s1
      else if x.close then ({ s1 with streams := s1.streams.filter fun (x : StripStream) => x.slot != slot } : State).sctl slot 0 0
      else (s1.updStream slot fun x => { x with retire := false, tmpl := none }).sctl slot 1 0

/-- The hard finish of an instance has passed. -/
def State.finished (s : State) (slot sq : Nat) : State :=
  (s.updStrip slot sq fun t => { t with ended := t.ended ++ [5] }).stripSweep slot

/-- The strip constants of a launch in an instance (R284). -/
def State.chainConsts (s : State) (g : Graph) (ks : List Word) : List Word :=
  match g.src with
  | .strip slot sq =>
      (match s.stream? slot with
      | some x => ks.take 26 ++ [s.rreg 0 (streamReg slot 22), s.rreg 0 (streamReg slot 23), BitVec.ofNat 32 (x.k sq),
          BitVec.ofNat 32 sq, BitVec.ofNat 32 (x.frame sq), BitVec.ofNat 32 (x.desc.y0 (x.k sq))]
      | none => ks)
  | _ => ks

end Sys2Proof.Machine
end

