-- ==== Sys2Proof/Machine/Graph.lean ====
section
/-! DEFINITION. Queues (R351 to R355), the halyard walker (R274 to R276, R280 to R282), and the launch of nodes (R277 to R281). -/

namespace Sys2Proof.Machine

/-! ## Reads of a front end (R277, R397) -/

/-- Reads bytes at a virtual address of a context for its front end. -/
def State.feRead (s : State) (asid va n : Nat) (sc : Scope) : (Except XFault (List Byte)) × State :=
  if va + n > 2 ^ 52 then (.error (.s1 0 0), s) else s.ctxRead (feCluster (feOf asid)) asid sc (n / 8 + 2) va n

/-- A number of `n` bytes at an offset of bytes read. -/
def at' (bs : List Byte) (o n : Nat) : Nat := leNat ((bs.drop o).take n)
/-- Are bytes `o` to `o + n - 1` zero? -/
def zeroAt (bs : List Byte) (o n : Nat) : Bool := ((bs.drop o).take n).all (· == 0#8)

/-! ## Nodes -/

def State.updNode (s : State) (g n : Nat) (f : GNode → GNode) : State :=
  s.updGraph g fun x => { x with nodes := x.indexed.map fun p => if p.1 = n then f p.2 else p.2 }
def State.node? (s : State) (g n : Nat) : Option (Graph × GNode) := (s.graph? g).bind fun x => (x.nodes[n]?).map fun y => (x, y)

/-- Is a node an EXTWAIT that has launched and waits? Its end takes its body. -/
def GNode.waits (x : GNode) : Bool := x.kind == 6 && x.state == .running && !x.body.isEmpty

/-- A node ends with a status. -/
def State.nodeEnd (s : State) (g n status : Nat) : State :=
  (s.updNode g n fun x => { x with status := status, state := .running, body := if x.kind = 6 then [] else x.body }).postOnce
    (.nodeComplete g n)

/-- A node is to be launched (R276): its event runs it. -/
def State.nodeLaunch (s : State) (g n : Nat) : State :=
  match s.node? g n with
  | some (_, x) => (s.updNode g n fun x => { x with state := .ready }).postOnce (nodeEvent g n x.kind)
  | none => s

/-! ## Graphs -/

/-- Graphs that run on a front end, and those of a queue. -/
def State.running' (s : State) (fe : Nat) : Nat := (s.graphs.filter fun g => feOf g.asid == fe && g.started).length
def State.queueGraphs (s : State) (fe q : Nat) : List Graph :=
  s.graphs.filter fun g => feOf g.asid == fe && (match g.src with | .queue f p _ => f == fe && p == q | _ => false)

/-- The entries of a queue's ring, and the index of its next entry in it. -/
def State.queueSize (s : State) (fe q : Nat) : Nat := max 1 (s.rregN fe (0x0800 + 16 * q + 3))
def State.queueHead (s : State) (fe q : Nat) : Nat := s.rregN fe (0x0800 + 16 * q + 4) % s.queueSize fe q

/-- How many entries of a queue are pending: (TAIL − HEAD) mod QSIZE (R354). -/
def State.pending (s : State) (fe q : Nat) : Nat :=
  (s.rregN fe (0x0800 + 16 * q + 5) + s.queueSize fe q - s.queueHead fe q) % s.queueSize fe q

/-- The queue looks at its next entry (R354, R355). -/
def State.queueGo (s : State) (fe q : Nat) : State :=
  if s.pending fe q = 0 || !bitOf (s.rregN fe (0x0800 + 16 * q)) 31 then s else s.postOnce (.run fe q (s.queueHead fe q))

/-- What follows the end of a graph: its source learns its status, graphs that wait may start, queues look at their next entries. QDONE rises
behind a release at .sys (R350). -/
def State.graphGone (s : State) (g : Graph) : State :=
  let s0 : State := { s with graphs := s.graphs.filter fun (x : Graph) => x.id != g.id }
  let s1 := match g.src with
    | .queue fe _ _ => if g.irq then (s0.rdcSync g.asid false).irq fe 0 else s0
    | .cmd id => s0.cmdEnd id g.status
    | .node p n => s0.nodeEnd p n g.status
    | .strip slot sq => ((s0.updStrip slot sq fun t => { t with ended := [1, 2, 3, 4] ++ t.ended.filter (· > 4) }).stripSweep slot).stripGo slot
  let s2 := match g.join with
    | some (p, n) => s1.postOnce (.nodeComplete p n)
    | none => s1
  let fe := feOf g.asid
  let s3 := s2.posts (((s2.graphs.filter fun x => feOf x.asid == fe && !x.started).take 1).map fun x => Instr.graphStart x.id)
  ((s3.over (upFrom 0 32) fun s q => s.queueGo fe q).irrevocable g.asid).fatalDone g.asid

/-- GRAPH_COMPLETE (R276): with nothing running or ready, the graph's object is completed, and then the graph is gone. -/
def State.graphCheck (s : State) (id : Nat) : State :=
  match s.graph? id with
  | none => s
  | some g =>
      if !g.started || g.nodes.any (fun n => n.state == .running || n.state == .paused || (n.state == .ready && !g.stop)) then s
      else if g.cpl = 0 || g.cpl % 16 ≠ 0 then s.graphGone g
      else match s.objGate (feCluster (feOf g.asid)) g.asid g.cpl (.graphStart id) with
        | (false, s0) => s0
        | (true, s0) => match s0.objAdd (feCluster (feOf g.asid)) g.asid g.cpl g.status 1 (if g.cscope = 5 then .sys else .dev) with
          | (some f, s1) => s1.feFault g.asid (.device g.asid) g.cpl 6 f (.graphStart id)
          | (none, s1) => s1.graphGone g

/-- Reads numbers of `w` bytes. -/
def splitN (w : Nat) : Nat → List Byte → List Nat
  | 0, _ => []
  | n + 1, bs => leNat (bs.take w) :: splitN w n (bs.drop w)

/-- The loops of a graph: the LOOP node with its body's first index and length. -/
def loopsOf (ns : List (Nat × GNode)) : List (Nat × Nat × Nat) :=
  ns.filterMap fun p => if p.2.kind = 4 then some (p.1, p.2.body.getD 0 0, p.2.body.getD 1 0) else none

def inBody (l : Nat × Nat × Nat) (n : Nat) : Bool := l.2.1 ≤ n && n < l.2.1 + l.2.2

/-- The innermost loop that holds a node. -/
def innermost (ls : List (Nat × Nat × Nat)) (n : Nat) : Option Nat :=
  ((sortKey (fun (l : Nat × Nat × Nat) => [l.2.2, l.1]) (ls.filter (inBody · n))).head?).map (·.1)

/-- Does a loop break R281? -/
def badLoop (ns : List (Nat × GNode)) (ls : List (Nat × Nat × Nat)) (l : Nat × Nat × Nat) : Bool :=
  l.2.2 < 1 || l.2.1 + l.2.2 > ns.length || inBody l l.1
    || ls.any (fun m => m.1 != l.1 && overlaps l.2.1 l.2.2 m.2.1 m.2.2
        && !((l.2.1 ≤ m.2.1 && m.2.1 + m.2.2 ≤ l.2.1 + l.2.2) || (m.2.1 ≤ l.2.1 && l.2.1 + l.2.2 ≤ m.2.1 + m.2.2)))
    || ns.any fun p => innermost ls p.1 == some l.1 && (p.2.succ ++ if p.2.kind = 3 then p.2.body else []).any fun x => !inBody l x

/-- Reads the false list of a COND (R280) as it stands at the start; one that lies outside SUCC is tested when the node launches. -/
def State.readFalse (s : State) (g : Graph) (nsucc : Nat) (bs : List Byte) : (Except (Nat × XFault) (List Nat)) × State :=
  let f0 := at' bs 24 4
  let fn := at' bs 28 4
  if at' bs 0 1 ≠ 3 || f0 + fn > nsucc then (.ok [], s)
  else match s.feRead g.asid (g.succVa + 4 * f0) (4 * fn) .dev with
    | (.error f, s1) => (.error (g.succVa + 4 * f0, f), s1)
    | (.ok cs, s1) => (.ok (splitN 4 fn cs), s1)

/-- Reads one node's common fields (R275), its successor list, for a LOOP the extent of its body, and for a COND its false list. -/
def State.readNode (s : State) (g : Graph) (nsucc i : Nat) : (Except (Nat × XFault) (GNode × Bool)) × State :=
  match s.feRead g.asid (g.nodeVa + 64 * i) 64 .dev with
  | (.error f, s1) => (.error (g.nodeVa + 64 * i, f), s1)
  | (.ok bs, s1) =>
      let kind := at' bs 0 1
      let s0 := at' bs 4 4
      let ns := at' bs 8 4
      let bad := kind < 1 || kind > 10 || !zeroAt bs 1 1 || !zeroAt bs 12 4 || s0 + ns > nsucc
      let node : GNode := ⟨kind, at' bs 2 2, [], at' bs 2 2, .idle, 0, 0, 0, if kind = 4 then [at' bs 24 4, at' bs 28 4] else [], 0, none⟩
      if bad then (.ok (node, true), s1)
      else match s1.feRead g.asid (g.succVa + 4 * s0) (4 * ns) .dev with
        | (.error f, s2) => (.error (g.succVa + 4 * s0, f), s2)
        | (.ok cs, s2) => match s2.readFalse g nsucc bs with
          | (.error e, s3) => (.error e, s3)
          | (.ok fs, s3) => (.ok ({ node with succ := splitN 4 ns cs, body := node.body ++ fs }, false), s3)

/-- Reads all nodes; the flag says whether one breaks a limit of its own. -/
def State.readNodes (s : State) (g : Graph) (nsucc : Nat) : Nat → Nat → (Except (Nat × XFault) (List GNode × Bool)) × State
  | 0, _ => (.ok ([], false), s)
  | n + 1, i =>
      match s.readNode g nsucc i with
      | (.error e, s1) => (.error e, s1)
      | (.ok (x, b), s1) =>
          match s1.readNodes g nsucc n (i + 1) with
          | (.error e, s2) => (.error e, s2)
          | (.ok (xs, c), s2) => (.ok (x :: xs, b || c), s2)

/-- Is a graph refused at start (R282)? DEDUCED (notes/assumptions/34.md). -/
def badNodes (strip : Bool) (ns : List GNode) : Bool :=
  let ix := (upFrom 0 ns.length).zip ns
  let ls := loopsOf ix
  ns.any (fun n => (!strip && n.kind ≥ 8) || n.succ.any (· ≥ ns.length)) || ls.any (badLoop ix ls)

/-- The header of a graph (R274): the graph with what it names, NNODES, NSUCC, and whether it breaks a limit. -/
def Graph.header (g : Graph) (bs : List Byte) : Graph × Nat × Nat × Bool :=
  let nn := at' bs 0 4
  let ns := at' bs 4 4
  let g1 : Graph := { g with nodeVa := at' bs 8 8, succVa := at' bs 16 8, cpl := at' bs 24 8, cscope := at' bs 32 1 }
  (g1, nn, ns, nn < 1 || nn > 65536 || ns > 2 ^ 20 || g1.nodeVa % 64 != 0 || g1.succVa % 4 != 0 || g1.cpl % 16 != 0
    || !(g1.cscope == 3 || g1.cscope == 5) || !zeroAt bs 33 31)

/-- A graph as read, or the fault, or BAD_GRAPH (R282). The header of a graph that a queue entry names is read as an acquire at .sys (R354). -/
def State.loadGraph (s : State) (g : Graph) (queued : Bool) : (Except (Nat × XFault) (Graph × Bool)) × State :=
  let sc := if queued then Scope.sys else Scope.dev
  let s0 := if sc = .sys then s.rdcSync g.asid true else s
  match s0.feRead g.asid g.va 64 sc with
  | (.error f, s1) => (.error (g.va, f), s1)
  | (.ok bs, s1) =>
      let (g1, nn, ns, bad) := g.header bs
      if bad then (.ok (g1, true), s1)
      else match s1.readNodes g1 ns nn 0 with
        | (.error e, s2) => (.error e, s2)
        | (.ok (xs, b), s2) =>
            let strip := match g.src with | .strip .. => true | _ => false
            let ls := loopsOf ((upFrom 0 xs.length).zip xs)
            let ys := ((upFrom 0 xs.length).zip xs).map fun p => { p.2 with inLoop := innermost ls p.1 }
            (.ok ({ g1 with nodes := ys }, b || badNodes strip xs), s2)

/-! ## Stages of a strip chain (R284) -/

/-- The nodes that can be reached from a set along successor edges. -/
def reachable (ns : List GNode) : Nat → List Nat → List Nat
  | 0, seen => seen
  | n + 1, seen =>
      let more := (seen.flatMap fun i => ((ns[i]?).map (·.succ)).getD []).eraseDups.filter fun i => !seen.contains i
      if more.isEmpty then seen else reachable ns n (seen ++ more)

/-- The nodes on a path from `a` to `b`, both included. -/
def between (ns : List GNode) (a b : Nat) : List Nat :=
  (reachable ns ns.length [a]).filter fun i => (reachable ns ns.length [i]).contains b

/-- The first node of a kind. -/
def nodeOf (ns : List GNode) (k : Nat) : Option Nat := (upFrom 0 ns.length).find? fun i => (ns[i]?).map (·.kind) == some k

/-- Nodes with their stages; none where the nodes are no strip chain. -/
def staged (ns : List GNode) : Option (List GNode) :=
  let one := fun k => (ns.filter fun n => n.kind == k).length == 1
  match nodeOf ns 8, nodeOf ns 9, nodeOf ns 10 with
  | some r, some sh, some p =>
      let rs := between ns r sh
      let up := between ns sh p
      let mid := up.filter fun i => i != sh && i != p
      if !(one 8 && one 9 && one 10) || rs.isEmpty || up.isEmpty
          || !(mid.any fun i => (ns[i]?).map (·.kind) == some 1) then none
      else some (((upFrom 0 ns.length).zip ns).map fun q => { q.2 with
        stage := if q.1 = sh then 2 else if q.1 = p then 4 else if rs.contains q.1 then 1 else if mid.contains q.1 then 3 else 0 })
  | _, _, _ => none

/-- Once a queue's graph has started, the queue looks at its next entry (R355). -/
def State.afterStart (s : State) (g : Graph) : State :=
  match g.src with
  | .queue fe q _ => s.queueGo fe q
  | _ => s

/-- GRAPH_START (R276, R282): the walker reads and checks a graph and launches its ready nodes; an instance that is no chain template any more
is refused (R284). A graph that has started is looked at for its end. -/
def execGraphStart (g : Nat) (s : State) : Host.Outcome State Fault Refusal :=
  .next (match s.graph? g with
    | none => s
    | some x =>
        if x.started then s.graphCheck g
        else if s.running' (feOf x.asid) ≥ 256 || !s.graphOn x then s
        else match s.loadGraph x x.queued with
          | (.error (va, f), s1) => s1.feFault x.asid (.front g) va 8 f (.graphStart g)
          | (.ok (y, bad), s1) =>
              let parts := match x.src with
                | .strip .. => staged y.nodes
                | _ => some y.nodes
              if bad || parts.isNone then
                ((s1.updGraph g fun _ => { y with started := true, stop := true, status := 7, nodes := [] }).afterStart x).graphCheck g
              else
                let z : Graph := { y with nodes := parts.getD [] }
                let s2 := (s1.updGraph g fun _ => { z with started := true }).afterStart x
                (s2.over (z.indexed.filter fun p => p.2.pred == 0 && p.2.inLoop.isNone) fun s p => s.nodeLaunch g p.1).graphCheck g)

/-! ## Completion of nodes -/

/-- The successors that a completing node names: a COND node's chosen list (R280), else its own. -/
def GNode.nexts (x : GNode) : List Nat := if x.kind = 3 then x.body else x.succ

/-- Step 4 of R276: each successor's count falls, and a node launches when its count reaches 0; below zero the graph stops (R282). -/
def State.decrement (s : State) (g n : Nat) : State :=
  match s.node? g n with
  | none => s
  | some (x, y) =>
      if y.cnt = 0 then s.updGraph g fun x => { x with status := if x.status = 0 then 7 else x.status, stop := true }
      else
        let s1 := s.updNode g n fun y => { y with cnt := y.cnt - 1 }
        if y.cnt = 1 && !x.stop && y.state = .idle then s1.nodeLaunch g n else s1

/-- Has an iteration of a loop ended: no node of its body is running or ready? -/
def Graph.iterDone (x : Graph) (l : Nat) : Bool :=
  match x.nodes[l]? with
  | some y => x.indexed.all fun p => !inBody (l, y.body.getD 0 0, y.body.getD 1 0) p.1 || p.2.state == .idle || p.2.state == .done
      || (x.stop && p.2.state == .ready)
  | none => false

/-- What a node's completion means for its strip stage: when every node of the stage has completed, the stage has (R284). -/
def State.stageCheck (s : State) (g : Graph) (stage : Nat) : State :=
  match g.src with
  | .strip slot sq =>
      if stage ≠ 0 && g.nodes.all fun n => n.stage != stage || n.state == .done then s.stageEnd slot sq stage else s
  | _ => s

/-- A SHADE node's stage completes after its halo copy (R123, R126). -/
def State.shadeDone (s : State) (g n : Nat) : Bool :=
  match s.node? g n with
  | some (x, y) => y.kind != 9 || y.status != 0 || (match x.src with
    | .strip slot sq => ((s.strip? slot sq).map (·.2.halo)).getD true
    | _ => true)
  | none => true

/-- NODE_COMPLETE (R276). A kernel node waits for its workgroups and for its joined subgraphs (R277, R283). -/
def execNodeComplete (g n : Nat) (s : State) : Host.Outcome State Fault Refusal :=
  .next (match s.node? g n with
    | none => s
    | some (_, y) =>
        if y.state = .done || (y.state != .running && y.state != .paused)
            || s.graphs.any (fun x => x.join == some (g, n)) || s.cmds.any (fun c => c.join == some (g, n))
            || s.launches.any (fun l => l.graph == g && l.node == n) || !s.shadeDone g n then s
        else
          let s1 := s.updNode g n fun y => { y with state := .done }
          let s2 := if y.status ≠ 0 then s1.updGraph g fun x => { x with
              status := if x.status = 0 then y.status else x.status, stop := true } else s1
          let s3 := if y.status ≠ 0 then s2 else s2.over y.nexts fun s m => s.decrement g m
          let s4 := match s3.graph? g with
            | some x => s3.stageCheck x y.stage
            | none => s3
          let s5 := match y.inLoop, s4.graph? g with
            | some l, some x => if x.iterDone l then s4.postOnce (.loopIterationEnd g l) else s4
            | _, _ => s4
          s5.graphCheck g)

/-- A launched node waits for the answer to a page request, or for its undo record; its graph does not complete before it (R279, R282, R461). -/
def State.nodePause (s : State) (g n : Nat) : State := s.updNode g n fun y => { y with state := .paused }

/-- A launched node pauses on an access that faults, and its event comes again with the answer. -/
def State.nodeStop (s : State) (asid g n va access : Nat) (e : XFault) (redo : Instr) : State :=
  (s.nodePause g n).feFault asid (.node g n) va access e redo

/-- May a node's event run: it is ready in a graph that goes on, with its stage open and its queue enabled, or it has been launched and pauses? -/
def State.nodeMay (s : State) (x : Graph) (y : GNode) (n : Nat) : Bool :=
  (y.state == .ready && !x.stop && s.gate x n && s.graphOn x) || y.state == .paused

/-- Runs a node's event: its body is read as an acquire at .dev. DEDUCED (notes/assumptions/34.md). -/
def State.withBody (s : State) (g n : Nat) (redo : Instr) (f : State → Graph → GNode → List Byte → State) : State :=
  match s.node? g n with
  | none => s
  | some (x, y) =>
      if !s.nodeMay x y n then s
      else match s.feRead x.asid (x.nodeVa + 64 * n + 16) 48 .dev with
        | (.error e, s1) => s1.nodeStop x.asid g n (x.nodeVa + 64 * n + 16) 8 e redo
        | (.ok bs, s1) => f s1 x y bs

/-! ## COND, LOOP, SIGNAL, EXTWAIT, SUBGRAPH and COPY nodes (R279 to R281) -/

/-- Is a node no legal successor of node `n` (R281, R282): outside the graph, or outside the innermost loop body that holds `n`? -/
def Graph.leaves (x : Graph) (n m : Nat) : Bool :=
  m ≥ x.nodes.length || (match ((x.nodes[n]?).bind (·.inLoop)).bind (x.nodes[·]?) with
    | some l => !inBody (0, l.body.getD 0 0, l.body.getD 1 0) m
    | none => false)

/-- COND_NODE (R280). Body offsets count from byte 16 of the node. A false list that leaves the graph or the node's loop body ends the node
with BAD_GRAPH. -/
def execCondNode (g n : Nat) (s : State) : Host.Outcome State Fault Refusal :=
  .next (s.withBody g n (.condNode g n) fun s x y bs =>
    if !zeroAt bs 16 32 then s.nodeEnd g n 1
    else match s.feRead x.asid (at' bs 0 8) 4 .dev with
      | (.error e, s1) => s1.nodeStop x.asid g n (at' bs 0 8) 8 e (.condNode g n)
      | (.ok w, s1) =>
          if leNat w ≠ 0 then (s1.updNode g n fun z => { z with body := y.succ }).nodeEnd g n 0
          else match s1.feRead x.asid (x.succVa + 4 * at' bs 8 4) (4 * at' bs 12 4) .dev, s1.feRead x.asid x.va 64 .dev with
            | (.ok cs, s2), (.ok hd, _) =>
                let xs := splitN 4 (at' bs 12 4) cs
                if at' bs 8 4 + at' bs 12 4 > at' hd 4 4 || xs.any (x.leaves n) then s2.nodeEnd g n 7
                else (s2.updNode g n fun z => { z with body := xs }).nodeEnd g n 0
            | (.error e, s2), _ => s2.nodeStop x.asid g n (x.succVa + 4 * at' bs 8 4) 8 e (.condNode g n)
            | _, (.error e, s2) => s2.nodeStop x.asid g n x.va 8 e (.condNode g n))

/-- The top of a loop (R281): the predicate is read, and another iteration starts or the node completes. Body numbers of the node: BF, NB,
PADDR, MAXITER, CTR. -/
def State.loopTop (s : State) (g n : Nat) : State :=
  match s.node? g n with
  | none => s
  | some (x, y) =>
      let paddr := y.body.getD 2 0
      let maxi := y.body.getD 3 0
      let ctr := y.body.getD 4 0
      let pause := fun (s : State) va acc e => s.nodeStop x.asid g n va acc e (.loopNode g n)
      if x.stop then s.nodeEnd g n 0
      else match s.feRead x.asid paddr 4 .dev with
        | (.error e, s1) => pause s1 paddr 8 e
        | (.ok w, s1) =>
            if leNat w = 0 || (maxi ≠ 0 && y.iter = maxi) then s1.nodeEnd g n 0
            else
              let cl := feCluster (feOf x.asid)
              let gate := if ctr = 0 || ctr + 4 > 2 ^ 52 then (true, s1) else s1.undoSpan cl x.asid ctr 4 (.loopNode g n)
              let stored : Except XFault State := if ctr = 0 then .ok s1
                else if ctr + 4 > 2 ^ 52 then .error (.s1 0 0)
                else gate.2.ctxWrite cl x.asid .dev 3 ctr (bytesOf 4 y.iter)
              if !gate.1 then gate.2.nodePause g n
              else match stored with
              | .error e => pause gate.2 ctr 6 e
              | .ok s2 =>
                  let l := (n, y.body.getD 0 0, y.body.getD 1 0)
                  let fresh := fun (p : Nat × GNode) =>
                    if p.1 = n then { p.2 with state := .running }
                    else if inBody l p.1 then { p.2 with cnt := p.2.pred, state := .idle, status := 0 } else p.2
                  let s3 := s2.updGraph g fun x => { x with nodes := x.indexed.map fresh }
                  let go := x.indexed.filter fun p => p.2.inLoop == some n && p.2.pred == 0
                  if go.isEmpty then s3.postOnce (.loopIterationEnd g n) else s3.over go fun s p => s.nodeLaunch g p.1

/-- LOOP_NODE (R281): on launch; and again when its body, or with that read its predicate or counter, could be reached after a fault. -/
def execLoopNode (g n : Nat) (s : State) : Host.Outcome State Fault Refusal :=
  .next (match s.node? g n with
    | some (_, y) =>
        if y.state = .paused && y.body.length > 2 then s.loopTop g n
        else s.withBody g n (.loopNode g n) fun s _ y bs =>
          if !zeroAt bs 20 4 || !zeroAt bs 32 16 then s.nodeEnd g n 1
          else (s.updNode g n fun z => { z with
            state := .running, iter := 0, body := y.body.take 2 ++ [at' bs 0 8, at' bs 16 4, at' bs 24 8] }).loopTop g n
    | none => s)

/-- LOOP_ITERATION_END (R281). -/
def execLoopIterationEnd (g n : Nat) (s : State) : Host.Outcome State Fault Refusal :=
  .next (match s.node? g n with
    | some (x, y) =>
        if y.kind = 4 && y.state = .running && x.iterDone n then
          (s.updNode g n fun y => { y with iter := y.iter + 1 }).loopTop g n
        else s
    | none => s)

/-- SIGNAL_NODE (R279). -/
def execSignalNode (g n : Nat) (s : State) : Host.Outcome State Fault Refusal :=
  .next (s.withBody g n (.signalNode g n) fun s x _ bs =>
    let obj := at' bs 0 8
    let cs := at' bs 16 1
    if !(cs == 3 || cs == 5) || !zeroAt bs 17 31 then s.nodeEnd g n 1
    else if obj % 16 ≠ 0 then s.nodeEnd g n 2
    else match s.objGate (feCluster (feOf x.asid)) x.asid obj (.signalNode g n) with
      | (false, s0) => s0.nodePause g n
      | (true, s0) => match s0.objAdd (feCluster (feOf x.asid)) x.asid obj 0 (at' bs 8 8) (if cs = 5 then .sys else .dev) with
        | (some e, s1) => s1.nodeStop x.asid g n obj 6 e (.signalNode g n)
        | (none, s1) => (s1.nodeEnd g n 0).irrevocable x.asid)

/-- Reads the object of an EXTWAIT that has launched: its counter is large enough, or the node goes on waiting. Body numbers of the node: OBJ,
VALUE, the flags. -/
def State.extwaitRead (s : State) (x : Graph) (g n : Nat) (body : List Nat) : State :=
  match s.feRead x.asid (body.getD 0 0) 8 .dev with
  | (.error e, s1) => s1.feFault x.asid (.node g n) (body.getD 0 0) 8 e (.extwaitNode g n)
  | (.ok w, s1) => if leNat w ≥ body.getD 1 0 then s1.nodeEnd g n 0 else s1

/-- EXTWAIT_NODE (R279): once launched the node runs, and its event comes again until the object's counter is large enough. That of a collapsed VF
does not read (R421). -/
def execExtwaitNode (g n : Nat) (s : State) : Host.Outcome State Fault Refusal :=
  .next (match s.node? g n with
    | some (x, y) =>
        if y.waits then (if s.wakeState (feOf x.asid) = 0 then s.extwaitRead x g n y.body else s)
        else s.withBody g n (.extwaitNode g n) fun s x _ bs =>
          let body := [at' bs 0 8, at' bs 8 8, at' bs 16 1]
          if fld (at' bs 16 1) 1 7 ≠ 0 || !zeroAt bs 17 31 then s.nodeEnd g n 1
          else if at' bs 0 8 % 16 ≠ 0 then s.nodeEnd g n 2
          else (s.updNode g n fun y => { y with state := .running, body := body }).extwaitRead x g n body
    | none => s)

/-- SUBGRAPH_NODE (R279): subgraphs nest at most 8 deep. -/
def execSubgraphNode (g n : Nat) (s : State) : Host.Outcome State Fault Refusal :=
  .next (s.withBody g n (.subgraphNode g n) fun s x _ bs =>
    if !zeroAt bs 8 40 then s.nodeEnd g n 1
    else if x.depth ≥ 8 then s.nodeEnd g n 7
    else
      let (id, s1) := s.newId
      let c := newGraph id x.asid (.node g n) (at' bs 0 8) (x.depth + 1) x.queue false none
      (({ s1 with graphs := s1.graphs ++ [c] } : State).updNode g n fun y => { y with state := .running, ref := id }).post (.graphStart id))

/-- The copy engine that a front end chooses: that of the first cluster of its partition. -/
def State.copyCore (s : State) (fe : Nat) : Nat := 12 * (s.clustersOf fe).headD 0

/-- COPY_NODE (R279): the body holds the words of a COPY, FILL or TILE command. -/
def execCopyNode (g n : Nat) (s : State) : Host.Outcome State Fault Refusal :=
  .next (s.withBody g n (.copyNode g n) fun s x _ bs =>
    let ws := wordsOf 12 bs
    let code := cmdCode ws
    match cmdLen .copy code with
    | none => s.nodeEnd g n 1
    | some k =>
        if (ws.drop k).any (· != 0#32) then s.nodeEnd g n 1
        else
          let (id, s1) := s.newId
          let c : Cmd := ⟨id, x.asid, .node g n, s1.copyCore (feOf x.asid), ws.take k, 0, 0, false, false, 0, x.queue, none⟩
          (({ s1 with cmds := s1.cmds ++ [c] } : State).updNode g n fun y => { y with state := .running, ref := id }).post (cmdEvent id code))

/-! ## KERNEL nodes (R277, R278) -/

/-- What the front end reads for a launch: the header, the entry table, the line counts, the group table with its member lists, and the
constants. -/
structure Image where
  head  : List Byte
  ents  : List Nat
  obufs : List Nat
  table : List (List Byte)
  lists : List (List Nat)
  consts : List Word
deriving DecidableEq, Repr

/-- Reads the member lists of a group table's entries. -/
def State.readLists (s : State) (asid image : Nat) : List (List Byte) → (Except (Nat × XFault) (List (List Nat))) × State
  | [] => (.ok [], s)
  | e :: es =>
      let va := image + at' e 0 4
      match s.feRead asid va (4 * at' e 4 2) .dev with
      | (.error f, s1) => (.error (va, f), s1)
      | (.ok bs, s1) =>
          match s1.readLists asid image es with
          | (.error f, s2) => (.error f, s2)
          | (.ok ls, s2) => (.ok (splitN 4 (at' e 4 2) bs :: ls), s2)

/-- Cuts bytes into entries of 8. -/
def chunks8 : Nat → List Byte → List (List Byte)
  | 0, _ => []
  | n + 1, bs => bs.take 8 :: chunks8 n (bs.drop 8)

/-- Reads one table of an image. -/
def State.readPart (s : State) (asid va n : Nat) (k : List Byte → State → (Except (Nat × XFault) Image) × State) :
    (Except (Nat × XFault) Image) × State :=
  match s.feRead asid va n .dev with
  | (.error f, s1) => (.error (va, f), s1)
  | (.ok bs, s1) => k bs s1

/-- Reads an image (R278) and a constant block. -/
def State.readImage (s : State) (asid image const : Nat) : (Except (Nat × XFault) Image) × State :=
  s.readPart asid image 64 fun h s =>
    if at' h 0 4 ≠ 0x4B4E5901 then (.ok ⟨h, [], [], [], [], []⟩, s)
    else s.readPart asid (image + at' h 24 4) (4 * at' h 28 2) fun e s =>
      s.readPart asid (image + at' h 32 4) (2 * at' h 30 2) fun o s =>
        s.readPart asid (image + at' h 36 4) (if at' h 36 4 = 0 then 0 else 2048) fun t s =>
          s.readPart asid const (if const = 0 then 0 else 128) fun c s =>
            let tab := if at' h 36 4 = 0 then [] else chunks8 256 t
            match s.readLists asid image tab with
            | (.error f, s1) => (.error f, s1)
            | (.ok ls, s1) => (.ok ⟨h, splitN 4 (at' h 28 2) e, splitN 2 (at' h 30 2) o, tab, ls,
                if const = 0 then List.replicate 32 0#32 else wordsOf 32 c⟩, s1)

/-- The sync groups of an image (R38, R278). -/
def Image.groups (m : Image) : List SyncGroup :=
  (((upFrom 0 m.table.length).zip (m.table.zip m.lists)).filter fun p => at' p.2.1 4 2 != 0).map fun p =>
    ⟨p.1, p.2.2, bitOf (at' p.2.1 6 1) 0⟩

/-- The launch that a node and an image describe. DEDUCED (notes/assumptions/47.md). -/
def mkLaunch (id asid g n image const : Nat) (bs : List Byte) (m : Image) (prio : Prio) (shade : Option (Nat × Nat)) : Launch :=
  let h := m.head
  let code := image + at' h 16 4
  let tix := at' bs 12 2
  { id := id, asid := asid, level := .u, regs := at' h 4 2, wgsize := at' h 6 2, scratch := at' h 8 4, gangSize := at' h 12 1
    rstack := at' h 13 1, binTimer := at' h 14 2, obuf := m.obufs.foldl (· + ·) 0, ensign := at' h 48 1 == 1
    isMatrix := bitOf (at' h 49 1) 0, consts := if const = 0 then List.replicate 32 0#32 else m.consts
    trap := if tix = 0 then none else some (BitVec.ofNat 64 (code + m.ents.getD (tix - 1) 0))
    groups := m.groups, entry := BitVec.ofNat 64 (code + m.ents.headD 0), code := (code, at' h 20 4)
    cring := at' bs 24 8, crcap := at' bs 32 4, prio := prio, graph := g, node := n, shade := shade, placed := false
    sysScope := at' bs 14 1 == 5 }

/-- How many workgroups of a launch an empty core holds (R34, R357). -/
def Launch.perCore (l : Launch) : Nat :=
  let fit := fun (cap need : Nat) => if need = 0 then 2048 else cap / need
  if l.ensign then min (fit 4 l.wgsize) (fit 65536 l.spadSize)
  else min (min (fit 2048 l.wgsize) (fit 64 (ceilDiv l.wgsize 32)))
    (min (fit 524288 (ceilDiv l.wgsize 32 * l.groupBytes)) (min (fit 393216 l.spadSize)
      (min (fit 2048 l.obuf) (if l.isMatrix then 4 else 2048))))

/-- Workgroups of a launch, waiting for placement (R277). -/
def State.makeWgs (s : State) (l : Launch) (count : Nat) : State :=
  let gid0 := s.fresh
  let s0 : State := { s with fresh := s.fresh + (if l.gangSize = 0 then 0 else count / l.gangSize) }
  s0.over (upFrom 0 count) fun s i =>
    let (id, s1) := s.newId
    let w : Wg := ⟨id, i, l.id, nowhere, .waiting, 0, [], 0, [], [], Vector.replicate 16 .none, 0#32, 0, 0, 0, [], false, none, none,
      if l.gangSize = 0 then none else some (gid0 + i / l.gangSize, i % l.gangSize), [], 0, s.dlc⟩
    { s1 with wgs := s1.wgs ++ [w] }

/-- Could a front end's partition place a co-resident entry of a launch at once, with the gangs that it touches, if nothing else stood on
its cores (R34, R38)? -/
def State.entryFits (s : State) (l0 : Launch) (count : Nat) (g : SyncGroup) : Bool :=
  let l : Launch := { l0 with graph := 0, prio := .normal }
  let s1 := ({ s with wgs := [], threads := [], groups := [], bins := [], holds := [], launches := [l] } : State).makeWgs l count
  let touched := fun (w : Wg) => s1.wgs.any fun m => g.members.contains m.index
    && (m.id == w.id || (m.gang.isSome && m.gang.map (·.1) == w.gang.map (·.1)))
  (s1.placeUnitOn (s1.wgs.filter touched) []).isSome

/-- Does the front end refuse a launch (R23, R34, R38, R46, R277, R278, R291, R357, R377)? -/
def State.refuses (s : State) (bs : List Byte) (m : Image) (l : Launch) (image count : Nat) : Bool :=
  let h := m.head
  at' h 0 4 != 0x4B4E5901
    || m.ents.any (fun e => e % 12 != 0 || e ≥ at' h 20 4) || at' bs 12 2 > at' h 28 2
    || count < 1 || count > 2 ^ 24 || (l.gangSize != 0 && count % l.gangSize != 0)
    || !(at' bs 14 1 == 3 || at' bs 14 1 == 5) || !zeroAt bs 15 1 || at' bs 16 8 % 8 != 0 || !zeroAt bs 40 8
    || l.regs < 1 || l.regs > 120 || l.wgsize < 1 || l.wgsize > (if l.ensign then 4 else 1024)
    || l.gangSize == 1 || l.gangSize > 12 || l.rstack > 32 || l.binTimer < 1 || l.binTimer > 1000
    || (image + at' h 16 4) % 12 != 0 || at' h 20 4 % 12 != 0 || at' h 28 2 < 1 || at' h 30 2 > 64
    || at' h 48 1 > 1 || at' h 49 1 > 1 || !zeroAt h 50 2 || at' h 52 4 % 4 != 0 || !zeroAt h 60 4
    || (l.rstack ≥ 1 && l.rSize > l.spadSize) || l.perCore == 0
    || m.table.any (fun e => at' e 6 1 > 1 || !zeroAt e 7 1)
    || l.groups.any (fun g => g.members.any (· ≥ count) || (g.co && !s.entryFits l count g))
    || (upFrom 0 count).any (fun w => (l.groups.filter fun g => g.members.contains w).length > 4)
    || (l.ensign && (l.scratch > 65536 || l.gangSize != 0 || l.obuf != 0 || l.isMatrix || l.rstack != 0 || l.groups.any (·.co)))
    || ((s.rollbackQueue l.asid).isSome && s.rregN (feOf l.asid) (0x0A00 + 8 * (l.asid % 64) + 3) < 65536)

/-- The priority of a queue (R352). -/
def State.queuePrio (s : State) (fe q : Nat) : Prio :=
  match fld (s.rregN fe (0x0800 + 16 * q)) 26 2 with
  | 0 => .strip | 1 => .high | 2 => .normal | _ => .batch

/-- Launches a KERNEL or SHADE node whose body is read: refused with BAD_LAUNCH, or its workgroups wait for placement. -/
def State.kernelLaunch (s : State) (x : Graph) (g n : Nat) (bs : List Byte) (shade : Option (Nat × Nat)) (redo : Instr) : State :=
  let image := at' bs 0 8
  let count := at' bs 8 4
  let const := at' bs 16 8
  match s.readImage x.asid image (if const % 8 = 0 then const else 0) with
  | (.error (va, f), s1) => s1.nodeStop x.asid g n va 8 f redo
  | (.ok m, s1) =>
      let (id, s2) := s1.newId
      let prio := match x.src with | .strip .. => Prio.strip | _ => s2.queuePrio (feOf x.asid) x.queue
      let l0 := mkLaunch id x.asid g n image const bs m prio shade
      let l := { l0 with consts := s2.chainConsts x l0.consts }
      if s2.refuses bs m l image count then s2.nodeEnd g n 8
      else
        let s3 : State := { s2 with launches := s2.launches ++ [l] }
        ((s3.makeWgs l count).updNode g n fun y => { y with state := .running, ref := id, body := [at' bs 14 1] }).dispatch

/-- Do a graph's launches wait for a valid partition (R410)? -/
def State.launchesWait (s : State) (g : Nat) : Bool := (s.graph? g).any fun x => !s.partValid (feOf x.asid)

/-- Ready nodes of a front end's graphs try again. -/
def State.readyGo (s : State) (fe : Nat) : State :=
  s.over (s.graphs.filter fun g => feOf g.asid == fe) fun s g =>
    s.over (g.indexed.filter fun p => p.2.state == .ready) fun s p => s.postOnce (nodeEvent g.id p.1 p.2.kind)

/-- KERNEL_NODE (R277). -/
def execKernelNode (g n : Nat) (s : State) : Host.Outcome State Fault Refusal :=
  .next (if s.launchesWait g then s else s.withBody g n (.kernelNode g n) fun s x _ bs =>
    if !zeroAt bs 36 4 then s.nodeEnd g n 8 else s.kernelLaunch x g n bs none (.kernelNode g n))

/-! ## Queues (R351 to R355) -/

/-- An entry is consumed: HEAD advances. -/
def State.consume (s : State) (fe q : Nat) : State :=
  s.wreg fe (0x0800 + 16 * q + 4) (BitVec.ofNat 32 ((s.queueHead fe q + 1) % s.queueSize fe q))

/-- ERR and LASTERR of a queue (R353). -/
def State.queueErr (s : State) (fe q code : Nat) : State :=
  s.wreg fe (0x0800 + 16 * q + 9) (BitVec.ofNat 32 (2 ^ 31 + code))

/-- May a queue take entry `idx`: it is enabled and awake, the entry is the next pending one, and no earlier graph holds it back, because it has
yet to start or, without OVERLAP, to complete (R355)? -/
def State.mayTake (s : State) (fe q idx : Nat) : Bool :=
  let b := 0x0800 + 16 * q
  let w := s.rregN fe b
  bitOf w 31 && s.boot == .ready && !s.flrs.contains fe && s.wakeState fe == 0 && s.queueHead fe q == idx
    && s.pending fe q != 0 && ((s.queueGraphs fe q).all fun g => bitOf w 24 && g.started)
    && s.running' fe < 256

/-- The next entry of a queue: its graph, OP, FLAGS and STREAM. The entry is read as an acquire at .sys (R354). -/
def State.readEntry (s : State) (fe q idx : Nat) (redo : Instr) (f : State → Nat → Nat → Nat → Nat → State) : State :=
  let b := 0x0800 + 16 * q
  let asid := 64 * fe + fld (s.rregN fe b) 16 6
  let va := s.rreg2 fe (b + 1) + 16 * idx
  if !s.mayTake fe q idx then s
  else match (s.rdcSync asid true).feRead asid va 16 .sys with
    | (.error e, s1) => s1.feFault asid (.entry fe q) va 8 e redo
    | (.ok bs, s1) =>
        let op := at' bs 8 1
        let strip := fld (s1.rregN fe b) 26 2 == 0
        if op > 2 || fld (at' bs 9 1) 1 7 ≠ 0 || !zeroAt bs 10 2 || (op = 0 && !zeroAt bs 12 4) || (op ≥ 1 && !strip) then
          ((s1.queueErr fe q 1).consume fe q).queueGo fe q
        else f s1 (at' bs 0 8) op (at' bs 9 1) (at' bs 12 4)

/-- RUN (R354): the entry's graph starts. An entry of OP 1 or 2 is handed on to its own event. -/
def execRun (fe q idx : Nat) (s : State) : Host.Outcome State Fault Refusal :=
  .next (s.readEntry fe q idx (.run fe q idx) fun s va op flags _ =>
    if op = 1 then s.postOnce (.register fe q idx)
    else if op = 2 then s.postOnce (.retire fe q idx)
    else
      let (id, s1) := s.newId
      let asid := 64 * fe + fld (s.rregN fe (0x0800 + 16 * q)) 16 6
      let g := newGraph id asid (.queue fe q idx) va 0 q (bitOf flags 0) none
      let s2 : State := { s1 with graphs := s1.graphs ++ [g] }
      ((s2.consume fe q).post (.graphStart id)).queueGo fe q)

/-- The bits of HAL_QCTL that a write can set (R352). -/
def qctlMask : Word := 0x8F3F0000#32

/-- A write of HAL_QCTL (R352): fields are frozen while EN = 1; EN is refused for a STRIP queue in ROLLBACK mode and for a zero save area. Setting
it lets the queue's work go on (R384) and takes its pending entries (R354). -/
def State.writeQctl (s : State) (fe q : Nat) (v : Word) : State :=
  let b := 0x0800 + 16 * q
  let old := s.rreg fe b
  let w := v &&& qctlMask
  if bitOf old.toNat 31 then
    (if (w ^^^ old) &&& 0x0F3F0000#32 = 0 then s.wreg fe b w else s)
  else if !bitOf w.toNat 31 then s.wreg fe b w
  else if (fld w.toNat 26 2 == 0 && bitOf w.toNat 25) || s.rreg fe (b + 8) = 0 || s.rreg2 fe (b + 6) = 0 then
    (s.wreg fe b (w &&& 0x7FFFFFFF#32)).queueErr fe q 3
  else
    let mine := s.graphs.filter fun g => feOf g.asid == fe && g.queue == q
    let s1 := (s.wreg fe b w).over mine fun s g =>
      if g.started then s.over (g.indexed.filter fun p => p.2.state == .ready) fun s p => s.postOnce (nodeEvent g.id p.1 p.2.kind)
      else s.postOnce (.graphStart g.id)
    (s1.queueGo fe q).dispatch

/-- QUEUE_ENABLE (R352, R354). -/
def execQueueEnable (fe q : Nat) (v : Word) (s : State) : Host.Outcome State Fault Refusal := .next (s.writeQctl fe q v)

/-- QUEUE_NOTIFY (R354, R416, R422): dropped from the reset point of an FLR on; otherwise BAD_TAIL, or TAIL is stored, and a collapsed VF wakes. -/
def execQueueNotify (fe q : Nat) (v : Word) (s : State) : Host.Outcome State Fault Refusal :=
  .next (let b := 0x0800 + 16 * q
    if fe > 0 && s.flrs.contains fe then (s.bump 0 (0x0440 + (fe - 1))).irq 0 8
    else
      let s0 := if fe = 0 then s.endDeep else if s.wakeState fe ≠ 0 || s.deep then s.postOnce (.wakeWake (fe - 1)) else s
      if v.toNat ≥ s0.rregN fe (b + 3) then s0.queueErr fe q 2
      else (s0.wreg fe (b + 5) v).queueGo fe q)

end Sys2Proof.Machine
end

