-- ==== Sys2Proof/Machine/Raster.lean ====
section
/-! DEFINITION. The arithmetic of a strip: meshlets and rasterisation (R128 to R135), materials, cells and quads (R136, R137), the fills
(R139, R143), the halo lines (R126) and the output pixels of a hard finish (R144). -/

namespace Sys2Proof.Machine

/-! ## Asset data (R129) -/

/-- Reads asset data of a stream's context at .dev; what cannot be read is none, without fault record or page request. -/
def State.asset (s : State) (asid va n : Nat) : Option (List Byte) × State :=
  match s.feRead asid va n .dev with
  | (.ok bs, s1) => (some bs, s1)
  | (.error _, s1) => (none, s1)

/-! ## Meshlets (R128, R129) -/

/-- A meshlet as read: cull code, LAST, MID, vertices (X, Y, depth bits) and triangles. -/
structure Meshlet where
  cull  : Nat
  last  : Nat
  mid   : Nat
  verts : List (Int × Int × Nat)
  tris  : List (Nat × Nat × Nat)
deriving DecidableEq, Repr

/-- A meshlet's descriptor is within its limits. -/
def descOk (d : List Byte) : Bool :=
  let g := at' d 6 1
  (g == 0 || (8 ≤ g && g ≤ 15)) && at' d 7 1 ≤ 2 && 1 ≤ at' d 8 1 && at' d 8 1 ≤ 64 && 1 ≤ at' d 9 1 && at' d 9 1 ≤ 128
    && at' d 12 4 ≤ 0x01FFFFFE && zeroAt d 18 6

/-- Vertices on the common grid: OX + x × 2^(g + 8) (R129). The whole 32-bit words are taken, whatever their sign extension, at an array of any
alignment. DESIGN CHOICE (notes/assumptions/55.md). -/
def readVerts (ox oy : Int) (sh : Nat) : Nat → List Byte → List (Int × Int × Nat)
  | 0, _ => []
  | n + 1, bs =>
      let x := signedOf 32 (at' bs 0 4)
      let y := signedOf 32 (at' bs 4 4)
      (ox + x * (2 ^ sh : Nat), oy + y * (2 ^ sh : Nat), at' bs 8 4) :: readVerts ox oy sh n (bs.drop 12)

def readTris : Nat → List Byte → List (Nat × Nat × Nat)
  | 0, _ => []
  | n + 1, bs => (at' bs 0 1, at' bs 1 1, at' bs 2 1) :: readTris n (bs.drop 3)

/-- Reads a meshlet afresh; none is BAD_MESHLET. -/
def State.readMeshlet (s : State) (asid va : Nat) : Option Meshlet × State :=
  match s.asset asid va 32 with
  | (none, s1) => (none, s1)
  | (some d, s1) =>
      if !descOk d then (none, s1)
      else
        let nv := at' d 8 1
        let nt := at' d 9 1
        match s1.asset asid (at' d 24 8) (12 * nv + 3 * nt) with
        | (none, s2) => (none, s2)
        | (some bs, s2) =>
            let sh := (at' d 6 1 + 8) % 16
            (some ⟨at' d 7 1, at' d 16 2, at' d 12 4, readVerts (signedOf 24 (at' d 0 3)) (signedOf 24 (at' d 3 3)) sh nv bs,
              readTris nt (bs.drop (12 * nv))⟩, s2)

/-! ## Coverage and depth (R131 to R134) -/

abbrev Vert := Int × Int × Nat

/-- E_e(P) for the edge from `a` to `b`. -/
def edgeFn (a b : Vert) (px py : Int) : Int := (px - a.1) * (b.2.1 - a.2.1) - (py - a.2.1) * (b.1 - a.1)

/-- Is the edge top or left? -/
def topLeft (a b : Vert) : Bool := (b.2.1 == a.2.1 && b.1 < a.1) || b.2.1 > a.2.1

/-- A depth read as +0.0 when it is −0.0. -/
def depthBits (z : Nat) : Nat := if z = 0x80000000 then 0 else z
/-- Negative, infinite or NaN. -/
def depthBad (z : Nat) : Bool := depthBits z ≥ 0x7F800000

/-- The depth at a covered pixel, rounded once. -/
def depthAt (e0 e1 e2 sArea : Int) (z0 z1 z2 : Nat) : Nat :=
  let term := fun (e : Int) (z : Nat) => (mulV (ofInt e) (decodeF .f32 (depthBits z))).1
  let sum := (addV .rn (addV .rn (term e1 z0) (term e2 z1)).1 (term e0 z2)).1
  (encodeF .f32 .rn 0 (divV sum (ofInt sArea)).1).1

/-- The visibility value of a pixel for a triangle with S > 0, when it is covered. -/
def coverAt (v0 v1 v2 : Vert) (pid x y : Nat) : Option Nat :=
  let px : Int := 256 * x + 128
  let py : Int := 256 * y + 128
  let e0 := edgeFn v0 v1 px py
  let e1 := edgeFn v1 v2 px py
  let e2 := edgeFn v2 v0 px py
  let inside := fun (e : Int) (a b : Vert) => decide (e > 0) || (e == 0 && topLeft a b)
  if inside e0 v0 v1 && inside e1 v1 v2 && inside e2 v2 v0 then
    some (depthAt e0 e1 e2 (edgeFn v0 v1 v2.1 v2.2.1) v0.2.2 v1.2.2 v2.2.2 * 2 ^ 32 + pid)
  else none

/-- What becomes of a triangle (R129, R131): the counter that counts its discard, no discard counted, or the vertices in order. -/
inductive TriDo where
  | count (o : Nat) | skip | draw (a b c : Vert)
deriving DecidableEq, Repr

/-- A triangle that meets several rows of the table of R129 is counted once, by the first of them.
DESIGN CHOICE (notes/assumptions/55.md). -/
def triDo (m : Meshlet) (t : Nat × Nat × Nat) : TriDo :=
  match m.verts[t.1]?, m.verts[t.2.1]?, m.verts[t.2.2]? with
  | some a, some b, some c =>
      let off := fun (v : Vert) => v.1 < -(2 ^ 23) || v.1 > 2 ^ 23 - 1 || v.2.1 < -(2 ^ 23) || v.2.1 > 2 ^ 23 - 1
      let area := edgeFn a b c.1 c.2.1
      if off a || off b || off c then .count 17
      else if depthBad a.2.2 || depthBad b.2.2 || depthBad c.2.2 then .count 18
      else if area = 0 || (m.cull = 1 && area < 0) || (m.cull = 2 && area > 0) then .skip
      else if area < 0 then .draw a c b else .draw a b c
  | _, _, _ => .count 16

/-- Pixels of a render strip in row-major order. -/
def Desc.pixels (d : Desc) (k : Nat) : List (Nat × Nat) :=
  (upFrom (d.y0 k) (d.y1 k - d.y0 k)).flatMap fun y => (upFrom 0 d.rw).map fun x => (x, y)

/-- The key of a pixel in a ring slot of a strip. -/
def Desc.pixKey (d : Desc) (slot k x y : Nat) : Nat := slot + (y - d.y0 k) * d.rw * 8 + x * 8

/-- The unsigned minimum at a visibility pixel, as VBMIN does (R135). -/
def State.visMin (s : State) (asid key v : Nat) : State :=
  let (bs, s1) := s.homeRead asid key 8 .dev
  if v < leNat bs then s1.homeWrite asid key (bytesOf 8 v) .dev none else s1

/-- Rasterises one meshlet for a strip. -/
def State.drawMeshlet (s : State) (x : StripStream) (sq : Nat) (m : Meshlet) : State :=
  let k := x.k sq
  s.over ((upFrom 0 m.tris.length).zip m.tris) fun s p =>
    match triDo m p.2 with
    | .count o => s.scount x.slot o 1
    | .skip => s
    | .draw a b c => s.over (x.desc.pixels k) fun s q =>
        match coverAt a b c (m.mid * 128 + p.1) q.1 q.2 with
        | some v => s.visMin x.asid (x.desc.pixKey (x.desc.visAt sq) k q.1 q.2) v
        | none => s

/-- The last strip that a meshlet touches, as R130 reads it. -/
def lastStrip (last k n : Nat) : Nat := if last < k then k else if last ≥ n then n - 1 else last

/-! ## Materials, cells and quads (R136, R137) -/

/-- Cell width and height at a level, and factor_L in sixteenths. -/
def cellW (l : Nat) : Nat := if l = 0 then 1 else if l ≤ 2 then 2 else 4
def cellH (l : Nat) : Nat := if l ≤ 1 then 1 else if l ≤ 3 then 2 else 4
def factor16 (l : Nat) : Nat := 16 / 2 ^ l

/-- The visibility value of a pixel. -/
def State.visOf (s : State) (x : StripStream) (sq px py : Nat) : Nat :=
  leNat (mgets 0#8 s.mem (x.desc.pixKey (x.desc.visAt sq) (x.k sq) px py) 8)

/-- Is a pixel in the render strip? -/
def StripStream.inStrip (x : StripStream) (sq px py : Nat) : Bool :=
  px < x.desc.rw && x.desc.y0 (x.k sq) ≤ py && py < x.desc.y1 (x.k sq)

/-- The material of a pixel with its entry address; none when it is uncovered or outside. -/
def State.material (s : State) (x : StripStream) (sq px py : Nat) : Option (Nat × Nat) × State :=
  if !x.inStrip sq px py then (none, s)
  else
    let v := s.visOf x sq px py
    if v = 2 ^ 64 - 1 then (none, s)
    else match s.asset x.asid (x.desc.midmat + 2 * (v % 2 ^ 32 / 128)) 2 with
      | (none, s1) => (none, s1)
      | (some bs, s1) =>
          let i := leNat bs
          if i ≥ x.desc.matcount then (none, s1)
          else match s1.asset x.asid (x.desc.mattab + 8 * i) 8 with
            | (none, s2) => (none, s2)
            | (some e, s2) => (some (i, leNat e), s2)

/-- Materials of a list of pixels, in order. -/
def State.materials (s : State) (x : StripStream) (sq : Nat) : List (Nat × Nat) → List ((Nat × Nat) × Nat × Nat) × State
  | [] => ([], s)
  | p :: ps =>
      let (m, s1) := s.material x sq p.1 p.2
      let (ms, s2) := s1.materials x sq ps
      (match m with
      | some m => ((p, m) :: ms, s2)
      | none => (ms, s2))

/-- The pixels of a block, row-major. -/
def blockPix (x0 y0 w h : Nat) : List (Nat × Nat) := (upFrom y0 h).flatMap fun y => (upFrom x0 w).map fun x => (x, y)

/-- The origin of a tile. -/
def StripStream.tileAt (x : StripStream) (sq t : Nat) : Nat × Nat :=
  (t % x.desc.tcols * 16, x.desc.y0 (x.k sq) + t / x.desc.tcols * 16)

/-- One quad's units: for each material it holds, ascending, the entry and the four seeds (R136, R137). -/
def State.quadUnits (s : State) (x : StripStream) (sq t lvl qx qy : Nat) : List (DWord × List Seed) × State :=
  let w := cellW lvl
  let h := cellH lvl
  let (ms, s1) := s.materials x sq (blockPix qx qy (2 * w) (2 * h))
  let mats := sortKey (fun (m : Nat × Nat) => [m.1]) ((ms.map (·.2)).eraseDups)
  let cells := [(qx, qy), (qx + w, qy), (qx, qy + h), (qx + w, qy + h)]
  (mats.map fun m =>
    let sample := fun (c : Nat × Nat) => (blockPix c.1 c.2 w h).find? fun p => ms.contains (p, m)
    let lead := ((cells.filterMap sample).head?).getD (qx, qy)
    let pidOf := fun (p : Nat × Nat) => s1.visOf x sq p.1 p.2
    (BitVec.ofNat 64 m.2, cells.map fun c =>
      let p := (sample c).getD c
      let helper := (sample c).isNone
      let v := pidOf ((sample c).getD lead)
      let ws := [p.1 + p.2 * 2 ^ 16, v % 2 ^ 32, if helper then 0 else v / 2 ^ 32, boolNat helper + 2 * lvl + t * 2 ^ 16, x.frame sq, sq]
      ⟨false, BitVec.ofNat 64 m.2, 0#32, ws.map fun n => (BitVec.ofNat 32 n, false), 3, true, helper, some t⟩), s1)

/-- The quads of a tile at a level, in row-major order. -/
def quadOrigins (x0 y0 lvl : Nat) : List (Nat × Nat) :=
  (upFrom 0 (16 / (2 * cellH lvl))).flatMap fun j => (upFrom 0 (16 / (2 * cellW lvl))).map fun i =>
    (x0 + i * 2 * cellW lvl, y0 + j * 2 * cellH lvl)

/-! ## Fills (R139, R143) -/

/-- Reads and writes a shaded pixel. -/
def State.shadedOf (s : State) (x : StripStream) (sq px py : Nat) : List Byte :=
  mgets 0#8 s.mem (x.desc.pixKey (x.desc.shadeAt sq) (x.k sq) px py) 8
def State.setShaded (s : State) (x : StripStream) (sq px py : Nat) (bs : List Byte) : State :=
  s.homeWrite x.asid (x.desc.pixKey (x.desc.shadeAt sq) (x.k sq) px py) bs .dev none

/-- The cell fill of a tile. Materials are read afresh when the tile completes. DESIGN CHOICE (notes/assumptions/55.md). -/
def State.cellFill (s : State) (x : StripStream) (sq t lvl : Nat) : State :=
  let o := x.tileAt sq t
  let w := cellW lvl
  let h := cellH lvl
  let cells := (upFrom 0 (16 / h)).flatMap fun j => (upFrom 0 (16 / w)).map fun i => (o.1 + i * w, o.2 + j * h)
  s.over cells fun s c =>
    let pix := (blockPix c.1 c.2 w h).filter fun p => x.inStrip sq p.1 p.2
    let (ms, s1) := s.materials x sq pix
    s1.over pix fun s p => match ms.find? (·.1 == p) with
      | none => s.setShaded x sq p.1 p.2 (bytesOf 8 x.desc.bgs.toNat)
      | some m => match ms.find? (·.2 == m.2) with
        | some q => if q.1 = p then s else s.setShaded x sq p.1 p.2 (s1.shadedOf x sq q.1.1 q.1.2)
        | none => s

/-- The tile of a pixel. -/
def StripStream.tileOfPix (x : StripStream) (sq px py : Nat) : Nat := (py - x.desc.y0 (x.k sq)) / 16 * x.desc.tcols + px / 16

/-- The fill of incomplete tiles: the nearest pixel to the left in a complete tile, else to the right, else BGS (R143). -/
def State.lineFill (s : State) (x : StripStream) (sq : Nat) (done : List Nat) : State :=
  s.over (x.desc.pixels (x.k sq)) fun s' p =>
    if done.contains (x.tileOfPix sq p.1 p.2) then s'
    else
      let good := fun c => done.contains (x.tileOfPix sq c p.2)
      let v := match (upFrom 0 p.1).reverse.find? good, (upFrom p.1 (x.desc.rw - p.1)).find? good with
        | some c, _ => s.shadedOf x sq c p.2
        | none, some c => s.shadedOf x sq c p.2
        | none, none => bytesOf 8 x.desc.bgs.toNat
      s'.setShaded x sq p.1 p.2 v

/-! ## Halos (R126) -/

/-- Copies a shaded line into a half line of a halo slot: half 0 is the head, 1 the tail. -/
def State.haloLine (s : State) (x : StripStream) (sq y slotSq half j : Nat) : State :=
  let d := x.desc
  let bs := mgets 0#8 s.mem (d.pixKey (d.shadeAt sq) (x.k sq) 0 y) (8 * d.rw)
  let key := d.haloAt slotSq + (half * d.halo + j) * d.rw * 8
  s.over (upFrom 0 d.rw) fun s i => s.homeWrite x.asid (key + 8 * i) ((bs.drop (8 * i)).take 8) .dev none

/-- The halo copy of a strip, its edge copies included. -/
def State.haloCopy (s : State) (x : StripStream) (sq : Nat) : State :=
  let d := x.desc
  let k := x.k sq
  let y := d.y0 k
  let n := d.y1 k - y
  let h := d.halo
  let s1 := s.over (upFrom 0 h) fun s j =>
    (s.haloLine x sq (y + min j (n - 1)) sq 0 j).haloLine x sq (y + (n + j - h)) sq 1 j
  let s2 := if k = 0 then s1.over (upFrom 0 h) fun s j => s.haloLine x sq 0 (sq + 3) 1 j else s1
  if x.isLast sq then s2.over (upFrom 0 h) fun s j => s.haloLine x sq (d.rh - 1) (sq + 1) 0 j else s2

/-! ## Output pixels of a hard finish (R144) -/

/-- A component clamped to [0, 1], as a multiple of 2^-24: exact for every f16 in that range. -/
def clamp01 (c : Nat) : Nat :=
  match decodeF .f16 c with
  | .fin false v => min (2 ^ 24) ((scaledInt false v (-24)).toNat)
  | .inf false => 2 ^ 24
  | _ => 0

/-- A quotient rounded to the nearest integer, ties to even. -/
def rdiv (a : Int) (b : Nat) : Int :=
  let q := a / (b : Int)
  let r := a % (b : Int)
  if 2 * r > b then q + 1 else if 2 * r < b then q else if q % 2 = 0 then q else q + 1

/-- R, G, B, A of a shaded pixel. -/
def rgba (bs : List Byte) : List Nat := (upFrom 0 4).map fun i => clamp01 (at' bs (2 * i) 2)

def unorm (bits c : Nat) : Nat := (rdiv ((c * (2 ^ bits - 1) : Nat) : Int) (2 ^ 24)).toNat

/-- Y', scaled by 10^4 × 2^24. -/
def luma (p : List Nat) : Nat := 2126 * p.getD 0 0 + 7152 * p.getD 1 0 + 722 * p.getD 2 0

/-- The bytes of an output pixel in format 0 or 1. -/
def outPixel (fmt : Nat) (p : List Nat) : List Byte :=
  if fmt = 0 then bytesOf 4 (unorm 10 (p.getD 0 0) + unorm 10 (p.getD 1 0) * 2 ^ 10 + unorm 10 (p.getD 2 0) * 2 ^ 20
    + unorm 2 (p.getD 3 0) * 2 ^ 30)
  else p.flatMap fun c => bytesOf 1 (unorm 8 c)

/-- The render pixel that an output pixel takes. -/
def State.outSrc (s : State) (x : StripStream) (sq ox oy : Nat) : List Nat :=
  let d := x.desc
  rgba (s.shadedOf x sq (ox * d.den / d.num) (oy * d.den / d.num))

/-- The sum of lists, element by element. -/
def addLists (a b : List Nat) : List Nat := (a.zip b).map fun p => p.1 + p.2

/-- Fills the output strip of a late upscale. -/
def State.outFill (s : State) (x : StripStream) (sq : Nat) : State :=
  let d := x.desc
  let k := x.k sq
  let base := d.outAt sq
  let put := fun (s' : State) (o : Nat) (bs : List Byte) => s'.homeWrite x.asid (base + o) bs .dev none
  let rows := upFrom (d.h * k) (d.lines k)
  if d.ofmt ≠ 2 then
    s.over rows fun s' oy => s'.over (upFrom 0 d.ow) fun s' ox =>
      put s' (((oy - d.h * k) * d.ow + ox) * 4) (outPixel d.ofmt (s.outSrc x sq ox oy))
  else
    let s1 := s.over rows fun s' oy => s'.over (upFrom 0 d.ow) fun s' ox =>
      put s' (((oy - d.h * k) * d.ow + ox) * 2)
        (bytesOf 2 ((64 + rdiv ((876 * luma (s.outSrc x sq ox oy) : Nat) : Int) (10000 * 2 ^ 24)).toNat * 64))
    s1.over (upFrom 0 (d.lines k / 2)) fun s' j => s'.over (upFrom 0 (d.ow / 2)) fun s' i =>
      let px := fun a b => s.outSrc x sq (2 * i + a) (d.h * k + 2 * j + b)
      let m := addLists (addLists (px 0 0) (px 1 0)) (addLists (px 0 1) (px 1 1))
      let chroma := fun (c div : Nat) =>
        (512 + rdiv (896 * ((10000 * m.getD c 0 : Nat) - (luma m : Nat) : Int)) (div * 4 * 2 ^ 24)).toNat * 64
      put s' (d.ow * d.h * 2 + (j * (d.ow / 2) + i) * 4) (bytesOf 2 (chroma 2 18556) ++ bytesOf 2 (chroma 0 15748))

end Sys2Proof.Machine
end

