-- ==== Sys2Proof/Machine/Strips.lean ====
section
/-! DEFINITION. Strip streams and their chains: opening, admission and retirement (R121, R363, R364, R367), reservations (R368), the
render, shade and publish stages (R130, R136, R139 to R144, R284 to R287), the miss ring (R145) and encoders (R448). -/

namespace Sys2Proof.Machine

/-! ## Opening (R121, R364) -/

def readDesc (bs : List Byte) : Desc :=
  { ow := at' bs 0 2, oh := at' bs 2 2, sh := at' bs 4 1, uf := at' bs 5 1, halo := at' bs 6 1, ofmt := at' bs 7 1
    dv := at' bs 8 1, ds := at' bs 9 1, dout := at' bs 10 1, maxlvl := at' bs 11 1, base := at' bs 12 4
    bgs := BitVec.ofNat 64 (at' bs 16 8), bgo := BitVec.ofNat 32 (at' bs 24 4), matcount := at' bs 28 4, mattab := at' bs 32 8
    miss := at' bs 40 8, misscap := at' bs 48 4, midmat := at' bs 56 8 }

def isPow2 (n lo hi : Nat) : Bool := lo ≤ n && n ≤ hi && 2 ^ Nat.log2 n == n

/-- Does a descriptor pass R121, its area fitting into the bunting that no stream holds? -/
def State.descPasses (s : State) (bs : List Byte) (d : Desc) : Bool :=
  let dim := fun n => 16 ≤ n && n ≤ 8192 && n % d.num == 0
  d.uf ≤ 2 && dim d.ow && dim d.oh && (d.ofmt != 2 || d.oh % 2 == 0) && d.sh ≤ 2 && d.halo ≤ 8 && d.ofmt ≤ 2 && 2 ≤ d.dv && d.dv ≤ 3 && 2 ≤ d.ds && d.ds ≤ 3
    && 2 ≤ d.dout && d.dout ≤ 4 && d.maxlvl ≤ 4 && d.base % 4096 == 0 && 1 ≤ d.matcount && d.matcount ≤ 65536
    && d.mattab % 8 == 0 && d.miss % 64 == 0 && isPow2 d.misscap 4 1024 && zeroAt bs 52 4 && d.midmat % 2 == 0
    && d.rw ≤ 4096 && d.base + d.area ≤ 0x3000000
    && !(s.streams.any fun x => overlaps d.base d.area x.desc.base x.desc.area)

/-- STREAM_OPEN (R364): in STATE 0 the descriptor is read in the owner's context 0; one that cannot be read does not pass. -/
def execStreamOpen (slot : Nat) (s : State) : Host.Outcome State Fault Refusal :=
  .next (
    let r := s.sreg slot 0
    if (s.stream? slot).isSome || slot ≥ 16 then s
    else
      let fe := fld r 16 5
      let (bs, s1) := s.asset (64 * fe) (s.rreg2 0 (streamReg slot 1)) 64
      match bs with
      | none => s1.sctl slot 0 1
      | some bs =>
          let d := readDesc bs
          let base := s1.rreg2 0 (streamReg slot 22)
          let tf := s1.sreg slot 5
          let period := (upFrom 0 5).any (fun j => tf * 2 ^ j == s1.rregN 0 0x0C09) && s1.sreg slot 6 ≠ 0 && s1.sreg slot 8 ≠ 0
            && s1.sreg slot 9 ≠ 0 && s1.sreg slot 10 ≠ 0
          if fe > 16 || !s1.descPasses bs d || base = 0 || base % 4096 ≠ 0 || base ≥ 2 ^ 52 then s1.sctl slot 0 1
          else if !period then s1.sctl slot 0 3
          else
            let x : StripStream := ⟨slot, fe, d, 64 * fe, none, 0, 0, 0, (0, 0), [], [], false, [], none, false, false⟩
            ({ s1 with streams := s1.streams ++ [x] } : State).sctl slot 1 0)

/-- STREAM_CLOSE (R364). -/
def execStreamClose (slot : Nat) (s : State) : Host.Outcome State Fault Refusal :=
  .next ((s.updStream slot fun x => { x with retire := true, close := true }).stripSweep slot)

/-! ## Admission (R364, R367) -/

/-- The bounds of a wake class (R418) in units of 2^-32 s; the PF has a bound of 0. -/
def State.wakeBound (s : State) (fe : Nat) : Nat :=
  if fe = 0 then 0
  else match fld (s.rregN fe 0x1800) 0 2 with
    | 0 => 0 | 1 => 40 * 2 ^ 32 / 1000000 | 2 => 2 ^ 32 / 1000 | _ => 25 * 2 ^ 32 / 1000

/-- Cores that a stage reserves (R362). DEDUCED (notes/assumptions/35.md). -/
def State.stageCores (s : State) (slot stage : Nat) : Nat := fld (s.sreg slot 11) (8 * (stage - 1)) 8

def State.preLead (s : State) (fe : Nat) : Nat := s.rregN 0 (0x0F00 + 2 * fe)
def State.keep (s : State) (fe : Nat) : Nat := s.rregN 0 (0x0F01 + 2 * fe)

/-- Reservations of a stream within one period: start modulo TABLEN, length and cores (R367). -/
def State.reservations (s : State) (x : StripStream) : List (Nat × Nat × Nat) :=
  let len := s.rregN 0 0x0C09
  let frames := len / max 1 (s.sreg x.slot 5)
  (upFrom 0 (frames * x.desc.n)).flatMap fun sq => (upFrom 1 3).map fun stage =>
    let w := s.span x sq stage
    (((w.1 - s.preLead x.fe) % (len : Int)).toNat, (w.2 - w.1 + s.preLead x.fe).toNat, s.stageCores x.slot stage)

/-- Does an interval meet slot `j` of a table of period `len`? -/
def meetsSlot (len j : Nat) (r : Nat × Nat × Nat) : Bool :=
  r.2.1 ≥ len || overlaps r.1 r.2.1 (4096 * j) 4096 || overlaps r.1 r.2.1 (4096 * j + len) 4096

/-- The cores that slot `j` needs over a list of reservations. -/
def slotLoad (len j : Nat) (rs : List (Nat × Nat × Nat)) : Nat :=
  rs.foldl (fun n r => if meetsSlot len j r then n + r.2.2 else n) 0

/-- Registered streams of a front end. -/
def State.admitted (s : State) (fe : Nat) : List StripStream := s.streams.filter fun x => x.fe == fe && x.tmpl.isSome

/-- Does every slot of a front end's table leave room, `cores` exclusive cores being there? -/
def State.tableOk (s : State) (fe : Nat) (xs : List StripStream) (cores : Nat) : Bool :=
  let len := s.rregN 0 0x0C09
  let rs := xs.flatMap s.reservations
  (upFrom 0 (len / 4096)).all fun j => slotLoad len j rs ≤ cores - s.keep fe

/-- Is a template admitted (R367)? -/
def State.admits (s : State) (x : StripStream) : Bool :=
  s.rregN 0 0x0C09 / 4096 ≤ 65536 && s.tableOk x.fe (s.admitted x.fe ++ [x]) (s.exclusive x.fe).length
    && s.sreg x.slot 8 > 0 && s.sreg x.slot 9 > 0 && s.sreg x.slot 10 > 0
    && x.desc.h * s.sreg x.slot 6 ≥ s.wakeBound x.fe

/-- The STREAM fields of the render, shade and publish nodes, with the engine and index of PUBLISH (R284). -/
def State.chainNames (s : State) (g : Graph) : (Except (Nat × XFault) (List Nat × Nat × Nat)) × State :=
  let va := fun k => g.nodeVa + 64 * ((nodeOf g.nodes k).getD 0)
  match s.feRead g.asid (va 8) 64 .dev with
  | (.error f, s1) => (.error (va 8, f), s1)
  | (.ok r, s1) =>
      match s1.feRead g.asid (va 9) 64 .dev with
      | (.error f, s2) => (.error (va 9, f), s2)
      | (.ok sh, s2) =>
          match s2.feRead g.asid (va 10) 64 .dev with
          | (.error f, s3) => (.error (va 10, f), s3)
          | (.ok p, s3) => (.ok ([at' r 16 4, at' sh 52 4, at' p 16 4], at' p 20 1, at' p 21 1), s3)

/-- The next whole frame (R364): not one already begun, and not one whose time has passed. -/
def State.nextFrame (s : State) (x : StripStream) : Nat :=
  let t0 := s.rreg2 0 (streamReg x.slot 3)
  max (ceilDiv x.nextSq (max 1 x.desc.n)) (if s.dlc < t0 then 0 else (s.dlc - t0) / max 1 (s.sreg x.slot 5) + 1)

/-- A REGISTER or RETIRE entry is decided: consumed, with QDONE when IRQ is set (R355), behind a release at .sys (R350). -/
def State.entryDone (s : State) (fe q flags : Nat) : State :=
  let s1 := s.consume fe q
  (if bitOf flags 0 then (s1.rdcSync (64 * fe + fld (s1.rregN fe (0x0800 + 16 * q)) 16 6) false).irq fe 0 else s1).queueGo fe q

/-- The open stream that a front end names by its handle (R364). -/
def State.owned (s : State) (fe handle : Nat) : Option StripStream :=
  if handle < 1 || handle > 16 then none else (s.stream? (handle - 1)).filter (·.fe == fe)

/-- A refused REGISTER: the STATUS of a stream of the front end's own, and the status in the object of the entry's graph. -/
def State.refuseChain (s : State) (handle fe q flags : Nat) (g : Graph) (status : Nat) (redo : Instr) : State :=
  let s1 := match s.owned fe handle with
    | some x => s.sctl x.slot (if x.tmpl.isSome then 2 else 1) 2
    | none => s
  if g.cpl = 0 || g.cpl % 16 ≠ 0 then s1.entryDone fe q flags
  else match s1.objGate (feCluster fe) g.asid g.cpl redo with
    | (false, s2) => s2
    | (true, s2) => match s2.objAdd (feCluster fe) g.asid g.cpl status 1 (if g.cscope = 5 then .sys else .dev) with
      | (some f, s3) => s3.feFault g.asid (.device g.asid) g.cpl 6 f redo
      | (none, s3) => s3.entryDone fe q flags

/-- REGISTER (R364): the template is read and checked (R282, R284) and admitted (R367). DEDUCED (notes/assumptions/35.md). -/
def execRegister (fe q idx : Nat) (s : State) : Host.Outcome State Fault Refusal :=
  .next (s.readEntry fe q idx (.register fe q idx) fun s va op flags handle =>
    if op ≠ 1 then s
    else
      let asid := 64 * fe + fld (s.rregN fe (0x0800 + 16 * q)) 16 6
      match s.loadGraph (newGraph 0 asid (.strip (handle - 1) 0) va 0 q false none) true with
      | (.error (a, f), s1) => s1.feFault asid (.entry fe q) a 8 f (.register fe q idx)
      | (.ok (g, bad), s1) =>
          let redo := Instr.register fe q idx
          if bad || (staged g.nodes).isNone then s1.refuseChain handle fe q flags g 7 redo
          else match s1.chainNames g with
            | (.error (a, f), s2) => s2.feFault asid (.entry fe q) a 8 f redo
            | (.ok (names, eng, ix), s2) =>
                if names.any (· != handle) then s2.refuseChain handle fe q flags g 7 redo
                else match s2.owned fe handle with
                  | none => s2.refuseChain handle fe q flags g 8 redo
                  | some x =>
                      let y : StripStream := { x with asid := asid, queue := q, eng := (eng, ix) }
                      if x.tmpl.isSome || x.retire || !s2.admits y then s2.refuseChain handle fe q flags g 8 redo
                      else
                        let sq := s2.nextFrame y * y.desc.n
                        ((s2.updStream x.slot fun _ => { y with tmpl := some va, nextSq := sq, scanSq := sq }).sctl x.slot 2 0).entryDone
                          fe q flags)

/-- RETIRE (R364). -/
def execRetire (fe q idx : Nat) (s : State) : Host.Outcome State Fault Refusal :=
  .next (s.readEntry fe q idx (.retire fe q idx) fun s _ op flags handle =>
    if op ≠ 2 then s
    else match s.owned fe handle with
      | some x =>
          if x.tmpl.isNone then s.entryDone fe q flags
          else ((s.updStream x.slot fun x => { x with retire := true }).stripSweep x.slot).entryDone fe q flags
      | none => s.entryDone fe q flags)

/-- CHAIN_INSTANTIATE (R364): the template is instantiated for the next strip. -/
def execChainInstantiate (slot : Nat) (s : State) : Host.Outcome State Fault Refusal :=
  .next (match s.stream? slot with
    | none => s
    | some x => match x.tmpl with
      | none => s
      | some va =>
          if x.retire then s
          else
            let (id, s1) := s.newId
            let sq := x.nextSq
            let g := newGraph id x.asid (.strip slot sq) va 0 x.queue false none
            let t : Strip := ⟨sq, id, 0, 0, [], 0, [], [], [], [], 0, none, [], [], false, false, false, false⟩
            let s2 : State := { s1 with graphs := s1.graphs ++ [g] }
            ((s2.updStream slot fun x => { x with nextSq := sq + 1, strips := x.strips ++ [t] }).wreg 0 (streamReg slot 14)
              (BitVec.ofNat 32 (x.frame sq))).post (.graphStart id))

/-! ## Reservations (R368) -/

/-- RESERVATION_START (R368): the lowest-numbered exclusive cores that no window holds are held, and other work on them is pre-empted, strip
work apart (R358). -/
def execReservationStart (slot sq stage : Nat) (s : State) : Host.Outcome State Fault Refusal :=
  .next (match s.strip? slot sq with
    | none => s
    | some (x, t) =>
        if t.opened.contains (stage + 10) || stage < 1 || stage > 3 then s
        else
          let free := (s.exclusive x.fe).filter fun c => !(s.holds.any fun h => h.cores.contains c)
          let cores := free.take (s.stageCores slot stage)
          let s1 : State := { s with holds := s.holds ++ [⟨slot, sq, stage, cores⟩] }
          let mine := fun (w : Wg) => (s1.launchOfWg w.id).all fun l => l.prio != .strip
          let work := (s1.wgs.filter fun w => w.state == .resident && cores.contains w.core && mine w).flatMap fun w => (s1.unitOf w).map (·.id)
          let s2 := if work.isEmpty then s1 else s1.post (.preemptHalt work.eraseDups)
          s2.updStrip slot sq fun t => { t with opened := t.opened ++ [stage + 10] })

/-- A window opens (R366): what waits for it starts. -/
def State.openWindow (s : State) (slot sq stage : Nat) : State :=
  ((s.updStrip slot sq fun t => { t with opened := t.opened ++ [stage] }).stripGo slot).dispatch

/-- The windows that open, with their moments: each has its reservation begun. -/
def State.openings' (s : State) : List (Nat × Nat × Nat × Nat) :=
  s.streams.flatMap fun x => x.strips.flatMap fun t =>
    ((upFrom 1 3).filter fun k => t.opened.contains (k + 10) && !t.opened.contains k).map fun k => ((s.window x t.sq k).1, x.slot, t.sq, k)

/-- RESERVATION_END (R368): the window closes, and its cores return to other work. -/
def execReservationEnd (slot sq stage : Nat) (s : State) : Host.Outcome State Fault Refusal :=
  .next ({ s with holds := s.holds.filter fun (h : Hold) => !(h.slot == slot && h.sq == sq && h.stage == stage) } : State).dispatch

/-! ## The miss ring (R145) -/

/-- The bytes of a miss record. -/
def State.missBytes (s : State) (x : StripStream) (t : Strip) (flags : Nat) : List Byte :=
  bytesOf 4 (x.frame t.sq) ++ bytesOf 2 (x.k t.sq) ++ bytesOf 1 flags ++ bytesOf 1 t.lvl ++ bytesOf 8 s.dlc
    ++ bytesOf 2 (x.desc.tiles (x.k t.sq)) ++ bytesOf 2 (min 65535 t.cut) ++ bytesOf 12 0 ++ bytesOf 128 (maskOf t.filled)

/-- MISS_RECORD_WRITE (R145, R461), when a flag is set. -/
def State.missRecord (s : State) (x : StripStream) (t : Strip) (flags : Nat) : State :=
  if flags = 0 then s else s.devWrite (.miss x.slot x.fe x.asid x.desc.miss x.desc.misscap (s.missBytes x t flags))

/-! ## The render stage (R130, R286, R287) -/

/-- Reads a strip's list entries; those that cannot be read are skipped and counted. -/
def State.readList (s : State) (x : StripStream) (va : Nat) : Nat → List Nat × State
  | 0 => ([], s)
  | n + 1 =>
      let (e, s1) := s.asset x.asid va 8
      match e with
      | some bs => let (es, s2) := s1.readList x (va + 8) n; (leNat bs :: es, s2)
      | none => (s1.scount x.slot 24 1).readList x (va + 8) n

/-- TTS_LEVEL (R362). -/
def State.showLevel (s : State) (x : StripStream) (sq lvl : Nat) : State :=
  s.wreg 0 (streamReg x.slot 13) (BitVec.ofNat 32 (x.k sq * 2 ^ 16 + lvl))

/-- The level that a strip starts at (R142): one below the final level of the strip before, but not below what the strip has. Where a RETIRE and a
new REGISTER leave no strip with the sequence number before, the last strip shaded is meant. DESIGN CHOICE (notes/assumptions/70.md). -/
def State.levelStart (s : State) (x : StripStream) (t : Strip) : State :=
  let lvl := max t.lvl (x.prev.getD 0 - 1)
  (s.updStrip x.slot t.sq fun t => { t with lvl := lvl, ended := t.ended ++ [6] }).showLevel x t.sq lvl

/-- The level at the end of rasterisation, for the prediction that follows (R141): the strip's start level, or while the strip before is not
shaded one below the level that it has. -/
def State.levelSeen (s : State) (x : StripStream) (t : Strip) : State :=
  match x.strip? (t.sq - 1) with
  | some p =>
      if t.sq = 0 || p.ended.contains 2 then s.levelStart x t
      else s.updStrip x.slot t.sq fun t => { t with lvl := max t.lvl (p.lvl - 1) }
  | none => s.levelStart x t

/-- The end of rasterisation: the carry list of the next strip (R130), the first prediction (R141), and the stage's node completes.
DEDUCED (notes/assumptions/35.md). -/
def State.renderDone (s : State) (x : StripStream) (t : Strip) (g n : Nat) : State :=
  let kept := if x.isLast t.sq then [] else t.kept
  let s1 := (s.updStream x.slot fun x => { x with carry := kept.take 16384, carryOv := kept.length > 16384 }).updStrip x.slot t.sq
    fun t => { t with todo := [], kept := [] }
  ((s1.levelSeen x t).post (.shadingRatePrediction x.slot t.sq)).nodeEnd g n 0

/-- RENDER_NODE (R286, R287): without a count, the stage starts: the visibility slot is cleared, and the carry list and the strip's list
are taken; then one meshlet is rasterised at a time. The carry list is taken as it then stands, also when the strip before is still being
rasterised. DESIGN CHOICE (notes/assumptions/55.md). -/
def execRenderNode (g n : Nat) (upto : Option Nat) (s : State) : Host.Outcome State Fault Refusal :=
  .next (match upto with
    | none => s.withBody g n (.renderNode g n none) fun s y _ bs =>
        (match y.src with
        | .strip slot sq =>
            let nbuf := at' bs 4 2
            let cap := at' bs 8 4
            let lists := at' bs 16 8
            if at' bs 0 4 ≠ slot + 1 || nbuf < 1 || nbuf > 4 || !zeroAt bs 6 2 || cap < 1 || cap > 65536 || !zeroAt bs 12 4
                || lists % 8 ≠ 0 || !zeroAt bs 24 24 then s.nodeEnd g n 1
            else match s.strip? slot sq with
              | none => s
              | some (x, t) =>
                  let k := x.k sq
                  let d := x.desc
                  let lb := lists + x.frame sq % nbuf * (d.n * (8 + 8 * cap))
                  let s1 := s.over (upFrom 0 (d.rw * d.hm)) fun s i =>
                    s.homeWrite x.asid (d.visAt sq + 8 * i) (List.replicate 8 0xFF#8) .dev none
                  let (hd, s2) := s1.asset x.asid (lb + 8 * k) 8
                  let count := match hd with | some bs => at' bs 0 4 | none => 0
                  let s3 := if hd.isNone then s2.scount slot 24 1 else s2.scount slot 19 (count - cap)
                  let (es, s4) := s3.readList x (lb + 8 * d.n + 8 * cap * k) (min count cap)
                  let todo := x.carry ++ es
                  let late := bitOf t.flags 2
                  let s5 := s4.updStrip slot sq fun t => { t with
                    todo := if late then [] else todo, cut := if late then todo.length else t.cut, kept := []
                    flags := if x.carryOv then t.flags ||| 8 else t.flags }
                  ((s5.updStream slot fun x => { x with carryOv := false }).updNode g n fun y => { y with state := .running }).postOnce
                    (.renderNode g n (some 0))
        | _ => s)
    | some i => match s.node? g n with
      | none => s
      | some (y, z) => match y.src with
        | .strip slot sq =>
            (match s.strip? slot sq with
            | none => s
            | some (x, t) =>
                if z.state ≠ .running || z.kind ≠ 8 then s
                else match t.todo with
                  | [] => s.renderDone x t g n
                  | va :: rest =>
                      let k := x.k sq
                      let (m, s1) := s.readMeshlet x.asid va
                      let s2 := s1.updStrip slot sq fun t => { t with todo := rest }
                      let s3 := match m with
                        | none => s2.scount slot 15 1
                        | some m =>
                            let s3 := s2.drawMeshlet x sq m
                            if lastStrip m.last k x.desc.n > k then s3.updStrip slot sq fun t => { t with kept := t.kept ++ [va] } else s3
                      s3.postOnce (.renderNode g n (some (i + 1))))
        | _ => s)

/-- Is an instance's rasterisation over? -/
def State.drawn (s : State) (t : Strip) : Bool :=
  match s.graph? t.graph with
  | some y => y.nodes.any fun z => z.kind == 8 && z.state == .done
  | none => true

/-- RENDER_WINDOW_END (R130): the binner stops where it stands. -/
def execRenderWindowEnd (slot sq : Nat) (s : State) : Host.Outcome State Fault Refusal :=
  .next (match s.strip? slot sq with
    | none => s
    | some (x, t) =>
        let s0 := s.reach (s.window x sq 1).2
        if s.drawn t || t.ended.contains 1 then s0
        else s0.updStrip slot sq fun t => { t with flags := t.flags ||| 4, cut := t.cut + t.todo.length, todo := [] })

/-! ## The shade stage (R136 to R143) -/

/-- Places a unit whose threads take their ids from the spawn counter (R42). -/
def State.placeQuad (s : State) (wg : Nat) (u : DWord × List Seed) : State :=
  match s.wg? wg with
  | none => s
  | some w =>
      let seeds := ((upFrom 0 u.2.length).zip u.2).map fun p => { p.2 with tid := w.spawnCt + BitVec.ofNat 32 p.1 }
      (s.updWg wg fun w => { w with spawnCt := w.spawnCt + BitVec.ofNat 32 u.2.length }).placeUnit wg u.1 seeds

/-- The quads of a tile at a level (R136). -/
def State.tileUnits (s : State) (x : StripStream) (sq k lvl : Nat) : List (DWord × List Seed) × State :=
  let o := x.tileAt sq k
  (quadOrigins o.1 o.2 lvl).foldl (fun (acc : List (DWord × List Seed) × State) q =>
    let (us, s1) := acc.2.quadUnits x sq k lvl q.1 q.2
    (acc.1 ++ us, s1)) ([], s)

/-- Places the quads of the next tile once those of the tile before have entered their bins (R136), if its workgroup is on its core (R277);
the last one ends the placing. -/
def State.placeTile (s : State) (x : StripStream) (t : Strip) (l : Launch) (g n : Nat) : State :=
  let total := x.desc.tiles (x.k t.sq)
  let mark := fun (s : State) => { s with launches := s.launches.map fun (m : Launch) => if m.id = l.id then { m with placed := true } else m }
  let wgs := s.wgs.filter (·.launch == l.id)
  if wgs.any fun w => w.ring.any fun u => (shadeTile u).isSome then s
  else if t.next ≥ total then (mark s).over wgs fun s w => s.wgCheck w.id
  else match wgs.find? fun w => w.index == t.next % max 1 wgs.length with
    | none => s
    | some w =>
        if w.state ≠ .resident then s
        else
          let (units, s1) := s.tileUnits x t.sq t.next t.lvl
          let s2 := s1.updStrip x.slot t.sq fun t => { t with next := t.next + 1 }
          let s3 := s2.over units fun s u => s.placeQuad w.id u
          (if units.isEmpty then s3.post (.tileComplete x.slot t.sq t.next) else s3).postOnce (.shadeNode g n)

/-- SHADE_NODE (R136, R142, R277): the launch, and then the placing of the tiles, one at a time. -/
def execShadeNode (g n : Nat) (s : State) : Host.Outcome State Fault Refusal :=
  .next (match s.node? g n with
    | none => s
    | some (y, z) => match y.src with
      | .strip slot sq =>
          (match s.strip? slot sq with
          | none => s
          | some (x, t) =>
              if z.state = .running then
                (match s.launches.find? fun l => l.graph == g && l.node == n with
                | some l => if l.placed then s else s.placeTile x t l g n
                | none => s)
              else if s.launchesWait g then s
              else s.withBody g n (.shadeNode g n) fun s y _ bs =>
                if at' bs 36 4 ≠ slot + 1 then s.nodeEnd g n 8
                else
                  ((if t.ended.contains 6 then s else s.levelStart x t).kernelLaunch y g n bs (some (slot, sq)) (.shadeNode g n)).postOnce
                    (.shadeNode g n))
      | _ => s)

/-- The level of a tile: that at which it began, else the strip's (R141). -/
def Strip.levelOf (t : Strip) (k : Nat) : Nat := ((t.begun.find? (·.1 == k)).map (·.2)).getD t.lvl

/-- The E of a strip (R140), from its first bin placement on; 0 where no quad of it has entered a bin. DESIGN CHOICE (notes/assumptions/69.md). -/
def State.shadeTime (s : State) (t : Strip) : Nat := s.dlc - t.first.getD s.dlc

/-- The cost counter K_k when the shading of a strip ends (R140): E, and 16 × Σ factor_L over the strip's tiles.
DEDUCED (notes/assumptions/35.md); a strip in which no quad has entered a bin: `State.shadeTime`. -/
def State.noteCost (s : State) (x : StripStream) (t : Strip) : State :=
  let sum := (upFrom 0 (x.desc.tiles (x.k t.sq))).foldl (fun n k => n + factor16 (t.levelOf k)) 0
  s.updStream x.slot fun x => { x with costs := mput none x.costs (x.k t.sq) (some (s.shadeTime t, sum)), prev := some t.lvl }

/-- Do some tiles make up all those of a strip? -/
def StripStream.allTiles (x : StripStream) (t : Strip) (ks : List Nat) : Bool := (upFrom 0 (x.desc.tiles (x.k t.sq))).all ks.contains

/-- TILE_COMPLETE (R139): the last thread of a placed tile has ended and its accesses have performed; the tile's stores are released, the
cells are filled, and after the last tile the halo is copied. -/
def execTileComplete (slot sq t : Nat) (s : State) : Host.Outcome State Fault Refusal :=
  .next (match s.strip? slot sq with
    | none => s
    | some (x, st) =>
        if st.next ≤ t || st.tiles.contains t || st.filled.contains t || s.launches.any (fun l => l.shade == some (slot, sq) && s.tileBusy l t) then s
        else
          let cores := ((s.l1.filter fun l => l.asid == x.asid && l.dirty != 0).map (·.core)).eraseDups
          let s1 := s.over cores fun s c => s.release c x.asid .dev
          let s2 := s1.cellFill x sq t (st.levelOf t)
          let st' : Strip := { st with tiles := st.tiles ++ [t] }
          let s3 := s2.updStrip slot sq fun _ => st'
          if x.allTiles st' st'.tiles then (s3.noteCost x st').post (.haloCopy slot sq) else s3)

/-- HALO_COPY (R126): for the first strip of a frame it waits for the upscale of the strip before it (R123). -/
def execHaloCopy (slot sq : Nat) (s : State) : Host.Outcome State Fault Refusal :=
  .next (match s.strip? slot sq with
    | none => s
    | some (x, t) =>
        if t.halo || !x.allTiles t t.tiles || (x.k sq = 0 && sq > 0 && !x.ended (sq - 1) 3) then s
        else
          let s1 := (s.haloCopy x sq).updStrip slot sq fun t => { t with halo := true }
          match (s1.graph? t.graph).bind fun y => (nodeOf y.nodes 9).map fun n => (y.id, n) with
          | some (g, n) => if s1.launches.any fun l => l.graph == g && l.node == n then s1 else s1.post (.nodeComplete g n)
          | none => s1)

/-- A tile whose quads all wait in a ring has not begun, and takes a new level (R141): its quads are made again, with the thread ids of those
that they replace. DESIGN CHOICE (notes/assumptions/55.md). -/
def State.relevel (s : State) (x : StripStream) (sq k lvl : Nat) : State :=
  let mine := fun (u : List Seed) => shadeTile u == some k
  s.over (s.wgs.filter fun w => ((s.launch? w.launch).bind (·.shade)) == some (x.slot, sq) && w.ring.any mine) fun s w =>
    let (units, s1) := s.tileUnits x sq k lvl
    let first := (((w.ring.find? mine).bind (·.head?)).map (·.tid)).getD 0
    let fresh := ((upFrom 0 units.length).zip units).map fun p =>
      ((upFrom 0 4).zip p.2.2).map fun q => { q.2 with tid := first + BitVec.ofNat 32 (4 * p.1 + q.1) }
    let before := w.ring.takeWhile fun u => !mine u
    let after := (w.ring.drop before.length).filter fun u => !mine u
    ((s1.updWg w.id fun w => w.setRing (before ++ fresh ++ after) ((before.map (·.length)).foldl (· + ·) 0)).ringWrite w.id).postOnce
      (.ringUnitMove w.id)

/-- SHADING_RATE_PREDICTION (R141): predicted > T_sf − guard, with K_k = 16 E / Σ, over the tiles that have begun and are incomplete and those
that have not begun. -/
def execShadingRatePrediction (slot sq : Nat) (s : State) : Host.Outcome State Fault Refusal :=
  .next (match s.strip? slot sq with
    | none => s
    | some (x, t) =>
        match mget none x.costs (x.k sq) with
        | none => s
        | some (e, sum) =>
            let open' := (t.begun.filter fun p => !t.tiles.contains p.1).foldl (fun n p => n + factor16 p.2) 0
            let left := x.desc.tiles (x.k sq) - t.begun.length
            let late := (((s.dlc + s.sreg slot 12) * sum + e * (open' + left * factor16 t.lvl) : Nat) : Int) > s.hardSf x sq * sum
            if t.ended.contains 2 || x.allTiles t (t.tiles ++ t.filled) || !late || t.lvl ≥ x.desc.maxlvl then s
            else
              let s1 := (s.updStrip slot sq fun t => { t with lvl := t.lvl + 1 }).showLevel x sq (t.lvl + 1)
              if t.next = 0 || (t.begun.any fun p => p.1 == t.next - 1) then s1 else s1.relevel x sq (t.next - 1) (t.lvl + 1))

/-- Dirty bytes of a context's L1 lines that a fill of a bunting slot replaces are gone: they have not performed at the bunting. The rest of
their lines is written back (R143). -/
def State.l1Forget (s : State) (asid lo size : Nat) (filled : Nat → Bool) : State :=
  s.over (s.l1.filter fun l => l.asid == asid && l.dirty != 0 && overlaps l.pa 128 lo size) fun s l =>
    let gone := fun (i : Nat) => lo ≤ l.pa + i && l.pa + i < lo + size && filled (l.pa + i - lo)
    let keep := maskOf ((upFrom 0 128).filter fun i => bitOf l.dirty i && !gone i)
    (s.updL1 l.core l.asid l.va fun l => { l with dirty := keep }).l1Drop { l with dirty := keep } .dev

/-- Ends threads, with what waits in bins and rings, of a launch: all of it, or the work of some tiles. Stores to a slot of the bunting that
have not performed there are discarded, those of threads that have ended included (R143). DEDUCED (notes/assumptions/35.md). -/
def State.endWork (s : State) (x : StripStream) (slotAt size : Nat) (filled : Nat → Bool) (wgs : List Nat) (hit : Option Nat → Bool) : State :=
  let base := s.rreg2 0 (streamReg x.slot 22) + (slotAt - buntingBase - x.desc.base)
  let uids := (s.threads.filter fun t => wgs.contains t.wg && hit t.tile).map (·.uid)
  let lost := fun (o : Op) (l : LaneAcc) => (uids.contains l.uid || (wgs.contains o.wg && hit l.tile))
    && (match o.instr with | .st .. => true | _ => false) && base ≤ l.addr.toNat && l.addr.toNat < base + size
  let keepSeed := fun (sd : Seed) => sd.empty || !hit sd.tile
  let blank := fun (sd : Seed) => if keepSeed sd then sd else { sd with empty := true }
  let kept := fun (u : List Seed) => u.any fun sd => !sd.empty && keepSeed sd
  let s1 : State := { s with
    ops := (s.ops.map fun (o : Op) => { o with lanes := o.lanes.filter fun l => !(lost o l) }).filter fun o => !o.lanes.isEmpty
    bins := (s.bins.map fun (b : Bin) => if wgs.contains b.wg then { b with lanes := b.lanes.map blank } else b).filter fun b =>
      b.lanes.any fun sd => !sd.empty
    wgs := s.wgs.map fun (w : Wg) => if wgs.contains w.id && !w.ring.all kept then w.setRing (w.ring.filter kept) 0 else w }
  let s2 := s1.over wgs fun s w => s.ringWrite w
  (s2.l1Forget x.asid slotAt size filled).over uids fun s u => s.endThread u

/-- Does a byte of a shaded slot lie in one of some tiles? -/
def StripStream.inTiles (x : StripStream) (sq : Nat) (ks : List Nat) (o : Nat) : Bool :=
  ks.contains (x.tileOfPix sq (o / 8 % max 1 x.desc.rw) (x.desc.y0 (x.k sq) + o / 8 / max 1 x.desc.rw))

/-- The accesses in flight of threads that have ended perform (R30, R143). -/
def State.drainWork (s : State) (wgs : List Nat) : State :=
  s.over ((s.ops.filter fun o => wgs.contains o.wg && o.lanes.any fun l => (s.thr? l.uid).isNone).map (·.id)) State.performOp

/-- The workgroups of a strip's shading. -/
def State.shadeWgs (s : State) (slot sq : Nat) : List Nat :=
  let ls := (s.launches.filter fun l => l.shade == some (slot, sq)).map (·.id)
  (s.wgs.filter fun w => ls.contains w.launch).map (·.id)

/-- Is an access of the threads that T_sf has ended still to perform, behind a fault? -/
def State.fillWaits (s : State) (x : StripStream) (t : Strip) : Bool :=
  let wgs := s.shadeWgs x.slot t.sq
  t.ended.contains 7 && s.ops.any fun o => wgs.contains o.wg && o.lanes.any fun l => (l.tile.map t.filled.contains).getD false

/-- The incomplete tiles are filled, and the shading is over (R143). -/
def State.shadeFill (s : State) (x : StripStream) (t : Strip) : State :=
  let wgs := s.shadeWgs x.slot t.sq
  let t' : Strip := { t with tiles := upFrom 0 (x.desc.tiles (x.k t.sq)) }
  let s1 := ((s.lineFill x t.sq t.tiles).updStrip x.slot t.sq fun _ => t').noteCost x t'
  let done := fun (l : Launch) => if l.shade = some (x.slot, t.sq) then { l with placed := true } else l
  let s2 : State := { s1 with launches := s1.launches.map done }
  let s3 := s2.over wgs fun s w => s.wgCheck w
  let s4 := match (s3.graph? t.graph).bind fun y => (nodeOf y.nodes 9).bind fun n => (y.nodes[n]?).map fun (z : GNode) => (y.id, n, z) with
    | some (g, n, z) => if z.state = NodeState.idle || z.state = NodeState.ready then s3.updNode g n fun z => { z with state := .running } else s3
    | none => s3
  s4.post (.haloCopy x.slot t.sq)

/-- T_sf arrives: the threads of the incomplete tiles end, and their other accesses perform (R143). -/
def State.shadeStop (s : State) (x : StripStream) (t : Strip) : State :=
  let all := upFrom 0 (x.desc.tiles (x.k t.sq))
  let left := all.filter fun k => !t.tiles.contains k
  let wgs := s.shadeWgs x.slot t.sq
  let hit := fun (k : Option Nat) => (k.map left.contains).getD false
  ((s.endWork x (x.desc.shadeAt t.sq) x.desc.visSize (x.inTiles t.sq left) wgs hit).drainWork wgs).updStrip x.slot t.sq fun t =>
    { t with filled := left, flags := t.flags ||| 1, next := all.length, ended := t.ended ++ [7] }

/-- SHADE_HARD_FINISH (R142, R143): the fill comes once the accesses of the ended threads have performed. A node that has not started completes
without a thread; shade workgroups that still wait for placement go on waiting, and the stage with them.
DESIGN CHOICE (notes/assumptions/71.md). -/
def execShadeHardFinish (slot sq : Nat) (s : State) : Host.Outcome State Fault Refusal :=
  .next (match s.strip? slot sq with
    | none => s
    | some (x, t) =>
        let s0 := s.reach (s.tSf x sq)
        if x.allTiles t t.tiles then s0
        else
          let s1 := if t.ended.contains 6 then s0 else s0.levelStart x t
          let s2 := match s1.strip? slot sq with
            | some (x, t) => if t.ended.contains 7 then s1 else s1.shadeStop x t
            | none => s1
          match s2.strip? slot sq with
          | some (x, t) => if s2.fillWaits x t then s2 else s2.shadeFill x t
          | none => s2)

/-- The kernels of a late upscale end, their accesses perform, and its nodes are done (R143, R144). An access that waits for a fault performs when
that is resolved, after the fill: the publish stage completes by T_f. DESIGN CHOICE (notes/assumptions/71.md). -/
def State.stopUpscale (s : State) (x : StripStream) (sq : Nat) (y : Graph) : State :=
  let late := (y.indexed.filter fun p => p.2.stage == 3 && p.2.kind == 1 && p.2.state != NodeState.done).map (·.1)
  let ls := (s.launches.filter fun (l : Launch) => l.graph == y.id && late.contains l.node).map (·.id)
  let wgs := (s.wgs.filter fun (w : Wg) => ls.contains w.launch).map (·.id)
  let s1 : State := ((s.endWork x (x.desc.outAt sq) x.desc.outSize (fun _ => true) wgs fun _ => true).drainWork wgs).dropWgs wgs
  let s2 : State := { s1 with launches := s1.launches.filter fun (l : Launch) => !ls.contains l.id }
  let stop := fun (z : GNode) =>
    if z.stage = 3 && (z.kind = 1 || z.state = NodeState.idle || z.state = NodeState.ready) then { z with state := NodeState.done } else z
  s2.updGraph y.id fun y => { y with nodes := y.nodes.map stop }

/-- A fill of the shading that has waited for a fault until T_f comes now. -/
def State.lateFill (s : State) (x : StripStream) (t : Strip) : State :=
  if t.ended.contains 7 && !x.allTiles t t.tiles then s.shadeFill x t else s

/-- HARD_FINISH (R144): a late upscale ends, and its output strip is filled; the miss record of the chain is written (R145). It comes once. -/
def execHardFinish (slot sq : Nat) (s : State) : Host.Outcome State Fault Refusal :=
  .next (match s.strip? slot sq with
    | none => s
    | some (x, t) =>
        let s0 := (s.reach (s.tF x sq)).lateFill x t
        if t.ended.contains 5 then s
        else if t.ended.contains 3 then (s0.missRecord x t t.flags).finished slot sq
        else
          let t' : Strip := { ((s0.strip? slot sq).map (·.2)).getD t with flags := t.flags ||| 2 }
          let s1 := match s0.graph? t.graph with
            | none => s0
            | some y => s0.stopUpscale x sq y
          let s2 := ((s1.outFill x sq).updStrip slot sq fun _ => t').stageEnd slot sq 3
          let s3 := match (s2.graph? t.graph).bind fun y => (nodeOf y.nodes 10).bind fun n => (y.nodes[n]?).map fun (z : GNode) => (y.id, n, z) with
            | some (g, n, z) => if z.state = NodeState.idle then s2.nodeLaunch g n else s2
            | none => s2
          ((s3.missRecord x t' t'.flags).finished slot sq).dispatch)

/-! ## Publication and scan-out (R144, R284, R446 to R448) -/

/-- The bytes of a strip's output lines; in format 2 the luma rows and then the chroma rows, whose plane stands behind OW × H containers
(R125). -/
def State.outBytes (s : State) (x : StripStream) (sq : Nat) : List Byte :=
  let d := x.desc
  let rows := d.lines (x.k sq)
  if d.ofmt ≠ 2 then mgets 0#8 s.mem (d.outAt sq) (rows * d.ow * 4)
  else mgets 0#8 s.mem (d.outAt sq) (rows * d.ow * 2) ++ mgets 0#8 s.mem (d.outAt sq + d.ow * d.h * 2) (rows / 2 * (d.ow / 2) * 4)

/-- Is an engine (0 to 3 serialisers, 4 to 11 encoders) given to a front end (R447)? -/
def State.engineGiven (s : State) (e fe : Nat) : Bool :=
  let w := s.rregN 0 (0x0480 + 4 * e)
  bitOf w 31 && fld w 16 5 == fe

/-- An encoder codes a strip, and its OBUs go into the ring of its owner (R448). -/
def State.encode (s : State) (x : StripStream) (sq e : Nat) : State :=
  let w := s.rregN 0 (0x0480 + 4 * e)
  let base := fld (s.rregN 0 (0x0480 + 4 * e + 1)) 0 32 * 2 ^ 16 + fld (s.rregN 0 (0x0480 + 4 * e + 2)) 0 4 * 2 ^ 48
  let keys := if x.k sq = 0 then s.keyNext.map fun k => if k = e + 100 then e else k else s.keyNext
  let obus := Config.av1Encode ([BitVec.ofNat 8 (fld w 8 2), BitVec.ofNat 8 (fld w 0 1), if keys.contains e then 1#8 else 0#8]
    ++ s.outBytes x sq)
  ({ s with keyNext := if x.isLast sq then keys.filter (· != e) else keys } : State).devWrite (.obus e (64 * fld w 16 5) base obus)

/-- PUBLISH_NODE (R125, R284). -/
def execPublishNode (g n : Nat) (s : State) : Host.Outcome State Fault Refusal :=
  .next (s.withBody g n (.publishNode g n) fun s y _ bs =>
    match y.src with
    | .strip slot sq =>
        let eng := at' bs 4 1
        let ix := at' bs 5 1
        let e := if eng = 0 then ix else 4 + ix
        if at' bs 0 4 ≠ slot + 1 || eng > 1 || ix > (if eng = 0 then 3 else 7) || !zeroAt bs 6 42 then s.nodeEnd g n 1
        else match s.strip? slot sq with
          | none => s
          | some (x, _) =>
              if !s.engineGiven e x.fe then s.nodeEnd g n 8
              else if (eng = 0) != (x.desc.ofmt != 2) then s.nodeEnd g n 10
              else
                let s1 := s.updStrip slot sq fun t => { t with out := true }
                (if eng = 1 then s1.encode x sq e else s1).nodeEnd g n 0
    | _ => s)

/-- SCANOUT (R144): the serialiser sends a published strip; before its publication it sends BGO for every line and sets SCANOUT_MISS. -/
def execScanout (slot sq : Nat) (s : State) : Host.Outcome State Fault Refusal :=
  .next (match s.strip? slot sq with
    | none => s
    | some (x, t) =>
        if t.scanned || x.eng.1 ≠ 0 then s
        else
          let s0 := s.reach (s.tOut x sq)
          let bgo := (upFrom 0 (x.desc.lines (x.k sq) * x.desc.ow)).flatMap fun _ => bytesOf x.desc.bpp x.desc.bgo.toNat
          let bytes := if t.out then s0.outBytes x sq else bgo
          let s1 : State := { s0 with out := s0.out ++ [.scan x.eng.2 slot sq bytes] }
          let s2 := if t.out then s1 else s1.missRecord x t 16
          let s3 := (s2.updStrip slot sq fun t => { t with scanned := true, late := !t.out }).updStream slot fun x => { x with
            scanSq := sq + 1 }
          (s3.stripSweep slot).stripGo slot)

/-- The instances whose shading is predicted (R141), until every tile is complete or filled: slot, sequence number, and whether the shading runs. -/
def State.predicted (s : State) : List (Nat × Nat × Bool) :=
  s.streams.flatMap fun x => (x.strips.filter fun t => t.ended.contains 6 && !t.ended.contains 2 && !x.allTiles t (t.tiles ++ t.filled)).map fun t =>
    (x.slot, t.sq, match s.graph? t.graph with
      | some y => y.nodes.any fun z => z.kind == 9 && z.state != .idle && z.state != .ready
      | none => false)

/-- What comes next in the time of the open streams: the earliest moment and its event. -/
def State.timed (s : State) : Option (Nat × Instr) :=
  let ev := s.streams.flatMap fun x =>
    (if x.tmpl.isSome && !x.retire then [((s.window x x.nextSq 1).1 - s.preLead x.fe, Instr.chainInstantiate x.slot)] else [])
      ++ x.strips.flatMap fun t =>
        ((upFrom 1 3).filter fun k => !t.opened.contains (k + 10)).map (fun k =>
          ((s.window x t.sq k).1 - s.preLead x.fe, Instr.reservationStart x.slot t.sq k))
        ++ (if t.ended.contains 1 || bitOf t.flags 2 || s.drawn t then [] else [((s.window x t.sq 1).2, Instr.renderWindowEnd x.slot t.sq)])
        ++ (if x.allTiles t t.tiles || s.fillWaits x t then [] else [(s.tSf x t.sq, Instr.shadeHardFinish x.slot t.sq)])
        ++ (if t.ended.contains 5 then [] else [(s.tF x t.sq, Instr.hardFinish x.slot t.sq)])
        ++ (if t.scanned || x.eng.1 ≠ 0 then [] else [(s.tOut x t.sq, Instr.scanout x.slot t.sq)])
  let ends := s.holds.map fun h =>
    (((s.stream? h.slot).map fun x => (s.window x h.sq h.stage).2).getD 0, Instr.reservationEnd h.slot h.sq h.stage)
  (sortKey (fun (p : Nat × Instr) => [p.1]) (ev ++ ends)).head?

end Sys2Proof.Machine
end

