-- ==== Sys2Proof/Machine/Preempt.lean ====
section
/-! DEFINITION. Pre-emption: the halt (R369), precise saves (R371, R372), checkpoints and rollback (R375 to R380), pre-emption by priority
(R358) and time slices (R412). -/

namespace Sys2Proof.Machine

/-- The state that a meaning ends in. -/
def landed (s : State) : Host.Outcome State Fault Refusal → State
  | .next t => t
  | _ => s

/-! ## The halt (R369) -/

/-- What a halt does to one thread: a trap that is raised is taken, TXEND receives its outcome, MONWAIT returns, a RETT that waits for an
entry stands at the RETT (R374), a revocable transaction aborts. -/
def State.haltThread (s : State) (uid : Nat) : State :=
  match s.thr? uid with
  | none => s
  | some t =>
      let s1 := if t.park.isNone then s.takePend uid else s
      match t.park with
      | some .txend => s1.txOutcome uid
      | some (.mon ..) => s1.monReturn uid false
      | some (.held _ _ (.rett _) _) => s1.unpark uid
      | _ => if t.tx.isSome && !t.st.irrev then s1.abortTx uid 6 else s1

/-- What is still held becomes a replayable record (R369, R397, R400): it waits for no fault any more, and a fault that waits for an entry
is no fault any more. -/
def State.replayable (s : State) (ids uids : List Nat) : State :=
  let dropped := fun (r : FaultRec) => (r.phase == .new || r.phase == .waitEntry) && (match r.src with
    | .op id _ => s.ops.any fun o => o.id == id && ids.contains o.wg
    | .wait u _ => uids.contains u
    | _ => false)
  { s with
    ops := s.ops.map fun (o : Op) => if ids.contains o.wg then
      { o with lanes := o.lanes.map fun (l : LaneAcc) => { l with held := false, fault := none } } else o
    faults := s.faults.filter fun r => !dropped r }

/-- Stores and the like that have issued perform at the halt, whatever they are held behind, but for those held on a fault. -/
def State.forceStores (s : State) (ids : List Nat) : State :=
  s.over (s.ops.filter fun o => ids.contains o.wg && o.cls == .s) fun s o => s.over o.lanes fun s l =>
    match (s.ops.find? (·.id == o.id)).bind fun p => (p.lanes.find? fun x => x.uid == l.uid && x.lane == l.lane).map fun x => (p, x) with
    | some (p, x) => if x.fault.isNone && x.ready.isNone then s.actLane p x else s
    | none => s

/-- One lane of an operation in flight at a halt: it performs, unless that would fault, where a load or the like stays as a replayable record
(R369, R460). -/
def State.haltLane (s : State) (o : Op) (l : LaneAcc) : State :=
  let r := s.stepLane o.id l.uid l.lane
  if o.cls != .s && r.faults.length ≠ s.faults.length then s else r

/-- An operation in flight at a halt. -/
def State.haltOp (s : State) (id : Nat) : State :=
  match s.ops.find? (·.id == id) with
  | none => s
  | some o => s.over (o.lanes.filter fun l => !l.held && !s.offCore l.uid) fun s l => s.haltLane o l

/-- The workgroups stand halted; the timers of their bins and rounds stop (R43, R369). -/
def State.standWgs (s : State) (ids : List Nat) : State :=
  let now := ids.filter s.runs
  { s with
    wgs := s.wgs.map fun (w : Wg) => if now.contains w.id then { w with state := .halted, round := w.round.map (Round.turned · s.dlc) } else w
    bins := s.bins.map fun (b : Bin) => if now.contains b.wg then b.turned s.dlc else b }

/-- The halt of a set of workgroups: no further chain issues, stores perform, other operations perform or stay as replayable records, matrix
sequencers stand at instruction boundaries (R316), and the threads stand as R369 says. Their cores' dirty lines are written back, so that they resume on any core. DEDUCED (notes/assumptions/16.md). -/
def State.haltWgs (s : State) (ids : List Nat) : State :=
  let uids := (s.threads.filter fun t => ids.contains t.wg).map (·.uid)
  let ops := (s.ops.filter fun o => ids.contains o.wg).map (·.id)
  let s1 : State := { s with second := match s.second with
    | some x => if s.groups.any fun g => g.id == x.1 && ids.contains g.wg then none else some x
    | none => none }
  let s2 := (((s1.over ops fun s o => s.haltOp o).forceStores ids).replayable ids uids).over uids fun s u => s.haltThread u
  ((s2.over ids fun s w => s.portWithdraw w).over ids fun s w => s.release (s.coreOf w) (s.asidOf w) .dev).standWgs ids

/-- Halted workgroups go on where they stand, and so do their timers. -/
def State.goOn (s : State) (ids : List Nat) : State :=
  let now := (s.wgs.filter fun w => ids.contains w.id && w.state == .halted).map (·.id)
  ({ s with
    wgs := s.wgs.map fun (w : Wg) => if now.contains w.id then
      { w with state := .resident, round := w.round.map (Round.turned · s.dlc) } else w
    bins := s.bins.map fun (b : Bin) => if now.contains b.wg then b.turned s.dlc else b } : State).over now fun s w => s.goesOn w

/-- The queue of a launch, and whether its MODE is ROLLBACK (R351). -/
def State.launchQueue (s : State) (l : Launch) : Nat := ((s.graph? l.graph).map (·.queue)).getD 0
def State.rollsBack (s : State) (wg : Nat) : Bool :=
  match s.launchOfWg wg with
  | some l => bitOf (s.rregN (feOf l.asid) (0x0800 + 16 * s.launchQueue l)) 25
  | none => false

/-- Is a checkpoint of a context wanted, or being written? Pre-emptions and rollbacks wait for it (R374, R379). -/
def State.ckpPending (s : State) (asid : Nat) : Bool :=
  s.agenda.contains (.checkpoint asid) || s.stalls.contains asid || (s.ckps.any fun c => c.asid == asid && !c.complete)
    || s.faults.any fun r => r.redo.contains (.checkpoint asid)

/-- Marks why workgroups are to halt, and asks for the halt. -/
def State.askHalt (s : State) (ids : List Nat) (why : HaltFor) : State :=
  let fresh := ids.filter fun i => s.halts.all fun h => h.1 != i
  ({ s with halts := s.halts ++ fresh.map fun i => (i, why) } : State).post (.preemptHalt ids)

/-- The halt of work under its queues' MODE (R371). -/
def State.preemptWgs (s : State) (ids : List Nat) : State :=
  let rb := ids.filter s.rollsBack
  let s1 := if rb.isEmpty then s else s.askHalt rb .rollback
  let pr := ids.filter fun i => !s.rollsBack i
  if pr.isEmpty then s1 else s1.askHalt pr .save

/-- A halted workgroup as it is saved, at the time `now` (R43). -/
def Wg.asSaved (w : Wg) (now : Nat) : Wg := { w with state := .saved, since := now }
def Bin.asSaved (b : Bin) : Bin := { b with core := nowhere }

/-- A halted workgroup leaves its core: its groups and bins are nowhere. -/
def State.offDevice (s : State) (wg : Nat) : State :=
  { s with
    wgs := s.wgs.map fun (w : Wg) => if w.id = wg then w.asSaved s.dlc else w
    groups := s.groups.map fun (g : LaneGroup) => if g.wg = wg then { g with core := nowhere } else g
    bins := s.bins.map fun (b : Bin) => if b.wg = wg then b.asSaved else b }

/-- Workgroups leave their cores, which are then free. -/
def State.leaveCores (s : State) (wgs : List Nat) : State :=
  let cores := ((s.wgs.filter fun w => wgs.contains w.id && w.holds).map (·.core)).eraseDups
  (s.over wgs fun s w => s.offDevice w).over cores fun s c => s.coreFreed c

/-- PREEMPT_HALT (R369, R371): the workgroups halt, and what their MODE asks for follows: a precise save; or their cores are free at once, and
the context rolls back, to a checkpoint taken here while PROTECT is set (R380). -/
def execPreemptHalt (wgs : List Nat) (s : State) : Host.Outcome State Fault Refusal :=
  .next (let ids := (s.wgs.filter fun w => wgs.contains w.id && w.state == .resident).map (·.id)
    let asids := (ids.map s.asidOf).eraseDups
    if ids.isEmpty then s
    else if asids.any s.ckpPending then s.post (.preemptHalt wgs)
    else
      let why := fun (i : Nat) => match s.halts.find? fun (h : Nat × HaltFor) => h.1 == i with
        | some h => h.2
        | none => if s.rollsBack i then .rollback else .save
      let s1 := s.haltWgs ids
      let s2 : State := { s1 with
        halts := (s1.halts.filter fun (h : Nat × HaltFor) => !ids.contains h.1) ++ ids.map fun i => (i, why i) }
      let saves := ids.filter fun i => why i == .save
      let back := ids.filter fun i => why i == .rollback
      let s3 := if saves.isEmpty then s2 else s2.post (.preciseSave saves)
      (s3.over (back.map s.asidOf).eraseDups fun s a =>
        (if s.protected' a then s.post (.checkpoint a) else s).post (.rollback a)).leaveCores back)

/-- Is the pre-emption of a context's work not yet complete? -/
def State.leaving (s : State) (asid : Nat) : Bool :=
  (s.halts.any fun h => s.asidOf h.1 == asid) || s.agenda.contains (.rollback asid) || s.faults.any fun r => r.redo.contains (.rollback asid)

/-- WATCHDOG is raised for the contexts whose work has left the device (R350, R384). -/
def State.wdogsDone (s : State) : State :=
  s.over (s.wdogs.filter fun a => !s.leaving a) fun s a => ({ s with wdogs := s.wdogs.filter (· != a) } : State).irq (feOf a) 5

/-! ## Images (R371, R372) -/

/-- The entries of the replay logs of a workgroup's threads and their replayable records. -/
def State.recordsOf (s : State) (wg : Nat) : Nat :=
  let ts := s.wgThreads wg
  ts.foldl (fun n t => n + t.log.length) 0
    + (s.ops.flatMap fun o => o.lanes.filter fun l => ts.any fun t => t.uid == l.uid).length

/-- The size of a workgroup's image. -/
def State.imageSize (s : State) (wg : Nat) (l : Launch) : Nat :=
  32768 + (s.wgThreads wg).length * (256 + 4 * l.aregs) + 32 * s.recordsOf wg + l.spadSize + 128 * l.obuf
    + (if l.isMatrix then 196608 else 0)

/-- Thread records: what the spec does not lay out, then v0 to v(a - 1). -/
def State.threadRecords (s : State) (aregs : Nat) : List Thread → List Byte × State
  | [] => ([], s)
  | t :: ts =>
      let (head, s1) := s.freeBytes 256
      let (rest, s2) := s1.threadRecords aregs ts
      (head ++ ((upFrom 0 aregs).flatMap fun r => bytesOf 4 (t.val r).toNat) ++ rest, s2)

/-- The bytes of a workgroup's image, part after part; where the spec lays out no more than a part's size, they are free. DESIGN CHOICE
(DESIGN CHOICE, notes/assumptions/17.md). -/
def State.imageBytes (s : State) (wg : Nat) (l : Launch) : List Byte × State :=
  let w := s.wg? wg
  let (fixed, s1) := s.freeBytes 32768
  let (threads, s2) := s1.threadRecords l.aregs (s1.wgThreads wg)
  let (logs, s3) := s2.freeBytes (32 * s.recordsOf wg)
  let spad := mgets 0#8 ((w.map (·.spad)).getD []) 0 l.spadSize
  let obuf := mgets 0#8 ((w.map (·.obuf)).getD []) 0 (128 * l.obuf)
  if l.isMatrix then
    let wbuf := mgets 0#8 (((w.bind (·.seq)).map (·.wbuf)).getD []) 0 131072
    let (tiles, s4) := s3.freeBytes 65536
    (fixed ++ threads ++ logs ++ spad ++ obuf ++ wbuf ++ tiles, s4)
  else (fixed ++ threads ++ logs ++ spad ++ obuf, s3)

/-- SAVE_OVERFLOW (R353, R371). -/
def State.saveOverflow (s : State) (asid q : Nat) : State := (s.queueErr (feOf asid) q 4).fatal asid 4

/-- Images of workgroups one behind the other from an offset on. -/
def imagesFrom (asid q slot : Nat) : Nat → List (Nat × Nat) → List SaveImage
  | _, [] => []
  | off, w :: ws => ⟨asid, q, w.1, slot, off, w.2⟩ :: imagesFrom asid q slot (off + w.2) ws

/-- Space for images of some workgroups, with their lengths, in a queue's save area: the first that is free and holds them one behind the
other. None when the area cannot hold them. DESIGN CHOICE (notes/assumptions/17.md). -/
def State.takeSpace (s : State) (asid q slot : Nat) (ws : List (Nat × Nat)) : Option State :=
  let others := s.saves.filter fun (i : SaveImage) => !(i.slot == slot && ws.any fun w => w.1 == i.wg)
  let used := (others.filter fun i => i.asid == asid && i.q == q).map fun i => (i.off, i.len)
  (freeRange 4 (s.rregN (feOf asid) (0x0800 + 16 * q + 8)) ((ws.map (·.2)).foldl (· + ·) 0) used).map fun off =>
    { s with saves := others ++ imagesFrom asid q slot off ws }

/-- Writes the images of workgroups into the space that they have taken. -/
def State.writeImages (s : State) (slot : Nat) : List Nat → Except (Nat × XFault) State
  | [] => .ok s
  | w :: ws => match s.launchOfWg w, s.saves.find? fun i => i.wg == w && i.slot == slot with
    | some l, some i =>
        let va := s.rreg2 (feOf l.asid) (0x0800 + 16 * i.q + 6) + i.off
        (match s.barred .store l.asid va i.len with
        | (some e, _) => .error e
        | (none, s1) =>
            let (bs, s2) := s1.imageBytes w l
            match s2.ctxWrite (feCluster (feOf l.asid)) l.asid .dev (i.len / 8 + 2) va bs with
            | .ok s3 => s3.writeImages slot ws
            | .error f => .error (va, f))
    | _, _ => s.writeImages slot ws

/-- Saves the halted workgroups of one unit: their consecutive images go into their queue's area, and their cores are free. -/
def State.saveUnit (s : State) (redo : Instr) (unit : List Nat) : State :=
  match unit.head?.bind s.launchOfWg with
  | none => s
  | some l =>
      let q := s.launchQueue l
      match s.takeSpace l.asid q 0 (unit.map fun w => (w, s.imageSize w l)) with
      | none => s.saveOverflow l.asid q
      | some s1 => match s1.writeImages 0 unit with
        | .error (va, f) => s.feFault l.asid (.device l.asid) va 6 f redo
        | .ok s2 => ({ s2 with halts := s2.halts.filter fun (h : Nat × HaltFor) => !unit.contains h.1 } : State).leaveCores unit

/-- PRECISE_SAVE (R371). -/
def execPreciseSave (wgs : List Nat) (s : State) : Host.Outcome State Fault Refusal :=
  .next (s.over wgs fun s w => match s.wg? w with
    | some x =>
        if x.state ≠ .halted then s
        else s.saveUnit (.preciseSave wgs) (((s.unitOf x).filter fun y => y.state == .halted && wgs.contains y.id).map (·.id))
    | none => s).wdogsDone

/-! ## Checkpoints (R375) -/

/-- The workgroups of a context that checkpoints and rollbacks concern: all but strip work, which is never pre-empted (R358).
DEDUCED (notes/assumptions/15.md). -/
def State.ckpWgs (s : State) (asid : Nat) : List Nat :=
  (s.wgs.filter fun w => match s.launch? w.launch with
    | some l => l.asid == asid && l.prio != .strip
    | none => false).map (·.id)

/-- The context on whose behalf an event is to come. -/
def State.eventAsid (s : State) : Instr → Option Nat
  | .nodeComplete g _ | .kernelNode g _ | .copyNode g _ | .condNode g _ | .loopNode g _ | .loopIterationEnd g _ | .signalNode g _
  | .extwaitNode g _ | .subgraphNode g _ | .graphStart g => (s.graph? g).map (·.asid)
  | .commandComplete c | .copy c | .fill c | .tile c | .gather c | .scatter c | .graph c | .allreduce c _ | .reduce c _ | .broadcast c _
  | .allgather c _ | .reducescatter c _ => (s.cmd? c).map (·.asid)
  | .ringUnitMove w | .notifyPush w | .seqStreamStart w | .workgroupPlacement w _ | .gangPlacement w | .orderedStepApply w _ =>
      (s.wg? w).map fun x => s.asidOf x.id
  | .txValidation u | .monwaitPoll u | .cplwaitPoll u => (s.thr? u).map fun t => s.asidOf t.wg
  | .loadReturn o | .storePerform o | .rayTestComplete o => (s.ops.find? (·.id == o)).map (·.asid)
  | _ => none

/-- The graphs of a context that checkpoints and rollbacks concern. -/
def State.ckpGraphs (s : State) (asid : Nat) : List Graph :=
  s.graphs.filter fun g => g.asid == asid && (match g.src with | .strip .. => false | _ => true)

/-- The checkpoint as it stands once the context's workgroups have halted. DEDUCED (notes/assumptions/15.md). -/
def State.capture (s : State) (asid slot : Nat) : Ckp :=
  let ids := s.ckpWgs asid
  let ts := s.threads.filter fun t => ids.contains t.wg
  let ls := (s.wgs.filter fun w => ids.contains w.id).map (·.launch)
  { asid := asid, slot := slot, complete := false, threads := ts, groups := s.groups.filter fun g => ids.contains g.wg
    bins := (s.bins.filter fun b => ids.contains b.wg).map Bin.asSaved
    wgs := (s.wgs.filter fun w => ids.contains w.id).map fun w => if w.state = .resident || w.state = .halted then w.asSaved s.dlc else w
    gens := s.gens.filter fun g => (s.barWgs g.key).any ids.contains
    launches := s.launches.filter fun l => ls.contains l.id, graphs := s.ckpGraphs asid
    ops := s.ops.filter fun o => o.lanes.any fun l => ts.any fun t => t.uid == l.uid
    cmds := s.cmds.filter fun c => c.asid == asid
    events := s.agenda.filter fun i => s.eventAsid i == some asid
    pos := (s.undo.filter fun u => u.1 == asid).length }

/-- Space for a checkpoint's images, each in its own queue's area; the queue whose area cannot hold them if not. -/
def State.ckpSpace (s : State) (asid slot : Nat) : List Nat → Except Nat State
  | [] => .ok s
  | w :: ws => match s.launchOfWg w with
    | none => s.ckpSpace asid slot ws
    | some l => match s.takeSpace asid (s.launchQueue l) slot [(w, s.imageSize w l)] with
      | none => .error (s.launchQueue l)
      | some s1 => s1.ckpSpace asid slot ws

/-- Does a collective hold a context halted? The checkpoint comes when it is complete (R379), unless the undo log has no room for it
before (R377). -/
def State.collRuns (s : State) (asid : Nat) : Bool :=
  s.stalls.contains asid && !s.undoFull asid && s.cmds.any fun c => c.asid == asid && 0x10 ≤ c.code && c.code ≤ 0x14 && !c.ended

/-- A context stalled for an irrevocable operation goes on (R379). -/
def State.unstall (s : State) (asid : Nat) : State := { s with stalls := s.stalls.filter (· != asid) }

/-- Work of a front end that stands on clusters outside its range is pre-empted, and placed again (R415). -/
def State.moveStrays (s : State) (f : Nat) : State :=
  let moved := ((s.wgs.filter fun w => w.state == .resident && !(s.clustersOf f).contains (clusterOf w.core)
      && feOf (s.asidOf w.id) == f).flatMap fun w => (s.unitOf w).map (·.id)).eraseDups
  if moved.isEmpty then s else s.preemptWgs moved

/-- Workgroups of a context that a checkpoint has halted go on, and move where a commit has meanwhile removed their cluster (R415). -/
def State.ckpResume (s : State) (asid : Nat) (ids : List Nat) : State :=
  (({ s with halts := s.halts.filter fun (h : Nat × HaltFor) => !(ids.contains h.1 && h.2 == .checkpoint) } : State).goOn ids).moveStrays (feOf asid)

/-- CHECKPOINT (R375, R379): the context halts, its images are written into the slot that the rollback target does not use, and its work resumes.
It waits while one is being written, and for irrevocable transactions; a fault on the save area leaves it halted until the answer (R461). -/
def execCheckpoint (asid : Nat) (s : State) : Host.Outcome State Fault Refusal :=
  .next (if !s.takesCkp asid then s.unstall asid
    else if s.collRuns asid then s
    else if (s.ckps.any fun c => c.asid == asid && !c.complete)
        || (s.threads.any fun t => t.st.irrev && s.asidOf t.wg == asid) then s.post (.checkpoint asid)
    else
      let paused := fun (w : Wg) => w.state == .halted && s.halts.any fun h => h.1 == w.id && h.2 == .checkpoint
      let run := (s.wgs.filter fun w => (s.ckpWgs asid).contains w.id && (w.state == .resident || paused w)).map (·.id)
      let s0 : State := { s with clocks := mput 0 s.clocks (4 * asid) (s.dlc + 1) }
      let s1 := s0.haltWgs run
      let slot := if s.ckps.any fun c => c.asid == asid && c.slot == 1 then 2 else 1
      let s2 : State := { s1 with saves := s1.saves.filter fun (i : SaveImage) => !(i.asid == asid && i.slot == slot) }
      let held := (s2.wgs.filter fun w => (s2.ckpWgs asid).contains w.id && (w.state == .halted
        || (w.state == .saved && !(s2.saves.any fun i => i.wg == w.id && i.slot == 0)))).map (·.id)
      match s2.ckpSpace asid slot held with
      | .error q => s1.saveOverflow asid q
      | .ok s3 => match s3.writeImages slot held with
        | .error (va, f) =>
            let fresh := run.filter fun i => s1.halts.all fun h => h.1 != i
            ({ s1 with halts := s1.halts ++ fresh.map fun i => (i, HaltFor.checkpoint) } : State).feFault asid (.device asid) va 6 f
              (.checkpoint asid)
        | .ok s4 =>
            let s5 : State := { s4 with ckps := s4.ckps ++ [s4.capture asid slot] }
            (((s5.ckpResume asid run).unstall asid).setBit (feOf asid) (ctxst asid) 1 true).post (.checkpointComplete asid))

/-- The number of records in use in a context's undo log. -/
def State.setUndo (s : State) (asid n : Nat) : State :=
  s.wreg (feOf asid) (0x0A00 + 8 * (asid % 64) + 4) (BitVec.ofNat 32 (144 * n))

/-- Writes undo records from the start of the area on. -/
def State.undoMove (s : State) (asid : Nat) : Nat → List (Nat × Nat × List Byte) → Except (Nat × XFault) State
  | _, [] => .ok s
  | k, u :: us =>
      let va := s.rreg2 (feOf asid) (0x0A00 + 8 * (asid % 64) + 1) + 144 * k
      match s.ctxWrite (feCluster (feOf asid)) asid .dev 40 va (undoRecord u.2.1 k u.2.2) with
      | .ok s1 => s1.undoMove asid (k + 1) us
      | .error f => .error (va, f)

/-- PROTECT ends when the context has run for HAL_CKPER and completed a checkpoint (R380): `protect` holds 1, plus 1 once a checkpoint has
completed, plus twice the time that it has run. -/
def State.protectEnds (s : State) (asid : Nat) : State :=
  let p := mget 0 s.protect asid
  if p ≠ 0 && p % 2 = 0 && p / 2 - 1 ≥ micros (s.rregN (feOf asid) (0x0A00 + 8 * (asid % 64))) then
    { s.setBit (feOf asid) (ctxst asid) 3 false with protect := mput 0 s.protect asid 0 }
  else s

/-- CHECKPOINT_COMPLETE (R375, R376, R380): it is the rollback target, the log before it is empty, so that later records move to the area's
start, and ROLLS clears. -/
def execCheckpointComplete (asid : Nat) (s : State) : Host.Outcome State Fault Refusal :=
  .next (match s.ckps.find? fun c => c.asid == asid && !c.complete with
    | none => s
    | some c =>
        let mine := (s.undo.filter fun u => u.1 == asid).drop c.pos
        let moved := if s.rregN (feOf asid) (0x0A00 + 8 * (asid % 64) + 3) = 0 then .ok s else s.undoMove asid 0 mine
        match moved with
        | .error (va, f) => s.feFault asid (.device asid) va 6 f (.checkpointComplete asid)
        | .ok s0 =>
            let p := mget 0 s0.protect asid
            let s1 : State := { s0 with
              undo := (s0.undo.filter fun (u : Nat × Nat × List Byte) => u.1 != asid) ++ mine
              ckps := (s0.ckps.filter fun (x : Ckp) => x.asid != asid) ++ [{ c with complete := true, pos := 0 }]
              protect := mput 0 s0.protect asid (if p % 2 = 1 then p + 1 else p) }
            let w := s1.rreg (feOf asid) (ctxst asid)
            ((s1.wreg (feOf asid) (ctxst asid) (w &&& 0xC#32)).setUndo asid mine.length).protectEnds asid)

/-! ## Rollback (R378) -/

/-- What a rollback reads: the undo area, and the images of the checkpoint. -/
def State.rollbackReads (s : State) (asid : Nat) : List (Nat × Nat) :=
  let b := 0x0A00 + 8 * (asid % 64)
  let fe := feOf asid
  (if s.rregN fe (b + 3) = 0 then [] else [(s.rreg2 fe (b + 1), s.rregN fe (b + 4))])
    ++ (match s.ckps.find? fun c => c.asid == asid && c.complete with
      | some c => s.imagesOf c.slot (c.wgs.map (·.id))
      | none => [])

/-- Undo records are written back, the newest first. -/
def State.writeBackUndo (s : State) (asid : Nat) : List (Nat × Nat × List Byte) → Except (Nat × XFault) State
  | [] => .ok s
  | u :: us => match s.ctxWrite (feCluster (feOf asid)) asid .dev 18 u.2.1 u.2.2 with
    | .ok s1 => s1.writeBackUndo asid us
    | .error f => .error (u.2.1, f)

/-- What a context has running goes: the workgroups named, the launches and graphs of the rollback, its commands and its events. -/
def State.dropContext (s : State) (asid : Nat) (ids : List Nat) : State :=
  let uids := (s.threads.filter fun t => ids.contains t.wg).map (·.uid)
  let ls := (s.wgs.filter fun w => ids.contains w.id).map (·.launch)
  let gs := (s.ckpGraphs asid).map (·.id)
  let events := s.agenda.filter fun i => s.eventAsid i == some asid
  let s1 := s.dropWgs ids
  { s1 with
    launches := s1.launches.filter fun (l : Launch) => !(l.asid == asid && ls.contains l.id)
    graphs := s1.graphs.filter fun (g : Graph) => !gs.contains g.id
    cmds := s1.cmds.filter fun (c : Cmd) => c.asid != asid
    ops := (s1.ops.map fun (o : Op) => { o with lanes := o.lanes.filter fun l => !uids.contains l.uid }).filter fun o => !o.lanes.isEmpty
    halts := s1.halts.filter fun (h : Nat × HaltFor) => !ids.contains h.1
    agenda := s1.agenda.filter fun i => !events.contains i }

/-- A lane's access whose fault has been answered since the checkpoint is made again. -/
def State.reissue (s : State) (o : Op) : Op :=
  { o with lanes := o.lanes.map fun l => match l.fault with
    | some f => if s.faults.any (·.id == f) then l else { l with fault := none }
    | none => l }

/-- A graph starts afresh. -/
def Graph.afresh (g : Graph) : Graph :=
  { g with started := false, nodes := [], status := 0, stop := false }

/-- The state of the last complete checkpoint returns; graphs begun since then, and all of them without a checkpoint, start afresh.
DEDUCED (notes/assumptions/15.md). -/
def State.putBack (s : State) (asid : Nat) (c : Option Ckp) (now : List Graph) : State :=
  match c with
  | none =>
      let gs := (now.filter Graph.queued).map Graph.afresh
      let s1 : State := { s with graphs := s.graphs ++ gs }
      s1.posts ((gs.filter fun g => bitOf (s.rregN (feOf asid) (0x0800 + 16 * g.queue)) 31).map fun g => Instr.graphStart g.id)
  | some c =>
      let later := (now.filter fun g => Graph.queued g && c.graphs.all fun x => x.id != g.id).map Graph.afresh
      let s1 : State := { s with
        threads := s.threads ++ c.threads
        groups := s.groups ++ c.groups.map fun (g : LaneGroup) => { g with core := nowhere }
        bins := s.bins ++ c.bins
        wgs := s.wgs ++ c.wgs.map fun (w : Wg) => if w.state = .waiting || w.state = .saved then { w with since := s.dlc } else w
        gens := (s.gens.filter fun (g : Gen) => c.gens.all fun x => x.key != g.key) ++ c.gens
        launches := s.launches ++ c.launches
        graphs := s.graphs ++ c.graphs ++ later
        ops := s.ops ++ c.ops.map s.reissue
        cmds := s.cmds ++ c.cmds }
      let held := (c.threads.filter fun t => match t.park with
        | some (.held ..) => !s.faults.any fun f => f.waiters.contains t.uid
        | _ => false).map (·.uid)
      let nodes := c.graphs.flatMap fun g => (g.indexed.filter fun p => p.2.state == .paused).map fun p => nodeEvent g.id p.1 p.2.kind
      s1.posts (c.events ++ later.map (fun g => Instr.graphStart g.id) ++ held.map Instr.monwaitPoll ++ held.map Instr.cplwaitPoll ++ nodes)

/-- The context returns to its last complete checkpoint (R378). A fault on what the rollback reads or writes leaves it halted until the answer
(R461). -/
def State.rollbackCtx (s : State) (asid : Nat) : State :=
  let ids := s.ckpWgs asid
  let run := (s.wgs.filter fun w => ids.contains w.id && w.state == .resident).map (·.id)
  let s1 := s.haltWgs run
  let cores := ((s1.wgs.filter fun w => ids.contains w.id && w.holds).map (·.core)).eraseDups
  match s1.unreadable asid (s1.rollbackReads asid) with
  | (some (va, f), s2) => s2.feFault asid (.device asid) va 5 f (.rollback asid)
  | (none, s2) => match s2.writeBackUndo asid (s2.undo.filter fun u => u.1 == asid).reverse with
    | .error (va, f) => s2.feFault asid (.device asid) va 6 f (.rollback asid)
    | .ok s3 =>
        let now := s3.ckpGraphs asid
        let c := s3.ckps.find? fun c => c.asid == asid && c.complete
        let s4 := (((s3.dropContext asid ids).putBack asid c now).unstall asid).fatalDone asid
        let s5 : State := { s4 with
          l1 := s4.l1.filter fun (l : L1Line) => l.asid != asid
          undo := s4.undo.filter fun (u : Nat × Nat × List Byte) => u.1 != asid
          ckps := s4.ckps.filter fun (c : Ckp) => c.asid != asid || c.complete }
        let rolls := min 15 (fld (s5.rregN (feOf asid) (ctxst asid)) 4 4 + 1)
        let w := (s5.rreg (feOf asid) (ctxst asid) &&& 0xC#32) ||| BitVec.ofNat 32 (16 * rolls)
        ((s5.wreg (feOf asid) (ctxst asid) w).setUndo asid 0).over cores fun s k => s.coreFreed k

/-- ROLLBACK (R378): after a checkpoint that is wanted or under way (R374, R379). -/
def execRollback (asid : Nat) (s : State) : Host.Outcome State Fault Refusal :=
  .next (if s.ckpPending asid then s.post (.rollback asid)
    else
      let s1 := (s.rollbackCtx asid).dispatch.wdogsDone
      if s1.wakeState (feOf asid) = 1 then s1.postOnce (.collapseComplete (feOf asid - 1)) else s1)

/-! ## Pre-emption by priority (R358) -/

/-- Would a waiting unit be placed if the units of `ids` left? -/
def State.wouldPlace (s : State) (w : Wg) (ids : List Nat) : Bool :=
  let s1 := s.over ids fun s i => s.offDevice i
  (s1.placeUnitOn (s1.unitOf w) []).isSome

/-- The victim of a waiting unit: of the lowest priority, the most recently placed, the lower core. DEDUCED (notes/assumptions/16.md). -/
def State.victim (s : State) (w : Wg) (l : Launch) : Option Wg :=
  let lower := s.wgs.filter fun v => v.state == .resident && (match s.launch? v.launch with
    | some m => decide (Prio.num m.prio > Prio.num l.prio) && m.prio != .strip && feOf m.asid == feOf l.asid
    | none => false)
  let key := fun (v : Wg) => [3 - ((s.launch? v.launch).map fun m => Prio.num m.prio).getD 0, s.fresh - v.opened, v.core]
  (sortKey key lower).find? fun v => s.wouldPlace w ((s.unitOf v).map (·.id))

/-- How long a unit waits for placement before it pre-empts (R358): 50 µs for HIGH, 1 ms for NORMAL. -/
def patience (p : Prio) : Nat := micros (if p = .high then 50 else 1000)

/-- A unit that has waited long enough pre-empts (R358), once no halt is under way in its front end; while PROTECT holds it waits (R380). -/
def State.preemptFor (s : State) (wg : Nat) (prio : Prio) : State :=
  match s.wg? wg, s.launchOfWg wg with
  | some w, some l =>
      if l.prio ≠ prio || !(w.state == .waiting || w.state == .saved) 
          || (s.halts.any fun h => feOf (s.asidOf h.1) == feOf l.asid) || !s.mayPlace (feOf l.asid)
          || s.dlc < w.since + patience prio then s
      else match s.victim w l with
        | some v => if s.protected' (s.asidOf v.id) then s else s.preemptWgs ((s.unitOf v).map (·.id))
        | none => s
  | _, _ => s

/-- HIGH_PRIORITY_PREEMPT and NORMAL_PRIORITY_PREEMPT. -/
def execHighPriorityPreempt (wg : Nat) (s : State) : Host.Outcome State Fault Refusal := .next (s.preemptFor wg .high)
def execNormalPriorityPreempt (wg : Nat) (s : State) : Host.Outcome State Fault Refusal := .next (s.preemptFor wg .normal)

/-! ## Time slices (R359, R412) -/

/-- Shared clusters that a front end holds, with none of its work there any more, go to their next holders, their cores zeroed (R412). -/
def State.handOn (s : State) (fe : Nat) (cls : List Nat) : State :=
  s.over cls fun s c => match s.nextHolder fe c with
    | some f => { s.zeroCores c with slices := mput 0 s.slices c (f + 1) }
    | none => s

/-- SLICE_END (R359, R412): each shared cluster that the front end holds goes to the next holder; its units there are rolled back, and the
cores are zeroed. While PROTECT holds, or a checkpoint is under way, the end waits (R380). DEDUCED (notes/assumptions/16.md). -/
def execSliceEnd (fe : Nat) (s : State) : Host.Outcome State Fault Refusal :=
  .next (let cls := (upFrom 0 18).filter fun c =>
      (s.sharers c).length ≥ 2 && mget 0 s.slices c == fe + 1 && (s.nextHolder fe c).isSome
    let units := s.wgs.filter fun w => w.holds && cls.contains (clusterOf w.core) && (match s.launch? w.launch with
      | some l => feOf l.asid == fe && l.prio != .strip
      | none => false)
    let asids := (units.map fun w => s.asidOf w.id).eraseDups
    if asids.any s.protected' then s
    else if asids.any s.ckpPending then s.post (.sliceEnd fe)
    else
      ((s.over asids fun s a => s.rollbackCtx a).handOn fe cls).dispatch)

end Sys2Proof.Machine
end

