-- ==== Sys2Proof/Machine/Ready.lean ====
section
/-! DEFINITION. Chains: the fetch of a packet (R158, R397), the chain at a PC (R153 to R156, R170, R171), the repeats of REP (R214, R215),
and what makes a lane wait before it issues (R13, R21, R54). -/

namespace Sys2Proof.Machine

/-! ## The fetch of a packet -/

/-- The line of the instruction cache of a core that holds an address of a launch (R7, R158). -/
def State.icached (s : State) (core launch va : Nat) : Option ILine :=
  s.icache.find? fun i => i.core == core && i.launch == launch && i.va == lineOf va

/-- An aligned word of a line. -/
def ILine.wordAt (i : ILine) (va : Nat) : List Byte := (i.data.drop (va % 128)).take 4

/-- Room for one of the 512 lines of 128 bytes of a core's instruction cache (R7); the line that goes is a free choice.
DESIGN CHOICE (notes/assumptions/60.md). -/
def State.icacheRoom (s : State) (core : Nat) : State :=
  let mine := s.icache.filter (·.core == core)
  if mine.length < 512 then s
  else match pickFree mine s.fresh with
    | some v => { s with fresh := s.fresh + 1, icache := s.icache.filter fun (i : ILine) => !(i.core == v.core && i.launch == v.launch && i.va == v.va) }
    | none => s

/-- A fill of the instruction cache from the home. -/
def State.icacheFill (s : State) (core launch asid va key : Nat) : State :=
  let (bs, s1) := s.homeRead asid (lineOf key) 128 .dev
  let s2 := s1.icacheRoom core
  { s2 with icache := s2.icache ++ [⟨core, launch, lineOf va, lineOf key, bs⟩] }

/-- A word of a line that the instruction cache holds (R158). Where the word at its home has changed since the fill, each fetch obtains the old
or the new one by a free choice, word by word. DESIGN CHOICE (notes/assumptions/60.md). -/
def State.fetchHit (s : State) (i : ILine) (va : Nat) : List Byte × State :=
  let new := mgets 0#8 s.mem (i.pa + va % 128) 4
  if i.wordAt va = new then (new, s)
  else (if (Config.freeWord s.fresh).getLsbD 0 then new else i.wordAt va, { s with fresh := s.fresh + 1 })

/-- An aligned instruction word: only a miss of the instruction cache is translated (R391). DESIGN CHOICE (notes/assumptions/60.md). -/
def State.fetchWord (s : State) (core launch asid va : Nat) : (Except XFault (List Byte)) × State :=
  match s.icached core launch va with
  | some i => let r := s.fetchHit i va; (.ok r.1, r.2)
  | none => match s.xlate (clusterOf core) asid va .fetch false with
    | (.error f, s1) => (.error f, s1)
    | (.ok p, s1) =>
        let s2 := s1.icacheFill core launch asid va p.key
        (.ok (((s2.icached core launch va).map (·.wordAt va)).getD []), s2)

/-- Reads the words of a packet of a launch with execute permission. -/
def State.fetchWords (s : State) (core launch asid : Nat) : Nat → Nat → (Except XFault (List Nat)) × State
  | 0, _ => (.ok [], s)
  | n + 1, va => match s.fetchWord core launch asid (va % 2 ^ 52) with
    | (.error f, s1) => (.error f, s1)
    | (.ok bs, s1) => match s1.fetchWords core launch asid n (va + 4) with
      | (.error f, s2) => (.error f, s2)
      | (.ok ws, s2) => (.ok (leNat bs :: ws), s2)

/-- The packet of a PC, for a workgroup at a core. -/
def State.fetchPacket (s : State) (core wg : Nat) (pc : DWord) : (Except XFault (List Nat)) × State :=
  s.fetchWords core (((s.wg? wg).map (·.launch)).getD 0) (s.asidOf wg) 3 (packetOf pc).toNat

/-! ## The chain at a PC -/

/-- A chain: its instructions with their slots, the address after it, the cause and slot with which its words trap, and whether it is a
repeat of a REP sequence. -/
structure Chain where
  instrs : List (Nat × Instr)
  next   : DWord
  bad    : Option (Nat × Nat)
  isRep  : Bool
deriving DecidableEq, Repr

/-- The word after slot `k`, if the packet has one. -/
def wordAfter (ws : List Nat) (k : Nat) : Option Nat := if k < 2 then ws[k + 1]? else none

/-- Reads instructions from slot `k` on along the chain bits: the instructions, the slot of a word that is none, the slot after. -/
def readChain (ws : List Nat) : Nat → Nat → List (Nat × Instr) × Option Nat × Nat
  | 0, k => ([], some k, k)
  | n + 1, k =>
      let w := ws.getD k 0
      match decodeThread w (wordAfter ws k) with
      | .error _ => ([], some k, k + 1)
      | .ok i =>
          let e := k + i.slots
          if !bitOf w 31 then ([(k, i)], none, e)
          else if e > 2 then ([(k, i)], some k, e)
          else
            let (xs, b, e') := readChain ws n e
            ((k, i) :: xs, b, e')

/-- Do two instructions of a chain share a pipe or a destination (R156)? -/
def clash (i j : Instr) : Bool :=
  (i.pipe == j.pipe && i.pipe != .none) || Sys2Proof.overlaps (i.dsts.flatMap (·.regs)) (j.dsts.flatMap (·.regs))
    || (i.predDst.isSome && i.predDst == j.predDst)

/-- The slot of the first instruction that clashes with an earlier one. -/
def firstClash : List (Nat × Instr) → List (Nat × Instr) → Option Nat
  | _, [] => none
  | seen, x :: xs => if seen.any fun y => clash y.2 x.2 then some x.1 else firstClash (seen ++ [x]) xs

def isRepInstr : Instr → Bool
  | .rep .. => true
  | _ => false

/-- Opcodes that REP may govern, and those of them in format S (R214). -/
def repOps : List Nat := upFrom 0x01 15 ++ upFrom 0x10 4 ++ upFrom 0x15 3 ++ upFrom 0x19 3 ++ [0x1E] ++ upFrom 0x20 12
  ++ [0x2F, 0x30, 0x31, 0x32, 0x35, 0x3B, 0x3C, 0x3D, 0x40]
def repOpsS : List Nat := [0x19, 0x1A, 0x1B, 0x2F, 0x35, 0x40]

/-- Does a REP at slot `k` break R170 or R214? -/
def repBad (ws : List Nat) (k : Nat) (i : Instr) : Bool :=
  match i with
  | .rep sb _ _ _ =>
      let g := ws.getD (k + 1) 0
      let op := fld g 24 7
      k ≥ 2 || bitOf (ws.getD k 0) 31 || bitOf g 31 || !repOps.contains op || (repOpsS.contains op && sb != 0)
  | _ => false

/-- The slot at which the words of a chain trap with ILLEGAL_INSTRUCTION, if any. Where several words of one chain offend, OSLOT names a word that
is no instruction before the later of two that clash, and that before a REP out of place. DESIGN CHOICE (notes/assumptions/56.md). -/
def chainBad (ws : List Nat) (xs : List (Nat × Instr)) (b : Option Nat) : Option Nat :=
  let rep := xs.find? fun p => isRepInstr p.2 && (repBad ws p.1 p.2 || (xs.head?.map (·.1)) != some p.1)
  match b, firstClash [] xs, rep with
  | some k, _, _ => some k
  | none, some k, _ => some k
  | none, none, some p => some p.1
  | none, none, none => none

/-- The address of a slot of a packet; slot 3 is slot 0 of the next one, and addresses wrap in 52 bits (R157, R164). The spec gives the wrap for
branch targets only; at the top of the space the model lets the next chain's address wrap too, but not the link P + 12 of CALL.
DESIGN CHOICE (notes/assumptions/56.md). -/
def slotAddr (pc : DWord) (k : Nat) : DWord := BitVec.ofNat 64 (((packetOf pc).toNat + 4 * k) % 2 ^ 52)

/-- The chain at a PC. -/
def chainAt (ws : List Nat) (pc : DWord) : Chain :=
  let (xs, b, e) := readChain ws 3 (slotOf pc)
  ⟨xs, slotAddr pc e, (chainBad ws xs b).map fun k => (1, k), false⟩

/-- A register field of a governed word at a repeat (R215): doubled for a 64-bit field; none where it leaves 0 to 119. -/
def bumpField (w lo by' : Nat) : Option Nat :=
  let c := fld w lo 7
  if c ≥ 120 then some w else if c + by' ≥ 120 then none else some (w + by' * 2 ^ lo)

/-- A repeat (R215): the governed instruction with its fields moved on. DEDUCED (notes/assumptions/31.md). -/
def repChain (ws : List Nat) (pc : DWord) (r : Rep) : Chain :=
  let k := slotOf pc + 1
  let w := ws.getD k 0
  let lit := wordAfter ws k
  match decodeThread w lit with
  | .error _ => ⟨[], pc, some (1, k), true⟩
  | .ok i =>
      let wide := fun (o : Option Opnd) => match o with
        | some o => if o.n = 2 then 2 else 1
        | none => 1
      let srcs := i.srcs
      let next := slotAddr pc (k + i.slots)
      match (bumpField w 14 (r.done * r.sd * wide i.dsts.head?)).bind fun w1 =>
          (bumpField w1 7 (r.done * r.sa * wide srcs.head?)).bind fun w2 =>
            if r.sb = 0 then some w2 else bumpField w2 0 (r.done * r.sb * wide srcs[1]?) with
      | none => ⟨[(k, i)], next, some (2, k), true⟩
      | some w' => match decodeThread w' lit with
        | .error _ => ⟨[(k, i)], next, some (1, k), true⟩
        | .ok j => ⟨[(k, j)], next, none, true⟩

/-- The chain that a thread issues next. With ACTIVE set the word after its PC is a repeat, also where a RETT has restored ACTIVE at a PC
that holds no REP. DESIGN CHOICE (notes/assumptions/74.md). -/
def Thread.chain (t : Thread) (ws : List Nat) : Chain := if t.rep.active then repChain ws t.pc t.rep else chainAt ws t.pc

/-- The cause with which a chain's words trap: ILLEGAL_INSTRUCTION of the words, of any instruction, then REG_RANGE (R171, R172). -/
def State.chainCause (s : State) (c : Chain) : Option (Nat × Nat) :=
  let of := fun (n : Nat) => (c.instrs.find? fun p => s.issueCause p.2 == some n).map fun p => (n, p.1)
  match c.bad, of 1, of 2 with
  | some (1, k), _, _ => some (1, k)
  | _, some x, _ => some x
  | some x, none, _ => some x
  | none, none, x => x

/-! ## What makes a lane wait -/

/-- The registers of a thread that await an L-class or T-class result (R54). -/
def State.awaited (s : State) (uid : Nat) : List Nat :=
  s.ops.flatMap fun o => if o.cls != .s && o.lanes.any fun l => l.uid == uid then o.instr.dsts.flatMap (·.regs) else []

/-- Is a chain's register awaited? -/
def State.awaits (s : State) (t : Thread) (c : Chain) : Bool :=
  Sys2Proof.overlaps (s.awaited t.uid) (c.instrs.flatMap fun p => p.2.operands.flatMap (·.regs))

/-- Does a fetch of the thread's packet await its answer (R397)? -/
def State.fetchHeld (s : State) (uid : Nat) : Bool :=
  s.faults.any fun f => match f.src with
    | .fetch us => us.contains uid
    | _ => false

/-- Do the cores of a context stand: until its undo log has been emptied (R377), or for an irrevocable operation (R379)? -/
def State.stalled (s : State) (asid : Nat) : Bool := s.undoFull asid || s.stalls.contains asid

/-- Does nothing of its own keep a thread from its next chain: not parked, no trap to be taken first, no fetch under way? -/
def State.unheld (s : State) (t : Thread) : Bool := t.park.isNone && t.pend.isEmpty && !s.fetchHeld t.uid

/-- May a thread issue at all: on its core, not parked, no trap to be taken first, no fetch under way, its context not stalled? An
irrevocable transaction goes on, since the checkpoint waits for its end (R375). -/
def State.live (s : State) (t : Thread) : Bool :=
  s.unheld t && ((s.wg? t.wg).map (·.state)) == some .resident
    && s.boot == .ready && !(s.stalled (s.asidOf t.wg) && !t.st.irrev)

/-- The live threads of a thread's quad positions, whatever their work (R20, R21). -/
def State.mates (s : State) (t : Thread) : List Thread :=
  s.threads.filter fun u => u.gid == t.gid && u.lane / 4 == t.lane / 4

def isDer : Instr → Bool
  | .derx .. | .dery .. => true
  | _ => false
def isCont : Instr → Bool
  | .cont .. => true
  | _ => false

/-- Keeps the lanes whose quads are whole, where the chain asks for it: for DERX and DERY every live lane of the quad (R21), and for CONT
of pixel work every one of them that stands at this PC (R29). -/
def State.wholeQuads (s : State) (c : Chain) (ts : List Thread) : List Thread :=
  let has := fun (u : Thread) => ts.any fun t => t.uid == u.uid
  if c.instrs.any fun p => isDer p.2 then ts.filter fun t => (s.mates t).all has
  else if c.instrs.any fun p => isCont p.2 then
    ts.filter fun t => !t.pixel || ((s.mates t).filter fun u => u.pc == t.pc).all has
  else ts

/-- Does a thread wait at an instruction of its chain as R13 and R383 count it: QPUT or QGET, a hoist push, TXBEGIN for the token, WAIT? -/
def State.waitsAt (s : State) (t : Thread) (i : Instr) : Bool :=
  match i with
  | .wait g l sl c x => t.pred g && !t.within l sl c x
  | .qget g _ q => t.pred g && !t.helper && (s.qbOf t.wg q.toNat).buf.isEmpty
      && ((s.qbOf t.wg q.toNat).port == .cpl || (s.qbOf t.wg q.toNat).port == .mailbox)
  | .qput g a q => t.pred g && !t.helper && t.cntC ≥ 63
      && t.lastWord (s.qbOf t.wg q.toNat).port (s.src t a) && (s.qbOf t.wg q.toNat).port != .halyard
  | .hoist g q _ _ _ _ _ => t.pred g && !t.helper && (s.qbOf t.wg q.toNat).port == .hoistout
      && (s.hoist (s.qbOf t.wg q.toNat).arg).recs.length ≥ 256
  | .txbegin g _ => t.pred g && t.tx.isNone && t.st.conflicts == 8 && s.tokens.any (·.1 == feOf (s.asidOf t.wg))
  | .derx .. | .dery .. => (s.mates t).any fun u => u.pc != t.pc
  | _ => false

/-- Does a thread wait before the issue of its chain? -/
def State.waitsBefore (s : State) (t : Thread) : Bool :=
  match s.fetchPacket (s.coreOf t.wg) t.wg t.pc with
  | (.ok ws, _) =>
      let c := t.chain ws
      s.unheld t && c.bad.isNone && !s.awaits t c && c.instrs.any fun p => s.waitsAt t p.2
  | _ => false

/-- Is an access of a thread held on a fault (R397)? -/
def State.faultHeldLane (s : State) (uid : Nat) : Bool := s.ops.any fun o => o.lanes.any fun l => l.uid == uid && l.fault.isSome

/-- Is a thread parked on a device-local wait (R383)? One whose access is held on a fault is not parked (R397). -/
def State.localWait (s : State) (t : Thread) : Bool :=
  !s.faultHeldLane t.uid && (match t.park with
  | some (.bar _) | some (.reorder ..) => true
  | some (.mon _ pa _ _ _ _) => homeOf pa == .dram
  | some (.cpl _ pa _ _ ext _ _) => !ext && homeOf pa == .dram
  | some _ => false
  | none => s.waitsBefore t)

/-- Is a thread parked, whatever its wait (R13, R420)? -/
def State.isParked (s : State) (t : Thread) : Bool :=
  !s.faultHeldLane t.uid && (match t.park with
  | some (.held ..) | some .debug | some .txend => false
  | some _ => true
  | none => s.waitsBefore t)

/-! ## The watchdog (R383, R384) -/

/-- The live threads of a context, on the device or saved. -/
def State.ctxThreads (s : State) (asid : Nat) : List Thread := s.threads.filter fun t => s.asidOf t.wg == asid

/-- Does a node of a graph run the kernel of live threads? -/
def State.ofThreads (s : State) (g n : Nat) : Bool :=
  s.threads.any fun t => match s.launchOfWg t.wg with
    | some l => l.graph == g && l.node == n
    | none => false

/-- Has a graph yet to start, or is a node of it running or ready apart from the kernels of live threads, and, where they do not count, EXTWAIT
nodes (R383, R420)? -/
def State.nodeBusy (s : State) (g : Graph) (extOk : Bool) : Bool :=
  !g.started || ((upFrom 0 g.nodes.length).zip g.nodes).any fun p =>
    (p.2.state == .running || p.2.state == .ready || p.2.state == .paused) && !(p.2.kind == 6 && extOk)
      && !((p.2.kind == 1 || p.2.kind == 9) && p.2.state == .running && s.ofThreads g.id p.1)

/-- The conditions under which the watchdog of a context counts (R383). -/
def State.deadlocked (s : State) (asid : Nat) : Bool :=
  let ts := s.ctxThreads asid
  let wgs := s.wgsOf asid
  let fe := feOf asid
  (ts.any fun t => ((s.wg? t.wg).map (·.holds)).getD false) && ts.all s.localWait
    && wgs.all (fun w => (match w.seq with | some q => q.st != .running | none => true) && w.ring.isEmpty
        && w.queues.toList.all fun q => q.port != .hoistin || (s.hoist q.arg).recs.isEmpty)
    && s.hoists.toList.all (fun h => h.recs.all fun r => r.asid != asid)
    && !(s.cmds.any fun c => c.asid == asid) && !(s.bins.any fun b => wgs.any fun w => w.id == b.wg)
    && (upFrom 0 32).all (fun q => fld (s.rregN fe (0x0800 + 16 * q)) 16 6 != asid % 64 || s.pending fe q == 0)
    && !(s.graphs.any fun g => g.asid == asid && s.nodeBusy g false)

/-- WATCHDOG_FIRE (R384): the context's work is pre-empted, its queues lose EN, WDFIRED is set, and WATCHDOG is raised once the images are
written (R350). -/
def execWatchdogFire (asid : Nat) (s : State) : Host.Outcome State Fault Refusal :=
  .next (let fe := feOf asid
    let limit := s.rregN fe (0x0A00 + 8 * (asid % 64) + 5)
    if limit = 0 || !s.deadlocked asid then s
    else
      let s1 := s.preemptWgs ((s.wgsOf asid).filter (·.state == .resident) |>.map (·.id))
      let s2 : State := s1.over (upFrom 0 32) fun (s : State) q =>
        let w := s.rreg fe (0x0800 + 16 * q)
        if fld w.toNat 16 6 = asid % 64 then s.wreg fe (0x0800 + 16 * q) (w &&& 0x7FFFFFFF#32) else s
      (({ s2.setBit fe (ctxst asid) 2 true with wdogs := s2.wdogs ++ [asid] } : State).boxPut 7 fe 0 asid 0).wdogsDone)

end Sys2Proof.Machine
end

