-- ==== Sys2Proof/Machine/Sysregs.lean ====
section
/-! DEFINITION. The system registers (R343 to R350): who may reach which index, what a read returns and clears, what a write does; SYSRD and
SYSWR (R293); the deadline counter (R360, R361); TLB invalidations (R394, R395) and LOD_FLUSH (R407). -/

namespace Sys2Proof.Machine

/-! ## Who may reach an index (R343, R347) -/

def Level.atLeastR : Level → Bool
  | .r | .s => true
  | _ => false
def Level.atLeastF : Level → Bool
  | .u => false
  | _ => true

/-- Registers that open to level S alone (R406). -/
def secOnly (idx : Nat) : Bool := idx == 0x1E00 || idx == 0x1E01 || idx == 0x1E09 || idx == 0x1E0A

/-- Does the level of a requester open an index of its view (R343, R347)? Level F reaches the view of its VF, and FE_ of the global view;
levels R and S reach every view. DEDUCED (notes/assumptions/18.md). -/
def Requester.opens (r : Requester) (idx : Nat) (write : Bool) : Bool :=
  let f := Level.atLeastF r.level
  let rs := Level.atLeastR r.level
  let vf := r.view != 0
  let readF := rs || (vf && r.level == .f && !write)
  if idx < 0x0400 then false
  else if idx < 0x0800 then
    (if !vf && 0x0460 ≤ idx && idx < 0x0472 then rs else if !vf && 0x0480 ≤ idx && idx < 0x04B0 && write then rs else f)
  else if idx < 0x0C00 then (if vf then f else rs)
  else if idx < 0x1800 then readF
  else if idx < 0x1C00 then (if vf then f else rs)
  else if idx < 0x2000 then (if secOnly idx then r.level == .s else if vf then f else rs)
  else if idx < 0x2400 then readF
  else if idx < 0x2800 then (if vf then f else rs)
  else if idx < 0x2C00 then !vf && rs && !write
  else if idx < 0x3000 then !vf && rs
  else false

/-! ## Fields and access codes -/

/-- A WAKE_ offset: its VF and register, by view. -/
def wakeAt (view idx : Nat) : Option (Nat × Nat) :=
  if view = 0 then (if idx < 0x1880 then some ((idx - 0x1800) / 8, idx % 8) else none)
  else if idx < 0x1808 then some (view - 1, idx - 0x1800) else none

/-- The bits of a register that a plain write sets (RW). -/
def regRw (view idx : Nat) : Word :=
  let all := 0xFFFFFFFF#32
  let g := view == 0
  if idx = 0x0411 then (if g then 0x301FF#32 else 0x1FF#32)
  else if g && 0x0480 ≤ idx && idx < 0x04B0 then
    (if idx % 4 = 0 then 0x801F0301#32
     else if idx < 0x0490 then 0#32 else if idx % 4 = 1 then all else if idx % 4 = 2 then 0xF#32 else 0#32)
  else if 0x0500 ≤ idx && idx < 0x0540 then 1#32
  else if 0x0800 ≤ idx && idx < 0x0A00 then
    (if [1, 2, 3, 6, 7, 8].contains (idx % 16) then all else 0#32)
  else if 0x0A00 ≤ idx && idx < 0x0C00 then (if [0, 1, 2, 3, 5].contains (idx % 8) then all else 0#32)
  else if idx = 0x0C02 || idx = 0x0C09 then all
  else if idx = 0x0C08 then 1#32
  else if 0x0D00 ≤ idx && idx < 0x0F00 then
    (let o := idx % 32
     if (1 ≤ o && o ≤ 10) || o = 12 || o = 22 then all else if o = 11 then 0xFFFFFF#32 else if o = 23 then 0xFFFFF#32
     else if o = 0 then 0x1F0000#32 else 0#32)
  else if 0x0F00 ≤ idx && idx < 0x0F22 then all
  else if 0x1000 ≤ idx && idx < 0x1088 then (if [1, 2, 3].contains (idx % 8) then all else 0#32)
  else if 0x1800 ≤ idx && idx < 0x1C00 then
    (match wakeAt view idx with | some (_, o) => if o = 2 || o = 4 || o = 5 then all else 0#32 | none => 0#32)
  else if 0x1C00 ≤ idx && idx < 0x1E00 then (if idx % 8 < 6 then all else 0#32)
  else if idx = 0x1E00 || idx = 0x1E01 || (0x1E03 ≤ idx && idx ≤ 0x1E05) then all
  else if g && (idx = 0x1E09 || idx = 0x1E0A) then all
  else if 0x2400 ≤ idx && idx < 0x2600 then (if [0, 1, 2, 4, 7].contains (idx % 8) then all else 0#32)
  else if g && (idx = 0x2C00 || idx = 0x2C02) then all
  else 0#32

/-- The bits of a register that a 1 clears (W1C). -/
def regW1c (view idx : Nat) : Word :=
  if idx = 0x0410 then (if view = 0 then 0x301FF#32 else 0x1FF#32)
  else if 0x0800 ≤ idx && idx < 0x0A00 && idx % 16 = 9 then 0x80000000#32
  else if 0x0A00 ≤ idx && idx < 0x0C00 && idx % 8 = 6 then 4#32
  else if idx = 0x0C05 then 6#32
  else if 0x1000 ≤ idx && idx < 0x1088 && idx % 8 = 4 then 0x80000000#32
  else if 0x1400 ≤ idx && idx < 0x1411 then 1#32
  else if 0x1C00 ≤ idx && idx < 0x1E00 && idx % 8 = 7 then 0xF#32
  else if idx = 0x1E06 then 2#32
  else if 0x2400 ≤ idx && idx < 0x2600 && idx % 8 = 6 then 1#32
  else 0#32

/-- A number held between two limits. -/
def clampN (lo hi n : Nat) : Nat := min hi (max lo n)

/-- What a plain write stores, after the register's own limits (R360, R381, R409, R419, R425). -/
def regClamp (view idx : Nat) (v : Word) : Word :=
  let c := fun lo hi => BitVec.ofNat 32 (clampN lo hi v.toNat)
  if 0x0A00 ≤ idx && idx < 0x0C00 && idx % 8 = 0 then c 20 500
  else if idx = 0x0C02 then BitVec.ofInt 32 (min 1000000000 (max (-1000000000) v.toInt))
  else if 0x1000 ≤ idx && idx < 0x1088 && idx % 8 = 3 then c 100 10000
  else if 0x1800 ≤ idx && idx < 0x1C00 && (wakeAt view idx).map (·.2) == some 2 then c 10 1000000
  else if idx = 0x2C00 then c 0 4
  else if idx = 0x2C02 then c 300 2400
  else v

/-- Read-and-clear registers (R348, R362, R406 to R408, R416, R425). -/
def regRc (view idx : Nat) : Bool :=
  let g := view == 0
  (g && (idx == 0x0420 || (0x0440 ≤ idx && idx < 0x0450) || (0x0460 ≤ idx && idx < 0x0472) || idx == 0x2C05))
    || (0x0D00 ≤ idx && idx < 0x0F00 && ((15 ≤ idx % 32 && idx % 32 ≤ 21) || idx % 32 == 24))
    || idx == 0x1E08 || idx == 0x2002 || (0x2400 ≤ idx && idx < 0x2600 && idx % 8 == 5)

/-! ## Reads -/

/-- Registers that read as zero whatever they hold: write-only ones, and fields of the model's own. -/
def regHidden (idx : Nat) : Bool :=
  idx == 0x0412 || idx == 0x0C03 || idx == 0x0C04 || idx == 0x1E02 || idx == 0x1E07 || (0x1000 ≤ idx && idx < 0x1088 && idx % 8 ≥ 5)

/-- BBX_STAT (R443). -/
def State.bbxStat (s : State) : Word :=
  BitVec.ofNat 32 ((if s.boxSnap.isSome then 2 ^ 31 else 0) + (s.boxCount - 1) % 1024 * 2 ^ 16 + min 65535 s.boxCount)

/-- The value that a read of an index gives, and what it clears or latches (R3, R348, R360). -/
def State.regRead (s : State) (r : Requester) (idx : Nat) : Word × State :=
  let v := s.rreg r.view idx
  if regHidden idx then (0#32, s)
  else if idx = 0x0C00 then (BitVec.ofNat 32 s.dlc, { s with latches := mput 0 s.latches r.latch (s.dlc / 2 ^ 32 % 2 ^ 32) })
  else if idx = 0x0C01 then (BitVec.ofNat 32 (mget 0 s.latches r.latch), s)
  else if 0x0800 ≤ idx && idx < 0x0A00 && idx % 16 = 9 then
    (v ||| BitVec.ofNat 32 (2 ^ 16 * ((s.queueGraphs r.view ((idx - 0x0800) / 16)).filter (·.started)).length), s)
  else if idx = 0x2000 then (BitVec.ofNat 32 (s.prqUsed r.view), s)
  else if idx = 0x2001 then (if r.view = 0 then 1536#32 else 1600#32, s)
  else if idx = 0x2010 then (if r.view = 0 then BitVec.ofNat 32 s.prqFree else 0#32, s)
  else if idx = 0x2800 then (s.bbxStat, s)
  else if regRc r.view idx then (v, s.wreg r.view idx 0#32)
  else (v, s)

/-- The management core that a requester is, by its level and the view that serves it (R9, R343). -/
def Requester.core (r : Requester) : Option Nat :=
  match r.level with
  | .f => if r.view = 0 then none else some (252 + r.view)
  | .s => some 269
  | .r => some 252
  | .u => none

/-- The thread of the management core that a requester is. -/
def State.mgmtThread (s : State) (r : Requester) : Option Thread := (Requester.core r).bind fun core => s.threads.find? fun t => s.coreOf t.wg == core

/-- An access that R347 does not open (R348): one of the host is counted; one of a management core traps in its thread. -/
def State.deny (s : State) (r : Requester) : State :=
  if r.host then s.bump 0 0x0420
  else match s.mgmtThread r with
    | some t => s.takeTrap t.uid 24 (slotOf t.pc) 0 0 t.pc
    | none => s

/-- Does a requester reach a view: its own, the global one as far as R347 opens it, and levels R and S every one (R343)? -/
def Requester.reaches (r : Requester) (view : Nat) : Bool := view == r.view || view == 0 || Level.atLeastR r.level

/-- A read that comes from outside, of an index of a view: its answer leaves the device; one that is not open returns 0 to a host and is counted
(R348). -/
def State.readView (s : State) (r : Requester) (view idx : Nat) : State :=
  if Requester.reaches r view && Requester.opens { r with view := view } idx false then
    let (v, s1) := s.regRead { r with view := view } idx
    { s1 with out := s1.out ++ [Out.read view idx v] }
  else if r.host then { s.deny r with out := s.out ++ [Out.read view idx 0#32] }
  else s.deny r

/-- The same in the requester's own view. -/
def State.outsideRead (s : State) (r : Requester) (idx : Nat) : State := s.readView r r.view idx

/-- FE_DENIED_READ (R348). -/
def execFeDeniedRead (req : Requester) (s : State) : Host.Outcome State Fault Refusal := .next (s.readView req 0 0x0420)

/-- FE_NOSHADOW_READ (R348). -/
def execFeNoshadowRead (req : Requester) (c : Nat) (s : State) : Host.Outcome State Fault Refusal :=
  .next (if c < 18 then s.readView req 0 (0x0460 + c) else s)

/-- FE_NOTIFYDROP_READ (R416). -/
def execFeNotifydropRead (req : Requester) (n : Nat) (s : State) : Host.Outcome State Fault Refusal :=
  .next (if n < 16 then s.readView req 0 (0x0440 + n) else s)

/-- STREAM_COUNTER_READ (R362): offsets 15 to 21 and 24 of a stream. -/
def execStreamCounterRead (req : Requester) (slot o : Nat) (s : State) : Host.Outcome State Fault Refusal :=
  .next (if slot < 16 && ((15 ≤ o && o ≤ 21) || o = 24) then s.outsideRead req (streamReg slot o) else s)

/-- TLB_SPECDROP_READ (R406). -/
def execTlbSpecdropRead (req : Requester) (fe : Nat) (s : State) : Host.Outcome State Fault Refusal :=
  .next (if fe < 17 then s.readView req fe 0x1E08 else s)

/-- LOD_FBDROP_READ (R407). -/
def execLodFbdropRead (req : Requester) (fe c : Nat) (s : State) : Host.Outcome State Fault Refusal :=
  .next (if fe < 17 && c < 64 then s.readView req fe (0x2400 + 8 * c + 5) else s)

/-- PRQ_WAITS_READ (R408). -/
def execPrqWaitsRead (req : Requester) (fe : Nat) (s : State) : Host.Outcome State Fault Refusal :=
  .next (if fe < 17 then s.readView req fe 0x2002 else s)

/-- PWR_DROOPS_READ (R425). -/
def execPwrDroopsRead (req : Requester) (s : State) : Host.Outcome State Fault Refusal :=
  .next (s.readView req 0 0x2C05)

/-- TTS_DLCLO_READ (R360): the high half is latched for the requester, a view or a hardware thread, whose latch it names. -/
def execTtsDlcloRead (req : Nat) (s : State) : Host.Outcome State Fault Refusal :=
  .next (s.outsideRead ⟨0, .r, true, req⟩ 0x0C00)

/-! ## Writes -/

/-- Sends the vectors of a view's causes that are set, no longer masked, and were masked before (R350). -/
def State.unmask (s : State) (view : Nat) (old new : Word) : State :=
  let st := s.rregN view 0x0410
  let rise := (upFrom 0 32).filter fun c => bitOf st c && bitOf old.toNat c && !bitOf new.toNat c
  s.over rise fun s c => s.vector view c

/-- Is an event one that a register's write is, or a scrub? Such an event takes place before anything else does (R445); what a scrub has yet
to do stalls every access that would reach it (R414). -/
def isWriteEvent : Instr → Bool
  | .queueEnable .. | .queueNotify .. | .ttsStep .. | .streamOpen .. | .streamClose .. | .ptnRangeCommit .. | .wakeWake .. | .collapse ..
  | .tlbInvStage1Range .. | .tlbInvContext .. | .tlbInvStage2Range .. | .tlbInvFrontEnd .. | .pageRequestRefuse .. | .pageRequestRetry ..
  | .lodFlush .. | .scrubComplete .. => true
  | _ => false

/-- Puts the events of a write in front, after those of earlier writes. DEDUCED (notes/assumptions/12.md). -/
def State.postWrite (s : State) (is : List Instr) : State :=
  { s with agenda := s.agenda.takeWhile isWriteEvent ++ is ++ s.agenda.dropWhile isWriteEvent }

/-- The index of WAKE_CTL's plain fields (R419): INHIBIT, and CLASS while no queue of the VF is enabled. -/
def State.writeWakeCtl (s : State) (n : Nat) (v : Word) : State :=
  let fe := n + 1
  let old := s.rreg fe 0x1800
  let enabled := (upFrom 0 32).any fun q => bitOf (s.rregN fe (0x0800 + 16 * q)) 31
  let noArea := s.rreg2 fe 0x1804 = 0 && fld v.toNat 0 2 ≥ 2
  let cls := if enabled || noArea then old &&& 3#32 else v &&& 3#32
  let s1 := s.wreg fe 0x1800 ((v &&& 0x200#32) ||| cls)
  if bitOf v.toNat 8 then s1.postWrite [.collapse n] else s1

/-- A write that starts something (R352, R354, R363, R361, R394, R399, R407, R410, R419, R422): the event that a register's write is. -/
def writeEvent (r : Requester) (idx : Nat) (v : Word) : List Instr :=
  let fe := r.view
  if 0x0800 ≤ idx && idx < 0x0A00 && idx % 16 = 0 then [.queueEnable fe ((idx - 0x0800) / 16) v]
  else if 0x0800 ≤ idx && idx < 0x0A00 && idx % 16 = 5 then [.queueNotify fe ((idx - 0x0800) / 16) v]
  else if idx = 0x0C04 then [.ttsStep v]
  else if 0x0D00 ≤ idx && idx < 0x0F00 && idx % 32 = 0 then
    (let slot := (idx - 0x0D00) / 32
     (if bitOf v.toNat 0 then [.streamOpen slot] else []) ++ (if bitOf v.toNat 1 then [.streamClose slot] else []))
  else if 0x1000 ≤ idx && idx < 0x1088 && idx % 8 = 0 then [.ptnRangeCommit ((idx - 0x1000) / 8) v]
  else if 0x1800 ≤ idx && idx < 0x1C00 then
    (match wakeAt r.view idx with | some (n, 1) => [.wakeWake n] | _ => [])
  else if idx = 0x1E02 then
    (if !bitOf v.toNat 31 then []
     else match fld v.toNat 26 2 with
       | 0 => [.tlbInvStage1Range fe r.level (fld v.toNat 16 6)]
       | 1 => [.tlbInvContext fe r.level (fld v.toNat 16 6)]
       | 2 => [.tlbInvStage2Range fe r.level]
       | _ => [.tlbInvFrontEnd fe r.level])
  else if idx = 0x1E07 then
    (if bitOf v.toNat 31 then [.pageRequestRefuse fe (fld v.toNat 0 16)] else [.pageRequestRetry fe (fld v.toNat 0 16)])
  else if idx = 0x2600 then [.lodFlush fe v]
  else []

/-- What else a write brings about: unmasking, the choice of the reference, the ring that has room, the target of the
operating point and whether the cap is below it (R425). -/
def State.writeSide (s : State) (view idx : Nat) (old v : Word) : State :=
  if idx = 0x0411 then s.unmask view old v
  else if idx = 0x0C08 then s.setBit 0 0x0C05 0 (v &&& 1#32 = 0#32 || s.ref10)
  else if 0x1C00 ≤ idx && idx < 0x1E00 && idx % 8 = 5 then
    s.posts (((s.faults.filter fun f => f.phase == .waitRing && f.asid == 64 * view + (idx - 0x1C00) / 8).take 1).map fun f =>
      Instr.faultRecordWrite f.id)
  else if idx = 0x1E09 || idx = 0x1E0A then { s with tlb := s.tlb.filter fun (e : TlbEntry) => homeOf e.pa != .host }
  else if idx = 0x2C00 then
    (let s1 := s.setBit 0 0x2C01 1 (s.cap < v.toNat)
     if fld (s.rregN 0 0x2C01) 8 3 = min v.toNat s.cap then s1 else (s1.setBit 0 0x2C01 31 true).postOnce .oppStep)
  else s

/-- A write to an index that is open: fields under their access codes, then what the write starts (R3). -/
def State.regWrite (s : State) (r : Requester) (idx : Nat) (v : Word) : State :=
  let old := s.rreg r.view idx
  let rw := regRw r.view idx
  let c := regClamp r.view idx v
  let new := ((old &&& ~~~rw) ||| (c &&& rw)) &&& ~~~(v &&& regW1c r.view idx)
  let s1 := if idx = 0x0C03 then s.wreg 0 0x0C03 v else s.wreg r.view idx new
  let s2 := (s1.writeSide r.view idx old new).postWrite (writeEvent r idx v)
  if 0x1800 ≤ idx && idx < 0x1C00 then
    (match wakeAt r.view idx with | some (n, 0) => s2.writeWakeCtl n v | _ => s2)
  else s2

/-- REGISTER_WRITE (R3, R348): a write that R347 does not open is discarded, and counted when it comes from the host. -/
def execRegisterWrite (req : Requester) (idx : Nat) (v : Word) (s : State) : Host.Outcome State Fault Refusal :=
  .next (if Requester.opens req idx true then s.regWrite req idx v else s.deny req)

/-- A PCIe access to a BAR (R346): BAR 0 holds the global view and the views of the VFs, BAR 2 of a VF its view; the rest, and what is no aligned
word, reads 0 and ignores writes. Until the PF is ready nothing is answered (R431). DESIGN CHOICE for unaligned accesses
(DESIGN CHOICE, notes/assumptions/43.md). -/
def State.mmio (s : State) (bar off : Nat) (v : Option Word) : State :=
  let view := if bar = 0 then off / 65536 else bar
  let inside := off % 4 == 0 && view ≤ 16 && (bar == 0 || off < 65536)
  let r : Requester := ⟨view, if bar = 0 then .r else .f, true, view⟩
  let idx := off % 65536 / 4
  if s.boot ≠ .ready then s
  else match v with
    | none => if inside then s.outsideRead r idx else { s with out := s.out ++ [Out.read view idx 0#32] }
    | some w => if inside then landed s (execRegisterWrite r idx w s) else s

/-! ## SYSRD and SYSWR (R293) -/

/-- The requester that a thread of a launch is: its level and the view that serves it (R343): function core n has the view of VF n. -/
def State.threadReq (s : State) (t : Thread) : Requester :=
  let l := (s.launchOfWg t.wg)
  let lv := (l.map (·.level)).getD .u
  let core := s.coreOf t.wg
  ⟨if lv = .f then (if 252 < core then core - 252 else feOf ((l.map (·.asid)).getD 0)) else 0, lv, false, 64 + t.uid⟩

/-- The user-level registers (R223, R293). -/
def State.userReg (s : State) (t : Thread) (idx : Nat) : Option Word :=
  match idx with
  | 0x080 => some (lo32 t.trap.xpc)
  | 0x081 => some (hi32 t.trap.xpc)
  | 0x082 => some t.xcause
  | 0x083 => some t.xinfo
  | 0x084 => some (lo32 t.trap.xaddr)
  | 0x085 => some (hi32 t.trap.xaddr)
  | 0x086 => some t.trap.xrep.word
  | 0x090 => some (mget 0#32 s.hgrant (2 * s.asidOf t.wg))
  | 0x091 => some (mget 0#32 s.hgrant (2 * s.asidOf t.wg + 1))
  | _ => none

/-- SYSRD (R293, R348). -/
def execSysrd (g : Pred) (d : Dst) (idx : BitVec 14) (s : State) : Host.Outcome State Fault Refusal :=
  issued (.sysrd g d idx) s fun s => s.eachLane g fun s t => match s.userReg t idx.toNat with
    | some w => s.updThr t.uid fun t => (t.wr d w).trimLog
    | none =>
        if Requester.opens (s.threadReq t) idx.toNat false then
          let (w, s1) := s.regRead (s.threadReq t) idx.toNat
          s1.updThr t.uid fun t => (t.wr d w).trimLog
        else s.trapHere t.uid 24 0 0

/-- A write of a trap register (R223): XPC and RSLOT, in the handler only. -/
def Thread.writeTrapReg (t : Thread) (idx : Nat) (v : Word) : Thread :=
  if !t.trap.inh then t
  else match idx with
    | 0x080 => { t with trap := { t.trap with xpc := pairOf v (hi32 t.trap.xpc) } }
    | 0x081 => { t with trap := { t.trap with xpc := pairOf (lo32 t.trap.xpc) (v &&& 0xFFFFF#32) } }
    | 0x082 => { t with trap := { t.trap with rslot := fld v.toNat 12 2 } }
    | _ => t

/-- SYSWR (R223, R293, R348). -/
def execSyswr (g : Pred) (v : Src) (idx : BitVec 14) (s : State) : Host.Outcome State Fault Refusal :=
  issued (.syswr g v idx) s fun s => s.eachLane g fun s t =>
    let trapReg := 0x080 ≤ idx.toNat && idx.toNat ≤ 0x085
    let r := s.threadReq t
    if !trapReg && !Requester.opens r idx.toNat true then s.trapHere t.uid 24 0 0
    else if t.opPois (.s v) then s.trapPoison t false [.s v]
    else if trapReg then s.updThr t.uid fun t => t.writeTrapReg idx.toNat (s.src t v)
    else s.regWrite r idx.toNat (s.src t v)

/-! ## The deadline counter (R360, R361) -/

/-- TTS_STEP (R361): a positive step adds at once; a negative one of at most 1 s holds the counter (`holdLeft` is one more than the source time
still to pass); a longer one is ignored. -/
def execTtsStep (v : Word) (s : State) : Host.Outcome State Fault Refusal :=
  .next (let d := (pairOf (s.rreg 0 0x0C03) v).toInt
    if d ≥ 0 then { s with dlc := s.dlc + d.toNat }
    else if -d > 2 ^ 32 then s
    else ({ s with holdLeft := max 1 s.holdLeft + (-d).toNat } : State).setBit 0 0x0C05 3 true)

/-- STEP_HOLD_END (R361): the source time has passed, and the counter goes on. -/
def execStepHoldEnd (s : State) : Host.Outcome State Fault Refusal :=
  .next (({ s with holdLeft := 0 } : State).setBit 0 0x0C05 3 false)

/-- Latches the counter into a register pair. -/
def State.stampAt (s : State) (idx : Nat) : State :=
  (s.wreg 0 idx (BitVec.ofNat 32 s.dlc)).wreg 0 (idx + 1) (BitVec.ofNat 32 (s.dlc / 2 ^ 32))

/-- PPS_EDGE (R360). -/
def execPpsEdge (s : State) : Host.Outcome State Fault Refusal := .next ((s.stampAt 0x0C06).setBit 0 0x0C05 2 true)

/-- GENLOCK_EDGE (R446). -/
def execGenlockEdge (s : State) : Host.Outcome State Fault Refusal := .next (s.stampAt 0x0C0A)

/-- REFERENCE_LOST (R360, R361). -/
def execReferenceLost (s : State) : Host.Outcome State Fault Refusal :=
  .next (let s1 : State := { s with ref10 := false }
    if bitOf (s.rregN 0 0x0C08) 0 then (s1.setBit 0 0x0C05 1 true).setBit 0 0x0C05 0 false else s1)

/-- REFERENCE_RESTORED (R360). -/
def execReferenceRestored (s : State) : Host.Outcome State Fault Refusal :=
  .next (let s1 : State := { s with ref10 := true }
    if bitOf (s.rregN 0 0x0C08) 0 then s1.setBit 0 0x0C05 0 true else s1)

/-- EVENT_MESSAGE (R449): the timing port stamps the message with the counter. -/
def execEventMessage (s : State) : Host.Outcome State Fault Refusal := .next { s with out := s.out ++ [.stamp s.dlc] }

/-! ## Invalidations (R394, R395) -/

/-- Starts an invalidation, or refuses it with ERR. -/
def State.invStart (s : State) (fe : Nat) (lvl : Level) (kind ctx : Nat) : State :=
  let ranged := kind == 0 || kind == 2
  if bitOf (s.rregN fe 0x1E06) 0 || (kind ≥ 2 && lvl != .s) || !Level.atLeastF lvl || (ranged && s.rreg fe 0x1E05 == 0#32) then
    s.setBit fe 0x1E06 1 true
  else
    (({ s with invals := s.invals ++ [⟨fe, kind, ctx, s.rreg2 fe 0x1E03, 4096 * s.rregN fe 0x1E05⟩] } : State).setBit fe 0x1E06 0
      true).post (.tlbInvComplete fe)

/-- TLB_INV_STAGE1_RANGE, TLB_INV_CONTEXT, TLB_INV_STAGE2_RANGE and TLB_INV_FRONT_END. -/
def execTlbInvStage1Range (fe : Nat) (lvl : Level) (ctx : Nat) (s : State) : Host.Outcome State Fault Refusal := .next (s.invStart fe lvl 0 ctx)
def execTlbInvContext (fe : Nat) (lvl : Level) (ctx : Nat) (s : State) : Host.Outcome State Fault Refusal := .next (s.invStart fe lvl 1 ctx)
def execTlbInvStage2Range (fe : Nat) (lvl : Level) (s : State) : Host.Outcome State Fault Refusal := .next (s.invStart fe lvl 2 0)
def execTlbInvFrontEnd (fe : Nat) (lvl : Level) (s : State) : Host.Outcome State Fault Refusal := .next (s.invStart fe lvl 3 0)

/-- Does a cached translation of an invalidation's reach it? A stage-2 range is one of intermediate addresses. -/
def Inval.hits (v : Inval) (e : TlbEntry) : Bool :=
  match v.kind with
  | 0 => e.asid == 64 * v.fe + v.ctx && e.va < v.addr + v.len && v.addr < e.va + 2 ^ e.bits
  | 1 => e.asid == 64 * v.fe + v.ctx
  | 2 => feOf e.asid == v.fe && e.ia < v.addr + v.len && v.addr < e.ia + 2 ^ e.bits
  | _ => feOf e.asid == v.fe

/-- Does an L1 line go with it? The stage-2 kinds take every line of the front end. -/
def Inval.hitsLine (v : Inval) (l : L1Line) : Bool :=
  match v.kind with
  | 0 => l.asid == 64 * v.fe + v.ctx && v.addr ≤ l.va && l.va < v.addr + v.len
  | 1 => l.asid == 64 * v.fe + v.ctx
  | _ => feOf l.asid == v.fe

/-- Is a fault of a command one that an invalidation lets walk again? -/
def Inval.hitsFault (v : Inval) (f : FaultRec) : Bool :=
  match f.src with
  | .cmd _ => feOf f.asid == v.fe && (v.kind ≥ 2 || (f.asid % 64 == v.ctx && (v.kind == 1 || (v.addr ≤ f.va && f.va < v.addr + v.len))))
  | _ => false

/-- TLB_INV_COMPLETE (R395). DEDUCED (notes/assumptions/23.md). -/
def execTlbInvComplete (fe : Nat) (s : State) : Host.Outcome State Fault Refusal :=
  .next (match s.invals.find? (·.fe == fe) with
    | none => s
    | some v =>
        let s1 : State := { s with tlb := s.tlb.filter fun (e : TlbEntry) => !v.hits e, invals := s.invals.filter fun (x : Inval) => x.fe != fe }
        let s2 := s1.over (s1.l1.filter fun l => v.hitsLine l) fun s l => s.l1Drop l .dev
        (s2.over (s2.faults.filter v.hitsFault) fun s f => s.walkAgain f).setBit fe 0x1E06 0 false)

/-- LOD_FLUSH (R407): the context's keys leave every cluster's filter. -/
def execLodFlush (fe : Nat) (v : Word) (s : State) : Host.Outcome State Fault Refusal :=
  .next { s with filter := s.filter.filter fun p => p.2.head? != some (64 * fe + fld v.toNat 0 6) }

end Sys2Proof.Machine
end

