-- ==== Sys2Proof/Machine/Partition.lean ====
section
/-! DEFINITION. Partitions (R409, R410), scrubbing (R413, R414), migration (R415), function-level reset (R416, R417), idle collapse and
wake (R418 to R424), operating points, droop and heat (R425 to R429). -/

namespace Sys2Proof.Machine

/-! ## Ranges and colours (R409 to R411) -/

/-- The staged colours of a front end. -/
def State.staged' (s : State) (f : Nat) : List Nat := setBits 64 (s.rreg2 0 (0x1001 + 8 * f))

/-- Could a unit of several workgroups be placed on the cores of its front end's range if nothing else stood there (R36, R39)? -/
def State.couldPlace (s : State) (w : Wg) : Bool :=
  let ids := (s.unitOf w).map (·.id)
  let mine := ids.contains
  let s1 := s.over ids fun s i => s.offDevice i
  let s2 : State := { s1 with
    wgs := s1.wgs.filter fun (x : Wg) => mine x.id
    threads := s1.threads.filter fun (t : Thread) => mine t.wg
    groups := s1.groups.filter fun (g : LaneGroup) => mine g.wg
    bins := s1.bins.filter fun (b : Bin) => mine b.wg
    launches := s1.launches.map fun (l : Launch) => { l with graph := 0, prio := .normal }
    holds := [] }
  (s2.placeUnitOn (s2.wgs) []).isSome

/-- Does every gang and every co-resident unit of a front end that is resident or saved still fit? -/
def State.unitsFit (s : State) (f : Nat) : Bool :=
  s.wgs.all fun w => match s.launch? w.launch with
    | some l => feOf l.asid != f || !(w.holds || w.state == .saved) || !(w.gang.isSome || s.coResident w) || s.couldPlace w
    | none => true

/-- Do the exclusive cores of every front end still suffice for its admitted reservations (R410)? -/
def State.stripsFit (s : State) : Bool :=
  (upFrom 0 17).all fun f =>
    let rs := (s.admitted f).flatMap s.reservations
    let len := s.rregN 0 0x0C09
    rs.isEmpty || (upFrom 0 (len / 4096)).all fun j => slotLoad len j rs ≤ (s.exclusive f).length

/-- The state with a new range and mask. -/
def State.withRange (s : State) (f : Nat) (v : Word) : State :=
  let s1 := s.wreg 0 (0x1000 + 8 * f) (v &&& 0x801F001F#32)
  (s1.wreg 0 (0x1005 + 8 * f) (s.rreg 0 (0x1001 + 8 * f))).wreg 0 (0x1006 + 8 * f) (s.rreg 0 (0x1002 + 8 * f))

/-- The cause for which a write of PTN_RANGE is refused (R410): 1 BAD_RANGE, 2 COLOUR_CLASH, 3 UNPLACEABLE, or 0.
DEDUCED (notes/assumptions/19.md). -/
def State.rangeCause (s : State) (f : Nat) (v : Word) : Nat :=
  let n := v.toNat
  let mask := s.staged' f
  let s1 := s.withRange f v
  if bitOf n 31 && (fld n 0 5 > fld n 16 5 || fld n 16 5 > 17 || mask.isEmpty) then 1
  else if (upFrom 0 17).any fun g => g != f && s.partValid g && (s.colours g).any mask.contains then 2
  else if !s1.unitsFit f || !s1.stripsFit then 3
  else 0

/-- SCR_STAT of a front end (R414). COLOURS has six bits. DESIGN CHOICE (notes/assumptions/62.md). -/
def State.scrStat (s : State) (f clusters colours : Nat) (busy done' : Bool) : State :=
  let old := s.rreg 0 (0x1400 + f) &&& 1#32
  s.wreg 0 (0x1400 + f) (BitVec.ofNat 32 ((if busy then 2 ^ 31 else 0) + colours % 64 * 2 ^ 16 + clusters * 2 ^ 8)
    ||| (if done' then 1#32 else old))

/-- Items in ascending order. -/
def ascending (xs : List Nat) : List Nat := sortKey (fun (k : Nat) => [k]) xs.eraseDups

/-- Starts a scrub, or adds its items to the running one (R413). -/
def State.scrubStart (s : State) (f : Nat) (cls cols : List Nat) : State :=
  match s.scrubs.find? (·.fe == f) with
  | some _ => { s with scrubs := s.scrubs.map fun (x : Scrub) => if x.fe = f then { x with
      clusters := ascending (x.clusters ++ cls), colours := ascending (x.colours ++ cols) } else x }
  | none => (({ s with scrubs := s.scrubs ++ [⟨f, cls, cols⟩] } : State).scrStat f 0 0 true false).postWrite [.scrubComplete f]

/-- The scrub of what a commit has added to a partition, where it has added something (R413). -/
def State.scrubAdded (s : State) (f : Nat) (cls cols : List Nat) : State := if cls.isEmpty && cols.isEmpty then s else s.scrubStart f cls cols

/-- After a commit: a cluster that has come to be shared is held by a front end whose work stands there, and one that is no longer shared by
none (R412). -/
def State.shareClusters (s : State) : State :=
  s.over (upFrom 0 18) fun s c =>
    let there := fun (f : Nat) => s.wgs.any fun w => w.holds && clusterOf w.core == c && feOf (s.asidOf w.id) == f
    if (s.sharers c).length < 2 then { s with slices := mput 0 s.slices c 0 }
    else if mget 0 s.slices c ≠ 0 then s
    else match (s.sharers c).find? there with
      | some f => { s with slices := mput 0 s.slices c (f + 1) }
      | none => s

/-- PTN_RANGE_COMMIT (R410, R413, R415, R422): refused with a cause, or range and mask change together; what is added is scrubbed, work on
removed clusters moves, and a collapsed VF wakes. -/
def execPtnRangeCommit (f : Nat) (v : Word) (s : State) : Host.Outcome State Fault Refusal :=
  .next (if f > 16 then s
    else match s.rangeCause f v with
      | 0 =>
          let oldCls := s.clustersOf f
          let oldCols := s.colours f
          let s1 := (s.withRange f v).shareClusters
          let s2 := s1.scrubAdded f ((s1.clustersOf f).filter (!oldCls.contains ·)) ((s1.colours f).filter (!oldCols.contains ·))
          let s3 := s2.moveStrays f
          let s4 := if f > 0 && (s3.wakeState f ≠ 0 || s3.deep) then s3.postOnce (.wakeWake (f - 1)) else s3
          (s4.readyGo f).dispatch
      | c => s.wreg 0 (0x1004 + 8 * f) (BitVec.ofNat 32 (2 ^ 31 + c)))

/-- SCRUB_COMPLETE (R413, R414): the cores of the clusters are zeroed, shadows of the colours' lines fold and the lines leave the L2, DONE and SCRUB are raised. -/
def execScrubComplete (f : Nat) (s : State) : Host.Outcome State Fault Refusal :=
  .next (match s.scrubs.find? (·.fe == f) with
    | none => s
    | some x =>
        let s1 := s.over x.clusters fun s c => s.zeroCores c
        let s2 := s1.over (s1.l2.filter fun l => x.colours.contains l.colour) fun s l => s.l2Evict l.line
        let s3 := if s2.flrs.contains f then s2.over (upFrom (64 * f) 64) fun s a => s.rdcSync a true else s2
        let s4 : State := { s3 with scrubs := s3.scrubs.filter fun (y : Scrub) => y.fe != f }
        ((s4.scrStat f x.clusters.length x.colours.length false true).irq f 7).dispatch)

/-! ## Function-level reset (R416, R417) -/

/-- Keeps a register over an FLR: all but the VF's own blocks, with CLASS, the collapse area and the stage-2 root kept. -/
def keepOverFlr (n : Nat) (k : Nat) : Bool :=
  let view := k / 16384
  let idx := k % 16384
  if view = n + 1 then
    idx == 0x1E00 || idx == 0x1E01 || !((0x0400 ≤ idx && idx < 0x0C00) || (0x1C00 ≤ idx && idx < 0x2000) || (0x2400 ≤ idx && idx < 0x2800))
  else !(view = 0 && (idx == 0x1801 + 8 * n || idx == 0x1802 + 8 * n || idx == 0x1803 + 8 * n))

/-- The class of a VF, and whether collapse is forbidden. -/
def State.wakeClass (s : State) (n : Nat) : Nat := fld (s.rregN (n + 1) 0x1800) 0 2
def State.inhibit (s : State) (n : Nat) : Bool := bitOf (s.rregN (n + 1) 0x1800) 9

/-- The clusters that a collapse of a VF gates, those that no other front end has, and their cores (R418). -/
def State.gatedClusters (s : State) (n : Nat) : List Nat := (s.clustersOf (n + 1)).filter fun c => (s.sharers c).length < 2
def State.gatedCores (s : State) (n : Nat) : List Nat := (s.gatedClusters n).flatMap fun c => arrayCores c ++ ensignCores c

/-- What a collapse has gated is powered up, and the cycle counters of those cores start again (R55, R418). -/
def State.powerUp (s : State) (n : Nat) : State :=
  match mget none s.gated n with
  | none => s
  | some cores => { s.restartCycles cores with gated := mput none s.gated n none }

/-- A wake event (R422 to R424) ends the deep state; from COLLAPSING, COLLAPSED or DEEP the VF wakes, and its wake bound runs from then on. -/
def State.wakeEvent (s : State) (n : Nat) : State :=
  let st := s.wakeState (n + 1)
  let s1 := s.endDeep
  if st = 0 || st = 3 then s1
  else (({ s1 with waking := mput 0 s1.waking n (s1.dlc + 1) } : State).setWake n 3).post (.wakeComplete n)

/-- The vectors that were kept pending while the VF was collapsed are sent, but for those that are masked now (R350). -/
def State.sendHeld (s : State) (fe : Nat) : State :=
  let held := (upFrom 0 32).filter fun c => bitOf (s.rregN fe 0x0412) c
  (s.wreg fe 0x0412 0#32).over held fun s c => if bitOf (s.rregN fe 0x0411) c then s else s.vector fe c

/-- An FLR of a VF that is not awake is a wake event (R417, R422): the partition is powered up, WAKE is raised and the pending vectors are sent;
the work that would be restored ends with the FLR. -/
def State.flrWake (s : State) (n : Nat) : State :=
  let s1 := s.endDeep
  if s.wakeState (n + 1) = 0 then s1 else (((s1.powerUp n).setWake n 0).irq (n + 1) 6).sendHeld (n + 1)

/-- VF_FLR (R417): from the reset point the VF's contexts stop, its registers return to their reset values, and the scrub runs. A collapsed VF
wakes for it. -/
def execVfFlr (n : Nat) (s : State) : Host.Outcome State Fault Refusal :=
  .next (if n > 15 || s.flrs.contains (n + 1) then s
    else
      let fe := n + 1
      let s1 : State := { s.flrWake n with flrs := s.flrs ++ [fe] }
      let s2 := s1.over (upFrom (64 * fe) 64) fun s a => s.stopCtx a
      let s3 := s2.over ((s2.cmds.filter fun c => feOf c.asid == fe).map (·.id)) fun s c => landed s (execCommandComplete c s)
      let s4 := s3.over ((s3.graphs.filter fun g => feOf g.asid == fe).map (·.id)) fun s g => landed s (execGraphStart g s)
      let ctl := s4.rreg fe 0x1800 &&& 3#32
      let s5 : State := { s4 with
        cmds := s4.cmds.filter fun (c : Cmd) => feOf c.asid != fe
        graphs := s4.graphs.filter fun (g : Graph) => feOf g.asid != fe
        faults := s4.faults.filter fun (f : FaultRec) => feOf f.asid != fe
        devq := s4.devq.filter fun w => feOf (DevWrite.asid w) != fe
        invals := s4.invals.filter fun (v : Inval) => v.fe != fe
        fatals := s4.fatals.filter fun a => feOf a != fe
        wdogs := s4.wdogs.filter fun a => feOf a != fe
        waking := mput 0 s4.waking n 0
        regs := s4.regs.filter fun (p : Nat × Word) => keepOverFlr n p.1 }
      let s6 := s5.wreg fe 0x1800 ctl
      ((s6.boxPut 1 0xFFFF (Config.resetCode 2) 0 0).scrubStart fe (s6.clustersOf fe) (s6.colours fe)).post (.flrComplete n))

/-- FLR_COMPLETE (R416, R417): the scrub is done. -/
def execFlrComplete (n : Nat) (s : State) : Host.Outcome State Fault Refusal :=
  .next (if s.scrubs.any (·.fe == n + 1) then s.post (.flrComplete n) else { s with flrs := s.flrs.filter (· != n + 1) })

/-! ## Idle collapse (R418 to R424) -/

/-- The openings of reservation intervals to come, of the streams of a front end. -/
def State.openings (s : State) (fe : Nat) : List Nat :=
  (s.admitted fe).flatMap fun x =>
    (x.strips.flatMap fun t => ((upFrom 1 3).filter fun k => !t.opened.contains (k + 10)).map fun k => (s.window x t.sq k).1 - s.preLead fe)
      ++ [(s.window x x.nextSq 1).1 - s.preLead fe]

/-- Is a front end idle (R420)? -/
def State.isIdle (s : State) (fe : Nat) : Bool :=
  let wgs := s.wgs.filter fun w => feOf (s.asidOf w.id) == fe
  (upFrom 0 32).all (fun q => s.pending fe q == 0)
    && (wgs.flatMap fun w => s.wgThreads w.id).all s.isParked
    && wgs.all (fun w => w.state == .resident && w.ring.isEmpty && !(s.bins.any fun b => b.wg == w.id)
        && (match w.seq with | some q => q.st != .running && q.queue.isEmpty | none => true)
        && w.queues.toList.all fun q => q.port != .hoistin || (s.hoist q.arg).recs.isEmpty)
    && !(s.cmds.any fun c => feOf c.asid == fe) && s.prqUsed fe == 0
    && !(s.graphs.any fun g => feOf g.asid == fe && s.nodeBusy g true)
    && (s.openings fe).all fun t => t > s.dlc + s.wakeBound fe + s.preLead fe

/-- The collapse area of a front end, in its context 0 (R419): none once an access to it has been refused. -/
def State.collapseArea (s : State) (fe : Nat) : List (Nat × Nat) :=
  if s.fatalCode (64 * fe) = 10 then [] else [(s.rreg2 fe 0x1804, 65536)]

/-- Writes the collapse area, whose layout is open: the state after it, or the address of the access that is denied.
DESIGN CHOICE (notes/assumptions/17.md). -/
def State.saveArea (s : State) (fe : Nat) : Except (Nat × XFault) State :=
  match s.collapseArea fe with
  | [] => .ok s
  | r :: _ => match s.barred .store (64 * fe) r.1 r.2 with
    | (some e, _) => .error e
    | (none, s1) =>
        let (bs, s2) := s1.freeBytes r.2
        match s2.ctxWrite (feCluster fe) (64 * fe) .dev 8194 r.1 bs with
        | .ok s3 => .ok s3
        | .error f => .error (r.1, f)

/-- The resident work of a VF, and what of it stands on shared clusters. -/
def State.residentOf (s : State) (fe : Nat) : List Wg := s.wgs.filter fun w => w.state == .resident && feOf (s.asidOf w.id) == fe
def State.sharedOf (s : State) (fe : Nat) : List Wg := (s.residentOf fe).filter fun w => (s.sharers (clusterOf w.core)).length ≥ 2

/-- Must a collapse wait: like every pre-emption for a checkpoint that is wanted or being written (R379), and on shared clusters, like a slice
end, while PROTECT holds (R412, R418)? -/
def State.collapseHeld (s : State) (n : Nat) : Bool :=
  ((s.residentOf (n + 1)).any fun w => s.ckpPending (s.asidOf w.id)) || (s.sharedOf (n + 1)).any fun w => s.protected' (s.asidOf w.id)

/-- A collapse (R418, R421): on shared clusters as at a slice end, so that they pass to their next holders; else the work is halted. One that must
wait stays due while the VF is idle. -/
def State.collapseStart (s : State) (n : Nat) : State :=
  let fe := n + 1
  if s.collapseHeld n then { s with clocks := mput 0 s.clocks (4 * n + 2) 1 }
  else
    let cls := (upFrom 0 18).filter fun c => (s.sharers c).length ≥ 2 && mget 0 s.slices c == fe + 1
    let s1 := ((s.setWake n 1).over (((s.sharedOf fe).map fun w => s.asidOf w.id).eraseDups) fun s a => s.rollbackCtx a).handOn fe cls
    (s1.haltWgs ((s1.wgs.filter fun w => w.state == .resident && feOf (s1.asidOf w.id) == fe).map (·.id))).post (.collapseComplete n)

/-- Saves halted workgroups unit by unit, up to one whose save pauses. -/
def State.collapseSaves (s : State) (n : Nat) : List Nat → State
  | [] => s
  | i :: is =>
      let unit := fun (s : State) => ((s.wg? i).filter (·.state == .halted)).map fun w =>
        ((s.unitOf w).filter fun y => y.state == .halted).map (·.id)
      match unit s with
      | none => s.collapseSaves n is
      | some u =>
          let s1 := s.saveUnit (.collapseComplete n) u
          if (unit s1).isSome then s1 else s1.collapseSaves n is

/-- The halted workgroups of a front end. -/
def State.haltedOf (s : State) (fe : Nat) : List Nat :=
  (s.wgs.filter fun w => w.state == .halted && feOf (s.asidOf w.id) == fe).map (·.id)

/-- The saves of class 2 and 3 (R418): images, the collapse area, the remote-data-cache lines and the L2 lines. A fault pauses them, and
COLLAPSED is not reached before they are done (R461). -/
def State.collapseSave (s : State) (n : Nat) : State :=
  let fe := n + 1
  let s1 := s.collapseSaves n (s.haltedOf fe)
  if !(s1.haltedOf fe).isEmpty then s1
  else match s1.saveArea fe with
    | .error (va, f) => s1.feFault (64 * fe) (.device (64 * fe)) va 6 f (.collapseComplete n)
    | .ok s2 =>
        let s3 := s2.over (s2.l1.filter fun l => feOf l.asid == fe) fun s l => s.l1Drop l .dev
        let s4 := s3.over (upFrom (64 * fe) 64) fun s a => s.rdcSync a true
        let s5 := s4.over (s4.l2.filter fun l => (s4.colours fe).contains l.colour) fun s l => s.l2Evict l.line
        let s6 := s5.over (s5.gatedClusters n) fun s c => s.zeroCores c
        ({ s6 with gated := mput none s6.gated n (some (s6.gatedCores n)) } : State).setWake n 2

/-- IDLE_COLLAPSE and COLLAPSE (R420). DEDUCED (notes/assumptions/24.md). -/
def State.collapse (s : State) (n : Nat) : State :=
  if n < 16 && s.wakeState (n + 1) == 0 && s.wakeClass n ≠ 0 && !s.inhibit n && s.isIdle (n + 1) then s.collapseStart n else s
def execIdleCollapse (n : Nat) (s : State) : Host.Outcome State Fault Refusal := .next (s.collapse n)
def execCollapse (n : Nat) (s : State) : Host.Outcome State Fault Refusal := .next (s.collapse n)

/-- Is an event the rollback of a context of a front end? -/
def rollsOf (fe : Nat) : Instr → Bool
  | .rollback a => feOf a == fe
  | _ => false

/-- COLLAPSE_COMPLETE (R421): once a rollback that the collapse began has come to its end, the saves of the class, and then COLLAPSED. -/
def execCollapseComplete (n : Nat) (s : State) : Host.Outcome State Fault Refusal :=
  .next (let rolls := rollsOf (n + 1)
    if s.wakeState (n + 1) ≠ 1 || s.agenda.any rolls then s
    else if s.faults.any fun f => f.redo.any rolls then
      { s with faults := s.faults.map fun (f : FaultRec) =>
          if f.redo.any rolls && !f.redo.contains (.collapseComplete n) then { f with redo := f.redo ++ [.collapseComplete n] } else f }
    else if s.wakeClass n < 2 then s.setWake n 2
    else s.collapseSave n)

/-- WAKE_WAKE and RESERVATION_WAKE (R422). -/
def execWakeWake (n : Nat) (s : State) : Host.Outcome State Fault Refusal := .next (s.wakeEvent n)
def execReservationWake (n : Nat) (s : State) : Host.Outcome State Fault Refusal :=
  .next (if (s.openings (n + 1)).isEmpty then s else s.wakeEvent n)

/-- What a wake reads, context by context (R461): the collapse area where the collapse has written it (R423), and the images of the units that were
saved. -/
def State.wakeReads (s : State) (n : Nat) : List (Nat × List (Nat × Nat)) :=
  let fe := n + 1
  (if (mget none s.gated n).isSome then [(64 * fe, s.collapseArea fe)] else []) ++ (s.wgs.filter fun w => w.state == .saved && feOf (s.asidOf w.id) == fe).map fun w =>
    (s.asidOf w.id, s.imagesOf 0 [w.id])

/-- The first access of a wake that is denied, with its context. -/
def State.wakeBarred (s : State) : List (Nat × List (Nat × Nat)) → Option (Nat × Nat × XFault) × State
  | [] => (none, s)
  | r :: rs => match s.unreadable r.1 r.2 with
    | (some (va, f), s1) => (some (r.1, va, f), s1)
    | (none, s1) => s1.wakeBarred rs

/-- The collapsed work of a VF is resident again: what stood halted goes on, and what was saved is placed. -/
def State.wakeWork (s : State) (n : Nat) : State :=
  let mine := fun (s : State) (w : Wg) => feOf (s.asidOf w.id) == n + 1
  let free := (s.wgs.filter fun w => mine s w && s.halts.all fun h => h.1 != w.id).map (·.id)
  (s.goOn free).over free fun s i => match s.wg? i, s.launchOfWg i with
    | some w, some l => if w.state = .saved then s.tryUnit w l else s
    | _, _ => s

/-- Does a unit of a VF that may be resident still wait for its place: one saved, of an enabled queue, in a valid partition? -/
def State.wakeWaits (s : State) (n : Nat) : Bool :=
  s.partValid (n + 1) && s.wgs.any fun w => w.state == .saved && (match s.launch? w.launch with
    | some l => feOf l.asid == n + 1 && s.queueOn l
    | none => false)

/-- The duration of a wake in µs, saturating (R419): `waking` holds one more than the moment of its event. -/
def State.wakeTime (s : State) (n : Nat) : Nat := min 0xFFFF ((s.dlc + 1 - mget 0 s.waking n) * 1000000 / 2 ^ 32)

/-- A wake whose units are resident again (R422): they move where the range has changed (R415), the front end reads its queues, WAKE is raised,
and the pending vectors follow. -/
def State.awake (s : State) (n : Nat) : State :=
  let fe := n + 1
  let s1 : State := { s.wreg fe 0x1803 (BitVec.ofNat 32 (2 ^ 16 * s.wakeTime n)) with waking := mput 0 s.waking n 0 }
  (((((s1.moveStrays fe).over (upFrom 0 32) fun s q => s.queueGo fe q).irq fe 6).sendHeld fe)).dispatch

/-- WAKE_COMPLETE (R422): the partition is powered up and the work placed; while a unit still waits for its place the VF stays WAKING, and the
event comes again with the dispatcher's next turn. -/
def execWakeComplete (n : Nat) (s : State) : Host.Outcome State Fault Refusal :=
  .next (if s.wakeState (n + 1) ≠ 3 then s
    else match s.wakeBarred (s.wakeReads n) with
      | (some (a, va, f), s1) => s1.feFault a (.device a) va 5 f (.wakeComplete n)
      | (none, s1) =>
          let s2 := ((s1.powerUp n).setWake n 0).wakeWork n
          if s2.wakeWaits n then s2.setWake n 3 else s2.awake n)

/-- The VFs that have an enabled queue. -/
def State.enabledVfs (s : State) : List Nat :=
  (upFrom 0 16).filter fun n => (upFrom 0 32).any fun q => bitOf (s.rregN (n + 1) (0x0800 + 16 * q)) 31

/-- May the device enter the deep state (R424)? -/
def State.mayDeep (s : State) : Bool :=
  !s.deep && s.streams.isEmpty && (s.enabledVfs.all fun n => s.wakeState (n + 1) == 2 && s.wakeClass n == 3) && s.isIdle 0

/-- DEEP_STATE_ENTRY (R424): what the L1s hold is written back before the clusters are gated. -/
def execDeepStateEntry (s : State) : Host.Outcome State Fault Refusal :=
  .next (if !s.mayDeep then s
    else
      let s1 := s.over s.l1 fun s l => s.l1Drop l .dev
      ({ s1 with deep := true } : State).over s.enabledVfs fun s n => s.setWake n 4)

/-! ## Power (R425 to R429) -/

/-- PWR_STAT: CUR, and the target that the effective point moves to. -/
def State.curPoint (s : State) : Nat := fld (s.rregN 0 0x2C01) 8 3
def State.target' (s : State) : Nat := min (s.rregN 0 0x2C00) s.cap
def State.setPoint (s : State) (p : Nat) : State :=
  s.wreg 0 0x2C01 ((s.rreg 0 0x2C01 &&& 0xFFFFF8FF#32) ||| BitVec.ofNat 32 (p * 2 ^ 8))

/-- The effective point is not the target: BUSY, and a step to come. -/
def State.retarget (s : State) : State :=
  if s.curPoint = s.target' then s.setBit 0 0x2C01 31 false else (s.setBit 0 0x2C01 31 true).postOnce .oppStep

/-- OPP_STEP (R425): one point toward the target. -/
def execOppStep (s : State) : Host.Outcome State Fault Refusal :=
  .next (if s.curPoint < s.target' then (s.setPoint (s.curPoint + 1)).retarget
    else if s.target' < s.curPoint then (s.setPoint (s.curPoint - 1)).retarget
    else s.retarget)

/-- DROOP_ALARM (R426): counted, recorded at most once in a ms, and issue in the cluster is halved; an alarm meanwhile restarts the 64 cycles. -/
def execDroopAlarm (cl : Nat) (s : State) : Host.Outcome State Fault Refusal :=
  .next (let s1 := s.bump 0 0x2C05
    let recent := (s.boxDroop.map fun t => decide (s.dlc < t + micros 1000)).getD false
    let s2 : State := if recent then s1 else { s1.boxPut 5 cl 0 0 0 with boxDroop := some s.dlc }
    ({ s2 with
      halved := if s2.halved.contains cl then s2.halved else s2.halved ++ [cl]
      agenda := s2.agenda.filter (· != .halvedIssueEnd cl) } : State).post (.halvedIssueEnd cl))

/-- HALVED_ISSUE_END (R426, R427): only timing changes. -/
def execHalvedIssueEnd (cl : Nat) (s : State) : Host.Outcome State Fault Refusal :=
  .next { s with halved := s.halved.filter (· != cl) }

/-- PWR_TEMP in eighths of a degree. -/
def State.temp (s : State) : Int := (s.rreg 0 0x2C04).toInt

/-- Does the power exceed its limit, or the temperature reach 105 degrees (R428)? DEDUCED (notes/assumptions/25.md). -/
def State.hot (s : State) : Bool := s.rregN 0 0x2C02 < s.rregN 0 0x2C03 || 840 ≤ s.temp

/-- Are the power at most 95% of its limit and the temperature below 100 degrees, while the cap lies below PWR_OPP (R428)?
DEDUCED (notes/assumptions/25.md). -/
def State.recovers (s : State) : Bool :=
  s.rregN 0 0x2C03 * 100 ≤ s.rregN 0 0x2C02 * 95 && s.temp < 800 && s.cap < s.rregN 0 0x2C00

/-- The clocks of the throttle cap's fall and rise. -/
def fallKey : Nat := 16384
def riseKey : Nat := 16385

/-- Has a clock run for a time in µs? -/
def State.clockPast (s : State) (key us : Nat) : Bool := mget 0 s.clocks key != 0 && mget 0 s.clocks key - 1 + micros us ≤ s.dlc

/-- The throttle cap, with THROTTLE while it lies below PWR_OPP, and its clock from now on (R425, R428).
DEDUCED (notes/assumptions/25.md). -/
def State.setCap (s : State) (key c : Nat) : State :=
  (({ s with cap := c, clocks := mput 0 s.clocks key (s.dlc + 1) } : State).setBit 0 0x2C01 1 (c < s.rregN 0 0x2C00)).retarget

/-- THROTTLE_DOWN (R428): after 1 ms of too much power or heat the cap falls by one point, and THERMAL is raised. DEDUCED
(notes/assumptions/25.md). -/
def execThrottleDown (s : State) : Host.Outcome State Fault Refusal :=
  .next (if s.hot && s.clockPast fallKey 1000 then (s.setCap fallKey (s.cap - 1)).irq 0 17 else s)

/-- THROTTLE_UP (R428): after 10 ms of recovery the cap rises by one point. DEDUCED (notes/assumptions/25.md). -/
def execThrottleUp (s : State) : Host.Outcome State Fault Refusal :=
  .next (if s.recovers && s.clockPast riseKey 10000 then s.setCap riseKey (s.cap + 1) else s)

/-- The record is persisted as it stands at a thermal trip; where an earlier persist runs still, another follows it (R443). -/
def State.persistTrip (s : State) (before : Bool) : State :=
  if before then { s with boxNext := true } else ({ s with boxSnap := some s.box } : State).postOnce .bbxPersistComplete

/-- THERMAL_TRIP (R429), at 115 degrees: every core halts, every context stops with code 7, the black box is persisted, and the device stands until
a reset. BBXSAVE rises with the end of the persist (R350). -/
def execThermalTrip (s : State) : Host.Outcome State Fault Refusal :=
  .next (if s.temp < 920 then s else
    let s1 := s.haltWgs ((s.wgs.filter (·.state == .resident)).map (·.id))
    let s2 := s1.over (upFrom 0 1088) fun s a => s.fatal a 7
    let s3 := (s2.boxPut 4 0xFFFF 7 0 0).persistTrip s.boxSnap.isSome
    { (s3.irq 0 17).setBit 0 0x2C01 2 true with boot := .tripped })

/-- What the sensors give (R425): the power in W, averaged over 1 ms, and the hottest junction in 1/8 °C. At 115 °C the device trips (R429). -/
def State.sensor (s : State) (power : Nat) (temp : Int) : State :=
  let s1 := (s.wreg 0 0x2C03 (BitVec.ofNat 32 power)).wreg 0 0x2C04 (BitVec.ofInt 32 temp)
  if s.boot = .ready || s.boot = .recovery then landed s1 (execThermalTrip s1) else s1

/-- FUNCTION_CORE_UNRESPONSIVE (R345): the VF is marked FATAL. -/
def execFunctionCoreUnresponsive (n : Nat) (s : State) : Host.Outcome State Fault Refusal :=
  .next (if n < 16 then s.irq (n + 1) 4 else s)

end Sys2Proof.Machine
end

