-- ==== Sys2Proof/Machine/Firmware.lean ====
section
/-! DEFINITION. Resets and boot (R430, R431), firmware images and measurement (R432 to R434), the security mailbox (R435 to R441), the
black box (R442, R443), posted writes (R445), the fabric (R424, R451, R452), memory errors of the management core (R450) and loss of
power (R440). -/

namespace Sys2Proof.Machine

/-! ## Firmware images (R432 to R434) -/

/-- A number of `n` bytes at an offset. -/
def leAt (bs : List Byte) (o n : Nat) : Nat := leNat ((bs.drop o).take n)

def byteZero (bs : List Byte) (o n : Nat) : Bool := leAt bs o n == 0

/-- Lengths of the two signatures of an image. -/
def msigLen : Nat := 2820
def osigLen : Nat := 2500

def imgVersion (im : List Byte) : Nat := leAt im 8 4
def imgSvn (im : List Byte) : Nat := leAt im 12 4
def imgSize (im : List Byte) : Nat := leAt im 16 4
/-- The signed bytes. -/
def imgSigned (im : List Byte) : List Byte := im.take (32 + imgSize im)

/-- Does an image have the layout of R432 with a KIND? -/
def imgForm (im : List Byte) (kind : Nat) : Bool :=
  leAt im 0 4 == 0x4F4E4B45 && leAt im 4 1 == kind && 1 ≤ kind && kind ≤ 3 && byteZero im 5 3 && byteZero im 20 12
    && imgSize im % 4 == 0 && im.length == 32 + imgSize im + msigLen + osigLen

/-- The 512-bit digest. -/
def digest (bs : List Byte) : List Byte := (Config.shake256 bs 64).toList

/-- The owner slot in use and its key (R439, R440). -/
def Flash.own (f : Flash) : Owner := f.owners.getD f.owner ⟨[], 0, [], []⟩
/-- DEDUCED (notes/assumptions/27.md). -/
def Owner.pub (o : Owner) : List Byte := if o.key.isEmpty then Config.defaultOwner else o.key

/-- Is the maker key of a configuration record the one whose digest mask ROM holds? -/
def makerOk (cfg : List Byte) : Bool := digest (Config.cfgMaker cfg) == Config.romDigest

/-- A configuration record verifies (R441). -/
def cfgOk (cfg : List Byte) : Bool :=
  Config.cfgWhole cfg && makerOk cfg && Config.xmssVerify (Config.cfgMaker cfg) (Config.cfgSigned cfg) (Config.cfgSig cfg)

/-- Both signatures of an image verify (R433). -/
def Flash.signed (f : Flash) (cfg im : List Byte) (kind : Nat) : Bool :=
  let rest := im.drop (32 + imgSize im)
  imgForm im kind && makerOk cfg && Config.xmssVerify (Config.cfgMaker cfg) (imgSigned im) (rest.take msigLen)
    && Config.xmssVerify f.own.pub (imgSigned im) (rest.drop msigLen)

/-- An image's SVN is at least the floor and the live counter of its KIND. -/
def Flash.fresh (f : Flash) (cfg im : List Byte) (kind : Nat) : Bool :=
  decide (Config.cfgFloor cfg kind ≤ imgSvn im) && decide (f.live.getD (kind - 1) 0 ≤ imgSvn im)

/-- The image slots of a KIND, as positions in flash, with the newer first (R432). -/
def Flash.slots (f : Flash) (kind : Nat) : List Nat :=
  let a := 2 * (kind - 1)
  let v := fun k => imgVersion (f.images.getD k [])
  if v a < v (a + 1) then [a + 1, a] else [a, a + 1]

/-- The image that boot takes for a KIND. -/
def Flash.bootImage (f : Flash) (cfg : List Byte) (kind : Nat) : Option (List Byte) :=
  ((f.slots kind).map fun k => f.images.getD k []).find? fun im => f.signed cfg im kind && f.fresh cfg im kind

/-- The configuration record that boot takes: the one that verifies and has the higher VERSION (R441). -/
def Flash.bootCfg (f : Flash) : Option Nat :=
  let ok := (upFrom 0 2).filter fun k => cfgOk (f.configs.getD k [])
  let v := fun k => Config.cfgVersion (f.configs.getD k [])
  match ok with
  | [a, b] => some (if v a < v b then b else a)
  | a :: _ => some a
  | [] => none

/-- M is extended with an accepted item (R434). -/
def State.extend (s : State) (item : List Byte) : State :=
  { s with meas := digest (s.meas ++ digest item), digests := s.digests ++ [digest item] }

/-! ## Resets and boot (R430, R431) -/

/-- Boot stops and the device enters recovery: BOOT_FAIL is recorded and persisted. -/
def State.recover (s : State) : State := (({ s with boot := .recovery } : State).boxPut 2 0xFFFF 0 0 0).persist

/-- The management cores that an image of a KIND runs on, with their level (R9, R343, R431, R432). -/
def fwCores (kind : Nat) : List (Nat × Level) :=
  if kind = 1 then [(269, .s)] else if kind = 2 then [(252, .r)] else (upFrom 253 16).map fun c => (c, Level.f)

/-- The launch that stands for the firmware of a management core: one thread with every register, its image's body in private memory from
address 0 on. DESIGN CHOICE (notes/assumptions/51.md). -/
def fwLaunch (id core : Nat) (lv : Level) (im : List Byte) : Launch :=
  { id := id, asid := mgmtAsid (core - 252), level := lv, regs := 120, wgsize := 1, scratch := 0, gangSize := 0, rstack := 0, binTimer := 64, obuf := 0
    ensign := true, isMatrix := false, consts := List.replicate 32 0, trap := some (Config.fwTrap im), groups := []
    entry := Config.fwEntry im, code := (0, imgSize im), cring := 0, crcap := 0, prio := .normal, graph := 0, node := 0, shade := none
    placed := true, sysScope := false }

/-- The workgroup of a management core's thread. -/
def fwWg (id launch core : Nat) : Wg :=
  { id := id, index := 0, launch := launch, core := core, state := .resident, base := 0, spad := [], obase := 0, obuf := [], resv := []
    queues := Vector.replicate 16 .none, spawnCt := 1, ringRd := 0, ringWr := 0, ringOk := 0, ring := [], paused := false, round := none
    seq := none, gang := none, cplWords := [], opened := 0, since := 0 }

/-- Firmware starts on a management core. -/
def State.startCore (s : State) (im : List Byte) (p : Nat × Level) : State :=
  let (l, s1) := s.newId
  let (w, s2) := s1.newId
  let s3 : State := { s2 with
    mem := mputs 0#8 s2.mem (ownBase (p.1 - 252)) ((im.drop 32).take (imgSize im))
    launches := s2.launches ++ [fwLaunch l p.1 p.2 im], wgs := s2.wgs ++ [fwWg w l p.1] }
  s3.launchThreads (fwWg w l p.1) (fwLaunch l p.1 p.2 im) p.1

/-- The firmware that boot verifies and starts, KIND by KIND. `trip` stops it after step 1. -/
def State.bootKinds (s : State) (cfg : List Byte) (trip : Bool) : List Nat → State
  | [] => { s with boot := .ready }
  | k :: ks => match s.flash.bootImage cfg k with
    | none => s.recover
    | some im =>
        let s1 := s.extend (imgSigned im)
        let s2 : State := { s1 with running := s1.running ++ [imgSvn im] }
        let s3 := s2.over (fwCores k) fun s p => s.startCore im p
        if trip then { s3 with boot := .tripped } else s3.bootKinds cfg trip ks

/-- Boot: the configuration record, then the security, root and function-core firmware. -/
def State.bootRun (s : State) (trip : Bool) : State :=
  match s.flash.bootCfg with
  | none => s.recover
  | some k =>
      let cfg := s.flash.configs.getD k []
      (({ s with running := [k] } : State).extend (Config.cfgSigned cfg)).bootKinds cfg trip [1, 2, 3]

/-- What a loss of every state but flash leaves: memory outside the device and the model's own counters stay, and the cores' cycle counters
start again (R55). DEDUCED (notes/assumptions/29.md). -/
def State.lost (s : State) : State :=
  { State.reset with
    flash := s.flash, stepNo := s.stepNo, fresh := s.fresh, inputs := s.inputs, out := s.out, cycles := [(1000, s.stepNo)]
    mem := s.mem.filter fun c => decide (hostBase ≤ c.1) && decide (c.1 < ownBase 0) }

/-- COLD_RESET (R430, R431). -/
def execColdReset (s : State) : Host.Outcome State Fault Refusal :=
  .next ((s.lost.boxPut 1 0xFFFF (Config.resetCode 0) 0 0).bootRun false)

/-- A warm reset (R430): the black box stays, and TRIPPED while the temperature reads 100 degrees or more. -/
def State.warm (s : State) : State :=
  let trip := bitOf (s.rregN 0 0x2C01) 2 && decide (800 ≤ s.temp)
  let s1 : State := { s.lost with box := s.box, boxCount := s.boxCount }
  let s2 := if trip then s1.setBit 0 0x2C01 2 true else s1
  (s2.boxPut 1 0xFFFF (Config.resetCode 1) 0 0).bootRun trip

/-- WARM_RESET. -/
def execWarmReset (s : State) : Host.Outcome State Fault Refusal := .next s.warm

/-! ## The security mailbox (R436 to R438) -/

/-- STATUS of a response. -/
inductive MailStatus where
  | ok | badRequest | badSignature | stale | busy | keyExhausted | flashError
deriving DecidableEq, Repr

def MailStatus.code : MailStatus → Nat
  | .ok => 0 | .badRequest => 1 | .badSignature => 2 | .stale => 3 | .busy => 4 | .keyExhausted => 5 | .flashError => 6

/-- The data object type of the mailbox (R437). -/
def doeType : Nat := 0x51

/-- A response, under the DOE header of R437: TYPE, STATUS, and a body only when STATUS is OK. -/
def State.mail (s : State) (ty : Nat) (st : MailStatus) (body : List Byte) : State :=
  { s with out := s.out ++ [.mailbox Config.vendorId doeType (bytesOf 4 (ty + 2 ^ 8 * st.code) ++ if st = .ok then body else [])] }

/-- A request: served when the device runs; in recovery only four types are, and every other returns BUSY (R431). Before boot has come
so far nothing is. -/
def State.request (s : State) (ty : Nat) (inRecovery : Bool) (f : State → State) : Host.Outcome State Fault Refusal :=
  .next (match s.boot with
    | .ready => f s
    | .recovery => if inRecovery then f s else s.mail ty .busy []
    | .held | .tripped => s)

/-- A write of flash for a request: where it fails nothing is written, and the answer is FLASH_ERROR (R436). DESIGN CHOICE
(notes/assumptions/50.md). -/
def State.onFlash (s : State) (ty : Nat) (f : State → State) : State :=
  if s.flashBad then ({ s with flashBad := false } : State).mail ty .flashError [] else f s

/-- The running configuration record. -/
def State.cfg (s : State) : List Byte := (s.running.head?.map fun k => s.flash.configs.getD k []).getD []

/-- The four item digests, one that has not been accepted as zeros. DEDUCED (notes/assumptions/27.md). -/
def State.digests4 (s : State) : List Byte :=
  (s.digests ++ List.replicate (4 - s.digests.length) (List.replicate 64 0#8)).flatten

/-- ATTEST (R435): the leaf counter rises first, and the report is signed with the old one. -/
def State.attest (s : State) (body : List Byte) : State :=
  let leaf := s.flash.leaf
  if body.length ≠ 32 then s.mail 1 .badRequest []
  else if leaf ≥ 2 ^ 20 then s.mail 1 .keyExhausted []
  else s.onFlash 1 fun s =>
    let s1 : State := { s with flash := { s.flash with leaf := leaf + 1 } }
    let report := body ++ s.meas ++ s.digests4 ++ bytesOf 4 (Config.cfgVersion s.cfg) ++ digest s.flash.own.pub ++ bytesOf 4 leaf
    s1.mail 1 .ok (report ++ (Config.xmssSign leaf report).toList)
def execAttest (body : List Byte) (s : State) : Host.Outcome State Fault Refusal := s.request 1 false fun s => s.attest body

/-- GET_MEAS. -/
def execGetMeas (body : List Byte) (s : State) : Host.Outcome State Fault Refusal :=
  s.request 2 true fun s => if body.isEmpty then s.mail 2 .ok (s.meas ++ s.digests4) else s.mail 2 .badRequest []

/-- Is a chunk's body of the layout of R438, for KINDs from `lo` to `hi`? -/
def chunkForm (body : List Byte) (lo hi : Nat) : Bool :=
  let n := leAt body 8 4
  decide (12 ≤ body.length) && decide (lo ≤ leAt body 0 1) && decide (leAt body 0 1 ≤ hi) && decide (leAt body 1 1 ≤ 1) && byteZero body 2 2
    && decide (4 ≤ n) && decide (n ≤ 65536) && n % 4 == 0 && body.length == 12 + n

/-- A chunk of an image or a record (R438): a first chunk begins anew; one out of order discards the partial image; the last is handed on.
DEDUCED (notes/assumptions/27.md). -/
def State.mailChunk (s : State) (ty lo hi : Nat) (body : List Byte) (last : State → Nat → List Byte → State) : State :=
  if !chunkForm body lo hi then s.mail ty .badRequest []
  else
    let kind := leAt body 0 1
    let off := leAt body 4 4
    let have' := if off = 0 then some [] else match s.upload with
      | some (k, bs) => if k = kind && bs.length = off then some bs else none
      | none => none
    match have' with
    | none => ({ s with upload := none } : State).mail ty .badRequest []
    | some bs =>
        let im := bs ++ body.drop 12
        if bitOf (leAt body 1 1) 0 then last { s with upload := none } kind im
        else ({ s with upload := some (kind, im) } : State).mail ty .ok []

/-- The last chunk of an image (R433, R436): the older slot of its KIND is written. In recovery a warm reset follows.
DEDUCED (notes/assumptions/27.md). -/
def State.installImage (s : State) (kind : Nat) (im : List Byte) : State :=
  if !s.flash.signed s.cfg im kind then s.mail 3 .badSignature []
  else if !s.flash.fresh s.cfg im kind then s.mail 3 .stale []
  else s.onFlash 3 fun s =>
    let slot := (s.flash.slots kind).getLastD 0
    let s1 := ({ s with flash := { s.flash with images := s.flash.images.set slot im } } : State).mail 3 .ok []
    if s.boot = .recovery then s1.warm else s1

/-- UPDATE. -/
def execUpdate (body : List Byte) (s : State) : Host.Outcome State Fault Refusal :=
  s.request 3 true fun s => s.mailChunk 3 1 3 body State.installImage

/-- COMMIT_SVN (R433): the live counter of the KIND rises to the SVN of the running image. -/
def execCommitSvn (body : List Byte) (s : State) : Host.Outcome State Fault Refusal :=
  s.request 4 false fun s =>
    let k := leAt body 0 1
    if body.length ≠ 4 || k < 1 || k > 3 || !byteZero body 1 3 then s.mail 4 .badRequest []
    else s.onFlash 4 fun s =>
      let v := max (s.flash.live.getD (k - 1) 0) (s.running.getD k 0)
      ({ s with flash := { s.flash with live := s.flash.live.set (k - 1) v } } : State).mail 4 .ok (bytesOf 4 v)

/-- The fields of a transfer match the device's state (R438, R439). -/
def State.xferFields (s : State) (body : List Byte) : Bool :=
  body.take 64 == Config.cfgIdentity s.cfg && (body.drop 64).take 64 == digest s.flash.own.pub && leAt body 196 4 == s.flash.own.count + 1

/-- Is an input a request for a transfer of ownership? -/
def isXfer : Input → Bool
  | .ev (.xferOwner _) => true
  | .doe vendor ty bs => vendor == Config.vendorId && ty == doeType && leAt bs 0 4 == 5
  | _ => false

/-- The requests for a transfer that have arrived while one is in progress are answered with BUSY (R440). -/
def State.xferBusy (s : State) : State :=
  let due := fun (p : Nat × Input) => decide (p.1 ≤ s.stepNo) && isXfer p.2
  ({ s with inputs := s.inputs.filter fun p => !due p } : State).over (s.inputs.filter due) fun s _ => s.mail 5 .busy []

/-- XFER_OWNER (R439, R440): a new owner slot becomes the one in use with one write, and the device takes a warm reset.
DEDUCED (notes/assumptions/27.md). -/
def State.xfer (s : State) (body : List Byte) : State :=
  let signed := body.take 200
  if body.length ≠ 5520 then s.mail 5 .badRequest []
  else if !s.xferFields body then s.mail 5 .stale []
  else if !(Config.xmssVerify (Config.cfgMaker s.cfg) signed ((body.drop 200).take msigLen)
      && Config.xmssVerify s.flash.own.pub signed (body.drop 3020)) then s.mail 5 .badSignature []
  else s.xferBusy.onFlash 5 fun s =>
    let o : Owner := ⟨(body.drop 128).take 68, s.flash.own.count + 1, [], []⟩
    let i := 1 - s.flash.owner
    let f : Flash := { s.flash with owner := i, owners := ((s.flash.owners.map fun _ => (⟨[], 0, [], []⟩ : Owner)).set i o) }
    ((({ s with flash := f } : State).boxPut 9 0xFFFF 0 0 0).mail 5 .ok []).warm
def execXferOwner (body : List Byte) (s : State) : Host.Outcome State Fault Refusal := s.request 5 false fun s => s.xfer body

/-- The last chunk of a configuration record (R441): written into the other slot when its VERSION is higher than the running record's. -/
def State.installCfg (s : State) (_kind : Nat) (im : List Byte) : State :=
  let cur := (s.running.head?).getD 0
  if !cfgOk im then s.mail 6 .badSignature []
  else if Config.cfgVersion im ≤ Config.cfgVersion s.cfg then s.mail 6 .stale []
  else s.onFlash 6 fun s => ({ s with flash := { s.flash with configs := s.flash.configs.set (1 - cur) im } } : State).mail 6 .ok []

/-- SET_CONFIG. -/
def execSetConfig (body : List Byte) (s : State) : Host.Outcome State Fault Refusal :=
  s.request 6 false fun s => s.mailChunk 6 0 0 body State.installCfg

/-! ## The black box (R442, R443) -/

/-- The 32 bytes of an event. DEDUCED (notes/assumptions/26.md). -/
def BoxEv.bytes (e : BoxEv) : List Byte :=
  bytesOf 8 e.time ++ bytesOf 1 e.kind ++ [0#8] ++ bytesOf 2 e.source ++ bytesOf 4 e.code ++ bytesOf 8 e.asid ++ bytesOf 8 e.addr

/-- The event at an index of the ring; a place that no event has taken reads as zero. DESIGN CHOICE (notes/assumptions/28.md). -/
def State.boxAt (s : State) (i : Nat) : List Byte :=
  let age := (s.boxCount + 1023 - i) % 1024
  if age < s.box.length then ((s.box[s.box.length - 1 - age]?).map BoxEv.bytes).getD (List.replicate 32 0#8) else List.replicate 32 0#8

/-- BBX_READ. -/
def execBbxRead (body : List Byte) (s : State) : Host.Outcome State Fault Refusal :=
  s.request 7 true fun s =>
    let i := leAt body 0 2
    if body.length ≠ 4 || i > 1023 || !byteZero body 2 2 then s.mail 7 .badRequest []
    else s.mail 7 .ok (bytesOf 4 s.bbxStat.toNat ++ (upFrom i 64).flatMap fun k => s.boxAt (k % 1024))

/-- BBX_SAVE: BUSY while a persist is running. -/
def execBbxSave (body : List Byte) (s : State) : Host.Outcome State Fault Refusal :=
  s.request 8 true fun s =>
    if !body.isEmpty then s.mail 8 .badRequest [] else if s.boxSnap.isSome then s.mail 8 .busy [] else s.persist.mail 8 .ok []

/-- A read of the BMC (R453): PWR_POWER, PWR_TEMP, PWR_STAT and BBX_STAT, and nothing else. -/
def State.bmcRead (s : State) (idx : Nat) : State :=
  if [0x2C01, 0x2C03, 0x2C04, 0x2800].contains idx then
    let (v, s1) := s.regRead ⟨0, .r, true, 0⟩ idx
    { s1 with out := s1.out ++ [.bmc idx v] }
  else s

/-- BMC_BBX_SAVE (R453). -/
def execBmcBbxSave (s : State) : Host.Outcome State Fault Refusal := .next s.persist

/-- BBX_PERSIST_COMPLETE (R443): the older flash copy holds the record as it stood, PERSIST is recorded, and BBXSAVE is raised; a persist that has
been wanted meanwhile follows. DESIGN CHOICE (notes/assumptions/28.md). -/
def execBbxPersistComplete (s : State) : Host.Outcome State Fault Refusal :=
  .next (match s.boxSnap with
    | none => s
    | some evs =>
        let i := 1 - s.flash.box
        let f : Flash := { s.flash with box := i, boxes := s.flash.boxes.set i (evs.flatMap BoxEv.bytes) }
        let s1 := (({ s with boxSnap := none, boxNext := false, flash := f } : State).boxPut 10 0xFFFF 0 0 0).irq 0 16
        if s.boxNext then s1.persist else s1)

/-! ## The fabric (R424, R451, R452) -/

/-- The element type of a reduction window by its code. -/
def redTy (c : Nat) : Option Ty :=
  if c = 9 then some .bf16 else if c = 10 then some .f32 else if c = 14 then some .e4m3 else if c = 15 then some .e5m2 else none

/-- A window of a FABRIC body, or none where a field lies outside its limits. -/
def fabWin (body : List Byte) : Option (Nat × FabWin) :=
  let w := leAt body 1 1
  let kind := leAt body 2 1
  let ty := leAt body 4 1
  let c := leAt body 5 2
  let base := leAt body 8 8
  let len := leAt body 16 8
  if body.length ≠ 24 || w > 63 || kind > 2 || !byteZero body 7 1 || base % 4096 ≠ 0 || len % 4096 ≠ 0 then none
  else if kind < 2 then (if ty = 0 && c = 0 then some (w, ⟨kind, leAt body 3 1, base, len, .f32, 0⟩) else none)
  else match redTy ty with
    | some t => if 2 ≤ c && c ≤ 256 then some (w, ⟨2, leAt body 3 1, base, len, t, c⟩) else none
    | none => none

/-- A collective-group entry of a FABRIC body. -/
def fabGroup (body : List Byte) : Option CGroup :=
  let n := leAt body 6 2
  let g : CGroup := ⟨leAt body 1 1, leAt body 2 1, leAt body 4 2, n, leAt body 8 2, (body.drop 12).map (·.toNat)⟩
  if g.fe > 16 || g.ctx > 63 || !byteZero body 3 1 || n < 1 || n > 256 || g.rank ≥ n || !byteZero body 10 2 || body.length ≠ 12 + n
  then none else some g

/-- FABRIC: a window or a group entry is written. Cached translations through a window go. -/
def execFabric (body : List Byte) (s : State) : Host.Outcome State Fault Refusal :=
  s.request 9 false fun s =>
    if body.isEmpty then s.mail 9 .badRequest []
    else if leAt body 0 1 = 0 then
      (match fabWin body with
       | none => s.mail 9 .badRequest []
       | some (w, x) =>
           let tlb := s.tlb.filter fun (e : TlbEntry) => homeOf e.pa != .peer && homeOf e.pa != .reduce
           ({ s with windows := mput .none s.windows w x, tlb := tlb } : State).mail 9 .ok [])
    else if leAt body 0 1 = 1 then
      (match fabGroup body with
       | none => s.mail 9 .badRequest []
       | some g =>
           let rest := s.cgroups.filter fun (x : CGroup) => !(x.fe == g.fe && x.ctx == g.ctx && x.group == g.group)
           ({ s with cgroups := rest ++ [g] } : State).mail 9 .ok [])
    else s.mail 9 .badRequest []

/-- A data object at the mailbox (R436, R437): the message that its header names; BAD_REQUEST for an unknown type or a header with other bits. An
object with another vendor ID or another type is none of this mailbox's, and is not answered. DESIGN CHOICE (notes/assumptions/27.md). -/
def State.doe (s : State) (vendor obj : Nat) (bs : List Byte) : State :=
  let ty := leAt bs 0 1
  let body := bs.drop 4
  if vendor ≠ Config.vendorId || obj ≠ doeType then s
  else if decide (bs.length < 4) || !byteZero bs 1 3 then landed s (s.request ty ([2, 3, 7, 8].contains ty) fun s => s.mail ty .badRequest [])
  else landed s (match ty with
    | 1 => execAttest body s
    | 2 => execGetMeas body s
    | 3 => execUpdate body s
    | 4 => execCommitSvn body s
    | 5 => execXferOwner body s
    | 6 => execSetConfig body s
    | 7 => execBbxRead body s
    | 8 => execBbxSave body s
    | 9 => execFabric body s
    | _ => s.request ty false fun s => s.mail ty .badRequest [])

/-- Is a physical address one of the device's own memory, the bunting aside? DEDUCED (notes/assumptions/30.md). -/
def ownMem (pa : Nat) : Bool := decide (pa < 2 ^ 40)

/-- Bytes written at the home, line by line. -/
def State.writeLines (s : State) : Nat → Nat → List Byte → State
  | 0, _, _ => s
  | n + 1, pa, bs => match bs with
    | [] => s
    | _ =>
        let k := 128 - pa % 128
        (s.homeWrite 0 pa (bs.take k) .sys none).writeLines n (pa + k) (bs.drop k)

/-- POSTED_WRITE (R445): a store at .sys at the home. -/
def execPostedWrite (pa : Nat) (data : List Byte) (s : State) : Host.Outcome State Fault Refusal :=
  .next (if ownMem pa && ownMem (pa + data.length - 1) then s.writeLines (data.length + 1) pa data else s)

/-- Does an input wait at its fabric port (R424)? Such an input stays among the inputs. -/
def State.atPort (s : State) : Input → Bool
  | .ev (.fabricAccess ..) | .ev (.reductionDelivery ..) => s.deep
  | _ => false

/-- FABRIC_ACCESS (R424): a write, or the read of a line; in the deep state it waits at its port. DEDUCED (notes/assumptions/30.md). -/
def execFabricAccess (pa : Nat) (data : Option (List Byte)) (s : State) : Host.Outcome State Fault Refusal :=
  .next (if s.deep then s
    else match data with
      | some bs => if ownMem pa && ownMem (pa + bs.length - 1) then s.writeLines (bs.length + 1) pa bs else s
      | none =>
          if ownMem pa then
            let s1 := s.fold (lineOf pa)
            { s1 with out := s1.out ++ [Out.peer (lineOf pa) (mgets 0#8 s1.mem (lineOf pa) 128)] }
          else s)

/-- REDUCTION_DELIVERY (R112, R451): one RDM.add of one element, counted where no shadow slot is free (R111). -/
def execReductionDelivery (pa : Nat) (ty : Ty) (v : Word) (s : State) : Host.Outcome State Fault Refusal :=
  .next (if s.deep then s
    else if ownMem pa && (ty == .bf16 || ty == .e4m3 || ty == .e5m2 || ty == .f32) && pa % Ty.bytes ty = 0 then
      let s1 := s.rdmEls 0 pa .add ty [(0, v.toNat % 2 ^ Ty.width ty)]
      if s.noSlot pa .add ty then s1.bump 0 (0x0460 + sliceOfLine (lineOf pa)) else s1
    else s)

/-- FABRIC_PORT_FALLBACK (R451): a slower rate. -/
def execFabricPortFallback (port : Nat) (s : State) : Host.Outcome State Fault Refusal :=
  .next (if port < 18 && !s.slowPorts.contains port then { s with slowPorts := s.slowPorts ++ [port] } else s)

/-! ## Errors and power -/

/-- UNCORRECTABLE_ERROR (R450): the error is recorded, and the device enters recovery. -/
def execUncorrectableError (s : State) : Host.Outcome State Fault Refusal :=
  .next (if s.boot = .ready then ((s.boxPut 8 0xFFFF 8 0 0).persist).recover else s)

/-- A host's read of device memory (R445): the bytes at their home. What the host has posted before has performed. -/
def State.hostRead (s : State) (pa len : Nat) : State :=
  if s.boot = .ready && ownMem pa && ownMem (pa + len - 1) then
    let s1 := s.over (upFrom 0 (len / 128 + 2)) fun s k => if lineOf pa + 128 * k < pa + len then s.fold (lineOf pa + 128 * k) else s
    { s1 with out := s1.out ++ [Out.host pa (mgets 0#8 s1.mem pa len)] }
  else s

/-- An error in a line (R450): a soft error of a bit is corrected and counted; an uncorrectable one stays in the line, and in the memory of a
management core takes the device to recovery. DESIGN CHOICE (notes/assumptions/50.md). -/
def State.memError (s : State) (key : Nat) (hard : Bool) : State :=
  if !hard then { s with corrected := s.corrected + 1 }
  else if homeOf key = .own then landed s (execUncorrectableError s)
  else if s.bad key then s else { s with ecc := s.ecc ++ [lineOf key] }

/-- Is an input a mailbox request whose effect reaches flash (R435, R440)? -/
def toFlash : Input → Bool
  | .ev (.attest _) | .ev (.xferOwner _) => true
  | .doe _ _ bs => leAt bs 0 1 == 1 || leAt bs 0 1 == 5
  | _ => false

/-- The effect of such a request. -/
def State.flashEffect (s : State) : Input → State
  | .ev (.attest b) => landed s (execAttest b s)
  | .ev (.xferOwner b) => landed s (execXferOwner b s)
  | .doe vendor ty bs => s.doe vendor ty bs
  | _ => s

/-- POWER_LOSS (R435, R440): only flash stays. A request that is being served may have reached flash, whole, without an answer; the others
that wait are lost. -/
def execPowerLoss (s : State) : Host.Outcome State Fault Refusal :=
  .next (let waiting := s.inputs.filter fun (p : Nat × Input) => decide (p.1 ≤ s.stepNo)
    let s1 : State := { s with fresh := s.fresh + 1 }
    let s2 := match waiting.find? fun p => toFlash p.2 with
      | some p => if bitOf (Config.freeWord s.fresh).toNat 0 then s1.flashEffect p.2 else s1
      | none => s1
    let s3 : State := { s1 with flash := s2.flash, fresh := s2.fresh, inputs := s.inputs.filter fun (p : Nat × Input) => decide (s.stepNo < p.1) }
    s3.lost)

end Sys2Proof.Machine
end

