-- ==== Sys2Proof/Machine/Float.lean ====
section
/-! DEFINITION. Float arithmetic, classes, special functions, conversions of one lane, dot products and moves (R193 to R206). -/

namespace Sys2Proof.Machine

/-- FADD_F32 (R193). -/
def execFaddF32 (g : Pred) (d : Dst) (a : Src) (b : Src) (s : State) : Host.Outcome State Fault Refusal :=
  aluExec (.faddF32 g d a b) fnFaddF32 g d false s

/-- FSUB_F32 (R193). -/
def execFsubF32 (g : Pred) (d : Dst) (a : Src) (b : Src) (s : State) : Host.Outcome State Fault Refusal :=
  aluExec (.fsubF32 g d a b) fnFsubF32 g d false s

/-- FMUL_F32 (R193). -/
def execFmulF32 (g : Pred) (d : Dst) (a : Src) (b : Src) (s : State) : Host.Outcome State Fault Refusal :=
  aluExec (.fmulF32 g d a b) fnFmulF32 g d false s

/-- FMA_F32 (R193). -/
def execFmaF32 (g : Pred) (d : Dst) (a : Src) (b : Src) (s : State) : Host.Outcome State Fault Refusal :=
  aluExec (.fmaF32 g d a b) fnFmaF32 g d false s

/-- FMIN_F32 (R194). -/
def execFminF32 (g : Pred) (d : Dst) (a : Src) (b : Src) (s : State) : Host.Outcome State Fault Refusal :=
  aluExec (.fminF32 g d a b) fnFminF32 g d false s

/-- FMAX_F32 (R194). -/
def execFmaxF32 (g : Pred) (d : Dst) (a : Src) (b : Src) (s : State) : Host.Outcome State Fault Refusal :=
  aluExec (.fmaxF32 g d a b) fnFmaxF32 g d false s

/-- FADD_H2 (R193). -/
def execFaddH2 (g : Pred) (d : Dst) (a : Src) (b : Src) (s : State) : Host.Outcome State Fault Refusal :=
  aluExec (.faddH2 g d a b) fnFaddH2 g d false s

/-- FMUL_H2 (R193). -/
def execFmulH2 (g : Pred) (d : Dst) (a : Src) (b : Src) (s : State) : Host.Outcome State Fault Refusal :=
  aluExec (.fmulH2 g d a b) fnFmulH2 g d false s

/-- FMA_H2 (R193). -/
def execFmaH2 (g : Pred) (d : Dst) (a : Src) (b : Src) (s : State) : Host.Outcome State Fault Refusal :=
  aluExec (.fmaH2 g d a b) fnFmaH2 g d false s

/-- FADD_B2 (R193). -/
def execFaddB2 (g : Pred) (d : Dst) (a : Src) (b : Src) (s : State) : Host.Outcome State Fault Refusal :=
  aluExec (.faddB2 g d a b) fnFaddB2 g d false s

/-- FMUL_B2 (R193). -/
def execFmulB2 (g : Pred) (d : Dst) (a : Src) (b : Src) (s : State) : Host.Outcome State Fault Refusal :=
  aluExec (.fmulB2 g d a b) fnFmulB2 g d false s

/-- FMA_B2 (R193). -/
def execFmaB2 (g : Pred) (d : Dst) (a : Src) (b : Src) (s : State) : Host.Outcome State Fault Refusal :=
  aluExec (.fmaB2 g d a b) fnFmaB2 g d false s

/-- IDOT4 (R205). -/
def execIdot4 (g : Pred) (d : Dst) (a : Src) (b : Src) (s : State) : Host.Outcome State Fault Refusal :=
  aluExec (.idot4 g d a b) fnIdot4 g d false s

/-- FDOT2 (R205). -/
def execFdot2 (g : Pred) (d : Dst) (a : Src) (b : Src) (s : State) : Host.Outcome State Fault Refusal :=
  aluExec (.fdot2 g d a b) fnFdot2 g d false s

/-- DADD (R193). -/
def execDadd (g : Pred) (d : Dst) (a : Src) (b : Src) (s : State) : Host.Outcome State Fault Refusal :=
  aluExec (.dadd g d a b) fnDadd g d true s

/-- DMUL (R193). -/
def execDmul (g : Pred) (d : Dst) (a : Src) (b : Src) (s : State) : Host.Outcome State Fault Refusal :=
  aluExec (.dmul g d a b) fnDmul g d true s

/-- DFMA (R193). -/
def execDfma (g : Pred) (d : Dst) (a : Src) (b : Src) (s : State) : Host.Outcome State Fault Refusal :=
  aluExec (.dfma g d a b) fnDfma g d true s

/-- FCLASS (R198). -/
def execFclass (g : Pred) (d : Dst) (a : Src) (w : Bool) (s : State) : Host.Outcome State Fault Refusal :=
  aluExec (.fclass g d a w) (fnFclass w) g d false s

/-- FOP (R199). -/
def execFop (g : Pred) (d : Dst) (a : Src) (b : Src) (pk : Bool) (fn : FopFn) (ty : Ty) (rnd : Rnd) (e : Src) (s : State) : Host.Outcome State Fault Refusal :=
  aluExec (.fop g d a b pk fn ty rnd e) (fnFop pk fn ty rnd) g d ty.wide s

/-- FRND (R200). -/
def execFrnd (g : Pred) (d : Dst) (a : Src) (x : Bool) (ty : FrndTy) (rnd : Rnd) (s : State) : Host.Outcome State Fault Refusal :=
  aluExec (.frnd g d a x ty rnd) (fnFrnd x ty rnd) g d (ty == .f64) s

/-- FSF (R201). -/
def execFsf (g : Pred) (d : Dst) (a : Src) (fn : SfFn) (s : State) : Host.Outcome State Fault Refusal :=
  aluExec (.fsf g d a fn) (fnFsf fn) g d false s

/-- CONV (R202). -/
def execConv (g : Pred) (d : Dst) (a : Src) (ts : Ty) (tt : Ty) (rnd : Rnd) (s : State) : Host.Outcome State Fault Refusal :=
  aluExec (.conv g d a ts tt rnd) (fnConv ts tt rnd) g d tt.wide s

/-- CONVX (R203). -/
def execConvx (g : Pred) (d : Dst) (a : Src) (h : Bool) (k : BitVec 2) (ty : Ty) (s : State) : Host.Outcome State Fault Refusal :=
  aluExec (.convx g d a h k ty) (fnConvx h k ty) g d false s

/-- MOV (R206). -/
def execMov (g : Pred) (d : Dst) (a : Src) (w : Bool) (s : State) : Host.Outcome State Fault Refusal :=
  aluExec (.mov g d a w) (fnMov w) g d w s

/-- MOVI (R206). -/
def execMovi (g : Pred) (d : Dst) (imm : BitVec 14) (s : State) : Host.Outcome State Fault Refusal :=
  aluExec (.movi g d imm) (fnMovi imm) g d false s

/-- MOVHI (R206). -/
def execMovhi (g : Pred) (d : Dst) (imm : BitVec 14) (s : State) : Host.Outcome State Fault Refusal :=
  aluExec (.movhi g d imm) (fnMovhi imm) g d false s

/-- MOVK (R206). -/
def execMovk (g : Pred) (d : Dst) (w : Bool) (n : BitVec 5) (s : State) : Host.Outcome State Fault Refusal :=
  issued (.movk g d w n) s fun s => s.eachLane g fun s t =>
    let k := fun i => (((s.launchOfWg t.wg).map (·.consts)).getD []).getD i 0#32
    s.updThr t.uid fun u => (u.wrW w d (pairOf (k n.toNat) (k (n.toNat + 1)))).trimLog

end Sys2Proof.Machine
end

