-- ==== Sys2Proof/Machine/Integer.lean ====
section
/-! DEFINITION. Integer arithmetic (R190), one meaning each over the shared lane computation; and NOP (R169). -/

namespace Sys2Proof.Machine

/-- IADD (R190). -/
def execIadd (g : Pred) (d : Dst) (a : Src) (b : Src) (s : State) : Host.Outcome State Fault Refusal :=
  aluExec (.iadd g d a b) fnIadd g d false s

/-- ISUB (R190). -/
def execIsub (g : Pred) (d : Dst) (a : Src) (b : Src) (s : State) : Host.Outcome State Fault Refusal :=
  aluExec (.isub g d a b) fnIsub g d false s

/-- IMUL (R190). -/
def execImul (g : Pred) (d : Dst) (a : Src) (b : Src) (s : State) : Host.Outcome State Fault Refusal :=
  aluExec (.imul g d a b) fnImul g d false s

/-- IMULH (R190). -/
def execImulh (g : Pred) (d : Dst) (a : Src) (b : Src) (s : State) : Host.Outcome State Fault Refusal :=
  aluExec (.imulh g d a b) fnImulh g d false s

/-- NMULH (R190). -/
def execNmulh (g : Pred) (d : Dst) (a : Src) (b : Src) (s : State) : Host.Outcome State Fault Refusal :=
  aluExec (.nmulh g d a b) fnNmulh g d false s

/-- IMA (R190). -/
def execIma (g : Pred) (d : Dst) (a : Src) (b : Src) (s : State) : Host.Outcome State Fault Refusal :=
  aluExec (.ima g d a b) fnIma g d false s

/-- IMIN (R190). -/
def execImin (g : Pred) (d : Dst) (a : Src) (b : Src) (s : State) : Host.Outcome State Fault Refusal :=
  aluExec (.imin g d a b) fnImin g d false s

/-- IMAX (R190). -/
def execImax (g : Pred) (d : Dst) (a : Src) (b : Src) (s : State) : Host.Outcome State Fault Refusal :=
  aluExec (.imax g d a b) fnImax g d false s

/-- NMIN (R190). -/
def execNmin (g : Pred) (d : Dst) (a : Src) (b : Src) (s : State) : Host.Outcome State Fault Refusal :=
  aluExec (.nmin g d a b) fnNmin g d false s

/-- NMAX (R190). -/
def execNmax (g : Pred) (d : Dst) (a : Src) (b : Src) (s : State) : Host.Outcome State Fault Refusal :=
  aluExec (.nmax g d a b) fnNmax g d false s

/-- ISAD (R190). -/
def execIsad (g : Pred) (d : Dst) (a : Src) (b : Src) (s : State) : Host.Outcome State Fault Refusal :=
  aluExec (.isad g d a b) fnIsad g d false s

/-- IADD64 (R190). -/
def execIadd64 (g : Pred) (d : Dst) (a : Src) (b : Src) (s : State) : Host.Outcome State Fault Refusal :=
  aluExec (.iadd64 g d a b) fnIadd64 g d true s

/-- ISUB64 (R190). -/
def execIsub64 (g : Pred) (d : Dst) (a : Src) (b : Src) (s : State) : Host.Outcome State Fault Refusal :=
  aluExec (.isub64 g d a b) fnIsub64 g d true s

/-- IMUL64 (R190). -/
def execImul64 (g : Pred) (d : Dst) (a : Src) (b : Src) (s : State) : Host.Outcome State Fault Refusal :=
  aluExec (.imul64 g d a b) fnImul64 g d true s

/-- IMAW (R190). -/
def execImaw (g : Pred) (d : Dst) (a : Src) (b : Src) (s : State) : Host.Outcome State Fault Refusal :=
  aluExec (.imaw g d a b) fnImaw g d true s

/-- NMAW (R190). -/
def execNmaw (g : Pred) (d : Dst) (a : Src) (b : Src) (s : State) : Host.Outcome State Fault Refusal :=
  aluExec (.nmaw g d a b) fnNmaw g d true s

/-- NOP (R169). -/
def execNop (g : Pred) (s : State) : Host.Outcome State Fault Refusal :=
  issued (.nop g) s fun s => s

end Sys2Proof.Machine
end

