-- ==== Sys2Proof/Machine/Logic.lean ====
section
/-! DEFINITION. Logic, shifts and bit fields (R191, R192); compares and predicate logic (R195 to R197). -/

namespace Sys2Proof.Machine

/-- AND (R191). -/
def execAnd (g : Pred) (d : Dst) (a : Src) (b : Src) (s : State) : Host.Outcome State Fault Refusal :=
  aluExec (.and g d a b) fnAnd g d false s

/-- OR (R191). -/
def execOr (g : Pred) (d : Dst) (a : Src) (b : Src) (s : State) : Host.Outcome State Fault Refusal :=
  aluExec (.or g d a b) fnOr g d false s

/-- XOR (R191). -/
def execXor (g : Pred) (d : Dst) (a : Src) (b : Src) (s : State) : Host.Outcome State Fault Refusal :=
  aluExec (.xor g d a b) fnXor g d false s

/-- ANDN (R191). -/
def execAndn (g : Pred) (d : Dst) (a : Src) (b : Src) (s : State) : Host.Outcome State Fault Refusal :=
  aluExec (.andn g d a b) fnAndn g d false s

/-- SHL (R191). -/
def execShl (g : Pred) (d : Dst) (a : Src) (b : Src) (s : State) : Host.Outcome State Fault Refusal :=
  aluExec (.shl g d a b) fnShl g d false s

/-- SHR (R191). -/
def execShr (g : Pred) (d : Dst) (a : Src) (b : Src) (s : State) : Host.Outcome State Fault Refusal :=
  aluExec (.shr g d a b) fnShr g d false s

/-- SAR (R191). -/
def execSar (g : Pred) (d : Dst) (a : Src) (b : Src) (s : State) : Host.Outcome State Fault Refusal :=
  aluExec (.sar g d a b) fnSar g d false s

/-- SEL (R191). -/
def execSel (g : Pred) (d : Dst) (a : Src) (b : Src) (s : State) : Host.Outcome State Fault Refusal :=
  aluExec (.sel g d a b) fnSel g d false s

/-- BPERM (R192). -/
def execBperm (g : Pred) (d : Dst) (a : Src) (b : Src) (e : Src) (s : State) : Host.Outcome State Fault Refusal :=
  aluExec (.bperm g d a b e) fnBperm g d false s

/-- TERN (R192). -/
def execTern (g : Pred) (d : Dst) (a : Src) (b : Src) (e : Src) (tt : BitVec 8) (s : State) : Host.Outcome State Fault Refusal :=
  aluExec (.tern g d a b e tt) (fnTern tt) g d false s

/-- FSH (R192). -/
def execFsh (g : Pred) (d : Dst) (a : Src) (b : Src) (dir : Bool) (amt : ShAmt) (s : State) : Host.Outcome State Fault Refusal :=
  aluExec (.fsh g d a b dir amt) (fnFsh dir amt) g d false s

/-- PCNT (R191). -/
def execPcnt (g : Pred) (d : Dst) (a : Src) (w : Bool) (s : State) : Host.Outcome State Fault Refusal :=
  aluExec (.pcnt g d a w) (fnPcnt w) g d false s

/-- CLZ (R191). -/
def execClz (g : Pred) (d : Dst) (a : Src) (w : Bool) (s : State) : Host.Outcome State Fault Refusal :=
  aluExec (.clz g d a w) (fnClz w) g d false s

/-- BREV (R191). -/
def execBrev (g : Pred) (d : Dst) (a : Src) (w : Bool) (s : State) : Host.Outcome State Fault Refusal :=
  aluExec (.brev g d a w) (fnBrev w) g d w s

/-- BFE (R192). -/
def execBfe (g : Pred) (d : Dst) (a : Src) (sx : Bool) (pos : BitVec 5) (len : BitVec 5) (s : State) : Host.Outcome State Fault Refusal :=
  aluExec (.bfe g d a sx pos len) (fnBfe sx pos len) g d false s

/-- BFI (R192). -/
def execBfi (g : Pred) (d : Dst) (a : Src) (pos : BitVec 5) (len : BitVec 5) (s : State) : Host.Outcome State Fault Refusal :=
  aluExec (.bfi g d a pos len) (fnBfi pos len) g d false s

/-- ICMP (R195). -/
def execIcmp (g : Pred) (w : Bool) (c : ICond) (p : Pred) (a : Src) (b : Src) (s : State) : Host.Outcome State Fault Refusal :=
  cmpExec (.icmp g w c p a b) (fun x y => (icmpTrue w c x y, 0)) g p s

/-- FCMP (R196). -/
def execFcmp (g : Pred) (c : FCond) (p : Pred) (a : Src) (b : Src) (s : State) : Host.Outcome State Fault Refusal :=
  cmpExec (.fcmp g c p a b) (fun x y => fcmpTrue .f32 c x.toNat y.toNat) g p s

/-- DCMP (R196). -/
def execDcmp (g : Pred) (c : FCond) (p : Pred) (a : Src) (b : Src) (s : State) : Host.Outcome State Fault Refusal :=
  cmpExec (.dcmp g c p a b) (fun x y => fcmpTrue .f64 c x.toNat y.toNat) g p s

/-- PLOP (R197). -/
def execPlop (g : Pred) (p : Pred) (a : Pred) (b : Pred) (tt : BitVec 4) (s : State) : Host.Outcome State Fault Refusal :=
  issued (.plop g p a b tt) s fun s => s.eachLane g fun s t =>
    s.updThr t.uid (·.setPred p (tt.getLsbD (2 * boolNat (t.pred a) + boolNat (t.pred b))))

end Sys2Proof.Machine
end

