-- ==== Sys2Proof/Machine/Dispatch.lean ====
section
/-! DEFINITION. Dispatch: one arm for each constructor of `Instr`, each one direct call of that instruction's meaning. -/

namespace Sys2Proof.Machine

def exec (i : Instr) (s : State) : Host.Outcome State Fault Refusal :=
  match i with
  | .nop g => Sys2Proof.Machine.execNop g s
  | .iadd g d a b => Sys2Proof.Machine.execIadd g d a b s
  | .isub g d a b => Sys2Proof.Machine.execIsub g d a b s
  | .imul g d a b => Sys2Proof.Machine.execImul g d a b s
  | .imulh g d a b => Sys2Proof.Machine.execImulh g d a b s
  | .nmulh g d a b => Sys2Proof.Machine.execNmulh g d a b s
  | .ima g d a b => Sys2Proof.Machine.execIma g d a b s
  | .imin g d a b => Sys2Proof.Machine.execImin g d a b s
  | .imax g d a b => Sys2Proof.Machine.execImax g d a b s
  | .nmin g d a b => Sys2Proof.Machine.execNmin g d a b s
  | .nmax g d a b => Sys2Proof.Machine.execNmax g d a b s
  | .isad g d a b => Sys2Proof.Machine.execIsad g d a b s
  | .iadd64 g d a b => Sys2Proof.Machine.execIadd64 g d a b s
  | .isub64 g d a b => Sys2Proof.Machine.execIsub64 g d a b s
  | .imul64 g d a b => Sys2Proof.Machine.execImul64 g d a b s
  | .imaw g d a b => Sys2Proof.Machine.execImaw g d a b s
  | .and g d a b => Sys2Proof.Machine.execAnd g d a b s
  | .or g d a b => Sys2Proof.Machine.execOr g d a b s
  | .xor g d a b => Sys2Proof.Machine.execXor g d a b s
  | .andn g d a b => Sys2Proof.Machine.execAndn g d a b s
  | .shl g d a b => Sys2Proof.Machine.execShl g d a b s
  | .shr g d a b => Sys2Proof.Machine.execShr g d a b s
  | .sar g d a b => Sys2Proof.Machine.execSar g d a b s
  | .sel g d a b => Sys2Proof.Machine.execSel g d a b s
  | .tern g d a b e tt => Sys2Proof.Machine.execTern g d a b e tt s
  | .fsh g d a b dir amt => Sys2Proof.Machine.execFsh g d a b dir amt s
  | .pcnt g d a w => Sys2Proof.Machine.execPcnt g d a w s
  | .clz g d a w => Sys2Proof.Machine.execClz g d a w s
  | .brev g d a w => Sys2Proof.Machine.execBrev g d a w s
  | .bfe g d a sx pos len => Sys2Proof.Machine.execBfe g d a sx pos len s
  | .bfi g d a pos len => Sys2Proof.Machine.execBfi g d a pos len s
  | .bperm g d a b e => Sys2Proof.Machine.execBperm g d a b e s
  | .faddF32 g d a b => Sys2Proof.Machine.execFaddF32 g d a b s
  | .fsubF32 g d a b => Sys2Proof.Machine.execFsubF32 g d a b s
  | .fmulF32 g d a b => Sys2Proof.Machine.execFmulF32 g d a b s
  | .fmaF32 g d a b => Sys2Proof.Machine.execFmaF32 g d a b s
  | .fminF32 g d a b => Sys2Proof.Machine.execFminF32 g d a b s
  | .fmaxF32 g d a b => Sys2Proof.Machine.execFmaxF32 g d a b s
  | .faddH2 g d a b => Sys2Proof.Machine.execFaddH2 g d a b s
  | .fmulH2 g d a b => Sys2Proof.Machine.execFmulH2 g d a b s
  | .fmaH2 g d a b => Sys2Proof.Machine.execFmaH2 g d a b s
  | .faddB2 g d a b => Sys2Proof.Machine.execFaddB2 g d a b s
  | .fmulB2 g d a b => Sys2Proof.Machine.execFmulB2 g d a b s
  | .fmaB2 g d a b => Sys2Proof.Machine.execFmaB2 g d a b s
  | .icmp g w c p a b => Sys2Proof.Machine.execIcmp g w c p a b s
  | .fcmp g c p a b => Sys2Proof.Machine.execFcmp g c p a b s
  | .plop g p a b tt => Sys2Proof.Machine.execPlop g p a b tt s
  | .fclass g d a w => Sys2Proof.Machine.execFclass g d a w s
  | .dadd g d a b => Sys2Proof.Machine.execDadd g d a b s
  | .dmul g d a b => Sys2Proof.Machine.execDmul g d a b s
  | .dfma g d a b => Sys2Proof.Machine.execDfma g d a b s
  | .dcmp g c p a b => Sys2Proof.Machine.execDcmp g c p a b s
  | .fop g d a b pk fn ty rnd e => Sys2Proof.Machine.execFop g d a b pk fn ty rnd e s
  | .frnd g d a x ty rnd => Sys2Proof.Machine.execFrnd g d a x ty rnd s
  | .fsf g d a fn => Sys2Proof.Machine.execFsf g d a fn s
  | .conv g d a ts tt rnd => Sys2Proof.Machine.execConv g d a ts tt rnd s
  | .convb g d a tt len rnd e ph => Sys2Proof.Machine.execConvb g d a tt len rnd e ph s
  | .convx g d a h k ty => Sys2Proof.Machine.execConvx g d a h k ty s
  | .scaleb g d a tt len b2 rnd e ph => Sys2Proof.Machine.execScaleb g d a tt len b2 rnd e ph s
  | .idot4 g d a b => Sys2Proof.Machine.execIdot4 g d a b s
  | .fdot2 g d a b => Sys2Proof.Machine.execFdot2 g d a b s
  | .nmaw g d a b => Sys2Proof.Machine.execNmaw g d a b s
  | .mov g d a w => Sys2Proof.Machine.execMov g d a w s
  | .movi g d imm => Sys2Proof.Machine.execMovi g d imm s
  | .movhi g d imm => Sys2Proof.Machine.execMovhi g d imm s
  | .movk g d w n => Sys2Proof.Machine.execMovk g d w n s
  | .srd g d clr idx => Sys2Proof.Machine.execSrd g d clr idx s
  | .swz g d a b mode n => Sys2Proof.Machine.execSwz g d a b mode n s
  | .vote g d ps op => Sys2Proof.Machine.execVote g d ps op s
  | .lred g d a ty op rnd => Sys2Proof.Machine.execLred g d a ty op rnd s
  | .lscan g d a x ty op rnd => Sys2Proof.Machine.execLscan g d a x ty op rnd s
  | .trsp g d a sz => Sys2Proof.Machine.execTrsp g d a sz s
  | .part g n => Sys2Proof.Machine.execPart g n s
  | .rep sb sa sd tot => Sys2Proof.Machine.execRep sb sa sd tot s
  | .derx g d a coarse => Sys2Proof.Machine.execDerx g d a coarse s
  | .dery g d a coarse => Sys2Proof.Machine.execDery g d a coarse s
  | .qput g a q => Sys2Proof.Machine.execQput g a q s
  | .qget g d q => Sys2Proof.Machine.execQget g d q s
  | .jmp g off => Sys2Proof.Machine.execJmp g off s
  | .jmpx g a link => Sys2Proof.Machine.execJmpx g a link s
  | .call g off => Sys2Proof.Machine.execCall g off s
  | .ret g => Sys2Proof.Machine.execRet g s
  | .exit g => Sys2Proof.Machine.execExit g s
  | .spawn g tgt vs n => Sys2Proof.Machine.execSpawn g tgt vs n s
  | .cont g tgt n => Sys2Proof.Machine.execCont g tgt n s
  | .reorder g a n => Sys2Proof.Machine.execReorder g a n s
  | .yield g n => Sys2Proof.Machine.execYield g n s
  | .bar g gang b => Sys2Proof.Machine.execBar g gang b s
  | .gbar g idx => Sys2Proof.Machine.execGbar g idx s
  | .wait g l sx c t => Sys2Proof.Machine.execWait g l sx c t s
  | .trap g imm => Sys2Proof.Machine.execTrap g imm s
  | .rett g => Sys2Proof.Machine.execRett g s
  | .brk g imm => Sys2Proof.Machine.execBrk g imm s
  | .time g d => Sys2Proof.Machine.execTime g d s
  | .ld g d a acq sc sz => Sys2Proof.Machine.execLd g d a acq sc sz s
  | .st g v a rel sc sz => Sys2Proof.Machine.execSt g v a rel sc sz s
  | .lsp g d a sz => Sys2Proof.Machine.execLsp g d a sz s
  | .ssp g v a sz => Sys2Proof.Machine.execSsp g v a sz s
  | .ldlod g d a b lvl lreg e sz => Sys2Proof.Machine.execLdlod g d a b lvl lreg e sz s
  | .sample g d a b fmt bilin e => Sys2Proof.Machine.execSample g d a b fmt bilin e s
  | .atm g d a b op ty sc ord e => Sys2Proof.Machine.execAtm g d a b op ty sc ord e s
  | .atms g d a b op ty e => Sys2Proof.Machine.execAtms g d a b op ty e s
  | .rdm g a b op ty sc rel => Sys2Proof.Machine.execRdm g a b op ty sc rel s
  | .vbmin g a b => Sys2Proof.Machine.execVbmin g a b s
  | .pref g a l2 => Sys2Proof.Machine.execPref g a l2 s
  | .fence g k sc => Sys2Proof.Machine.execFence g k sc s
  | .monwait g v a sc => Sys2Proof.Machine.execMonwait g v a sc s
  | .txbegin g off => Sys2Proof.Machine.execTxbegin g off s
  | .txend g => Sys2Proof.Machine.execTxend g s
  | .txctlAbort g => Sys2Proof.Machine.execTxctlAbort g s
  | .txctlTest g d => Sys2Proof.Machine.execTxctlTest g d s
  | .qbind g port a q => Sys2Proof.Machine.execQbind g port a q s
  | .cplwait g v a ext sc => Sys2Proof.Machine.execCplwait g v a ext sc s
  | .cpltest g d a sc => Sys2Proof.Machine.execCpltest g d a sc s
  | .hoist g q vs b tgt n any => Sys2Proof.Machine.execHoist g q vs b tgt n any s
  | .hoistClose g q => Sys2Proof.Machine.execHoistClose g q s
  | .binFlush g tgt => Sys2Proof.Machine.execBinFlush g tgt s
  | .binCount g d tgt => Sys2Proof.Machine.execBinCount g d tgt s
  | .rbox g d a b => Sys2Proof.Machine.execRbox g d a b s
  | .rtri g d a b cull => Sys2Proof.Machine.execRtri g d a b cull s
  | .rstkPush g a => Sys2Proof.Machine.execRstkPush g a s
  | .rstkPop g d => Sys2Proof.Machine.execRstkPop g d s
  | .rstkDepth g d => Sys2Proof.Machine.execRstkDepth g d s
  | .rstkClear g => Sys2Proof.Machine.execRstkClear g s
  | .resv g d a b fmt bl scl ten ph => Sys2Proof.Machine.execResv g d a b fmt bl scl ten ph s
  | .rfree g a => Sys2Proof.Machine.execRfree g a s
  | .accrd g d what fmt rnd t row half => Sys2Proof.Machine.execAccrd g d what fmt rnd t row half s
  | .seq g a b e => Sys2Proof.Machine.execSeq g a b e s
  | .sysrd g d idx => Sys2Proof.Machine.execSysrd g d idx s
  | .syswr g v idx => Sys2Proof.Machine.execSyswr g v idx s
  | .mnop => Sys2Proof.Machine.execMnop s
  | .mzero mode t => Sys2Proof.Machine.execMzero mode t s
  | .mmac bi ai ki w bid aid mem t kb ar br => Sys2Proof.Machine.execMmac bi ai ki w bid aid mem t kb ar br s
  | .mbin xr bi ai ki w bid aid mem t kb ar br => Sys2Proof.Machine.execMbin xr bi ai ki w bid aid mem t kb ar br s
  | .mrenorm n right all row t => Sys2Proof.Machine.execMrenorm n right all row t s
  | .mexport dith did t dr dc => Sys2Proof.Machine.execMexport dith did t dr dc s
  | .mwait b => Sys2Proof.Machine.execMwait b s
  | .msig b => Sys2Proof.Machine.execMsig b s
  | .mloop len p cnt => Sys2Proof.Machine.execMloop len p cnt s
  | .mend => Sys2Proof.Machine.execMend s
  | .mphase ph id => Sys2Proof.Machine.execMphase ph id s
  | .mstep mask on t => Sys2Proof.Machine.execMstep mask on t s
  | .binLaunch core bin => Sys2Proof.Machine.execBinLaunch core bin s
  | .ringUnitMove wg => Sys2Proof.Machine.execRingUnitMove wg s
  | .workgroupPlacement wg hint => Sys2Proof.Machine.execWorkgroupPlacement wg hint s
  | .gangPlacement wg => Sys2Proof.Machine.execGangPlacement wg s
  | .hoistDelivery h => Sys2Proof.Machine.execHoistDelivery h s
  | .loadReturn op => Sys2Proof.Machine.execLoadReturn op s
  | .storePerform op => Sys2Proof.Machine.execStorePerform op s
  | .txValidation uid => Sys2Proof.Machine.execTxValidation uid s
  | .monwaitPoll uid => Sys2Proof.Machine.execMonwaitPoll uid s
  | .cplwaitPoll uid => Sys2Proof.Machine.execCplwaitPoll uid s
  | .copy cmd => Sys2Proof.Machine.execCopy cmd s
  | .fill cmd => Sys2Proof.Machine.execFill cmd s
  | .tile cmd => Sys2Proof.Machine.execTile cmd s
  | .gather cmd => Sys2Proof.Machine.execGather cmd s
  | .scatter cmd => Sys2Proof.Machine.execScatter cmd s
  | .allreduce cmd peers => Sys2Proof.Machine.execAllreduce cmd peers s
  | .reduce cmd peers => Sys2Proof.Machine.execReduce cmd peers s
  | .broadcast cmd peers => Sys2Proof.Machine.execBroadcast cmd peers s
  | .allgather cmd peers => Sys2Proof.Machine.execAllgather cmd peers s
  | .reducescatter cmd peers => Sys2Proof.Machine.execReducescatter cmd peers s
  | .graph cmd => Sys2Proof.Machine.execGraph cmd s
  | .commandComplete cmd => Sys2Proof.Machine.execCommandComplete cmd s
  | .notifyPush wg => Sys2Proof.Machine.execNotifyPush wg s
  | .resume wg => Sys2Proof.Machine.execResume wg s
  | .abandon wg => Sys2Proof.Machine.execAbandon wg s
  | .clrflags wg => Sys2Proof.Machine.execClrflags wg s
  | .seqStreamStart wg => Sys2Proof.Machine.execSeqStreamStart wg s
  | .orderedStepApply wg t => Sys2Proof.Machine.execOrderedStepApply wg t s
  | .queueNotify fe q v => Sys2Proof.Machine.execQueueNotify fe q v s
  | .queueEnable fe q v => Sys2Proof.Machine.execQueueEnable fe q v s
  | .run fe q idx => Sys2Proof.Machine.execRun fe q idx s
  | .register fe q idx => Sys2Proof.Machine.execRegister fe q idx s
  | .retire fe q idx => Sys2Proof.Machine.execRetire fe q idx s
  | .graphStart g => Sys2Proof.Machine.execGraphStart g s
  | .kernelNode g n => Sys2Proof.Machine.execKernelNode g n s
  | .copyNode g n => Sys2Proof.Machine.execCopyNode g n s
  | .condNode g n => Sys2Proof.Machine.execCondNode g n s
  | .loopNode g n => Sys2Proof.Machine.execLoopNode g n s
  | .loopIterationEnd g n => Sys2Proof.Machine.execLoopIterationEnd g n s
  | .signalNode g n => Sys2Proof.Machine.execSignalNode g n s
  | .extwaitNode g n => Sys2Proof.Machine.execExtwaitNode g n s
  | .subgraphNode g n => Sys2Proof.Machine.execSubgraphNode g n s
  | .renderNode g n upto => Sys2Proof.Machine.execRenderNode g n upto s
  | .shadeNode g n => Sys2Proof.Machine.execShadeNode g n s
  | .publishNode g n => Sys2Proof.Machine.execPublishNode g n s
  | .nodeComplete g n => Sys2Proof.Machine.execNodeComplete g n s
  | .chainInstantiate slot => Sys2Proof.Machine.execChainInstantiate slot s
  | .tileComplete slot sq t => Sys2Proof.Machine.execTileComplete slot sq t s
  | .haloCopy slot sq => Sys2Proof.Machine.execHaloCopy slot sq s
  | .shadingRatePrediction slot sq => Sys2Proof.Machine.execShadingRatePrediction slot sq s
  | .renderWindowEnd slot sq => Sys2Proof.Machine.execRenderWindowEnd slot sq s
  | .shadeHardFinish slot sq => Sys2Proof.Machine.execShadeHardFinish slot sq s
  | .hardFinish slot sq => Sys2Proof.Machine.execHardFinish slot sq s
  | .scanout slot sq => Sys2Proof.Machine.execScanout slot sq s
  | .streamOpen slot => Sys2Proof.Machine.execStreamOpen slot s
  | .streamClose slot => Sys2Proof.Machine.execStreamClose slot s
  | .reservationStart slot sq stage => Sys2Proof.Machine.execReservationStart slot sq stage s
  | .reservationEnd slot sq stage => Sys2Proof.Machine.execReservationEnd slot sq stage s
  | .ttsStep v => Sys2Proof.Machine.execTtsStep v s
  | .stepHoldEnd => Sys2Proof.Machine.execStepHoldEnd s
  | .highPriorityPreempt wg => Sys2Proof.Machine.execHighPriorityPreempt wg s
  | .normalPriorityPreempt wg => Sys2Proof.Machine.execNormalPriorityPreempt wg s
  | .sliceEnd fe => Sys2Proof.Machine.execSliceEnd fe s
  | .preemptHalt wgs => Sys2Proof.Machine.execPreemptHalt wgs s
  | .preciseSave wgs => Sys2Proof.Machine.execPreciseSave wgs s
  | .resumePlacement wg => Sys2Proof.Machine.execResumePlacement wg s
  | .checkpoint asid => Sys2Proof.Machine.execCheckpoint asid s
  | .checkpointComplete asid => Sys2Proof.Machine.execCheckpointComplete asid s
  | .rollback asid => Sys2Proof.Machine.execRollback asid s
  | .watchdogFire asid => Sys2Proof.Machine.execWatchdogFire asid s
  | .accessFault f => Sys2Proof.Machine.execAccessFault f s
  | .faultRecordWrite f => Sys2Proof.Machine.execFaultRecordWrite f s
  | .prqEntryGrant f => Sys2Proof.Machine.execPrqEntryGrant f s
  | .pageRequestRetry fe token => Sys2Proof.Machine.execPageRequestRetry fe token s
  | .pageRequestRefuse fe token => Sys2Proof.Machine.execPageRequestRefuse fe token s
  | .tlbInvStage1Range fe lvl ctx => Sys2Proof.Machine.execTlbInvStage1Range fe lvl ctx s
  | .tlbInvContext fe lvl ctx => Sys2Proof.Machine.execTlbInvContext fe lvl ctx s
  | .tlbInvStage2Range fe lvl => Sys2Proof.Machine.execTlbInvStage2Range fe lvl s
  | .tlbInvFrontEnd fe lvl => Sys2Proof.Machine.execTlbInvFrontEnd fe lvl s
  | .tlbInvComplete fe => Sys2Proof.Machine.execTlbInvComplete fe s
  | .lodFlush fe v => Sys2Proof.Machine.execLodFlush fe v s
  | .registerWrite req idx v => Sys2Proof.Machine.execRegisterWrite req idx v s
  | .ptnRangeCommit f v => Sys2Proof.Machine.execPtnRangeCommit f v s
  | .scrubComplete f => Sys2Proof.Machine.execScrubComplete f s
  | .vfFlr n => Sys2Proof.Machine.execVfFlr n s
  | .flrComplete n => Sys2Proof.Machine.execFlrComplete n s
  | .idleCollapse n => Sys2Proof.Machine.execIdleCollapse n s
  | .collapse n => Sys2Proof.Machine.execCollapse n s
  | .collapseComplete n => Sys2Proof.Machine.execCollapseComplete n s
  | .wakeWake n => Sys2Proof.Machine.execWakeWake n s
  | .reservationWake n => Sys2Proof.Machine.execReservationWake n s
  | .wakeComplete n => Sys2Proof.Machine.execWakeComplete n s
  | .deepStateEntry => Sys2Proof.Machine.execDeepStateEntry s
  | .oppStep => Sys2Proof.Machine.execOppStep s
  | .halvedIssueEnd cl => Sys2Proof.Machine.execHalvedIssueEnd cl s
  | .bbxPersistComplete => Sys2Proof.Machine.execBbxPersistComplete s
  | .rayTestComplete op => Sys2Proof.Machine.execRayTestComplete op s
  | .ttsDlcloRead req => Sys2Proof.Machine.execTtsDlcloRead req s
  | .ppsEdge => Sys2Proof.Machine.execPpsEdge s
  | .referenceLost => Sys2Proof.Machine.execReferenceLost s
  | .genlockEdge => Sys2Proof.Machine.execGenlockEdge s
  | .feDeniedRead req => Sys2Proof.Machine.execFeDeniedRead req s
  | .feNoshadowRead req c => Sys2Proof.Machine.execFeNoshadowRead req c s
  | .feNotifydropRead req n => Sys2Proof.Machine.execFeNotifydropRead req n s
  | .streamCounterRead req slot o => Sys2Proof.Machine.execStreamCounterRead req slot o s
  | .tlbSpecdropRead req fe => Sys2Proof.Machine.execTlbSpecdropRead req fe s
  | .lodFbdropRead req fe c => Sys2Proof.Machine.execLodFbdropRead req fe c s
  | .prqWaitsRead req fe => Sys2Proof.Machine.execPrqWaitsRead req fe s
  | .pwrDroopsRead req => Sys2Proof.Machine.execPwrDroopsRead req s
  | .stage2Resolve f => Sys2Proof.Machine.execStage2Resolve f s
  | .stage2Refused f => Sys2Proof.Machine.execStage2Refused f s
  | .droopAlarm cl => Sys2Proof.Machine.execDroopAlarm cl s
  | .throttleDown => Sys2Proof.Machine.execThrottleDown s
  | .throttleUp => Sys2Proof.Machine.execThrottleUp s
  | .thermalTrip => Sys2Proof.Machine.execThermalTrip s
  | .coldReset => Sys2Proof.Machine.execColdReset s
  | .warmReset => Sys2Proof.Machine.execWarmReset s
  | .attest body => Sys2Proof.Machine.execAttest body s
  | .getMeas body => Sys2Proof.Machine.execGetMeas body s
  | .update body => Sys2Proof.Machine.execUpdate body s
  | .commitSvn body => Sys2Proof.Machine.execCommitSvn body s
  | .xferOwner body => Sys2Proof.Machine.execXferOwner body s
  | .setConfig body => Sys2Proof.Machine.execSetConfig body s
  | .bbxRead body => Sys2Proof.Machine.execBbxRead body s
  | .bbxSave body => Sys2Proof.Machine.execBbxSave body s
  | .fabric body => Sys2Proof.Machine.execFabric body s
  | .bmcBbxSave => Sys2Proof.Machine.execBmcBbxSave s
  | .reductionDelivery pa ty v => Sys2Proof.Machine.execReductionDelivery pa ty v s
  | .referenceRestored => Sys2Proof.Machine.execReferenceRestored s
  | .powerLoss => Sys2Proof.Machine.execPowerLoss s
  | .uncorrectableError => Sys2Proof.Machine.execUncorrectableError s
  | .postedWrite pa data => Sys2Proof.Machine.execPostedWrite pa data s
  | .fabricAccess pa data => Sys2Proof.Machine.execFabricAccess pa data s
  | .eventMessage => Sys2Proof.Machine.execEventMessage s
  | .functionCoreUnresponsive n => Sys2Proof.Machine.execFunctionCoreUnresponsive n s
  | .fabricPortFallback port => Sys2Proof.Machine.execFabricPortFallback port s
  | .l2Eviction line => Sys2Proof.Machine.execL2Eviction line s
  | .l1DirtyTimeout core asid line => Sys2Proof.Machine.execL1DirtyTimeout core asid line s
  | .l1NarrowTimeout core asid line => Sys2Proof.Machine.execL1NarrowTimeout core asid line s
  | .pcGroupAged gid pc => Sys2Proof.Machine.execPcGroupAged gid pc s
  | .binTimerExpiry core bin => Sys2Proof.Machine.execBinTimerExpiry core bin s
  | .reorderTimerExpiry wg => Sys2Proof.Machine.execReorderTimerExpiry wg s

end Sys2Proof.Machine
end

