-- ==== Sys2Proof/Machine/Select.lean ====
section
/-! DEFINITION. What a step does next: the inputs of the outside world, the events to come, the selection of a lane group and its PC groups
and the issue of a chain (R13 to R18, R54, R157, R215, R231), the sequencers (R311, R322), and the timers (R23, R31, R55). -/

namespace Sys2Proof.Machine

/-! ## The issue of a chain -/

/-- Does an instruction use the C pipe, or clear what it reads? The words of a chain read before any writes (R54, R55, R157), so a read
that clears goes first and a control transfer last. -/
def issueRank (i : Instr) : Nat :=
  match i with
  | .srd .. => 0
  | _ => if i.pipe = .c then 2 else 1

/-- The instructions of a chain in the order in which they are executed. -/
def issueOrder (xs : List (Nat × Instr)) : List (Nat × Instr) :=
  (xs.filter fun p => issueRank p.2 == 0) ++ (xs.filter fun p => issueRank p.2 == 1) ++ xs.filter fun p => issueRank p.2 == 2

/-- Executes instructions, each at its slot. -/
def State.runInstrs (s : State) : List (Nat × Instr) → State
  | [] => s
  | p :: ps =>
      let s1 : State := { s with iss := { s.iss with slot := p.1 } }
      State.runInstrs (landed s1 (exec p.2 s1)) ps

/-- The lanes of an issue stand at the next chain; a repeat's stay at the REP. -/
def State.enterIssue (s : State) (core gid : Nat) (pc : DWord) (c : Chain) (lanes : List Thread) (muted : List (Nat × Nat)) : State :=
  { s with
    iss := ⟨core, gid, lanes, pc, c.next, 0, muted, [], []⟩
    threads := s.threads.map fun (t : Thread) =>
      if !c.isRep && lanes.any fun u => u.uid == t.uid then { t with pc := c.next } else t }

/-- After a repeat (R215): DONE rises in the lanes that did not trap, and the last one ends the sequence. What REPST then holds beside ACTIVE = 0
the spec does not say: the model clears all of it. DESIGN CHOICE (notes/assumptions/74.md). -/
def State.endRepeat (s : State) : State :=
  { s with threads := s.threads.map fun (t : Thread) =>
      if t.rep.active && (s.iss.lanes.any fun u => u.uid == t.uid) && !(s.iss.trapped.any fun p => p.1 == t.uid) then
        (if t.rep.done + 1 ≥ t.rep.total then { t with rep := .none, pc := s.iss.next }
         else { t with rep := { t.rep with done := t.rep.done + 1 } })
      else t }

/-- One trial of a chain in a set of lanes. -/
def State.chainRun (s : State) (core gid : Nat) (pc : DWord) (c : Chain) (lanes : List Thread) (muted : List (Nat × Nat)) : State :=
  let s1 := s.enterIssue core gid pc c lanes muted
  match s1.chainCause c with
  | some (cause, k) => ({ s1 with iss := { s1.iss with slot := k } } : State).trapAll cause
  | none =>
      let s2 := s1.runInstrs (issueOrder c.instrs)
      if c.isRep then s2.endRepeat else s2

/-- Does a lane that takes the effect of one slot of a chain alone take ILLEGAL_INSTRUCTION there? -/
def State.illegalAt (s : State) (core gid : Nat) (pc : DWord) (c : Chain) (lanes : List Thread) (uid k : Nat) : Bool :=
  (((s.chainRun core gid pc c lanes [(uid, k)]).thr? uid).map fun t => t.trap.inh && t.trap.cause == 1).getD false

/-- The slot at which each lane traps: that of an ILLEGAL_INSTRUCTION first, else the first at which it trapped (R172). -/
def State.trapSlots (s : State) (core gid : Nat) (pc : DWord) (c : Chain) (lanes : List Thread) (xs : List (Nat × Nat)) : List (Nat × Nat) :=
  ((xs.map (·.1)).eraseDups).map fun u => (u, match (xs.filter fun p => p.1 == u).map (·.2) with
    | [k] => k
    | ks => (ks.find? (s.illegalAt core gid pc c lanes u)).getD (ks.foldl min 3))

/-- Issues a chain: lanes that turn out not to be ready drop out (R13), a lane that traps takes the effect of its first trap alone (R171,
R172), and the chain is run again without what does not take place. DEDUCED (notes/assumptions/9.md). -/
def State.settle (s : State) (core gid : Nat) (pc : DWord) (c : Chain) : Nat → List Thread → List (Nat × Nat) → List Thread × State
  | 0, lanes, muted => (lanes, s.chainRun core gid pc c lanes muted)
  | n + 1, lanes, muted =>
      let r := s.chainRun core gid pc c lanes muted
      if lanes.isEmpty then ([], s)
      else if !r.iss.retried.isEmpty then
        s.settle core gid pc c n (s.wholeQuads c (lanes.filter fun t => !r.iss.retried.contains t.uid)) []
      else if c.instrs.length ≤ 1 || r.iss.trapped.all muted.contains then (lanes, r)
      else s.settle core gid pc c n lanes (s.trapSlots core gid pc c lanes r.iss.trapped)

/-! ## PC groups (R16, R17) -/

/-- A PC group with the lanes that issue, whether its chain holds words for the M and the X pipe, and the state after its issue. -/
structure Ready where
  pc    : DWord
  lanes : List Thread
  usesM : Bool
  usesX : Bool
  after : State

/-- A fetch that faults (R397): the PC group is not ready until the record is answered. -/
def State.fetchFault (s : State) (asid : Nat) (pc : DWord) (f : XFault) (lanes : List Thread) : State :=
  match lanes with
  | [] => s
  | t :: _ =>
      let (id, s1) := s.newFault asid (.fetch (lanes.map (·.uid))) (packetOf pc).toNat 4 f true t.tid (s.wgIndex t) 0 []
      s1.updFault id fun r => { r with lanes := decide (lanes.length > 1) }

/-- The PC group of some lanes of a lane group that stand at one place, if any of them is ready. -/
def State.readyAt (s : State) (g : LaneGroup) (ts : List Thread) : Option Ready :=
  match ts with
  | [] => none
  | t :: _ =>
      let asid := s.asidOf g.wg
      match s.fetchPacket g.core g.wg t.pc with
      | (.error f, s1) => some ⟨t.pc, ts, false, false, s1.fetchFault asid t.pc f ts⟩
      | (.ok ws, s1) =>
          let c := t.chain ws
          let lanes := s1.wholeQuads c (ts.filter fun t => !s1.awaits t c && !(s1.seqFull t.wg && c.instrs.any fun p => isSeq p.2))
          let r := s1.settle g.core g.id t.pc c 40 lanes []
          if r.1.isEmpty then none
          else some ⟨t.pc, r.1, c.instrs.any fun p => p.2.pipe == .m, c.instrs.any fun p => p.2.pipe == .x, r.2⟩

/-- The live lanes of a lane group in ascending order. -/
def State.liveLanes (s : State) (g : LaneGroup) : List Thread := sortKey (fun (t : Thread) => [t.lane]) (s.threads.filter fun t => t.gid == g.id && s.live t)

/-- The ready PC groups of a lane group; lanes at different repeats of one REP are apart (R215). -/
def State.readyGroups (s : State) (g : LaneGroup) : List Ready :=
  let ts := s.liveLanes g
  ((ts.map fun t => (t.pc, t.rep)).eraseDups).filterMap fun k => s.readyAt g (ts.filter fun t => t.pc == k.1 && t.rep == k.2)

/-- The step in which a PC group last issued: the latest of its lanes' issues. DEDUCED (notes/assumptions/9.md). -/
def Ready.lastIss (r : Ready) : Nat := r.lanes.foldl (fun n t => max n t.lastIss) 0

/-- Does a PC group rank last (R231)? Where lanes have joined it that have not executed the YIELD, it does not. DESIGN CHOICE
(DESIGN CHOICE, notes/assumptions/66.md). -/
def yielding (ts : List Thread) : Bool := ts.all fun t => t.yields > 0

/-- The place of a PC group in R17's order: aged ones first, by the time since they last issued, longest first; then by lane count, one that
yields last (R231). -/
def rankOf (g : LaneGroup) (r : Ready) : List Nat :=
  if g.aged.contains r.pc then [0, 0, r.lastIss, r.pc.toNat]
  else [1, if yielding r.lanes then 1 else 0, 32 - r.lanes.length, r.pc.toNat]

/-- The lane mask of a PC group. -/
def laneMask (ts : List Thread) : Nat := maskOf (ts.map (·.lane))

/-- What an issue leaves behind: its PC group is no longer aged, and its lanes have issued in this step (R17). -/
def State.issuedAt (s : State) (g : LaneGroup) (r : Ready) : State :=
  { r.after with
    groups := r.after.groups.map fun (x : LaneGroup) => if x.id = g.id then { x with aged := x.aged.filter fun p => p != r.pc } else x
    threads := r.after.threads.map fun (t : Thread) =>
      if r.lanes.any fun u => u.uid == t.uid then { t with lastIss := s.stepNo } else t }

/-- A lane group is selected: what is left of its YIELDs counts down, on an ensign core those of all threads of the core (R231). -/
def State.countYields (s : State) (g : LaneGroup) : State :=
  let here := fun (t : Thread) => t.gid == g.id || (isEnsign g.core && s.groups.any fun x => x.id == t.gid && x.core == g.core)
  { s with threads := s.threads.map fun (t : Thread) => if here t then { t with yields := t.yields - 1 } else t }

/-- A selection of a lane group (R17): A issues, and B stands by for the same cycle unless both chains need the M or the X pipe.
DEDUCED (notes/assumptions/9.md). -/
def State.selectFrom (s0 : State) (g : LaneGroup) : Option State :=
  let s := s0.countYields g
  match sortKey (rankOf g) (s.readyGroups g) with
  | [] => none
  | a :: rest =>
      let s1 := s.issuedAt g a
      some { s1 with
        second := match rest with
          | b :: _ => if (a.usesM && b.usesM) || (a.usesX && b.usesX) then none else some (g.id, b.pc, laneMask b.lanes)
          | [] => none
        lastSel := mput 0 (mput 0 s1.lastSel (2 * g.core + g.sched) (g.id + 1)) 1001 (2 * g.core + g.sched + 1) }

/-- On an ensign core, does a hardware thread that yields give way to another that is ready (R231)? -/
def State.givesWay (s : State) (g : LaneGroup) : Bool :=
  isEnsign g.core && ((s.liveLanes g).all fun t => t.yields > 1) && s.groups.any fun x =>
    x.core == g.core && x.id != g.id && !((s.liveLanes x).all fun t => t.yields > 1) && !(s.readyGroups x).isEmpty

/-- The chain that stands by issues in its lanes. -/
def State.issueSecond (s : State) : Option State :=
  match s.second with
  | none => none
  | some (gid, pc, mask) => match s.groups.find? fun g => g.id == gid with
    | none => none
    | some g =>
        let s0 : State := { s with second := none }
        (s0.readyAt g ((s0.liveLanes g).filter fun t => t.pc == pc && bitOf mask t.lane)).map fun r => s0.issuedAt g r

/-- A PC group is aged while its lanes are ready (R16): where none is any more, its PC is no longer that of an aged group. -/
def State.stillAged (s : State) : State :=
  if s.groups.all (·.aged.isEmpty) then s
  else { s with groups := s.groups.map fun (g : LaneGroup) =>
    if g.aged.isEmpty then g else { g with aged := g.aged.filter ((s.readyGroups g).map (·.pc)).contains } }

/-- Lane groups in round-robin order after the one selected last, those with an aged PC group first (R16). -/
def State.inTurn (s : State) (core sched : Nat) : List LaneGroup :=
  let last := mget 0 s.lastSel (2 * core + sched)
  sortKey (fun (g : LaneGroup) => [if g.aged.isEmpty then 1 else 0, if g.id + 1 > last then 0 else 1, g.id])
    (s.groups.filter fun g => g.core == core && g.sched == sched)

/-- Tries what a list names until something acts. -/
def firstActing (f : α → Option State) : List α → Option State
  | [] => none
  | x :: xs => match f x with
    | some s => some s
    | none => firstActing f xs

/-- The schedulers that own lane groups, from the one after the last selected on. -/
def State.schedulers (s : State) : List (Nat × Nat) :=
  let all := ((s.groups.filter fun g => g.core < 270).map fun g => 2 * g.core + g.sched).eraseDups
  (sortKey (fun (k : Nat) => [if k + 1 > mget 0 s.lastSel 1001 then 0 else 1, k]) all).map fun k => (k / 2, k % 2)

/-- A thread whose trap is raised takes it before its next chain (R57, R224). -/
def State.pendingTrap (s : State) : Option State :=
  (s.threads.find? fun t => !t.pend.isEmpty && t.park.isNone && ((s.wg? t.wg).map (·.state)) == some .resident).map fun t => s.takePend t.uid

/-- The turn of the threads: a pending trap, the chain that stands by, or a selection. -/
def State.threadTurn (s : State) : Option State :=
  if s.boot ≠ .ready then none
  else match s.pendingTrap with
    | some s1 => some s1
    | none => match s.issueSecond with
      | some s1 => some s1
      | none => firstActing (fun k => firstActing (fun g => if s.givesWay g then none else s.selectFrom g) (s.inTurn k.1 k.2)) s.schedulers

/-! ## Sequencers (R311, R315, R322) -/

/-- The words of a matrix instruction. -/
def matrixWords (w : Nat) : Nat := if [2, 3, 5].contains (fld w 24 7) then 2 else 1

/-- Does the first word of a matrix instruction alone make it illegal (R175): its opcode, a bit that is to be zero, or the B reservation of a
chunk that reads a weight tile (R319)? -/
def firstIllegal (w0 : Nat) : Bool :=
  match decodeMatrix w0 0 with
  | .error _ => true
  | .ok i => ((chunkOf i).map fun c => c.w && c.bid != 0).getD false

/-- A word of a running stream, read as a plain load at .dev through the core's L1 (R311). -/
def State.seqFetch (s : State) (w : Wg) (c : Stream) (pc : Nat) : (Except XFault Nat) × State :=
  match s.l1Load w.core (s.asidOf w.id) ((c.va + 4 * pc) % 2 ^ 52) 4 .dev with
  | (.ok bs, s1) => (.ok (leNat bs), s1)
  | (.error f, s1) => (.error f, s1)

/-- A fetch that faults is sent as a page request, and the sequencer stalls. -/
def State.seqFault (s : State) (w : Wg) (c : Stream) (pc : Nat) (f : XFault) : State :=
  let (id, s1) := s.newFault (s.asidOf w.id) (.seq w.id) ((c.va + 4 * pc) % 2 ^ 52) 5 f true c.tid (BitVec.ofNat 32 w.index) 0 []
  s1.updSeq w.id fun q => { q with st := .stalled, fault := some id }

/-- A matrix instruction executes, and a loop body that has ended goes back (R322). -/
def State.seqExec (s : State) (w : Wg) (i : Instr) (n : Nat) : State :=
  let s1 := ({ s with seqWg := w.id } : State).updSeq w.id fun q => { q with pc := q.pc + n }
  (landed s1 (exec i s1)).updSeq w.id fun q => q.loopBack 5

/-- One instruction of a running sequencer. -/
def State.seqIssue (s : State) (w : Wg) (q : Seq) (c : Stream) : State :=
  match s.seqFetch w c q.pc with
  | (.error f, s1) => s1.seqFault w c q.pc f
  | (.ok w0, s1) =>
      if firstIllegal w0 then s1.seqTrap w.id 1 q.pc
      else if matrixWords w0 = 1 then
        (match decodeMatrix w0 0 with
         | .error _ => s1.seqTrap w.id 1 q.pc
         | .ok i => s1.seqExec w i 1)
      else if q.loops.any fun l => l.stop == q.pc + 1 then s1.seqTrap w.id 1 q.pc
      else match s1.seqFetch w c (q.pc + 1) with
        | (.error f, s2) => s2.seqFault w c (q.pc + 1) f
        | (.ok w1, s2) => match decodeMatrix w0 w1 with
          | .error _ => s2.seqTrap w.id 1 q.pc
          | .ok i => s2.seqExec w i 2

/-- The turn of the sequencers, round-robin. -/
def State.seqTurn (s : State) : Option State :=
  if s.boot ≠ .ready then none
  else
    let last := mget 0 s.lastSel 1000
    let can := s.wgs.filter fun w => w.state == .resident && !s.stalled (s.asidOf w.id) && (match w.seq with
      | some q => q.st == .running && !q.wait && q.cur.isSome && q.fault.isNone
      | none => false)
    match sortKey (fun (w : Wg) => [if w.id + 1 > last then 0 else 1, w.id]) can with
    | [] => none
    | w :: _ => match w.seq.bind fun q => q.cur.map fun c => (q, c) with
      | none => none
      | some (q, c) =>
          let s1 := s.seqIssue w q c
          some { s1 with lastSel := mput 0 s1.lastSel 1000 (w.id + 1) }

/-! ## Events to come and inputs -/

/-- Does an event act whatever the boot state: resets, the loss of power, the mailbox and the black box (R430, R431, R436, R443)? -/
def whenDown : Instr → Bool
  | .coldReset | .warmReset | .powerLoss | .attest _ | .getMeas _ | .update _ | .commitSvn _ | .xferOwner _ | .setConfig _ | .bbxRead _
  | .bbxSave _ | .fabric _ | .bmcBbxSave | .bbxPersistComplete => true
  | _ => false

/-- Does an event act now? Before boot has ended, in recovery and after a thermal trip the rest of the device stands (R429, R431). -/
def State.acts (s : State) (i : Instr) : Bool := s.boot == .ready || whenDown i

/-- The first event of the agenda that acts now. -/
def State.nextEvent (s : State) : Option State :=
  (s.agenda.find? s.acts).map fun i =>
    let s1 : State := { s with agenda := s.agenda.erase i }
    landed s1 (exec i s1)

/-- The event of a register write, before anything else (R445). -/
def State.writeFirst (s : State) : Option State :=
  if (s.agenda.head?.map fun i => isWriteEvent i && s.acts i).getD false then s.nextEvent else none

/-- What an input does. -/
def State.input (s : State) : Input → Host.Outcome State Fault Refusal
  | .ev i => if s.acts i then exec i s else .next s
  | .mmio bar off v => .next (s.mmio bar off v)
  | .bmc idx => .next (s.bmcRead idx)
  | .doe vendor ty bs => .next (s.doe vendor ty bs)
  | .hostRead pa len => .next (s.hostRead pa len)
  | .memError key hard => .next (s.memError key hard)
  | .flashFail => .next { s with flashBad := true }
  | .sensor power temp => .next (s.sensor power temp)

/-- The first input that has come and does not wait at its port, with the rest. -/
def takeDue (due : Nat × Input → Bool) : List (Nat × Input) → Option (Input × List (Nat × Input))
  | [] => none
  | p :: ps => if due p then some (p.2, ps) else (takeDue due ps).map fun x => (x.1, p :: x.2)

/-- The next input. -/
def State.nextInput (s : State) : Option (Input × State) :=
  (takeDue (fun p => decide (p.1 ≤ s.stepNo) && !s.atPort p.2) s.inputs).map fun x => (x.1, { s with inputs := x.2 })

/-! ## Time (R361) -/

/-- Is every workgroup on a core halted, and is there one (R98)? -/
def State.allHalted (s : State) (core : Nat) : Bool :=
  let ws := s.wgs.filter fun w => w.core == core && w.holds
  !ws.isEmpty && ws.all (·.state == .halted)

/-- Contexts that have work: launches, graphs or commands. -/
def State.busyCtxs (s : State) : List Nat :=
  ((s.launches.map (·.asid) ++ s.graphs.map (·.asid) ++ s.cmds.map (·.asid)).filter (· < mgmtAsid 0)).eraseDups

/-- Does the timer of a clock key run: the checkpoints of a context (R375), a slice of shared clusters (R412), the idle time of a VF (R420),
the watchdog of a context (R383)? -/
def State.clockRuns (s : State) (k : Nat) : Bool :=
  let n := k / 4
  if k % 4 = 0 then s.takesCkp n
  else if k % 4 = 1 then s.slices.any fun p => p.2 == n + 1 && (s.nextHolder n p.1).isSome
  else if k % 4 = 2 then s.wakeClass n ≠ 0 && !s.inhibit n && s.wakeState (n + 1) == 0 && s.isIdle (n + 1)
  else s.rregN (feOf n) (0x0A00 + 8 * (n % 64) + 5) != 0 && s.deadlocked n

/-- The clock of an instance's predictions (R141). -/
def predictKey (slot sq : Nat) : Nat := 8192 + 64 * slot + sq % 64

/-- The clocks that may run, in ascending order of their keys. -/
def State.clockKeys (s : State) : List Nat :=
  let a := s.busyCtxs
  a.map (4 * ·) ++ a.map (4 * · + 3) ++ (if s.slices.isEmpty then [] else (upFrom 0 17).map (4 * · + 1))
    ++ ((upFrom 0 16).filter fun n => s.wakeClass n != 0).map (4 * · + 2)

/-- Timers whose condition holds go on or start; the others stop. -/
def State.keepTime (s : State) : State :=
  { s with clocks := ((s.clockKeys.filter s.clockRuns) ++ (s.predicted.map fun p => predictKey p.1 p.2.1)
      ++ (if s.hot then [fallKey] else []) ++ if s.recovers then [riseKey] else []).foldl (fun m k =>
      mput 0 m k (if mget 0 s.clocks k = 0 then s.dlc + 1 else mget 0 s.clocks k)) [] }

/-- The L1 lines of the cores whose workgroups are all halted, and some are: their limits stop, so that the moments from which these count
move on (R98). -/
def State.heldLines (s : State) : List L1Line :=
  if s.wgs.all fun w => w.state != .halted then s.l1
  else s.l1.map fun (l : L1Line) => if s.allHalted l.core then
    { l with filledAt := l.filledAt + Config.coreCycles l.core s.stepNo, dirtyAt := l.dirtyAt + Config.coreCycles l.core s.stepNo } else l

/-- The limits of an L1 line that have run out in core cycles (R98): it is written back, and a narrow one leaves the L1. -/
def State.lineLimits (s : State) (l : L1Line) : State :=
  let now := s.cycleCount l.core
  let s1 := if l.dirty ≠ 0 && decide (l.dirtyAt + 16384 ≤ now) then landed s (execL1DirtyTimeout l.core l.asid l.va s) else s
  if Scope.narrow l.sc && decide (l.filledAt + 65536 ≤ now) then landed s1 (execL1NarrowTimeout l.core l.asid l.va s1) else s1

/-- The limits of every line whose core is not halted as a whole. -/
def State.allLimits (s : State) : State := if s.boot ≠ .ready then s else s.over (s.l1.filter fun l => !s.allHalted l.core) State.lineLimits

/-- The time for which a context with PROTECT has run counts towards its HAL_CKPER (R380). -/
def State.runProtect (s : State) (d : Nat) : State :=
  s.over (s.protect.filter fun p => p.2 != 0 && s.wgs.any fun w => w.state == .resident && s.asidOf w.id == p.1) fun s p =>
    ({ s with protect := mput 0 s.protect p.1 (p.2 + 2 * d) } : State).protectEnds p.1

/-- Time in a step (R361): what the source gives is corrected by RATE, with its fraction carried; while a negative step is absorbed the
counter stands. DESIGN CHOICE (notes/assumptions/7.md). -/
def State.tick (s : State) : State :=
  let rate := (s.rreg 0 0x0C02).toInt
  let src := Config.dlcTicks s.stepNo
  let add := s.frac + src * 2 ^ 32 * (1000000000000 + rate).toNat / 1000000000000
  ({ s with
    stepNo := s.stepNo + 1
    l1 := s.heldLines
    dlc := if s.holdLeft = 0 then s.dlc + add / 2 ^ 32 else s.dlc
    frac := if s.holdLeft = 0 then add % 2 ^ 32 else s.frac
    holdLeft := if s.holdLeft = 0 then 0 else max 1 (s.holdLeft - src) } : State).allLimits.stillAged.keepTime.runProtect
      (if s.holdLeft = 0 then add / 2 ^ 32 else 0)

/-! ## Timers -/

/-- What happens on its own: a bin timer, the timer of a REORDER round, the two limits of an L1 line, the opening of a strip stage's window, a
prediction, or an event. -/
inductive Timer where
  | bin (core num : Nat) | round (wg : Nat) | dirty (core asid line : Nat) | narrow (core asid line : Nat)
  | window (slot sq stage : Nat) | predict (slot sq : Nat) (runs : Bool) | ev (i : Instr)

/-- The timers of the bins and REORDER rounds of resident workgroups with their moments (R23, R31, R43). -/
def State.groupTimers (s : State) : List (Nat × Timer) :=
  ((s.bins.filter fun b => b.core < 252 && b.running &&
      ((s.wg? b.wg).map fun w => w.state == .resident).getD false).map fun b => (b.since + s.binPeriod b.wg, Timer.bin b.core b.num))
    ++ (s.wgs.filter (·.state == .resident)).filterMap fun w => w.round.map fun r => (r.since + s.binPeriod w.id, Timer.round w.id)

/-- The timers of the clocks (R375, R383, R412, R420). -/
def State.clockTimers (s : State) : List (Nat × Timer) :=
  (s.clocks.filter fun p => decide (p.1 < 8192)).filterMap fun p =>
    let n := p.1 / 4
    let at' := fun (view idx : Nat) => p.2 - 1 + micros (s.rregN view idx)
    if p.1 % 4 = 0 then (if s.ckpPending n then none else some (at' (feOf n) (0x0A00 + 8 * (n % 64)), .ev (.checkpoint n)))
    else if p.1 % 4 = 1 then
      (if s.busyCtxs.any fun a => feOf a == n && s.protected' a then none else some (at' 0 (0x1003 + 8 * n), .ev (.sliceEnd n)))
    else if p.1 % 4 = 2 then (if s.collapseHeld n then none else some (at' (n + 1) 0x1802, .ev (.idleCollapse n)))
    else some (at' (feOf n) (0x0A00 + 8 * (n % 64) + 5), .ev (.watchdogFire n))

/-- The throttle cap's fall and rise (R428). -/
def State.powerTimers (s : State) : List (Nat × Timer) :=
  s.clocks.filterMap fun p => if p.1 = fallKey then some (p.2 - 1 + micros 1000, .ev .throttleDown)
    else if p.1 = riseKey then some (p.2 - 1 + micros 10000, .ev .throttleUp) else none

/-- The windows of strip stages that open (R366), and the predictions, one in 8 µs (R141). -/
def State.stripTimers (s : State) : List (Nat × Timer) :=
  (s.openings'.map fun w => (w.1, Timer.window w.2.1 w.2.2.1 w.2.2.2))
    ++ s.predicted.map fun p => (mget 0 s.clocks (predictKey p.1 p.2.1) - 1 + micros 8, Timer.predict p.1 p.2.1 p.2.2)

/-- The wakes before reservations: the next opening of the streams of a VF that collapses or has collapsed minus the wake bound (R422, R423). -/
def State.wakeTimers (s : State) : List (Nat × Timer) :=
  ((upFrom 0 16).filter fun n => [1, 2, 4].contains (s.wakeState (n + 1))).filterMap fun n =>
    (sortKey (fun (t : Nat) => [t]) (s.openings (n + 1))).head?.map fun t => (t - s.wakeBound (n + 1), .ev (.reservationWake n))

/-- Units that wait for a core, with the moments from which they pre-empt (R358). -/
def State.wanting (s : State) : List (Nat × Timer) :=
  (s.wgs.filter fun w => w.state == .waiting || w.state == .saved).filterMap fun w => match (s.launch? w.launch).map fun (l : Launch) => l.prio with
    | some Prio.high => some (w.since + patience .high, .ev (.highPriorityPreempt w.id))
    | some Prio.normal => some (w.since + patience .normal, .ev (.normalPriorityPreempt w.id))
    | _ => none

/-- The reads that waits of threads on their cores make 1 µs after their last (R246, R269). -/
def State.waitTimers (s : State) : List (Nat × Timer) :=
  (s.threads.filter fun t => ((s.wg? t.wg).map (·.state)) == some .resident).filterMap fun t => match t.park with
    | some (.mon _ pa _ _ _ last) =>
        if homeOf pa = .peer || homeOf pa = .host then some (last + micros 1, .ev (.monwaitPoll t.uid)) else none
    | some (.cpl _ _ _ _ _ _ last) => some (last + micros 1, .ev (.cplwaitPoll t.uid))
    | _ => none

/-- Everything that has a moment of the deadline counter. -/
def State.dues (s : State) : List (Nat × Timer) :=
  s.groupTimers ++ s.waitTimers ++ s.clockTimers ++ s.powerTimers ++ s.stripTimers ++ s.wakeTimers ++ (s.timed.map fun p => (p.1, Timer.ev p.2)).toList
    ++ s.wanting.filter fun p => decide (s.dlc < p.1)

/-- The limits of L1 lines (R98), which may run out where nothing else acts. DESIGN CHOICE (notes/assumptions/11.md). -/
def State.lineTimers (s : State) : List Timer :=
  (s.l1.filter fun l => !s.allHalted l.core).flatMap fun l =>
    (if l.dirty ≠ 0 then [.dirty l.core l.asid l.va] else []) ++ (if Scope.narrow l.sc then [.narrow l.core l.asid l.va] else [])

/-- EXTWAIT nodes that read again; those of a collapsed VF do not (R421). -/
def State.polls (s : State) : List Timer :=
  (s.graphs.filter fun g => s.wakeState (feOf g.asid) == 0).flatMap fun g => ((upFrom 0 g.nodes.length).zip g.nodes).filterMap fun p =>
      if p.2.waits then some (.ev (.extwaitNode g.id p.1)) else none

/-- The deep state (R424), and the end of an absorbed step (R361). -/
def State.otherTimers (s : State) (idle : Bool) : List Timer :=
  (if s.mayDeep then [.ev .deepStateEntry] else [])
    ++ (if s.holdLeft = 1 || (idle && s.holdLeft ≠ 0) then [.ev .stepHoldEnd] else [])

/-- The timers that expire now; where nothing else acts, time passes to the earliest moment to come, unless the counter is held (R361).
DESIGN CHOICE (notes/assumptions/11.md). -/
def State.timers (s : State) (idle : Bool) : List (Nat × Timer) :=
  let all := sortKey (fun (p : Nat × Timer) => [p.1]) s.dues
  let due := all.filter fun p => decide (p.1 ≤ s.dlc)
  (s.polls ++ s.otherTimers idle ++ if idle then s.lineTimers else []).map (fun x => (0, x)) ++ (s.wanting.filter fun p => decide (p.1 ≤ s.dlc))
    ++ (if due.isEmpty && idle && s.holdLeft = 0 then all.take 1 else due)

/-- A timer expires, at its moment or as soon after it as time has come. -/
def State.expire (s : State) (p : Nat × Timer) : State :=
  let s0 := (s.reach p.1).runProtect ((s.reach p.1).dlc - s.dlc)
  match p.2 with
  | .bin core num => landed s0 (execBinTimerExpiry core num s0)
  | .round wg => landed s0 (execReorderTimerExpiry wg s0)
  | .dirty core asid line => landed s0 (execL1DirtyTimeout core asid line s0)
  | .narrow core asid line => landed s0 (execL1NarrowTimeout core asid line s0)
  | .window slot sq stage => s0.openWindow slot sq stage
  | .predict slot sq runs =>
      let s1 : State := { s0 with clocks := mput 0 s0.clocks (predictKey slot sq) (s0.dlc + 1) }
      if runs then landed s1 (execShadingRatePrediction slot sq s1) else s1
  | .ev i => landed s0 (exec i s0)

/-- One of the timers, in rotation. -/
def State.timerTurn (s : State) (idle : Bool) : Option State :=
  if s.boot ≠ .ready then none
  else
    let ts := s.timers idle
    (ts[s.timerNo % ts.length]?).map ({ s with timerNo := s.timerNo + 1 } : State).expire

/-! ## The turn -/

/-- What the machine itself does next, beginning with source `k`: 0 the agenda, 1 the threads, 2 the sequencers. -/
def State.source (s : State) (k : Nat) : Option State :=
  if k % 3 = 0 then s.nextEvent else if k % 3 = 1 then s.threadTurn else s.seqTurn

/-- The three sources in turn, and the timers when none of them can act, and once in 64 steps. DESIGN CHOICE (notes/assumptions/8.md). -/
def State.ownTurn (s : State) : State :=
  let own := match firstActing (fun k => (s.source k).map fun s1 => { s1 with turn := (k + 1) % 3 }) [s.turn, s.turn + 1, s.turn + 2] with
    | some s1 => some s1
    | none => s.timerTurn true
  if s.stepNo % 64 = 63 then ((s.timerTurn false).orElse fun _ => own).getD s else own.getD s

end Sys2Proof.Machine
end

