-- ==== Sys2Proof/Machine/Load.lean ====
section
/-! DEFINITION. A program that a host has brought to the point of running (R274 to R278, R356, R431): the device has booted, front end 0
translates context 0 one to one, and a workgroup of one thread, or of a sequencer with a stream, is placed on core 0. It stands for the
load of a program (notes/assumptions/22.md). -/

namespace Sys2Proof.Machine

/-- Where the first packet of the program lies, and the trap entry. -/
def loadAt : Nat := 0x600
def loadTrap : Nat := 0x900

/-- The tables of both stages: a root, a table, and a leaf of 1 GiB with every permission, at address 0. -/
def loadTables (m : Mem) : Mem :=
  let put := fun (m : Mem) (a v : Nat) => mputs 0#8 m a (bytesOf 8 v)
  put (put (put (put m 0x200000 0x300003) 0x300000 0x7D) 0x400000 0x500003) 0x500000 0x7D

/-- The launch: every register, traversal stacks of 8 entries, a matrix workgroup with a small operand buffer, level U. -/
def loadLaunch (id : Nat) : Launch :=
  { id := id, asid := 0, level := .u, regs := 120, wgsize := 1, scratch := 4096, gangSize := 0, rstack := 8, binTimer := 64, obuf := 64
    ensign := false, isMatrix := true, consts := List.replicate 32 0, trap := some (BitVec.ofNat 64 loadTrap), groups := []
    entry := BitVec.ofNat 64 loadAt, code := (loadAt, 0x600), cring := 0, crcap := 0, prio := .normal, graph := 0, node := 0, shade := none
    placed := true, sysScope := false }

/-- The workgroup, its sequencer running a stream at the program where there is one. -/
def loadWg (id launch uid : Nat) (stream : Bool) : Wg :=
  let q := newSeq 0
  { id := id, index := 0, launch := launch, core := 0, state := .resident, base := 0, spad := [], obase := 0, obuf := [], resv := []
    queues := Vector.replicate 16 .none, spawnCt := 1, ringRd := 0, ringWr := 0, ringOk := 0, ring := [], paused := false, round := none
    seq := some (if stream then { q with st := .running, cur := some ⟨loadAt, 0xFFFF, 0, uid, 0⟩ } else q)
    gang := none, cplWords := [], opened := 0, since := 0 }

/-- Is the word at the front a matrix word alone? DESIGN CHOICE (notes/assumptions/13.md). -/
def matrixOnly (nbits w : Nat) : Bool :=
  match decodeThread (fld (w % 2 ^ nbits) 0 32) (some (fld (w % 2 ^ nbits) 32 32)) with
  | .ok _ => false
  | .error _ => match decodeMatrix (fld (w % 2 ^ nbits) 0 32) (fld (w % 2 ^ nbits) 32 32) with
    | .ok _ => true
    | .error _ => false

/-- The bytes of the words of an instruction, the words above zero, at an address. -/
def loadBytes (m : Mem) (a nbits w : Nat) : Mem := mputs 0#8 m a (bytesOf 12 (w % 2 ^ nbits))

/-- The loaded machine: nothing else is under way, and the next step runs the instruction. DESIGN CHOICE (notes/assumptions/22.md). -/
def State.loaded (s : State) (nbits w : Nat) : State :=
  let stream := matrixOnly nbits w
  let n := s.fresh
  let seed : Seed := ⟨false, BitVec.ofNat 64 loadAt, 0#32, [], 0, false, false, none⟩
  { s with
    boot := .ready, fresh := n + 5, stepNo := 0, inputs := [], agenda := [], second := none, turn := if stream then 2 else 1
    regs := regPut (regPut (regPut (regPut s.regs (regKey 0 0x1C00) 0x200000#32) (regKey 0 0x1C01) 0#32) (regKey 0 0x1E00) 0x400000#32)
      (regKey 0 0x1E01) 0#32
    mem := loadBytes (loadTables s.mem) loadAt nbits w
    tlb := [], l1 := [], icache := [], stalls := [], halts := [], faults := [], devq := [], ops := [], bins := [], undo := [], ckps := []
    launches := [loadLaunch n], wgs := [loadWg (n + 1) n (n + 3) stream], groups := [⟨n + 2, 0, 0, n + 1, []⟩]
    threads := [newThread (n + 3) (n + 1) (n + 2) 0 seed] }

end Sys2Proof.Machine
end

