-- ==== Sys2Proof/Machine/Step.lean ====
section
/-! DEFINITION. One step of the machine: time moves on; then comes what a register's write began, or an input, or the machine's own next move. -/

namespace Sys2Proof.Machine

/-- One step. DESIGN CHOICE (notes/assumptions/8.md). -/
def step (s : State) : Host.Outcome State Fault Refusal :=
  match s.tick.writeFirst with
  | some t => .next t
  | none => match s.tick.nextInput with
    | some (i, t) => t.input i
    | none => .next s.tick.ownTurn

/-- The machine with an instruction placed where the next step fetches. -/
def State.withFetchWord (s : State) (nbits w : Nat) : State := s.loaded nbits w

end Sys2Proof.Machine
end

