-- ==== Sys2Proof/Safety.lean ====
section
/-! DEFINITION. What the model holds to be a well-kept machine and a safe step, and the words in which the statements speak: lanes in which
an instruction takes effect, what it may read, and the state in which only those lanes have changed. -/

namespace Sys2Proof.Machine

/-- What a state keeps: memory is in canonical form, the measurement register has 64 bytes (R434), and the black-box ring holds at most
1,024 events (R442). -/
def State.wellKept (s : State) : Bool := Mem.wf s.mem && s.meas.length == 64 && decide (s.box.length ≤ 1024)

/-- A step is safe when it answers a next state: no step of the machine faults or is refused. -/
def safeStep (s : State) : Prop := ∃ t, step s = .next t

/-! ## The words of the statements -/

/-- No two threads of the issuing lanes bear one name. -/
abbrev State.apart (s : State) : Prop := (s.iss.lanes.map (·.uid)).Nodup

/-- The words of a matrix stream (R321 to R326). -/
def Instr.inStream : Instr → Bool
  | .mnop | .mzero .. | .mmac .. | .mbin .. | .mrenorm .. | .mexport .. | .mwait .. | .msig .. | .mloop .. | .mend | .mphase ..
  | .mstep .. => true
  | _ => false

/-- An instruction of threads: it has words, and they are not those of a matrix stream. -/
def Instr.forThreads (i : Instr) : Bool := !(encode i).isEmpty && !Instr.inStream i

/-- An instruction whose words make no lane trap (R46, R171), in lanes with names of their own. -/
abbrev State.canIssue (s : State) (i : Instr) : Prop := s.issueCause i = none ∧ s.apart

/-- No acting lane reads a poisoned register through these operands (R50). -/
abbrev State.reads (s : State) (g : Pred) (os : List Opnd) : Prop := ∀ t ∈ s.acting g, os.any t.opPois = false

/-- The state with other threads. -/
def State.withThreads (s : State) (ts : List Thread) : State := { s with threads := ts }

/-- The state in which the threads named in a list have changed, each by what `f` says of its snapshot and itself, and nothing else. -/
def State.inThreads (s : State) (ts : List Thread) (f : Thread → Thread → Thread) : State :=
  s.withThreads (s.threads.map fun u => match ts.find? fun t => t.uid == u.uid with
    | some t => f t u
    | none => u)

/-- The same for the acting lanes. -/
def State.inLanes (s : State) (g : Pred) (f : Thread → Thread → Thread) : State := s.inThreads (s.acting g) f

/-- A thread in which flags were raised (R57): they stick, and an enabled one leaves a trap for before the next instruction. -/
def State.raised (s : State) (u : Thread) (fl : Flags) : Thread :=
  { u with
    xfl := u.xfl ||| fl
    pend := if fl &&& s.fenableOf u.wg = 0 || u.pend.any (·.cause == 5) then u.pend
            else u.pend ++ [⟨5, s.iss.slot, s.iss.instrAddr⟩] }

/-- What a destination register, or pair, held before the chain; vzero reads 0 (R48). -/
def Thread.old (t : Thread) (d : Dst) : Word :=
  match d with
  | .v r => t.val r.val
  | .zero => 0
def Thread.old2 (t : Thread) (d : Dst) : DWord :=
  match d with
  | .v r => pairOf (t.val r.val) (t.val (r.val + 1))
  | .zero => 0

/-- The instruction completes with a result and flags in each acting lane, written clean to the destination, and nothing else changes. -/
def State.laneResult (s : State) (i : Instr) (g : Pred) (d : Dst) (w : Bool) (f : Thread → DWord × Flags) : Prop :=
  s.canIssue i → s.reads g i.srcs →
    exec i s = .next (s.inLanes g fun t u => s.raised ((u.wrW w d (f t).1).trimLog) (f t).2)

/-- The same with a 32-bit result, or a 64-bit one, and no flag. -/
def State.wordResult (s : State) (i : Instr) (g : Pred) (d : Dst) (f : Thread → Word) : Prop :=
  s.laneResult i g d false fun t => ((f t).setWidth 64, 0)
def State.pairResult (s : State) (i : Instr) (g : Pred) (d : Dst) (f : Thread → DWord) : Prop :=
  s.laneResult i g d true fun t => (f t, 0)

/-- The same with a float result: a code and flags. -/
def State.floatResult (s : State) (i : Instr) (g : Pred) (d : Dst) (w : Bool) (f : Thread → Nat × Flags) : Prop :=
  s.laneResult i g d w fun t => (BitVec.ofNat 64 (f t).1, (f t).2)

/-- A compare completes: each acting lane writes its predicate and raises its flags (R57, R187). -/
def State.predResult (s : State) (i : Instr) (g p : Pred) (f : Thread → Bool × Flags) : Prop :=
  s.canIssue i → s.reads g i.srcs → exec i s = .next (s.inLanes g fun t u => s.raised (u.setPred p (f t).1) (f t).2)

/-- An instruction completes that changes threads alone and consumes no register that could be poisoned. -/
def State.laneEffect (s : State) (i : Instr) (g : Pred) (f : Thread → Thread → Thread) : Prop :=
  s.canIssue i → exec i s = .next (s.inLanes g f)

/-- The instruction may issue and acts in one lane alone. -/
abbrev State.alone (s : State) (i : Instr) (g : Pred) (t : Thread) : Prop :=
  s.canIssue i ∧ s.acting g = [t] ∧ s.thr? t.uid = some t

/-- The issued operation: it joins those in flight, and its completion is an event to come (R219). -/
def State.withOp (s : State) (i : Instr) (cls : OpClass) (done : Nat → Instr) (ls : List LaneAcc) : State :=
  if ls = [] then s
  else { s with
    ops := s.ops ++ [⟨s.fresh, i, s.iss.core, s.issWg, s.issAsid, cls, s.iss.slot, [], ls⟩], fresh := s.fresh + 1, agenda := s.agenda ++ [done s.fresh] }

/-- The lanes of a list issue an operation together: each raises the counter of the class (R53), and nothing else changes. -/
def State.opIssues (s : State) (ts : List Thread) (i : Instr) (cls : OpClass) (done : Nat → Instr) (acc : Thread → LaneAcc) : State :=
  (s.inThreads ts fun _ u => u.raiseCnt cls).withOp i cls done (ts.map acc)

/-- No lane of a list reads poison through some operands, and each has room in the counter of a class. -/
abbrev State.ready (_ : State) (ts : List Thread) (os : List Opnd) (cls : OpClass) : Prop :=
  ∀ t ∈ ts, os.any t.opPois = false ∧ t.cnt cls < 63

/-- A global address that an access of `n` bytes at a scope may use (R89, R113). -/
abbrev Thread.mayReach (t : Thread) (n : Nat) (sc : Scope) (a : DWord) : Prop :=
  a.toNat % n = 0 ∧ a.toNat < 2 ^ 52 ∧ (t.tx.isSome = true → Scope.num sc < 4)

/-- Plain memory for a context: it takes no checkpoints, no line is shadowed (R111), and none holds an error (R450). -/
abbrev State.plain (s : State) (asid : Nat) : Prop := s.takesCkp asid = false ∧ s.shadows = [] ∧ s.ecc = []

/-- A cached translation of an access to DRAM of the device. -/
abbrev State.maps (s : State) (cluster asid va : Nat) (acc : XAcc) (key : Nat) : Prop :=
  key + 8 ≤ 2 ^ 40 ∧ va < 2 ^ 52 ∧ cluster < 40
    ∧ (s.tlb.find? fun e => e.cluster == cluster && e.asid == asid && decide (e.va ≤ va) && decide (va < e.va + 2 ^ e.bits)
      && e.grants acc).map (fun e => e.pa + (va - e.va)) = some key

/-- The L2 has filled, for a front end, the line of a byte of DRAM that was read (R8, R411). -/
def State.seen (s : State) (asid key : Nat) : State := s.l2Fill (asid / 64) (key / 128 * 128)

/-- A thread that may take a trap into its handler: it is in none, its launch has a trap entry, and it is in no revocable transaction. -/
abbrev State.mayTrap (s : State) (t : Thread) (entry : DWord) : Prop :=
  t.trap.inh = false ∧ (s.launchOfWg t.wg).bind (·.trap) = some entry ∧ (t.tx.isSome = true → t.st.irrev = true)

/-- A thread in its handler (R221, R223): where it resumes, the offending slot, cause, code and address, and the saved REPST. -/
def Thread.trapped (t : Thread) (entry resume : DWord) (cause oslot code : Nat) (xaddr : DWord) : Thread :=
  { t with
    trap := ⟨packetOf resume, true, slotOf resume, oslot, cause, code, xaddr, t.rep⟩
    rep := ⟨false, 0, 0, 0, 0, 0⟩, park := none, pc := entry }

/-- The one acting lane has trapped at this chain, and the chain's other words have no effect in it (R171). -/
def State.trapsHere (s : State) (t : Thread) (entry : DWord) (cause code : Nat) (xaddr : DWord) : State :=
  { s.updThr t.uid (·.trapped entry s.iss.pc cause s.iss.slot code xaddr) with
    iss := { s.iss with trapped := s.iss.trapped ++ [(t.uid, s.iss.slot)] } }

/-- The guard of an instruction that consumes operands, and those operands: poison in one traps (R187, R220, R402). QPUT and HOIST, which test
their queue first, are not among them. -/
def Instr.consumes : Instr → Option (Pred × List Opnd)
  | .icmp g w _ _ a b => some (g, [.sw w a, .sw w b])
  | .fcmp g _ _ a b | .resv g _ a b _ _ _ _ _ => some (g, [.s a, .s b])
  | .dcmp g _ _ a b | .ldlod g _ a b _ _ _ _ | .vbmin g a b => some (g, [.s2 a, .s2 b])
  | .jmpx g a _ | .ld g _ a _ _ _ | .rstkPush g a => some (g, [.s2 a])
  | .ret g => some (g, [.impl 118 2 false])
  | .spawn g tgt _ _ => some (g, tgt.opnds)
  | .cont g _ n => some (g, if n.val = 0 then [] else [.impl 0 n.val false])
  | .reorder g a _ | .lsp g _ a _ | .rfree g a | .qbind g _ a _ | .syswr g a _ => some (g, [.s a])
  | .st g v a _ _ sz => some (g, [.s2 a, Size.src sz v])
  | .ssp g v a sz => some (g, [.s a, Size.src sz v])
  | .sample g _ a b _ _ e => some (g, [.s2 a, .s2 b, .s e])
  | .atm g _ a b op ty _ _ e => some (g, [.s2 a, .sw ty.wide b] ++ if op = .cas then [.sw ty.wide e] else [])
  | .atms g _ a b op ty e => some (g, [.s a, .sw ty.wide b] ++ if op = .cas then [.sw ty.wide e] else [])
  | .rdm g a b _ ty _ _ => some (g, [.s2 a, .sw ty.wide b])
  | .monwait g v a _ => some (g, [.s2 a, .s v])
  | .cplwait g v a _ _ => some (g, [.s2 a, .s2 v])
  | .seq g a b e => some (g, [.s2 a, .s b, .s e])
  | .rbox g _ a b | .rtri g _ a b _ => some (g, [.sg 8 1 a, .s2 b])
  | _ => none

/-- The guard, the destination and its width (a pair or one register) of an instruction of rows 0x0_ to 0x3_ that computes a result in each
lane from its own registers, and so goes on with poison (R187, R224). -/
def Instr.computes : Instr → Option (Pred × Dst × Bool)
  | .iadd g d _ _ | .isub g d _ _ | .imul g d _ _ | .imulh g d _ _ | .nmulh g d _ _ | .ima g d _ _ | .imin g d _ _ | .imax g d _ _
  | .nmin g d _ _ | .nmax g d _ _ | .isad g d _ _ | .and g d _ _ | .or g d _ _ | .xor g d _ _ | .andn g d _ _ | .shl g d _ _
  | .shr g d _ _ | .sar g d _ _ | .sel g d _ _ | .faddF32 g d _ _ | .fsubF32 g d _ _ | .fmulF32 g d _ _ | .fmaF32 g d _ _
  | .fminF32 g d _ _ | .fmaxF32 g d _ _ | .faddH2 g d _ _ | .fmulH2 g d _ _ | .fmaH2 g d _ _ | .faddB2 g d _ _ | .fmulB2 g d _ _
  | .fmaB2 g d _ _ | .idot4 g d _ _ | .fdot2 g d _ _ | .tern g d _ _ _ _ | .bperm g d _ _ _ | .fsh g d _ _ _ _ | .pcnt g d _ _
  | .clz g d _ _ | .fclass g d _ _ | .bfe g d _ _ _ _ | .bfi g d _ _ _ | .fsf g d _ _ | .convx g d _ _ _ _ | .movhi g d _ =>
      some (g, d, false)
  | .iadd64 g d _ _ | .isub64 g d _ _ | .imul64 g d _ _ | .imaw g d _ _ | .nmaw g d _ _ | .dadd g d _ _ | .dmul g d _ _
  | .dfma g d _ _ => some (g, d, true)
  | .brev g d _ w | .mov g d _ w => some (g, d, w)
  | .fop g d _ _ _ _ ty _ _ => some (g, d, ty.wide)
  | .frnd g d _ _ ty _ => some (g, d, ty == .f64)
  | .conv g d _ _ tt _ => some (g, d, tt.wide)
  | _ => none

end Sys2Proof.Machine
end

