-- ==== Sys2Proof/Certificates/Slice0/Obligations.lean ====
section
/-! DEFINITION. The statements for the provers. `State.wordResult`, `pairResult`, `floatResult` and `laneResult` (Safety.lean) say that an
instruction completes, with one value in each acting lane, and that nothing else changes. -/

open Sys2Proof Sys2Proof.Machine

/-! ## Integer, logic and float computations -/

/-- R190: the sixteen integer instructions. R206: the moves. -/
def Obligations.IntegerResults : Prop :=
  (∀ (s : State) (g : Pred) (d : Dst) (a b : Src),
  let A := fun t => s.src t a
  let B := fun t => s.src t b
  let A2 := fun t => s.src2 t a
  let B2 := fun t => s.src2 t b
  s.wordResult (.iadd g d a b) g d (fun t => A t + B t)
  ∧ s.wordResult (.isub g d a b) g d (fun t => A t - B t)
  ∧ s.wordResult (.imul g d a b) g d (fun t => A t * B t)
  ∧ s.wordResult (.imulh g d a b) g d (fun t => BitVec.ofInt 32 ((A t).toInt * (B t).toInt / 2 ^ 32))
  ∧ s.wordResult (.nmulh g d a b) g d (fun t => BitVec.ofNat 32 ((A t).toNat * (B t).toNat / 2 ^ 32))
  ∧ s.wordResult (.ima g d a b) g d (fun t => A t * B t + t.old d)
  ∧ s.wordResult (.imin g d a b) g d (fun t => if (A t).toInt ≤ (B t).toInt then A t else B t)
  ∧ s.wordResult (.imax g d a b) g d (fun t => if (B t).toInt ≤ (A t).toInt then A t else B t)
  ∧ s.wordResult (.nmin g d a b) g d (fun t => if (A t).toNat ≤ (B t).toNat then A t else B t)
  ∧ s.wordResult (.nmax g d a b) g d (fun t => if (B t).toNat ≤ (A t).toNat then A t else B t)
  ∧ s.wordResult (.isad g d a b) g d (fun t => t.old d + BitVec.ofNat 32 (((List.range 4).map fun i =>
      ((((A t).toNat / 2 ^ (8 * i) % 256 : Nat) : Int) - ((B t).toNat / 2 ^ (8 * i) % 256 : Nat)).natAbs).sum))
  ∧ s.pairResult (.iadd64 g d a b) g d (fun t => A2 t + B2 t)
  ∧ s.pairResult (.isub64 g d a b) g d (fun t => A2 t - B2 t)
  ∧ s.pairResult (.imul64 g d a b) g d (fun t => A2 t * B2 t)
  ∧ s.pairResult (.imaw g d a b) g d (fun t => BitVec.ofInt 64 ((A t).toInt * (B t).toInt) + t.old2 d)
  ∧ s.pairResult (.nmaw g d a b) g d (fun t => BitVec.ofNat 64 ((A t).toNat * (B t).toNat) + t.old2 d))
  ∧ (∀ (s : State) (g : Pred) (d : Dst) (a : Src),
  s.wordResult (.mov g d a false) g d (fun t => s.src t a)
  ∧ s.pairResult (.mov g d a true) g d (fun t => s.src2 t a)
  ∧ (∀ imm : BitVec 14, s.wordResult (.movi g d imm) g d (fun _ => imm.signExtend 32)
    ∧ s.wordResult (.movhi g d imm) g d (fun t => BitVec.ofNat 32 ((t.old d).toNat % 2 ^ 18 + imm.toNat * 2 ^ 18)))
  ∧ ∀ n : BitVec 5,
    let k := fun (t : Thread) i => (((s.launchOfWg t.wg).map (·.consts)).getD []).getD i 0#32
    s.wordResult (.movk g d false n) g d (fun t => k t n.toNat)
    ∧ s.pairResult (.movk g d true n) g d (fun t => pairOf (k t n.toNat) (k t (n.toNat + 1))))

/-- R191: the one-word logic instructions and shifts; PCNT, CLZ and BREV in both widths. R191: counts of bits and reversal, in 32 and 64 bits. R192:
TERN, FSH, BFE, BFI and BPERM, bit by bit and byte by byte. BFE and BFI complete where POS + length is at most 32. -/
def Obligations.BitResults : Prop :=
  (∀ (s : State) (g : Pred) (d : Dst) (a b : Src),
  let A := fun t => s.src t a
  let B := fun t => s.src t b
  s.wordResult (.and g d a b) g d (fun t => A t &&& B t)
  ∧ s.wordResult (.or g d a b) g d (fun t => A t ||| B t)
  ∧ s.wordResult (.xor g d a b) g d (fun t => A t ^^^ B t)
  ∧ s.wordResult (.andn g d a b) g d (fun t => A t &&& ~~~(B t))
  ∧ s.wordResult (.shl g d a b) g d (fun t => if 32 ≤ (B t).toNat then 0 else A t <<< (B t).toNat)
  ∧ s.wordResult (.shr g d a b) g d (fun t => if 32 ≤ (B t).toNat then 0 else A t >>> (B t).toNat)
  ∧ s.wordResult (.sar g d a b) g d (fun t =>
      if 32 ≤ (B t).toNat then (if (A t).msb then 0xFFFFFFFF#32 else 0) else (A t).sshiftRight (B t).toNat)
  ∧ s.wordResult (.sel g d a b) g d (fun t => (A t &&& t.old d) ||| (B t &&& ~~~(t.old d))))
  ∧ (∀ (s : State) (g : Pred) (d : Dst) (a : Src) (w : Bool),
  let n := if w then 64 else 32
  let A := fun t => if w then s.src2 t a else (s.src t a).setWidth 64
  s.wordResult (.pcnt g d a w) g d (fun t => BitVec.ofNat 32 (((List.range n).filter fun i => (A t).getLsbD i).length))
  ∧ (∃ z : DWord → Nat,
      (∀ x : DWord, x.toNat < 2 ^ n → z x ≤ n ∧ (∀ i, n - z x ≤ i → i < n → x.getLsbD i = false)
        ∧ (z x < n → x.getLsbD (n - 1 - z x) = true))
      ∧ s.wordResult (.clz g d a w) g d (fun t => BitVec.ofNat 32 (z (A t))))
  ∧ ∃ r : DWord → DWord,
      (∀ x i, (r x).getLsbD i = (decide (i < n) && x.getLsbD (n - 1 - i)))
      ∧ s.laneResult (.brev g d a w) g d w (fun t => (r (A t), 0)))
  ∧ (∀ (s : State) (g : Pred) (d : Dst) (a b e : Src),
  let A := fun t => s.src t a
  let B := fun t => s.src t b
  let E := fun t => s.src t e
  let byte := fun (x : Nat) (i : Nat) => x / 2 ^ (8 * i) % 256
  (∀ tt : BitVec 8, ∃ f : Word → Word → Word → Word,
      (∀ x y z i, i < 32 →
        (f x y z).getLsbD i = tt.getLsbD (4 * (x.getLsbD i).toNat + 2 * (y.getLsbD i).toNat + (z.getLsbD i).toNat))
      ∧ s.wordResult (.tern g d a b e tt) g d (fun t => f (A t) (B t) (E t)))
  ∧ (∀ (dir : Bool) (m : BitVec 5),
      let f := fun (x y : Word) (n : Nat) => if dir then lo32 (pairOf y x >>> n) else hi32 (pairOf y x <<< n)
      s.wordResult (.fsh g d a b dir (.imm m)) g d (fun t => f (A t) (B t) m.toNat)
      ∧ s.wordResult (.fsh g d a b dir (.reg e)) g d (fun t => f (A t) (B t) ((E t).toNat % 32)))
  ∧ (∀ pos len : BitVec 5,
      let n := if len = 0 then 32 else len.toNat
      let fld := fun (x : Word) => x.toNat / 2 ^ pos.toNat % 2 ^ n
      s.wordResult (.bfe g d a false pos len) g d (fun t => BitVec.ofNat 32 (fld (A t)))
      ∧ s.wordResult (.bfe g d a true pos len) g d (fun t =>
          BitVec.ofInt 32 (if fld (A t) < 2 ^ (n - 1) then (fld (A t) : Int) else (fld (A t) : Int) - 2 ^ n))
      ∧ ∃ f : Word → Word → Word,
          (∀ x y i, i < 32 → (f x y).getLsbD i =
            if pos.toNat ≤ i ∧ i < pos.toNat + n then x.getLsbD (i - pos.toNat) else y.getLsbD i)
          ∧ s.wordResult (.bfi g d a pos len) g d (fun t => f (A t) (t.old d)))
  ∧ ∃ f : Word → Word → Word → Word,
      (∀ x y z i, i < 4 →
        let k := z.toNat / 2 ^ (4 * i) % 16
        let v := byte (x.toNat + 2 ^ 32 * y.toNat) (k % 8)
        byte (f x y z).toNat i = if k < 8 then v else if v < 128 then 0 else 255)
      ∧ s.wordResult (.bperm g d a b e) g d (fun t => f (A t) (B t) (E t)))

/-- R193, R194, R198 to R203, R205: float arithmetic and conversion. Each result is the one that the format's arithmetic gives for the codes read,
with its flags raised in the lane (R57). The model's own readings that it rests on: notes/assumptions/52.md. -/
def Obligations.FloatResults : Prop := ∀ (s : State) (g : Pred) (d : Dst) (a b e : Src),
  let A := fun t => (s.src t a).toNat
  let B := fun t => (s.src t b).toNat
  let D := fun (t : Thread) => (t.old d).toNat
  let A2 := fun t => (s.src2 t a).toNat
  let B2 := fun t => (s.src2 t b).toNat
  let D2 := fun (t : Thread) => (t.old2 d).toNat
  let pack := fun (f : Nat → Nat → Nat → Nat × Flags) (x y z : Nat) =>
    ((f (x % 2 ^ 16) (y % 2 ^ 16) (z % 2 ^ 16)).1 + 2 ^ 16 * (f (x / 2 ^ 16) (y / 2 ^ 16) (z / 2 ^ 16)).1,
      (f (x % 2 ^ 16) (y % 2 ^ 16) (z % 2 ^ 16)).2 ||| (f (x / 2 ^ 16) (y / 2 ^ 16) (z / 2 ^ 16)).2)
  s.floatResult (.faddF32 g d a b) g d false (fun t => fAdd .f32 .rn 0 (A t) (B t))
  ∧ s.floatResult (.fsubF32 g d a b) g d false (fun t => fSub .f32 .rn 0 (A t) (B t))
  ∧ s.floatResult (.fmulF32 g d a b) g d false (fun t => fMul .f32 .rn 0 (A t) (B t))
  ∧ s.floatResult (.fmaF32 g d a b) g d false (fun t => fFma .f32 .rn 0 (A t) (B t) (D t))
  ∧ s.floatResult (.fminF32 g d a b) g d false (fun t => fMinMax false .f32 (A t) (B t))
  ∧ s.floatResult (.fmaxF32 g d a b) g d false (fun t => fMinMax true .f32 (A t) (B t))
  ∧ s.floatResult (.faddH2 g d a b) g d false (fun t => pack (fun x y _ => fAdd .f16 .rn 0 x y) (A t) (B t) 0)
  ∧ s.floatResult (.fmulH2 g d a b) g d false (fun t => pack (fun x y _ => fMul .f16 .rn 0 x y) (A t) (B t) 0)
  ∧ s.floatResult (.fmaH2 g d a b) g d false (fun t => pack (fun x y z => fFma .f16 .rn 0 x y z) (A t) (B t) (D t))
  ∧ s.floatResult (.faddB2 g d a b) g d false (fun t => pack (fun x y _ => fAdd .bf16 .rn 0 x y) (A t) (B t) 0)
  ∧ s.floatResult (.fmulB2 g d a b) g d false (fun t => pack (fun x y _ => fMul .bf16 .rn 0 x y) (A t) (B t) 0)
  ∧ s.floatResult (.fmaB2 g d a b) g d false (fun t => pack (fun x y z => fFma .bf16 .rn 0 x y z) (A t) (B t) (D t))
  ∧ s.floatResult (.dadd g d a b) g d true (fun t => fAdd .f64 .rn 0 (A2 t) (B2 t))
  ∧ s.floatResult (.dmul g d a b) g d true (fun t => fMul .f64 .rn 0 (A2 t) (B2 t))
  ∧ s.floatResult (.dfma g d a b) g d true (fun t => fFma .f64 .rn 0 (A2 t) (B2 t) (D2 t))
  ∧ s.floatResult (.fdot2 g d a b) g d false (fun t => fdot2 (A t) (B t) (D t))
  ∧ s.wordResult (.idot4 g d a b) g d (fun t => t.old d + BitVec.ofInt 32 (((List.range 4).map fun i =>
      signedOf 8 (A t / 2 ^ (8 * i)) * signedOf 8 (B t / 2 ^ (8 * i))).sum))
  ∧ (∀ fn, s.floatResult (.fsf g d a fn) g d false (fun t => fSf fn (A t)))
  ∧ (∀ fn ty md, ty ≠ .f64 → s.floatResult (.fop g d a b false fn ty md e) g d false (fun t =>
      fopOne fn ty md (dithT t.lane 0) (A t) (if fn = .sqrt then 0 else B t) (if fn = .fma ∨ fn = .fms then (s.src t e).toNat else 0)))
  ∧ (∀ fn md, s.floatResult (.fop g d a b false fn .f64 md e) g d true (fun t =>
      fopOne fn .f64 md (dithT t.lane 0) (A2 t) (if fn = .sqrt then 0 else B2 t) (if fn = .fma ∨ fn = .fms then (s.src2 t e).toNat else 0)))
  ∧ (∀ fn ty md, ty = .f16 ∨ ty = .bf16 → s.floatResult (.fop g d a b true fn ty md e) g d false (fun t =>
      let y := if fn = .sqrt then 0 else B t
      let z := if fn = .fma ∨ fn = .fms then (s.src t e).toNat else 0
      let lo := fopOne fn ty md (dithT t.lane 0) (A t % 2 ^ 16) (y % 2 ^ 16) (z % 2 ^ 16)
      let hi := fopOne fn ty md (dithT (t.lane + 32) 0) (A t / 2 ^ 16) (y / 2 ^ 16) (z / 2 ^ 16)
      (lo.1 + 2 ^ 16 * hi.1, lo.2 ||| hi.2)))
  ∧ (∀ ty x md, s.floatResult (.frnd g d a x ty md) g d (ty == .f64) (fun t => fnFrnd x ty md t.lane
      (if ty = .f64 then s.src2 t a else (s.src t a).setWidth 64) 0 0 |> fun r => (r.1.toNat, r.2)))
  ∧ (∀ ts tt md, s.floatResult (.conv g d a ts tt md) g d tt.wide (fun t =>
      let r := fConv ts tt md (dithT t.lane 0) (if ts.wide then A2 t else A t)
      (regForm tt r.1, r.2)))
  ∧ (∀ h k ty, s.floatResult (.convx g d a h k ty) g d false (fun t =>
      let one := fun (tt : Ty) (j : Nat) => encodeF tt .rn 0 (decodeF ty (A t / 2 ^ (8 * j) % 256))
      if h then ((one .f16 k.toNat).1 + 2 ^ 16 * (one .f16 (k.toNat + 1)).1, (one .f16 k.toNat).2 ||| (one .f16 (k.toNat + 1)).2)
      else one .f32 k.toNat))
  ∧ (∀ w, s.floatResult (.fclass g d a w) g d false (fun t =>
      (classOf (if w then .f64 else .f32) (if w then A2 t else A t), 0)))

/-- R63: a conversion from one integer type to another keeps the value where the target holds it, else it saturates to the minimum or the maximum of
the target, whichever lies nearer, and raises no flag: CONV writes such a result in each acting lane. -/
def Obligations.IntegerConversions : Prop := ∀ (s : State) (g : Pred) (d : Dst) (a : Src) (ts tt : Ty) (md : Rnd), ts.isInt = true → tt.isInt = true →
  let least := if tt.isSigned then -(2 ^ (tt.width - 1) : Int) else 0
  let most := if tt.isSigned then (2 ^ (tt.width - 1) : Int) - 1 else 2 ^ tt.width - 1
  ∃ f : Thread → DWord, s.laneResult (.conv g d a ts tt md) g d tt.wide (fun t => (f t, 0))
    ∧ ∀ t, let v := intOf ts (if ts.wide then (s.src2 t a).toNat else (s.src t a).toNat)
        (least ≤ v → v ≤ most → intOf tt (f t).toNat = v) ∧ (v < least → intOf tt (f t).toNat = least) ∧ (most < v → intOf tt (f t).toNat = most)

/-- R195 to R197: the compares write their predicate; PLOP its truth table. An FCMP or DCMP with a NaN is true for ne and un alone, and raises NV for
a signalling NaN, and for any NaN under lt, le, gt and ge. -/
def Obligations.CompareResults : Prop := ∀ (s : State) (g p : Pred) (a b : Src),
  (∀ (w : Bool) (c : ICond),
    let x := fun t => if w then (s.src2 t a).toNat else (s.src t a).toNat
    let y := fun t => if w then (s.src2 t b).toNat else (s.src t b).toNat
    let xs := fun t => if w then (s.src2 t a).toInt else (s.src t a).toInt
    let ys := fun t => if w then (s.src2 t b).toInt else (s.src t b).toInt
    s.predResult (.icmp g w c p a b) g p fun t => (match c with
      | .eq => decide (x t = y t) | .ne => decide (x t ≠ y t) | .lt => decide (xs t < ys t) | .le => decide (xs t ≤ ys t)
      | .ltu => decide (x t < y t) | .leu => decide (x t ≤ y t)
      | .tst => decide (x t &&& y t ≠ 0) | .ntst => decide (x t &&& y t = 0), 0))
  ∧ (∃ f : Ty → FCond → Nat → Nat → Bool × Flags,
      (∀ ty c x y,
        let X := decodeF ty x
        let Y := decodeF ty y
        let ordered := decide (c = .lt ∨ c = .le ∨ c = .gt ∨ c = .ge)
        let lt := X.ltN Y
        let gt := Y.ltN X
        (f ty c x y).1 = (if X.isNan || Y.isNan then decide (c = .ne ∨ c = .un) else match c with
          | .eq => !lt && !gt | .ne => lt || gt | .lt => lt | .le => !gt || lt | .gt => gt | .ge => !lt || gt | .ord => true | .un => false)
        ∧ (f ty c x y).2 = if X.isSNan || Y.isSNan || (ordered && (X.isNan || Y.isNan)) then fNV else 0)
      ∧ ∀ c, s.predResult (.fcmp g c p a b) g p (fun t => f .f32 c (s.src t a).toNat (s.src t b).toNat)
        ∧ s.predResult (.dcmp g c p a b) g p (fun t => f .f64 c (s.src2 t a).toNat (s.src2 t b).toNat))
  ∧ ∀ (q r : Pred) (tt : BitVec 4), s.predResult (.plop g p q r tt) g p fun t =>
      (tt.getLsbD (2 * (t.pred q).toNat + (t.pred r).toNat), 0)

/-- R208 to R211: SWZ, VOTE, LRED and LSCAN over tiles of 2^k lanes, no lane of a tile poisoned. A sum of 32-bit integers is the sum modulo 2^32,
whatever the tree. -/
def Obligations.LaneResults : Prop := ∀ (s : State) (g : Pred) (d : Dst) (k : Nat), k ≤ 5 → (∀ t ∈ s.active g, t.logw = k) →
  let w := 2 ^ k
  let lane := fun (t : Thread) (p : Nat) => atLane (s.active g) (t.lane / w * w + p)
  (∀ (a b : Src) (mode : SwzMode) (n : BitVec 5),
    let i := Instr.swz g d a b mode n
    let from' := fun (t : Thread) =>
      let p := t.lane % w
      match mode with
      | .bcast => if n.toNat < w then lane t n.toNat else none
      | .xor => if p ^^^ n.toNat < w then lane t (p ^^^ n.toNat) else none
      | .up => if n.toNat ≤ p then lane t (p - n.toNat) else none
      | .down => if p + n.toNat < w then lane t (p + n.toNat) else none
      | .rot => lane t ((p + n.toNat) % w)
      | .idx => if (s.src t b).toNat % 32 < w then lane t ((s.src t b).toNat % 32) else none
    s.canIssue i → (∀ t ∈ s.active g, t.opPois (.s a) = false ∧ t.opPois (.s b) = false) →
      exec i s = .next (s.inLanes g fun t u => (u.wr d (s.src ((from' t).getD t) a)).trimLog))
  ∧ (∀ (ps : Pred) (op : VoteOp),
    let i := Instr.vote g d ps op
    let yes := fun (t : Thread) (p : Nat) => p < w ∧ ∃ u, lane t p = some u ∧ u.pred ps = true
    let no := fun (t : Thread) (p : Nat) => p < w ∧ ∃ u, lane t p = some u ∧ u.pred ps = false
    s.canIssue i → ∃ x : Thread → Word,
      (∀ t, match op with
        | .ballot => ∀ p, (x t).getLsbD p = true ↔ yes t p
        | .any => (x t = 1 ∨ x t = 0) ∧ (x t = 1 ↔ ∃ p, yes t p)
        | .all => (x t = 1 ∨ x t = 0) ∧ (x t = 1 ↔ ¬∃ p, no t p)
        | .eq => (x t = 1 ∨ x t = 0) ∧ (x t = 1 ↔ ¬((∃ p, yes t p) ∧ ∃ p, no t p)))
      ∧ exec i s = .next (s.inLanes g fun t u => (u.wr d (x t)).trimLog))
  ∧ (∀ (a : Src) (ty : Ty) (op : RedOp) (rnd : Rnd),
    let vals := fun (t : Thread) => (List.range w).map fun p => match lane t p with
      | some u => (s.opnd u (.sw ty.wide a)).toNat
      | none => redIdent ty op
    let clean := ∀ t ∈ s.active g, t.opPois (.sw ty.wide a) = false
    let out := fun (u : Thread) (r : Nat × Flags) => s.raised ((u.wrW ty.wide d (BitVec.ofNat 64 r.1)).trimLog) r.2
    (s.canIssue (.lred g d a ty op rnd) → clean →
      exec (.lred g d a ty op rnd) s = .next (s.inLanes g fun t u => out u (treeRed (redNode ty op rnd) k (vals t))))
    ∧ ∀ x, s.canIssue (.lscan g d a x ty op rnd) → clean →
      exec (.lscan g d a x ty op rnd) s = .next (s.inLanes g fun t u =>
        let r := scanRed (redNode ty op rnd) k 1 (vals t)
        let p := t.lane % w
        out u (if x then (if p = 0 then redIdent ty op else r.1.getD (p - 1) 0) else r.1.getD p 0, r.2)))
  ∧ ∀ (rnd : Rnd) (xs : List Nat), xs.length = w → (∀ x ∈ xs, x < 2 ^ 32) →
      (treeRed (redNode .i32 .add rnd) k xs).1 = xs.sum % 2 ^ 32

/-- R204, R212, R216: TRSP, CONVB, SCALEB, DERX and DERY on unpoisoned lanes. The model's own readings that it rests on: notes/assumptions/53.md. -/
def Obligations.BlockResults : Prop := ∀ (s : State) (g : Pred) (d : Dst) (a : Src),
  (∀ sz : TrspSize,
    let i := Instr.trsp g d a sz
    let b := match sz with | .n8 => 8 | .n16 => 16 | .n32 => 32
    let n := 256 / b
    s.canIssue i → (∀ t ∈ s.active g, t.opPois (.sg 8 1 a) = false) →
      ∃ out : Thread → Nat → Word,
        (∀ t r k, r < 8 → k < 32 / b → (out t r).toNat / 2 ^ (k * b) % 2 ^ b =
          match atLane (s.active g) (t.lane / n * n + r * (32 / b) + k) with
          | none => 0
          | some u => (((u.group (.sg 8 1 a)).getD (t.lane % n * b / 32) 0#32).toNat / 2 ^ (t.lane % n * b % 32)) % 2 ^ b)
        ∧ exec i s = .next (s.inLanes g fun t u => (u.wrWords d ((List.range 8).map (out t)) fun _ => .clean).trimLog))
  ∧ (∀ (scale b2 : Bool) (tt : Ty) (len : BlkLen) (rnd : Rnd) (e : Dst) (ph : BitVec 7),
    let i := if scale then Instr.scaleb g d a tt len b2 rnd e ph else Instr.convb g d a tt len rnd e ph
    let n := if scale then scalebRegs len else convbRegs len
    let fmt := scale && b2
    let block := fun (l : Nat) => (blkPlace scale len l 0 0).1
    let coords := (List.range 32).flatMap fun l => (List.range n).flatMap fun j =>
      (if scale then [0, 1] else [0]).map fun h => (l, j, h)
    let mine := fun (t : Thread) => coords.filter fun c => (blkPlace scale len c.1 c.2.1 c.2.2).1 == block t.lane
    let ws := (List.range 32).map (s.blkWords (s.active g) a n)
    let el := fun (c : Nat × Nat × Nat) => blkElem ws scale fmt c.1 c.2.1 c.2.2
    let sc := fun (t : Thread) => blockScale tt ((mine t).map el)
    let code := fun (t : Thread) (c : Nat × Nat × Nat) =>
      blockElem tt rnd (sc t).1 (sc t).2 (dithT (blkPlace scale len c.1 c.2.1 c.2.2).2.1 ph.toNat) (el c)
    let byte := fun (c : Nat × Nat × Nat) => (blkPlace scale len c.1 c.2.1 c.2.2).2.2
    let v := fun (t : Thread) => (((mine t).filter fun c => c.1 == t.lane).map fun c => (code t c).1 * 2 ^ (8 * byte c)).sum
    let fl := fun (t : Thread) => (mine t).foldl (fun fl c => fl ||| (code t c).2) 0
    let wide := if scale then n == 4 else n == 8
    s.canIssue i → (∀ t ∈ s.active g, t.opPois (blkOpnd a n) = false ∧ t.lane < 32) →
      exec i s = .next (s.inLanes g fun t u =>
        ((s.raised ((u.wrW wide d (BitVec.ofNat 64 (v t))).trimLog) (fl t)).wr e (BitVec.ofNat 32 (sc t).1)).trimLog))
  ∧ ∀ y coarse : Bool,
    let i := if y then Instr.dery g d a coarse else Instr.derx g d a coarse
    let from' := fun (t : Thread) => if t.pixel then s.iss.lanes else s.active g
    let q := fun (t : Thread) => t.lane / 4 * 4
    let j := fun (t : Thread) => if coarse then 0 else if y then t.lane % 2 else t.lane % 4 / 2 * 2
    let lo := fun (t : Thread) => atLane (from' t) (q t + j t)
    let hi := fun (t : Thread) => atLane (from' t) (q t + j t + if y then 2 else 1)
    s.canIssue i → (∀ t ∈ s.iss.lanes, t.opPois (.s a) = false) →
      exec i s = .next (s.inLanes g fun t u => match lo t, hi t with
        | some tl, some th =>
            let r := fSub .f32 .rn 0 (s.src th a).toNat (s.src tl a).toNat
            s.raised ((u.wr d (BitVec.ofNat 32 r.1)).trimLog) r.2
        | _, _ =>
            let u0 := (u.wr d 0).trimLog
            if t.pixel then u0 else { u0 with st := { u0.st with degraded := true } })

/-- R55 to R58, R207, R213 to R215, R231, R234, R235, R251: the instructions on the thread's own special registers. The model's own readings that it
rests on: notes/assumptions/31.md. -/
def Obligations.SpecialResults : Prop := ∀ (s : State) (g : Pred) (d : Dst),
  (s.canIssue (.nop g) → exec (.nop g) s = .next s)
  ∧ (∀ n, s.laneEffect (.part g n) g fun _ u => { u with logw := n.val })
  ∧ (∀ clr idx, s.laneEffect (.srd g d clr idx) g fun t u => ((if clr then u.clearSpr idx else u).wr d (s.spr t idx)).trimLog)
  ∧ (∀ t : Thread,
      (s.spr t .xflags).toNat = t.xfl.toNat ∧ s.spr t .tilew = BitVec.ofNat 32 t.logw
      ∧ s.spr t .cntrs = BitVec.ofNat 32 (t.cntT * 2 ^ 24 + t.cntC * 2 ^ 16 + t.cntS * 2 ^ 8 + t.cntL)
      ∧ (∀ r, r < 32 → (s.spr t .poison0).getLsbD r = t.poisoned r)
      ∧ (t.clearSpr .xflags).xfl = 0 ∧ (t.clearSpr .tstat).st.abort = 0 ∧ (t.clearSpr .tstat).st.conflicts = t.st.conflicts
      ∧ (t.clearSpr .tstat).st.intx = t.st.intx)
  ∧ s.laneEffect (.time g d) g (fun _ u => (u.wr2 d (BitVec.ofNat 64 s.dlc)).trimLog)
  ∧ (∀ n, s.laneEffect (.yield g n) g fun _ u => { u with yields := n.toNat + 2 })
  ∧ (∀ sb sa sd tot, s.laneEffect (.rep sb sa sd tot) 7 fun _ u => { u with
      pc := s.iss.pc
      rep := if u.rep.active then u.rep else ⟨true, tot.toNat + 1, 0, sd.toNat, sa.toNat, sb.toNat⟩ })
  ∧ s.laneEffect (.txctlTest g d) g (fun t u =>
      (u.wr d (BitVec.ofNat 32 ((if t.st.intx then 1 else 0) + if t.st.irrev then 2 else 0))).trimLog)
  ∧ ∀ l sl c x : BitVec 3, s.canIssue (.wait g l sl c x) →
      (∀ t ∈ s.acting g, (l = 7 ∨ t.cntL ≤ l.toNat) ∧ (sl = 7 ∨ t.cntS ≤ sl.toNat) ∧ (c = 7 ∨ t.cntC ≤ c.toNat)
        ∧ (x = 7 ∨ t.cntT ≤ x.toNat)) → exec (.wait g l sl c x) s = .next s

/-- R164 to R166, R227: the branches and calls. The target of an offset is P + 12 times OFF modulo 2^52; CALL, and JMPX with its link, write P + 12 to
v118:v119. R165, R227: a branch through registers to an address that is no packet address traps with TARGET_ALIGN (10), and to one at or above 2^52
with ADDRESS_RANGE (7) and the address. The model's own readings that it rests on: notes/assumptions/56.md. -/
def Obligations.BranchResults : Prop :=
  (∀ (s : State) (g : Pred), s.iss.pc.toNat < 2 ^ 52 →
  let p := s.iss.pc.toNat / 12 * 12
  let target := fun (off : BitVec 21) => BitVec.ofInt 64 (((p : Int) + 12 * off.toInt) % 2 ^ 52)
  let linked := fun (u : Thread) => (u.wr2 (.v 118) (BitVec.ofNat 64 (p + 12))).trimLog
  (∀ off, s.laneEffect (.jmp g off) g fun _ u => { u with pc := target off })
  ∧ (∀ off, s.laneEffect (.call g off) g fun _ u => { linked u with pc := target off })
  ∧ (∀ a link, s.canIssue (.jmpx g a link) →
      (∀ t ∈ s.acting g, t.opPois (.s2 a) = false ∧ (s.src2 t a).toNat < 2 ^ 52 ∧ (s.src2 t a).toNat % 12 = 0) →
      exec (.jmpx g a link) s = .next (s.inLanes g fun t u => { (if link then linked u else u) with pc := s.src2 t a }))
  ∧ (s.canIssue (.ret g) →
      (∀ t ∈ s.acting g, t.opPois (.s2 (.v 118)) = false ∧ (s.src2 t (.v 118)).toNat < 2 ^ 52 ∧ (s.src2 t (.v 118)).toNat % 12 = 0) →
      exec (.ret g) s = .next (s.inLanes g fun t u => { u with pc := s.src2 t (.v 118) })))
  ∧ (∀ (s : State) (g : Pred) (a : Src) (link : Bool) (t : Thread) (entry : DWord),
  s.alone (.jmpx g a link) g t → s.mayTrap t entry → t.opPois (.s2 a) = false →
    ((s.src2 t a).toNat ≥ 2 ^ 52 → exec (.jmpx g a link) s = .next (s.trapsHere t entry 7 0 (s.src2 t a)))
    ∧ ((s.src2 t a).toNat < 2 ^ 52 → (s.src2 t a).toNat % 12 ≠ 0 → exec (.jmpx g a link) s = .next (s.trapsHere t entry 10 0 0)))

/-- R221 to R223, R226: TRAP and BREAK, whose words hold IMM in bits 13:0, enter the handler with USER_TRAP (20) and BREAKPOINT (21); they resume at
the chain that follows, with IMM as the code. A BREAK that is routed to the debugger halts the thread instead (R348). R221: a handler that traps stops
its context with DOUBLE_TRAP (2), and a launch without a trap entry with TRAP_UNHANDLED (3). R225: RETT of a handler whose log is empty restores REPST
and goes on at the resume point; outside a handler it is illegal. R46, R171: an instruction whose words trap has no effect but that trap: its cause (1
or 2) in every lane of the PC group, whatever the guard. The model's own readings that it rests on: notes/assumptions/48.md. -/
def Obligations.TrapResults : Prop :=
  (∀ (s : State) (g : Pred) (t : Thread) (entry : DWord) (imm : BitVec 14),
  let routed := (s.rreg (s.issAsid / 64) (0x500 + s.issAsid % 64)).getLsbD 0
  (s.alone (.trap g imm) g t → s.mayTrap t entry →
    exec (.trap g imm) s = .next (s.updThr t.uid (·.trapped entry s.iss.next 20 s.iss.slot imm.toNat 0)))
  ∧ (s.alone (.brk g imm) g t → s.mayTrap t entry → routed = false →
    exec (.brk g imm) s = .next (s.updThr t.uid (·.trapped entry s.iss.next 21 s.iss.slot imm.toNat 0)))
  ∧ (s.alone (.brk g imm) g t → routed = true →
    exec (.brk g imm) s = .next (s.updThr t.uid fun u => { u with park := some .debug }))
  ∧ encode (.trap g imm) = [0x5C000000 + g.val * 2 ^ 21 + imm.toNat] ∧ encode (.brk g imm) = [0x5E000000 + g.val * 2 ^ 21 + imm.toNat])
  ∧ (∀ (s : State) (g : Pred) (t : Thread) (imm : BitVec 14),
  s.alone (.trap g imm) g t → t.tx = none →
    (t.trap.inh = true → exec (.trap g imm) s = .next (s.fatal (s.asidOf t.wg) 2))
    ∧ (t.trap.inh = false → (s.launchOfWg t.wg).bind (·.trap) = none → exec (.trap g imm) s = .next (s.fatal (s.asidOf t.wg) 3)))
  ∧ (∀ (s : State) (g : Pred) (t : Thread) (entry : DWord), s.alone (.rett g) g t →
  (t.trap.inh = true → t.trap.xpc.toNat % 12 = 0 → t.trap.rslot < 3 → t.log = [] →
    (∀ o ∈ s.ops, ∀ l ∈ o.lanes, l.uid ≠ t.uid) →
    exec (.rett g) s = .next (s.updThr t.uid fun u => { u with
      rep := u.trap.xrep, pc := u.trap.xpc + BitVec.ofNat 64 (4 * u.trap.rslot), trap := TrapRegs.zero, log := [] }))
  ∧ (s.mayTrap t entry → exec (.rett g) s = .next (s.trapsHere t entry 1 0 0)))
  ∧ (∀ (s : State) (i : Instr) (c : Nat) (entry : DWord),
  Instr.forThreads i = true → s.issueCause i = some c → s.apart → (∀ t ∈ s.iss.lanes, s.thr? t.uid = some t ∧ s.mayTrap t entry) →
    exec i s = .next { s.inThreads s.iss.lanes fun _ u => u.trapped entry s.iss.pc c s.iss.slot 0 0 with
      iss := { s.iss with trapped := s.iss.trapped ++ s.iss.lanes.map fun t => (t.uid, s.iss.slot) } })

/-- R187, R220, R224, R402: a poisoned operand. An instruction that consumes it traps with POISON_CONSUMED (3), the first poisoned operand's register
and UNRECOVERABLE. A computation of rows 0x0_ to 0x3_ goes on: from unrecoverable poison its result is unrecoverable, else the result is owned by a
derived entry of the replay log that holds the clean words as values and the poisoned ones as words of their owners; with 64 derived entries in the
log it traps with LOG_FULL. CONVB and SCALEB go on the same way. The model's own readings that it rests on: notes/assumptions/1.md. -/
def Obligations.PoisonResults : Prop := ∀ (s : State) (g : Pred) (t : Thread) (entry : DWord),
  let code := fun (os : List Opnd) => (if anyLost t os then 2 else 0) + 4 * firstPoisoned t os
  let derivedIn := fun (u : Thread) => (u.log.filter (·.isDerived)).length
  let free := fun n => (List.range n).map fun k => Config.poisonWord (s.fresh + k)
  (∀ (i : Instr) (os : List Opnd), Instr.consumes i = some (g, os) → s.alone i g t → s.mayTrap t entry → t.helper = false →
    os.any t.opPois = true →
    (match i with
      | .ssp .. | .atms .. => isEnsign (s.coreOf t.wg) = false
      | .spawn .. | .cont .. => t.tx = none ∧ t.lane < 32
      | .seq .. => s.seqFull t.wg = false
      | .rstkPush .. => ∀ o ∈ s.ops, ∀ x ∈ o.lanes, x.uid ≠ t.uid
      | .syswr _ _ idx => (0x080 ≤ idx.toNat ∧ idx.toNat ≤ 0x085) ∨ Requester.opens (s.threadReq t) idx.toNat true = true
      | _ => True) →
    exec i s = .next (s.trapsHere t entry 3 (code os) 0))
  ∧ (∀ (a : Src) (q : BitVec 4), s.alone (.qput g a q) g t → s.mayTrap t entry → t.helper = false → t.opPois (.s a) = true →
    (s.qbOf t.wg q.toNat).port ∉ [Port.unbound, .cpl, .hoistout, .hoistin] →
    exec (.qput g a q) s = .next (s.trapsHere t entry 3 (code [.s a]) 0))
  ∧ (∀ (q : BitVec 4) (vs : Fin 120) (b : Src) (tgt : Target) (n : Fin 17) (any : Bool),
    let os := (if any then [] else [.s b]) ++ tgt.opnds
    s.alone (.hoist g q vs b tgt n any) g t → s.mayTrap t entry → t.helper = false → t.tx = none →
    (s.qbOf t.wg q.toNat).port = .hoistout → os.any t.opPois = true →
    exec (.hoist g q vs b tgt n any) s = .next (s.trapsHere t entry 3 (code os) 0))
  ∧ (∀ (i : Instr) (d : Dst) (w : Bool),
    let n := if w then 2 else 1
    Instr.computes i = some (g, d, w) → s.alone i g t → i.srcs.any t.opPois = true →
      (anyLost t i.srcs = true → exec i s = .next { s.updThr t.uid (·.wrWords d (free n) fun _ => .lost) with fresh := s.fresh + n })
      ∧ (anyLost t i.srcs = false → t.trap.inh = false → derivedIn t < 64 → exec i s = .next { s.updThr t.uid fun u =>
          ({ u with log := u.log ++ [LogEntry.mk (s.fresh + n) i (.derived t.lane (i.srcs.map (s.logSrc t)))] }).wrWords d (free n) (.owned (s.fresh + n)) with
        fresh := s.fresh + n + 1 })
      ∧ (anyLost t i.srcs = false → s.mayTrap t entry → 64 ≤ derivedIn t →
          exec i s = .next (s.trapsHere t entry 3 (1 + 4 * firstPoisoned t i.srcs) 0)))
  ∧ (∀ r : Fin 120, s.logSrc t (.s (.v r)) = [match (t.reg r.val).mark with
      | .owned m k => .ent m k
      | _ => .val (t.val r.val)])
  ∧ (∀ (scale b2 : Bool) (tt : Ty) (len : BlkLen) (rnd : Rnd) (d e : Dst) (a : Src) (ph : BitVec 7),
    let i := if scale then Instr.scaleb g d a tt len b2 rnd e ph else Instr.convb g d a tt len rnd e ph
    let n := if scale then scalebRegs len else convbRegs len
    let m := if (if scale then n == 4 else n == 8) then 2 else 1
    let srcs := (List.range 32).map fun l => if l = t.lane then s.logSrc t (blkOpnd a n) else List.replicate n (LogSrc.val 0)
    s.alone i g t → s.active g = [t] → t.lane < 32 → t.opPois (blkOpnd a n) = true → anyLost t [blkOpnd a n] = false → t.trap.inh = false →
      derivedIn t < 64 → exec i s = .next { s.updThr t.uid fun u =>
        ((({ u with log := u.log ++ [LogEntry.mk (s.fresh + m + 1) i (.derived t.lane srcs)] }).wrWords d (free m) (.owned (s.fresh + m + 1))).wrWords e
          [Config.poisonWord (s.fresh + m)] fun _ => .owned (s.fresh + m + 1) m) with
      fresh := s.fresh + m + 2 })

/-- R53, R219, R236, R239 to R243, R270, R288: what a global access, a level-of-detail load, a sample and a ray test do at issue in lanes that may
make them. R113, R248, R249: in a revocable transaction a load and a store take place at once in its sets, or abort it, and another access that
reaches the bunting aborts it at issue. A helper lane stores nothing, and an atomic answers 0 in it (R138). The model's own readings that it rests on:
notes/assumptions/4.md. -/
def Obligations.GlobalAccessIssue : Prop := ∀ (s : State) (g : Pred) (d : Dst) (v a b e : Src),
  let act := s.acting g
  let real := (s.acting g).filter fun t => !t.helper
  let acc := fun (t : Thread) (x : Src) (ws : List Word) (cmp : DWord) => { s.laneAt t (s.src2 t x) with data := ws, cmp := cmp, tx := t.tx.isSome }
  let reach := fun (ts : List Thread) (n : Nat) (sc : Scope) (x : Src) => ∀ t ∈ ts, t.mayReach n sc (s.src2 t x)
  let plain := fun (ts : List Thread) => ∀ t ∈ ts, t.tx.isSome = true → t.st.irrev = true
  (∀ acq sc sz, let i := Instr.ld g d a acq sc sz
    s.canIssue i → s.ready act [.s2 a] .l → reach act (Size.bytes sz) sc a → plain act →
      exec i s = .next (s.opIssues act i .l .loadReturn fun t => acc t a [] 0))
  ∧ (∀ rel sc sz, let i := Instr.st g v a rel sc sz
    s.canIssue i → s.ready real [.s2 a, Size.src sz v] .s → reach real (Size.bytes sz) sc a → plain real →
      exec i s = .next (s.opIssues real i .s .storePerform fun t => acc t a (s.srcWords t (Size.src sz v)) 0))
  ∧ (∀ op ty sc ord, let i := Instr.atm g d a b op ty sc ord e
    let cls := if d = .zero then OpClass.s else .l
    let done := if d = .zero then Instr.storePerform else .loadReturn
    let os := [Opnd.s2 a, .sw ty.wide b] ++ if op = .cas then [Opnd.sw ty.wide e] else []
    s.canIssue i → s.ready real os cls → reach real (Ty.bytes ty) sc a → plain real →
      exec i s = .next ((s.inLanes g fun t u => if t.helper then (u.wrW ty.wide d 0).trimLog else u.raiseCnt cls).withOp i cls done
        (real.map fun t => acc t a (s.srcWords t (.sw ty.wide b)) (if op = .cas then s.opnd t (.sw ty.wide e) else 0))))
  ∧ (∀ op ty sc rel, let i := Instr.rdm g a b op ty sc rel
    s.canIssue i → s.ready real [.s2 a, .sw ty.wide b] .s → reach real (if ty.wide then 8 else 4) sc a → plain real →
      exec i s = .next (s.opIssues real i .s .storePerform fun t => acc t a (s.srcWords t (.sw ty.wide b)) 0))
  ∧ (let i := Instr.vbmin g a b
    s.canIssue i → s.ready real [.s2 a, .s2 b] .s → reach real 8 .dev a → plain real →
      exec i s = .next (s.opIssues real i .s .storePerform fun t => acc t a (s.srcWords t (.s2 b)) 0))
  ∧ (∀ sc, let i := Instr.cpltest g d a sc
    s.canIssue i → s.ready act [] .l → reach act 16 sc a → plain act →
      exec i s = .next (s.opIssues act i .l .loadReturn fun t => { acc t a [] 0 with pois := t.opPois (.s2 a) }))
  ∧ (let i := Instr.rbox g d a b
    s.canIssue i → s.ready act [.sg 8 1 a, .s2 b] .t → reach act 64 .wg b → plain act →
      exec i s = .next (s.opIssues act i .t .rayTestComplete fun t => acc t b (t.group (.sg 8 1 a)) 0))
  ∧ (∀ cull, let i := Instr.rtri g d a b cull
    s.canIssue i → s.ready act [.sg 8 1 a, .s2 b] .t → reach act 4 .wg b → plain act →
      exec i s = .next (s.opIssues act i .t .rayTestComplete fun t => acc t b (t.group (.sg 8 1 a)) 0))
  ∧ (∀ lvl lreg f sz, let i := Instr.ldlod g d a b lvl lreg f sz
    s.canIssue i → s.ready act [.s2 a, .s2 b] .l → plain act →
      exec i s = .next (s.opIssues act i .l .loadReturn fun t => { acc t a [] 0 with addr2 := s.src2 t b }))
  ∧ (∀ fmt bilin, let i := Instr.sample g d a b fmt bilin e
    s.canIssue i → s.ready act [.s2 a, .s2 b, .s e] .l → plain act →
      exec i s = .next (s.opIssues act i .l .loadReturn fun t => { acc t a [s.src t e] 0 with addr2 := s.src2 t b }))
  ∧ (∀ (t : Thread) (op : RedOp) (ty : Ty) (sc : Scope) (rel : Bool) (cull : Cull) (lvl : BitVec 4) (lreg : Bool) (f : Dst) (sz : Fin 5) (fmt : SampleFmt)
      (bilin : Bool), t.tx.isSome = true → t.st.irrev = false →
    let join := fun (i : Instr) (os : List Opnd) (cls : OpClass) (l : LaneAcc) => s.alone i g t → os.any t.opPois = false → t.cnt cls < 63 →
      let r := s.doAccess ⟨0, i, s.iss.core, s.issWg, s.issAsid, cls, s.iss.slot, [], [l]⟩ l
      (∀ c, r.1 = .abort c → exec i s = .next ((s.abortTx t.uid c).leaves t.uid))
      ∧ ((∀ c, r.1 ≠ .abort c) → exec i s = .next (s.opIssues [t] i cls
          (match cls with | .l => .loadReturn | .s => .storePerform | .t => .rayTestComplete) fun _ => l))
    let stores := fun (P : Prop) => t.helper = false → P
    let at' := fun (n : Nat) (sc : Scope) (x : Src) (P : Prop) => t.mayReach n sc (s.src2 t x) → P
    stores (at' (if ty.wide then 8 else 4) sc a (join (.rdm g a b op ty sc rel) [.s2 a, .sw ty.wide b] .s (acc t a (s.srcWords t (.sw ty.wide b)) 0)))
    ∧ stores (at' 8 .dev a (join (.vbmin g a b) [.s2 a, .s2 b] .s (acc t a (s.srcWords t (.s2 b)) 0)))
    ∧ at' 16 sc a (join (.cpltest g d a sc) [] .l { acc t a [] 0 with pois := t.opPois (.s2 a) })
    ∧ at' 64 .wg b (join (.rbox g d a b) [.sg 8 1 a, .s2 b] .t (acc t b (t.group (.sg 8 1 a)) 0))
    ∧ at' 4 .wg b (join (.rtri g d a b cull) [.sg 8 1 a, .s2 b] .t (acc t b (t.group (.sg 8 1 a)) 0))
    ∧ join (.ldlod g d a b lvl lreg f sz) [.s2 a, .s2 b] .l { acc t a [] 0 with addr2 := s.src2 t b }
    ∧ join (.sample g d a b fmt bilin e) [.s2 a, .s2 b, .s e] .l { acc t a [s.src t e] 0 with addr2 := s.src2 t b }
    ∧ ∀ (o : Op) (l : LaneAcc), l.uid = t.uid → l.tx = true → s.thr? t.uid = some t → s.inBunting o.core o.asid l.addr.toNat = true →
        (s.doRdm o l op ty sc rel).1 = .abort 5 ∧ (s.doCpltest o l d sc).1 = .abort 5 ∧ (s.doRbox o l d).1 = .abort 5
        ∧ (s.doRtri o l d cull).1 = .abort 5)
  ∧ ∀ (t : Thread) (x : Tx) sc sz, t.tx = some x → t.st.irrev = false → (∀ o ∈ s.ops, ∀ l ∈ o.lanes, l.uid ≠ t.uid) →
      t.opPois (.s2 a) = false → t.mayReach (Size.bytes sz) sc (s.src2 t a) →
      let va := (s.src2 t a).toNat
      let join := fun (s1 : State) (i : Instr) (cls : OpClass) (done : Nat → Instr) (l : LaneAcc) => Host.Outcome.next
        { s1.updThr t.uid (·.raiseCnt cls) with
          ops := s1.ops ++ [⟨s1.fresh, i, s.iss.core, s.issWg, s.issAsid, cls, s.iss.slot, [], [l]⟩]
          fresh := s1.fresh + 1, agenda := s1.agenda ++ [done s1.fresh] }
      (∀ acq, let i := Instr.ld g d a acq sc sz
        s.alone i g t → t.cntL < 63 → ∀ s1,
        (∀ bs, s.txLoad t x s.iss.core s.issAsid va (Size.bytes sz) sc = (.ok bs, s1) →
          exec i s = join (if acq then s1.acquire s.iss.core s.issAsid sc else s1) i .l .loadReturn
            { acc t a [] 0 with ready := some [(d, Size.load sz bs)] })
        ∧ ∀ c, s.txLoad t x s.iss.core s.issAsid va (Size.bytes sz) sc = (.error c, s1) →
          exec i s = .next ((s1.abortTx t.uid c).leaves t.uid))
      ∧ ∀ rel, let i := Instr.st g v a rel sc sz
        let ws := s.srcWords t (Size.src sz v)
        let r := s.txStore t x s.iss.core s.issAsid va ((bytesOfWords ws).take (Size.bytes sz)) fun _ => true
        s.alone i g t → t.helper = false → t.opPois (Size.src sz v) = false → t.cntS < 63 →
        (r.1 = none → exec i s = join r.2 i .s .storePerform { acc t a ws 0 with ready := some [] })
        ∧ ∀ c, r.1 = some c → exec i s = .next ((r.2.abortTx t.uid c).leaves t.uid)

/-- R91 to R93, R238, R241: local accesses at issue, in lanes whose aligned address lies in the local space at a place of its own. R91: an array
core's own scratchpad lies from 0 up to its rounded size; an address between the windows is in none. The model's own readings that it rests on:
notes/assumptions/33.md. -/
def Obligations.LocalAccesses : Prop :=
  (∀ (s : State) (g : Pred) (d : Dst) (v a b e : Src) (place : Thread → Nat × Bool × Nat),
  let act := s.acting g
  let real := (s.acting g).filter fun t => !t.helper
  let addr := fun (t : Thread) => (s.src t a).toNat
  let at' := fun (t : Thread) => { s.laneAt t ((s.src t a).setWidth 64) with loc := some (place t) }
  let placed := fun (ts : List Thread) (n : Nat) (atms : Bool) => ∀ t ∈ ts, addr t % n = 0 ∧
    ∃ w, s.wg? t.wg = some w ∧ s.localPlace w (addr t) n atms = .ok (place t)
  (∀ sz, let i := Instr.lsp g d a sz
    s.canIssue i → s.ready act [.s a] .l → placed act (Size.bytes sz) false → exec i s = .next (s.opIssues act i .l .loadReturn at'))
  ∧ (∀ sz, let i := Instr.ssp g v a sz
    s.canIssue i → s.ready real [.s a, Size.src sz v] .s → placed real (Size.bytes sz) false →
      exec i s = .next (s.opIssues real i .s .storePerform fun t => { at' t with data := s.srcWords t (Size.src sz v) }))
  ∧ ∀ op ty, let i := Instr.atms g d a b op ty e
    let cls := if d = .zero then OpClass.s else .l
    let done := if d = .zero then Instr.storePerform else .loadReturn
    let os := [Opnd.s a, .sw ty.wide b] ++ if op = .cas then [Opnd.sw ty.wide e] else []
    s.canIssue i → s.ready real os cls → placed real (Ty.bytes ty) true →
      exec i s = .next ((s.inLanes g fun t u => if t.helper then (u.wrW ty.wide d 0).trimLog else u.raiseCnt cls).withOp i cls done
        (real.map fun t => { at' t with
          data := s.srcWords t (.sw ty.wide b), cmp := if op = .cas then s.opnd t (.sw ty.wide e) else 0 })))
  ∧ (∀ (s : State) (w : Wg) (l : Launch) (addr n : Nat) (atms : Bool), s.launch? w.launch = some l →
  let size := (l.scratch + 1023) / 1024 * 1024
  (addr < 0x60000 → addr + n ≤ size → s.localPlace w addr n atms = .ok (w.id, false, addr))
  ∧ (addr < 0x60000 → size < addr + n → s.localPlace w addr n atms = .error 8)
  ∧ (0x60000 ≤ addr → addr < 0x400000 → s.localPlace w addr n atms = .error 8)
  ∧ (0x800000 ≤ addr → addr < 0x10000000 → s.localPlace w addr n atms = .error 8)
  ∧ (0x20000000 ≤ addr → s.localPlace w addr n atms = .error 8))

/-- R89, R91, R93: a misaligned global access, of whatever instruction and size, traps with MISALIGNED (6), and one at or above 2^52 with
ADDRESS_RANGE (7), both with the address; a misaligned local access traps likewise, one outside the local space with LOCAL_RANGE (8), one of a gang
member that is not there with GANG_RANGE (9), and one of a window on an ensign core as illegal (1). The model's own readings that it rests on:
notes/assumptions/33.md, notes/assumptions/38.md. -/
def Obligations.AddressTraps : Prop := ∀ (s : State) (g : Pred) (t : Thread) (d : Dst) (v a b e : Src) (entry : DWord), s.mayTrap t entry →
  (∀ (acq rel : Bool) (sc : Scope) (sz : Size) (op : AtomOp) (rop : RedOp) (ty : Ty) (ord : Order) (cull : Cull),
    let forms : List (Instr × Nat × List Opnd × Src × Bool) := [
      (.ld g d a acq sc sz, Size.bytes sz, [.s2 a], a, false), (.st g v a rel sc sz, Size.bytes sz, [.s2 a, Size.src sz v], a, true),
      (.atm g d a b op ty sc ord e, Ty.bytes ty, [.s2 a, .sw ty.wide b] ++ (if op = .cas then [.sw ty.wide e] else []), a, true),
      (.rdm g a b rop ty sc rel, if ty.wide then 8 else 4, [.s2 a, .sw ty.wide b], a, true), (.vbmin g a b, 8, [.s2 a, .s2 b], a, true),
      (.cpltest g d a sc, 16, [], a, false), (.rbox g d a b, 64, [.sg 8 1 a, .s2 b], b, false), (.rtri g d a b cull, 4, [.sg 8 1 a, .s2 b], b, false)]
    (∀ f ∈ forms, s.alone f.1 g t → f.2.2.1.any t.opPois = false → (f.2.2.2.2 = true → t.helper = false) →
      let x := s.src2 t f.2.2.2.1
      (x.toNat % f.2.1 ≠ 0 → exec f.1 s = .next (s.trapsHere t entry 6 0 x))
      ∧ (x.toNat % f.2.1 = 0 → 2 ^ 52 ≤ x.toNat → exec f.1 s = .next (s.trapsHere t entry 7 0 x)))
    ∧ ∀ f ∈ ([(.monwait g v a sc, 4, [.s2 a, .s v]), (.cplwait g v a acq sc, 16, [.s2 a, .s2 v])] : List (Instr × Nat × List Opnd)),
      s.alone f.1 g t → f.2.2.any t.opPois = false → t.tx = none →
      let x := s.src2 t a
      (x.toNat % f.2.1 ≠ 0 → exec f.1 s = .next (s.trapsHere t entry 6 0 x))
      ∧ (x.toNat % f.2.1 = 0 → 2 ^ 52 ≤ x.toNat → exec f.1 s = .next (s.trapsHere t entry 7 0 x)))
  ∧ ∀ (sz : Size) (op : AtomOp) (ty : Ty) (w : Wg), s.wg? t.wg = some w →
    let forms : List (Instr × Nat × List Opnd × Bool × Bool) := [
      (.lsp g d a sz, Size.bytes sz, [.s a], false, false), (.ssp g v a sz, Size.bytes sz, [.s a, Size.src sz v], false, true),
      (.atms g d a b op ty e, Ty.bytes ty, [.s a, .sw ty.wide b] ++ (if op = .cas then [.sw ty.wide e] else []), true, true)]
    ∀ f ∈ forms, s.alone f.1 g t → f.2.2.1.any t.opPois = false → (f.2.2.2.2 = true → t.helper = false) →
      let x := (s.src t a).toNat
      let barred := isEnsign w.core && inWindow x
      (barred = true → exec f.1 s = .next (s.trapsHere t entry 1 0 0))
      ∧ (barred = false → x % f.2.1 ≠ 0 → exec f.1 s = .next (s.trapsHere t entry 6 0 ((s.src t a).setWidth 64)))
      ∧ (x % f.2.1 = 0 → s.localPlace w x f.2.1 f.2.2.2.1 = .error 8 → exec f.1 s = .next (s.trapsHere t entry 8 0 ((s.src t a).setWidth 64)))
      ∧ (x % f.2.1 = 0 → s.localPlace w x f.2.1 f.2.2.2.1 = .error 9 → exec f.1 s = .next (s.trapsHere t entry 9 0 0))

/-- R62, R98, R99, R110, R111, R219, R236 to R238, R241, R242: an operation of one lane that may perform now does so: its result words are written
clean, its counter falls, and it is gone. LSP reads the local bytes; LD, in a line that the L1 holds at the scope, the line's bytes; SSP writes the
local bytes. ATMS and ATM leave the new value and answer the old one; a store, an atomic and a reduction of one element perform in a line of the L1 at
.wg and .core, and at the home of memory on the device, whose other copies go, at .clu and .dev. The model's own readings that it rests on:
notes/assumptions/10.md. -/
def Obligations.OperationsPerform : Prop := ∀ (s : State) (o : Op) (l : LaneAcc) (t : Thread) (w : Wg) (p : Nat × Bool × Nat),
  o.lanes = [l] → (∀ x ∈ s.ops, x = o ∨ (x.id ≠ o.id ∧ x.lanes ≠ [] ∧ ∀ y ∈ x.lanes, y.uid ≠ l.uid)) → o ∈ s.ops → s.ops.Nodup →
  l.fault = none → l.held = false → l.ready = none → l.pois = false → s.thr? l.uid = some t → t.park = none → s.wg? t.wg = some w → w.state = .resident →
  let done := fun (s : State) (f : Thread → Thread) => { s.updThr l.uid f with ops := s.ops.filter fun x => x.id != o.id }
  let bytes := if p.2.1 then mgets 0#8 w.obuf p.2.2 else mgets 0#8 w.spad p.2.2
  (∀ g d a sz, o.instr = .lsp g d a sz → o.cls = .l → l.loc = some p → p.1 = w.id → s.wg? p.1 = some w →
    exec (.loadReturn o.id) s = .next (done s fun u =>
      (({ u.wrWords d (Size.load sz (bytes (Size.bytes sz))) fun _ => .clean with cntL := u.cntL - 1 } : Thread)).trimLog))
  ∧ (∀ g v a sz, o.instr = .ssp g v a sz → o.cls = .s → l.loc = some p → p.1 = w.id → s.wg? p.1 = some w →
    exec (.storePerform o.id) s = .next (done
      (s.updWg w.id fun w =>
        let bs := (l.data.flatMap fun x => bytesOf 4 x.toNat).take (Size.bytes sz)
        if p.2.1 then { w with obuf := mputs 0#8 w.obuf p.2.2 bs } else { w with spad := mputs 0#8 w.spad p.2.2 bs })
      fun u => ({ u with cntS := u.cntS - 1 }).trimLog))
  ∧ (∀ g d a sc sz line, o.instr = .ld g d a false sc sz → o.cls = .l → l.tx = false → s.takesCkp o.asid = false →
    s.l1at o.core o.asid l.addr.toNat = some line → Scope.num sc ≤ 1 ∨ Scope.num sc ≤ Scope.num line.sc →
    exec (.loadReturn o.id) s = .next (done s fun u =>
      (({ u.wrWords d (Size.load sz ((line.data.drop (l.addr.toNat % 128)).take (Size.bytes sz))) fun _ => .clean with
        cntL := u.cntL - 1 } : Thread)).trimLog))
  ∧ (let red := fun (op : RedOp) (ty : Ty) (old b : Nat) => match op with
      | .add => if ty.isFloat then (fAdd ty .rn 0 old b).1 else (old + b) % 2 ^ ty.width
      | .min => if ty.isFloat then (fMinMax false ty old b).1 else (if intOf ty old ≤ intOf ty b then old else b) % 2 ^ ty.width
      | .max => if ty.isFloat then (fMinMax true ty old b).1 else (if intOf ty old ≤ intOf ty b then b else old) % 2 ^ ty.width
      | .and => old &&& b
      | .or => old ||| b
      | .xor => old ^^^ b
    let atom := fun (op : AtomOp) (ty : Ty) (old b e : Nat) => match op with
      | .add => red .add ty old b
      | .min => red .min ty old b
      | .max => red .max ty old b
      | .and => old &&& b
      | .or => old ||| b
      | .xor => old ^^^ b
      | .xchg => b
      | .cas => if old = e then b else old
    let val := leNat (l.data.flatMap fun x => bytesOf 4 x.toNat)
    let cmp := l.cmp.toNat
    let va := l.addr.toNat
    let regs := fun (ty : Ty) (v : Nat) => if ty.wide then [BitVec.ofNat 32 v, BitVec.ofNat 32 (v / 2 ^ 32)] else [BitVec.ofNat 32 v]
    let answered := fun (d : Dst) (ty : Ty) (old : Nat) (u : Thread) => ((u.wrWords d (regs ty old) fun _ => .clean).lower o.cls).trimLog
    let performs := fun (d : Dst) => exec (if d = .zero then .storePerform o.id else .loadReturn o.id) s
    let atHome := fun (key : Nat) (bs : List Byte) =>
      ({ s.seen o.asid key with mem := mputs 0#8 s.mem key bs } : State).touched key none
    let inL1 := fun (line : L1Line) (bs : List Byte) => { s with l1 := [{ line with
      wr := true, sc := .core, dirtyAt := if line.dirty = 0 then s.cycleCount o.core else line.dirtyAt
      dirty := line.dirty ||| ((2 ^ bs.length - 1) * 2 ^ (va % 128))
      data := line.data.take (va % 128) ++ bs ++ line.data.drop (va % 128 + bs.length) }] }
    let wide := fun (sc : Scope) => 2 ≤ Scope.num sc ∧ Scope.num sc ≤ 3
    (∀ g d a b op ty e, o.instr = .atms g d a b op ty e → o.cls = (if d = .zero then .s else .l) → l.loc = some p → p.1 = w.id → s.wg? p.1 = some w →
      let old := leNat (bytes (Ty.bytes ty))
      let bs := bytesOf (Ty.bytes ty) (atom op ty old val cmp)
      performs d = .next (done (s.updWg w.id fun w =>
        if p.2.1 then { w with obuf := mputs 0#8 w.obuf p.2.2 bs } else { w with spad := mputs 0#8 w.spad p.2.2 bs }) (answered d ty old)))
    ∧ (∀ key, s.plain o.asid → l.tx = false → s.l1 = [] →
      (∀ g v a rel sc sz, o.instr = .st g v a rel sc sz → o.cls = .s → wide sc → s.maps (clusterOf o.core) o.asid va .store key →
        exec (.storePerform o.id) s = .next (done (atHome key ((l.data.flatMap fun x => bytesOf 4 x.toNat).take (Size.bytes sz)))
          fun u => (u.lower .s).trimLog))
      ∧ (∀ g d a b op ty sc ord e, o.instr = .atm g d a b op ty sc ord e → o.cls = (if d = .zero then .s else .l) → wide sc →
        s.maps (clusterOf o.core) o.asid va .atomic key →
        let old := leNat (mgets 0#8 s.mem key (Ty.bytes ty))
        performs d = .next (done (atHome key (bytesOf (Ty.bytes ty) (atom op ty old val cmp))) (answered d ty old)))
      ∧ ∀ g a b op ty sc rel, o.instr = .rdm g a b op ty sc rel → o.cls = .s → Scope.num sc ≤ 3 → ty ∈ [Ty.i32, .n32, .i64, .n64, .f32] →
        s.maps (clusterOf o.core) o.asid va .atomic key →
        exec (.storePerform o.id) s = .next (done (atHome key (bytesOf (Ty.bytes ty)
          (red op ty (leNat (mgets 0#8 s.mem key (Ty.bytes ty))) (val % 2 ^ ty.width)))) fun u => (u.lower .s).trimLog))
    ∧ ∀ line : L1Line, s.plain o.asid → l.tx = false → s.l1 = [line] → line.isAt o.core o.asid va = true → line.wr = true →
      homeOf (line.pa + va % 128) = .dram →
      (∀ g v a rel sc sz, o.instr = .st g v a rel sc sz → o.cls = .s → Scope.num sc ≤ 1 →
        exec (.storePerform o.id) s = .next (done (inL1 line ((l.data.flatMap fun x => bytesOf 4 x.toNat).take (Size.bytes sz)))
          fun u => (u.lower .s).trimLog))
      ∧ ∀ g d a b op ty sc ord e, o.instr = .atm g d a b op ty sc ord e → o.cls = (if d = .zero then .s else .l) → Scope.num sc ≤ 1 →
        let old := leNat ((line.data.drop (va % 128)).take (Ty.bytes ty))
        performs d = .next (done (inL1 line (bytesOf (Ty.bytes ty) (atom op ty old val cmp))) (answered d ty old)))
  ∧ ∀ g d a b cull out, o.instr = .rtri g d a b cull → o.cls = .t → s.doAccess o l = (.done out, s) →
    exec (.rayTestComplete o.id) s = .next (done s fun u =>
      (({ out.foldl (fun (u : Thread) q => u.wrWords q.1 q.2 fun _ => .clean) u with cntT := u.cntT - 1 } : Thread)).trimLog)

/-- R244 to R246, R269, R401: a prefetch brings the line into the L1, or the L2 alone, where its translation is cached, is dropped where it is not, in
a poisoned address and at or above 2^52, and counts a refused one; a fence of a thread whose accesses have performed acts on the caches; MONWAIT and
CPLWAIT return, or park the thread, by the value that they read. R246, R269: a poll of a parked wait reads again, afresh where the word is not homed
on this device: MONWAIT of a word in host or peer memory returns when it differs, CPLWAIT when the counter has reached its value; a wait of a
workgroup that does not run reads nothing (R373). The model's own readings that it rests on: notes/assumptions/32.md, notes/assumptions/36.md,
notes/assumptions/67.md, notes/assumptions/68.md. -/
def Obligations.WaitResults : Prop :=
  (∀ (s : State) (g : Pred) (t : Thread) (v a : Src) (sc : Scope),
  let va := s.src2 t a
  let core := s.iss.core
  let asid := s.issAsid
  (∀ l2, s.alone (.pref g a l2) g t →
    (t.opPois (.s2 a) = true ∨ 2 ^ 52 ≤ va.toNat → exec (.pref g a l2) s = .next s)
    ∧ (t.opPois (.s2 a) = false → va.toNat < 2 ^ 52 →
      (∀ key, s.maps (clusterOf core) asid va.toNat .load key → s.shadows = [] → s.ecc = [] → s.l1 = [] →
        (l2 = true → exec (.pref g a l2) s = .next (s.seen asid key))
        ∧ (l2 = false → ∃ w, exec (.pref g a l2) s = .next { s.seen asid (key - va.toNat % 128) with
            l1 := [⟨core, asid, va.toNat / 128 * 128, key - va.toNat % 128, w, .core, 0, s.cycleCount core, 0,
              mgets 0#8 s.mem (key - va.toNat % 128) 128⟩] }))
      ∧ (s.tlbHit (clusterOf core) asid va.toNat .load = none → ∀ s1,
        (∀ p, s.xlate (clusterOf core) asid va.toNat .load true = (.ok p, s1) → exec (.pref g a l2) s = .next s1)
        ∧ ∀ f, s.xlate (clusterOf core) asid va.toNat .load true = (.error f, s1) → exec (.pref g a l2) s = .next (s1.bump (asid / 64) 0x1E08))))
  ∧ (∀ k, s.alone (.fence g k sc) g t → t.tx = none → (∀ o ∈ s.ops, ∀ l ∈ o.lanes, l.uid ≠ t.uid) →
    exec (.fence g k sc) s = .next (match k with
      | .full => (s.release core asid sc).acquire core asid sc
      | .rel => s.release core asid sc
      | .acq => s.acquire core asid sc)
    ∧ (Scope.num sc ≤ 1 → exec (.fence g k sc) s = .next s))
  ∧ (s.alone (.monwait g v a sc) g t → t.opPois (.s2 a) = false → t.opPois (.s v) = false → t.tx = none → va.toNat % 4 = 0 →
    va.toNat < 2 ^ 52 → (∀ o ∈ s.ops, ∀ l ∈ o.lanes, l.uid ≠ t.uid) →
    ∀ n key s1, s.waitRead core asid va.toNat 4 sc = (.ok (n, key), s1) →
      exec (.monwait g v a sc) s = .next (s1.updThr t.uid fun u =>
        if n ≠ (s.src t v).toNat then { u with park := none, st := { u.st with monFull := false } }
        else if 64 ≤ s1.monCount core then { u with park := none, st := { u.st with monFull := true } }
        else { u with park := some (.mon va.toNat key (s.src t v) sc s.iss.slot s.dlc) }))
  ∧ ∀ ext, s.alone (.cplwait g v a ext sc) g t → t.opPois (.s2 a) = false → t.opPois (.s2 v) = false → t.tx = none → va.toNat % 16 = 0 →
    va.toNat < 2 ^ 52 → (∀ o ∈ s.ops, ∀ l ∈ o.lanes, l.uid ≠ t.uid) →
    ∀ n key s1, s.waitRead core asid va.toNat 8 sc = (.ok (n, key), s1) →
      exec (.cplwait g v a ext sc) s = .next (s1.updThr t.uid fun u =>
        if (s.src2 t v).toNat ≤ n then { u with park := none }
        else { u with park := some (.cpl va.toNat key (s.src2 t v) sc ext s.iss.slot s.dlc) }))
  ∧ (∀ (s s1 : State) (t : Thread) (va pa n key slot last : Nat) (sc : Scope), s.thr? t.uid = some t →
  s.threads.filter (fun u => u.gid == t.gid) = [t] → Instr.monwaitPoll t.uid ∉ s.agenda → Instr.cplwaitPoll t.uid ∉ s.agenda →
  let core := s.coreOf t.wg
  let asid := s.asidOf t.wg
  let fresh := if homeOf pa = .peer ∨ homeOf pa = .host then (s.l1Out core asid va (pa / 128 * 128)).rdcDrop (pa / 128 * 128) else s
  (s.runs t.wg = false → exec (.monwaitPoll t.uid) s = .next s ∧ exec (.cplwaitPoll t.uid) s = .next s)
  ∧ (s.runs t.wg = true → ∀ want : Word, t.park = some (.mon va pa want sc slot last) →
    (homeOf pa ≠ .peer → homeOf pa ≠ .host → exec (.monwaitPoll t.uid) s = .next s)
    ∧ (homeOf pa = .peer ∨ homeOf pa = .host → fresh.waitRead core asid va 4 sc = (.ok (n, key), s1) →
      exec (.monwaitPoll t.uid) s = .next (if n = want.toNat then s1.updThr t.uid fun u => { u with park := some (.mon va pa want sc slot s.dlc) }
        else s1.updThr t.uid fun u => { u with park := none, st := { u.st with monFull := false } })))
  ∧ (s.runs t.wg = true → ∀ (want : DWord) ext, t.park = some (.cpl va pa want sc ext slot last) →
    (fresh.updThr t.uid fun u => { u with park := none }).waitRead core asid va 8 sc = (.ok (n, key), s1) →
    exec (.cplwaitPoll t.uid) s = .next (if want.toNat ≤ n then s1.updThr t.uid fun u => { u with park := none }
      else s1.updThr t.uid fun u => { u with park := some (.cpl va key want sc ext slot s.dlc) })))

/-- R114 to R116, R247, R250, R251: transactions open, close and abort. After eight conflicts a transaction is irrevocable and takes its front end's
token; a thread that finds the token taken waits. A revocable TXEND parks the thread until the validation; an irrevocable one commits at once, as a
release and an acquire. An abort leaves its code and continues at the abort target. The model's own readings that it rests on:
notes/assumptions/10.md, notes/assumptions/32.md. -/
def Obligations.TransactionResults : Prop := ∀ (s : State) (g : Pred) (t : Thread),
  let calm := ∀ o ∈ s.ops, ∀ l ∈ o.lanes, l.uid ≠ t.uid
  let closed := fun (u : Thread) => { u with tx := none, park := none, st := { u.st with intx := false, irrev := false, conflicts := 0 } }
  let aborted := fun (c : Nat) (u : Thread) => match u.tx with
    | none => u
    | some x => { u with
        tx := none, pc := x.abortTo, park := none, rep := Rep.none
        st := { u.st with
          abort := c, intx := false, irrev := false, conflicts := if c = 2 ∨ c = 3 then min 8 (u.st.conflicts + 1) else u.st.conflicts } }
  (∀ off, s.alone (.txbegin g off) g t → t.tx = none →
    (t.st.conflicts ≠ 8 → exec (.txbegin g off) s = .next (s.updThr t.uid fun u => { u with
      tx := some ⟨s.target off.toInt, [], []⟩, st := { u.st with intx := true, irrev := false } }))
    ∧ (t.st.conflicts = 8 → (∀ p ∈ s.tokens, p.1 ≠ s.issAsid / 64) →
      exec (.txbegin g off) s = .next { s.updThr t.uid fun u => { u with
        tx := some ⟨s.target off.toInt, [], []⟩, st := { u.st with intx := true, irrev := true } } with
        tokens := s.tokens ++ [(s.issAsid / 64, t.uid)] })
    ∧ (t.st.conflicts = 8 → (∃ p ∈ s.tokens, p.1 = s.issAsid / 64) → exec (.txbegin g off) s = .next (s.retry t.uid)))
  ∧ (∀ x, s.alone (.txend g) g t → t.tx = some x → calm →
    (t.st.irrev = false → exec (.txend g) s = .next { s.updThr t.uid fun u => { u with park := some .txend } with
      agenda := s.agenda ++ [.txValidation t.uid] })
    ∧ (t.st.irrev = true →
      let s1 := (s.release s.iss.core s.issAsid .dev).acquire s.iss.core s.issAsid .dev
      exec (.txend g) s = .next { s1.updThr t.uid closed with tokens := s1.tokens.filter fun p => p.2 != t.uid }))
  ∧ (∀ x, s.thr? t.uid = some t → t.tx = some x → t.park = some .txend →
    (∀ u ∈ s.threads, u.uid ≠ t.uid → u.st.irrev = false) → s.globalBefore t.uid = false →
    (∀ s1, s.txValid (s.asidOf t.wg) x.reads = (true, s1) → s1.takesCkp (s.asidOf t.wg) = false →
      exec (.txValidation t.uid) s = .next ((s1.txCommit (s.coreOf t.wg) (s.asidOf t.wg) x).updThr t.uid closed))
    ∧ (x.reads = [] → x.writes = [] → s.l1 = [] → exec (.txValidation t.uid) s = .next (s.updThr t.uid closed))
    ∧ ∀ r rs bs s1, x.reads = r :: rs → s.homeRead (s.asidOf t.wg) r.pa 128 .dev = (bs, s1) → bs ≠ r.data → s1.ops = [] → s1.thr? t.uid = some t →
      exec (.txValidation t.uid) s = .next (s1.updThr t.uid (aborted 3)))
  ∧ (s.alone (.txctlAbort g) g t →
    (t.tx = none → exec (.txctlAbort g) s = .next s)
    ∧ ∀ x, t.tx = some x → t.st.irrev = false → s.ops = [] →
      exec (.txctlAbort g) s = .next { s.updThr t.uid (aborted 4) with
        iss := { s.iss with trapped := s.iss.trapped ++ [(t.uid, s.iss.slot)] } })

/-- R291, R292: the traversal stack of a thread, kept in its workgroup's scratchpad: a push raises the depth and stores the entry, a pop lowers it and
answers the entry, or all ones where there is none, DEPTH answers the depth and CLEAR zeroes it; each joins the operations in flight. A push on a full
stack traps with RSTACK_OVERFLOW (22). -/
def Obligations.StackResults : Prop := ∀ (s : State) (g : Pred) (t : Thread) (w : Wg) (l : Launch) (entry : DWord),
  s.issLaunch = some l → s.wg? t.wg = some w → t.cntL < 63 → t.cntS < 63 → (∀ o ∈ s.ops, ∀ x ∈ o.lanes, x.uid ≠ t.uid) →
  let slots := 32 * ((l.wgsize + 31) / 32)
  let base := (l.scratch + 1023) / 1024 * 1024 - slots * (4 + 8 * l.rstack)
  let depthAt := base + 4 * (t.tid.toNat % slots)
  let entryAt := fun (e : Nat) => base + 4 * slots + 8 * (e * slots + t.tid.toNat % slots)
  let n := leNat (mgets 0#8 w.spad depthAt 4)
  let stored := fun (f : SMap Byte → SMap Byte) => s.updWg t.wg fun w => { w with spad := f w.spad }
  let depth := fun (k : Nat) (m : SMap Byte) => mputs 0#8 m depthAt (bytesOf 4 k)
  let issue := fun (s1 : State) (i : Instr) (cls : OpClass) (done : Nat → Instr) (ws : List Word) =>
    (s1.updThr t.uid (·.raiseCnt cls)).withOp i cls done [{ s.laneAt t 0 with data := ws }]
  (∀ a, s.alone (.rstkPush g a) g t → t.opPois (.s2 a) = false →
    (n < l.rstack → exec (.rstkPush g a) s = .next (issue
      (stored fun m => mputs 0#8 (depth (n + 1) m) (entryAt n) (bytesOf 8 (s.src2 t a).toNat)) (.rstkPush g a) .s .storePerform []))
    ∧ (l.rstack ≤ n → s.mayTrap t entry → exec (.rstkPush g a) s = .next (s.trapsHere t entry 22 0 0)))
  ∧ (∀ d, s.alone (.rstkPop g d) g t →
    let x := leNat (mgets 0#8 w.spad (entryAt (n - 1)) 8)
    exec (.rstkPop g d) s = .next (issue (stored (depth (n - 1))) (.rstkPop g d) .l .loadReturn
      (if n = 0 then [0xFFFFFFFF#32, 0xFFFFFFFF#32] else [BitVec.ofNat 32 x, BitVec.ofNat 32 (x / 2 ^ 32)])))
  ∧ (∀ d, s.alone (.rstkDepth g d) g t →
    exec (.rstkDepth g d) s = .next (issue (stored (depth n)) (.rstkDepth g d) .l .loadReturn [BitVec.ofNat 32 n]))
  ∧ (s.alone (.rstkClear g) g t → exec (.rstkClear g) s = .next (issue (stored (depth 0)) (.rstkClear g) .s .storePerform []))

/-- R217, R253 to R259, R261: queue registers. QBIND binds a port, or traps with PORT_DENIED (23); QPUT adds a word to the thread's command, and the
word that completes it raises C and hands the command to its engine; QGET pops a word; an unbound queue traps with QUEUE_UNBOUND (11), a push toward
completions with QUEUE_DIRECTION (12). R42, R271 to R273, R285: HOIST appends a record, HOIST.close closes the hoist, a delivery takes the record at
the head to a workgroup that is bound to it, and BIN acts on the bins of the core and the workgroup. The model's own readings that it rests on:
notes/assumptions/41.md. -/
def Obligations.QueueResults : Prop :=
  (∀ (s : State) (g : Pred) (t : Thread) (w : Wg) (d : Dst) (a : Src) (q : BitVec 4) (entry : DWord),
  s.wg? t.wg = some w → t.helper = false → t.tx = none → t.opPois (.s a) = false →
  let b := w.queues[q.toFin]
  let x := s.src t a
  (∀ port, s.alone (.qbind g port a q) g t → (port = .copy ∨ port = .gather ∨ port = .coll ∨ port = .cpl ∨ port = .halyard) →
    (x = 0 → w.seq = none → w.cplWords = [] → exec (.qbind g port a q) s = .next (s.setQb t.wg q.toNat ⟨port, 0, []⟩))
    ∧ (x ≠ 0 → s.mayTrap t entry → exec (.qbind g port a q) s = .next (s.trapsHere t entry 23 0 0)))
  ∧ (s.alone (.qput g a q) g t →
    let ws := t.partial' b.port ++ [x]
    let code := (ws.getD 0 0#32).toNat / 2 ^ 26
    let engine := b.port = .copy ∨ b.port = .gather
    (∀ n, engine → cmdLen b.port code = some n → ws.length < n →
      exec (.qput g a q) s = .next (s.updThr t.uid fun u => u.setPartial b.port ws))
    ∧ (engine → cmdLen b.port code = some ws.length → (∀ o ∈ s.ops, ∀ l ∈ o.lanes, l.uid ≠ t.uid) → t.cntC < 63 → s.l1 = [] →
      exec (.qput g a q) s = .next { s.updThr t.uid fun u => { u.setPartial b.port [] with cntC := u.cntC + 1 } with
        cmds := s.cmds ++ [⟨s.fresh, s.issAsid, .thread t.wg t.uid t.tid, s.iss.core, ws, 0, 0, false, false, 0, s.queueOfWg t.wg, none⟩]
        fresh := s.fresh + 1
        agenda := s.agenda ++ [cmdEvent s.fresh code] })
    ∧ (b.port = .mailbox → (x = 1 → exec (.qput g a q) s = .next { s with agenda := s.agenda ++ [.resume t.wg] })
      ∧ (x = 2 → exec (.qput g a q) s = .next { s with agenda := s.agenda ++ [.abandon t.wg] })
      ∧ (x = 3 → exec (.qput g a q) s = .next { s with agenda := s.agenda ++ [.clrflags t.wg] })
      ∧ (3 < x.toNat → exec (.qput g a q) s = .next s))
    ∧ (s.mayTrap t entry → (b.port = .unbound → exec (.qput g a q) s = .next (s.trapsHere t entry 11 0 0))
      ∧ (b.port = .cpl → exec (.qput g a q) s = .next (s.trapsHere t entry 12 0 0))))
  ∧ (s.alone (.qget g d q) g t →
    (∀ y ys, b.port = .cpl → b.buf = y :: ys → w.seq = none → w.cplWords = [] →
      exec (.qget g d q) s = .next ((s.setQb t.wg q.toNat { b with buf := ys }).updThr t.uid fun u => (u.wr d y.2).trimLog))
    ∧ (b.port = .cpl ∨ b.port = .mailbox → b.buf = [] → exec (.qget g d q) s = .next (s.retry t.uid))
    ∧ (s.mayTrap t entry → b.port = .unbound → exec (.qget g d q) s = .next (s.trapsHere t entry 11 0 0)))
  ∧ ((∀ k : Fin 16, w.queues[k].port ≠ .cpl) → exec (.notifyPush t.wg) s = .next (s.updWg t.wg fun w => { w with cplWords := [] }))
  ∧ ∀ k : Fin 16, w.queues[k].port = .cpl → (∀ j : Fin 16, j < k → w.queues[j].port ≠ .cpl) →
      let room := 16 - w.queues[k].buf.length
      exec (.notifyPush t.wg) s = .next ((s.setQb t.wg k.val { w.queues[k] with
        buf := w.queues[k].buf ++ (w.cplWords.take room).map fun x => (0, x) }).updWg t.wg fun w => { w with cplWords := w.cplWords.drop room }))
  ∧ (∀ (s : State) (g : Pred) (t : Thread) (w : Wg) (q : BitVec 4) (entry : DWord) (h : Fin 64),
  s.wg? t.wg = some w → t.helper = false → t.tx = none →
  let hoist := s.hoists[h]
  let put := fun (x : Hoist) => { s with hoists := s.hoists.set h x }
  (∀ vs b tgt n any, s.alone (.hoist g q vs b tgt n any) g t → w.queues[q.toFin] = ⟨.hoistout, h.val, []⟩ → (any = false → t.opPois (.s b) = false) →
    tgt.opnds.any t.opPois = false → (s.entryOf t tgt).toNat < 2 ^ 52 → (s.entryOf t tgt).toNat % 12 = 0 → hoist.closed = false →
    hoist.recs.length < 256 → (∀ o ∈ s.ops, ∀ l ∈ o.lanes, l.uid ≠ t.uid) → s.l1 = [] → s.takesCkp s.issAsid = false →
    exec (.hoist g q vs b tgt n any) s = .next { put { hoist with recs := hoist.recs ++ [⟨if any then none else some (s.src t b).toNat,
        ⟨false, s.entryOf t tgt, 0, t.payload vs.val n.val, 2, false, false, none⟩, s.issAsid⟩] } with
      agenda := s.agenda ++ [.hoistDelivery h.val] })
  ∧ (∀ vs b tgt n, s.alone (.hoist g q vs b tgt n true) g t → w.queues[q.toFin] = ⟨.hoistout, h.val, []⟩ → tgt.opnds.any t.opPois = false →
    (s.entryOf t tgt).toNat < 2 ^ 52 → (s.entryOf t tgt).toNat % 12 = 0 → hoist.closed = true → s.mayTrap t entry →
    exec (.hoist g q vs b tgt n true) s = .next (s.trapsHere t entry 26 0 0))
  ∧ (s.alone (.hoistClose g q) g t → w.queues[q.toFin] = ⟨.hoistout, h.val, []⟩ →
    (∀ x ∈ s.wgs, ∀ k : Fin 16, ¬(x.queues[k].port = .hoistin ∧ x.queues[k].arg = h.val)) →
    exec (.hoistClose g q) s = .next (put { hoist with closed := true }))
  ∧ ((hoist.recs = [] → exec (.hoistDelivery h.val) s = .next s)
    ∧ ((∀ x ∈ s.wgs, ∀ k : Fin 16, ¬(x.queues[k].port = .hoistin ∧ x.queues[k].arg = h.val)) → exec (.hoistDelivery h.val) s = .next s)
    ∧ ∀ r rest l, hoist.recs = r :: rest → r.dest = none → s.wgs = [w] → w.state = .resident → (∃ k : Fin 16, w.queues[k] = ⟨.hoistin, h.val, []⟩) →
      s.launch? w.launch = some l → l.rstack = 0 → w.ring = [] → s.bins = [] → s.l1 = [] → s.takesCkp l.asid = false → w.seq = none → rest ≠ [] →
      r.seed.empty = false → r.seed.origin = 2 → (∃ u ∈ s.threads, u.wg = w.id) →
      exec (.hoistDelivery h.val) s = .next { put { hoist with recs := rest } with
        wgs := [{ w with spawnCt := w.spawnCt + 1 }]
        bins := [⟨w.core, 0, w.id, r.seed.entry, false, s.fresh, s.dlc, [{ r.seed with tid := w.spawnCt }], none⟩]
        fresh := s.fresh + 1
        agenda := s.agenda ++ [.hoistDelivery h.val] })
  ∧ (∀ tgt, s.alone (.binFlush g tgt) g t → (s.entryOf t tgt).toNat < 2 ^ 52 →
    (s.entryOf t tgt).toNat % 12 = 0 →
    let hit := fun (b : Bin) => b.core = s.iss.core ∧ b.wg = t.wg ∧ b.entry = s.entryOf t tgt ∧ b.due = none ∧ ∃ sd ∈ b.lanes, sd.empty = false
    ∃ s1, exec (.binFlush g tgt) s = .next s1 ∧ s1 = { s with bins := s1.bins, agenda := s1.agenda }
      ∧ s1.bins.length = s.bins.length
      ∧ (∀ (k : Nat) (b : Bin), s.bins[k]? = some b → (hit b → s1.bins[k]? = some { b with due := some s.dlc } ∧ Instr.binLaunch b.core b.num ∈ s1.agenda)
        ∧ (¬hit b → s1.bins[k]? = some b)))
  ∧ ∀ d tgt, s.alone (.binCount g d tgt) g t → (s.entryOf t tgt).toNat < 2 ^ 52 →
    (s.entryOf t tgt).toNat % 12 = 0 →
    exec (.binCount g d tgt) s = .next (s.updThr t.uid fun u => (u.wr d (BitVec.ofNat 32
      ((s.bins.filter fun b => b.core == s.iss.core && b.wg == t.wg && b.entry == s.entryOf t tgt).map fun b =>
        (b.lanes.filter fun sd => !sd.empty).length).sum)).trimLog))

/-- R22, R26, R28 to R31, R228 to R230: EXIT removes the thread; SPAWN and CONT place a new one in a bin; REORDER parks the thread in the open round,
to resume at the REORDER itself if it must trap. The machine is otherwise quiet: no transaction, no access in flight, no L1 line, no barrier
generation and no bin. The model's own readings that it rests on: notes/assumptions/4.md, notes/assumptions/40.md. -/
def Obligations.ThreadLifeResults : Prop := ∀ (s : State) (g : Pred) (t : Thread) (w : Wg) (l : Launch),
  s.wg? t.wg = some w → s.launch? w.launch = some l → l.rstack = 0 → t.tx = none → t.helper = false → t.pixel = false → w.ring = [] → w.round = none →
  s.ops = [] → s.l1 = [] → s.gens = [] → s.bins = [] → (s.wgs.map (·.id)).Nodup →
  let seedOf := fun (entry : DWord) (tid : Word) (vs n : Nat) (origin : Nat) =>
    (⟨false, entry, tid, (List.range n).map fun i => (t.val (vs + i), t.poisoned (vs + i)), origin, false, false, if origin = 1 then t.tile else none⟩ : Seed)
  let binned := fun (s : State) (entry : DWord) (sd : Seed) => { s with
    bins := [⟨w.core, 0, t.wg, entry, false, s.fresh, s.dlc, [sd], none⟩], fresh := s.fresh + 1 }
  let gone := ({ s with
    threads := s.threads.filter (·.uid != t.uid), tokens := s.tokens.filter (·.2 != t.uid) } : State).pruneGroups
  let left : State := { gone with ended := s.ended ++ [(w.core, t)] }
  (s.alone (.exit g) g t → exec (.exit g) s = .next (((left.tileCheck t.wg t.tile).wgCheck t.wg).coreFreed w.core))
  ∧ (∀ tgt vs n, s.alone (.spawn g tgt vs n) g t → tgt.opnds.any t.opPois = false → (s.entryOf t tgt).toNat < 2 ^ 52 →
    (s.entryOf t tgt).toNat % 12 = 0 →
    exec (.spawn g tgt vs n) s = .next (binned (s.updWg t.wg fun w => { w with spawnCt := w.spawnCt + 1 }) (s.entryOf t tgt)
      (seedOf (s.entryOf t tgt) w.spawnCt vs.val n.val 0)))
  ∧ (∀ tgt n, s.alone (.cont g tgt n) g t → s.contOwn t tgt n.val = none → t.cntL = 0 → t.cntT = 0 → s.iss.core = w.core →
    exec (.cont g tgt n) s = .next ((binned gone (s.entryOf t tgt) (seedOf (s.entryOf t tgt) t.tid 0 n.val 1)).coreFreed w.core))
  ∧ ∀ a n, s.alone (.reorder g a n) g t → t.opPois (.s a) = false → t.cntL + t.cntS + t.cntC + t.cntT = 0 →
    (∃ u ∈ s.threads, u.wg = t.wg ∧ u.uid ≠ t.uid) →
    exec (.reorder g a n) s = .next ((s.updThr t.uid fun u => { u with
        park := some (.reorder ((s.src t a).toNat % 2 ^ 16) n.val true s.iss.instrAddr) }).updWg t.wg fun w => { w with
      round := some ⟨n.val, s.dlc, [(t.uid, (s.src t a).toNat % 2 ^ 16)]⟩ })

/-- R35, R37, R40, R232, R233: a barrier. An arrival that is not the last opens a generation that expects the live threads, those that still wait in a
bin or the ring (R13) among them, and parks; the last one releases all. GBAR of a workgroup that its entry does not name traps with GROUP_NOT_MEMBER
(17). The model's own readings that it rests on: notes/assumptions/32.md, notes/assumptions/59.md. -/
def Obligations.BarrierResults : Prop := ∀ (s : State) (g : Pred) (t u : Thread) (w : Wg) (l : Launch) (b : BitVec 4) (idx : BitVec 8) (entry : DWord),
  s.wg? t.wg = some w → s.launch? w.launch = some l → s.issWg = t.wg → t.tx = none → w.seq = none → s.ops = [] → s.l1 = [] → (s.wgs.map (·.id)).Nodup →
  (s.alone (.bar g false b) g t → s.gens = [] → u ∈ s.threads → u.wg = t.wg → u.uid ≠ t.uid →
    exec (.bar g false b) s = .next { s.updThr t.uid fun v => { v with park := some (.bar (.wg t.wg b.toNat)) } with
      gens := [⟨.wg t.wg b.toNat, (s.threads.filter (·.wg == t.wg)).map (·.uid), (s.seedsOf t.wg).map fun x => (t.wg, x), [t.uid], false, false⟩] })
  ∧ (s.alone (.bar g false b) g t → s.gens = [⟨.wg t.wg b.toNat, [u.uid, t.uid], [], [u.uid], false, false⟩] → s.thr? u.uid = some u → u.uid ≠ t.uid →
    exec (.bar g false b) s = .next { s with
      gens := [], threads := s.threads.map fun v => if v.uid = u.uid ∨ v.uid = t.uid then { v with park := none } else v })
  ∧ (∀ e, s.alone (.gbar g idx) g t → l.groups.find? (fun x => x.index == idx.toNat && x.members.contains w.index) = some e → s.gens = [] →
    (∀ x ∈ s.wgs, x.state = .resident) → u ∈ s.threads → u.wg = t.wg → u.uid ≠ t.uid →
    w ∈ s.wgs → l.id = w.launch →
    ∃ s1, exec (.gbar g idx) s = .next s1 ∧ s1 = { s.updThr t.uid fun v => { v with park := some (.bar (.group l.id idx.toNat)) } with gens := s1.gens }
      ∧ ∃ live seeds, s1.gens = [⟨.group l.id idx.toNat, live, seeds, [t.uid], false, false⟩] ∧ (∀ v ∈ s.threads, v.wg = t.wg → v.uid ∈ live) ∧ ∀ x ∈ s.seedsOf t.wg, (t.wg, x) ∈ seeds)
  ∧ (s.alone (.gbar g idx) g t → (∀ e ∈ l.groups, e.index = idx.toNat → w.index ∉ e.members) → s.mayTrap t entry →
    exec (.gbar g idx) s = .next (s.trapsHere t entry 17 0 0))

/-- R295 to R298, R310, R311, R326: reservations, stream submission and tile reads by a thread. The model's own readings that it rests on:
notes/assumptions/45.md. -/
def Obligations.MatrixThreadResults : Prop := ∀ (s : State) (g : Pred) (t : Thread) (w : Wg) (l : Launch) (d : Dst) (a b e : Src) (entry : DWord),
  s.wg? t.wg = some w → s.launchOfWg t.wg = some l → t.opPois (.s a) = false → t.opPois (.s b) = false → t.opPois (.s e) = false →
  t.opPois (.s2 a) = false →
  (∀ fmt bl scl ten ph,
    let i := Instr.resv g d a b fmt bl scl ten ph
    let x := (s.src t a).toNat
    let y := (s.src t b).toNat
    let r := fun (id : Nat) => Resv.mk id (x % 2 ^ 11) (x / 2 ^ 11 % 2 ^ 12) fmt bl scl (32 * (y % 2 ^ 11)) (y / 2 ^ 11 % 2 ^ 11) ten ph.toNat
    let scaled := fmt = .t6 ∨ fmt = .t8 ∨ fmt = .e4m3 ∨ fmt = .e5m2
    let legal := x < 2 ^ 23 ∧ y < 2 ^ 22 ∧ 0 < (r 0).count ∧ (r 0).base + (r 0).count ≤ l.obuf ∧ 0 < (r 0).rl
      ∧ (scl = true → scaled ∧ 0 < (r 0).soff ∧ (r 0).soff < (r 0).count ∧ (r 0).rl % bl.elems = 0) ∧ (scl = false → (r 0).soff = 0)
    (∀ id, s.alone i g t → legal → id < 64 → (∀ x ∈ w.resv, x.id ≠ id) → (∀ k, k < id → ∃ x ∈ w.resv, x.id = k) →
      exec i s = .next ((s.updWg t.wg fun w => { w with resv := w.resv ++ [r id] }).updThr t.uid fun u => (u.wr d (BitVec.ofNat 32 id)).trimLog))
    ∧ (s.alone i g t → legal → (∀ k, k < 64 → ∃ x ∈ w.resv, x.id = k) →
      exec i s = .next (s.updThr t.uid fun u => (u.wr d 0xFFFFFFFF#32).trimLog))
    ∧ (s.alone i g t → ¬legal → s.mayTrap t entry → exec i s = .next (s.trapsHere t entry 27 0 0)))
  ∧ (s.alone (.rfree g a) g t →
    ((∃ r ∈ w.resv, r.id = (s.src t a).toNat) → exec (.rfree g a) s = .next (s.updWg t.wg fun w => { w with
      resv := w.resv.filter fun r => r.id != (s.src t a).toNat }))
    ∧ ((∀ r ∈ w.resv, r.id ≠ (s.src t a).toNat) → s.mayTrap t entry → exec (.rfree g a) s = .next (s.trapsHere t entry 27 0 0)))
  ∧ (∀ q, s.alone (.seq g a b e) g t → w.seq = some q → (s.src2 t a).toNat < 2 ^ 52 → (s.src2 t a).toNat % 4 = 0 → (s.src t b).toNat < 2 ^ 16 →
    q.queue.length < 4 → t.cntT < 63 →
    let x := Stream.mk (s.src2 t a).toNat (s.src t b).toNat (s.src t e) t.uid t.tid
    exec (.seq g a b e) s = .next ((s.updSeq t.wg fun q => match q.st, q.queue ++ [x] with
      | .idle, y :: ys => { q with
          st := .running, cur := some y, queue := ys, pc := 0, loops := [], idx := 0, stallBar := none, wait := false, drop := false, fault := none }
      | _, ys => { q with queue := ys }).updThr t.uid fun u => { u with cntT := u.cntT + 1 }))
  ∧ ∀ q what fmt rnd n row half ws fl,
    let i := Instr.accrd g d what fmt rnd n row half
    let tl := q.tiles.getD n.toNat .fresh
    s.alone i g t → s.issWg = t.wg → w.seq = some q → accBad tl what fmt.toNat half = false → t.cntT < 63 →
    q.accVal tl what fmt.toNat rnd row.toNat t.lane half = some (ws, fl) →
    exec i s = .next ((s.updThr t.uid fun u => s.raised { u with cntT := u.cntT + 1 } fl).withOp i .t .rayTestComplete
      [{ s.laneAt t 0 with data := ws }])
    ∧ (what = .exp → ws = [BitVec.ofInt 32 (if (tl.rows.getD row.toNat (.zero tl.mode)).empty then 0 else (tl.rows.getD row.toNat (.zero tl.mode)).e)])
    ∧ (what = .elem → fmt = 4 → tl.mode = .i32 →
      ws = [lo32 ((tl.rows.getD row.toNat (.zero tl.mode)).vals.getD ((if half then 32 else 0) + t.lane) 0)])
    ∧ (what = .seqpc → ws = [BitVec.ofNat 32 q.pc])

/-- R304 to R309, R318 to R320, R324, R325: the matrix instructions that reach a tile of their own, out of ordered mode and with nothing waiting at
its port: each applies at once. MZERO empties the tile, MSTEP enters or leaves ordered mode, MRENORM shifts the mantissas of its rows, and MMAC and
MBIN accumulate. R307: integer and bit accumulation. A chunk adds to each element of an I32 tile the exact sum of its products, or the number of set
bits of A and B combined by and or by xor, modulo 2^32, and sets OVF where the sum leaves the range. The model's own readings that it rests on:
notes/assumptions/42.md. -/
def Obligations.TileResults : Prop :=
  (∀ (s : State) (w : Wg) (q : Seq) (t : BitVec 3), s.wg? s.seqWg = some w → w.seq = some q →
  (s.wgs.map (·.id)).Nodup → w.gang = none → q.tiles.length = 8 → q.wait = false → q.drop = false →
  let tl := q.tiles.getD t.toNat .fresh
  let put := fun (x : Tile) (fl : Flags) => s.updSeq w.id fun q => { q with tiles := q.tiles.set t.toNat x, flags := q.flags ||| fl }
  tl.ordered = false → tl.waiting = [] → tl.pos = [] →
  (∀ mode, exec (.mzero mode t) s = .next (put { tl with mode := mode, rows := List.replicate 16 (TileRow.zero mode), rcnt := 0, flush := 0 } 0))
  ∧ (∀ mask : BitVec 12, (mask = 1 → exec (.mstep mask true t) s = .next (put { tl with ordered := true, mask := 1, pos := [] } 0))
    ∧ (mask = 0 → exec (.mstep mask false t) s = .next (put { tl with ordered := false, mask := 0, pos := [] } 0)))
  ∧ (∀ n : BitVec 6, tl.mode = .bfp48 → 0 < n.toNat → n.toNat ≤ 47 →
    exec (.mrenorm n true true 0 t) s = .next (put { tl with rows := ((List.range 16).zip tl.rows).map fun p => p.2.renorm true n.toNat } 0)
    ∧ ∀ r : TileRow, r.empty = false → r.e + n.toNat ≤ 2047 → (r.renorm true n.toNat).e = r.e + n.toNat ∧ ∀ (k : Nat) (m : Int), r.cols[k]? = some (Bfp.fin m) →
        ∃ m' : Int, (r.renorm true n.toNat).cols[k]? = some (Bfp.fin m') ∧ (2 * (m' * 2 ^ n.toNat - m)).natAbs ≤ 2 ^ n.toNat)
  ∧ ∀ bi ai ki wt bid aid kb ar br (isBin xr : Bool) x fl,
    let i := if isBin then Instr.mbin xr bi ai ki wt bid aid 15 t kb ar br else Instr.mmac bi ai ki wt bid aid 15 t kb ar br
    (wt = true → bid = 0) → w.apply q ⟨0, w.id, i, q.idx, q.pc - 2, q.loops, w.resv⟩
      { tl with waiting := [⟨0, w.id, i, q.idx, q.pc - 2, q.loops, w.resv⟩] } = .ok (x, 0, fl) →
    exec i s = .next (put { x with waiting := [] } fl))
  ∧ (∀ (row : TileRow) (as : List Int), row.vals.length = as.length →
  let out := i32Row row (as.map some)
  out.vals.length = row.vals.length
  ∧ (∀ (k : Nat) (v : DWord) (a : Int), row.vals[k]? = some v → as[k]? = some a → out.vals[k]? = some (BitVec.ofInt 64 (((v.setWidth 32).toInt + a) % 2 ^ 32)))
  ∧ (out.ovf = true ↔ row.ovf = true ∨ ∃ (k : Nat) (v : DWord) (a : Int), row.vals[k]? = some v ∧ as[k]? = some a ∧
      ((v.setWidth 32).toInt + a < -2 ^ 31 ∨ 2 ^ 31 ≤ (v.setWidth 32).toInt + a))
  ∧ ∀ (t : Tile) (xr : Bool) (a b : List (List Bool)), t.rows.length = a.length → (∀ r ∈ t.rows, r.vals.length = b.length) →
      ∀ (k : Nat) (r : TileRow) (x : List Bool), t.rows[k]? = some r → a[k]? = some x →
        (t.bin xr a b).rows[k]? = some (i32Row r (b.map fun c =>
          some (((x.zip c).map fun p => if xr then (if p.1 = p.2 then 0 else 1) else if p.1 && p.2 then 1 else 0).sum : Nat))))

/-- R323: MPHASE sets PH of reservation ID to the value of the PH field; an id that the workgroup does not hold raises MSEQ_RANGE (2). -/
def Obligations.PhaseResults : Prop := ∀ (s : State) (w : Wg) (q : Seq) (c : Stream), s.wg? s.seqWg = some w → w.seq = some q → q.cur = some c →
  (s.wgs.map (·.id)).Nodup → ∀ (ph : BitVec 7) (id : BitVec 6),
  ((∃ r ∈ w.resv, r.id = id.toNat) → exec (.mphase ph id) s = .next (s.updWg w.id fun w => { w with
    resv := w.resv.map fun r => if r.id = id.toNat then { r with ph := ph.toNat } else r }))
  ∧ ((∀ r ∈ w.resv, r.id ≠ id.toNat) → exec (.mphase ph id) s = .next (s.seqTrap w.id 2 (q.pc - 1)))

/-- R310 to R314, R321, R322: the matrix instructions of control. MEXPORT writes a tile into a reservation; MWAIT and MSIG arrive at a barrier, and
MWAIT stalls; MLOOP opens a loop or skips its body; MEND ends the stream and lowers T. A reservation that is not held traps the sequencer with cause
2. The model's own readings that it rests on: notes/assumptions/42.md. -/
def Obligations.StreamResults : Prop := ∀ (s : State) (w : Wg) (q : Seq) (c : Stream), s.wg? s.seqWg = some w → w.seq = some q → q.cur = some c →
  (s.wgs.map (·.id)).Nodup →
  exec .mnop s = .next s
  ∧ (∀ len cnt, 2 ≤ len.toNat → q.loops = [] →
    exec (.mloop len false cnt) s = .next (s.updSeq w.id fun q => { q with
      loops := [⟨q.pc, q.pc - 1 + len.toNat, cnt.toNat + 1, q.idx⟩], idx := 0 })
    ∧ (c.par = 0 → exec (.mloop len true 0) s = .next (s.updSeq w.id fun q => { q with pc := q.pc - 1 + len.toNat })))
  ∧ (∀ b : BitVec 4, c.mask / 2 ^ b.toNat % 2 = 1 → s.gens = [] → (∃ u ∈ s.threads, u.wg = w.id) → q.st = .running →
    let gen := (⟨.wg w.id b.toNat, (s.threads.filter (·.wg == w.id)).map (·.uid), (s.seedsOf w.id).map fun x => (w.id, x), [], true, true⟩ : Gen)
    exec (.msig b) s = .next { s with gens := [gen] }
    ∧ exec (.mwait b) s = .next { s.updSeq w.id fun q => { q with st := .stalled, stallBar := some (b.toNat, true) } with gens := [gen] })
  ∧ (∀ t, s.gens = [] → q.queue = [] → s.thr? c.uid = some t → t.park = none → t.wg = w.id → (∀ k : Fin 16, w.queues[k].port ≠ .mailbox) →
    exec .mend s = .next ((s.updSeq w.id fun q => { q with
      st := .idle, cur := none, loops := [], idx := 0, stallBar := none, wait := false, drop := false, fault := none, mail := [] }).updThr c.uid
        fun u => { u with cntT := u.cntT - 1 }))
  ∧ ∀ did t dr dc,
    let tl := q.tiles.getD t.toNat .fresh
    let c0 := 32 * dc.toNat
    ((∀ r ∈ w.resv, r.id ≠ did.toNat) → exec (.mexport false did t dr dc) s = .next (s.seqTrap w.id 2 (q.pc - 2)))
    ∧ ∀ r, w.resv.find? (·.id == did.toNat) = some r → r.fmt = .f32 → r.sc = false → tl.mode ≠ .f64 → r.covers dr.toNat 16 c0 64 = true →
      let out := (List.range 16).foldl (fun (acc : SMap Byte × Flags) i =>
        let x := exportRow tl r .rn i (dr.toNat + i) c0 acc.1
        (x.1, acc.2 ||| x.2)) (w.obuf, 0)
      exec (.mexport false did t dr dc) s = .next ((s.updWg w.id fun w => { w with obuf := out.1 }).updSeq w.id fun q => { q with
        flags := q.flags ||| out.2 })

/-- R311, R314, R325: the commands to a sequencer, the start of a stream, and the arrival whose turn has come at a tile port in ordered mode. The
model's own readings that it rests on: notes/assumptions/8.md. -/
def Obligations.SequencerEvents : Prop := ∀ (s : State) (w : Wg) (q : Seq), s.wg? w.id = some w → w.seq = some q → (s.wgs.map (·.id)).Nodup →
  (q.st = .trapped → exec (.resume w.id) s = .next (s.updSeq w.id fun q => { q with st := .running }))
  ∧ (q.st ≠ .trapped → exec (.resume w.id) s = .next s)
  ∧ exec (.clrflags w.id) s = .next (s.updSeq w.id fun q => { q with flags := 0 })
  ∧ (q.st = .idle → exec (.abandon w.id) s = .next s)
  ∧ (∀ c t, q.st ≠ .idle → q.wait = false → q.cur = some c → s.gens = [] → q.queue = [] → s.thr? c.uid = some t → t.park = none → t.wg = w.id →
    (∀ k : Fin 16, w.queues[k].port ≠ .mailbox) →
    exec (.abandon w.id) s = .next ((s.updSeq w.id fun q => { q with
      st := .idle, cur := none, loops := [], idx := 0, stallBar := none, wait := false, drop := false, fault := none, mail := [] }).updThr c.uid
        fun u => { u with cntT := u.cntT - 1 }))
  ∧ (∀ x xs, q.st = .idle → q.queue = x :: xs → exec (.seqStreamStart w.id) s = .next (s.updSeq w.id fun q => { q with
      st := .running, cur := some x, queue := xs, pc := 0, loops := [], idx := 0, stallBar := none, wait := false, drop := false, fault := none }))
  ∧ ∀ (t : Fin 8) (tl : Tile) (m : TileMode) (n : BitVec 3) (a : Arrival), q.tiles[t.val]? = some tl → tl.waiting = [a] →
      a.instr = .mzero m n → a.wg = w.id → q.wait = true → q.drop = false →
      (tl.ordered = false ∨ tl.pos = []) →
      exec (.orderedStepApply w.id t.val) s = .next (s.updSeq w.id fun q => { q with
        tiles := q.tiles.set t.val { tl with mode := m, rows := List.replicate 16 (TileRow.zero m), rcnt := 0, flush := 0, waiting := [] }
        st := .running, wait := false })

/-- R99, R242: bytes written at their home in DRAM read back from there, and no other byte of memory changes; a line of which nothing is tracked or
awaited changes nothing else. R411: a fill of the L2 goes into the colour of the requester's mask that the line's address names, and evicts a line of
that colour alone. A sparse map reads back what was written and stays in canonical form; two maps in canonical form that read alike are one. R98,
R111, R246: the events of the caches. A dirty byte is written back when its time comes, a narrow line that is clean leaves the L1, and an eviction
from the L2 folds the line's shadow and ends the MONWAITs on it. The model's own readings that it rests on: notes/assumptions/2.md,
notes/assumptions/60.md. -/
def Obligations.MemoryAndCaches : Prop :=
  (∀ (s : State) (asid key : Nat) (bs : List Byte) (sc : Scope) (keep : Option Nat), Mem.wf s.mem = true → s.shadows = [] →
  key + bs.length ≤ 2 ^ 40 →
  let t := s.homeWrite asid key bs sc keep
  (∀ a, mget 0#8 t.mem a = if key ≤ a ∧ a < key + bs.length then bs.getD (a - key) 0#8 else mget 0#8 s.mem a)
  ∧ Mem.wf t.mem = true
  ∧ (s.ecc = [] → t.homeRead asid key bs.length sc = (bs, t))
  ∧ (s.l1 = [] → (∀ u ∈ s.threads, u.park = none) → t = { s with mem := t.mem, l2 := t.l2, fresh := t.fresh }))
  ∧ (∀ (s : State) (fe line : Nat), (s.l2.map (·.line)).Nodup →
  let H := line / 2 ^ 7 % 64 ^^^ line / 2 ^ 13 % 64 ^^^ line / 2 ^ 19 % 64 ^^^ line / 2 ^ 25 % 64 ^^^ line / 2 ^ 31 % 64 ^^^ line / 2 ^ 37 % 64
    ^^^ line / 2 ^ 43 % 32
  let mine := s.colours fe
  let t := s.l2Fill fe line
  (t.l2.map (·.line)).Nodup
  ∧ (∀ c, mine[H % mine.length]? = some c → (∃ x ∈ t.l2, x.line = line) ∧ (∀ x ∈ s.l2, x ∉ t.l2 → x.colour = c)
      ∧ ∀ x ∈ t.l2, x ∉ s.l2 → x = ⟨line, c⟩)
  ∧ (mine = [] → t = s)
  ∧ ((∃ x ∈ s.l2, x.line = line) → t = s))
  ∧ (∀ (m n : Mem), Mem.wf m = true →
  (∀ k v j, mget 0#8 (mput 0#8 m k v) j = if j = k then v else mget 0#8 m j)
  ∧ (∀ k v, Mem.wf (mput 0#8 m k v) = true)
  ∧ (∀ k bs, Mem.wf (mputs 0#8 m k bs) = true)
  ∧ (∀ k b bs j, mget 0#8 (mputs 0#8 m k (b :: bs)) j =
      if k ≤ j ∧ j < k + (bs.length + 1) then (b :: bs).getD (j - k) 0#8 else mget 0#8 m j)
  ∧ (Mem.wf n = true → (∀ k, mget 0#8 m k = mget 0#8 n k) → m = n))
  ∧ (∀ (s : State) (core asid va : Nat),
  (∀ l k, s.l1at core asid va = some l → k < 128 → l.dirty = 2 ^ k → exec (.l1DirtyTimeout core asid va) s = .next
    ((s.updL1 l.core l.asid l.va fun l => { l with dirty := 0 }).homeWrite l.asid (l.pa + k) ((l.data.drop k).take 1) .dev (some l.core)))
  ∧ (∀ l, s.l1at core asid va = some l → l.dirty = 0 → Scope.num l.sc ≤ 1 → l.core = core → l.asid = asid → l.va = va / 128 * 128 →
    exec (.l1NarrowTimeout core asid va) s = .next { s with
      l1 := s.l1.filter fun x => !(x.core == core && x.asid == asid && x.va == l.va / 128 * 128) })
  ∧ (∀ l, s.l1at core asid va = some l → 2 ≤ Scope.num l.sc → exec (.l1NarrowTimeout core asid va) s = .next s)
  ∧ ∀ line, line % 128 = 0 → line < 2 ^ 40 →
      exec (.l2Eviction line) s = .next { s.fold line with
        l2 := s.l2.filter (·.line != line)
        threads := s.threads.map fun u => match u.park with
        | some (.mon _ pa _ _ _ _) => if pa / 128 * 128 = line then { u with park := none, st := { u.st with monFull := false } } else u
        | _ => u })

/-- R22 to R26, R31, R32: the events that make threads run. A due bin becomes a lane group with its threads in lane order; a bin whose time has come
is due; the unit at the head of a continuation ring moves into a bin; a round of REORDER closes. The model's own readings that it rests on:
notes/assumptions/4.md, notes/assumptions/7.md. -/
def Obligations.BinEvents : Prop := ∀ (s : State) (w : Wg) (l : Launch) (sd : Seed), s.wg? w.id = some w → s.launch? w.launch = some l →
  (∀ b, s.bins = [b] → b.wg = w.id → b.core = w.core → b.quad = false → b.lanes = [sd] → sd.empty = false →
    (b.due.isSome → s.groups = [] → (∀ x ∈ s.wgs, x.ring = [] ∧ x.state = .resident) → s.coreThreads w.core < 2048 → l.groupBytes ≤ 524288 →
      exec (.binLaunch w.core b.num) s = .next { s with
        ended := s.ended.filter fun p => p.1 != w.core
        bins := [], fresh := s.fresh + 2, groups := [⟨s.fresh, w.core, 0, w.id, []⟩]
        threads := s.threads ++ [newThread (s.fresh + 1) w.id s.fresh 0 sd]
        gens := s.gens.map fun x => if (w.id, sd.tid) ∈ x.seeds then
          { x with seeds := x.seeds.erase (w.id, sd.tid), expected := x.expected ++ [s.fresh + 1] } else x })
    ∧ (b.due = none → w.state = .resident → Instr.binLaunch w.core b.num ∉ s.agenda → exec (.binTimerExpiry w.core b.num) s = .next { s with
        bins := [{ b with due := some (min s.dlc (b.since + l.binTimer * 2 ^ 32 / 10000000)) }], agenda := s.agenda ++ [.binLaunch w.core b.num] }))
  ∧ (w.ring = [] → w.paused = false → (s.wgs.map (·.id)).Nodup → exec (.ringUnitMove w.id) s = .next s)
  ∧ (∀ bs, w.ring = [[sd]] → w.paused = false → w.ringOk = w.ringRd + 1 → (s.wgs.map (·.id)).Nodup →
    w.state = .resident → s.ringHeld w.id = false → l.shade = none →
    s.ctxRead (clusterOf w.core) l.asid .dev 13 (l.cring + w.index * l.crcap * 96 + 96 * (w.ringRd % max 1 l.crcap)) 96 = (.ok bs, s) → s.bins = [] →
    sd.empty = false →
    exec (.ringUnitMove w.id) s = .next { s.updWg w.id fun w => { w with ring := [], ringRd := w.ringRd + 1 } with
      bins := [⟨w.core, 0, w.id, sd.entry, false, s.fresh, s.dlc, [sd], none⟩], fresh := s.fresh + 1 })
  ∧ ∀ t n since key grp, s.threads = [t] → s.groups = [grp] → grp.id = t.gid → grp.core = w.core → grp.wg = w.id → t.wg = w.id → t.pixel = false →
      w.round = some ⟨n, since, [(t.uid, key)]⟩ → l.groupBytes ≤ 524288 → s.bins = [] → (∀ x ∈ s.wgs, x.ring = [] ∧ x.state = .resident) →
      exec (.reorderTimerExpiry w.id) s = .next { s.updWg w.id fun w => { w with round := none } with
        ended := s.ended.filter fun p => p.1 != w.core
        fresh := s.fresh + 1, groups := [⟨s.fresh, w.core, 0, w.id, []⟩]
        threads := [({ t.keepRegs n with gid := s.fresh, lane := 0, park := none, st := { t.st with skipped := false } } : Thread).trimLog] }

/-- R16, R34, R36, R39, R107, R356, R373: placement. A single workgroup of one thread starts on the core that was picked; a gang, the members of
co-resident entries and a saved unit are placed all or not at all, every member on a core of its own; threads start after an acquire, at .sys where a
node names it (R107); work of a queue whose EN is 0 is not placed (R384); a PC group that has aged is noted. The model's own readings that it rests
on: notes/assumptions/4.md, notes/assumptions/54.md, notes/assumptions/57.md, notes/assumptions/63.md. -/
def Obligations.PlacementEvents : Prop := ∀ (s s1 : State) (w : Wg) (l : Launch), s.wg? w.id = some w → s.launch? w.launch = some l →
  s.mayPlace (l.asid / 64) = true →
  (∀ p : Slot, w.state = .waiting → w.gang = none → s.coResident w = false → l.shade = none → l.wgsize = 1 → l.isMatrix = false → p.core < 216 →
    (s.sharers (clusterOf p.core)).length ≤ 1 → s.groups = [] → s.queueOn l = true →
    s.rregN (l.asid / 64) (0x0A06 + 8 * (l.asid % 64)) / 16 % 16 < 2 →
    s.pick w l none (s.gangBars w l) = some p →
    exec (.workgroupPlacement w.id none) s = .next (State.acquire { s.updWg w.id fun w => { w with
        core := p.core, state := .resident, base := p.base, obase := p.obase, spad := [], obuf := [], resv := [], spawnCt := 1, seq := none
        opened := s.fresh } with
      past := s.past.filter fun x => x.core != p.core
      ended := s.ended.filter fun x => x.1 != p.core
      rrLast := mput 0 s.rrLast (4 * (l.asid / 64) + Prio.num l.prio) (l.asid % 64 + 1)
      fresh := s.fresh + 3, groups := [⟨s.fresh + 1, p.core, 0, w.id, []⟩]
      threads := s.threads ++ [newThread (s.fresh + 2) w.id (s.fresh + 1) 0 ⟨false, l.entry, 0, [], 0, false, false, none⟩]
      gens := s.gens.map fun x => if (w.id, 0) ∈ x.seeds then
        { x with seeds := x.seeds.erase (w.id, 0), expected := x.expected ++ [s.fresh + 2] } else x } p.core l.asid (s.startScope l)))
  ∧ (∀ hint, w.state = .waiting → w.gang = none → s.coResident w = false → s.pick w l hint (s.gangBars w l) = none →
    exec (.workgroupPlacement w.id hint) s = .next s)
  ∧ (w.state = .waiting → (∀ x ∈ s.unitOf w, x.state = .waiting) → l.shade = none → (∀ x ∈ s.unitOf w, x.launch = w.launch) →
    (s.queueOn l = true → s.placeUnitOn (s.unitOf w) (s.gangBars w l) = some s1 → s1.launches = s.launches →
      exec (.gangPlacement w.id) s = .next s1)
    ∧ (s.placeUnitOn (s.unitOf w) (s.gangBars w l) = none → exec (.gangPlacement w.id) s = .next s))
  ∧ (∀ barred, s.placeUnitOn (s.unitOf w) barred = some s1 →
    ((∀ x ∈ s.unitOf w, x.state = .waiting) → ∀ x ∈ s.unitOf w, ∃ y, s1.wg? x.id = some y ∧ y.state = .resident)
    ∧ ∀ x ∈ s.unitOf w, ∀ y, s1.wg? x.id = some y → y.state = .resident ∨ y.state = .done)
  ∧ (∀ gr : Graph, w.state = .saved → (∀ x ∈ s.unitOf w, x.state = .saved) → l.shade = none → (∀ x ∈ s.unitOf w, x.launch = w.launch) →
    s.graph? l.graph = some gr → gr.asid = l.asid → (∀ h ∈ s.halts, ∀ x ∈ s.unitOf w, h.1 ≠ x.id) →
    s.unreadable l.asid (s.imagesOf 0 ((s.unitOf w).map (·.id))) = (none, s) →
    ((s.rregN (l.asid / 64) (0x0800 + 16 * gr.queue)) / 2 ^ 31 % 2 = 1 → s.placeUnitOn (s.unitOf w) (s.gangBars w l) = some s1 →
      s1.launches = s.launches → exec (.resumePlacement w.id) s = .next s1)
    ∧ ((s.rregN (l.asid / 64) (0x0800 + 16 * gr.queue)) / 2 ^ 31 % 2 = 0 → (∀ slot sq, gr.src ≠ .strip slot sq) →
      exec (.resumePlacement w.id) s = .next s))
  ∧ (∀ (gr : Graph) (hint : Option Nat), s.graph? l.graph = some gr → gr.asid = l.asid → (∀ slot sq, gr.src ≠ .strip slot sq) → w.state = .waiting →
    (s.rregN (l.asid / 64) (0x0800 + 16 * gr.queue)) / 2 ^ 31 % 2 = 0 →
    exec (.workgroupPlacement w.id hint) s = .next s ∧ exec (.gangPlacement w.id) s = .next s)
  ∧ ∀ (gid : Nat) (pc : DWord), (∃ t ∈ s.threads, t.gid = gid ∧ t.pc = pc) → exec (.pcGroupAged gid pc) s = .next { s with
      groups := s.groups.map fun x => if x.id = gid ∧ pc ∉ x.aged then { x with aged := x.aged ++ [pc] } else x }

/-- R108, R257, R263 to R265: one unit of a command of a copy engine, at any position, in memory that is mapped and plain: COPY moves eight bytes,
FILL writes its pattern, TILE moves a unit of a row, GATHER and SCATTER move one through an index. After the last unit the command ends with OK; at a
4 KiB boundary of its destination it goes on in a later event; else with the next unit. A command whose checks fail ends with their status and moves
nothing. The model's own readings that it rests on: notes/assumptions/20.md. -/
def Obligations.EngineMoves : Prop := ∀ (s : State) (c : Cmd) (ks kd : Nat), s.cmd? c.id = some c → c.ended = false → c.paused = false → s.plain c.asid →
  let cl := clusterOf c.core
  let u := c.pos
  let per := c.w 1 / 8
  let moves := fun (i : Instr) (total dst : Nat) (unit : Cmd → State → Nat → (Except EngStop (Spot × Spot)) × State) (s0 : State) (bs : List Byte) =>
    let s1 := s0.homeWrite c.asid kd bs .dev none
    u < total → dst + 8 ≤ 2 ^ 52 → s.maps cl c.asid dst .store kd →
      exec i s = .next (if u + 1 = total then s1.cmdEnd c.id 0
        else if (dst + 8) % 4096 = 0 then (s1.updCmd c.id fun c => { c with pos := u + 1 }).postOnce i
        else s1.engUnits c total i (unit c) 511 (u + 1))
  let word := mgets 0#8 s.mem ks 8
  let from' := fun (src : Nat) => src + 8 ≤ 2 ^ 52 ∧ s.maps cl c.asid src .load ks
  let ended := fun (st : Nat) => s.cmdEnd c.id st
  ((u = 0 → copyChk s c = none) → from' (c.w2 2 + 8 * u) → moves (.copy c.id) per (c.w2 4 + 8 * u) copyUnit (s.seen c.asid ks) word)
  ∧ ((u = 0 → fillChk s c = none) → moves (.fill c.id) per (c.w2 2 + 8 * u) fillUnit s (bytesOf 8 (c.w2 4)))
  ∧ (c.w 5 = 0 → (u = 0 → tileChk s c = none) → from' (c.w2 6 + (u / per * c.w 3 + 8 * (u % per))) →
    moves (.tile c.id) (per * c.w 2) (c.w2 8 + (u / per * c.w 4 + 8 * (u % per))) tileUnit (s.seen c.asid ks) word)
  ∧ (∀ ki, (u = 0 → gatherChk s c = none) →
    let iw := if c.w 3 % 2 = 1 then 8 else 4
    let a := (c.w2 6 + leNat (mgets 0#8 s.mem ki iw) * c.w 1) % 2 ^ 64
    let line := c.w2 8 + 8 * u
    let item := a + 8 * (u % per)
    a < 2 ^ 52 → c.w2 4 + u / per * iw + iw ≤ 2 ^ 52 → s.maps cl c.asid (c.w2 4 + u / per * iw) .load ki →
    (from' item → moves (.gather c.id) (per * c.w 2) line (gatherUnit false) ((s.seen c.asid ki).seen c.asid ks) word)
    ∧ (from' line → moves (.scatter c.id) (per * c.w 2) item (gatherUnit true) ((s.seen c.asid ki).seen c.asid ks) word))
  ∧ (∀ st, u = 0 → (copyChk s c = some st → exec (.copy c.id) s = .next (ended st)) ∧ (fillChk s c = some st → exec (.fill c.id) s = .next (ended st))
    ∧ (tileChk s c = some st → c.w 5 = 0 → exec (.tile c.id) s = .next (ended st))
    ∧ (gatherChk s c = some st → exec (.gather c.id) s = .next (ended st) ∧ exec (.scatter c.id) s = .next (ended st)))
  ∧ (c.badHead = false → 0 < c.w 1 → c.w2 2 < c.w2 4 + c.w 1 → c.w2 4 < c.w2 2 + c.w 1 → copyChk s c = some 1)

/-- R266 to R268: the collectives. Without every peer's part a command waits; a peer whose command differs ends it with MISMATCH (5); a BROADCAST on a
rank other than ROOT takes part without a source; with every part the last element of the destination is written, as R267 combines the ranks, and the
command ends with OK. The model's own readings that it rests on: notes/assumptions/6.md. -/
def Obligations.Collectives : Prop := ∀ (s : State) (c : Cmd) (g : CGroup) (all : List Contribution) (kd : Nat), s.cmd? c.id = some c → c.ended = false →
  c.paused = false → s.cgroup c.asid c.group = some g → collChk s c = none → s.plain c.asid →
  let run := fun (ps : List Contribution) (op : Nat) =>
    if op = 0x10 then Instr.allreduce c.id ps else if op = 0x11 then .reduce c.id ps else if op = 0x12 then .broadcast c.id ps
    else if op = 0x13 then .allgather c.id ps else .reducescatter c.id ps
  let es := Ty.bytes c.cty
  let k := c.pos
  let elem := fun (p : Contribution) (i : Nat) => (p.data.getD i 0#64).toNat
  let of' := fun (rank i : Nat) => ((all.find? (·.rank == rank)).map fun p => elem p i).getD 0
  let value := fun (op : Nat) =>
    if op = 0x12 then of' (c.w 3) k else if op = 0x13 then of' (k / c.count) (k % c.count)
    else if op = 0x14 then collReduce c.cty c.opr (all.map fun p => elem p (g.rank * c.count + k))
    else collReduce c.cty c.opr (all.map fun p => elem p k)
  ∀ op, c.code = op → 0x10 ≤ op → op ≤ 0x14 →
    ((∃ j, j < g.n ∧ j ≠ g.rank ∧ ∀ p ∈ all, p.rank ≠ j) → exec (run all op) s = .next s)
    ∧ ((∀ j, j < g.n → ∃ p ∈ all, p.rank = j) → (∃ p ∈ all, c.meets p = false) → exec (run all op) s = .next (s.cmdEnd c.id 5))
    ∧ (g.rank < g.n → (∀ j, j < g.n → ∃ p ∈ all, p.rank = j) → (∀ p ∈ all, c.meets p = true) → (op = 0x11 → g.rank = c.w 3) →
      k + 1 = c.dstCount g.n → s.maps (clusterOf c.core) c.asid (c.w2 6 + k * es) .store kd → c.w2 6 + k * es + es ≤ 2 ^ 52 →
      exec (run all op) s = .next (((s.homeWrite c.asid kd (bytesOf es (value op)) .fab none).rdcSync c.asid true).cmdEnd c.id 0))
    ∧ (op = 0x12 → g.rank ≠ c.w 3 → (∀ j, j < g.n → j ≠ g.rank → ∃ p ∈ all, p.rank = j) → (∀ p ∈ all, p.rank ≠ g.rank ∧ c.meets p = true) →
      exec (run all op) s = .next { s with
        agenda := s.agenda ++ [.broadcast c.id (all ++ [⟨g.rank, 0x12, c.cty, c.opr, c.count, c.w 3, true, []⟩])] })
    ∧ (op = 0x11 → g.rank < g.n → (∀ j, j < g.n → ∃ p ∈ all, p.rank = j) → (∀ p ∈ all, c.meets p = true) → g.rank ≠ c.w 3 →
      exec (run all op) s = .next (s.cmdEnd c.id 0))

/-- R259 to R261, R283: GRAPH hands a subgraph to the walker, and COMMAND_COMPLETE adds one to the completion object's counter, lowers C, posts the
notify word where the command asks for one, and the command is gone. The model's own readings that it rests on: notes/assumptions/20.md. -/
def Obligations.CommandCompletion : Prop := ∀ (s : State) (c : Cmd) (t : Thread) (w : Wg), s.cmd? c.id = some c → c.paused = false →
  (c.ended = false → (∀ g ∈ s.graphs, g.src ≠ .cmd c.id) → c.badHead = false → c.w 3 < 2 → c.cpl % 16 = 0 → s.takesCkp c.asid = false →
    exec (.graph c.id) s = .next { s with
      fresh := s.fresh + 1
      graphs := s.graphs ++ [⟨s.fresh, c.asid, .cmd c.id, c.w2 1, false, 0, 0, 0, 3, 0, [], 0, false, c.queue, false, c.join⟩]
      agenda := s.agenda ++ [.graphStart s.fresh] })
  ∧ (c.ended = true → s.faults = [] → c.owner = .thread t.wg t.uid t.tid → s.thr? t.uid = some t → t.park = none → s.wg? t.wg = some w →
    w.state = .resident → c.code < 0x10 → c.join = none → c.asid ∉ s.fatals →
    let lowered := fun (s : State) => { s.updThr t.uid fun u => { u with cntC := u.cntC - 1 } with cmds := s.cmds.filter (·.id != c.id) }
    (c.cpl = 0 → c.w 0 / 2 ^ 22 % 2 = 0 → exec (.commandComplete c.id) s = .next (lowered s))
    ∧ (c.cpl = 0 → c.w 0 / 2 ^ 22 % 2 = 1 → w.queues[0].port = .cpl → Instr.notifyPush w.id ∉ s.agenda →
      exec (.commandComplete c.id) s = .next { (lowered s).updWg w.id fun w => { w with
        cplWords := w.cplWords ++ [BitVec.ofNat 32 (c.tag + c.status * 2 ^ 16 + c.code * 2 ^ 24)] } with
          agenda := s.agenda ++ [.notifyPush w.id] })
    ∧ ∀ key, c.cpl ≠ 0 → c.cpl % 16 = 0 → c.status = 0 → c.scope = .dev → c.w 0 / 2 ^ 22 % 2 = 0 → s.plain c.asid → s.l1 = [] →
      (∀ u ∈ s.threads, u.park = none) → s.maps (clusterOf c.core) c.asid c.cpl .atomic key →
      exec (.commandComplete c.id) s = .next (lowered { s.seen c.asid key with
        mem := mputs 0#8 s.mem key (bytesOf 8 (leNat (mgets 0#8 s.mem key 8) + 1)) }))

/-- R396 to R400, R408: faults. A fault takes an entry of the page-request queue or waits for one; a stage-1 fault's record goes to its ring, a
stage-2 fault waits for the security core; a record that is written waits for its response; RETRY lets the requester go on, and a refusal ends it.
R224, R397: the stage-1 fault of a load of one lane leaves an entry in the thread's replay log that owns the destination; the thread goes on. The
model's own readings that it rests on: notes/assumptions/20.md, notes/assumptions/33.md, notes/assumptions/58.md. -/
def Obligations.Faults : Prop :=
  (∀ (s : State) (r : FaultRec) (c : Cmd), s.fault? r.id = some r → (s.faults.map (·.id)).Nodup →
  r.src = .cmd c.id → s.cmd? c.id = some c →
  let fe := r.asid / 64
  let phase := fun (p : FaultPhase) => s.updFault r.id fun r => { r with phase := p }
  let recorded := { s.updFault r.id fun x => { x with phase := .waitRing, token := if r.resp then s.freeToken fe else 0 } with
    agenda := s.agenda ++ [.faultRecordWrite r.id] }
  let gone := { s with faults := s.faults.filter (·.id != r.id) }
  let on := { gone.updCmd c.id fun c => { c with paused := false } with agenda := s.agenda ++ r.redo }
  let failed := { gone.updCmd c.id fun c => { c with status := 3, ended := true, paused := false } with agenda := s.agenda ++ [.commandComplete c.id] }
  let alone := ∀ x ∈ s.faults, x.phase ≠ .waitEntry
  (r.phase = .new → s.prqMay fe = true → alone → exec (.accessFault r.id) s = .next (if r.stage2 then phase .stage2 else recorded))
  ∧ (r.phase = .new → (s.prqMay fe = false ∨ ∃ x ∈ s.faults, x.phase = .waitEntry ∧ x.asid / 64 = fe) → exec (.accessFault r.id) s = .next ((phase .waitEntry).bump fe 0x2002))
  ∧ (r.phase = .waitEntry → s.prqMay fe = true → (∀ x ∈ s.faults, x.phase = .waitEntry → x.id = r.id) → exec (.prqEntryGrant r.id) s = .next (if r.stage2 then phase .stage2 else recorded))
  ∧ (r.phase = .waitEntry → s.prqMay fe = false → exec (.prqEntryGrant r.id) s = .next s)
  ∧ (r.phase = .waitRing → s.faults = [r] →
    let b := 0x1C00 + 8 * (r.asid % 64)
    let base := s.rreg2 fe (b + 2)
    let size := s.rregN fe (b + 4)
    let tail := s.rregN fe (b + 6)
    let used := (tail + 2 ^ 32 - s.rregN fe (b + 5)) % 2 ^ 32
    (base = 0 → exec (.faultRecordWrite r.id) s = .next (State.fatal { s with faults := [] } r.asid 9))
    ∧ (base ≠ 0 → used = size → exec (.faultRecordWrite r.id) s = .next s)
    ∧ ∀ p s2, base ≠ 0 → used ≠ size → size ≠ 0 → used ≠ 0 → r.resp = true → s2.faults = [r] → fe < 17 →
      s.xlate (18 + fe) r.asid (base + 32 * (tail % size)) .store false = (.ok p, s) →
      s.ctxWrite (18 + fe) r.asid .sys 8 (base + 32 * (tail % size)) r.bytes = .ok s2 →
      exec (.faultRecordWrite r.id) s = .next { s2.wreg fe (b + 6) (BitVec.ofNat 32 (tail + 1)) with faults := [{ r with phase := .waitResp }] })
  ∧ (r.phase = .waitResp → alone → s.tokenRec fe r.token = some r →
    exec (.pageRequestRetry fe r.token) s = .next on ∧ exec (.pageRequestRefuse fe r.token) s = .next failed)
  ∧ (r.phase = .stage2 → alone → exec (.stage2Resolve r.id) s = .next on ∧ exec (.stage2Refused r.id) s = .next failed))
  ∧ (∀ (s : State) (r : FaultRec) (o : Op) (l : LaneAcc) (t : Thread) (g : Pred) (d : Fin 120) (a : Src),
  s.faults = [r] → r.src = .op o.id l.uid → r.phase = .new → r.stage2 = false → r.resp = false → s.prqMay (r.asid / 64) = true → s.ops = [o] → o.lanes = [l] →
  l.fault = some r.id → l.uid = t.uid → o.instr = .ld g (.v d) a false .dev .n32 → o.cls = .l → s.threads = [t] → t.trap.inh = false → t.park = none →
  t.pend = [] → t.log.length < 190 →
  exec (.accessFault r.id) s = .next { s with
    faults := [{ r with phase := .waitRing, token := 0 }], ops := [], fresh := s.fresh + 2
    agenda := s.agenda ++ [.faultRecordWrite r.id]
    threads := [{ t.setReg d.val (Config.poisonWord s.fresh) (.owned (s.fresh + 1) 0) with
      cntL := t.cntL - 1
      log := t.log ++ [⟨s.fresh + 1, o.instr, .access { l with held := false, fault := none } false⟩] }] })

/-- R343, R347, R406: what each level opens. Level U opens no system register; level F opens FE_, HAL_, WAKE_, TLB_ and LOD_ of its VF's view, reads
TTS_, PTN_, SCR_ and PRQ_ there, and reaches FE_ of the global view; levels R and S open the global view, BBX_ for reads alone, and the VF views; the
security-only registers open to S alone. The model's own readings that it rests on: notes/assumptions/18.md, notes/assumptions/43.md. -/
def Obligations.RegisterLevels : Prop := ∀ (r : Requester) (idx : Nat) (write : Bool),
  let sec := idx = 0x1E00 ∨ idx = 0x1E01 ∨ idx = 0x1E09 ∨ idx = 0x1E0A
  let own := (0x0400 ≤ idx ∧ idx < 0x0C00) ∨ (0x1800 ≤ idx ∧ idx < 0x2000) ∨ (0x2400 ≤ idx ∧ idx < 0x2800)
  let opens := Requester.opens r idx write = true
  (r.level = .u → ¬opens) ∧ (idx < 0x0400 ∨ 0x3000 ≤ idx → ¬opens)
  ∧ (r.level = .s → r.view = 0 → (opens ↔ 0x0400 ≤ idx ∧ idx < 0x3000 ∧ (write = true → idx < 0x2800 ∨ 0x2C00 ≤ idx)))
  ∧ (r.level = .r → r.view = 0 → (opens ↔ 0x0400 ≤ idx ∧ idx < 0x3000 ∧ (write = true → idx < 0x2800 ∨ 0x2C00 ≤ idx) ∧ ¬sec))
  ∧ (r.level = .s → r.view ≠ 0 → (opens ↔ 0x0400 ≤ idx ∧ idx < 0x2800))
  ∧ (r.level = .r → r.view ≠ 0 → (opens ↔ 0x0400 ≤ idx ∧ idx < 0x2800 ∧ ¬sec))
  ∧ (r.level = .f → r.view ≠ 0 → (opens ↔ ¬sec ∧ if write then own else 0x0400 ≤ idx ∧ idx < 0x2800))
  ∧ (r.level = .f → r.view = 0 → (opens ↔ 0x0400 ≤ idx ∧ idx < 0x0800 ∧ ¬(0x0460 ≤ idx ∧ idx < 0x0472)
      ∧ (write = true → ¬(0x0480 ≤ idx ∧ idx < 0x04B0))))

/-- R223, R293, R348, R360: SYSRD in one lane: the thread's trap registers and hoist grants, a system register its level opens (one that clears on a
read is then 0; TTS_DLCLO latches the high half), and SYSREG_DENIED (24) for every other index. The model's own readings that it rests on:
notes/assumptions/18.md, notes/assumptions/43.md, notes/assumptions/51.md. -/
def Obligations.SysrdResults : Prop := ∀ (s : State) (g : Pred) (d : Dst) (idx : BitVec 14) (t : Thread) (l : Launch) (entry : DWord),
  s.alone (.sysrd g d idx) g t → s.launchOfWg t.wg = some l →
  let k := idx.toNat
  let q : Requester := ⟨if l.level = .f then (if 252 < s.coreOf t.wg then s.coreOf t.wg - 252 else l.asid / 64) else 0, l.level, false, 64 + t.uid⟩
  let gives := fun (r : State) (w : Word) => exec (.sysrd g d idx) s = .next (r.updThr t.uid fun u => (u.wr d w).trimLog)
  let user := (0x080 ≤ k ∧ k ≤ 0x086) ∨ k = 0x090 ∨ k = 0x091
  (k = 0x080 → gives s (t.trap.xpc.setWidth 32)) ∧ (k = 0x081 → gives s ((t.trap.xpc >>> 32).setWidth 32))
  ∧ (k = 0x082 → gives s (BitVec.ofNat 32 ((if t.trap.inh then 2 ^ 31 else 0) + t.log.length % 256 * 2 ^ 16 + t.trap.rslot * 2 ^ 12 + t.trap.oslot * 2 ^ 8
      + t.trap.cause)))
  ∧ (k = 0x083 → gives s (BitVec.ofNat 32 t.trap.code))
  ∧ (k = 0x084 → gives s (t.trap.xaddr.setWidth 32)) ∧ (k = 0x085 → gives s ((t.trap.xaddr >>> 32).setWidth 32))
  ∧ (k = 0x086 → gives s t.trap.xrep.word) ∧ (k = 0x090 → gives s (mget 0#32 s.hgrant (2 * l.asid))) ∧ (k = 0x091 → gives s (mget 0#32 s.hgrant (2 * l.asid + 1)))
  ∧ (¬user → Requester.opens q k false = false → s.mayTrap t entry → exec (.sysrd g d idx) s = .next (s.trapsHere t entry 24 0 0))
  ∧ (¬user → Requester.opens q k false = true →
      (k = 0x0C00 → gives { s with latches := mput 0 s.latches (64 + t.uid) (s.dlc / 2 ^ 32 % 2 ^ 32) } (BitVec.ofNat 32 s.dlc))
      ∧ (k = 0x0C01 → gives s (BitVec.ofNat 32 (mget 0 s.latches (64 + t.uid))))
      ∧ (regHidden k = true → gives s 0)
      ∧ (regRc q.view k = true → gives (s.wreg q.view k 0) (s.rreg q.view k))
      ∧ (regHidden k = false → regRc q.view k = false → (0x0800 ≤ k → k < 0x0A00 → k % 16 ≠ 9) →
          k ∉ [0x0C00, 0x0C01, 0x2000, 0x2001, 0x2010, 0x2800] → gives s (s.rreg q.view k)))

/-- R293, R346 to R348: SYSWR in one lane and REGISTER_WRITE: what R347 does not open traps, or is discarded and counted for the host; what is open is
written. XPC and RSLOT change in the handler alone (R223). The model's own readings that it rests on: notes/assumptions/18.md,
notes/assumptions/43.md, notes/assumptions/51.md. -/
def Obligations.RegisterWrites : Prop := ∀ (s : State) (g : Pred) (v : Src) (idx : BitVec 14) (t : Thread) (l : Launch) (entry : DWord),
  (s.alone (.syswr g v idx) g t → s.launchOfWg t.wg = some l →
    let k := idx.toNat
    let q : Requester := ⟨if l.level = .f then (if 252 < s.coreOf t.wg then s.coreOf t.wg - 252 else l.asid / 64) else 0, l.level, false, 64 + t.uid⟩
    let x := s.src t v
    let trapReg := 0x080 ≤ k ∧ k ≤ 0x085
    let sets := fun (f : TrapRegs → TrapRegs) => exec (.syswr g v idx) s = .next (s.updThr t.uid fun u => { u with trap := f u.trap })
    (¬trapReg → Requester.opens q k true = false → s.mayTrap t entry → exec (.syswr g v idx) s = .next (s.trapsHere t entry 24 0 0))
    ∧ (t.opPois (.s v) = true → (∀ r, (t.reg r).mark ≠ .lost) → (trapReg ∨ Requester.opens q k true = true) → s.mayTrap t entry →
        exec (.syswr g v idx) s = .next (s.trapsHere t entry 3 (4 * v.code) 0))
    ∧ (t.opPois (.s v) = false →
        (¬trapReg → Requester.opens q k true = true → exec (.syswr g v idx) s = .next (s.regWrite q k x))
        ∧ (t.trap.inh = false → trapReg → s.thr? t.uid = some t → (∀ u ∈ s.threads, u.uid = t.uid → u = t) → exec (.syswr g v idx) s = .next s)
        ∧ (t.trap.inh = true → (∀ u ∈ s.threads, u.uid = t.uid → u = t) →
          (k = 0x080 → sets fun r => { r with xpc := (r.xpc >>> 32) <<< 32 ||| x.setWidth 64 })
          ∧ (k = 0x081 → sets fun r => { r with xpc := (x.setWidth 64 &&& 0xFFFFF#64) <<< 32 ||| (r.xpc.setWidth 32).setWidth 64 })
          ∧ (k = 0x082 → sets fun r => { r with rslot := x.toNat / 2 ^ 12 % 4 })
          ∧ (0x083 ≤ k → k ≤ 0x085 → exec (.syswr g v idx) s = .next s))))
  ∧ ∀ (r : Requester) (k : Nat) (x : Word),
    (Requester.opens r k true = true → exec (.registerWrite r k x) s = .next (s.regWrite r k x))
    ∧ (Requester.opens r k true = false → r.host = false → s.mgmtThread r = none → exec (.registerWrite r k x) s = .next s)
    ∧ (∀ u, Requester.opens r k true = false → r.host = false → s.mgmtThread r = some u → s.thr? u.uid = some u → u.tx = none → s.mayTrap u entry →
      exec (.registerWrite r k x) s = .next (s.updThr u.uid (·.trapped entry u.pc 24 (u.pc.toNat % 12 / 4) 0 0)))
    ∧ (Requester.opens r k true = false → r.host = true →
      exec (.registerWrite r k x) s = .next (if s.rreg 0 0x0420 = 0xFFFFFFFF#32 then s else s.wreg 0 0x0420 (s.rreg 0 0x0420 + 1)))

/-- R3, R350, R352, R394, R407, R445: what a write to an open register does. Its fields follow their access codes; a write that starts something puts
that event before every event but those of earlier writes; unmasking a set cause sends its vector. R349, R350: raising a cause. Its bit is set; its
vector is sent when the bit rises unmasked and the VF is not collapsed at class 2 or 3. The model's own readings that it rests on:
notes/assumptions/12.md. -/
def Obligations.RegisterEffects : Prop :=
  (∀ (s : State) (r : Requester) (k : Nat) (v : Word),
  let old := s.rreg r.view k
  let new := ((old &&& ~~~(regRw r.view k)) ||| (regClamp r.view k v &&& regRw r.view k)) &&& ~~~(v &&& regW1c r.view k)
  let starts := fun (i : Instr) => s.regWrite r k v = { s.wreg r.view k old with
    agenda := s.agenda.takeWhile isWriteEvent ++ [i] ++ s.agenda.dropWhile isWriteEvent }
  (writeEvent r k v = [] → k ∉ [0x0411, 0x0C03, 0x0C08, 0x1E09, 0x1E0A, 0x2C00] → ¬(0x1C00 ≤ k ∧ k < 0x1E00 ∧ k % 8 = 5) →
    ¬(0x1800 ≤ k ∧ k < 0x1C00) → s.regWrite r k v = s.wreg r.view k new)
  ∧ (∀ view' k' w, (s.wreg r.view k w).rreg view' k' = if regKey view' k' = regKey r.view k then w else s.rreg view' k')
  ∧ (∀ q, q < 32 → k = 0x0805 + 16 * q → starts (.queueNotify r.view q v))
  ∧ (k = 0x0C04 → starts (.ttsStep v))
  ∧ (k = 0x1E02 → v.getLsbD 31 = true → starts (match v.toNat / 2 ^ 26 % 4 with
      | 0 => .tlbInvStage1Range r.view r.level (v.toNat / 2 ^ 16 % 64)
      | 1 => .tlbInvContext r.view r.level (v.toNat / 2 ^ 16 % 64)
      | 2 => .tlbInvStage2Range r.view r.level
      | _ => .tlbInvFrontEnd r.view r.level))
  ∧ (k = 0x1E07 → starts (if v.getLsbD 31 then .pageRequestRefuse r.view (v.toNat % 2 ^ 16) else .pageRequestRetry r.view (v.toNat % 2 ^ 16)))
  ∧ (k = 0x2600 → starts (.lodFlush r.view v))
  ∧ (∀ n, n < 16 → k = 0x1801 → r.view = n + 1 → starts (.wakeWake n))
  ∧ (k = 0x0411 → r.view ≠ 0 → v.toNat < 512 → (s.rregN r.view 0x1803 % 8 < 2 ∨ s.rregN r.view 0x1800 % 4 < 2) →
      ∃ cs : List Nat, (∀ c, c ∈ cs ↔ c < 9 ∧ (s.rreg r.view 0x0410).getLsbD c = true ∧ old.getLsbD c = true ∧ v.getLsbD c = false) ∧
        s.regWrite r k v = { s.wreg r.view k new with out := s.out ++ cs.map (Out.msix r.view) }))
  ∧ (∀ (s : State) (n view c : Nat), c < 32 →
  let set := s.wreg view 0x0410 (s.rreg view 0x0410 ||| 1#32 <<< c)
  ((s.rreg view 0x0410).getLsbD c = true ∨ (s.rreg view 0x0411).getLsbD c = true → s.irq view c = set)
  ∧ ((s.rreg view 0x0410).getLsbD c = false → (s.rreg view 0x0411).getLsbD c = false → (view = 0 ∨ s.rregN view 0x1803 % 8 < 2) →
    s.irq view c = { set with out := s.out ++ [.msix view c] })
  ∧ (n < 16 → exec (.functionCoreUnresponsive n) s = .next (s.irq (n + 1) 4)))

/-- R343, R348, R360, R362, R406 to R408, R416, R425: a read from outside of a register that clears: the value leaves the device and the register is
0; where the level does not open it, a host reads 0 and FE_DENIED counts, and the thread of a management core traps. Level F reaches the view of its
own VF alone. A read of TTS_DLCLO latches the high half for its requester. R346: BAR 0 holds the global view and those of the VFs, BAR 2 of a VF its
view; what lies behind the views reads 0 and ignores writes. The model's own readings that it rests on: notes/assumptions/18.md,
notes/assumptions/43.md. -/
def Obligations.RegisterReadEvents : Prop := ∀ (s : State) (r : Requester) (entry : DWord),
  let takes := fun (i : Instr) (view idx : Nat) => exec i s = .next { s.wreg view idx 0 with out := s.out ++ [.read view idx (s.rreg view idx)] }
  let denied := fun (i : Instr) (view idx : Nat) =>
    (r.host = true → exec i s = .next { s.bump 0 0x0420 with out := s.out ++ [.read view idx 0] })
    ∧ ∀ u, r.host = false → s.mgmtThread r = some u → s.thr? u.uid = some u → u.tx = none → s.mayTrap u entry →
        exec i s = .next (s.updThr u.uid (·.trapped entry u.pc 24 (u.pc.toNat % 12 / 4) 0 0))
  let rs := r.level = .r ∨ r.level = .s
  let reach := fun (fe : Nat) => rs ∨ (fe ≠ 0 ∧ fe = r.view ∧ r.level = .f)
  (if r.level ≠ .u then takes (.feDeniedRead r) 0 0x0420 else denied (.feDeniedRead r) 0 0x0420)
  ∧ (∀ c, c < 18 → if rs then takes (.feNoshadowRead r c) 0 (0x0460 + c) else denied (.feNoshadowRead r c) 0 (0x0460 + c))
  ∧ (∀ n, n < 16 → if r.level ≠ .u then takes (.feNotifydropRead r n) 0 (0x0440 + n) else denied (.feNotifydropRead r n) 0 (0x0440 + n))
  ∧ (∀ slot o, slot < 16 → 15 ≤ o → o ≤ 24 → o ≠ 22 → o ≠ 23 → if reach r.view then takes (.streamCounterRead r slot o) r.view (0x0D00 + 32 * slot + o)
      else denied (.streamCounterRead r slot o) r.view (0x0D00 + 32 * slot + o))
  ∧ (∀ fe, fe < 17 → if reach fe then takes (.tlbSpecdropRead r fe) fe 0x1E08 ∧ takes (.prqWaitsRead r fe) fe 0x2002
      else denied (.tlbSpecdropRead r fe) fe 0x1E08 ∧ denied (.prqWaitsRead r fe) fe 0x2002)
  ∧ (∀ fe c, fe < 17 → c < 64 → if reach fe then takes (.lodFbdropRead r fe c) fe (0x2405 + 8 * c) else denied (.lodFbdropRead r fe c) fe (0x2405 + 8 * c))
  ∧ (if rs then takes (.pwrDroopsRead r) 0 0x2C05 else denied (.pwrDroopsRead r) 0 0x2C05)
  ∧ (∀ n, exec (.ttsDlcloRead n) s = .next { s with
      latches := mput 0 s.latches n (s.dlc / 2 ^ 32 % 2 ^ 32), out := s.out ++ [.read 0 0x0C00 (BitVec.ofNat 32 s.dlc)] })
  ∧ (s.boot = .ready → ∀ bar view idx, view ≤ 16 → idx < 16384 → (bar = 0 ∨ bar = view) →
      let host : Requester := ⟨view, if bar = 0 then .r else .f, true, view⟩
      let off := (if bar = 0 then 65536 * view else 0) + 4 * idx
      (Requester.opens host idx false = true → s.mmio bar off none = { (s.regRead host idx).2 with
        out := (s.regRead host idx).2.out ++ [.read view idx (s.regRead host idx).1] })
      ∧ (Requester.opens host idx false = false → s.mmio bar off none = { s.bump 0 0x0420 with out := s.out ++ [.read view idx 0] })
      ∧ ∀ w, exec (.registerWrite host idx w) s = .next (s.mmio bar off (some w)))
  ∧ (s.boot = .ready → ∀ off, 65536 * 17 ≤ off → (∀ w, s.mmio 0 off (some w) = s)
      ∧ s.mmio 0 off none = { s with out := s.out ++ [.read (off / 65536) (off % 65536 / 4) 0] })
  ∧ (s.boot ≠ .ready → ∀ bar off w, s.mmio bar off w = s)

/-- R360, R361, R446, R449: the events of the deadline counter. A positive step adds at once, a negative one of at most 2^32 units holds the counter,
a longer one is ignored; edges latch the counter; loss of the chosen reference sets REFLOST and clears REFOK. R361: in a step the counter gains what
the source gives corrected by RATE in parts of 10^12, with its fraction carried, and stands while a negative step is absorbed. The model's own
readings that it rests on: notes/assumptions/7.md. -/
def Obligations.TimeEvents : Prop :=
  (∀ (s : State) (v : Word),
  let d := (v ++ s.rreg 0 0x0C03).toInt
  let stamp := fun (k : Nat) => (s.wreg 0 k (BitVec.ofNat 32 s.dlc)).wreg 0 (k + 1) (BitVec.ofNat 32 (s.dlc / 2 ^ 32))
  let ext := (s.rreg 0 0x0C08).getLsbD 0
  (d ≥ 0 → exec (.ttsStep v) s = .next { s with dlc := s.dlc + d.toNat })
  ∧ (d < -2 ^ 32 → exec (.ttsStep v) s = .next s)
  ∧ (d < 0 → -2 ^ 32 ≤ d → exec (.ttsStep v) s = .next (({ s with holdLeft := max 1 s.holdLeft + d.natAbs } : State).setBit 0 0x0C05 3 true))
  ∧ exec .stepHoldEnd s = .next (({ s with holdLeft := 0 } : State).setBit 0 0x0C05 3 false)
  ∧ exec .ppsEdge s = .next ((stamp 0x0C06).setBit 0 0x0C05 2 true) ∧ exec .genlockEdge s = .next (stamp 0x0C0A)
  ∧ (ext = true → exec .referenceLost s = .next ((({ s with ref10 := false } : State).setBit 0 0x0C05 1 true).setBit 0 0x0C05 0 false)
      ∧ exec .referenceRestored s = .next (({ s with ref10 := true } : State).setBit 0 0x0C05 0 true))
  ∧ (ext = false → exec .referenceLost s = .next { s with ref10 := false } ∧ exec .referenceRestored s = .next { s with ref10 := true })
  ∧ exec .eventMessage s = .next { s with out := s.out ++ [.stamp s.dlc] })
  ∧ (∀ (s : State),
  let gain := s.frac + Config.dlcTicks s.stepNo * 2 ^ 32 * (1000000000000 + (s.rreg 0 0x0C02).toInt).toNat / 1000000000000
  (s.holdLeft = 0 → s.tick.dlc * 2 ^ 32 + s.tick.frac = s.dlc * 2 ^ 32 + gain ∧ (s.frac < 2 ^ 32 → s.tick.frac < 2 ^ 32))
  ∧ (s.holdLeft ≠ 0 → s.tick.dlc = s.dlc ∧ s.tick.frac = s.frac ∧ 0 < s.tick.holdLeft) ∧ s.tick.stepNo = s.stepNo + 1
  ∧ (s.protect = [] → s.l1 = [] ∨ s.boot ≠ .ready → s.tick.regs = s.regs ∧ s.tick.agenda = s.agenda)
  ∧ (s.l1 = [] ∨ s.boot ≠ .ready → s.tick.mem = s.mem ∧ s.tick.threads = s.threads))

/-- R394, R395, R407: invalidations. One that may not start sets ERR; else BUSY is set, and at its completion no cached translation that it names is
left. -/
def Obligations.Invalidations : Prop := ∀ (s : State) (fe ctx : Nat) (lvl : Level),
  let busy := (s.rreg fe 0x1E06).getLsbD 0
  let err := s.setBit fe 0x1E06 1 true
  let addr := s.rreg2 fe 0x1E03
  let len := s.rregN fe 0x1E05
  let going := fun (kind c : Nat) => { ({ s with invals := s.invals ++ [⟨fe, kind, c, addr, 4096 * len⟩] } : State).setBit fe 0x1E06 0 true with
    agenda := s.agenda ++ [.tlbInvComplete fe] }
  (busy = true ∨ lvl = .u → exec (.tlbInvStage1Range fe lvl ctx) s = .next err ∧ exec (.tlbInvContext fe lvl ctx) s = .next err)
  ∧ (busy = true ∨ lvl ≠ .s → exec (.tlbInvStage2Range fe lvl) s = .next err ∧ exec (.tlbInvFrontEnd fe lvl) s = .next err)
  ∧ (len = 0 → exec (.tlbInvStage1Range fe lvl ctx) s = .next err ∧ exec (.tlbInvStage2Range fe lvl) s = .next err)
  ∧ (busy = false → lvl ≠ .u → exec (.tlbInvContext fe lvl ctx) s = .next (going 1 ctx)
      ∧ (len ≠ 0 → exec (.tlbInvStage1Range fe lvl ctx) s = .next (going 0 ctx)))
  ∧ (busy = false → lvl = .s → exec (.tlbInvFrontEnd fe lvl) s = .next (going 3 0) ∧ (len ≠ 0 → exec (.tlbInvStage2Range fe lvl) s = .next (going 2 0)))
  ∧ (∀ v : Inval, s.invals = [v] → v.fe = fe → s.l1 = [] → s.faults = [] → ∃ left : List TlbEntry,
      exec (.tlbInvComplete fe) s = .next (({ s with tlb := left, invals := [] } : State).setBit fe 0x1E06 0 false)
      ∧ ∀ e, e ∈ left ↔ e ∈ s.tlb ∧
        ¬((v.kind = 0 ∧ e.asid = 64 * fe + v.ctx ∧ e.va < v.addr + v.len ∧ v.addr < e.va + 2 ^ e.bits)
          ∨ (v.kind = 1 ∧ e.asid = 64 * fe + v.ctx)
          ∨ (v.kind = 2 ∧ e.asid / 64 = fe ∧ e.ia < v.addr + v.len ∧ v.addr < e.ia + 2 ^ e.bits)
          ∨ (v.kind ≥ 3 ∧ e.asid / 64 = fe)))
  ∧ ∀ v : Word, ∃ left, exec (.lodFlush fe v) s = .next { s with filter := left }
      ∧ ∀ p, p ∈ left ↔ p ∈ s.filter ∧ p.2.head? ≠ some (64 * fe + v.toNat % 64)

/-- R409, R410, R413, R414: PTN_RANGE_COMMIT where nothing is resident: a range or a mask that R410 does not allow is refused with its cause; else
range and mask change together, and what is added is scrubbed. SCRUB_COMPLETE ends the scrub. R416, R417, R422: a function-level reset of a VF with
nothing in flight: its registers return to their reset values, save CLASS, the collapse area and the stage-2 root; the registers of every other view
stay; a VF that is not awake wakes for it and raises WAKE; the reset completes when the scrub, which runs whatever the partition holds, has come to
its end. The model's own readings that it rests on: notes/assumptions/19.md, notes/assumptions/62.md. -/
def Obligations.PartitionEvents : Prop :=
  (∀ (s : State) (f : Nat) (v : Word), f < 17 →
  let first := v.toNat % 32
  let last := v.toNat / 2 ^ 16 % 32
  let valid := v.getLsbD 31
  let mask := s.rreg2 0 (0x1001 + 8 * f)
  let maskOf' := fun (g : Nat) => s.rreg2 0 (0x1005 + 8 * g)
  let bad := valid = true ∧ (first > last ∨ last > 17 ∨ mask = 0)
  let clash := ∃ g, g < 17 ∧ g ≠ f ∧ (s.rreg 0 (0x1000 + 8 * g)).getLsbD 31 = true ∧ maskOf' g &&& mask ≠ 0
  let refused := fun (c : Nat) => exec (.ptnRangeCommit f v) s = .next (s.wreg 0 (0x1004 + 8 * f) (BitVec.ofNat 32 (2 ^ 31 + c)))
  (bad → refused 1) ∧ (¬bad → clash → refused 2)
  ∧ (¬bad → ¬clash → s.wgs = [] → s.streams = [] → ∃ t, exec (.ptnRangeCommit f v) s = .next t
      ∧ t.rreg 0 (0x1000 + 8 * f) = v &&& 0x801F001F#32 ∧ t.rreg2 0 (0x1005 + 8 * f) = mask ∧ t.threads = s.threads ∧ t.mem = s.mem
      ∧ ((∃ c, c < 18 ∧ c ∈ t.clustersOf f ∧ c ∉ s.clustersOf f) → ∃ x ∈ t.scrubs, x.fe = f))
  ∧ ∀ x : Scrub, s.scrubs = [x] → x.fe = f → s.l1 = [] → s.shadows = [] → s.flrs = [] → s.wgs = [] → s.waking = [] →
      (∀ u ∈ s.threads, u.park = none) → ∃ (i : List ILine) (l : List L2Line) (p : List Wg) (e : List (Nat × Thread)),
      exec (.scrubComplete f) s = .next ((({ s with scrubs := [], icache := i, l2 := l, past := p, ended := e, agenda := s.agenda.filter fun i => !Instr.places i } : State).wreg 0 (0x1400 + f)
        (BitVec.ofNat 32 (x.colours.length % 64 * 2 ^ 16 + x.clusters.length * 2 ^ 8) ||| 1#32)).irq f 7)
      ∧ (∀ y, y ∈ i ↔ y ∈ s.icache ∧ clusterOf y.core ∉ x.clusters) ∧ (∀ y, y ∈ p ↔ y ∈ s.past ∧ clusterOf y.core ∉ x.clusters)
      ∧ (∀ y, y ∈ e ↔ y ∈ s.ended ∧ clusterOf y.1 ∉ x.clusters) ∧ ∀ y ∈ l, y ∈ s.l2 ∧ y.colour ∉ x.colours)
  ∧ (∀ (s : State) (n : Nat), n < 16 →
  (n + 1 ∈ s.flrs → exec (.vfFlr n) s = .next s)
  ∧ (n + 1 ∉ s.flrs → s.cmds = [] → s.graphs = [] → s.wgs = [] → ∃ t, exec (.vfFlr n) s = .next t ∧ t.flrs = s.flrs ++ [n + 1]
      ∧ Instr.flrComplete n ∈ t.agenda ∧ t.mem = s.mem ∧ t.wgs = [] ∧ t.deep = false ∧ (∃ x ∈ t.scrubs, x.fe = n + 1)
      ∧ (∀ idx, (0x0400 ≤ idx ∧ idx < 0x0C00) ∨ (0x1C00 ≤ idx ∧ idx < 0x1E00) ∨ (0x2400 ≤ idx ∧ idx < 0x2800) →
          t.rreg (n + 1) idx = regReset ((n + 1) * 16384 + idx))
      ∧ (∀ idx, idx = 0x1E00 ∨ idx = 0x1E01 ∨ idx = 0x1804 ∨ idx = 0x1805 → t.rreg (n + 1) idx = s.rreg (n + 1) idx)
      ∧ t.rreg (n + 1) 0x1800 = s.rreg (n + 1) 0x1800 &&& 3#32 ∧ t.rregN (n + 1) 0x1803 = 0
      ∧ (s.rregN (n + 1) 0x1803 % 8 ≠ 0 → (s.rreg (n + 1) 0x0410).getLsbD 6 = false → (s.rreg (n + 1) 0x0411).getLsbD 6 = false →
          Out.msix (n + 1) 6 ∈ t.out)
      ∧ ∀ view idx, view ≠ 0 → view ≠ n + 1 → idx < 0x0C00 → t.rreg view idx = s.rreg view idx)
  ∧ (s.scrubs = [] → exec (.flrComplete n) s = .next { s with flrs := s.flrs.filter (· != n + 1) })
  ∧ ((∃ x ∈ s.scrubs, x.fe = n + 1) → exec (.flrComplete n) s = .next { s with agenda := s.agenda ++ [.flrComplete n] }))

/-- R418 to R424: idle collapse of a VF none of whose units is placed, and the wake. A VF that is not idle, or whose class is 0, does not collapse; a
rollback on shared clusters ends before COLLAPSED, and what is then gated is remembered; a wake event takes a VF that collapses or is collapsed to
WAKING, and ends the deep state whatever its VF; the wake ends at AWAKE with its duration in WAKEUS, with the cycle counters of the cores that were
gated at 0; an area that cannot be reached holds back the collapse or the wake (R461). R424: the device enters the deep state when every VF with an
enabled queue is collapsed at class 3, the PF is idle and no stream is open; the L1s are written back first; STATE of those VFs is then 4. The model's
own readings that it rests on: notes/assumptions/17.md, notes/assumptions/24.md. -/
def Obligations.CollapseAndWake : Prop :=
  (∀ (s : State) (n : Nat), n < 16 →
  let fe := n + 1
  let stat := s.rreg fe 0x1803
  let state := stat.toNat % 8
  let cls := s.rregN fe 0x1800 % 4
  let inhibit := (s.rreg fe 0x1800).getLsbD 9
  let now := fun (st : Nat) => s.wreg fe 0x1803 ((stat &&& 0xFFFF0000#32) ||| BitVec.ofNat 32 st)
  let starts := state = 0 ∧ cls ≠ 0 ∧ inhibit = false ∧ s.isIdle fe = true
  let rolls := ∃ a, a / 64 = fe ∧ Instr.rollback a ∈ s.agenda
  (¬starts → exec (.collapse n) s = .next s ∧ exec (.idleCollapse n) s = .next s)
  ∧ (starts → s.wgs = [] → s.slices = [] → exec (.collapse n) s = .next { now 1 with agenda := s.agenda ++ [.collapseComplete n] }
      ∧ exec (.idleCollapse n) s = .next { now 1 with agenda := s.agenda ++ [.collapseComplete n] })
  ∧ (state ≠ 1 ∨ rolls → exec (.collapseComplete n) s = .next s)
  ∧ (state = 1 → ¬rolls → s.faults = [] → cls < 2 → exec (.collapseComplete n) s = .next (now 2))
  ∧ (state = 1 → ¬rolls → s.faults = [] → 2 ≤ cls → s.wgs = [] →
    (∀ va f, s.saveArea fe = .error (va, f) → exec (.collapseComplete n) s = .next (s.feFault (64 * fe) (.device (64 * fe)) va 6 f (.collapseComplete n)))
    ∧ ∀ s2, s.saveArea fe = .ok s2 → s2.l1 = [] → s2.rdc = [] → s2.shadows = [] → ∃ t, exec (.collapseComplete n) s = .next t
        ∧ t.rregN fe 0x1803 % 8 = 2 ∧ t.mem = s2.mem ∧ mget none t.gated n = some (s2.gatedCores n) ∧ ∀ y ∈ t.l2, y ∈ s2.l2 ∧ y.colour ∉ s2.colours fe)
  ∧ (state = 0 ∨ state = 3 → s.deep = false → exec (.wakeWake n) s = .next s ∧ exec (.reservationWake n) s = .next s)
  ∧ (state ≠ 0 → state ≠ 3 → s.deep = false →
    let t := { now 3 with waking := mput 0 s.waking n (s.dlc + 1), agenda := s.agenda ++ [.wakeComplete n] }
    exec (.wakeWake n) s = .next t ∧ exec (.reservationWake n) s = .next (if s.openings fe = [] then s else t))
  ∧ (s.deep = true → ∃ t, exec (.wakeWake n) s = .next t ∧ t.deep = false ∧ (state ≠ 0 → t.rregN fe 0x1803 % 8 = 3)
      ∧ ∀ m, m < 16 → (m ≠ n ∨ state = 0) → t.rregN (m + 1) 0x1803 % 8 = if s.rregN (m + 1) 0x1803 % 8 = 4 then 2 else s.rregN (m + 1) 0x1803 % 8)
  ∧ (state ≠ 3 → exec (.wakeComplete n) s = .next s)
  ∧ (state = 3 → ∀ a va f s1, s.wakeBarred (s.wakeReads n) = (some (a, va, f), s1) →
      exec (.wakeComplete n) s = .next (s1.feFault a (.device a) va 5 f (.wakeComplete n)))
  ∧ (state = 3 → s.wakeBarred (s.wakeReads n) = (none, s) → s.wgs = [] → s.threads = [] → s.rreg fe 0x0412 = 0 → (∀ q, q < 32 → (s.rreg fe (0x0800 + 16 * q)).getLsbD 31 = false) →
      ∀ w, s.waking = [(n, w)] → ∃ t, exec (.wakeComplete n) s = .next t ∧ t.rregN fe 0x1803 = 2 ^ 16 * min 0xFFFF ((s.dlc + 1 - w) * 1000000 / 2 ^ 32)
        ∧ (t.rreg fe 0x0410).getLsbD 6 = true ∧ t.waking = [] ∧ t.mem = s.mem ∧ t.agenda = s.agenda.filter (fun i => !Instr.places i)
        ∧ ∀ cores, mget none s.gated n = some cores → ∀ core ∈ cores, t.cycleCount core = 0))
  ∧ (∀ (s : State),
  let enabled := fun (n : Nat) => ∃ q, q < 32 ∧ (s.rreg (n + 1) (0x0800 + 16 * q)).getLsbD 31 = true
  let may := s.deep = false ∧ s.streams = [] ∧ s.isIdle 0 = true
    ∧ ∀ n, n < 16 → enabled n → s.rregN (n + 1) 0x1803 % 8 = 2 ∧ s.rregN (n + 1) 0x1800 % 4 = 3
  (¬may → exec .deepStateEntry s = .next s)
  ∧ (may → ∃ t, exec .deepStateEntry s = .next t ∧ t.deep = true ∧ t.l1 = [] ∧ (∀ n, n < 16 → enabled n → t.rregN (n + 1) 0x1803 % 8 = 4)
      ∧ (s.l1 = [] → t.mem = s.mem ∧ t.threads = s.threads ∧ ∀ n, n < 16 → ¬enabled n → t.rreg (n + 1) 0x1803 = s.rreg (n + 1) 0x1803)))

/-- R425 to R429: power. The operating point moves one point at a time toward the lower of PWR_OPP and the cap; a droop is counted and halves issue in
its cluster; after 1 ms over PWR_LIMIT or at 105 °C the cap falls by one point, and after 10 ms of recovery it rises by one; at 115 °C the device
trips and stands. The model's own readings that it rests on: notes/assumptions/25.md. -/
def Obligations.PowerEvents : Prop := ∀ (s : State) (cl : Nat),
  let stat := s.rreg 0 0x2C01
  let cur := stat.toNat / 2 ^ 8 % 8
  let goal := min (s.rregN 0 0x2C00) s.cap
  let point := fun (p : Nat) => s.wreg 0 0x2C01 ((stat &&& 0xFFFFF8FF#32) ||| BitVec.ofNat 32 (p * 2 ^ 8))
  (cur < goal → exec .oppStep s = .next (point (cur + 1)).retarget)
  ∧ (goal < cur → exec .oppStep s = .next (point (cur - 1)).retarget)
  ∧ (cur = goal → exec .oppStep s = .next (s.setBit 0 0x2C01 31 false) ∧ s.retarget = s.setBit 0 0x2C01 31 false)
  ∧ (cur ≠ goal → Instr.oppStep ∉ s.agenda → s.retarget = { s.setBit 0 0x2C01 31 true with agenda := s.agenda ++ [.oppStep] })
  ∧ (let t : State := { s.bump 0 0x2C05 with
      halved := if cl ∈ s.halved then s.halved else s.halved ++ [cl]
      agenda := s.agenda.filter (· ≠ .halvedIssueEnd cl) ++ [.halvedIssueEnd cl] }
    let recent := ∃ d, s.boxDroop = some d ∧ s.dlc < d + 1000 * 2 ^ 32 / 1000000
    (recent → exec (.droopAlarm cl) s = .next t)
    ∧ (¬recent → s.box.length < 1024 → exec (.droopAlarm cl) s = .next { t with
        box := s.box ++ [⟨s.dlc, 5, cl, 0, 0, 0⟩], boxCount := s.boxCount + 1, boxDroop := some s.dlc }))
  ∧ exec (.halvedIssueEnd cl) s = .next { s with halved := s.halved.filter (· != cl) }
  ∧ (let power := s.rregN 0 0x2C03
    let limit := s.rregN 0 0x2C02
    let temp := (s.rreg 0 0x2C04).toInt
    let ran := fun (key us : Nat) => mget 0 s.clocks key ≠ 0 ∧ mget 0 s.clocks key - 1 + us * 2 ^ 32 / 1000000 ≤ s.dlc
    let capped := fun (key c : Nat) => (({ s with cap := c, clocks := mput 0 s.clocks key (s.dlc + 1) } : State).setBit 0 0x2C01 1
      (decide (c < s.rregN 0 0x2C00))).retarget
    let down := (limit < power ∨ 840 ≤ temp) ∧ ran 16384 1000
    let up := power * 100 ≤ limit * 95 ∧ temp < 800 ∧ s.cap < s.rregN 0 0x2C00 ∧ ran 16385 10000
    (down → exec .throttleDown s = .next ((capped 16384 (s.cap - 1)).irq 0 17)) ∧ (¬down → exec .throttleDown s = .next s)
    ∧ (up → exec .throttleUp s = .next (capped 16385 (s.cap + 1))) ∧ (¬up → exec .throttleUp s = .next s)
    ∧ (temp < 920 → exec .thermalTrip s = .next s)
    ∧ (920 ≤ temp → ∃ t, exec .thermalTrip s = .next t ∧ t.boot = .tripped ∧ (t.rreg 0 0x2C01).getLsbD 2 = true ∧ (t.rreg 0 0x0410).getLsbD 17 = true
        ∧ (∃ e, t.box.getLast? = some e ∧ e.kind = 4 ∧ e.code = 7) ∧ (s.boxSnap = none → t.boxSnap.isSome = true)))

/-- R351 to R355, R416, R422: queues. A notify stores TAIL, or sets BAD_TAIL, wakes a collapsed VF, and is dropped under an FLR; EN freezes the fields
and is refused for a STRIP queue in ROLLBACK mode and for a zero save area; an entry that is next is consumed and its graph is to start, or sets
BAD_ENTRY. The model's own readings that it rests on: notes/assumptions/20.md, notes/assumptions/21.md. -/
def Obligations.QueueEntries : Prop := ∀ (s : State) (fe q idx : Nat) (v : Word) (bs : List Byte),
  let b := 0x0800 + 16 * q
  let ctl := s.rreg fe b
  let size := max 1 (s.rregN fe (b + 3))
  let head := s.rregN fe (b + 4) % size
  let left := (s.rregN fe (b + 5) + size - head) % size
  let asid := 64 * fe + ctl.toNat / 2 ^ 16 % 64
  let w := v &&& 0x8F3F0000#32
  let err := fun (t : State) (c : Nat) => t.wreg fe (b + 9) (BitVec.ofNat 32 (2 ^ 31 + c))
  let taken := s.wreg fe (b + 4) (BitVec.ofNat 32 ((head + 1) % size))
  let strip := ctl.toNat / 2 ^ 26 % 4 = 0
  let op := at' bs 8 1
  let good := op ≤ 2 ∧ at' bs 9 1 < 2 ∧ at' bs 10 2 = 0 ∧ (op = 0 → at' bs 12 4 = 0) ∧ (1 ≤ op → strip)
  (fe ∈ s.flrs → 0 < fe → exec (.queueNotify fe q v) s = .next ((s.bump 0 (0x0440 + (fe - 1))).irq 0 8))
  ∧ (fe ∉ s.flrs → (fe = 0 ∨ s.wakeState fe = 0) → s.deep = false →
    (v.toNat ≥ s.rregN fe (b + 3) → exec (.queueNotify fe q v) s = .next (err s 2))
    ∧ (v.toNat < s.rregN fe (b + 3) → exec (.queueNotify fe q v) s = .next ((s.wreg fe (b + 5) v).queueGo fe q)))
  ∧ (fe ∉ s.flrs → 0 < fe → (s.wakeState fe ≠ 0 ∨ s.deep = true) → Instr.wakeWake (fe - 1) ∉ s.agenda → v.toNat < s.rregN fe (b + 3) →
    exec (.queueNotify fe q v) s = .next (({ s with agenda := s.agenda ++ [.wakeWake (fe - 1)] } : State).wreg fe (b + 5) v |>.queueGo fe q))
  ∧ ((left = 0 ∨ ctl.getLsbD 31 = false → s.queueGo fe q = s)
    ∧ (left ≠ 0 → ctl.getLsbD 31 = true → Instr.run fe q head ∉ s.agenda →
      s.queueGo fe q = { s with agenda := s.agenda ++ [.run fe q head] }))
  ∧ (ctl.getLsbD 31 = true → exec (.queueEnable fe q v) s = .next (if (w ^^^ ctl) &&& 0x0F3F0000#32 = 0 then s.wreg fe b w else s))
  ∧ (ctl.getLsbD 31 = false →
    (w.getLsbD 31 = false → exec (.queueEnable fe q v) s = .next (s.wreg fe b w))
    ∧ (w.getLsbD 31 = true → ((w.toNat / 2 ^ 26 % 4 = 0 ∧ w.getLsbD 25 = true) ∨ s.rreg fe (b + 8) = 0 ∨ s.rreg2 fe (b + 6) = 0) →
      exec (.queueEnable fe q v) s = .next (err (s.wreg fe b (w &&& 0x7FFFFFFF#32)) 3))
    ∧ (w.getLsbD 31 = true → ¬(w.toNat / 2 ^ 26 % 4 = 0 ∧ w.getLsbD 25 = true) → s.rreg fe (b + 8) ≠ 0 → s.rreg2 fe (b + 6) ≠ 0 → s.graphs = [] →
      s.wgs = [] → exec (.queueEnable fe q v) s = .next ((s.wreg fe b w).queueGo fe q).dispatch))
  ∧ (ctl.getLsbD 31 = false ∨ head ≠ idx ∨ left = 0 →
    exec (.run fe q idx) s = .next s ∧ exec (.register fe q idx) s = .next s ∧ exec (.retire fe q idx) s = .next s)
  ∧ (ctl.getLsbD 31 = true → s.boot = .ready → fe ∉ s.flrs → s.wakeState fe = 0 → head = idx → left ≠ 0 → s.graphs = [] →
    (s.rdcSync asid true).feRead asid (s.rreg2 fe (b + 1) + 16 * idx) 16 .sys = (.ok bs, s) →
    (good → op = 0 → exec (.run fe q idx) s = .next (({ taken with
        fresh := s.fresh + 1
        graphs := [⟨s.fresh, asid, .queue fe q idx, at' bs 0 8, false, 0, 0, 0, 3, 0, [], 0, false, q, decide (at' bs 9 1 % 2 = 1), none⟩]
        agenda := s.agenda ++ [.graphStart s.fresh] } : State).queueGo fe q))
    ∧ (good → op = 1 → Instr.register fe q idx ∉ s.agenda → exec (.run fe q idx) s = .next { s with agenda := s.agenda ++ [.register fe q idx] })
    ∧ (good → op = 2 → Instr.retire fe q idx ∉ s.agenda → exec (.run fe q idx) s = .next { s with agenda := s.agenda ++ [.retire fe q idx] })
    ∧ (¬good → bs.length = 16 → exec (.run fe q idx) s = .next (((err s 1).wreg fe (b + 4) (BitVec.ofNat 32 ((head + 1) % size))).queueGo fe q)))

/-- R355, R364, R367: an entry that registers a strip chain, or retires one, is consumed, with QDONE where IRQ is set. A chain that passes R282 and
R284 and is admitted is then registered from its next whole frame on; a stream without instances that retires goes back to STATE 1. R121, R362 to
R364, R368: streams. STREAM_OPEN reads and checks a descriptor and its periods; STREAM_CLOSE frees a stream without instances; CHAIN_INSTANTIATE makes
the next instance; a reservation holds the lowest exclusive cores that are free and opens its stage's window, and its end lets them go. The model's
own readings that it rests on: notes/assumptions/35.md. -/
def Obligations.StripStreams : Prop :=
  (∀ (s : State) (fe q idx slot : Nat) (bs : List Byte) (x : StripStream),
  let b := 0x0800 + 16 * q
  let ctl := s.rreg fe b
  let size := max 1 (s.rregN fe (b + 3))
  let head := s.rregN fe (b + 4) % size
  let asid := 64 * fe + ctl.toNat / 2 ^ 16 % 64
  let done := fun (t : State) =>
    let ring := max 1 (t.rregN fe (b + 3))
    let c := t.wreg fe (b + 4) (BitVec.ofNat 32 ((t.rregN fe (b + 4) % ring + 1) % ring))
    (if at' bs 9 1 % 2 = 1 then (c.rdcSync (64 * fe + c.rregN fe b / 2 ^ 16 % 64) false).irq fe 0 else c).queueGo fe q
  ctl.getLsbD 31 = true → ctl.toNat / 2 ^ 26 % 4 = 0 → s.boot = .ready → fe ∉ s.flrs → s.wakeState fe = 0 → head = idx →
  (s.rregN fe (b + 5) + size - head) % size ≠ 0 → s.graphs = [] → slot < 16 →
  (s.rdcSync asid true).feRead asid (s.rreg2 fe (b + 1) + 16 * idx) 16 .sys = (.ok bs, s) → at' bs 9 1 < 2 → zeroAt bs 10 2 = true →
  at' bs 12 4 = slot + 1 → s.stream? slot = some x → x.fe = fe →
  (∀ (g : Graph) (eng ix : Nat) (r sh p : Nat), at' bs 8 1 = 1 → s.loadGraph (newGraph 0 asid (.strip slot 0) (at' bs 0 8) 0 q false none) true = (.ok (g, false), s) →
    staged g.nodes ≠ none → s.chainNames g = (.ok ([r, sh, p], eng, ix), s) → r = slot + 1 → sh = slot + 1 → p = slot + 1 →
    x.tmpl = none → x.retire = false →
    let y := { x with asid := asid, queue := q, eng := (eng, ix) }
    let sq := s.nextFrame y * y.desc.n
    (s.admits y = true → exec (.register fe q idx) s = .next (done ((s.updStream slot fun _ => { y with tmpl := some (at' bs 0 8), nextSq := sq, scanSq := sq }).sctl slot 2 0)))
    ∧ (s.admits y = false → g.cpl = 0 → exec (.register fe q idx) s = .next (done (s.sctl slot 1 2))))
  ∧ (at' bs 8 1 = 2 →
    (x.tmpl = none → exec (.retire fe q idx) s = .next (done s))
    ∧ (x.tmpl ≠ none → x.strips = [] → x.close = false → s.streams = [x] → exec (.retire fe q idx) s =
      .next (done (({ s with streams := [{ x with strips := [], retire := false, tmpl := none }] } : State).sctl slot 1 0)))))
  ∧ (∀ (s : State) (slot : Nat) (bs : List Byte), slot < 16 →
  let at0 := 0x0D00 + 32 * slot
  let reg := fun (o : Nat) => s.rregN 0 (at0 + o)
  let reg2 := fun (o : Nat) => s.rreg2 0 (at0 + o)
  let fe := reg 0 / 2 ^ 16 % 32
  let ctl := fun (t : State) (st status : Nat) => t.wreg 0 at0 ((t.rreg 0 at0 &&& 0x001F0000#32) ||| BitVec.ofNat 32 (st * 2 ^ 12 + status * 2 ^ 8))
  let d := readDesc bs
  (s.stream? slot = none → s.feRead (64 * fe) (reg2 1) 64 .dev = (.ok bs, s) →
    let fits := fe ≤ 16 ∧ s.descPasses bs d = true ∧ reg2 22 ≠ 0 ∧ reg2 22 % 4096 = 0 ∧ reg2 22 < 2 ^ 52
    let times := (∃ j, j < 5 ∧ reg 5 * 2 ^ j = s.rregN 0 0x0C09) ∧ reg 6 ≠ 0 ∧ reg 8 ≠ 0 ∧ reg 9 ≠ 0 ∧ reg 10 ≠ 0
    (¬fits → exec (.streamOpen slot) s = .next (ctl s 0 1))
    ∧ (fits → ¬times → exec (.streamOpen slot) s = .next (ctl s 0 3))
    ∧ (fits → times → exec (.streamOpen slot) s = .next (ctl { s with
        streams := s.streams ++ [⟨slot, fe, d, 64 * fe, none, 0, 0, 0, (0, 0), [], [], false, [], none, false, false⟩] } 1 0)))
  ∧ (s.stream? slot ≠ none → exec (.streamOpen slot) s = .next s)
  ∧ (∀ x, s.streams = [x] → x.slot = slot → x.strips = [] → exec (.streamClose slot) s = .next (ctl { s with streams := [] } 0 0))
  ∧ (∀ x va, s.stream? slot = some x → x.tmpl = some va →
    (x.retire = true → exec (.chainInstantiate slot) s = .next s)
    ∧ (x.retire = false → exec (.chainInstantiate slot) s = .next { (({ s with
          fresh := s.fresh + 1
          graphs := s.graphs ++ [⟨s.fresh, x.asid, .strip slot x.nextSq, va, false, 0, 0, 0, 3, 0, [], 0, false, x.queue, false, none⟩] } : State).updStream slot
            fun y => { y with
              nextSq := x.nextSq + 1
              strips := y.strips ++ [⟨x.nextSq, s.fresh, 0, 0, [], 0, [], [], [], [], 0, none, [], [], false, false, false, false⟩] }).wreg 0 (at0 + 14)
            (BitVec.ofNat 32 (x.nextSq / max 1 x.desc.n)) with agenda := s.agenda ++ [.graphStart s.fresh] }))
  ∧ ∀ x t stage, s.streams = [x] → x.slot = slot → x.strips = [t] → s.wgs = [] → s.graphs = [] →
    (stage + 10 ∈ t.opened → exec (.reservationStart slot t.sq stage) s = .next s)
    ∧ (stage + 10 ∉ t.opened → 1 ≤ stage → stage ≤ 3 →
      let cores := ((s.exclusive x.fe).filter fun c => !(s.holds.any fun h => h.cores.contains c)).take (reg 11 / 2 ^ (8 * (stage - 1)) % 256)
      exec (.reservationStart slot t.sq stage) s = .next { s with
        holds := s.holds ++ [⟨slot, t.sq, stage, cores⟩], streams := [{ x with strips := [{ t with opened := t.opened ++ [stage + 10] }] }] })
    ∧ exec (.reservationEnd slot t.sq stage) s = .next ({ s with
        holds := s.holds.filter fun h => !(h.slot == slot && h.sq == t.sq && h.stage == stage) } : State).dispatch)

/-- R274, R276, R282, R355: the walker. A graph that breaks R282 ends with status 7; else its root is ready and runs. A graph with nothing left to run
completes: its object's counter gains one, a queue's graph raises QDONE where its entry asks, and the graph is gone. R276, R281, R282: the end of a
node of a graph that is no strip chain: it is done; a successor whose count falls to zero is ready and runs; a status stops the graph. The model's own
readings that it rests on: notes/assumptions/20.md, notes/assumptions/34.md, notes/assumptions/54.md. -/
def Obligations.GraphWalk : Prop :=
  (∀ (s : State) (x y : Graph) (nd : GNode), s.graph? x.id = some x → y.id = x.id →
  let ev := nodeEvent x.id 0 nd.kind
  let goes := fun (t : State) => match x.src with
    | .queue fe q _ => t.queueGo fe q
    | _ => t
  let queued := match x.src with
    | .queue .. => true
    | _ => false
  (x.started = false → (s.rreg (x.asid / 64) (0x0800 + 16 * x.queue)).getLsbD 31 = true → (s.graphs.filter fun g => g.asid / 64 == x.asid / 64 && g.started).length < 256 →
    (s.loadGraph x queued = (.ok (y, false), s) → (∀ a c, x.src ≠ .strip a c) → y.nodes = [nd] → nd.pred = 0 → nd.inLoop = none → y.stop = false → ev ∉ s.agenda →
      let t := goes (s.updGraph x.id fun _ => { y with started := true, nodes := [{ nd with state := .ready }] })
      exec (.graphStart x.id) s = .next { t with agenda := t.agenda ++ [ev] })
    ∧ (s.loadGraph x queued = (.ok (y, true), s) →
      exec (.graphStart x.id) s = .next ((goes (s.updGraph x.id fun _ => { y with started := true, stop := true, status := 7, nodes := [] })).graphCheck x.id)))
  ∧ (x.started = true → exec (.graphStart x.id) s = .next (s.graphCheck x.id))
  ∧ (x.started = true → (∃ n ∈ x.nodes, n.state = .running ∨ n.state = .paused ∨ (n.state = .ready ∧ x.stop = false)) → s.graphCheck x.id = s)
  ∧ (∀ fe q i, x.started = true → (∀ n ∈ x.nodes, n.state = .done ∨ n.state = .idle ∨ (n.state = .ready ∧ x.stop = true)) → s.graphs = [x] → x.src = .queue fe q i →
    x.join = none → s.takesCkp x.asid = false → x.asid ∉ s.fatals → (∀ p, p < 32 → s.pending (x.asid / 64) p = 0) →
    let ends := fun (t : State) => if x.irq then (({ t with graphs := [] } : State).rdcSync x.asid false).irq fe 0 else { t with graphs := [] }
    (x.cpl = 0 → fe < 17 → s.graphCheck x.id = ends s)
    ∧ ∀ key, x.cpl ≠ 0 → x.cpl % 16 = 0 → x.status = 0 → x.cscope ≠ 5 → fe < 17 → s.plain x.asid → s.l1 = [] → (∀ u ∈ s.threads, u.park = none) →
      s.maps (18 + x.asid / 64) x.asid x.cpl .atomic key →
      s.graphCheck x.id = ends { s.seen x.asid key with mem := mputs 0#8 s.mem key (bytesOf 8 (leNat (mgets 0#8 s.mem key 8) + 1)) }))
  ∧ (∀ (s : State) (x : Graph) (y z : GNode) (n m : Nat), s.node? x.id n = some (x, y) → s.graph? x.id = some x →
  (∀ a c, x.src ≠ .strip a c) → y.inLoop = none → y.kind ≠ 3 → y.kind ≠ 9 →
  let done := s.updNode x.id n fun y => { y with state := .done }
  let waits := (∃ g ∈ s.graphs, g.join = some (x.id, n)) ∨ (∃ c ∈ s.cmds, c.join = some (x.id, n)) ∨ ∃ l ∈ s.launches, l.graph = x.id ∧ l.node = n
  (waits → exec (.nodeComplete x.id n) s = .next s)
  ∧ (¬waits → y.state = .running → y.status = 0 → y.succ = [m] → m ≠ n → x.nodes[m]? = some z → z.cnt = 1 → z.state = .idle → x.stop = false →
    nodeEvent x.id m z.kind ∉ s.agenda →
    exec (.nodeComplete x.id n) s = .next { done.updNode x.id m fun z => { z with cnt := z.cnt - 1, state := .ready } with
      agenda := s.agenda ++ [nodeEvent x.id m z.kind] })
  ∧ (¬waits → y.state = .running → y.status = 0 → y.succ = [m] → m ≠ n → x.nodes[m]? = some z → 1 < z.cnt →
    exec (.nodeComplete x.id n) s = .next ((done.updNode x.id m fun z => { z with cnt := z.cnt - 1 }).graphCheck x.id))
  ∧ (¬waits → y.state = .running → y.status ≠ 0 → exec (.nodeComplete x.id n) s = .next ((done.updGraph x.id fun x => { x with
      status := if x.status = 0 then y.status else x.status, stop := true }).graphCheck x.id))
  ∧ (y.state = .done ∨ y.state = .idle ∨ y.state = .ready → exec (.nodeComplete x.id n) s = .next s))

/-- R279 to R281: the nodes of a graph that run on the walker. A COND chooses by a word of memory; a LOOP reads its predicate at the top of each
iteration; SIGNAL adds to a completion object, EXTWAIT waits for one, SUBGRAPH starts a graph at most 8 deep, COPY a command. R277, R278, R281: a
KERNEL node whose launch the front end does not refuse makes its workgroup wait for placement; one that it refuses ends with BAD_LAUNCH (8). The end
of a LOOP's iteration raises its count and reads the predicate again. The model's own readings that it rests on: notes/assumptions/34.md,
notes/assumptions/47.md, notes/assumptions/54.md. -/
def Obligations.NodeLaunches : Prop :=
  (∀ (s : State) (x : Graph) (y : GNode) (n : Nat) (bs w : List Byte), s.node? x.id n = some (x, y) → s.graph? x.id = some x →
  (∀ a c, x.src ≠ .strip a c) → y.state = .ready → x.stop = false → (s.rreg (x.asid / 64) (0x0800 + 16 * x.queue)).getLsbD 31 = true →
  s.feRead x.asid (x.nodeVa + 64 * n + 16) 48 .dev = (.ok bs, s) → bs.length = 48 → Instr.nodeComplete x.id n ∉ s.agenda →
  let ended := fun (t : State) (st : Nat) => { t.updNode x.id n fun z => { z with
    status := st, state := .running, body := if z.kind = 6 then [] else z.body } with agenda := s.agenda ++ [.nodeComplete x.id n] }
  let reads := fun (t : State) (a : Nat) (k : Nat) => t.feRead x.asid a k .dev = (.ok w, t)
  let started := s.updNode x.id n fun z => { z with state := .running, iter := 0, body := y.body.take 2 ++ [at' bs 0 8, at' bs 16 4, at' bs 24 8] }
  (zeroAt bs 16 32 = true → reads s (at' bs 0 8) 4 → leNat w ≠ 0 → exec (.condNode x.id n) s = .next (ended (s.updNode x.id n fun z => { z with body := y.succ }) 0))
  ∧ (∀ cs hd, zeroAt bs 16 32 = true → reads s (at' bs 0 8) 4 → leNat w = 0 →
    s.feRead x.asid (x.succVa + 4 * at' bs 8 4) (4 * at' bs 12 4) .dev = (.ok cs, s) → s.feRead x.asid x.va 64 .dev = (.ok hd, s) →
    let xs := (List.range (at' bs 12 4)).map fun i => at' cs (4 * i) 4
    let legal := at' bs 8 4 + at' bs 12 4 ≤ at' hd 4 4 ∧ ∀ m ∈ xs, x.leaves n m = false
    (legal → exec (.condNode x.id n) s = .next (ended (s.updNode x.id n fun z => { z with body := xs }) 0))
    ∧ (¬legal → exec (.condNode x.id n) s = .next (ended s 7)))
  ∧ (zeroAt bs 16 32 = false → exec (.condNode x.id n) s = .next (ended s 1))
  ∧ (zeroAt bs 20 4 = true → zeroAt bs 32 16 = true → 2 ≤ y.body.length → reads started (at' bs 0 8) 4 →
    (leNat w = 0 → exec (.loopNode x.id n) s = .next (ended started 0))
    ∧ ∀ m z, leNat w ≠ 0 → at' bs 24 8 = 0 → y.body = [m, 1] → m ≠ n → x.nodes[m]? = some z → nodeEvent x.id m z.kind ∉ s.agenda →
      (∀ (k : Nat) (u : GNode), x.nodes[k]? = some u → (u.inLoop = some n ∧ u.pred = 0 ↔ k = m)) →
      exec (.loopNode x.id n) s = .next { started.updGraph x.id fun x => { x with nodes := x.indexed.map fun p =>
          if p.1 = n then { p.2 with state := .running } else if p.1 = m then { p.2 with cnt := p.2.pred, state := .ready, status := 0 } else p.2 } with
        agenda := s.agenda ++ [nodeEvent x.id m z.kind] })
  ∧ (∀ key, zeroAt bs 17 31 = true → at' bs 0 8 % 16 = 0 → at' bs 16 1 = 3 → s.plain x.asid → s.l1 = [] → (∀ u ∈ s.threads, u.park = none) →
    s.maps (18 + x.asid / 64) x.asid (at' bs 0 8) .atomic key →
    exec (.signalNode x.id n) s = .next (ended { s.seen x.asid key with mem := mputs 0#8 s.mem key (bytesOf 8 (leNat (mgets 0#8 s.mem key 8) + at' bs 8 8)) } 0))
  ∧ (at' bs 16 1 < 2 → zeroAt bs 17 31 = true → at' bs 0 8 % 16 = 0 →
    let launched := s.updNode x.id n fun y => { y with state := .running, body := [at' bs 0 8, at' bs 8 8, at' bs 16 1] }
    reads launched (at' bs 0 8) 8 → exec (.extwaitNode x.id n) s = .next (if leNat w ≥ at' bs 8 8 then ended launched 0 else launched))
  ∧ (zeroAt bs 8 40 = true → exec (.subgraphNode x.id n) s = .next (if x.depth ≥ 8 then ended s 7
      else { ({ s with
          fresh := s.fresh + 1
          graphs := s.graphs ++ [⟨s.fresh, x.asid, .node x.id n, at' bs 0 8, false, 0, 0, 0, 3, x.depth + 1, [], 0, false, x.queue, false, none⟩] } : State).updNode
            x.id n fun y => { y with state := .running, ref := s.fresh } with agenda := s.agenda ++ [.graphStart s.fresh] }))
  ∧ ∀ k, cmdLen .copy (cmdCode (wordsOf 12 bs)) = some k → (∀ v ∈ (wordsOf 12 bs).drop k, v = 0#32) →
      exec (.copyNode x.id n) s = .next { ({ s with
          fresh := s.fresh + 1
          cmds := s.cmds ++ [⟨s.fresh, x.asid, .node x.id n, s.copyCore (x.asid / 64), (wordsOf 12 bs).take k, 0, 0, false, false, 0, x.queue, none⟩] } : State).updNode
            x.id n fun y => { y with state := .running, ref := s.fresh } with
        agenda := s.agenda ++ [cmdEvent s.fresh (cmdCode (wordsOf 12 bs))] })
  ∧ (∀ (s : State) (x : Graph) (y : GNode) (n : Nat) (bs w : List Byte) (m : Image), s.node? x.id n = some (x, y) →
  s.graph? x.id = some x → (∀ a c, x.src ≠ .strip a c) → (s.rreg (x.asid / 64) (0x0800 + 16 * x.queue)).getLsbD 31 = true →
  Instr.nodeComplete x.id n ∉ s.agenda →
  let ended := fun (t : State) (st : Nat) => { t.updNode x.id n fun z => { z with
    status := st, state := .running, body := if z.kind = 6 then [] else z.body } with agenda := s.agenda ++ [.nodeComplete x.id n] }
  let again := s.updNode x.id n fun y => { y with iter := y.iter + 1 }
  let l := mkLaunch s.fresh x.asid x.id n (at' bs 0 8) (at' bs 16 8) bs m (s.queuePrio (x.asid / 64) x.queue) none
  (s.partValid (x.asid / 64) = false → exec (.kernelNode x.id n) s = .next s)
  ∧ (s.partValid (x.asid / 64) = true → y.state = .ready → x.stop = false → s.feRead x.asid (x.nodeVa + 64 * n + 16) 48 .dev = (.ok bs, s) → zeroAt bs 36 4 = true → at' bs 16 8 % 8 = 0 →
    s.readImage x.asid (at' bs 0 8) (at' bs 16 8) = (.ok m, s) →
    let made := ({ s with fresh := s.fresh + 1 } : State)
    (made.refuses bs m l (at' bs 0 8) (at' bs 8 4) = true → exec (.kernelNode x.id n) s = .next (ended made 8))
    ∧ (made.refuses bs m l (at' bs 0 8) (at' bs 8 4) = false → at' bs 8 4 = 1 → l.gangSize = 0 → l.groups = [] → s.wgs = [] → s.waking = [] → s.launch? s.fresh = none →
      exec (.kernelNode x.id n) s = .next { ({ s with
          fresh := s.fresh + 2, launches := s.launches ++ [l]
          wgs := [⟨s.fresh + 1, 0, s.fresh, nowhere, .waiting, 0, [], 0, [], [], Vector.replicate 16 .none, 0#32, 0, 0, 0, [], false, none, none, none, [], 0, s.dlc⟩] } : State).updNode
            x.id n fun y => { y with state := .running, ref := s.fresh, body := [at' bs 14 1] } with
        agenda := s.agenda.filter (fun i => !Instr.places i) ++ [.workgroupPlacement (s.fresh + 1) none] }))
  ∧ (∀ a v r, y.kind = 6 → y.state = .running → y.body = a :: v :: r →
    (s.wakeState (x.asid / 64) = 0 → s.feRead x.asid a 8 .dev = (.ok w, s) → exec (.extwaitNode x.id n) s = .next (if leNat w ≥ v then ended s 0 else s))
    ∧ (s.wakeState (x.asid / 64) ≠ 0 → exec (.extwaitNode x.id n) s = .next s))
  ∧ (y.state ≠ .running → exec (.loopIterationEnd x.id n) s = .next s)
  ∧ (y.kind = 4 → y.state = .running → x.stop = false → (∀ (k : Nat) (u : GNode), x.nodes[k]? = some u → y.body.getD 0 0 ≤ k → k < y.body.getD 0 0 + y.body.getD 1 0 →
      u.state = .idle ∨ u.state = .done) → again.feRead x.asid (y.body.getD 2 0) 4 .dev = (.ok w, again) → leNat w = 0 →
      exec (.loopIterationEnd x.id n) s = .next (ended again 0)))

/-- R130, R136, R142, R284 to R287: the render and the shade stage. RENDER clears the visibility slot and takes its lists, then rasterises one meshlet
at a time, and ends with the carry list of the next strip; the end of its window stops it; SHADE launches its kernel. The level starts at one less
than that of the strip before, once the strip is rasterised and the one before is shaded. The model's own readings that it rests on:
notes/assumptions/35.md, notes/assumptions/55.md. -/
def Obligations.StageNodes : Prop := ∀ (s : State) (g n slot sq : Nat) (y : Graph) (z : GNode) (x : StripStream) (t : Strip) (bs hd : List Byte),
  s.node? g n = some (y, z) → y.src = .strip slot sq → s.strip? slot sq = some (x, t) → Instr.nodeComplete g n ∉ s.agenda →
  let k := sq % max 1 x.desc.n
  let ended := fun (t : State) (st : Nat) => { t.updNode g n fun z => { z with
    status := st, state := .running, body := if z.kind = 6 then [] else z.body } with agenda := t.agenda ++ [.nodeComplete g n] }
  let lvl := max t.lvl (x.prev.getD 0 - 1)
  let starts := fun (r : State) => (r.updStrip slot sq fun u => { u with lvl := lvl, ended := u.ended ++ [6] }).wreg 0 (0x0D0D + 32 * slot)
    (BitVec.ofNat 32 (k * 2 ^ 16 + lvl))
  let to' := fun (m : Nat) => if s.holdLeft = 0 then ({ s with dlc := max s.dlc m } : State) else s
  (z.state = .ready → y.stop = false → s.gate y n = true → s.feRead y.asid (y.nodeVa + 64 * n + 16) 48 .dev = (.ok bs, s) →
    (at' bs 0 4 ≠ slot + 1 → exec (.renderNode g n none) s = .next (ended s 1))
    ∧ (at' bs 0 4 = slot + 1 → 1 ≤ at' bs 4 2 → at' bs 4 2 ≤ 4 → zeroAt bs 6 2 = true → 1 ≤ at' bs 8 4 → at' bs 8 4 ≤ 65536 → zeroAt bs 12 4 = true →
      at' bs 16 8 % 8 = 0 → zeroAt bs 24 24 = true →
      let cleared := (List.range (x.desc.rw * x.desc.hm)).foldl (fun (r : State) i =>
        r.homeWrite x.asid (x.desc.visAt sq + 8 * i) (List.replicate 8 0xFF#8) .dev none) s
      let lists := at' bs 16 8 + sq / max 1 x.desc.n % at' bs 4 2 * (x.desc.n * (8 + 8 * at' bs 8 4))
      let late := t.flags / 4 % 2 = 1
      let next' := ((cleared.scount slot 19 0).updStrip slot sq fun u => { u with
        todo := if late then [] else x.carry, cut := if late then x.carry.length else u.cut, kept := []
        flags := if x.carryOv then u.flags ||| 8 else u.flags }).updStream slot fun u => { u with carryOv := false }
      cleared.asset x.asid (lists + 8 * k) 8 = (some hd, cleared) → at' hd 0 4 = 0 → Instr.renderNode g n (some 0) ∉ next'.agenda →
      exec (.renderNode g n none) s = .next { next'.updNode g n fun z => { z with state := .running } with
        agenda := next'.agenda ++ [.renderNode g n (some 0)] })
    ∧ (at' bs 36 4 = slot + 1 → s.partValid (y.asid / 64) = true →
      exec (.shadeNode g n) s = .next (((if 6 ∈ t.ended then s else starts s).kernelLaunch y g n bs (some (slot, sq)) (.shadeNode g n)).postOnce (.shadeNode g n))))
  ∧ (z.state = .running → z.kind = 8 → ∀ i,
    (t.todo = [] →
      let kept := if k + 1 = x.desc.n then [] else t.kept
      let drawn := (s.updStream slot fun u => { u with carry := kept.take 16384, carryOv := decide (16384 < kept.length) }).updStrip slot sq
        fun u => { u with todo := [], kept := [] }
      let after := fun (r : State) => ended { r with agenda := r.agenda ++ [.shadingRatePrediction slot sq] } 0
      ((sq = 0 ∨ ∀ p, x.strip? (sq - 1) = some p → 2 ∈ p.ended) → exec (.renderNode g n (some i)) s = .next (after (starts drawn)))
      ∧ ∀ p, 0 < sq → x.strip? (sq - 1) = some p → 2 ∉ p.ended →
        exec (.renderNode g n (some i)) s = .next (after (drawn.updStrip slot sq fun u => { u with lvl := max t.lvl (p.lvl - 1) })))
    ∧ ∀ va rest, t.todo = va :: rest →
      let left := s.updStrip slot sq fun u => { u with todo := rest }
      (s.readMeshlet x.asid va = (none, s) → exec (.renderNode g n (some i)) s = .next ((left.scount slot 15 1).postOnce (.renderNode g n (some (i + 1)))))
      ∧ ∀ m, s.readMeshlet x.asid va = (some m, s) →
        let drawn := left.drawMeshlet x sq m
        exec (.renderNode g n (some i)) s = .next ((if lastStrip m.last k x.desc.n > k then drawn.updStrip slot sq fun u => { u with kept := u.kept ++ [va] }
          else drawn).postOnce (.renderNode g n (some (i + 1)))))
  ∧ (z.state = .running → ∀ l, (s.launches.find? fun l => l.graph == g && l.node == n) = some l →
    (l.placed = true → exec (.shadeNode g n) s = .next s)
    ∧ (l.placed = false → x.desc.tiles k ≤ t.next → (∀ w ∈ s.wgs, w.launch ≠ l.id) →
      exec (.shadeNode g n) s = .next { s with launches := s.launches.map fun m => if m.id = l.id then { m with placed := true } else m }))
  ∧ (1 ∉ t.ended → s.graph? t.graph = some y → (∀ z ∈ y.nodes, z.kind = 8 → z.state ≠ .done) →
    exec (.renderWindowEnd slot sq) s = .next ((to' (s.window x sq 1).2).updStrip slot sq fun u => { u with
      flags := u.flags ||| 4, cut := u.cut + u.todo.length, todo := [] }))
  ∧ (1 ∈ t.ended ∨ s.drawn t = true → exec (.renderWindowEnd slot sq) s = .next (to' (s.window x sq 1).2))

/-- R123, R126, R139 to R145: tiles, halos, the shading rate and the hard finishes. In a machine whose work and L1 are empty, tileComplete, haloCopy,
shadingRatePrediction, shadeHardFinish and hardFinish answer the next state of their own effect: a tile that has ended is filled, and the last one
leads to the halo copy, which copies once; a strip that would be late is shaded one level coarser; what is not there at its hard time is filled, with
its miss flag. The model's own readings that it rests on: notes/assumptions/35.md, notes/assumptions/55.md, notes/assumptions/69.md,
notes/assumptions/70.md, notes/assumptions/71.md. -/
def Obligations.TilesAndFinishes : Prop := ∀ (s : State) (slot sq : Nat) (x : StripStream) (t : Strip), s.strip? slot sq = some (x, t) → s.ops = [] → s.bins = [] →
  s.launches = [] → s.wgs = [] → s.graphs = [] → s.l1 = [] →
  let k := sq % max 1 x.desc.n
  let tiles := x.desc.tiles k
  let whole := fun (ts : List Nat) => ∀ i, i < tiles → i ∈ ts
  let to' := fun (m : Nat) => if s.holdLeft = 0 then ({ s with dlc := max s.dlc m } : State) else s
  let level := fun (r : State) (l : Nat) => r.wreg 0 (0x0D0D + 32 * slot) (BitVec.ofNat 32 (k * 2 ^ 16 + l))
  let costed := fun (r : State) (u : Strip) => r.updStream slot fun y => { y with
    costs := mput none y.costs k (some (r.dlc - u.first.getD r.dlc, ((List.range tiles).map fun i => factor16 (u.levelOf i)).sum)), prev := some u.lvl }
  (∀ i, (i ∈ t.tiles ∨ i ∈ t.filled ∨ t.next ≤ i → exec (.tileComplete slot sq i) s = .next s)
    ∧ (i ∉ t.tiles → i ∉ t.filled → i < t.next →
      let u := { t with tiles := t.tiles ++ [i] }
      let filled := (s.cellFill x sq i (t.levelOf i)).updStrip slot sq fun _ => u
      (¬whole u.tiles → exec (.tileComplete slot sq i) s = .next filled)
      ∧ (whole u.tiles → exec (.tileComplete slot sq i) s = .next ((costed filled u).post (.haloCopy slot sq)))))
  ∧ (t.halo = true ∨ ¬whole t.tiles ∨ (k = 0 ∧ 0 < sq ∧ x.ended (sq - 1) 3 = false) → exec (.haloCopy slot sq) s = .next s)
  ∧ (t.halo = false → whole t.tiles → (k ≠ 0 ∨ sq = 0 ∨ x.ended (sq - 1) 3 = true) →
    exec (.haloCopy slot sq) s = .next ((s.haloCopy x sq).updStrip slot sq fun u => { u with halo := true })
    ∧ ∃ r y u, exec (.haloCopy slot sq) s = .next r ∧ r.strip? slot sq = some (y, u) ∧ u.halo = true)
  ∧ (mget none x.costs k = none → exec (.shadingRatePrediction slot sq) s = .next s)
  ∧ (∀ e sum, mget none x.costs k = some (e, sum) →
    let open' := ((t.begun.filter fun p => !t.tiles.contains p.1).map fun p => factor16 p.2).sum
    let late := (((s.dlc + s.rregN 0 (0x0D0C + 32 * slot)) * sum + e * (open' + (tiles - t.begun.length) * factor16 t.lvl) : Nat) : Int) > s.hardSf x sq * sum
    (2 ∉ t.ended → ¬whole (t.tiles ++ t.filled) → late → t.lvl < x.desc.maxlvl →
      exec (.shadingRatePrediction slot sq) s = .next (level (s.updStrip slot sq fun u => { u with lvl := u.lvl + 1 }) (t.lvl + 1)))
    ∧ (2 ∈ t.ended ∨ whole (t.tiles ++ t.filled) ∨ ¬late ∨ x.desc.maxlvl ≤ t.lvl → exec (.shadingRatePrediction slot sq) s = .next s))
  ∧ (whole t.tiles → exec (.shadeHardFinish slot sq) s = .next (to' (s.tSf x sq)))
  ∧ (¬whole t.tiles →
    let lvl := max t.lvl (x.prev.getD 0 - 1)
    let begun := if 6 ∈ t.ended then t else { t with lvl := lvl, ended := t.ended ++ [6] }
    let start := if 6 ∈ t.ended then to' (s.tSf x sq) else level ((to' (s.tSf x sq)).updStrip slot sq fun v => { v with lvl := lvl, ended := v.ended ++ [6] }) lvl
    let left := (List.range tiles).filter fun i => !t.tiles.contains i
    let stood := if 7 ∈ t.ended then start else start.updStrip slot sq fun v => { v with filled := left, flags := v.flags ||| 1, next := tiles, ended := v.ended ++ [7] }
    let u := { (if 7 ∈ t.ended then begun else { begun with filled := left, flags := t.flags ||| 1, next := tiles, ended := begun.ended ++ [7] }) with
      tiles := List.range tiles }
    let filled := (stood.lineFill x sq t.tiles).updStrip slot sq fun _ => u
    exec (.shadeHardFinish slot sq) s = .next ((costed filled u).post (.haloCopy slot sq))
    ∧ (7 ∉ t.ended → ∃ r y v, exec (.shadeHardFinish slot sq) s = .next r ∧ r.strip? slot sq = some (y, v) ∧ whole v.tiles ∧ v.filled = left
      ∧ v.flags = t.flags ||| 1 ∧ y.prev = some begun.lvl))
  ∧ (5 ∈ t.ended → exec (.hardFinish slot sq) s = .next s)
  ∧ (5 ∉ t.ended →
    let t0 := { t with tiles := List.range tiles }
    let late := 7 ∈ t.ended ∧ ¬whole t.tiles
    let now := to' (s.tF x sq)
    let s0 := if late then (costed ((now.lineFill x sq t.tiles).updStrip slot sq fun _ => t0) t0).post (.haloCopy slot sq) else now
    let u := { (if late then t0 else t) with flags := t.flags ||| 2 }
    (3 ∈ t.ended → exec (.hardFinish slot sq) s = .next ((s0.missRecord x t t.flags).finished slot sq))
    ∧ (3 ∉ t.ended → exec (.hardFinish slot sq) s = .next
      (((((s0.outFill x sq).updStrip slot sq fun _ => u).stageEnd slot sq 3).missRecord x u u.flags).finished slot sq).dispatch))
  ∧ s.missRecord x t 0 = s ∧ ∀ fl, (s.missBytes x t fl).length = 160

/-- R125, R144, R284, R446, R447: publication and scan-out. PUBLISH through an engine of the owner marks the strip published; SCANOUT sends a
published strip's lines, or BGO in their place with a miss record. The model's own readings that it rests on: notes/assumptions/5.md. -/
def Obligations.Publication : Prop := ∀ (s : State) (g n slot sq : Nat) (y : Graph) (z : GNode) (x : StripStream) (t : Strip) (bs : List Byte),
  s.strip? slot sq = some (x, t) →
  (s.node? g n = some (y, z) → y.src = .strip slot sq → z.state = .ready → y.stop = false → s.gate y n = true → Instr.nodeComplete g n ∉ s.agenda →
    s.feRead y.asid (y.nodeVa + 64 * n + 16) 48 .dev = (.ok bs, s) → at' bs 0 4 = slot + 1 → at' bs 4 1 ≤ 1 → at' bs 5 1 ≤ (if at' bs 4 1 = 0 then 3 else 7) →
    zeroAt bs 6 42 = true →
    let e := if at' bs 4 1 = 0 then at' bs 5 1 else 4 + at' bs 5 1
    let given := (s.rreg 0 (0x0480 + 4 * e)).getLsbD 31 = true ∧ s.rregN 0 (0x0480 + 4 * e) / 2 ^ 16 % 32 = x.fe
    let out := s.updStrip slot sq fun u => { u with out := true }
    let ended := fun (t : State) (st : Nat) => t.nodeEnd g n st
    (¬given → exec (.publishNode g n) s = .next (ended s 8))
    ∧ (given → (at' bs 4 1 = 0 ↔ x.desc.ofmt = 2) → exec (.publishNode g n) s = .next (ended s 10))
    ∧ (given → at' bs 4 1 = 0 → x.desc.ofmt ≠ 2 → exec (.publishNode g n) s = .next (ended out 0))
    ∧ (given → at' bs 4 1 = 1 → x.desc.ofmt = 2 → exec (.publishNode g n) s = .next (ended (out.encode x sq e) 0)))
  ∧ (t.scanned = true ∨ x.eng.1 ≠ 0 → exec (.scanout slot sq) s = .next s)
  ∧ (t.scanned = false → x.eng.1 = 0 →
    let now := if s.holdLeft = 0 then ({ s with dlc := max s.dlc (s.tOut x sq) } : State) else s
    let size := x.desc.lines (sq % max 1 x.desc.n) * x.desc.ow
    let sent := fun (bytes : List Byte) => ({ now with out := s.out ++ [.scan x.eng.2 slot sq bytes] } : State)
    let after := fun (r : State) (late : Bool) => (((r.updStrip slot sq fun u => { u with scanned := true, late := late }).updStream slot fun u => { u with
      scanSq := sq + 1 }).stripSweep slot).stripGo slot
    (t.out = true → x.desc.ofmt ≠ 2 → exec (.scanout slot sq) s = .next (after (sent (mgets 0#8 s.mem (x.desc.outAt sq) (size * x.desc.bpp))) false))
    ∧ (t.out = false → exec (.scanout slot sq) s = .next (after ((sent (List.replicate size (bytesOf x.desc.bpp x.desc.bgo.toNat)).flatten).missRecord x t 16) true)))

/-- R351, R358, R359, R369 to R374, R380, R384, R412: pre-emption. A unit of a higher priority that has waited long enough pre-empts a victim of a
lower one; halted work is saved into its queue's area, or rolled back; a slice that ends hands the shared clusters on; a context in deadlock is
pre-empted and its queues stop, and WATCHDOG is raised once its work has left the device. The model's own readings that it rests on:
notes/assumptions/16.md, notes/assumptions/17.md. -/
def Obligations.Preemption : Prop := ∀ (s : State) (w v : Wg) (l : Launch), s.wg? w.id = some w → s.launchOfWg w.id = some l →
  let fe := l.asid / 64
  let able := fun (us : Nat) => (w.state = .waiting ∨ w.state = .saved) ∧ (∀ h ∈ s.halts, s.asidOf h.1 / 64 ≠ fe) ∧ s.mayPlace fe = true ∧ w.since + us * 2 ^ 32 / 1000000 ≤ s.dlc
  let asks := fun (why : HaltFor) => { s with halts := s.halts ++ [(v.id, why)], agenda := s.agenda ++ [.preemptHalt [v.id]] }
  (s.victim w l = some v → v ∈ s.wgs ∧ v.state = .resident ∧ ∃ m, s.launch? v.launch = some m ∧ Prio.num l.prio < Prio.num m.prio ∧ m.prio ≠ .strip
    ∧ m.asid / 64 = fe)
  ∧ (∀ hi : Bool, l.prio = (if hi then .high else .normal) →
    let i := if hi then Instr.highPriorityPreempt w.id else .normalPriorityPreempt w.id
    let us := if hi then 50 else 1000
    (able us → s.victim w l = some v → s.unitOf v = [v] → (∀ h ∈ s.halts, h.1 ≠ v.id) → (s.rreg (s.asidOf v.id / 64) (0x0A06 + 8 * (s.asidOf v.id % 64))).getLsbD 3 = false →
      exec i s = .next (asks (if s.rollsBack v.id then .rollback else .save)))
    ∧ (able us → s.victim w l = none → exec i s = .next s)
    ∧ (¬able us → exec i s = .next s))
  ∧ (∀ ids : List Nat, (∀ x ∈ s.wgs, x.id ∈ ids → x.state ≠ .resident) → exec (.preemptHalt ids) s = .next s)
  ∧ (w.state = .resident → (∀ x ∈ s.wgs, x.id = w.id → x = w) → (s.wgs.map (·.id)).Nodup → s.rollsBack w.id = false → s.halts = [] →
    (s.ckpPending l.asid = true → exec (.preemptHalt [w.id]) s = .next { s with agenda := s.agenda ++ [.preemptHalt [w.id]] })
    ∧ (s.ckpPending l.asid = false →
      let h := s.haltWgs [w.id]
      exec (.preemptHalt [w.id]) s = .next { h with halts := (h.halts.filter fun p => p.1 != w.id) ++ [(w.id, .save)], agenda := h.agenda ++ [.preciseSave [w.id]] }))
  ∧ (w.state = .halted → s.unitOf w = [w] →
    let q := s.launchQueue l
    let b := 0x0800 + 16 * q
    let size := s.imageSize w.id l
    let mine := fun (i : SaveImage) => i.slot == 0 && i.wg == w.id
    let took := s.takeSpace l.asid q 0 [(w.id, size)]
    (took = none → exec (.preciseSave [w.id]) s = .next ((s.wreg fe (b + 9) (BitVec.ofNat 32 (2 ^ 31 + 4))).fatal l.asid 4).wdogsDone)
    ∧ (∀ r, took = some r → ∃ off, off + size ≤ s.rregN fe (b + 8)
      ∧ r = { s with saves := (s.saves.filter fun i => !mine i) ++ [⟨l.asid, q, w.id, 0, off, size⟩] }
      ∧ ∀ i ∈ s.saves, i.asid = l.asid → i.q = q → mine i = false → 0 < i.len → off + size ≤ i.off ∨ i.off + i.len ≤ off)
    ∧ (∀ bs r, s.imageBytes w.id l = (bs, r) → bs.length = size)
    ∧ ∀ r t, took = some r → r.writeImages 0 [w.id] = .ok t →
      exec (.preciseSave [w.id]) s = .next (({ t with halts := t.halts.filter fun h => h.1 != w.id } : State).leaveCores [w.id]).wdogsDone)
  ∧ (∀ f, (∀ x ∈ s.wgs, x.holds = true → s.launch? x.launch ≠ none → ∀ m, s.launch? x.launch = some m → m.asid / 64 ≠ f ∨ m.prio = .strip) → s.l1 = [] →
    let cls := (List.range 18).filter fun c => decide (2 ≤ (s.sharers c).length) && mget 0 s.slices c == f + 1 && (s.nextHolder f c).isSome
    let other := fun (core : Nat) => !cls.contains (clusterOf core)
    exec (.sliceEnd f) s = .next ({ s with
      slices := cls.foldl (fun m c => mput 0 m c ((s.nextHolder f c).getD 0 + 1)) s.slices
      icache := s.icache.filter fun i => other i.core, past := s.past.filter fun x => other x.core, ended := s.ended.filter fun p => other p.1 } : State).dispatch)
  ∧ ∀ asid, (s.rregN (asid / 64) (0x0A05 + 8 * (asid % 64)) = 0 ∨ s.deadlocked asid = false → exec (.watchdogFire asid) s = .next s)
    ∧ (s.rregN (asid / 64) (0x0A05 + 8 * (asid % 64)) ≠ 0 → s.deadlocked asid = true → ∃ t, exec (.watchdogFire asid) s = .next t
      ∧ (t.rreg (asid / 64) (0x0A06 + 8 * (asid % 64))).getLsbD 2 = true ∧ (asid ∈ t.wdogs ∨ (t.rreg (asid / 64) 0x0410).getLsbD 5 = true) ∧ t.mem = s.mem ∧ t.threads = s.threads
      ∧ (∃ e, t.box.getLast? = some e ∧ e.kind = 7 ∧ e.asid = asid)
      ∧ ∀ q, q < 32 → (t.rreg (asid / 64) (0x0800 + 16 * q)).toNat / 2 ^ 16 % 64 = asid % 64 → (t.rreg (asid / 64) (0x0800 + 16 * q)).getLsbD 31 = false)
    ∧ (s.wdogs = [asid] → s.wdogsDone = if s.leaving asid then s else ({ s with wdogs := [] } : State).irq (asid / 64) 5)

/-- R375 to R379: checkpoints and rollbacks. A context that takes none makes none; one is captured when none is being written and no transaction is
irrevocable, and while a collective runs that has halted the context it waits for its end; the complete one empties the undo log before it. A rollback
writes the undo records back, the newest first, and counts in ROLLS. The model's own readings that it rests on: notes/assumptions/15.md,
notes/assumptions/17.md. -/
def Obligations.Checkpoints : Prop := ∀ (s : State) (asid : Nat),
  let fe := asid / 64
  let st := 0x0A06 + 8 * (asid % 64)
  let mine := s.undo.filter fun u => u.1 == asid
  (s.takesCkp asid = false → exec (.checkpoint asid) s = .next { s with stalls := s.stalls.filter fun a => a != asid })
  ∧ (s.takesCkp asid = true → ((∃ c ∈ s.ckps, c.asid = asid ∧ c.complete = false) ∨ ∃ t ∈ s.threads, t.st.irrev = true ∧ s.asidOf t.wg = asid) → s.collRuns asid = false →
    exec (.checkpoint asid) s = .next { s with agenda := s.agenda ++ [.checkpoint asid] })
  ∧ (s.takesCkp asid = true → s.collRuns asid = true → exec (.checkpoint asid) s = .next s)
  ∧ (s.takesCkp asid = true → s.collRuns asid = false → (∀ c ∈ s.ckps, c.asid = asid → c.complete = true) → (∀ t ∈ s.threads, t.st.irrev = false) → s.wgs = [] → ∃ c t,
      exec (.checkpoint asid) s = .next t ∧ t.ckps = s.ckps ++ [c] ∧ c.asid = asid ∧ c.complete = false
      ∧ (c.slot = 1 ∨ c.slot = 2) ∧ ((∃ x ∈ s.ckps, x.asid = asid ∧ x.slot = 1) → c.slot = 2) ∧ asid ∉ t.stalls ∧ c.pos = mine.length ∧ c.wgs = [] ∧ c.threads = []
      ∧ c.cmds = s.cmds.filter (·.asid == asid) ∧ t.agenda = s.agenda ++ [.checkpointComplete asid] ∧ (t.rreg fe st).getLsbD 1 = true ∧ t.mem = s.mem)
  ∧ ((∀ c ∈ s.ckps, c.asid = asid → c.complete = true) → exec (.checkpointComplete asid) s = .next s)
  ∧ (∀ c r, (s.ckps.find? fun c => c.asid == asid && !c.complete) = some c →
    (if s.rregN fe (0x0A03 + 8 * (asid % 64)) = 0 then r = s else s.undoMove asid 0 (mine.drop c.pos) = .ok r) → r.protect = [] →
    exec (.checkpointComplete asid) s = .next { (r.wreg fe st (r.rreg fe st &&& 0xC#32)).wreg fe (0x0A04 + 8 * (asid % 64))
        (BitVec.ofNat 32 (144 * (mine.drop c.pos).length)) with
      undo := (r.undo.filter fun u => u.1 != asid) ++ mine.drop c.pos
      ckps := (r.ckps.filter fun x => x.asid != asid) ++ [{ c with complete := true, pos := 0 }] })
  ∧ (s.ckpPending asid = true → exec (.rollback asid) s = .next { s with agenda := s.agenda ++ [.rollback asid] })
  ∧ (∀ r, s.ckpPending asid = false → s.wgs = [] → s.graphs = [] → s.ckps = [] → s.unreadable asid (s.rollbackReads asid) = (none, s) →
    s.writeBackUndo asid mine.reverse = .ok r → r.wgs = [] → r.graphs = [] → r.ckps = [] → asid ∉ r.fatals → r.regs = s.regs → ∃ t, exec (.rollback asid) s = .next t ∧ t.mem = r.mem ∧ t.undo = r.undo.filter (fun u => u.1 != asid) ∧ (∀ x ∈ t.l1, x.asid ≠ asid)
      ∧ t.rregN fe st / 16 = min 15 (s.rregN fe st / 16 % 16 + 1))
  ∧ (∀ va bs, s.undo = [(asid, va, bs)] → s.writeBackUndo asid mine.reverse = (match s.ctxWrite (if 40 ≤ fe then fe else 18 + fe) asid .dev 18 va bs with
      | .ok t => .ok t
      | .error f => .error (va, f)))

/-- R430 to R434, R440, R450: resets and boot. A cold reset keeps flash, and memory outside the device, alone; boot verifies the configuration record
and the three images, and measures them, or enters recovery. A warm reset keeps the black box as well, and at 100 °C a device that has tripped stays
tripped. A loss of power, with no request waiting, keeps flash; an error of the management core leads to recovery. The model's own readings that it
rests on: notes/assumptions/2.md, notes/assumptions/5.md, notes/assumptions/26.md, notes/assumptions/29.md, notes/assumptions/51.md. -/
def Obligations.Resets : Prop := ∀ (s : State),
  let boots := ∃ k, s.flash.bootCfg = some k ∧ ∀ j, 1 ≤ j → j ≤ 3 → (s.flash.bootImage (s.flash.configs.getD k []) j).isSome = true
  let kept := fun (t : State) => t.flash = s.flash ∧ (∀ w ∈ t.wgs, 252 ≤ w.core ∧ w.core < 270) ∧ t.graphs = [] ∧ t.tlb = [] ∧ t.l1 = [] ∧ t.dlc = 0
    ∧ ∀ a, a < ownBase 0 → mget 0#8 t.mem a = if hostBase ≤ a then mget 0#8 s.mem a else 0#8
  let ext := fun (m item : List Byte) => digest (m ++ digest item)
  (∃ t, exec .coldReset s = .next t ∧ kept t ∧ t.regs = [] ∧ (boots → t.boot = .ready) ∧ (¬boots → t.boot = .recovery ∧ .bbxPersistComplete ∈ t.agenda)
    ∧ ∀ k a b c, s.flash.bootCfg = some k → s.flash.bootImage (s.flash.configs.getD k []) 1 = some a → s.flash.bootImage (s.flash.configs.getD k []) 2 = some b →
      s.flash.bootImage (s.flash.configs.getD k []) 3 = some c →
      t.meas = ext (ext (ext (ext (List.replicate 64 0#8) (Config.cfgSigned (s.flash.configs.getD k []))) (imgSigned a)) (imgSigned b)) (imgSigned c)
      ∧ t.running = [k, imgSvn a, imgSvn b, imgSvn c]
      ∧ (∀ n, n < 18 → ∃ w ∈ t.wgs, w.core = 252 + n ∧ ∃ u ∈ t.threads, u.wg = w.id ∧ u.pc = Config.fwEntry (if n = 17 then a else if n = 0 then b else c)))
  ∧ ((s.rreg 0 0x2C01).getLsbD 2 = false ∨ (s.rreg 0 0x2C04).toInt < 800 → s.box.length < 1000 → ∃ t ev, exec .warmReset s = .next t ∧ kept t ∧ t.regs = [] ∧ (boots → t.boot = .ready) ∧ (¬boots → t.boot = .recovery)
    ∧ t.box = s.box ++ ev ∧ ∃ e es, ev = e :: es ∧ e.kind = 1)
  ∧ ((s.rreg 0 0x2C01).getLsbD 2 = true → 800 ≤ (s.rreg 0 0x2C04).toInt → ∃ t, exec .warmReset s = .next t ∧ kept t ∧ (t.rreg 0 0x2C01).getLsbD 2 = true
    ∧ t.boot ≠ .ready)
  ∧ ((∀ p ∈ s.inputs, p.1 ≤ s.stepNo → toFlash p.2 = false) → ∃ t, exec .powerLoss s = .next t ∧ kept t ∧ t.regs = [] ∧ t.boot = .held ∧ t.box = [] ∧ t.threads = [] ∧ t.wgs = []
    ∧ t.inputs = s.inputs.filter fun p => decide (s.stepNo < p.1))
  ∧ (s.boot ≠ .ready → exec .uncorrectableError s = .next s)
  ∧ (s.boot = .ready → s.box.length < 1000 → ∃ t, exec .uncorrectableError s = .next t ∧ t.boot = .recovery ∧ t.mem = s.mem ∧ t.regs = s.regs
    ∧ ∃ a b, t.box = s.box ++ [a, b] ∧ a.kind = 8 ∧ b.kind = 2)

/-- R431, R435 to R441, R443, R451, R452: the security mailbox. A data object is served as the message that its TYPE names, and answered with
BAD_REQUEST (1) where there is none. Each request of the right form on a running device has its effect and its answer; one that is malformed is
answered with BAD_REQUEST (1), and one whose write of flash fails with FLASH_ERROR (6); a transfer that waits while another is served is answered with
BUSY (4); in recovery all but four types are answered with BUSY (4). The model's own readings that it rests on: notes/assumptions/5.md,
notes/assumptions/27.md, notes/assumptions/28.md. -/
def Obligations.Mailbox : Prop := ∀ (s : State) (body : List Byte),
  let answer := fun (t : State) (ty st : Nat) (bs : List Byte) => { t with out := t.out ++ [.mailbox Config.vendorId 0x51 (bytesOf 4 (ty + 256 * st) ++ bs)] }
  let num := fun (o n : Nat) => leNat ((body.drop o).take n)
  let own := s.flash.owners.getD s.flash.owner ⟨[], 0, [], []⟩
  let ownKey := if own.key = [] then Config.defaultOwner else own.key
  (exec (.attest body) s = .next (s.doe Config.vendorId 0x51 (bytesOf 4 1 ++ body)) ∧ exec (.getMeas body) s = .next (s.doe Config.vendorId 0x51 (bytesOf 4 2 ++ body))
    ∧ exec (.update body) s = .next (s.doe Config.vendorId 0x51 (bytesOf 4 3 ++ body)) ∧ exec (.commitSvn body) s = .next (s.doe Config.vendorId 0x51 (bytesOf 4 4 ++ body))
    ∧ exec (.xferOwner body) s = .next (s.doe Config.vendorId 0x51 (bytesOf 4 5 ++ body)) ∧ exec (.setConfig body) s = .next (s.doe Config.vendorId 0x51 (bytesOf 4 6 ++ body))
    ∧ exec (.bbxRead body) s = .next (s.doe Config.vendorId 0x51 (bytesOf 4 7 ++ body)) ∧ exec (.bbxSave body) s = .next (s.doe Config.vendorId 0x51 (bytesOf 4 8 ++ body)) ∧ exec (.fabric body) s = .next (s.doe Config.vendorId 0x51 (bytesOf 4 9 ++ body)))
  ∧ (∀ ty, ty < 256 → ty = 0 ∨ 9 < ty → (s.boot = .ready → s.doe Config.vendorId 0x51 (bytesOf 4 ty ++ body) = answer s ty 1 [])
    ∧ (s.boot = .recovery → s.doe Config.vendorId 0x51 (bytesOf 4 ty ++ body) = answer s ty 4 []))
  ∧ (∀ ven obj, ven ≠ Config.vendorId ∨ obj ≠ 0x51 → s.doe ven obj body = s)
  ∧ (s.boot = .held ∨ s.boot = .tripped → exec (.attest body) s = .next s ∧ exec (.getMeas body) s = .next s ∧ exec (.bbxRead body) s = .next s)
  ∧ (s.boot = .recovery → exec (.attest body) s = .next (answer s 1 4 []) ∧ exec (.commitSvn body) s = .next (answer s 4 4 [])
    ∧ exec (.xferOwner body) s = .next (answer s 5 4 []) ∧ exec (.setConfig body) s = .next (answer s 6 4 []) ∧ exec (.fabric body) s = .next (answer s 9 4 []))
  ∧ (s.boot = .ready → body.length ≠ 32 → exec (.attest body) s = .next (answer s 1 1 []))
  ∧ (s.boot = .ready → body.length = 32 → (2 ^ 20 ≤ s.flash.leaf → exec (.attest body) s = .next (answer s 1 5 []))
    ∧ (s.flash.leaf < 2 ^ 20 → s.flashBad = true → exec (.attest body) s = .next (answer { s with flashBad := false } 1 6 []))
    ∧ (s.flash.leaf < 2 ^ 20 → s.flashBad = false →
      let report := body ++ s.meas ++ s.digests4 ++ bytesOf 4 (Config.cfgVersion s.cfg) ++ digest ownKey ++ bytesOf 4 s.flash.leaf
      exec (.attest body) s = .next (answer { s with flash := { s.flash with leaf := s.flash.leaf + 1 } } 1 0 (report ++ (Config.xmssSign s.flash.leaf report).toList))))
  ∧ (s.boot = .ready ∨ s.boot = .recovery →
    exec (.getMeas []) s = .next (answer s 2 0 (s.meas ++ s.digests4))
    ∧ (body ≠ [] → exec (.getMeas body) s = .next (answer s 2 1 []) ∧ exec (.bbxSave body) s = .next (answer s 8 1 []))
    ∧ (body.length = 4 → num 0 2 ≤ 1023 → num 2 2 = 0 →
      exec (.bbxRead body) s = .next (answer s 7 0 (bytesOf 4 s.bbxStat.toNat ++ (List.range 64).flatMap fun k => s.boxAt ((num 0 2 + k) % 1024))))
    ∧ (s.boxSnap = none → Instr.bbxPersistComplete ∉ s.agenda → exec (.bbxSave []) s = .next (answer { s with
        boxSnap := some s.box, agenda := s.agenda ++ [.bbxPersistComplete] } 8 0 []))
    ∧ (s.boxSnap ≠ none → exec (.bbxSave []) s = .next (answer s 8 4 []))
    ∧ (12 ≤ body.length → 1 ≤ num 0 1 → num 0 1 ≤ 3 → num 1 1 ≤ 1 → num 2 2 = 0 → 4 ≤ num 8 4 → num 8 4 ≤ 65536 → num 8 4 % 4 = 0 → body.length = 12 + num 8 4 → num 4 4 = 0 →
      let im := body.drop 12
      (num 1 1 = 0 → exec (.update body) s = .next (answer { s with upload := some (num 0 1, im) } 3 0 []))
      ∧ (num 1 1 = 1 → s.flash.signed s.cfg im (num 0 1) = false → exec (.update body) s = .next (answer { s with upload := none } 3 2 []))
      ∧ (num 1 1 = 1 → s.flash.signed s.cfg im (num 0 1) = true → s.flash.fresh s.cfg im (num 0 1) = false → exec (.update body) s = .next (answer { s with upload := none } 3 3 []))
      ∧ (num 1 1 = 1 → s.flash.signed s.cfg im (num 0 1) = true → s.flash.fresh s.cfg im (num 0 1) = true → s.boot = .ready → s.flashBad = false →
        exec (.update body) s = .next (answer { s with upload := none, flash := { s.flash with
          images := s.flash.images.set ((s.flash.slots (num 0 1)).getLastD 0) im } } 3 0 []))))
  ∧ (s.boot = .ready →
    (body.length = 4 → 1 ≤ num 0 1 → num 0 1 ≤ 3 → num 1 3 = 0 → s.flashBad = false →
      let v := max (s.flash.live.getD (num 0 1 - 1) 0) (s.running.getD (num 0 1) 0)
      exec (.commitSvn body) s = .next (answer { s with flash := { s.flash with live := s.flash.live.set (num 0 1 - 1) v } } 4 0 (bytesOf 4 v)))
    ∧ (body.length ≠ 5520 → exec (.xferOwner body) s = .next (answer s 5 1 []))
    ∧ (body.length = 5520 → s.xferFields body = false → exec (.xferOwner body) s = .next (answer s 5 3 []))
    ∧ (body.length = 5520 → s.xferFields body = true → Config.xmssVerify (Config.cfgMaker s.cfg) (body.take 200) ((body.drop 200).take 2820) = true →
      Config.xmssVerify ownKey (body.take 200) (body.drop 3020) = true → s.flashBad = false → ∃ t, exec (.xferOwner body) s = .next t ∧ t.flash.owner = 1 - s.flash.owner ∧ t.graphs = []
        ∧ (∀ p ∈ t.inputs, p.1 ≤ s.stepNo → isXfer p.2 = false)
        ∧ (s.flash.owner ≤ 1 → s.flash.owners.length = 2 → t.flash.owners[1 - s.flash.owner]? = some ⟨(body.drop 128).take 68, own.count + 1, [], []⟩))
    ∧ (12 ≤ body.length → num 0 1 = 0 → num 1 1 = 1 → num 2 2 = 0 → 4 ≤ num 8 4 → num 8 4 ≤ 65536 → num 8 4 % 4 = 0 → body.length = 12 + num 8 4 → num 4 4 = 0 →
      cfgOk (body.drop 12) = true → Config.cfgVersion s.cfg < Config.cfgVersion (body.drop 12) → s.flashBad = false → exec (.setConfig body) s = .next (answer { s with upload := none, flash := { s.flash with
        configs := s.flash.configs.set (1 - (s.running.head?).getD 0) (body.drop 12) } } 6 0 []))
    ∧ (∀ n x, num 0 1 = 0 → fabWin body = some (n, x) → body ≠ [] → exec (.fabric body) s = .next (answer { s with
        windows := mput .none s.windows n x
        tlb := s.tlb.filter fun e => homeOf e.pa != .peer && homeOf e.pa != .reduce } 9 0 []))
    ∧ (∀ g, num 0 1 = 1 → fabGroup body = some g → exec (.fabric body) s = .next (answer { s with
        cgroups := (s.cgroups.filter fun x => !(x.fe == g.fe && x.ctx == g.ctx && x.group == g.group)) ++ [g] } 9 0 [])))

/-- R99, R424, R443, R445, R451, R453: what comes from outside. A posted write, a fabric write and a reduction act on the device's own memory at the
home; a fabric read answers with the line; the deep state holds the fabric at its port. The black box is persisted from its snapshot into the older
copy, and a persist that is wanted meanwhile follows. A read of the host finds what is at the home; a corrected error is counted and one that is not
stands in its line (R450); the sensors set PWR_POWER and PWR_TEMP (R425). The board management controller reads PWR_STAT, BBX_STAT, PWR_POWER and
PWR_TEMP, and no other register. The model's own readings that it rests on: notes/assumptions/28.md, notes/assumptions/30.md. -/
def Obligations.OutsideEvents : Prop := ∀ (s : State) (pa port : Nat) (bs : List Byte) (v : Word),
  let n := bs.length
  let near := pa / 128 = (pa + n - 1) / 128 ∧ 0 < n ∧ pa + n ≤ 2 ^ 40
  let written := s.homeWrite 0 pa bs .sys none
  (near → exec (.postedWrite pa bs) s = .next written ∧ (s.deep = false → exec (.fabricAccess pa (some bs)) s = .next written))
  ∧ (2 ^ 40 ≤ pa → exec (.postedWrite pa bs) s = .next s ∧ exec (.fabricAccess pa none) s = .next s)
  ∧ (s.deep = true → ∀ data ty, exec (.fabricAccess pa data) s = .next s ∧ exec (.reductionDelivery pa ty v) s = .next s)
  ∧ (s.deep = false → pa < 2 ^ 40 → s.shadows = [] →
    exec (.fabricAccess pa none) s = .next { s with out := s.out ++ [.peer (pa / 128 * 128) (mgets 0#8 s.mem (pa / 128 * 128) 128)] })
  ∧ (s.deep = false → pa < 2 ^ 40 → pa % 4 = 0 → 
    let r := s.rdmEls 0 pa .add .f32 [(0, v.toNat)]
    exec (.reductionDelivery pa .f32 v) s = .next (if s.noSlot pa .add .f32 then r.bump 0 (0x0460 + sliceOfLine (pa / 128 * 128)) else r))
  ∧ (exec (.fabricPortFallback port) s = .next (if port < 18 ∧ port ∉ s.slowPorts then { s with slowPorts := s.slowPorts ++ [port] } else s))
  ∧ (s.boxSnap = none → exec .bbxPersistComplete s = .next s ∧ (Instr.bbxPersistComplete ∉ s.agenda →
      exec .bmcBbxSave s = .next { s with boxSnap := some s.box, agenda := s.agenda ++ [.bbxPersistComplete] }))
  ∧ (∀ idx, (idx ∈ [0x2C01, 0x2C03, 0x2C04] → s.bmcRead idx = { s with out := s.out ++ [.bmc idx (s.rreg 0 idx)] })
    ∧ (idx = 0x2800 → s.bmcRead idx = { s with out := s.out ++ [.bmc idx s.bbxStat] })
    ∧ (idx ∉ [0x2C01, 0x2800, 0x2C03, 0x2C04] → s.bmcRead idx = s))
  ∧ (s.boot = .ready → s.shadows = [] → near → s.hostRead pa n = { s with out := s.out ++ [.host pa (mgets 0#8 s.mem pa n)] })
  ∧ (s.memError pa false = { s with corrected := s.corrected + 1 })
  ∧ (pa < 2 ^ 40 → s.bad pa = false → s.memError pa true = { s with ecc := s.ecc ++ [pa / 128 * 128] })
  ∧ (∀ (p : Nat) (d : Int), d < 920 → 0 ≤ d → p < 2 ^ 32 → (s.sensor p d).rregN 0 0x2C03 = p ∧ ((s.sensor p d).rreg 0 0x2C04).toInt = d)
  ∧ ∀ evs, s.boxSnap = some evs → exec .bmcBbxSave s = .next { s with boxNext := true } ∧ (s.box.length < 1024 →
      let f := { s.flash with box := 1 - s.flash.box, boxes := s.flash.boxes.set (1 - s.flash.box) (evs.flatMap BoxEv.bytes) }
      let t := ({ s with boxSnap := none, boxNext := false, box := s.box ++ [⟨s.dlc, 10, 0xFFFF, 0, 0, 0⟩], boxCount := s.boxCount + 1, flash := f } : State).irq 0 16
      (s.boxNext = false → exec .bbxPersistComplete s = .next t)
      ∧ (s.boxNext = true → Instr.bbxPersistComplete ∉ s.agenda → exec .bbxPersistComplete s = .next { t with
          boxSnap := some t.box, agenda := t.agenda ++ [.bbxPersistComplete] }))

/-- R13 to R17, R153 to R157, R445: what a step runs. The event of a register's write comes before all else; then an input that has come, an event
that acts in the device's state, an access to a BAR, a read of the BMC, a mailbox request, a host's read, a memory error, a failing flash, or the
sensors; then, in its turn, the first event to come, or the instruction that the packet at a ready thread's PC holds at its slot, with the thread at
the next chain. The model's own readings that it rests on: notes/assumptions/7.md, notes/assumptions/8.md, notes/assumptions/9.md,
notes/assumptions/43.md, notes/assumptions/51.md, notes/assumptions/60.md. -/
def Obligations.StepRuns : Prop := ∀ (s t : State) (i : Instr),
  let u := s.tick
  let calm := ∀ j, u.agenda.head? = some j → isWriteEvent j = false ∨ u.boot ≠ .ready
  let quiet := u.inputs = [] ∧ calm ∧ u.stepNo % 64 ≠ 63
  let due := fun (k : Nat) (x : Input) (rest : List (Nat × Input)) => calm ∧ u.inputs = (k, x) :: rest ∧ k ≤ u.stepNo
  let with' := fun (rest : List (Nat × Input)) => ({ u with inputs := rest } : State)
  (∀ is, u.agenda = i :: is → isWriteEvent i = true → u.boot = .ready → exec i { u with agenda := is } = .next t → step s = .next t)
  ∧ (∀ k rest, due k (.ev i) rest → u.atPort (.ev i) = false → step s = if u.acts i then exec i (with' rest) else .next (with' rest))
  ∧ (∀ k rest bar off v, due k (.mmio bar off v) rest → step s = .next ((with' rest).mmio bar off v))
  ∧ (∀ k rest idx, due k (.bmc idx) rest → step s = .next ((with' rest).bmcRead idx))
  ∧ (∀ k rest ven ty bs, due k (.doe ven ty bs) rest → step s = .next ((with' rest).doe ven ty bs))
  ∧ (∀ k rest pa len, due k (.hostRead pa len) rest → step s = .next ((with' rest).hostRead pa len))
  ∧ (∀ k rest pa hard, due k (.memError pa hard) rest → step s = .next ((with' rest).memError pa hard))
  ∧ (∀ k rest p d, due k (.sensor p d) rest → step s = .next ((with' rest).sensor p d))
  ∧ (∀ k rest, due k .flashFail rest → step s = .next { with' rest with flashBad := true })
  ∧ (∀ is, quiet → u.turn % 3 = 0 → u.agenda = i :: is → u.acts i = true → exec i { u with agenda := is } = .next t →
    step s = .next { t with turn := (u.turn + 1) % 3 })
  ∧ ∀ (g : LaneGroup) (th : Thread) (ws : List Nat) (v : State), quiet → u.turn % 3 = 1 → u.boot = .ready → u.second = none → u.groups = [g] → g.core < 270 →
    g.sched < 2 → u.threads = [th] → th.gid = g.id → u.live th = true → th.rep.active = false →
    let lane := { th with yields := th.yields - 1 }
    ({ u with threads := [lane] } : State).fetchPacket g.core g.wg th.pc = (.ok ws, v) → v.ops = [] → v.threads = [lane] →
    let k := th.pc.toNat % 12 / 4
    decodeThread (ws.getD k 0) (if k < 2 then ws[k + 1]? else none) = .ok i → (ws.getD k 0) / 2 ^ 31 % 2 = 0 → (∀ a b c d, i ≠ .rep a b c d) →
    (isSeq i = true → v.seqFull th.wg = false) →
    let next' : DWord := BitVec.ofNat 64 ((th.pc.toNat / 12 * 12 + 4 * (k + i.slots)) % 2 ^ 52)
    let here := { v with iss := ⟨g.core, g.id, [lane], th.pc, next', k, [], [], []⟩, threads := [{ lane with pc := next' }] }
    here.issueCause i = none → exec i here = .next t → t.iss.retried = [] →
    step s = .next { t with
      groups := t.groups.map fun x => if x.id = g.id then { x with aged := x.aged.filter fun p => p != th.pc } else x
      threads := t.threads.map fun x => if x.uid = th.uid then { x with lastIss := u.stepNo } else x
      second := none
      lastSel := mput 0 (mput 0 t.lastSel (2 * g.core + g.sched) (g.id + 1)) 1001 (2 * g.core + g.sched + 1)
      turn := (u.turn + 1) % 3 }

/-- R153 to R175: decoding the words of a well-formed instruction gives it back, with every operand at every value. -/
def Obligations.RoundTrip : Prop := ∀ (i : Instr), Instr.wf i = true → encode i ≠ [] →
  (Instr.inStream i = false → (∃ w, encode i = [w] ∧ ∀ x, decodeThread w x = .ok i) ∨ ∃ w x, encode i = [w, x] ∧ decodeThread w (some x) = .ok i)
  ∧ (Instr.inStream i = true → (∃ w, encode i = [w] ∧ ∀ x, decodeMatrix w x = .ok i) ∨ ∃ w x, encode i = [w, x] ∧ decodeMatrix w x = .ok i)

/-- R160 to R168, R174: words laid out from the encodings of the entries and from the examples of the spec, and the instructions they stand for;
reserved and illegal opcodes, codes outside R48, nonzero bits of unused fields and a literal in slot 2 are refused by name. The matrix words are those
of the stream gemm4 (R326). -/
def Obligations.DecodeWords : Prop :=
  decodeThread 0x81E102F9 (some 0x000003E8) = .ok (.iadd 7 (.v 4) (.v 5) (.lit 1000)) ∧ decodeThread 0x22E18388 none = .ok (.fmulF32 7 (.v 6) (.v 7) (.v 8))
  ∧ decodeThread 0x14E28082 (some 0x00000C96) = .ok (.tern 7 (.v 10) (.v 1) (.v 2) (.v 3) 0x96)
  ∧ decodeThread 0x507FFFFF none = .ok (.jmp 3 0x1FFFFF) ∧ decodeThread 0x54E00000 none = .ok (.exit 7) ∧ decodeThread 0x5DE00000 none = .ok (.rett 7)
  ∧ decodeThread 0x47E2C500 (some 0x0A200000) = .ok (.lred 7 (.v 11) (.v 10) .f32 .max .rn)
  ∧ decodeThread 0x60E28104 none = .ok (.ld 7 (.v 10) (.v 2) false .wg .n32) ∧ decodeThread 0x61E20304 none = .ok (.st 7 (.v 8) (.v 6) false .wg .n32)
  ∧ decodeThread 0x70E14382 none = .ok (.qbind 7 .hoistout (.v 7) 2) ∧ decodeThread 0x71E58A0D none = .ok (.cplwait 7 (.v 22) (.v 20) true .sys)
  ∧ decodeThread 0x7CE0C082 none = .ok (.sysrd 7 (.v 3) 130) ∧ decodeThread 0x00000000 none = .ok (.nop 0) ∧ decodeThread 0x00E00000 none = .ok (.nop 7)
  ∧ decodeMatrix 0x01000002 0 = .ok (.mzero .bfp48 2) ∧ decodeMatrix 0x08006003 0 = .ok (.mloop 3 false 3)
  ∧ decodeMatrix 0x0210207A 0 = .ok (.mmac false false true false 1 0 15 2 0 0 0) ∧ decodeMatrix 0x05000012 0 = .ok (.mexport false 2 2 0 0)
  ∧ decodeThread 0x3E000000 none = .error .opcode ∧ decodeThread 0x3F000000 none = .error .opcode ∧ decodeThread 0x7E000000 none = .error .opcode
  ∧ decodeThread 0x7F000000 none = .error .opcode ∧ decodeThread 0x54E00001 none = .error .mustBeZero ∧ decodeThread 0x01E102FD none = .error .register
  ∧ decodeThread 0x01E102F9 none = .error .slot ∧ decodeMatrix 0x0C000000 0 = .error .opcode

/-- What a step keeps: memory in canonical form, the measurement register at 64 bytes, and at most 1,024 events in the black-box ring. The model's own
readings that it rests on: notes/assumptions/2.md. -/
def Obligations.StepKeeps : Prop := ∀ (s t : State), s.wellKept = true → step s = .next t → t.wellKept = true

/-- R351, R360, R381, R406, R407, R409, R419, R425, R430: the reset values that the spec gives registers, no thread, no translation, and the state
keeps what it should. The model's own readings that it rests on: notes/assumptions/2.md. -/
def Obligations.ResetState : Prop :=
  let r := State.reset
  r.wellKept = true ∧ r.threads = [] ∧ r.boot = .held ∧ r.tlb = []
  ∧ (∀ view q, view ≤ 16 → q < 32 → r.rreg view (0x0800 + 16 * q) = 0x08000000#32 ∧ r.rreg view (0x0803 + 16 * q) = 16#32
    ∧ r.rreg view (0x0804 + 16 * q) = 0#32 ∧ r.rreg view (0x0805 + 16 * q) = 0#32)
  ∧ (∀ view c, view ≤ 16 → c < 64 → r.rreg view (0x0A00 + 8 * c) = 100#32 ∧ r.rreg view (0x0A05 + 8 * c) = 10000#32
    ∧ r.rreg view (0x1C00 + 8 * c) = 0#32 ∧ r.rreg view (0x1C04 + 8 * c) = 16#32 ∧ r.rreg view (0x2402 + 8 * c) = 64#32)
  ∧ r.rreg 0 0x1000 = 0x80110000#32 ∧ r.rreg 0 0x1001 = 0xFFFFFFFF#32 ∧ r.rreg 0 0x1002 = 0xFFFFFFFF#32
  ∧ (∀ f, f < 17 → r.rreg 0 (0x1003 + 8 * f) = 1000#32) ∧ (∀ f, 1 ≤ f → f < 17 → r.rreg 0 (0x1000 + 8 * f) = 0#32)
  ∧ (∀ n, n < 16 → r.rreg (n + 1) 0x1800 = 0#32 ∧ r.rreg (n + 1) 0x1802 = 1000#32 ∧ r.rreg (n + 1) 0x1803 = 0#32)
  ∧ (∀ view, view ≤ 16 → r.rreg view 0x0410 = 0#32 ∧ r.rreg view 0x0411 = 0#32) ∧ r.rreg 0 0x2C02 = 2400#32 ∧ r.rreg 0 0x2C03 = 0#32 ∧ r.rreg 0 0x2C04 = 0#32
end

