-- ==== Sys2Proof/Laws/Lanes.lean ====
section
/-! SUPPORT. What one pass over the acting lanes can do: where every lane only changes its own thread, the pass is `State.inLanes`. -/

namespace Sys2Proof.Machine

/-- The threads after each thread named in a list has changed. -/
def mapLanes (ts : List Thread) (f : Thread → Thread → Thread) (xs : List Thread) : List Thread :=
  xs.map fun u => match ts.find? fun t => t.uid == u.uid with
    | some t => f t u
    | none => u

theorem updThr_withThreads (s : State) (xs : List Thread) (n : Nat) (f : Thread → Thread) :
    (s.withThreads xs).updThr n f = s.withThreads (xs.map fun t => if t.uid = n then f t else t) := rfl

theorem inLanes_eq (s : State) (g : Pred) (f : Thread → Thread → Thread) :
    s.inLanes g f = s.withThreads (mapLanes (s.acting g) f s.threads) := rfl

/-- Folding `updThr` over lanes with distinct names changes each named thread once. -/
theorem foldl_updThr (f : Thread → Thread → Thread) (step : State → Thread → State) (s0 : State)
    (huid : ∀ t u, (f t u).uid = u.uid) :
    ∀ (ts : List Thread) (xs : List Thread), (ts.map (·.uid)).Nodup →
      (∀ t ∈ ts, ∀ ys, step (s0.withThreads ys) t = (s0.withThreads ys).updThr t.uid (f t)) →
      ts.foldl step (s0.withThreads xs) = s0.withThreads (mapLanes ts f xs)
  | [], xs, _, _ => by simp [mapLanes]
  | t :: ts, xs, hn, hstep => by
      have hn' : (ts.map (·.uid)).Nodup := (List.nodup_cons.mp hn).2
      have ht : ∀ x ∈ ts, x.uid ≠ t.uid := fun x hx h =>
        (List.nodup_cons.mp hn).1 (List.mem_map.mpr ⟨x, hx, h⟩)
      rw [List.foldl_cons, hstep t List.mem_cons_self, updThr_withThreads,
        foldl_updThr f step s0 huid ts _ hn' fun x hx => hstep x (List.mem_cons_of_mem _ hx)]
      congr 1
      simp only [mapLanes, List.map_map]
      apply List.map_congr_left
      intro u _
      simp only [Function.comp, List.find?_cons]
      by_cases h : u.uid = t.uid
      · have hnone : (ts.find? fun x => x.uid == t.uid) = none := by
          rw [List.find?_eq_none]; intro x hx; simpa using ht x hx
        simp [h, huid, hnone]
      · have h' : (t.uid == u.uid) = false := by simpa using Ne.symm h
        simp [h, h']

/-- The acting lanes have distinct names when the issuing lanes do. -/
theorem acting_nodup {s : State} (h : s.apart) (g : Pred) : ((s.acting g).map (·.uid)).Nodup := by
  unfold State.acting State.active
  exact (List.Sublist.map _ ((List.filter_sublist).trans List.filter_sublist)).nodup h

/-- A pass over the lanes in which each changes its own thread. -/
theorem eachLane_eq_inLanes {s : State} (h : s.apart) (g : Pred) (f : Thread → Thread → Thread) (step : State → Thread → State)
    (huid : ∀ t u, (f t u).uid = u.uid)
    (hstep : ∀ t ∈ s.acting g, ∀ xs, step (s.withThreads xs) t = (s.withThreads xs).updThr t.uid (f t)) :
    s.eachLane g step = s.inLanes g f := by
  rw [inLanes_eq, ← foldl_updThr f step s huid (s.acting g) s.threads (acting_nodup h g) hstep]
  rfl

/-! ## Computations in each lane -/

theorem opnd_withThreads (s : State) (xs : List Thread) : (s.withThreads xs).opnd = s.opnd := rfl
theorem vals_withThreads (s : State) (xs : List Thread) : (s.withThreads xs).vals = s.vals := rfl
theorem raised_withThreads (s : State) (xs : List Thread) : (s.withThreads xs).raised = s.raised := rfl

theorem updThr_updThr (s : State) (n : Nat) (f h : Thread → Thread) (hf : ∀ t, (f t).uid = t.uid) :
    (s.updThr n f).updThr n h = s.updThr n fun t => h (f t) := by
  unfold State.updThr
  simp only [List.map_map]
  congr 1
  apply List.map_congr_left
  intro u _
  simp only [Function.comp]
  by_cases e : u.uid = n <;> simp [e, hf]

theorem updThr_id (s : State) (n : Nat) : s.updThr n (fun t => t) = s := by
  unfold State.updThr
  have : (s.threads.map fun t => if t.uid = n then t else t) = s.threads := by simp
  rw [this]

/-- Raising flags in a thread, whether there are any or not. -/
theorem raise_eq (s : State) (t : Thread) (fl : Flags) : s.raise t fl = s.updThr t.uid fun u => s.raised u fl := by
  unfold State.raise
  split
  · next h =>
      subst h
      have : (fun u => s.raised u 0) = fun u => u := by
        funext u; unfold State.raised; simp
      rw [this, updThr_id]
  · rfl

@[simp] theorem setReg_uid (t : Thread) (r : Nat) (v : Word) (m : Mark) : (t.setReg r v m).uid = t.uid := by
  unfold Thread.setReg; split <;> rfl

theorem foldl_uid (f : Thread → α → Thread) (h : ∀ t x, (f t x).uid = t.uid) :
    ∀ (xs : List α) (t : Thread), (xs.foldl f t).uid = t.uid
  | [], _ => rfl
  | x :: xs, t => by rw [List.foldl_cons, foldl_uid f h xs, h]

@[simp] theorem wrWords_uid (t : Thread) (d : Dst) (ws : List Word) (m : Nat → Mark) : (t.wrWords d ws m).uid = t.uid := by
  unfold Thread.wrWords
  cases d with
  | zero => rfl
  | v r => exact foldl_uid _ (by simp) _ _

@[simp] theorem wrW_uid (t : Thread) (w : Bool) (d : Dst) (x : DWord) : (t.wrW w d x).uid = t.uid := by
  unfold Thread.wrW Thread.wr Thread.wr2; split <;> simp

@[simp] theorem trimLog_uid (t : Thread) : t.trimLog.uid = t.uid := by
  unfold Thread.trimLog; split <;> rfl

/-- A lane computation that may issue and reads no poison: each acting lane writes its value and raises its flags. -/
theorem aluExec_clean {s : State} {i : Instr} (f : AluFn) {g : Pred} (d : Dst) (w : Bool) (hi : s.canIssue i) (hr : s.reads g i.srcs) :
    aluExec i f g d w s = .next (s.inLanes g fun t u =>
      s.raised ((u.wrW w d (f t.lane (s.vals t i).1 (s.vals t i).2.1 (s.vals t i).2.2).1).trimLog)
        (f t.lane (s.vals t i).1 (s.vals t i).2.1 (s.vals t i).2.2).2) := by
  unfold aluExec issued
  rw [hi.1]
  congr 1
  apply eachLane_eq_inLanes hi.2
  · intro t u; simp [State.raised]
  · intro t ht xs
    simp only [State.aluLane, hr t ht, vals_withThreads]
    rw [raise_eq, updThr_updThr _ _ _ _ (by simp)]
    rfl

end Sys2Proof.Machine
end

