-- ==== Sys2Proof/Laws/Memory.lean ====
section
/-! SUPPORT. Laws of sparse maps and of memory: reading after writing, the canonical form, and what a write at a home leaves alone. -/

namespace Sys2Proof.Machine

variable {α : Type} [DecidableEq α]

/-! ## Sparse maps -/

/-- A lower bound of the keys may be lowered. -/
theorem mwf_mono (d : α) : ∀ (m : SMap α) (a b : Nat), a ≤ b → mwfFrom d b m = true → mwfFrom d a m = true
  | [], _, _, _, _ => rfl
  | (k, v) :: m, a, b, hab, h => by
      simp only [mwfFrom, Bool.and_eq_true, decide_eq_true_eq] at h ⊢
      exact ⟨⟨by omega, h.1.2⟩, h.2⟩

/-- Below the lower bound nothing is listed. -/
theorem mget_lt (d : α) : ∀ (m : SMap α) (lo k : Nat), k < lo → mwfFrom d lo m = true → mget d m k = d
  | [], _, _, _, _ => rfl
  | (k', v) :: m, lo, k, hk, h => by
      simp only [mwfFrom, Bool.and_eq_true, decide_eq_true_eq] at h
      have : k ≠ k' := by omega
      simp only [mget, this, if_false]
      exact mget_lt d m (k' + 1) k (by omega) h.2

/-- A write keeps the canonical form. -/
theorem mput_wf (d : α) : ∀ (m : SMap α) (lo k : Nat) (v : α), lo ≤ k → mwfFrom d lo m = true → mwfFrom d lo (mput d m k v) = true
  | [], lo, k, v, hk, _ => by
      unfold mput; split
      · rfl
      · simp [mwfFrom, *]
  | (k', v') :: m, lo, k, v, hk, h => by
      have h' := h
      simp only [mwfFrom, Bool.and_eq_true, decide_eq_true_eq] at h'
      unfold mput
      split
      · split
        · exact h
        · simp only [mwfFrom, Bool.and_eq_true, decide_eq_true_eq]
          exact ⟨⟨hk, by assumption⟩, ⟨by omega, h'.1.2⟩, h'.2⟩
      · split
        · split
          · exact mwf_mono d m lo (k' + 1) (by omega) h'.2
          · simp only [mwfFrom, Bool.and_eq_true, decide_eq_true_eq]
            subst_vars
            exact ⟨⟨hk, by assumption⟩, h'.2⟩
        · simp only [mwfFrom, Bool.and_eq_true, decide_eq_true_eq]
          exact ⟨⟨h'.1.1, h'.1.2⟩, mput_wf d m (k' + 1) k v (by omega) h'.2⟩

/-- Reading after writing: the key written holds the value, and every other key what it held. -/
theorem mget_mput (d : α) : ∀ (m : SMap α) (lo k j : Nat) (v : α), mwfFrom d lo m = true →
    mget d (mput d m k v) j = if j = k then v else mget d m j
  | [], lo, k, j, v, _ => by
      unfold mput; split
      · simp [mget, *]
      · simp [mget]
  | (k', v') :: m, lo, k, j, v, h => by
      have h' := h
      simp only [mwfFrom, Bool.and_eq_true, decide_eq_true_eq] at h'
      have low : ∀ x, x ≤ k' → mget d m x = d := fun x hx => mget_lt d m (k' + 1) x (by omega) h'.2
      unfold mput
      split
      · split
        · by_cases hj : j = k
          · have hk : k ≠ k' := by omega
            subst hj; simp [mget, low j (by omega), *]
          · simp [hj]
        · rfl
      · split
        · rename_i _ e
          subst e
          split
          · rename_i e2
            subst e2
            by_cases hj : j = k
            · simp [hj, low k (by omega)]
            · simp [mget, hj]
          · by_cases hj : j = k <;> simp [mget, hj]
        · have ih := mget_mput d m (k' + 1) k j v h'.2
          by_cases hj : j = k'
          · have : k' ≠ k := by omega
            simp [mget, hj, this]
          · simp [mget, hj, ih]

/-- Writing consecutive keys keeps the canonical form. -/
theorem mputs_wf (d : α) (lo : Nat) : ∀ (vs : List α) (m : SMap α) (k : Nat), lo ≤ k → mwfFrom d lo m = true → mwfFrom d lo (mputs d m k vs) = true
  | [], _, _, _, h => h
  | v :: vs, m, k, hk, h => mputs_wf d lo vs _ (k + 1) (by omega) (mput_wf d m lo k v hk h)

/-- Writing consecutive keys: a key among them holds its value, and every other key what it held. -/
theorem mget_mputs (d : α) : ∀ (vs : List α) (m : SMap α) (k j : Nat), mwfFrom d 0 m = true →
    mget d (mputs d m k vs) j = if k ≤ j ∧ j < k + vs.length then vs.getD (j - k) d else mget d m j
  | [], m, k, j, _ => by have : ¬(k ≤ j ∧ j < k) := by omega
                         simp [mputs, this]
  | v :: vs, m, k, j, h => by
      rw [mputs, mget_mputs d vs _ (k + 1) j (mput_wf d m 0 k v (by omega) h), mget_mput d m 0 k j v h]
      simp only [List.length_cons]
      by_cases hj : j = k
      · subst hj
        have h1 : ¬(j + 1 ≤ j ∧ j < j + 1 + vs.length) := by omega
        have h2 : j ≤ j ∧ j < j + (vs.length + 1) := by omega
        simp
      · by_cases hi : k ≤ j ∧ j < k + (vs.length + 1)
        · have h1 : k + 1 ≤ j ∧ j < k + 1 + vs.length := by omega
          obtain ⟨i, rfl⟩ : ∃ i, j = k + 1 + i := ⟨j - k - 1, by omega⟩
          rw [if_pos h1, if_pos hi]
          have e1 : k + 1 + i - (k + 1) = i := by omega
          have e2 : k + 1 + i - k = i + 1 := by omega
          rw [e1, e2]; rfl
        · have h1 : ¬(k + 1 ≤ j ∧ j < k + 1 + vs.length) := by omega
          rw [if_neg h1, if_neg hi, if_neg hj]

/-- Memory stays in canonical form under every write of bytes. -/
theorem Mem.wf_mputs (m : Mem) (k : Nat) (bs : List Byte) (h : Mem.wf m = true) : Mem.wf (mputs (0#8) m k bs) = true :=
  mputs_wf _ 0 bs m k (by omega) h

theorem Mem.wf_mput (m : Mem) (k : Nat) (b : Byte) (h : Mem.wf m = true) : Mem.wf (mput (0#8) m k b) = true :=
  mput_wf _ m 0 k b (by omega) h

theorem Mem.wf_nil : Mem.wf [] = true := rfl

/-- Memory after a masked write is in canonical form (R100). -/
theorem Mem.wf_writeMasked (m : Mem) (base mask : Nat) (data : List Byte) (h : Mem.wf m = true) : Mem.wf (writeMasked m base mask data) = true := by
  unfold writeMasked
  generalize (upFrom 0 data.length).zip data = ps
  induction ps generalizing m with
  | nil => exact h
  | cons p ps ih =>
      simp only [List.foldl_cons]
      split
      · exact ih _ (Mem.wf_mput m _ _ h)
      · exact ih _ h

/-- Memory after a filter on the addresses is in canonical form: what a reset leaves of it (R430). -/
theorem mwf_filter (d : α) (p : Nat × α → Bool) : ∀ (m : SMap α) (lo : Nat), mwfFrom d lo m = true → mwfFrom d lo (m.filter p) = true
  | [], _, _ => rfl
  | (k, v) :: m, lo, h => by
      simp only [mwfFrom, Bool.and_eq_true, decide_eq_true_eq] at h
      simp only [List.filter_cons]
      split
      · simp only [mwfFrom, Bool.and_eq_true, decide_eq_true_eq]
        exact ⟨h.1, mwf_filter d p m (k + 1) h.2⟩
      · exact mwf_mono d _ lo (k + 1) (by omega) (mwf_filter d p m (k + 1) h.2)

/-! ## The operations at a home -/

/-- An operation that keeps memory in canonical form, the translations, the registers, the measurement register and the black box. -/
structure KeepsHome (s t : State) : Prop where
  wf   : Mem.wf s.mem = true → Mem.wf t.mem = true
  tlb  : t.tlb = s.tlb
  regs : t.regs = s.regs
  meas : t.meas = s.meas
  box  : t.box = s.box
  work : t.graphs = s.graphs ∧ t.launches = s.launches ∧ t.wgs = s.wgs ∧ t.streams = s.streams ∧ t.dlc = s.dlc

theorem KeepsHome.refl (s : State) : KeepsHome s s := ⟨id, rfl, rfl, rfl, rfl, rfl, rfl, rfl, rfl, rfl⟩
theorem KeepsHome.trans {s t u : State} (h : KeepsHome s t) (k : KeepsHome t u) : KeepsHome s u :=
  ⟨fun w => k.wf (h.wf w), k.tlb.trans h.tlb, k.regs.trans h.regs, k.meas.trans h.meas, k.box.trans h.box,
    k.work.1.trans h.work.1, k.work.2.1.trans h.work.2.1, k.work.2.2.1.trans h.work.2.2.1, k.work.2.2.2.1.trans h.work.2.2.2.1,
    k.work.2.2.2.2.trans h.work.2.2.2.2⟩

/-- A fold of operations that keep the home. -/
theorem KeepsHome.over {β : Type} (f : State → β → State) (hf : ∀ s x, KeepsHome s (f s x)) : ∀ (xs : List β) (s : State), KeepsHome s (s.over xs f)
  | [], s => KeepsHome.refl s
  | x :: xs, s => (hf s x).trans (KeepsHome.over f hf xs (f s x))

theorem keeps_fold (s : State) (line : Nat) : KeepsHome s (s.fold line) := by
  unfold State.fold
  split
  · exact .refl s
  · exact ⟨fun h => Mem.wf_mputs _ _ _ h, rfl, rfl, rfl, rfl, rfl, rfl, rfl, rfl, rfl⟩

theorem keeps_touched (s : State) (key : Nat) (keep : Option Nat) : KeepsHome s (s.touched key keep) := ⟨id, rfl, rfl, rfl, rfl, rfl, rfl, rfl, rfl, rfl⟩

theorem keeps_rdcFlush (s : State) (r : RdcLine) : KeepsHome s (s.rdcFlush r) := by
  unfold State.rdcFlush
  split
  · exact .refl s
  · exact ⟨fun h => Mem.wf_writeMasked _ _ _ _ h, rfl, rfl, rfl, rfl, rfl, rfl, rfl, rfl, rfl⟩

theorem keeps_rdcSync (s : State) (asid : Nat) (drop : Bool) : KeepsHome s (s.rdcSync asid drop) := by
  have h := KeepsHome.over State.rdcFlush keeps_rdcFlush (s.rdc.filter (·.asids.contains asid)) s
  unfold State.rdcSync
  split
  · exact h.trans ⟨id, rfl, rfl, rfl, rfl, rfl, rfl, rfl, rfl, rfl⟩
  · exact h

theorem keeps_rdcDrop (s : State) (line : Nat) : KeepsHome s (s.rdcDrop line) :=
  (KeepsHome.over State.rdcFlush keeps_rdcFlush _ s).trans ⟨id, rfl, rfl, rfl, rfl, rfl, rfl, rfl, rfl, rfl⟩

theorem keeps_l2Room (s : State) (colour line : Nat) : KeepsHome s (s.l2Room colour line) := by
  have evict : ∀ (t : State) (l : Nat), KeepsHome t (t.l2Evict l) := fun t l => (keeps_fold t l).trans ⟨id, rfl, rfl, rfl, rfl, rfl, rfl, rfl, rfl, rfl⟩
  unfold State.l2Room
  dsimp only
  split
  · exact .refl s
  · split
    · exact KeepsHome.trans (t := { s with fresh := s.fresh + 1 }) ⟨id, rfl, rfl, rfl, rfl, rfl, rfl, rfl, rfl, rfl⟩ (evict _ _)
    · exact .refl s

/-- A fill of the L2 keeps the home: a line that it evicts folds (R111). -/
theorem keeps_l2Fill (s : State) (fe line : Nat) : KeepsHome s (s.l2Fill fe line) := by
  unfold State.l2Fill
  split
  · exact .refl s
  · split
    · exact .refl s
    · exact (keeps_l2Room s _ _).trans ⟨id, rfl, rfl, rfl, rfl, rfl, rfl, rfl, rfl, rfl⟩

/-- What an access at the home of DRAM keeps (R8, R111). -/
theorem keeps_atHome (s : State) (asid key : Nat) : KeepsHome s (s.atHome asid key) := (keeps_fold s _).trans (keeps_l2Fill _ _ _)

theorem keeps_rdcRoom (s : State) (line : Nat) : KeepsHome s (s.rdcRoom line) := by
  unfold State.rdcRoom
  dsimp only
  split
  · exact .refl s
  · split
    · exact KeepsHome.trans (t := { s with fresh := s.fresh + 1 }) ⟨id, rfl, rfl, rfl, rfl, rfl, rfl, rfl, rfl, rfl⟩ (keeps_rdcDrop _ _)
    · exact .refl s

theorem keeps_rdcFill (s : State) (asid line : Nat) : KeepsHome s (s.rdcFill asid line) := by
  unfold State.rdcFill
  split
  · exact (keeps_rdcRoom s line).trans ⟨id, rfl, rfl, rfl, rfl, rfl, rfl, rfl, rfl, rfl⟩
  · exact ⟨id, rfl, rfl, rfl, rfl, rfl, rfl, rfl, rfl, rfl⟩

/-- What a write at its home keeps (R99). -/
theorem keeps_homeWrite (s : State) (asid key : Nat) (bs : List Byte) (sc : Scope) (keep : Option Nat) : KeepsHome s (s.homeWrite asid key bs sc keep) := by
  have put : ∀ t : State, KeepsHome t (({ t with mem := mputs 0#8 t.mem key bs } : State).touched key keep) := fun t =>
    ⟨fun h => Mem.wf_mputs _ _ _ h, rfl, rfl, rfl, rfl, rfl, rfl, rfl, rfl, rfl⟩
  unfold State.homeWrite
  split
  · exact (keeps_atHome s _ _).trans (put _)
  · exact put s
  · exact put s
  · exact put s
  · exact .refl s
  · split
    · exact (keeps_rdcDrop s _).trans (put _)
    · exact (keeps_rdcFill s asid _).trans ⟨id, rfl, rfl, rfl, rfl, rfl, rfl, rfl, rfl, rfl⟩

/-- A write of a context whose every translation is cached does not fault. -/
theorem ctxWrite_ok (cluster asid : Nat) (sc : Scope) : ∀ (n va : Nat) (bs : List Byte) (s : State),
    (∀ x, ∃ e, s.tlb.find? (fun e => e.cluster == cluster && e.asid == asid && decide (e.va ≤ x % 2 ^ 52) && decide (x % 2 ^ 52 < e.va + 2 ^ e.bits)
      && e.grants .store) = some e) → ∃ r, s.ctxWrite cluster asid sc n va bs = .ok r
  | 0, _, _, s, _ => ⟨s, rfl⟩
  | n + 1, va, bs, s, h => by
      cases bs with
      | nil => exact ⟨s, rfl⟩
      | cons b bs =>
          obtain ⟨e, he⟩ := h va
          simp only [State.ctxWrite, State.xlate, State.tlbHit, he, ge_iff_le]
          by_cases hc : 40 ≤ cluster <;> simp only [hc, ↓reduceIte] <;>
            exact ctxWrite_ok cluster asid sc n _ _ _ (by rw [(keeps_homeWrite s _ _ _ _ _).tlb]; exact h)

/-! ## Images of workgroups (R371) -/

theorem freeBytes_tlb (s : State) (n : Nat) : (s.freeBytes n).2.tlb = s.tlb := rfl

theorem threadRecords_tlb (n : Nat) : ∀ (ts : List Thread) (s : State), (s.threadRecords n ts).2.tlb = s.tlb
  | [], _ => rfl
  | _ :: ts, s => threadRecords_tlb n ts (s.freeBytes 256).2

/-- Making an image leaves the translations alone. -/
theorem imageBytes_tlb (s : State) (wg : Nat) (l : Launch) : (s.imageBytes wg l).2.tlb = s.tlb := by
  cases h : l.isMatrix <;> simp [State.imageBytes, h, threadRecords_tlb, freeBytes_tlb]

/-- An image whose space is taken, and whose pages one cached translation of the whole address space covers, is written. -/
theorem writeImages_cached (s : State) (slot w : Nat) (l : Launch) (i : SaveImage) (e : TlbEntry) (hl : s.launchOfWg w = some l)
    (hf : (s.saves.find? fun i => i.wg == w && i.slot == slot) = some i)
    (hb : s.barred .store l.asid (s.rreg2 (feOf l.asid) (0x0800 + 16 * i.q + 6) + i.off) i.len = (none, s)) (he : s.tlb = [e])
    (hc : e.cluster = feCluster (feOf l.asid) ∧ e.asid = l.asid ∧ e.va = 0 ∧ e.bits = 52 ∧ e.grants .store = true) :
    ∃ t, s.writeImages slot [w] = .ok t := by
  obtain ⟨t, ht⟩ := ctxWrite_ok (feCluster (feOf l.asid)) l.asid .dev (i.len / 8 + 2) (s.rreg2 (feOf l.asid) (0x0800 + 16 * i.q + 6) + i.off)
    (s.imageBytes w l).1 (s.imageBytes w l).2 fun x => ⟨e, by
      have h : x % 4503599627370496 < 4503599627370496 := Nat.mod_lt _ (by decide)
      simp [imageBytes_tlb, he, hc, h]⟩
  exact ⟨t, by simp only [State.writeImages, hl, hf, hb, ht]⟩

end Sys2Proof.Machine
end

