-- ==== Sys2Proof/Laws/State.lean ====
section
/-! SUPPORT. Laws of the state: what each of the plain updates leaves in each field. -/

namespace Sys2Proof.Machine

/-! ## updThr -/

@[simp] theorem updThr_stepNo (s : State) (n : Nat) (f : Thread → Thread) : (s.updThr n f).stepNo = s.stepNo := rfl
@[simp] theorem updThr_fresh (s : State) (n : Nat) (f : Thread → Thread) : (s.updThr n f).fresh = s.fresh := rfl
@[simp] theorem updThr_agenda (s : State) (n : Nat) (f : Thread → Thread) : (s.updThr n f).agenda = s.agenda := rfl
@[simp] theorem updThr_inputs (s : State) (n : Nat) (f : Thread → Thread) : (s.updThr n f).inputs = s.inputs := rfl
@[simp] theorem updThr_iss (s : State) (n : Nat) (f : Thread → Thread) : (s.updThr n f).iss = s.iss := rfl
@[simp] theorem updThr_second (s : State) (n : Nat) (f : Thread → Thread) : (s.updThr n f).second = s.second := rfl
@[simp] theorem updThr_seqWg (s : State) (n : Nat) (f : Thread → Thread) : (s.updThr n f).seqWg = s.seqWg := rfl
@[simp] theorem updThr_turn (s : State) (n : Nat) (f : Thread → Thread) : (s.updThr n f).turn = s.turn := rfl
@[simp] theorem updThr_timerNo (s : State) (n : Nat) (f : Thread → Thread) : (s.updThr n f).timerNo = s.timerNo := rfl
@[simp] theorem updThr_lastSel (s : State) (n : Nat) (f : Thread → Thread) : (s.updThr n f).lastSel = s.lastSel := rfl
@[simp] theorem updThr_threads (s : State) (n : Nat) (f : Thread → Thread) : (s.updThr n f).threads = s.threads.map fun t => if t.uid = n then f t else t := rfl
@[simp] theorem updThr_groups (s : State) (n : Nat) (f : Thread → Thread) : (s.updThr n f).groups = s.groups := rfl
@[simp] theorem updThr_bins (s : State) (n : Nat) (f : Thread → Thread) : (s.updThr n f).bins = s.bins := rfl
@[simp] theorem updThr_wgs (s : State) (n : Nat) (f : Thread → Thread) : (s.updThr n f).wgs = s.wgs := rfl
@[simp] theorem updThr_past (s : State) (n : Nat) (f : Thread → Thread) : (s.updThr n f).past = s.past := rfl
@[simp] theorem updThr_ended (s : State) (n : Nat) (f : Thread → Thread) : (s.updThr n f).ended = s.ended := rfl
@[simp] theorem updThr_gens (s : State) (n : Nat) (f : Thread → Thread) : (s.updThr n f).gens = s.gens := rfl
@[simp] theorem updThr_launches (s : State) (n : Nat) (f : Thread → Thread) : (s.updThr n f).launches = s.launches := rfl
@[simp] theorem updThr_mem (s : State) (n : Nat) (f : Thread → Thread) : (s.updThr n f).mem = s.mem := rfl
@[simp] theorem updThr_l1 (s : State) (n : Nat) (f : Thread → Thread) : (s.updThr n f).l1 = s.l1 := rfl
@[simp] theorem updThr_icache (s : State) (n : Nat) (f : Thread → Thread) : (s.updThr n f).icache = s.icache := rfl
@[simp] theorem updThr_l2 (s : State) (n : Nat) (f : Thread → Thread) : (s.updThr n f).l2 = s.l2 := rfl
@[simp] theorem updThr_rdc (s : State) (n : Nat) (f : Thread → Thread) : (s.updThr n f).rdc = s.rdc := rfl
@[simp] theorem updThr_shadows (s : State) (n : Nat) (f : Thread → Thread) : (s.updThr n f).shadows = s.shadows := rfl
@[simp] theorem updThr_windows (s : State) (n : Nat) (f : Thread → Thread) : (s.updThr n f).windows = s.windows := rfl
@[simp] theorem updThr_undo (s : State) (n : Nat) (f : Thread → Thread) : (s.updThr n f).undo = s.undo := rfl
@[simp] theorem updThr_tlb (s : State) (n : Nat) (f : Thread → Thread) : (s.updThr n f).tlb = s.tlb := rfl
@[simp] theorem updThr_ops (s : State) (n : Nat) (f : Thread → Thread) : (s.updThr n f).ops = s.ops := rfl
@[simp] theorem updThr_faults (s : State) (n : Nat) (f : Thread → Thread) : (s.updThr n f).faults = s.faults := rfl
@[simp] theorem updThr_devq (s : State) (n : Nat) (f : Thread → Thread) : (s.updThr n f).devq = s.devq := rfl
@[simp] theorem updThr_tokens (s : State) (n : Nat) (f : Thread → Thread) : (s.updThr n f).tokens = s.tokens := rfl
@[simp] theorem updThr_filter (s : State) (n : Nat) (f : Thread → Thread) : (s.updThr n f).filter = s.filter := rfl
@[simp] theorem updThr_cmds (s : State) (n : Nat) (f : Thread → Thread) : (s.updThr n f).cmds = s.cmds := rfl
@[simp] theorem updThr_collSeq (s : State) (n : Nat) (f : Thread → Thread) : (s.updThr n f).collSeq = s.collSeq := rfl
@[simp] theorem updThr_graphs (s : State) (n : Nat) (f : Thread → Thread) : (s.updThr n f).graphs = s.graphs := rfl
@[simp] theorem updThr_hoists (s : State) (n : Nat) (f : Thread → Thread) : (s.updThr n f).hoists = s.hoists := rfl
@[simp] theorem updThr_streams (s : State) (n : Nat) (f : Thread → Thread) : (s.updThr n f).streams = s.streams := rfl
@[simp] theorem updThr_holds (s : State) (n : Nat) (f : Thread → Thread) : (s.updThr n f).holds = s.holds := rfl
@[simp] theorem updThr_keyNext (s : State) (n : Nat) (f : Thread → Thread) : (s.updThr n f).keyNext = s.keyNext := rfl
@[simp] theorem updThr_halts (s : State) (n : Nat) (f : Thread → Thread) : (s.updThr n f).halts = s.halts := rfl
@[simp] theorem updThr_saves (s : State) (n : Nat) (f : Thread → Thread) : (s.updThr n f).saves = s.saves := rfl
@[simp] theorem updThr_stalls (s : State) (n : Nat) (f : Thread → Thread) : (s.updThr n f).stalls = s.stalls := rfl
@[simp] theorem updThr_rrLast (s : State) (n : Nat) (f : Thread → Thread) : (s.updThr n f).rrLast = s.rrLast := rfl
@[simp] theorem updThr_fatals (s : State) (n : Nat) (f : Thread → Thread) : (s.updThr n f).fatals = s.fatals := rfl
@[simp] theorem updThr_wdogs (s : State) (n : Nat) (f : Thread → Thread) : (s.updThr n f).wdogs = s.wdogs := rfl
@[simp] theorem updThr_ckps (s : State) (n : Nat) (f : Thread → Thread) : (s.updThr n f).ckps = s.ckps := rfl
@[simp] theorem updThr_protect (s : State) (n : Nat) (f : Thread → Thread) : (s.updThr n f).protect = s.protect := rfl
@[simp] theorem updThr_scrubs (s : State) (n : Nat) (f : Thread → Thread) : (s.updThr n f).scrubs = s.scrubs := rfl
@[simp] theorem updThr_slices (s : State) (n : Nat) (f : Thread → Thread) : (s.updThr n f).slices = s.slices := rfl
@[simp] theorem updThr_flrs (s : State) (n : Nat) (f : Thread → Thread) : (s.updThr n f).flrs = s.flrs := rfl
@[simp] theorem updThr_invals (s : State) (n : Nat) (f : Thread → Thread) : (s.updThr n f).invals = s.invals := rfl
@[simp] theorem updThr_waking (s : State) (n : Nat) (f : Thread → Thread) : (s.updThr n f).waking = s.waking := rfl
@[simp] theorem updThr_gated (s : State) (n : Nat) (f : Thread → Thread) : (s.updThr n f).gated = s.gated := rfl
@[simp] theorem updThr_deep (s : State) (n : Nat) (f : Thread → Thread) : (s.updThr n f).deep = s.deep := rfl
@[simp] theorem updThr_cap (s : State) (n : Nat) (f : Thread → Thread) : (s.updThr n f).cap = s.cap := rfl
@[simp] theorem updThr_halved (s : State) (n : Nat) (f : Thread → Thread) : (s.updThr n f).halved = s.halved := rfl
@[simp] theorem updThr_boot (s : State) (n : Nat) (f : Thread → Thread) : (s.updThr n f).boot = s.boot := rfl
@[simp] theorem updThr_meas (s : State) (n : Nat) (f : Thread → Thread) : (s.updThr n f).meas = s.meas := rfl
@[simp] theorem updThr_digests (s : State) (n : Nat) (f : Thread → Thread) : (s.updThr n f).digests = s.digests := rfl
@[simp] theorem updThr_running (s : State) (n : Nat) (f : Thread → Thread) : (s.updThr n f).running = s.running := rfl
@[simp] theorem updThr_upload (s : State) (n : Nat) (f : Thread → Thread) : (s.updThr n f).upload = s.upload := rfl
@[simp] theorem updThr_flash (s : State) (n : Nat) (f : Thread → Thread) : (s.updThr n f).flash = s.flash := rfl
@[simp] theorem updThr_box (s : State) (n : Nat) (f : Thread → Thread) : (s.updThr n f).box = s.box := rfl
@[simp] theorem updThr_boxCount (s : State) (n : Nat) (f : Thread → Thread) : (s.updThr n f).boxCount = s.boxCount := rfl
@[simp] theorem updThr_boxSnap (s : State) (n : Nat) (f : Thread → Thread) : (s.updThr n f).boxSnap = s.boxSnap := rfl
@[simp] theorem updThr_boxNext (s : State) (n : Nat) (f : Thread → Thread) : (s.updThr n f).boxNext = s.boxNext := rfl
@[simp] theorem updThr_boxLast (s : State) (n : Nat) (f : Thread → Thread) : (s.updThr n f).boxLast = s.boxLast := rfl
@[simp] theorem updThr_boxDroop (s : State) (n : Nat) (f : Thread → Thread) : (s.updThr n f).boxDroop = s.boxDroop := rfl
@[simp] theorem updThr_flashBad (s : State) (n : Nat) (f : Thread → Thread) : (s.updThr n f).flashBad = s.flashBad := rfl
@[simp] theorem updThr_cgroups (s : State) (n : Nat) (f : Thread → Thread) : (s.updThr n f).cgroups = s.cgroups := rfl
@[simp] theorem updThr_slowPorts (s : State) (n : Nat) (f : Thread → Thread) : (s.updThr n f).slowPorts = s.slowPorts := rfl
@[simp] theorem updThr_ecc (s : State) (n : Nat) (f : Thread → Thread) : (s.updThr n f).ecc = s.ecc := rfl
@[simp] theorem updThr_corrected (s : State) (n : Nat) (f : Thread → Thread) : (s.updThr n f).corrected = s.corrected := rfl
@[simp] theorem updThr_regs (s : State) (n : Nat) (f : Thread → Thread) : (s.updThr n f).regs = s.regs := rfl
@[simp] theorem updThr_fenable (s : State) (n : Nat) (f : Thread → Thread) : (s.updThr n f).fenable = s.fenable := rfl
@[simp] theorem updThr_hgrant (s : State) (n : Nat) (f : Thread → Thread) : (s.updThr n f).hgrant = s.hgrant := rfl
@[simp] theorem updThr_dlc (s : State) (n : Nat) (f : Thread → Thread) : (s.updThr n f).dlc = s.dlc := rfl
@[simp] theorem updThr_frac (s : State) (n : Nat) (f : Thread → Thread) : (s.updThr n f).frac = s.frac := rfl
@[simp] theorem updThr_holdLeft (s : State) (n : Nat) (f : Thread → Thread) : (s.updThr n f).holdLeft = s.holdLeft := rfl
@[simp] theorem updThr_ref10 (s : State) (n : Nat) (f : Thread → Thread) : (s.updThr n f).ref10 = s.ref10 := rfl
@[simp] theorem updThr_latches (s : State) (n : Nat) (f : Thread → Thread) : (s.updThr n f).latches = s.latches := rfl
@[simp] theorem updThr_clocks (s : State) (n : Nat) (f : Thread → Thread) : (s.updThr n f).clocks = s.clocks := rfl
@[simp] theorem updThr_cycles (s : State) (n : Nat) (f : Thread → Thread) : (s.updThr n f).cycles = s.cycles := rfl
@[simp] theorem updThr_out (s : State) (n : Nat) (f : Thread → Thread) : (s.updThr n f).out = s.out := rfl

/-! ## updWg -/

@[simp] theorem updWg_stepNo (s : State) (n : Nat) (f : Wg → Wg) : (s.updWg n f).stepNo = s.stepNo := rfl
@[simp] theorem updWg_fresh (s : State) (n : Nat) (f : Wg → Wg) : (s.updWg n f).fresh = s.fresh := rfl
@[simp] theorem updWg_agenda (s : State) (n : Nat) (f : Wg → Wg) : (s.updWg n f).agenda = s.agenda := rfl
@[simp] theorem updWg_inputs (s : State) (n : Nat) (f : Wg → Wg) : (s.updWg n f).inputs = s.inputs := rfl
@[simp] theorem updWg_iss (s : State) (n : Nat) (f : Wg → Wg) : (s.updWg n f).iss = s.iss := rfl
@[simp] theorem updWg_second (s : State) (n : Nat) (f : Wg → Wg) : (s.updWg n f).second = s.second := rfl
@[simp] theorem updWg_seqWg (s : State) (n : Nat) (f : Wg → Wg) : (s.updWg n f).seqWg = s.seqWg := rfl
@[simp] theorem updWg_turn (s : State) (n : Nat) (f : Wg → Wg) : (s.updWg n f).turn = s.turn := rfl
@[simp] theorem updWg_timerNo (s : State) (n : Nat) (f : Wg → Wg) : (s.updWg n f).timerNo = s.timerNo := rfl
@[simp] theorem updWg_lastSel (s : State) (n : Nat) (f : Wg → Wg) : (s.updWg n f).lastSel = s.lastSel := rfl
@[simp] theorem updWg_threads (s : State) (n : Nat) (f : Wg → Wg) : (s.updWg n f).threads = s.threads := rfl
@[simp] theorem updWg_groups (s : State) (n : Nat) (f : Wg → Wg) : (s.updWg n f).groups = s.groups := rfl
@[simp] theorem updWg_bins (s : State) (n : Nat) (f : Wg → Wg) : (s.updWg n f).bins = s.bins := rfl
@[simp] theorem updWg_wgs (s : State) (n : Nat) (f : Wg → Wg) : (s.updWg n f).wgs = s.wgs.map fun w => if w.id = n then f w else w := rfl
@[simp] theorem updWg_past (s : State) (n : Nat) (f : Wg → Wg) : (s.updWg n f).past = s.past := rfl
@[simp] theorem updWg_ended (s : State) (n : Nat) (f : Wg → Wg) : (s.updWg n f).ended = s.ended := rfl
@[simp] theorem updWg_gens (s : State) (n : Nat) (f : Wg → Wg) : (s.updWg n f).gens = s.gens := rfl
@[simp] theorem updWg_launches (s : State) (n : Nat) (f : Wg → Wg) : (s.updWg n f).launches = s.launches := rfl
@[simp] theorem updWg_mem (s : State) (n : Nat) (f : Wg → Wg) : (s.updWg n f).mem = s.mem := rfl
@[simp] theorem updWg_l1 (s : State) (n : Nat) (f : Wg → Wg) : (s.updWg n f).l1 = s.l1 := rfl
@[simp] theorem updWg_icache (s : State) (n : Nat) (f : Wg → Wg) : (s.updWg n f).icache = s.icache := rfl
@[simp] theorem updWg_l2 (s : State) (n : Nat) (f : Wg → Wg) : (s.updWg n f).l2 = s.l2 := rfl
@[simp] theorem updWg_rdc (s : State) (n : Nat) (f : Wg → Wg) : (s.updWg n f).rdc = s.rdc := rfl
@[simp] theorem updWg_shadows (s : State) (n : Nat) (f : Wg → Wg) : (s.updWg n f).shadows = s.shadows := rfl
@[simp] theorem updWg_windows (s : State) (n : Nat) (f : Wg → Wg) : (s.updWg n f).windows = s.windows := rfl
@[simp] theorem updWg_undo (s : State) (n : Nat) (f : Wg → Wg) : (s.updWg n f).undo = s.undo := rfl
@[simp] theorem updWg_tlb (s : State) (n : Nat) (f : Wg → Wg) : (s.updWg n f).tlb = s.tlb := rfl
@[simp] theorem updWg_ops (s : State) (n : Nat) (f : Wg → Wg) : (s.updWg n f).ops = s.ops := rfl
@[simp] theorem updWg_faults (s : State) (n : Nat) (f : Wg → Wg) : (s.updWg n f).faults = s.faults := rfl
@[simp] theorem updWg_devq (s : State) (n : Nat) (f : Wg → Wg) : (s.updWg n f).devq = s.devq := rfl
@[simp] theorem updWg_tokens (s : State) (n : Nat) (f : Wg → Wg) : (s.updWg n f).tokens = s.tokens := rfl
@[simp] theorem updWg_filter (s : State) (n : Nat) (f : Wg → Wg) : (s.updWg n f).filter = s.filter := rfl
@[simp] theorem updWg_cmds (s : State) (n : Nat) (f : Wg → Wg) : (s.updWg n f).cmds = s.cmds := rfl
@[simp] theorem updWg_collSeq (s : State) (n : Nat) (f : Wg → Wg) : (s.updWg n f).collSeq = s.collSeq := rfl
@[simp] theorem updWg_graphs (s : State) (n : Nat) (f : Wg → Wg) : (s.updWg n f).graphs = s.graphs := rfl
@[simp] theorem updWg_hoists (s : State) (n : Nat) (f : Wg → Wg) : (s.updWg n f).hoists = s.hoists := rfl
@[simp] theorem updWg_streams (s : State) (n : Nat) (f : Wg → Wg) : (s.updWg n f).streams = s.streams := rfl
@[simp] theorem updWg_holds (s : State) (n : Nat) (f : Wg → Wg) : (s.updWg n f).holds = s.holds := rfl
@[simp] theorem updWg_keyNext (s : State) (n : Nat) (f : Wg → Wg) : (s.updWg n f).keyNext = s.keyNext := rfl
@[simp] theorem updWg_halts (s : State) (n : Nat) (f : Wg → Wg) : (s.updWg n f).halts = s.halts := rfl
@[simp] theorem updWg_saves (s : State) (n : Nat) (f : Wg → Wg) : (s.updWg n f).saves = s.saves := rfl
@[simp] theorem updWg_stalls (s : State) (n : Nat) (f : Wg → Wg) : (s.updWg n f).stalls = s.stalls := rfl
@[simp] theorem updWg_rrLast (s : State) (n : Nat) (f : Wg → Wg) : (s.updWg n f).rrLast = s.rrLast := rfl
@[simp] theorem updWg_fatals (s : State) (n : Nat) (f : Wg → Wg) : (s.updWg n f).fatals = s.fatals := rfl
@[simp] theorem updWg_wdogs (s : State) (n : Nat) (f : Wg → Wg) : (s.updWg n f).wdogs = s.wdogs := rfl
@[simp] theorem updWg_ckps (s : State) (n : Nat) (f : Wg → Wg) : (s.updWg n f).ckps = s.ckps := rfl
@[simp] theorem updWg_protect (s : State) (n : Nat) (f : Wg → Wg) : (s.updWg n f).protect = s.protect := rfl
@[simp] theorem updWg_scrubs (s : State) (n : Nat) (f : Wg → Wg) : (s.updWg n f).scrubs = s.scrubs := rfl
@[simp] theorem updWg_slices (s : State) (n : Nat) (f : Wg → Wg) : (s.updWg n f).slices = s.slices := rfl
@[simp] theorem updWg_flrs (s : State) (n : Nat) (f : Wg → Wg) : (s.updWg n f).flrs = s.flrs := rfl
@[simp] theorem updWg_invals (s : State) (n : Nat) (f : Wg → Wg) : (s.updWg n f).invals = s.invals := rfl
@[simp] theorem updWg_waking (s : State) (n : Nat) (f : Wg → Wg) : (s.updWg n f).waking = s.waking := rfl
@[simp] theorem updWg_gated (s : State) (n : Nat) (f : Wg → Wg) : (s.updWg n f).gated = s.gated := rfl
@[simp] theorem updWg_deep (s : State) (n : Nat) (f : Wg → Wg) : (s.updWg n f).deep = s.deep := rfl
@[simp] theorem updWg_cap (s : State) (n : Nat) (f : Wg → Wg) : (s.updWg n f).cap = s.cap := rfl
@[simp] theorem updWg_halved (s : State) (n : Nat) (f : Wg → Wg) : (s.updWg n f).halved = s.halved := rfl
@[simp] theorem updWg_boot (s : State) (n : Nat) (f : Wg → Wg) : (s.updWg n f).boot = s.boot := rfl
@[simp] theorem updWg_meas (s : State) (n : Nat) (f : Wg → Wg) : (s.updWg n f).meas = s.meas := rfl
@[simp] theorem updWg_digests (s : State) (n : Nat) (f : Wg → Wg) : (s.updWg n f).digests = s.digests := rfl
@[simp] theorem updWg_running (s : State) (n : Nat) (f : Wg → Wg) : (s.updWg n f).running = s.running := rfl
@[simp] theorem updWg_upload (s : State) (n : Nat) (f : Wg → Wg) : (s.updWg n f).upload = s.upload := rfl
@[simp] theorem updWg_flash (s : State) (n : Nat) (f : Wg → Wg) : (s.updWg n f).flash = s.flash := rfl
@[simp] theorem updWg_box (s : State) (n : Nat) (f : Wg → Wg) : (s.updWg n f).box = s.box := rfl
@[simp] theorem updWg_boxCount (s : State) (n : Nat) (f : Wg → Wg) : (s.updWg n f).boxCount = s.boxCount := rfl
@[simp] theorem updWg_boxSnap (s : State) (n : Nat) (f : Wg → Wg) : (s.updWg n f).boxSnap = s.boxSnap := rfl
@[simp] theorem updWg_boxNext (s : State) (n : Nat) (f : Wg → Wg) : (s.updWg n f).boxNext = s.boxNext := rfl
@[simp] theorem updWg_boxLast (s : State) (n : Nat) (f : Wg → Wg) : (s.updWg n f).boxLast = s.boxLast := rfl
@[simp] theorem updWg_boxDroop (s : State) (n : Nat) (f : Wg → Wg) : (s.updWg n f).boxDroop = s.boxDroop := rfl
@[simp] theorem updWg_flashBad (s : State) (n : Nat) (f : Wg → Wg) : (s.updWg n f).flashBad = s.flashBad := rfl
@[simp] theorem updWg_cgroups (s : State) (n : Nat) (f : Wg → Wg) : (s.updWg n f).cgroups = s.cgroups := rfl
@[simp] theorem updWg_slowPorts (s : State) (n : Nat) (f : Wg → Wg) : (s.updWg n f).slowPorts = s.slowPorts := rfl
@[simp] theorem updWg_ecc (s : State) (n : Nat) (f : Wg → Wg) : (s.updWg n f).ecc = s.ecc := rfl
@[simp] theorem updWg_corrected (s : State) (n : Nat) (f : Wg → Wg) : (s.updWg n f).corrected = s.corrected := rfl
@[simp] theorem updWg_regs (s : State) (n : Nat) (f : Wg → Wg) : (s.updWg n f).regs = s.regs := rfl
@[simp] theorem updWg_fenable (s : State) (n : Nat) (f : Wg → Wg) : (s.updWg n f).fenable = s.fenable := rfl
@[simp] theorem updWg_hgrant (s : State) (n : Nat) (f : Wg → Wg) : (s.updWg n f).hgrant = s.hgrant := rfl
@[simp] theorem updWg_dlc (s : State) (n : Nat) (f : Wg → Wg) : (s.updWg n f).dlc = s.dlc := rfl
@[simp] theorem updWg_frac (s : State) (n : Nat) (f : Wg → Wg) : (s.updWg n f).frac = s.frac := rfl
@[simp] theorem updWg_holdLeft (s : State) (n : Nat) (f : Wg → Wg) : (s.updWg n f).holdLeft = s.holdLeft := rfl
@[simp] theorem updWg_ref10 (s : State) (n : Nat) (f : Wg → Wg) : (s.updWg n f).ref10 = s.ref10 := rfl
@[simp] theorem updWg_latches (s : State) (n : Nat) (f : Wg → Wg) : (s.updWg n f).latches = s.latches := rfl
@[simp] theorem updWg_clocks (s : State) (n : Nat) (f : Wg → Wg) : (s.updWg n f).clocks = s.clocks := rfl
@[simp] theorem updWg_cycles (s : State) (n : Nat) (f : Wg → Wg) : (s.updWg n f).cycles = s.cycles := rfl
@[simp] theorem updWg_out (s : State) (n : Nat) (f : Wg → Wg) : (s.updWg n f).out = s.out := rfl

/-! ## updSeq -/

@[simp] theorem updSeq_stepNo (s : State) (n : Nat) (f : Seq → Seq) : (s.updSeq n f).stepNo = s.stepNo := rfl
@[simp] theorem updSeq_fresh (s : State) (n : Nat) (f : Seq → Seq) : (s.updSeq n f).fresh = s.fresh := rfl
@[simp] theorem updSeq_agenda (s : State) (n : Nat) (f : Seq → Seq) : (s.updSeq n f).agenda = s.agenda := rfl
@[simp] theorem updSeq_inputs (s : State) (n : Nat) (f : Seq → Seq) : (s.updSeq n f).inputs = s.inputs := rfl
@[simp] theorem updSeq_iss (s : State) (n : Nat) (f : Seq → Seq) : (s.updSeq n f).iss = s.iss := rfl
@[simp] theorem updSeq_second (s : State) (n : Nat) (f : Seq → Seq) : (s.updSeq n f).second = s.second := rfl
@[simp] theorem updSeq_seqWg (s : State) (n : Nat) (f : Seq → Seq) : (s.updSeq n f).seqWg = s.seqWg := rfl
@[simp] theorem updSeq_turn (s : State) (n : Nat) (f : Seq → Seq) : (s.updSeq n f).turn = s.turn := rfl
@[simp] theorem updSeq_timerNo (s : State) (n : Nat) (f : Seq → Seq) : (s.updSeq n f).timerNo = s.timerNo := rfl
@[simp] theorem updSeq_lastSel (s : State) (n : Nat) (f : Seq → Seq) : (s.updSeq n f).lastSel = s.lastSel := rfl
@[simp] theorem updSeq_threads (s : State) (n : Nat) (f : Seq → Seq) : (s.updSeq n f).threads = s.threads := rfl
@[simp] theorem updSeq_groups (s : State) (n : Nat) (f : Seq → Seq) : (s.updSeq n f).groups = s.groups := rfl
@[simp] theorem updSeq_bins (s : State) (n : Nat) (f : Seq → Seq) : (s.updSeq n f).bins = s.bins := rfl
@[simp] theorem updSeq_wgs (s : State) (n : Nat) (f : Seq → Seq) : (s.updSeq n f).wgs = s.wgs.map fun w => if w.id = n then { w with seq := w.seq.map f } else w := rfl
@[simp] theorem updSeq_past (s : State) (n : Nat) (f : Seq → Seq) : (s.updSeq n f).past = s.past := rfl
@[simp] theorem updSeq_ended (s : State) (n : Nat) (f : Seq → Seq) : (s.updSeq n f).ended = s.ended := rfl
@[simp] theorem updSeq_gens (s : State) (n : Nat) (f : Seq → Seq) : (s.updSeq n f).gens = s.gens := rfl
@[simp] theorem updSeq_launches (s : State) (n : Nat) (f : Seq → Seq) : (s.updSeq n f).launches = s.launches := rfl
@[simp] theorem updSeq_mem (s : State) (n : Nat) (f : Seq → Seq) : (s.updSeq n f).mem = s.mem := rfl
@[simp] theorem updSeq_l1 (s : State) (n : Nat) (f : Seq → Seq) : (s.updSeq n f).l1 = s.l1 := rfl
@[simp] theorem updSeq_icache (s : State) (n : Nat) (f : Seq → Seq) : (s.updSeq n f).icache = s.icache := rfl
@[simp] theorem updSeq_l2 (s : State) (n : Nat) (f : Seq → Seq) : (s.updSeq n f).l2 = s.l2 := rfl
@[simp] theorem updSeq_rdc (s : State) (n : Nat) (f : Seq → Seq) : (s.updSeq n f).rdc = s.rdc := rfl
@[simp] theorem updSeq_shadows (s : State) (n : Nat) (f : Seq → Seq) : (s.updSeq n f).shadows = s.shadows := rfl
@[simp] theorem updSeq_windows (s : State) (n : Nat) (f : Seq → Seq) : (s.updSeq n f).windows = s.windows := rfl
@[simp] theorem updSeq_undo (s : State) (n : Nat) (f : Seq → Seq) : (s.updSeq n f).undo = s.undo := rfl
@[simp] theorem updSeq_tlb (s : State) (n : Nat) (f : Seq → Seq) : (s.updSeq n f).tlb = s.tlb := rfl
@[simp] theorem updSeq_ops (s : State) (n : Nat) (f : Seq → Seq) : (s.updSeq n f).ops = s.ops := rfl
@[simp] theorem updSeq_faults (s : State) (n : Nat) (f : Seq → Seq) : (s.updSeq n f).faults = s.faults := rfl
@[simp] theorem updSeq_devq (s : State) (n : Nat) (f : Seq → Seq) : (s.updSeq n f).devq = s.devq := rfl
@[simp] theorem updSeq_tokens (s : State) (n : Nat) (f : Seq → Seq) : (s.updSeq n f).tokens = s.tokens := rfl
@[simp] theorem updSeq_filter (s : State) (n : Nat) (f : Seq → Seq) : (s.updSeq n f).filter = s.filter := rfl
@[simp] theorem updSeq_cmds (s : State) (n : Nat) (f : Seq → Seq) : (s.updSeq n f).cmds = s.cmds := rfl
@[simp] theorem updSeq_collSeq (s : State) (n : Nat) (f : Seq → Seq) : (s.updSeq n f).collSeq = s.collSeq := rfl
@[simp] theorem updSeq_graphs (s : State) (n : Nat) (f : Seq → Seq) : (s.updSeq n f).graphs = s.graphs := rfl
@[simp] theorem updSeq_hoists (s : State) (n : Nat) (f : Seq → Seq) : (s.updSeq n f).hoists = s.hoists := rfl
@[simp] theorem updSeq_streams (s : State) (n : Nat) (f : Seq → Seq) : (s.updSeq n f).streams = s.streams := rfl
@[simp] theorem updSeq_holds (s : State) (n : Nat) (f : Seq → Seq) : (s.updSeq n f).holds = s.holds := rfl
@[simp] theorem updSeq_keyNext (s : State) (n : Nat) (f : Seq → Seq) : (s.updSeq n f).keyNext = s.keyNext := rfl
@[simp] theorem updSeq_halts (s : State) (n : Nat) (f : Seq → Seq) : (s.updSeq n f).halts = s.halts := rfl
@[simp] theorem updSeq_saves (s : State) (n : Nat) (f : Seq → Seq) : (s.updSeq n f).saves = s.saves := rfl
@[simp] theorem updSeq_stalls (s : State) (n : Nat) (f : Seq → Seq) : (s.updSeq n f).stalls = s.stalls := rfl
@[simp] theorem updSeq_rrLast (s : State) (n : Nat) (f : Seq → Seq) : (s.updSeq n f).rrLast = s.rrLast := rfl
@[simp] theorem updSeq_fatals (s : State) (n : Nat) (f : Seq → Seq) : (s.updSeq n f).fatals = s.fatals := rfl
@[simp] theorem updSeq_wdogs (s : State) (n : Nat) (f : Seq → Seq) : (s.updSeq n f).wdogs = s.wdogs := rfl
@[simp] theorem updSeq_ckps (s : State) (n : Nat) (f : Seq → Seq) : (s.updSeq n f).ckps = s.ckps := rfl
@[simp] theorem updSeq_protect (s : State) (n : Nat) (f : Seq → Seq) : (s.updSeq n f).protect = s.protect := rfl
@[simp] theorem updSeq_scrubs (s : State) (n : Nat) (f : Seq → Seq) : (s.updSeq n f).scrubs = s.scrubs := rfl
@[simp] theorem updSeq_slices (s : State) (n : Nat) (f : Seq → Seq) : (s.updSeq n f).slices = s.slices := rfl
@[simp] theorem updSeq_flrs (s : State) (n : Nat) (f : Seq → Seq) : (s.updSeq n f).flrs = s.flrs := rfl
@[simp] theorem updSeq_invals (s : State) (n : Nat) (f : Seq → Seq) : (s.updSeq n f).invals = s.invals := rfl
@[simp] theorem updSeq_waking (s : State) (n : Nat) (f : Seq → Seq) : (s.updSeq n f).waking = s.waking := rfl
@[simp] theorem updSeq_gated (s : State) (n : Nat) (f : Seq → Seq) : (s.updSeq n f).gated = s.gated := rfl
@[simp] theorem updSeq_deep (s : State) (n : Nat) (f : Seq → Seq) : (s.updSeq n f).deep = s.deep := rfl
@[simp] theorem updSeq_cap (s : State) (n : Nat) (f : Seq → Seq) : (s.updSeq n f).cap = s.cap := rfl
@[simp] theorem updSeq_halved (s : State) (n : Nat) (f : Seq → Seq) : (s.updSeq n f).halved = s.halved := rfl
@[simp] theorem updSeq_boot (s : State) (n : Nat) (f : Seq → Seq) : (s.updSeq n f).boot = s.boot := rfl
@[simp] theorem updSeq_meas (s : State) (n : Nat) (f : Seq → Seq) : (s.updSeq n f).meas = s.meas := rfl
@[simp] theorem updSeq_digests (s : State) (n : Nat) (f : Seq → Seq) : (s.updSeq n f).digests = s.digests := rfl
@[simp] theorem updSeq_running (s : State) (n : Nat) (f : Seq → Seq) : (s.updSeq n f).running = s.running := rfl
@[simp] theorem updSeq_upload (s : State) (n : Nat) (f : Seq → Seq) : (s.updSeq n f).upload = s.upload := rfl
@[simp] theorem updSeq_flash (s : State) (n : Nat) (f : Seq → Seq) : (s.updSeq n f).flash = s.flash := rfl
@[simp] theorem updSeq_box (s : State) (n : Nat) (f : Seq → Seq) : (s.updSeq n f).box = s.box := rfl
@[simp] theorem updSeq_boxCount (s : State) (n : Nat) (f : Seq → Seq) : (s.updSeq n f).boxCount = s.boxCount := rfl
@[simp] theorem updSeq_boxSnap (s : State) (n : Nat) (f : Seq → Seq) : (s.updSeq n f).boxSnap = s.boxSnap := rfl
@[simp] theorem updSeq_boxNext (s : State) (n : Nat) (f : Seq → Seq) : (s.updSeq n f).boxNext = s.boxNext := rfl
@[simp] theorem updSeq_boxLast (s : State) (n : Nat) (f : Seq → Seq) : (s.updSeq n f).boxLast = s.boxLast := rfl
@[simp] theorem updSeq_boxDroop (s : State) (n : Nat) (f : Seq → Seq) : (s.updSeq n f).boxDroop = s.boxDroop := rfl
@[simp] theorem updSeq_flashBad (s : State) (n : Nat) (f : Seq → Seq) : (s.updSeq n f).flashBad = s.flashBad := rfl
@[simp] theorem updSeq_cgroups (s : State) (n : Nat) (f : Seq → Seq) : (s.updSeq n f).cgroups = s.cgroups := rfl
@[simp] theorem updSeq_slowPorts (s : State) (n : Nat) (f : Seq → Seq) : (s.updSeq n f).slowPorts = s.slowPorts := rfl
@[simp] theorem updSeq_ecc (s : State) (n : Nat) (f : Seq → Seq) : (s.updSeq n f).ecc = s.ecc := rfl
@[simp] theorem updSeq_corrected (s : State) (n : Nat) (f : Seq → Seq) : (s.updSeq n f).corrected = s.corrected := rfl
@[simp] theorem updSeq_regs (s : State) (n : Nat) (f : Seq → Seq) : (s.updSeq n f).regs = s.regs := rfl
@[simp] theorem updSeq_fenable (s : State) (n : Nat) (f : Seq → Seq) : (s.updSeq n f).fenable = s.fenable := rfl
@[simp] theorem updSeq_hgrant (s : State) (n : Nat) (f : Seq → Seq) : (s.updSeq n f).hgrant = s.hgrant := rfl
@[simp] theorem updSeq_dlc (s : State) (n : Nat) (f : Seq → Seq) : (s.updSeq n f).dlc = s.dlc := rfl
@[simp] theorem updSeq_frac (s : State) (n : Nat) (f : Seq → Seq) : (s.updSeq n f).frac = s.frac := rfl
@[simp] theorem updSeq_holdLeft (s : State) (n : Nat) (f : Seq → Seq) : (s.updSeq n f).holdLeft = s.holdLeft := rfl
@[simp] theorem updSeq_ref10 (s : State) (n : Nat) (f : Seq → Seq) : (s.updSeq n f).ref10 = s.ref10 := rfl
@[simp] theorem updSeq_latches (s : State) (n : Nat) (f : Seq → Seq) : (s.updSeq n f).latches = s.latches := rfl
@[simp] theorem updSeq_clocks (s : State) (n : Nat) (f : Seq → Seq) : (s.updSeq n f).clocks = s.clocks := rfl
@[simp] theorem updSeq_cycles (s : State) (n : Nat) (f : Seq → Seq) : (s.updSeq n f).cycles = s.cycles := rfl
@[simp] theorem updSeq_out (s : State) (n : Nat) (f : Seq → Seq) : (s.updSeq n f).out = s.out := rfl

/-! ## updCmd -/

@[simp] theorem updCmd_stepNo (s : State) (n : Nat) (f : Cmd → Cmd) : (s.updCmd n f).stepNo = s.stepNo := rfl
@[simp] theorem updCmd_fresh (s : State) (n : Nat) (f : Cmd → Cmd) : (s.updCmd n f).fresh = s.fresh := rfl
@[simp] theorem updCmd_agenda (s : State) (n : Nat) (f : Cmd → Cmd) : (s.updCmd n f).agenda = s.agenda := rfl
@[simp] theorem updCmd_inputs (s : State) (n : Nat) (f : Cmd → Cmd) : (s.updCmd n f).inputs = s.inputs := rfl
@[simp] theorem updCmd_iss (s : State) (n : Nat) (f : Cmd → Cmd) : (s.updCmd n f).iss = s.iss := rfl
@[simp] theorem updCmd_second (s : State) (n : Nat) (f : Cmd → Cmd) : (s.updCmd n f).second = s.second := rfl
@[simp] theorem updCmd_seqWg (s : State) (n : Nat) (f : Cmd → Cmd) : (s.updCmd n f).seqWg = s.seqWg := rfl
@[simp] theorem updCmd_turn (s : State) (n : Nat) (f : Cmd → Cmd) : (s.updCmd n f).turn = s.turn := rfl
@[simp] theorem updCmd_timerNo (s : State) (n : Nat) (f : Cmd → Cmd) : (s.updCmd n f).timerNo = s.timerNo := rfl
@[simp] theorem updCmd_lastSel (s : State) (n : Nat) (f : Cmd → Cmd) : (s.updCmd n f).lastSel = s.lastSel := rfl
@[simp] theorem updCmd_threads (s : State) (n : Nat) (f : Cmd → Cmd) : (s.updCmd n f).threads = s.threads := rfl
@[simp] theorem updCmd_groups (s : State) (n : Nat) (f : Cmd → Cmd) : (s.updCmd n f).groups = s.groups := rfl
@[simp] theorem updCmd_bins (s : State) (n : Nat) (f : Cmd → Cmd) : (s.updCmd n f).bins = s.bins := rfl
@[simp] theorem updCmd_wgs (s : State) (n : Nat) (f : Cmd → Cmd) : (s.updCmd n f).wgs = s.wgs := rfl
@[simp] theorem updCmd_past (s : State) (n : Nat) (f : Cmd → Cmd) : (s.updCmd n f).past = s.past := rfl
@[simp] theorem updCmd_ended (s : State) (n : Nat) (f : Cmd → Cmd) : (s.updCmd n f).ended = s.ended := rfl
@[simp] theorem updCmd_gens (s : State) (n : Nat) (f : Cmd → Cmd) : (s.updCmd n f).gens = s.gens := rfl
@[simp] theorem updCmd_launches (s : State) (n : Nat) (f : Cmd → Cmd) : (s.updCmd n f).launches = s.launches := rfl
@[simp] theorem updCmd_mem (s : State) (n : Nat) (f : Cmd → Cmd) : (s.updCmd n f).mem = s.mem := rfl
@[simp] theorem updCmd_l1 (s : State) (n : Nat) (f : Cmd → Cmd) : (s.updCmd n f).l1 = s.l1 := rfl
@[simp] theorem updCmd_icache (s : State) (n : Nat) (f : Cmd → Cmd) : (s.updCmd n f).icache = s.icache := rfl
@[simp] theorem updCmd_l2 (s : State) (n : Nat) (f : Cmd → Cmd) : (s.updCmd n f).l2 = s.l2 := rfl
@[simp] theorem updCmd_rdc (s : State) (n : Nat) (f : Cmd → Cmd) : (s.updCmd n f).rdc = s.rdc := rfl
@[simp] theorem updCmd_shadows (s : State) (n : Nat) (f : Cmd → Cmd) : (s.updCmd n f).shadows = s.shadows := rfl
@[simp] theorem updCmd_windows (s : State) (n : Nat) (f : Cmd → Cmd) : (s.updCmd n f).windows = s.windows := rfl
@[simp] theorem updCmd_undo (s : State) (n : Nat) (f : Cmd → Cmd) : (s.updCmd n f).undo = s.undo := rfl
@[simp] theorem updCmd_tlb (s : State) (n : Nat) (f : Cmd → Cmd) : (s.updCmd n f).tlb = s.tlb := rfl
@[simp] theorem updCmd_ops (s : State) (n : Nat) (f : Cmd → Cmd) : (s.updCmd n f).ops = s.ops := rfl
@[simp] theorem updCmd_faults (s : State) (n : Nat) (f : Cmd → Cmd) : (s.updCmd n f).faults = s.faults := rfl
@[simp] theorem updCmd_devq (s : State) (n : Nat) (f : Cmd → Cmd) : (s.updCmd n f).devq = s.devq := rfl
@[simp] theorem updCmd_tokens (s : State) (n : Nat) (f : Cmd → Cmd) : (s.updCmd n f).tokens = s.tokens := rfl
@[simp] theorem updCmd_filter (s : State) (n : Nat) (f : Cmd → Cmd) : (s.updCmd n f).filter = s.filter := rfl
@[simp] theorem updCmd_cmds (s : State) (n : Nat) (f : Cmd → Cmd) : (s.updCmd n f).cmds = s.cmds.map fun c => if c.id = n then f c else c := rfl
@[simp] theorem updCmd_collSeq (s : State) (n : Nat) (f : Cmd → Cmd) : (s.updCmd n f).collSeq = s.collSeq := rfl
@[simp] theorem updCmd_graphs (s : State) (n : Nat) (f : Cmd → Cmd) : (s.updCmd n f).graphs = s.graphs := rfl
@[simp] theorem updCmd_hoists (s : State) (n : Nat) (f : Cmd → Cmd) : (s.updCmd n f).hoists = s.hoists := rfl
@[simp] theorem updCmd_streams (s : State) (n : Nat) (f : Cmd → Cmd) : (s.updCmd n f).streams = s.streams := rfl
@[simp] theorem updCmd_holds (s : State) (n : Nat) (f : Cmd → Cmd) : (s.updCmd n f).holds = s.holds := rfl
@[simp] theorem updCmd_keyNext (s : State) (n : Nat) (f : Cmd → Cmd) : (s.updCmd n f).keyNext = s.keyNext := rfl
@[simp] theorem updCmd_halts (s : State) (n : Nat) (f : Cmd → Cmd) : (s.updCmd n f).halts = s.halts := rfl
@[simp] theorem updCmd_saves (s : State) (n : Nat) (f : Cmd → Cmd) : (s.updCmd n f).saves = s.saves := rfl
@[simp] theorem updCmd_stalls (s : State) (n : Nat) (f : Cmd → Cmd) : (s.updCmd n f).stalls = s.stalls := rfl
@[simp] theorem updCmd_rrLast (s : State) (n : Nat) (f : Cmd → Cmd) : (s.updCmd n f).rrLast = s.rrLast := rfl
@[simp] theorem updCmd_fatals (s : State) (n : Nat) (f : Cmd → Cmd) : (s.updCmd n f).fatals = s.fatals := rfl
@[simp] theorem updCmd_wdogs (s : State) (n : Nat) (f : Cmd → Cmd) : (s.updCmd n f).wdogs = s.wdogs := rfl
@[simp] theorem updCmd_ckps (s : State) (n : Nat) (f : Cmd → Cmd) : (s.updCmd n f).ckps = s.ckps := rfl
@[simp] theorem updCmd_protect (s : State) (n : Nat) (f : Cmd → Cmd) : (s.updCmd n f).protect = s.protect := rfl
@[simp] theorem updCmd_scrubs (s : State) (n : Nat) (f : Cmd → Cmd) : (s.updCmd n f).scrubs = s.scrubs := rfl
@[simp] theorem updCmd_slices (s : State) (n : Nat) (f : Cmd → Cmd) : (s.updCmd n f).slices = s.slices := rfl
@[simp] theorem updCmd_flrs (s : State) (n : Nat) (f : Cmd → Cmd) : (s.updCmd n f).flrs = s.flrs := rfl
@[simp] theorem updCmd_invals (s : State) (n : Nat) (f : Cmd → Cmd) : (s.updCmd n f).invals = s.invals := rfl
@[simp] theorem updCmd_waking (s : State) (n : Nat) (f : Cmd → Cmd) : (s.updCmd n f).waking = s.waking := rfl
@[simp] theorem updCmd_gated (s : State) (n : Nat) (f : Cmd → Cmd) : (s.updCmd n f).gated = s.gated := rfl
@[simp] theorem updCmd_deep (s : State) (n : Nat) (f : Cmd → Cmd) : (s.updCmd n f).deep = s.deep := rfl
@[simp] theorem updCmd_cap (s : State) (n : Nat) (f : Cmd → Cmd) : (s.updCmd n f).cap = s.cap := rfl
@[simp] theorem updCmd_halved (s : State) (n : Nat) (f : Cmd → Cmd) : (s.updCmd n f).halved = s.halved := rfl
@[simp] theorem updCmd_boot (s : State) (n : Nat) (f : Cmd → Cmd) : (s.updCmd n f).boot = s.boot := rfl
@[simp] theorem updCmd_meas (s : State) (n : Nat) (f : Cmd → Cmd) : (s.updCmd n f).meas = s.meas := rfl
@[simp] theorem updCmd_digests (s : State) (n : Nat) (f : Cmd → Cmd) : (s.updCmd n f).digests = s.digests := rfl
@[simp] theorem updCmd_running (s : State) (n : Nat) (f : Cmd → Cmd) : (s.updCmd n f).running = s.running := rfl
@[simp] theorem updCmd_upload (s : State) (n : Nat) (f : Cmd → Cmd) : (s.updCmd n f).upload = s.upload := rfl
@[simp] theorem updCmd_flash (s : State) (n : Nat) (f : Cmd → Cmd) : (s.updCmd n f).flash = s.flash := rfl
@[simp] theorem updCmd_box (s : State) (n : Nat) (f : Cmd → Cmd) : (s.updCmd n f).box = s.box := rfl
@[simp] theorem updCmd_boxCount (s : State) (n : Nat) (f : Cmd → Cmd) : (s.updCmd n f).boxCount = s.boxCount := rfl
@[simp] theorem updCmd_boxSnap (s : State) (n : Nat) (f : Cmd → Cmd) : (s.updCmd n f).boxSnap = s.boxSnap := rfl
@[simp] theorem updCmd_boxNext (s : State) (n : Nat) (f : Cmd → Cmd) : (s.updCmd n f).boxNext = s.boxNext := rfl
@[simp] theorem updCmd_boxLast (s : State) (n : Nat) (f : Cmd → Cmd) : (s.updCmd n f).boxLast = s.boxLast := rfl
@[simp] theorem updCmd_boxDroop (s : State) (n : Nat) (f : Cmd → Cmd) : (s.updCmd n f).boxDroop = s.boxDroop := rfl
@[simp] theorem updCmd_flashBad (s : State) (n : Nat) (f : Cmd → Cmd) : (s.updCmd n f).flashBad = s.flashBad := rfl
@[simp] theorem updCmd_cgroups (s : State) (n : Nat) (f : Cmd → Cmd) : (s.updCmd n f).cgroups = s.cgroups := rfl
@[simp] theorem updCmd_slowPorts (s : State) (n : Nat) (f : Cmd → Cmd) : (s.updCmd n f).slowPorts = s.slowPorts := rfl
@[simp] theorem updCmd_ecc (s : State) (n : Nat) (f : Cmd → Cmd) : (s.updCmd n f).ecc = s.ecc := rfl
@[simp] theorem updCmd_corrected (s : State) (n : Nat) (f : Cmd → Cmd) : (s.updCmd n f).corrected = s.corrected := rfl
@[simp] theorem updCmd_regs (s : State) (n : Nat) (f : Cmd → Cmd) : (s.updCmd n f).regs = s.regs := rfl
@[simp] theorem updCmd_fenable (s : State) (n : Nat) (f : Cmd → Cmd) : (s.updCmd n f).fenable = s.fenable := rfl
@[simp] theorem updCmd_hgrant (s : State) (n : Nat) (f : Cmd → Cmd) : (s.updCmd n f).hgrant = s.hgrant := rfl
@[simp] theorem updCmd_dlc (s : State) (n : Nat) (f : Cmd → Cmd) : (s.updCmd n f).dlc = s.dlc := rfl
@[simp] theorem updCmd_frac (s : State) (n : Nat) (f : Cmd → Cmd) : (s.updCmd n f).frac = s.frac := rfl
@[simp] theorem updCmd_holdLeft (s : State) (n : Nat) (f : Cmd → Cmd) : (s.updCmd n f).holdLeft = s.holdLeft := rfl
@[simp] theorem updCmd_ref10 (s : State) (n : Nat) (f : Cmd → Cmd) : (s.updCmd n f).ref10 = s.ref10 := rfl
@[simp] theorem updCmd_latches (s : State) (n : Nat) (f : Cmd → Cmd) : (s.updCmd n f).latches = s.latches := rfl
@[simp] theorem updCmd_clocks (s : State) (n : Nat) (f : Cmd → Cmd) : (s.updCmd n f).clocks = s.clocks := rfl
@[simp] theorem updCmd_cycles (s : State) (n : Nat) (f : Cmd → Cmd) : (s.updCmd n f).cycles = s.cycles := rfl
@[simp] theorem updCmd_out (s : State) (n : Nat) (f : Cmd → Cmd) : (s.updCmd n f).out = s.out := rfl

/-! ## updGraph -/

@[simp] theorem updGraph_stepNo (s : State) (n : Nat) (f : Graph → Graph) : (s.updGraph n f).stepNo = s.stepNo := rfl
@[simp] theorem updGraph_fresh (s : State) (n : Nat) (f : Graph → Graph) : (s.updGraph n f).fresh = s.fresh := rfl
@[simp] theorem updGraph_agenda (s : State) (n : Nat) (f : Graph → Graph) : (s.updGraph n f).agenda = s.agenda := rfl
@[simp] theorem updGraph_inputs (s : State) (n : Nat) (f : Graph → Graph) : (s.updGraph n f).inputs = s.inputs := rfl
@[simp] theorem updGraph_iss (s : State) (n : Nat) (f : Graph → Graph) : (s.updGraph n f).iss = s.iss := rfl
@[simp] theorem updGraph_second (s : State) (n : Nat) (f : Graph → Graph) : (s.updGraph n f).second = s.second := rfl
@[simp] theorem updGraph_seqWg (s : State) (n : Nat) (f : Graph → Graph) : (s.updGraph n f).seqWg = s.seqWg := rfl
@[simp] theorem updGraph_turn (s : State) (n : Nat) (f : Graph → Graph) : (s.updGraph n f).turn = s.turn := rfl
@[simp] theorem updGraph_timerNo (s : State) (n : Nat) (f : Graph → Graph) : (s.updGraph n f).timerNo = s.timerNo := rfl
@[simp] theorem updGraph_lastSel (s : State) (n : Nat) (f : Graph → Graph) : (s.updGraph n f).lastSel = s.lastSel := rfl
@[simp] theorem updGraph_threads (s : State) (n : Nat) (f : Graph → Graph) : (s.updGraph n f).threads = s.threads := rfl
@[simp] theorem updGraph_groups (s : State) (n : Nat) (f : Graph → Graph) : (s.updGraph n f).groups = s.groups := rfl
@[simp] theorem updGraph_bins (s : State) (n : Nat) (f : Graph → Graph) : (s.updGraph n f).bins = s.bins := rfl
@[simp] theorem updGraph_wgs (s : State) (n : Nat) (f : Graph → Graph) : (s.updGraph n f).wgs = s.wgs := rfl
@[simp] theorem updGraph_past (s : State) (n : Nat) (f : Graph → Graph) : (s.updGraph n f).past = s.past := rfl
@[simp] theorem updGraph_ended (s : State) (n : Nat) (f : Graph → Graph) : (s.updGraph n f).ended = s.ended := rfl
@[simp] theorem updGraph_gens (s : State) (n : Nat) (f : Graph → Graph) : (s.updGraph n f).gens = s.gens := rfl
@[simp] theorem updGraph_launches (s : State) (n : Nat) (f : Graph → Graph) : (s.updGraph n f).launches = s.launches := rfl
@[simp] theorem updGraph_mem (s : State) (n : Nat) (f : Graph → Graph) : (s.updGraph n f).mem = s.mem := rfl
@[simp] theorem updGraph_l1 (s : State) (n : Nat) (f : Graph → Graph) : (s.updGraph n f).l1 = s.l1 := rfl
@[simp] theorem updGraph_icache (s : State) (n : Nat) (f : Graph → Graph) : (s.updGraph n f).icache = s.icache := rfl
@[simp] theorem updGraph_l2 (s : State) (n : Nat) (f : Graph → Graph) : (s.updGraph n f).l2 = s.l2 := rfl
@[simp] theorem updGraph_rdc (s : State) (n : Nat) (f : Graph → Graph) : (s.updGraph n f).rdc = s.rdc := rfl
@[simp] theorem updGraph_shadows (s : State) (n : Nat) (f : Graph → Graph) : (s.updGraph n f).shadows = s.shadows := rfl
@[simp] theorem updGraph_windows (s : State) (n : Nat) (f : Graph → Graph) : (s.updGraph n f).windows = s.windows := rfl
@[simp] theorem updGraph_undo (s : State) (n : Nat) (f : Graph → Graph) : (s.updGraph n f).undo = s.undo := rfl
@[simp] theorem updGraph_tlb (s : State) (n : Nat) (f : Graph → Graph) : (s.updGraph n f).tlb = s.tlb := rfl
@[simp] theorem updGraph_ops (s : State) (n : Nat) (f : Graph → Graph) : (s.updGraph n f).ops = s.ops := rfl
@[simp] theorem updGraph_faults (s : State) (n : Nat) (f : Graph → Graph) : (s.updGraph n f).faults = s.faults := rfl
@[simp] theorem updGraph_devq (s : State) (n : Nat) (f : Graph → Graph) : (s.updGraph n f).devq = s.devq := rfl
@[simp] theorem updGraph_tokens (s : State) (n : Nat) (f : Graph → Graph) : (s.updGraph n f).tokens = s.tokens := rfl
@[simp] theorem updGraph_filter (s : State) (n : Nat) (f : Graph → Graph) : (s.updGraph n f).filter = s.filter := rfl
@[simp] theorem updGraph_cmds (s : State) (n : Nat) (f : Graph → Graph) : (s.updGraph n f).cmds = s.cmds := rfl
@[simp] theorem updGraph_collSeq (s : State) (n : Nat) (f : Graph → Graph) : (s.updGraph n f).collSeq = s.collSeq := rfl
@[simp] theorem updGraph_graphs (s : State) (n : Nat) (f : Graph → Graph) : (s.updGraph n f).graphs = s.graphs.map fun g => if g.id = n then f g else g := rfl
@[simp] theorem updGraph_hoists (s : State) (n : Nat) (f : Graph → Graph) : (s.updGraph n f).hoists = s.hoists := rfl
@[simp] theorem updGraph_streams (s : State) (n : Nat) (f : Graph → Graph) : (s.updGraph n f).streams = s.streams := rfl
@[simp] theorem updGraph_holds (s : State) (n : Nat) (f : Graph → Graph) : (s.updGraph n f).holds = s.holds := rfl
@[simp] theorem updGraph_keyNext (s : State) (n : Nat) (f : Graph → Graph) : (s.updGraph n f).keyNext = s.keyNext := rfl
@[simp] theorem updGraph_halts (s : State) (n : Nat) (f : Graph → Graph) : (s.updGraph n f).halts = s.halts := rfl
@[simp] theorem updGraph_saves (s : State) (n : Nat) (f : Graph → Graph) : (s.updGraph n f).saves = s.saves := rfl
@[simp] theorem updGraph_stalls (s : State) (n : Nat) (f : Graph → Graph) : (s.updGraph n f).stalls = s.stalls := rfl
@[simp] theorem updGraph_rrLast (s : State) (n : Nat) (f : Graph → Graph) : (s.updGraph n f).rrLast = s.rrLast := rfl
@[simp] theorem updGraph_fatals (s : State) (n : Nat) (f : Graph → Graph) : (s.updGraph n f).fatals = s.fatals := rfl
@[simp] theorem updGraph_wdogs (s : State) (n : Nat) (f : Graph → Graph) : (s.updGraph n f).wdogs = s.wdogs := rfl
@[simp] theorem updGraph_ckps (s : State) (n : Nat) (f : Graph → Graph) : (s.updGraph n f).ckps = s.ckps := rfl
@[simp] theorem updGraph_protect (s : State) (n : Nat) (f : Graph → Graph) : (s.updGraph n f).protect = s.protect := rfl
@[simp] theorem updGraph_scrubs (s : State) (n : Nat) (f : Graph → Graph) : (s.updGraph n f).scrubs = s.scrubs := rfl
@[simp] theorem updGraph_slices (s : State) (n : Nat) (f : Graph → Graph) : (s.updGraph n f).slices = s.slices := rfl
@[simp] theorem updGraph_flrs (s : State) (n : Nat) (f : Graph → Graph) : (s.updGraph n f).flrs = s.flrs := rfl
@[simp] theorem updGraph_invals (s : State) (n : Nat) (f : Graph → Graph) : (s.updGraph n f).invals = s.invals := rfl
@[simp] theorem updGraph_waking (s : State) (n : Nat) (f : Graph → Graph) : (s.updGraph n f).waking = s.waking := rfl
@[simp] theorem updGraph_gated (s : State) (n : Nat) (f : Graph → Graph) : (s.updGraph n f).gated = s.gated := rfl
@[simp] theorem updGraph_deep (s : State) (n : Nat) (f : Graph → Graph) : (s.updGraph n f).deep = s.deep := rfl
@[simp] theorem updGraph_cap (s : State) (n : Nat) (f : Graph → Graph) : (s.updGraph n f).cap = s.cap := rfl
@[simp] theorem updGraph_halved (s : State) (n : Nat) (f : Graph → Graph) : (s.updGraph n f).halved = s.halved := rfl
@[simp] theorem updGraph_boot (s : State) (n : Nat) (f : Graph → Graph) : (s.updGraph n f).boot = s.boot := rfl
@[simp] theorem updGraph_meas (s : State) (n : Nat) (f : Graph → Graph) : (s.updGraph n f).meas = s.meas := rfl
@[simp] theorem updGraph_digests (s : State) (n : Nat) (f : Graph → Graph) : (s.updGraph n f).digests = s.digests := rfl
@[simp] theorem updGraph_running (s : State) (n : Nat) (f : Graph → Graph) : (s.updGraph n f).running = s.running := rfl
@[simp] theorem updGraph_upload (s : State) (n : Nat) (f : Graph → Graph) : (s.updGraph n f).upload = s.upload := rfl
@[simp] theorem updGraph_flash (s : State) (n : Nat) (f : Graph → Graph) : (s.updGraph n f).flash = s.flash := rfl
@[simp] theorem updGraph_box (s : State) (n : Nat) (f : Graph → Graph) : (s.updGraph n f).box = s.box := rfl
@[simp] theorem updGraph_boxCount (s : State) (n : Nat) (f : Graph → Graph) : (s.updGraph n f).boxCount = s.boxCount := rfl
@[simp] theorem updGraph_boxSnap (s : State) (n : Nat) (f : Graph → Graph) : (s.updGraph n f).boxSnap = s.boxSnap := rfl
@[simp] theorem updGraph_boxNext (s : State) (n : Nat) (f : Graph → Graph) : (s.updGraph n f).boxNext = s.boxNext := rfl
@[simp] theorem updGraph_boxLast (s : State) (n : Nat) (f : Graph → Graph) : (s.updGraph n f).boxLast = s.boxLast := rfl
@[simp] theorem updGraph_boxDroop (s : State) (n : Nat) (f : Graph → Graph) : (s.updGraph n f).boxDroop = s.boxDroop := rfl
@[simp] theorem updGraph_flashBad (s : State) (n : Nat) (f : Graph → Graph) : (s.updGraph n f).flashBad = s.flashBad := rfl
@[simp] theorem updGraph_cgroups (s : State) (n : Nat) (f : Graph → Graph) : (s.updGraph n f).cgroups = s.cgroups := rfl
@[simp] theorem updGraph_slowPorts (s : State) (n : Nat) (f : Graph → Graph) : (s.updGraph n f).slowPorts = s.slowPorts := rfl
@[simp] theorem updGraph_ecc (s : State) (n : Nat) (f : Graph → Graph) : (s.updGraph n f).ecc = s.ecc := rfl
@[simp] theorem updGraph_corrected (s : State) (n : Nat) (f : Graph → Graph) : (s.updGraph n f).corrected = s.corrected := rfl
@[simp] theorem updGraph_regs (s : State) (n : Nat) (f : Graph → Graph) : (s.updGraph n f).regs = s.regs := rfl
@[simp] theorem updGraph_fenable (s : State) (n : Nat) (f : Graph → Graph) : (s.updGraph n f).fenable = s.fenable := rfl
@[simp] theorem updGraph_hgrant (s : State) (n : Nat) (f : Graph → Graph) : (s.updGraph n f).hgrant = s.hgrant := rfl
@[simp] theorem updGraph_dlc (s : State) (n : Nat) (f : Graph → Graph) : (s.updGraph n f).dlc = s.dlc := rfl
@[simp] theorem updGraph_frac (s : State) (n : Nat) (f : Graph → Graph) : (s.updGraph n f).frac = s.frac := rfl
@[simp] theorem updGraph_holdLeft (s : State) (n : Nat) (f : Graph → Graph) : (s.updGraph n f).holdLeft = s.holdLeft := rfl
@[simp] theorem updGraph_ref10 (s : State) (n : Nat) (f : Graph → Graph) : (s.updGraph n f).ref10 = s.ref10 := rfl
@[simp] theorem updGraph_latches (s : State) (n : Nat) (f : Graph → Graph) : (s.updGraph n f).latches = s.latches := rfl
@[simp] theorem updGraph_clocks (s : State) (n : Nat) (f : Graph → Graph) : (s.updGraph n f).clocks = s.clocks := rfl
@[simp] theorem updGraph_cycles (s : State) (n : Nat) (f : Graph → Graph) : (s.updGraph n f).cycles = s.cycles := rfl
@[simp] theorem updGraph_out (s : State) (n : Nat) (f : Graph → Graph) : (s.updGraph n f).out = s.out := rfl

/-! ## post -/

@[simp] theorem post_stepNo (s : State) (i : Instr) : (s.post i).stepNo = s.stepNo := rfl
@[simp] theorem post_fresh (s : State) (i : Instr) : (s.post i).fresh = s.fresh := rfl
@[simp] theorem post_agenda (s : State) (i : Instr) : (s.post i).agenda = s.agenda ++ [i] := rfl
@[simp] theorem post_inputs (s : State) (i : Instr) : (s.post i).inputs = s.inputs := rfl
@[simp] theorem post_iss (s : State) (i : Instr) : (s.post i).iss = s.iss := rfl
@[simp] theorem post_second (s : State) (i : Instr) : (s.post i).second = s.second := rfl
@[simp] theorem post_seqWg (s : State) (i : Instr) : (s.post i).seqWg = s.seqWg := rfl
@[simp] theorem post_turn (s : State) (i : Instr) : (s.post i).turn = s.turn := rfl
@[simp] theorem post_timerNo (s : State) (i : Instr) : (s.post i).timerNo = s.timerNo := rfl
@[simp] theorem post_lastSel (s : State) (i : Instr) : (s.post i).lastSel = s.lastSel := rfl
@[simp] theorem post_threads (s : State) (i : Instr) : (s.post i).threads = s.threads := rfl
@[simp] theorem post_groups (s : State) (i : Instr) : (s.post i).groups = s.groups := rfl
@[simp] theorem post_bins (s : State) (i : Instr) : (s.post i).bins = s.bins := rfl
@[simp] theorem post_wgs (s : State) (i : Instr) : (s.post i).wgs = s.wgs := rfl
@[simp] theorem post_past (s : State) (i : Instr) : (s.post i).past = s.past := rfl
@[simp] theorem post_ended (s : State) (i : Instr) : (s.post i).ended = s.ended := rfl
@[simp] theorem post_gens (s : State) (i : Instr) : (s.post i).gens = s.gens := rfl
@[simp] theorem post_launches (s : State) (i : Instr) : (s.post i).launches = s.launches := rfl
@[simp] theorem post_mem (s : State) (i : Instr) : (s.post i).mem = s.mem := rfl
@[simp] theorem post_l1 (s : State) (i : Instr) : (s.post i).l1 = s.l1 := rfl
@[simp] theorem post_icache (s : State) (i : Instr) : (s.post i).icache = s.icache := rfl
@[simp] theorem post_l2 (s : State) (i : Instr) : (s.post i).l2 = s.l2 := rfl
@[simp] theorem post_rdc (s : State) (i : Instr) : (s.post i).rdc = s.rdc := rfl
@[simp] theorem post_shadows (s : State) (i : Instr) : (s.post i).shadows = s.shadows := rfl
@[simp] theorem post_windows (s : State) (i : Instr) : (s.post i).windows = s.windows := rfl
@[simp] theorem post_undo (s : State) (i : Instr) : (s.post i).undo = s.undo := rfl
@[simp] theorem post_tlb (s : State) (i : Instr) : (s.post i).tlb = s.tlb := rfl
@[simp] theorem post_ops (s : State) (i : Instr) : (s.post i).ops = s.ops := rfl
@[simp] theorem post_faults (s : State) (i : Instr) : (s.post i).faults = s.faults := rfl
@[simp] theorem post_devq (s : State) (i : Instr) : (s.post i).devq = s.devq := rfl
@[simp] theorem post_tokens (s : State) (i : Instr) : (s.post i).tokens = s.tokens := rfl
@[simp] theorem post_filter (s : State) (i : Instr) : (s.post i).filter = s.filter := rfl
@[simp] theorem post_cmds (s : State) (i : Instr) : (s.post i).cmds = s.cmds := rfl
@[simp] theorem post_collSeq (s : State) (i : Instr) : (s.post i).collSeq = s.collSeq := rfl
@[simp] theorem post_graphs (s : State) (i : Instr) : (s.post i).graphs = s.graphs := rfl
@[simp] theorem post_hoists (s : State) (i : Instr) : (s.post i).hoists = s.hoists := rfl
@[simp] theorem post_streams (s : State) (i : Instr) : (s.post i).streams = s.streams := rfl
@[simp] theorem post_holds (s : State) (i : Instr) : (s.post i).holds = s.holds := rfl
@[simp] theorem post_keyNext (s : State) (i : Instr) : (s.post i).keyNext = s.keyNext := rfl
@[simp] theorem post_halts (s : State) (i : Instr) : (s.post i).halts = s.halts := rfl
@[simp] theorem post_saves (s : State) (i : Instr) : (s.post i).saves = s.saves := rfl
@[simp] theorem post_stalls (s : State) (i : Instr) : (s.post i).stalls = s.stalls := rfl
@[simp] theorem post_rrLast (s : State) (i : Instr) : (s.post i).rrLast = s.rrLast := rfl
@[simp] theorem post_fatals (s : State) (i : Instr) : (s.post i).fatals = s.fatals := rfl
@[simp] theorem post_wdogs (s : State) (i : Instr) : (s.post i).wdogs = s.wdogs := rfl
@[simp] theorem post_ckps (s : State) (i : Instr) : (s.post i).ckps = s.ckps := rfl
@[simp] theorem post_protect (s : State) (i : Instr) : (s.post i).protect = s.protect := rfl
@[simp] theorem post_scrubs (s : State) (i : Instr) : (s.post i).scrubs = s.scrubs := rfl
@[simp] theorem post_slices (s : State) (i : Instr) : (s.post i).slices = s.slices := rfl
@[simp] theorem post_flrs (s : State) (i : Instr) : (s.post i).flrs = s.flrs := rfl
@[simp] theorem post_invals (s : State) (i : Instr) : (s.post i).invals = s.invals := rfl
@[simp] theorem post_waking (s : State) (i : Instr) : (s.post i).waking = s.waking := rfl
@[simp] theorem post_gated (s : State) (i : Instr) : (s.post i).gated = s.gated := rfl
@[simp] theorem post_deep (s : State) (i : Instr) : (s.post i).deep = s.deep := rfl
@[simp] theorem post_cap (s : State) (i : Instr) : (s.post i).cap = s.cap := rfl
@[simp] theorem post_halved (s : State) (i : Instr) : (s.post i).halved = s.halved := rfl
@[simp] theorem post_boot (s : State) (i : Instr) : (s.post i).boot = s.boot := rfl
@[simp] theorem post_meas (s : State) (i : Instr) : (s.post i).meas = s.meas := rfl
@[simp] theorem post_digests (s : State) (i : Instr) : (s.post i).digests = s.digests := rfl
@[simp] theorem post_running (s : State) (i : Instr) : (s.post i).running = s.running := rfl
@[simp] theorem post_upload (s : State) (i : Instr) : (s.post i).upload = s.upload := rfl
@[simp] theorem post_flash (s : State) (i : Instr) : (s.post i).flash = s.flash := rfl
@[simp] theorem post_box (s : State) (i : Instr) : (s.post i).box = s.box := rfl
@[simp] theorem post_boxCount (s : State) (i : Instr) : (s.post i).boxCount = s.boxCount := rfl
@[simp] theorem post_boxSnap (s : State) (i : Instr) : (s.post i).boxSnap = s.boxSnap := rfl
@[simp] theorem post_boxNext (s : State) (i : Instr) : (s.post i).boxNext = s.boxNext := rfl
@[simp] theorem post_boxLast (s : State) (i : Instr) : (s.post i).boxLast = s.boxLast := rfl
@[simp] theorem post_boxDroop (s : State) (i : Instr) : (s.post i).boxDroop = s.boxDroop := rfl
@[simp] theorem post_flashBad (s : State) (i : Instr) : (s.post i).flashBad = s.flashBad := rfl
@[simp] theorem post_cgroups (s : State) (i : Instr) : (s.post i).cgroups = s.cgroups := rfl
@[simp] theorem post_slowPorts (s : State) (i : Instr) : (s.post i).slowPorts = s.slowPorts := rfl
@[simp] theorem post_ecc (s : State) (i : Instr) : (s.post i).ecc = s.ecc := rfl
@[simp] theorem post_corrected (s : State) (i : Instr) : (s.post i).corrected = s.corrected := rfl
@[simp] theorem post_regs (s : State) (i : Instr) : (s.post i).regs = s.regs := rfl
@[simp] theorem post_fenable (s : State) (i : Instr) : (s.post i).fenable = s.fenable := rfl
@[simp] theorem post_hgrant (s : State) (i : Instr) : (s.post i).hgrant = s.hgrant := rfl
@[simp] theorem post_dlc (s : State) (i : Instr) : (s.post i).dlc = s.dlc := rfl
@[simp] theorem post_frac (s : State) (i : Instr) : (s.post i).frac = s.frac := rfl
@[simp] theorem post_holdLeft (s : State) (i : Instr) : (s.post i).holdLeft = s.holdLeft := rfl
@[simp] theorem post_ref10 (s : State) (i : Instr) : (s.post i).ref10 = s.ref10 := rfl
@[simp] theorem post_latches (s : State) (i : Instr) : (s.post i).latches = s.latches := rfl
@[simp] theorem post_clocks (s : State) (i : Instr) : (s.post i).clocks = s.clocks := rfl
@[simp] theorem post_cycles (s : State) (i : Instr) : (s.post i).cycles = s.cycles := rfl
@[simp] theorem post_out (s : State) (i : Instr) : (s.post i).out = s.out := rfl

/-! ## posts -/

@[simp] theorem posts_stepNo (s : State) (is : List Instr) : (s.posts is).stepNo = s.stepNo := rfl
@[simp] theorem posts_fresh (s : State) (is : List Instr) : (s.posts is).fresh = s.fresh := rfl
@[simp] theorem posts_agenda (s : State) (is : List Instr) : (s.posts is).agenda = s.agenda ++ is := rfl
@[simp] theorem posts_inputs (s : State) (is : List Instr) : (s.posts is).inputs = s.inputs := rfl
@[simp] theorem posts_iss (s : State) (is : List Instr) : (s.posts is).iss = s.iss := rfl
@[simp] theorem posts_second (s : State) (is : List Instr) : (s.posts is).second = s.second := rfl
@[simp] theorem posts_seqWg (s : State) (is : List Instr) : (s.posts is).seqWg = s.seqWg := rfl
@[simp] theorem posts_turn (s : State) (is : List Instr) : (s.posts is).turn = s.turn := rfl
@[simp] theorem posts_timerNo (s : State) (is : List Instr) : (s.posts is).timerNo = s.timerNo := rfl
@[simp] theorem posts_lastSel (s : State) (is : List Instr) : (s.posts is).lastSel = s.lastSel := rfl
@[simp] theorem posts_threads (s : State) (is : List Instr) : (s.posts is).threads = s.threads := rfl
@[simp] theorem posts_groups (s : State) (is : List Instr) : (s.posts is).groups = s.groups := rfl
@[simp] theorem posts_bins (s : State) (is : List Instr) : (s.posts is).bins = s.bins := rfl
@[simp] theorem posts_wgs (s : State) (is : List Instr) : (s.posts is).wgs = s.wgs := rfl
@[simp] theorem posts_past (s : State) (is : List Instr) : (s.posts is).past = s.past := rfl
@[simp] theorem posts_ended (s : State) (is : List Instr) : (s.posts is).ended = s.ended := rfl
@[simp] theorem posts_gens (s : State) (is : List Instr) : (s.posts is).gens = s.gens := rfl
@[simp] theorem posts_launches (s : State) (is : List Instr) : (s.posts is).launches = s.launches := rfl
@[simp] theorem posts_mem (s : State) (is : List Instr) : (s.posts is).mem = s.mem := rfl
@[simp] theorem posts_l1 (s : State) (is : List Instr) : (s.posts is).l1 = s.l1 := rfl
@[simp] theorem posts_icache (s : State) (is : List Instr) : (s.posts is).icache = s.icache := rfl
@[simp] theorem posts_l2 (s : State) (is : List Instr) : (s.posts is).l2 = s.l2 := rfl
@[simp] theorem posts_rdc (s : State) (is : List Instr) : (s.posts is).rdc = s.rdc := rfl
@[simp] theorem posts_shadows (s : State) (is : List Instr) : (s.posts is).shadows = s.shadows := rfl
@[simp] theorem posts_windows (s : State) (is : List Instr) : (s.posts is).windows = s.windows := rfl
@[simp] theorem posts_undo (s : State) (is : List Instr) : (s.posts is).undo = s.undo := rfl
@[simp] theorem posts_tlb (s : State) (is : List Instr) : (s.posts is).tlb = s.tlb := rfl
@[simp] theorem posts_ops (s : State) (is : List Instr) : (s.posts is).ops = s.ops := rfl
@[simp] theorem posts_faults (s : State) (is : List Instr) : (s.posts is).faults = s.faults := rfl
@[simp] theorem posts_devq (s : State) (is : List Instr) : (s.posts is).devq = s.devq := rfl
@[simp] theorem posts_tokens (s : State) (is : List Instr) : (s.posts is).tokens = s.tokens := rfl
@[simp] theorem posts_filter (s : State) (is : List Instr) : (s.posts is).filter = s.filter := rfl
@[simp] theorem posts_cmds (s : State) (is : List Instr) : (s.posts is).cmds = s.cmds := rfl
@[simp] theorem posts_collSeq (s : State) (is : List Instr) : (s.posts is).collSeq = s.collSeq := rfl
@[simp] theorem posts_graphs (s : State) (is : List Instr) : (s.posts is).graphs = s.graphs := rfl
@[simp] theorem posts_hoists (s : State) (is : List Instr) : (s.posts is).hoists = s.hoists := rfl
@[simp] theorem posts_streams (s : State) (is : List Instr) : (s.posts is).streams = s.streams := rfl
@[simp] theorem posts_holds (s : State) (is : List Instr) : (s.posts is).holds = s.holds := rfl
@[simp] theorem posts_keyNext (s : State) (is : List Instr) : (s.posts is).keyNext = s.keyNext := rfl
@[simp] theorem posts_halts (s : State) (is : List Instr) : (s.posts is).halts = s.halts := rfl
@[simp] theorem posts_saves (s : State) (is : List Instr) : (s.posts is).saves = s.saves := rfl
@[simp] theorem posts_stalls (s : State) (is : List Instr) : (s.posts is).stalls = s.stalls := rfl
@[simp] theorem posts_rrLast (s : State) (is : List Instr) : (s.posts is).rrLast = s.rrLast := rfl
@[simp] theorem posts_fatals (s : State) (is : List Instr) : (s.posts is).fatals = s.fatals := rfl
@[simp] theorem posts_wdogs (s : State) (is : List Instr) : (s.posts is).wdogs = s.wdogs := rfl
@[simp] theorem posts_ckps (s : State) (is : List Instr) : (s.posts is).ckps = s.ckps := rfl
@[simp] theorem posts_protect (s : State) (is : List Instr) : (s.posts is).protect = s.protect := rfl
@[simp] theorem posts_scrubs (s : State) (is : List Instr) : (s.posts is).scrubs = s.scrubs := rfl
@[simp] theorem posts_slices (s : State) (is : List Instr) : (s.posts is).slices = s.slices := rfl
@[simp] theorem posts_flrs (s : State) (is : List Instr) : (s.posts is).flrs = s.flrs := rfl
@[simp] theorem posts_invals (s : State) (is : List Instr) : (s.posts is).invals = s.invals := rfl
@[simp] theorem posts_waking (s : State) (is : List Instr) : (s.posts is).waking = s.waking := rfl
@[simp] theorem posts_gated (s : State) (is : List Instr) : (s.posts is).gated = s.gated := rfl
@[simp] theorem posts_deep (s : State) (is : List Instr) : (s.posts is).deep = s.deep := rfl
@[simp] theorem posts_cap (s : State) (is : List Instr) : (s.posts is).cap = s.cap := rfl
@[simp] theorem posts_halved (s : State) (is : List Instr) : (s.posts is).halved = s.halved := rfl
@[simp] theorem posts_boot (s : State) (is : List Instr) : (s.posts is).boot = s.boot := rfl
@[simp] theorem posts_meas (s : State) (is : List Instr) : (s.posts is).meas = s.meas := rfl
@[simp] theorem posts_digests (s : State) (is : List Instr) : (s.posts is).digests = s.digests := rfl
@[simp] theorem posts_running (s : State) (is : List Instr) : (s.posts is).running = s.running := rfl
@[simp] theorem posts_upload (s : State) (is : List Instr) : (s.posts is).upload = s.upload := rfl
@[simp] theorem posts_flash (s : State) (is : List Instr) : (s.posts is).flash = s.flash := rfl
@[simp] theorem posts_box (s : State) (is : List Instr) : (s.posts is).box = s.box := rfl
@[simp] theorem posts_boxCount (s : State) (is : List Instr) : (s.posts is).boxCount = s.boxCount := rfl
@[simp] theorem posts_boxSnap (s : State) (is : List Instr) : (s.posts is).boxSnap = s.boxSnap := rfl
@[simp] theorem posts_boxNext (s : State) (is : List Instr) : (s.posts is).boxNext = s.boxNext := rfl
@[simp] theorem posts_boxLast (s : State) (is : List Instr) : (s.posts is).boxLast = s.boxLast := rfl
@[simp] theorem posts_boxDroop (s : State) (is : List Instr) : (s.posts is).boxDroop = s.boxDroop := rfl
@[simp] theorem posts_flashBad (s : State) (is : List Instr) : (s.posts is).flashBad = s.flashBad := rfl
@[simp] theorem posts_cgroups (s : State) (is : List Instr) : (s.posts is).cgroups = s.cgroups := rfl
@[simp] theorem posts_slowPorts (s : State) (is : List Instr) : (s.posts is).slowPorts = s.slowPorts := rfl
@[simp] theorem posts_ecc (s : State) (is : List Instr) : (s.posts is).ecc = s.ecc := rfl
@[simp] theorem posts_corrected (s : State) (is : List Instr) : (s.posts is).corrected = s.corrected := rfl
@[simp] theorem posts_regs (s : State) (is : List Instr) : (s.posts is).regs = s.regs := rfl
@[simp] theorem posts_fenable (s : State) (is : List Instr) : (s.posts is).fenable = s.fenable := rfl
@[simp] theorem posts_hgrant (s : State) (is : List Instr) : (s.posts is).hgrant = s.hgrant := rfl
@[simp] theorem posts_dlc (s : State) (is : List Instr) : (s.posts is).dlc = s.dlc := rfl
@[simp] theorem posts_frac (s : State) (is : List Instr) : (s.posts is).frac = s.frac := rfl
@[simp] theorem posts_holdLeft (s : State) (is : List Instr) : (s.posts is).holdLeft = s.holdLeft := rfl
@[simp] theorem posts_ref10 (s : State) (is : List Instr) : (s.posts is).ref10 = s.ref10 := rfl
@[simp] theorem posts_latches (s : State) (is : List Instr) : (s.posts is).latches = s.latches := rfl
@[simp] theorem posts_clocks (s : State) (is : List Instr) : (s.posts is).clocks = s.clocks := rfl
@[simp] theorem posts_cycles (s : State) (is : List Instr) : (s.posts is).cycles = s.cycles := rfl
@[simp] theorem posts_out (s : State) (is : List Instr) : (s.posts is).out = s.out := rfl

/-! ## wreg -/

@[simp] theorem wreg_stepNo (s : State) (v i : Nat) (x : Word) : (s.wreg v i x).stepNo = s.stepNo := rfl
@[simp] theorem wreg_fresh (s : State) (v i : Nat) (x : Word) : (s.wreg v i x).fresh = s.fresh := rfl
@[simp] theorem wreg_agenda (s : State) (v i : Nat) (x : Word) : (s.wreg v i x).agenda = s.agenda := rfl
@[simp] theorem wreg_inputs (s : State) (v i : Nat) (x : Word) : (s.wreg v i x).inputs = s.inputs := rfl
@[simp] theorem wreg_iss (s : State) (v i : Nat) (x : Word) : (s.wreg v i x).iss = s.iss := rfl
@[simp] theorem wreg_second (s : State) (v i : Nat) (x : Word) : (s.wreg v i x).second = s.second := rfl
@[simp] theorem wreg_seqWg (s : State) (v i : Nat) (x : Word) : (s.wreg v i x).seqWg = s.seqWg := rfl
@[simp] theorem wreg_turn (s : State) (v i : Nat) (x : Word) : (s.wreg v i x).turn = s.turn := rfl
@[simp] theorem wreg_timerNo (s : State) (v i : Nat) (x : Word) : (s.wreg v i x).timerNo = s.timerNo := rfl
@[simp] theorem wreg_lastSel (s : State) (v i : Nat) (x : Word) : (s.wreg v i x).lastSel = s.lastSel := rfl
@[simp] theorem wreg_threads (s : State) (v i : Nat) (x : Word) : (s.wreg v i x).threads = s.threads := rfl
@[simp] theorem wreg_groups (s : State) (v i : Nat) (x : Word) : (s.wreg v i x).groups = s.groups := rfl
@[simp] theorem wreg_bins (s : State) (v i : Nat) (x : Word) : (s.wreg v i x).bins = s.bins := rfl
@[simp] theorem wreg_wgs (s : State) (v i : Nat) (x : Word) : (s.wreg v i x).wgs = s.wgs := rfl
@[simp] theorem wreg_past (s : State) (v i : Nat) (x : Word) : (s.wreg v i x).past = s.past := rfl
@[simp] theorem wreg_ended (s : State) (v i : Nat) (x : Word) : (s.wreg v i x).ended = s.ended := rfl
@[simp] theorem wreg_gens (s : State) (v i : Nat) (x : Word) : (s.wreg v i x).gens = s.gens := rfl
@[simp] theorem wreg_launches (s : State) (v i : Nat) (x : Word) : (s.wreg v i x).launches = s.launches := rfl
@[simp] theorem wreg_mem (s : State) (v i : Nat) (x : Word) : (s.wreg v i x).mem = s.mem := rfl
@[simp] theorem wreg_l1 (s : State) (v i : Nat) (x : Word) : (s.wreg v i x).l1 = s.l1 := rfl
@[simp] theorem wreg_icache (s : State) (v i : Nat) (x : Word) : (s.wreg v i x).icache = s.icache := rfl
@[simp] theorem wreg_l2 (s : State) (v i : Nat) (x : Word) : (s.wreg v i x).l2 = s.l2 := rfl
@[simp] theorem wreg_rdc (s : State) (v i : Nat) (x : Word) : (s.wreg v i x).rdc = s.rdc := rfl
@[simp] theorem wreg_shadows (s : State) (v i : Nat) (x : Word) : (s.wreg v i x).shadows = s.shadows := rfl
@[simp] theorem wreg_windows (s : State) (v i : Nat) (x : Word) : (s.wreg v i x).windows = s.windows := rfl
@[simp] theorem wreg_undo (s : State) (v i : Nat) (x : Word) : (s.wreg v i x).undo = s.undo := rfl
@[simp] theorem wreg_tlb (s : State) (v i : Nat) (x : Word) : (s.wreg v i x).tlb = s.tlb := rfl
@[simp] theorem wreg_ops (s : State) (v i : Nat) (x : Word) : (s.wreg v i x).ops = s.ops := rfl
@[simp] theorem wreg_faults (s : State) (v i : Nat) (x : Word) : (s.wreg v i x).faults = s.faults := rfl
@[simp] theorem wreg_devq (s : State) (v i : Nat) (x : Word) : (s.wreg v i x).devq = s.devq := rfl
@[simp] theorem wreg_tokens (s : State) (v i : Nat) (x : Word) : (s.wreg v i x).tokens = s.tokens := rfl
@[simp] theorem wreg_filter (s : State) (v i : Nat) (x : Word) : (s.wreg v i x).filter = s.filter := rfl
@[simp] theorem wreg_cmds (s : State) (v i : Nat) (x : Word) : (s.wreg v i x).cmds = s.cmds := rfl
@[simp] theorem wreg_collSeq (s : State) (v i : Nat) (x : Word) : (s.wreg v i x).collSeq = s.collSeq := rfl
@[simp] theorem wreg_graphs (s : State) (v i : Nat) (x : Word) : (s.wreg v i x).graphs = s.graphs := rfl
@[simp] theorem wreg_hoists (s : State) (v i : Nat) (x : Word) : (s.wreg v i x).hoists = s.hoists := rfl
@[simp] theorem wreg_streams (s : State) (v i : Nat) (x : Word) : (s.wreg v i x).streams = s.streams := rfl
@[simp] theorem wreg_holds (s : State) (v i : Nat) (x : Word) : (s.wreg v i x).holds = s.holds := rfl
@[simp] theorem wreg_keyNext (s : State) (v i : Nat) (x : Word) : (s.wreg v i x).keyNext = s.keyNext := rfl
@[simp] theorem wreg_halts (s : State) (v i : Nat) (x : Word) : (s.wreg v i x).halts = s.halts := rfl
@[simp] theorem wreg_saves (s : State) (v i : Nat) (x : Word) : (s.wreg v i x).saves = s.saves := rfl
@[simp] theorem wreg_stalls (s : State) (v i : Nat) (x : Word) : (s.wreg v i x).stalls = s.stalls := rfl
@[simp] theorem wreg_rrLast (s : State) (v i : Nat) (x : Word) : (s.wreg v i x).rrLast = s.rrLast := rfl
@[simp] theorem wreg_fatals (s : State) (v i : Nat) (x : Word) : (s.wreg v i x).fatals = s.fatals := rfl
@[simp] theorem wreg_wdogs (s : State) (v i : Nat) (x : Word) : (s.wreg v i x).wdogs = s.wdogs := rfl
@[simp] theorem wreg_ckps (s : State) (v i : Nat) (x : Word) : (s.wreg v i x).ckps = s.ckps := rfl
@[simp] theorem wreg_protect (s : State) (v i : Nat) (x : Word) : (s.wreg v i x).protect = s.protect := rfl
@[simp] theorem wreg_scrubs (s : State) (v i : Nat) (x : Word) : (s.wreg v i x).scrubs = s.scrubs := rfl
@[simp] theorem wreg_slices (s : State) (v i : Nat) (x : Word) : (s.wreg v i x).slices = s.slices := rfl
@[simp] theorem wreg_flrs (s : State) (v i : Nat) (x : Word) : (s.wreg v i x).flrs = s.flrs := rfl
@[simp] theorem wreg_invals (s : State) (v i : Nat) (x : Word) : (s.wreg v i x).invals = s.invals := rfl
@[simp] theorem wreg_waking (s : State) (v i : Nat) (x : Word) : (s.wreg v i x).waking = s.waking := rfl
@[simp] theorem wreg_gated (s : State) (v i : Nat) (x : Word) : (s.wreg v i x).gated = s.gated := rfl
@[simp] theorem wreg_deep (s : State) (v i : Nat) (x : Word) : (s.wreg v i x).deep = s.deep := rfl
@[simp] theorem wreg_cap (s : State) (v i : Nat) (x : Word) : (s.wreg v i x).cap = s.cap := rfl
@[simp] theorem wreg_halved (s : State) (v i : Nat) (x : Word) : (s.wreg v i x).halved = s.halved := rfl
@[simp] theorem wreg_boot (s : State) (v i : Nat) (x : Word) : (s.wreg v i x).boot = s.boot := rfl
@[simp] theorem wreg_meas (s : State) (v i : Nat) (x : Word) : (s.wreg v i x).meas = s.meas := rfl
@[simp] theorem wreg_digests (s : State) (v i : Nat) (x : Word) : (s.wreg v i x).digests = s.digests := rfl
@[simp] theorem wreg_running (s : State) (v i : Nat) (x : Word) : (s.wreg v i x).running = s.running := rfl
@[simp] theorem wreg_upload (s : State) (v i : Nat) (x : Word) : (s.wreg v i x).upload = s.upload := rfl
@[simp] theorem wreg_flash (s : State) (v i : Nat) (x : Word) : (s.wreg v i x).flash = s.flash := rfl
@[simp] theorem wreg_box (s : State) (v i : Nat) (x : Word) : (s.wreg v i x).box = s.box := rfl
@[simp] theorem wreg_boxCount (s : State) (v i : Nat) (x : Word) : (s.wreg v i x).boxCount = s.boxCount := rfl
@[simp] theorem wreg_boxSnap (s : State) (v i : Nat) (x : Word) : (s.wreg v i x).boxSnap = s.boxSnap := rfl
@[simp] theorem wreg_boxNext (s : State) (v i : Nat) (x : Word) : (s.wreg v i x).boxNext = s.boxNext := rfl
@[simp] theorem wreg_boxLast (s : State) (v i : Nat) (x : Word) : (s.wreg v i x).boxLast = s.boxLast := rfl
@[simp] theorem wreg_boxDroop (s : State) (v i : Nat) (x : Word) : (s.wreg v i x).boxDroop = s.boxDroop := rfl
@[simp] theorem wreg_flashBad (s : State) (v i : Nat) (x : Word) : (s.wreg v i x).flashBad = s.flashBad := rfl
@[simp] theorem wreg_cgroups (s : State) (v i : Nat) (x : Word) : (s.wreg v i x).cgroups = s.cgroups := rfl
@[simp] theorem wreg_slowPorts (s : State) (v i : Nat) (x : Word) : (s.wreg v i x).slowPorts = s.slowPorts := rfl
@[simp] theorem wreg_ecc (s : State) (v i : Nat) (x : Word) : (s.wreg v i x).ecc = s.ecc := rfl
@[simp] theorem wreg_corrected (s : State) (v i : Nat) (x : Word) : (s.wreg v i x).corrected = s.corrected := rfl
@[simp] theorem wreg_regs (s : State) (v i : Nat) (x : Word) : (s.wreg v i x).regs = regPut s.regs (regKey v i) x := rfl
@[simp] theorem wreg_fenable (s : State) (v i : Nat) (x : Word) : (s.wreg v i x).fenable = s.fenable := rfl
@[simp] theorem wreg_hgrant (s : State) (v i : Nat) (x : Word) : (s.wreg v i x).hgrant = s.hgrant := rfl
@[simp] theorem wreg_dlc (s : State) (v i : Nat) (x : Word) : (s.wreg v i x).dlc = s.dlc := rfl
@[simp] theorem wreg_frac (s : State) (v i : Nat) (x : Word) : (s.wreg v i x).frac = s.frac := rfl
@[simp] theorem wreg_holdLeft (s : State) (v i : Nat) (x : Word) : (s.wreg v i x).holdLeft = s.holdLeft := rfl
@[simp] theorem wreg_ref10 (s : State) (v i : Nat) (x : Word) : (s.wreg v i x).ref10 = s.ref10 := rfl
@[simp] theorem wreg_latches (s : State) (v i : Nat) (x : Word) : (s.wreg v i x).latches = s.latches := rfl
@[simp] theorem wreg_clocks (s : State) (v i : Nat) (x : Word) : (s.wreg v i x).clocks = s.clocks := rfl
@[simp] theorem wreg_cycles (s : State) (v i : Nat) (x : Word) : (s.wreg v i x).cycles = s.cycles := rfl
@[simp] theorem wreg_out (s : State) (v i : Nat) (x : Word) : (s.wreg v i x).out = s.out := rfl

/-! ## withThreads -/

@[simp] theorem withThreads_stepNo (s : State) (ts : List Thread) : (s.withThreads ts).stepNo = s.stepNo := rfl
@[simp] theorem withThreads_fresh (s : State) (ts : List Thread) : (s.withThreads ts).fresh = s.fresh := rfl
@[simp] theorem withThreads_agenda (s : State) (ts : List Thread) : (s.withThreads ts).agenda = s.agenda := rfl
@[simp] theorem withThreads_inputs (s : State) (ts : List Thread) : (s.withThreads ts).inputs = s.inputs := rfl
@[simp] theorem withThreads_iss (s : State) (ts : List Thread) : (s.withThreads ts).iss = s.iss := rfl
@[simp] theorem withThreads_second (s : State) (ts : List Thread) : (s.withThreads ts).second = s.second := rfl
@[simp] theorem withThreads_seqWg (s : State) (ts : List Thread) : (s.withThreads ts).seqWg = s.seqWg := rfl
@[simp] theorem withThreads_turn (s : State) (ts : List Thread) : (s.withThreads ts).turn = s.turn := rfl
@[simp] theorem withThreads_timerNo (s : State) (ts : List Thread) : (s.withThreads ts).timerNo = s.timerNo := rfl
@[simp] theorem withThreads_lastSel (s : State) (ts : List Thread) : (s.withThreads ts).lastSel = s.lastSel := rfl
@[simp] theorem withThreads_threads (s : State) (ts : List Thread) : (s.withThreads ts).threads = ts := rfl
@[simp] theorem withThreads_groups (s : State) (ts : List Thread) : (s.withThreads ts).groups = s.groups := rfl
@[simp] theorem withThreads_bins (s : State) (ts : List Thread) : (s.withThreads ts).bins = s.bins := rfl
@[simp] theorem withThreads_wgs (s : State) (ts : List Thread) : (s.withThreads ts).wgs = s.wgs := rfl
@[simp] theorem withThreads_past (s : State) (ts : List Thread) : (s.withThreads ts).past = s.past := rfl
@[simp] theorem withThreads_ended (s : State) (ts : List Thread) : (s.withThreads ts).ended = s.ended := rfl
@[simp] theorem withThreads_gens (s : State) (ts : List Thread) : (s.withThreads ts).gens = s.gens := rfl
@[simp] theorem withThreads_launches (s : State) (ts : List Thread) : (s.withThreads ts).launches = s.launches := rfl
@[simp] theorem withThreads_mem (s : State) (ts : List Thread) : (s.withThreads ts).mem = s.mem := rfl
@[simp] theorem withThreads_l1 (s : State) (ts : List Thread) : (s.withThreads ts).l1 = s.l1 := rfl
@[simp] theorem withThreads_icache (s : State) (ts : List Thread) : (s.withThreads ts).icache = s.icache := rfl
@[simp] theorem withThreads_l2 (s : State) (ts : List Thread) : (s.withThreads ts).l2 = s.l2 := rfl
@[simp] theorem withThreads_rdc (s : State) (ts : List Thread) : (s.withThreads ts).rdc = s.rdc := rfl
@[simp] theorem withThreads_shadows (s : State) (ts : List Thread) : (s.withThreads ts).shadows = s.shadows := rfl
@[simp] theorem withThreads_windows (s : State) (ts : List Thread) : (s.withThreads ts).windows = s.windows := rfl
@[simp] theorem withThreads_undo (s : State) (ts : List Thread) : (s.withThreads ts).undo = s.undo := rfl
@[simp] theorem withThreads_tlb (s : State) (ts : List Thread) : (s.withThreads ts).tlb = s.tlb := rfl
@[simp] theorem withThreads_ops (s : State) (ts : List Thread) : (s.withThreads ts).ops = s.ops := rfl
@[simp] theorem withThreads_faults (s : State) (ts : List Thread) : (s.withThreads ts).faults = s.faults := rfl
@[simp] theorem withThreads_devq (s : State) (ts : List Thread) : (s.withThreads ts).devq = s.devq := rfl
@[simp] theorem withThreads_tokens (s : State) (ts : List Thread) : (s.withThreads ts).tokens = s.tokens := rfl
@[simp] theorem withThreads_filter (s : State) (ts : List Thread) : (s.withThreads ts).filter = s.filter := rfl
@[simp] theorem withThreads_cmds (s : State) (ts : List Thread) : (s.withThreads ts).cmds = s.cmds := rfl
@[simp] theorem withThreads_collSeq (s : State) (ts : List Thread) : (s.withThreads ts).collSeq = s.collSeq := rfl
@[simp] theorem withThreads_graphs (s : State) (ts : List Thread) : (s.withThreads ts).graphs = s.graphs := rfl
@[simp] theorem withThreads_hoists (s : State) (ts : List Thread) : (s.withThreads ts).hoists = s.hoists := rfl
@[simp] theorem withThreads_streams (s : State) (ts : List Thread) : (s.withThreads ts).streams = s.streams := rfl
@[simp] theorem withThreads_holds (s : State) (ts : List Thread) : (s.withThreads ts).holds = s.holds := rfl
@[simp] theorem withThreads_keyNext (s : State) (ts : List Thread) : (s.withThreads ts).keyNext = s.keyNext := rfl
@[simp] theorem withThreads_halts (s : State) (ts : List Thread) : (s.withThreads ts).halts = s.halts := rfl
@[simp] theorem withThreads_saves (s : State) (ts : List Thread) : (s.withThreads ts).saves = s.saves := rfl
@[simp] theorem withThreads_stalls (s : State) (ts : List Thread) : (s.withThreads ts).stalls = s.stalls := rfl
@[simp] theorem withThreads_rrLast (s : State) (ts : List Thread) : (s.withThreads ts).rrLast = s.rrLast := rfl
@[simp] theorem withThreads_fatals (s : State) (ts : List Thread) : (s.withThreads ts).fatals = s.fatals := rfl
@[simp] theorem withThreads_wdogs (s : State) (ts : List Thread) : (s.withThreads ts).wdogs = s.wdogs := rfl
@[simp] theorem withThreads_ckps (s : State) (ts : List Thread) : (s.withThreads ts).ckps = s.ckps := rfl
@[simp] theorem withThreads_protect (s : State) (ts : List Thread) : (s.withThreads ts).protect = s.protect := rfl
@[simp] theorem withThreads_scrubs (s : State) (ts : List Thread) : (s.withThreads ts).scrubs = s.scrubs := rfl
@[simp] theorem withThreads_slices (s : State) (ts : List Thread) : (s.withThreads ts).slices = s.slices := rfl
@[simp] theorem withThreads_flrs (s : State) (ts : List Thread) : (s.withThreads ts).flrs = s.flrs := rfl
@[simp] theorem withThreads_invals (s : State) (ts : List Thread) : (s.withThreads ts).invals = s.invals := rfl
@[simp] theorem withThreads_waking (s : State) (ts : List Thread) : (s.withThreads ts).waking = s.waking := rfl
@[simp] theorem withThreads_gated (s : State) (ts : List Thread) : (s.withThreads ts).gated = s.gated := rfl
@[simp] theorem withThreads_deep (s : State) (ts : List Thread) : (s.withThreads ts).deep = s.deep := rfl
@[simp] theorem withThreads_cap (s : State) (ts : List Thread) : (s.withThreads ts).cap = s.cap := rfl
@[simp] theorem withThreads_halved (s : State) (ts : List Thread) : (s.withThreads ts).halved = s.halved := rfl
@[simp] theorem withThreads_boot (s : State) (ts : List Thread) : (s.withThreads ts).boot = s.boot := rfl
@[simp] theorem withThreads_meas (s : State) (ts : List Thread) : (s.withThreads ts).meas = s.meas := rfl
@[simp] theorem withThreads_digests (s : State) (ts : List Thread) : (s.withThreads ts).digests = s.digests := rfl
@[simp] theorem withThreads_running (s : State) (ts : List Thread) : (s.withThreads ts).running = s.running := rfl
@[simp] theorem withThreads_upload (s : State) (ts : List Thread) : (s.withThreads ts).upload = s.upload := rfl
@[simp] theorem withThreads_flash (s : State) (ts : List Thread) : (s.withThreads ts).flash = s.flash := rfl
@[simp] theorem withThreads_box (s : State) (ts : List Thread) : (s.withThreads ts).box = s.box := rfl
@[simp] theorem withThreads_boxCount (s : State) (ts : List Thread) : (s.withThreads ts).boxCount = s.boxCount := rfl
@[simp] theorem withThreads_boxSnap (s : State) (ts : List Thread) : (s.withThreads ts).boxSnap = s.boxSnap := rfl
@[simp] theorem withThreads_boxNext (s : State) (ts : List Thread) : (s.withThreads ts).boxNext = s.boxNext := rfl
@[simp] theorem withThreads_boxLast (s : State) (ts : List Thread) : (s.withThreads ts).boxLast = s.boxLast := rfl
@[simp] theorem withThreads_boxDroop (s : State) (ts : List Thread) : (s.withThreads ts).boxDroop = s.boxDroop := rfl
@[simp] theorem withThreads_flashBad (s : State) (ts : List Thread) : (s.withThreads ts).flashBad = s.flashBad := rfl
@[simp] theorem withThreads_cgroups (s : State) (ts : List Thread) : (s.withThreads ts).cgroups = s.cgroups := rfl
@[simp] theorem withThreads_slowPorts (s : State) (ts : List Thread) : (s.withThreads ts).slowPorts = s.slowPorts := rfl
@[simp] theorem withThreads_ecc (s : State) (ts : List Thread) : (s.withThreads ts).ecc = s.ecc := rfl
@[simp] theorem withThreads_corrected (s : State) (ts : List Thread) : (s.withThreads ts).corrected = s.corrected := rfl
@[simp] theorem withThreads_regs (s : State) (ts : List Thread) : (s.withThreads ts).regs = s.regs := rfl
@[simp] theorem withThreads_fenable (s : State) (ts : List Thread) : (s.withThreads ts).fenable = s.fenable := rfl
@[simp] theorem withThreads_hgrant (s : State) (ts : List Thread) : (s.withThreads ts).hgrant = s.hgrant := rfl
@[simp] theorem withThreads_dlc (s : State) (ts : List Thread) : (s.withThreads ts).dlc = s.dlc := rfl
@[simp] theorem withThreads_frac (s : State) (ts : List Thread) : (s.withThreads ts).frac = s.frac := rfl
@[simp] theorem withThreads_holdLeft (s : State) (ts : List Thread) : (s.withThreads ts).holdLeft = s.holdLeft := rfl
@[simp] theorem withThreads_ref10 (s : State) (ts : List Thread) : (s.withThreads ts).ref10 = s.ref10 := rfl
@[simp] theorem withThreads_latches (s : State) (ts : List Thread) : (s.withThreads ts).latches = s.latches := rfl
@[simp] theorem withThreads_clocks (s : State) (ts : List Thread) : (s.withThreads ts).clocks = s.clocks := rfl
@[simp] theorem withThreads_cycles (s : State) (ts : List Thread) : (s.withThreads ts).cycles = s.cycles := rfl
@[simp] theorem withThreads_out (s : State) (ts : List Thread) : (s.withThreads ts).out = s.out := rfl

/-! ## Finding what was updated -/

/-- A thread that is looked for after an update of that thread or of another, whose name the update keeps. -/
theorem thr?_updThr (s : State) (n m : Nat) (f : Thread → Thread) (hf : ∀ t, (f t).uid = t.uid) :
    (s.updThr n f).thr? m = (s.thr? m).map fun t => if t.uid = n then f t else t := by
  simp only [State.thr?, updThr_threads, List.find?_map]
  congr 1
  congr 1
  funext t
  simp only [Function.comp]
  split <;> simp [hf]

/-- The same of a workgroup. -/
theorem wg?_updWg (s : State) (n m : Nat) (f : Wg → Wg) (hf : ∀ w, (f w).id = w.id) :
    (s.updWg n f).wg? m = (s.wg? m).map fun w => if w.id = n then f w else w := by
  simp only [State.wg?, updWg_wgs, List.find?_map]
  congr 1
  congr 1
  funext t
  simp only [Function.comp]
  split <;> simp [hf]

@[simp] theorem thr?_updWg (s : State) (n m : Nat) (f : Wg → Wg) : (s.updWg n f).thr? m = s.thr? m := rfl
@[simp] theorem wg?_updThr (s : State) (n m : Nat) (f : Thread → Thread) : (s.updThr n f).wg? m = s.wg? m := rfl
@[simp] theorem launchOfWg_updThr (s : State) (n m : Nat) (f : Thread → Thread) : (s.updThr n f).launchOfWg m = s.launchOfWg m := rfl
@[simp] theorem asidOf_updThr (s : State) (n m : Nat) (f : Thread → Thread) : (s.updThr n f).asidOf m = s.asidOf m := rfl
@[simp] theorem coreOf_updThr (s : State) (n m : Nat) (f : Thread → Thread) : (s.updThr n f).coreOf m = s.coreOf m := rfl
@[simp] theorem thr?_post (s : State) (i : Instr) (m : Nat) : (s.post i).thr? m = s.thr? m := rfl
@[simp] theorem wg?_post (s : State) (i : Instr) (m : Nat) : (s.post i).wg? m = s.wg? m := rfl
@[simp] theorem thr?_wreg (s : State) (v i : Nat) (x : Word) (m : Nat) : (s.wreg v i x).thr? m = s.thr? m := rfl
@[simp] theorem wg?_wreg (s : State) (v i : Nat) (x : Word) (m : Nat) : (s.wreg v i x).wg? m = s.wg? m := rfl
@[simp] theorem rreg_updThr (s : State) (n : Nat) (f : Thread → Thread) (v i : Nat) : (s.updThr n f).rreg v i = s.rreg v i := rfl
@[simp] theorem rreg_updWg (s : State) (n : Nat) (f : Wg → Wg) (v i : Nat) : (s.updWg n f).rreg v i = s.rreg v i := rfl
@[simp] theorem rreg_post (s : State) (x : Instr) (v i : Nat) : (s.post x).rreg v i = s.rreg v i := rfl

end Sys2Proof.Machine
end

