-- ==== Sys2Proof/Tests/Slice0.lean ====
section
/-! SUPPORT. Tests: ill-formed instructions that the check refuses; words laid out from the spec's encodings; the results of single
instructions that the spec's examples or a hand computation give; and, for each statement of Certificates/Slice0/Obligations.lean, states
and operands that meet its hypotheses (theorems wit_<statement>_<clause>). -/

open Sys2Proof Sys2Proof.Machine

namespace Sys2Proof.Tests

set_option maxRecDepth 20000
set_option Elab.async false

/-! ## The states of the tests -/

/-- A booted machine with one workgroup of one thread, placed on core 0 (Machine/Load.lean). -/
def base : State := State.reset.loaded 32 0
def th0 : Thread := newThread 4 2 3 0 ⟨false, 0x600#64, 0#32, [], 0, false, false, none⟩
/-- A thread with some registers written. -/
def setV (t : Thread) (l : List (Nat × Word)) : Thread := l.foldl (fun t p => t.setReg p.1 p.2 .clean) t
/-- The machine with that thread, whose PC group issues the chain at 0x600. -/
def issuing (t : Thread) : State := { base with threads := [t], iss := ⟨0, 3, [t], 0x600#64, 0x60C#64, 0, [], [], []⟩ }
def wgOf (s : State) : Wg := s.wgs.getD 0 (loadWg 0 0 0 false)
def launchOf (s : State) : Launch := s.launches.getD 0 (loadLaunch 0)

/-- The workgroup of the tests with a queue bound. -/
def bound (q : Nat) (b : QBind) (t : Thread) : State :=
  { issuing t with wgs := [{ wgOf (issuing t) with seq := none, queues := (wgOf (issuing t)).queues.setIfInBounds q b }] }


/-! ## Words laid out from the encodings of the spec, and what they decode to -/

/-- Words of the integer family, laid out bit by bit from the entries of the spec, and what they stand for. -/
theorem test_words_integer :
    ([(0x01E4A13E, none),
      (0x02562634, none),
      (0x03E8874A, none),
      (0x0451080C, none),
      (0x05A7812E, none),
      (0x060C1C48, none),
      (0x0708043C, none),
      (0x080D2264, none),
      (0x094E281C, none),
      (0x0A931444, none),
      (0x0BD31444, none),
      (0x0C318B1A, none),
      (0x0DEB993A, none),
      (0x0E65A75A, none),
      (0x0F810C40, none),
      (0x3D42125C, none),
      (0x3B298D66, none),
      (0x01BE3CFA, (some 0xDEADBEEF)),
      (0x021DFDFC, none)] : List (Nat × Option Nat)).map (fun p => decodeThread p.1 p.2) =
     [.ok (.iadd 7 (.v 18) (.v 66) (.v 62)),
      .ok (.isub 2 (.v 88) (.v 76) (.v 52)),
      .ok (.imul 7 (.v 34) (.v 14) (.v 74)),
      .ok (.imulh 2 (.v 68) (.v 16) (.v 12)),
      .ok (.nmulh 5 (.v 30) (.v 2) (.v 46)),
      .ok (.ima 0 (.v 48) (.v 56) (.v 72)),
      .ok (.imin 0 (.v 32) (.v 8) (.v 60)),
      .ok (.imax 0 (.v 52) (.v 68) (.v 100)),
      .ok (.nmin 2 (.v 56) (.v 80) (.v 28)),
      .ok (.nmax 4 (.v 76) (.v 40) (.v 68)),
      .ok (.isad 6 (.v 76) (.v 40) (.v 68)),
      .ok (.iadd64 1 (.v 70) (.v 22) (.v 26)),
      .ok (.isub64 7 (.v 46) (.v 50) (.v 58)),
      .ok (.imul64 3 (.v 22) (.v 78) (.v 90)),
      .ok (.imaw 4 (.v 4) (.v 24) (.v 64)),
      .ok (.nmaw 2 (.v 8) (.v 36) (.v 92)),
      .ok (.idot4 1 (.v 38) (.v 26) (.v 102)),
      .ok (.iadd 5 .zero (.lit 0xDEADBEEF) .lane),
      .ok (.isub 0 (.v 119) .tid .wg)] := by rfl

/-- Words of the logic family, laid out bit by bit from the entries of the spec, and what they stand for. -/
theorem test_words_logic :
    ([(0x10962634, none),
      (0x11E7812E, none),
      (0x126A931E, none),
      (0x13218F4E, none),
      (0x15873020, none),
      (0x16698D66, none),
      (0x17F49D0A, none),
      (0x1E010C40, none),
      (0x14E28082, (some 0x00000C96)),
      (0x18628A1E, (some 0x0000010D)),
      (0x18628A1E, (some 0x0000A600)),
      (0x19E0C401, none),
      (0x1AC0C480, none),
      (0x1BC10401, none),
      (0x1C414300, (some 0x00020174)),
      (0x1D414300, (some 0x00000123)),
      (0x1F414307, (some 0x00013400))] : List (Nat × Option Nat)).map (fun p => decodeThread p.1 p.2) =
     [.ok (.and 4 (.v 88) (.v 76) (.v 52)),
      .ok (.or 7 (.v 30) (.v 2) (.v 46)),
      .ok (.xor 3 (.v 42) (.v 38) (.v 30)),
      .ok (.andn 1 (.v 6) (.v 30) (.v 78)),
      .ok (.shl 4 (.v 28) (.v 96) (.v 32)),
      .ok (.shr 3 (.v 38) (.v 26) (.v 102)),
      .ok (.sar 7 (.v 82) (.v 58) (.v 10)),
      .ok (.sel 0 (.v 4) (.v 24) (.v 64)),
      .ok (.tern 7 (.v 10) (.v 1) (.v 2) (.v 3) 0x96),
      .ok (.fsh 3 (.v 10) (.v 20) (.v 30) false (.imm 13)),
      .ok (.fsh 3 (.v 10) (.v 20) (.v 30) true (.reg (.v 41))),
      .ok (.pcnt 7 (.v 3) (.v 8) true),
      .ok (.clz 6 (.v 3) (.v 9) false),
      .ok (.brev 6 (.v 4) (.v 8) true),
      .ok (.bfe 2 (.v 5) (.v 6) true 11 20),
      .ok (.bfi 2 (.v 5) (.v 6) 9 3),
      .ok (.bperm 2 (.v 5) (.v 6) (.v 7) (.v 77))] := by rfl

/-- Words of the float family, laid out bit by bit from the entries of the spec, and what they stand for. -/
theorem test_words_float :
    ([(0x20E4A13E, none),
      (0x21562634, none),
      (0x22E8874A, none),
      (0x2351080C, none),
      (0x24A7812E, none),
      (0x250C1C48, none),
      (0x2608043C, none),
      (0x270D2264, none),
      (0x284E281C, none),
      (0x29931444, none),
      (0x2AD31444, none),
      (0x2B318B1A, none),
      (0x30EB993A, none),
      (0x3165A75A, none),
      (0x32810C40, none),
      (0x3C42125C, none),
      (0x3422048A, (some 0x03A23000)),
      (0x352204B4, none),
      (0x36220485, none)] : List (Nat × Option Nat)).map (fun p => decodeThread p.1 p.2) =
     [.ok (.faddF32 7 (.v 18) (.v 66) (.v 62)),
      .ok (.fsubF32 2 (.v 88) (.v 76) (.v 52)),
      .ok (.fmulF32 7 (.v 34) (.v 14) (.v 74)),
      .ok (.fmaF32 2 (.v 68) (.v 16) (.v 12)),
      .ok (.fminF32 5 (.v 30) (.v 2) (.v 46)),
      .ok (.fmaxF32 0 (.v 48) (.v 56) (.v 72)),
      .ok (.faddH2 0 (.v 32) (.v 8) (.v 60)),
      .ok (.fmulH2 0 (.v 52) (.v 68) (.v 100)),
      .ok (.fmaH2 2 (.v 56) (.v 80) (.v 28)),
      .ok (.faddB2 4 (.v 76) (.v 40) (.v 68)),
      .ok (.fmulB2 6 (.v 76) (.v 40) (.v 68)),
      .ok (.fmaB2 1 (.v 70) (.v 22) (.v 26)),
      .ok (.dadd 7 (.v 46) (.v 50) (.v 58)),
      .ok (.dmul 3 (.v 22) (.v 78) (.v 90)),
      .ok (.dfma 4 (.v 4) (.v 24) (.v 64)),
      .ok (.fdot2 2 (.v 8) (.v 36) (.v 92)),
      .ok (.fop 1 (.v 8) (.v 9) (.v 10) false .fma .f32 .rz (.v 12)),
      .ok (.frnd 1 (.v 8) (.v 9) true .h2 .rna),
      .ok (.fsf 1 (.v 8) (.v 9) .cospi)] := by rfl

/-- Words of the compare family, laid out bit by bit from the entries of the spec, and what they stand for. -/
theorem test_words_compare :
    ([(0x2CFB4206, none),
      (0x2DEC8287, none),
      (0x33E8C40A, none),
      (0x2E819506, none),
      (0x2F818401, none)] : List (Nat × Option Nat)).map (fun p => decodeThread p.1 p.2) =
     [.ok (.icmp 7 true .leu 5 (.v 4) (.v 6)),
      .ok (.fcmp 7 .ord 2 (.v 5) (.v 7)),
      .ok (.dcmp 7 .gt 3 (.v 8) (.v 10)),
      .ok (.plop 4 6 2 5 0b0110),
      .ok (.fclass 4 (.v 6) (.v 8) true)] := by rfl

/-- Words of the convert family, laid out bit by bit from the entries of the spec, and what they stand for. -/
theorem test_words_convert :
    ([(0x37E24580, (some 0x04A40000)),
      (0x38E24580, (some 0x0C4A8465)),
      (0x39E245AE, none),
      (0x3AE24580, (some 0x0C908400))] : List (Nat × Option Nat)).map (fun p => decodeThread p.1 p.2) =
     [.ok (.conv 7 (.v 9) (.v 11) .i32 .f32 .rd),
      .ok (.convb 7 (.v 9) (.v 11) .t8 .l64 .dith (.v 33) 101),
      .ok (.convx 7 (.v 9) (.v 11) false 2 .e4m3),
      .ok (.scaleb 7 (.v 9) (.v 11) .t8 .l128 true .rn (.v 33) 0)] := by rfl

/-- Words of the move family, laid out bit by bit from the entries of the spec, and what they stand for. -/
theorem test_words_move :
    ([(0x40E18401, none),
      (0x41E1AABC, none),
      (0x42A1B001, none),
      (0x43A1802C, none),
      (0x44A18021, none)] : List (Nat × Option Nat)).map (fun p => decodeThread p.1 p.2) =
     [.ok (.mov 7 (.v 6) (.v 8) true),
      .ok (.movi 7 (.v 6) 0x2ABC),
      .ok (.movhi 5 (.v 6) 0x3001),
      .ok (.movk 5 (.v 6) true 12),
      .ok (.srd 5 (.v 6) true .xflags)] := by rfl

/-- Words of the lanes family, laid out bit by bit from the entries of the spec, and what they stand for. -/
theorem test_words_lanes :
    ([(0x45618388, (some 0x05000000)),
      (0x45618380, (some 0x01000010)),
      (0x46618282, none),
      (0x47618380, (some 0x05400000)),
      (0x48618380, (some 0x1A000000)),
      (0x49620602, none),
      (0x4A600005, none),
      (0x4BE004F1, none),
      (0x4C618381, none),
      (0x4D618380, none),
      (0x4E600389, none),
      (0x4F61800E, none)] : List (Nat × Option Nat)).map (fun p => decodeThread p.1 p.2) =
     [.ok (.swz 3 (.v 6) (.v 7) (.v 8) .idx 0),
      .ok (.swz 3 (.v 6) (.v 7) (.v 0) .xor 16),
      .ok (.vote 3 (.v 6) 5 .all),
      .ok (.lred 3 (.v 6) (.v 7) .n32 .or .rn),
      .ok (.lscan 3 (.v 6) (.v 7) true .f32 .add .rn),
      .ok (.trsp 3 (.v 8) (.v 12) .n32),
      .ok (.part 3 5),
      .ok (.rep 2 1 3 17),
      .ok (.derx 3 (.v 6) (.v 7) true),
      .ok (.dery 3 (.v 6) (.v 7) false),
      .ok (.qput 3 (.v 7) 9),
      .ok (.qget 3 (.v 6) 14)] := by rfl

/-- Words of the control family, laid out bit by bit from the entries of the spec, and what they stand for. -/
theorem test_words_control :
    ([(0x00E00000, none),
      (0x50500001, none),
      (0x51400401, none),
      (0x524F00F0, none),
      (0x53200000, none),
      (0x54200000, none),
      (0x55200000, (some 0x80025200)),
      (0x55200B00, (some 0x00005061)),
      (0x56200000, (some 0xFFFE0120)),
      (0x57203D80, (some 0x00000078)),
      (0x58200021, none),
      (0x59200013, none),
      (0x5A2000AA, none),
      (0x5B200ECC, none),
      (0x5C202001, none),
      (0x5DE00000, none),
      (0x5E201002, none),
      (0x5F220000, none)] : List (Nat × Option Nat)).map (fun p => decodeThread p.1 p.2) =
     [.ok (.nop 7),
      .ok (.jmp 2 0x100001),
      .ok (.jmpx 2 (.v 8) true),
      .ok (.call 2 0x0F00F0),
      .ok (.ret 1),
      .ok (.exit 1),
      .ok (.spawn 1 (.off 0x4001) 20 16),
      .ok (.spawn 1 (.pair (.v 22)) 20 3),
      .ok (.cont 1 (.off 0x7FFF) 9),
      .ok (.reorder 1 .tid 120),
      .ok (.yield 1 33),
      .ok (.bar 1 true 3),
      .ok (.gbar 1 0xAA),
      .ok (.wait 1 7 3 1 4),
      .ok (.trap 1 0x2001),
      .ok (.rett 7),
      .ok (.brk 1 0x1002),
      .ok (.time 1 (.v 8))] := by rfl

/-- Words of the memory family, laid out bit by bit from the entries of the spec, and what they stand for. -/
theorem test_words_memory :
    ([(0x60E2055D, none),
      (0x61E2056A, none),
      (0x62E20586, none),
      (0x63E24584, none),
      (0x64E2050C, (some 0x90003830)),
      (0x65E20812, (some 0x60005000)),
      (0x66E2050C, (some 0x75783400)),
      (0x67E2058C, (some 0x66000000)),
      (0x68E0050C, (some 0x17700000)),
      (0x69E0050C, none),
      (0x6AE00501, none),
      (0x6BE00014, none),
      (0x6CE24503, none),
      (0x6DFFFFF0, none),
      (0x6E600000, none),
      (0x6F600000, none),
      (0x6F644001, none)] : List (Nat × Option Nat)).map (fun p => decodeThread p.1 p.2) =
     [.ok (.ld 7 (.v 8) (.v 10) true .dev .n64),
      .ok (.st 7 (.v 8) (.v 10) true .sys .n16),
      .ok (.lsp 7 (.v 8) (.v 11) .x16),
      .ok (.ssp 7 (.v 9) (.v 11) .n32),
      .ok (.ldlod 7 (.v 8) (.v 10) (.v 12) 9 false (.v 14) 3),
      .ok (.sample 7 (.v 8) (.v 16) (.v 18) .half4 true (.v 20)),
      .ok (.atm 7 (.v 8) (.v 10) (.v 12) .cas .n32 .dev .ar (.v 13)),
      .ok (.atms 7 (.v 8) (.v 11) (.v 12) .xchg .i64 (.v 0)),
      .ok (.rdm 7 (.v 10) (.v 12) .min .n64 .dev true),
      .ok (.vbmin 7 (.v 10) (.v 12)),
      .ok (.pref 7 (.v 10) true),
      .ok (.fence 7 .acq .fab),
      .ok (.monwait 7 (.v 9) (.v 10) .dev),
      .ok (.txbegin 7 0x1FFFF0),
      .ok (.txend 3),
      .ok (.txctlAbort 3),
      .ok (.txctlTest 3 (.v 17))] := by rfl

/-- Words of the engines family, laid out bit by bit from the entries of the spec, and what they stand for. -/
theorem test_words_engines :
    ([(0x70E14382, none),
      (0x71E2050D, none),
      (0x72E20502, none),
      (0x73E18F1F, (some 0x000A0080)),
      (0x73E18000, (some 0x00000008)),
      (0x74E00000, (some 0x24680000)),
      (0x74E25000, (some 0x00000003)),
      (0x75E2050C, (some 0x00000000)),
      (0x76E2080C, (some 0x00000002)),
      (0x77E00500, none),
      (0x77E28001, none),
      (0x77E2C002, none),
      (0x77E00003, none),
      (0x78E2050C, (some 0x1600004D)),
      (0x79E00500, none),
      (0x7AE24000, (some 0x0A0202EC)),
      (0x7BE0050C, (some 0x00003800)),
      (0x7CE0C082, none),
      (0x7DE22081, none)] : List (Nat × Option Nat)).map (fun p => decodeThread p.1 p.2) =
     [.ok (.qbind 7 .hoistout (.v 7) 2),
      .ok (.cplwait 7 (.v 8) (.v 10) true .sys),
      .ok (.cpltest 7 (.v 8) (.v 10) .clu),
      .ok (.hoist 7 6 30 (.v 31) (.off 5) 4 false),
      .ok (.hoistClose 7 6),
      .ok (.binFlush 7 (.off 0x1234)),
      .ok (.binCount 7 (.v 9) (.pair (.v 32))),
      .ok (.rbox 7 (.v 8) (.v 10) (.v 12)),
      .ok (.rtri 7 (.v 8) (.v 16) (.v 12) .front),
      .ok (.rstkPush 7 (.v 10)),
      .ok (.rstkPop 7 (.v 10)),
      .ok (.rstkDepth 7 (.v 11)),
      .ok (.rstkClear 7),
      .ok (.resv 7 (.v 8) (.v 10) (.v 12) .t8 .l64 true false 77),
      .ok (.rfree 7 (.v 10)),
      .ok (.accrd 7 (.v 9) .elem 10 .rz 5 13 true),
      .ok (.seq 7 (.v 10) (.v 12) (.v 14)),
      .ok (.sysrd 7 (.v 3) 130),
      .ok (.syswr 7 (.v 8) 0x2081)] := by rfl

/-- Words of the matrix family, laid out bit by bit from the entries of the spec, and what they stand for. -/
theorem test_words_matrix :
    ([(0x00000000, 0x00000000),
      (0x01000015, 0x00000000),
      (0x0210207A, 0x00000000),
      (0x02642931, 0x802C0A03),
      (0x03880931, 0x00601005),
      (0x04005F5E, 0x00000000),
      (0x0500032C, 0x80140200),
      (0x06000009, 0x00000000),
      (0x0700000A, 0x00000000),
      (0x08006003, 0x00000000),
      (0x09000000, 0x00000000),
      (0x0A0018EA, 0x00000000),
      (0x0B00806F, 0x00000000)] : List (Nat × Nat)).map (fun p => decodeMatrix p.1 p.2) =
     [.ok .mnop,
      .ok (.mzero .f64 5),
      .ok (.mmac false false true false 1 0 15 2 0 0 0),
      .ok (.mmac true true false false 33 18 6 1 0x401 0x302 0x203),
      .ok (.mbin true false false false true 0 18 6 1 3 4 5),
      .ok (.mrenorm 47 true false 11 6),
      .ok (.mexport true 37 4 0x801 0x402),
      .ok (.mwait 9),
      .ok (.msig 10),
      .ok (.mloop 3 false 3),
      .ok .mend,
      .ok (.mphase 99 42),
      .ok (.mstep 0x806 true 7)] := by rfl

/-! ## Ill-formed instructions (R46 to R48, R154, R171 and the entries) -/

/-- Codes: a literal as the first register of a group, an odd pair, two different literals, a literal in a two-word instruction, and the link pair past v119. -/
theorem test_illformed_registers : (.trsp 7 (.v 8) (.lit 5) .n32 : Instr).wf = false ∧ (.iadd64 7 (.v 3) (.v 4) (.v 6) : Instr).wf = false ∧ (.iadd 7 (.v 3) (.lit 1) (.lit 2) : Instr).wf = false
    ∧ (.tern 7 (.v 3) (.lit 1) (.v 2) (.v 3) 0x96 : Instr).wf = false ∧ (.ld 7 (.v 6) (.v 2) false .wg .x16 : Instr).wf = false := by decide +kernel
/-- Fields: BFE past bit 31, FOP of an integer type or with a source it does not read, CONVX with two low bits of H, a block's scale in its data, MOVK64 at an odd place. -/
theorem test_illformed_fields : (.bfe 7 (.v 3) (.v 4) false 20 13 : Instr).wf = false ∧ (.fop 7 (.v 3) (.v 4) (.v 5) false .add .i32 .rn (.v 0) : Instr).wf = false
    ∧ (.fop 7 (.v 3) (.v 4) (.v 5) false .add .f32 .rn (.v 6) : Instr).wf = false ∧ (.fop 7 (.v 3) (.v 4) (.v 5) false .sqrt .f32 .rn (.v 0) : Instr).wf = false
    ∧ (.convx 7 (.v 3) (.v 4) true 1 .e4m3 : Instr).wf = false ∧ (.convb 7 (.v 20) (.v 4) .e4m3 .l32 .rn (.v 20) 0 : Instr).wf = false
    ∧ (.scaleb 7 (.v 20) (.v 4) .f32 .l32 false .rn (.v 21) 0 : Instr).wf = false ∧ (.movk 7 (.v 4) true 1 : Instr).wf = false := by decide +kernel
/-- SRD that clears what does not clear, SWZ with a number beside an index, LRED of f64 bits, SPAWN and HOIST without payload, a gang barrier above 3. -/
theorem test_illformed_control : (.srd 7 (.v 3) true .tilew : Instr).wf = false ∧ (.swz 7 (.v 3) (.v 4) (.v 5) .idx 1 : Instr).wf = false
    ∧ (.lred 7 (.v 4) (.v 6) .f64 .xor .rn : Instr).wf = false ∧ (.lred 7 (.v 4) (.v 6) .i32 .add .rz : Instr).wf = false ∧ (.spawn 7 (.off 4) 5 0 : Instr).wf = false
    ∧ (.bar 7 true 4 : Instr).wf = false := by decide +kernel
/-- Stores of signed sizes, an atomic on f32 bits, a CAS operand where none is read, a reduction of t8, a wait at a narrow scope, an ACCRD format. -/
theorem test_illformed_memory : (.st 7 (.v 8) (.v 6) false .wg .i8 : Instr).wf = false ∧ (.ssp 7 (.v 8) (.v 6) .i16 : Instr).wf = false
    ∧ (.atm 7 (.v 3) (.v 4) (.v 6) .xor .f32 .dev .plain (.v 0) : Instr).wf = false ∧ (.atm 7 (.v 3) (.v 4) (.v 6) .add .i32 .dev .plain (.v 5) : Instr).wf = false
    ∧ (.rdm 7 (.v 4) (.v 6) .add .t8 .dev false : Instr).wf = false ∧ (.monwait 7 (.v 4) (.v 6) .core : Instr).wf = false := by decide +kernel

/-! ## Single instructions; the expected results are those of the spec's examples, or worked out by hand from its rules -/

/-- What a register of the thread in a lane holds after an instruction. -/
def after (i : Instr) (s : State) (lane r : Nat) : Word := match exec i s with
  | .next t => ((t.threads.find? (·.lane == lane)).map (·.val r)).getD 0
  | _ => 0
def flagsAfter (i : Instr) (s : State) (lane : Nat) : Flags := match exec i s with
  | .next t => ((t.threads.find? (·.lane == lane)).map (·.xfl)).getD 0
  | _ => 0
/-- Lanes 0, 1, 2, … with a value each in v1, as tiles of 2^w lanes. -/
def lanesOf (w : Nat) (vs : List (Nat × Word)) : State :=
  let ts := vs.map fun p => { setV (newThread (100 + p.1) 2 3 p.1 ⟨false, 0x600#64, 0#32, [], 0, false, false, none⟩) [(1, p.2), (2, 77)] with logw := w }
  { base with threads := ts, iss := ⟨0, 3, ts, 0x600#64, 0x60C#64, 0, [], [], []⟩ }
/-- R187: sums wrap; IMULH and NMULH take the high word of the signed and of the unsigned product. -/
theorem test_integer : after (.iadd 7 (.v 3) (.v 1) (.v 2)) (issuing (setV th0 [(1, 0xFFFFFFFF#32), (2, 3)])) 0 3 = 2 ∧ after (.isub 7 (.v 3) (.v 1) (.v 2)) (issuing (setV th0 [(1, 1), (2, 3)])) 0 3 = 0xFFFFFFFE#32
    ∧ after (.imulh 7 (.v 3) (.v 1) (.v 2)) (issuing (setV th0 [(1, 0xFFFFFFFF#32), (2, 3)])) 0 3 = 0xFFFFFFFF#32 ∧ after (.nmulh 7 (.v 3) (.v 1) (.v 2)) (issuing (setV th0 [(1, 0xFFFFFFFF#32), (2, 3)])) 0 3 = 2 := by decide +kernel
/-- The example after R192. -/
theorem test_tern : after (.tern 7 (.v 10) (.v 1) (.v 2) (.v 3) 0x96) (issuing (setV th0 [(1, 0xF0), (2, 0xCC), (3, 0xAA)])) 0 10 = 0x96
    ∧ after (.tern 7 (.v 10) (.v 1) (.v 2) (.v 3) 0xE8) (issuing (setV th0 [(1, 0xF0), (2, 0xCC), (3, 0xAA)])) 0 10 = 0xE8 := by decide +kernel
theorem test_fsh : after (.fsh 7 (.v 10) (.v 1) (.v 2) false (.imm 1)) (issuing (setV th0 [(1, 0x80000001#32), (2, 0xC0000000#32)])) 0 10 = 3
    ∧ after (.fsh 7 (.v 10) (.v 1) (.v 2) true (.imm 1)) (issuing (setV th0 [(1, 0x80000001#32), (2, 0xC0000000#32)])) 0 10 = 0xE0000000#32 := by decide +kernel
/-- 2^24 + 1 rounds to even, with NX; 0 times infinity raises NV and gives the canonical NaN, even where the addend is a quiet NaN (R193). -/
theorem test_float : after (.faddF32 7 (.v 3) (.v 1) (.v 2)) (issuing (setV th0 [(1, 0x4B800000#32), (2, 0x3F800000#32)])) 0 3 = 0x4B800000#32
    ∧ flagsAfter (.faddF32 7 (.v 3) (.v 1) (.v 2)) (issuing (setV th0 [(1, 0x4B800000#32), (2, 0x3F800000#32)])) 0 = fNX
    ∧ flagsAfter (.fmaF32 7 (.v 3) (.v 1) (.v 2)) (issuing (setV th0 [(1, 0), (2, 0x7F800000#32), (3, 0x7FC00000#32)])) 0 = fNV := by decide +kernel
/-- The examples after R86 and R211. -/
def eight : List (Nat × Word) := [(0, 3), (1, 1), (3, 1), (4, 5), (5, 9), (6, 2), (7, 6)]
theorem test_lscan : ([0, 1, 3, 4, 5, 6, 7].map fun l => after (.lscan 7 (.v 2) (.v 1) false .i32 .add .rn) (lanesOf 3 eight) l 2) = [3, 4, 5, 10, 19, 21, 27]
    ∧ ([0, 1, 3, 4, 5, 6, 7].map fun l => after (.lscan 7 (.v 2) (.v 1) true .i32 .add .rn) (lanesOf 3 eight) l 2) = [0, 3, 4, 5, 10, 19, 21] := by decide +kernel
theorem test_lred : ([0, 7].map fun l => after (.lred 7 (.v 2) (.v 1) .i32 .add .rn) (lanesOf 3 eight) l 2) = [27, 27]
    ∧ after (.lred 7 (.v 2) (.v 1) .f32 .add .rn) (lanesOf 2 [(0, 0x4B800000#32), (1, 0x3F800000#32), (2, 0x3F800000#32), (3, 0xCB800000#32)]) 3 2 = 0x3F800000#32 := by decide +kernel
/-- The example after R84: a block of e4m3 and one of t8. -/
def blk : List FVal := [decodeF .f32 0x43960000, decodeF .f32 0x3F800000, decodeF .f32 0xB8D1B717, decodeF .f32 0]
theorem test_block : blockScale .e4m3 blk = (127, false) ∧ blk.map (fun x => (blockElem .e4m3 .rn 127 false 0 x).1) = [0x79, 0x38, 0x80, 0x00]
    ∧ blockScale .t8 blk = (135, false) ∧ blk.map (fun x => (blockElem .t8 .rn 135 false 0 x).1) = [0x43, 0x04, 0x00, 0x00]
    ∧ (blockElem .e4m3 .rn 127 false 0 (decodeF .f32 0xB8D1B717)).2 = fUF ||| fNX := by decide +kernel
/-- The example after R216: fine DERX over a pixel quad. -/
def quad : List (Nat × Word) := [(0, 0x3F800000#32), (1, 0x40400000#32), (2, 0x40000000#32), (3, 0x40E00000#32)]
def sQuad : State := let s := lanesOf 5 quad; let ts := s.threads.map fun t => { t with pixel := true }; { s with threads := ts, iss := { s.iss with lanes := ts } }
theorem test_derivatives : ([0, 1, 2, 3].map fun l => after (.derx 7 (.v 2) (.v 1) false) sQuad l 2) = [0x40000000#32, 0x40000000#32, 0x40A00000#32, 0x40A00000#32]
    ∧ ([0, 3].map fun l => after (.dery 7 (.v 2) (.v 1) true) sQuad l 2) = [0x3F800000#32, 0x3F800000#32] := by decide +kernel
/-- The example after R290, and the origin moved onto an edge. -/
def triB : List Byte := [0xBF800000, 0xBF800000, 0x40000000, 0x3F800000, 0xBF800000, 0x40000000, 0, 0x3F800000, 0x40000000].flatMap (bytesOf 4)
theorem test_rtri : rtriResult [0, 0, 0, 0, 0, 0x3F800000#32, 0, 0x42C80000#32] triB .none = [0x40000000#32, 0x3E800000#32, 0x3F000000#32, 1]
    ∧ rtriResult [0x3F000000#32, 0, 0, 0, 0, 0x3F800000#32, 0, 0x42C80000#32] triB .none = [0x40000000#32, 0x3F000000#32, 0x3F000000#32, 1] := by decide +kernel
/-- The example after R293: XCAUSE in a handler that entered on POISON_CONSUMED at slot 1. -/
theorem test_sysrd : after (.sysrd 7 (.v 3) 130) (issuing { th0 with trap := ⟨0x600#64, true, 1, 1, 3, 0, 0, Rep.none⟩ }) 0 3 = 0x80001103#32 := by decide +kernel

/-! ## States and operands that meet the hypotheses of the statements -/

/-! ## Hypotheses that are met -/

/-- v2 = 7, v3 = 1, v4 = 40, v5 = 2, and a double of 1.0 in v6:v7 and v8:v9. -/
def tA : Thread := setV th0 [(2, 7), (3, 1), (4, 40), (5, 2), (7, 0x3FF00000), (9, 0x3FF00000), (12, 0x3F800000)]
def sA : State := issuing tA

/-- Every instruction of IntegerResults may issue in `sA` and reads no poison; so may those of the three statements after it. -/
theorem wit_IntegerResults : ∀ i ∈ ([.iadd 7 (.v 10) (.v 4) (.v 5), .isub 7 .zero (.v 4) (.lit 3), .imul 0 (.v 10) .lane (.v 5), .imulh 7 (.v 10) (.v 4) (.v 5),
      .nmulh 7 (.v 10) (.v 4) (.v 5), .ima 7 (.v 10) (.v 4) (.v 5), .imin 7 (.v 10) (.v 4) (.v 5), .imax 7 (.v 10) (.v 4) (.v 5), .nmin 7 (.v 10) (.v 4) (.v 5),
      .nmax 7 (.v 10) (.v 4) (.v 5), .isad 7 (.v 10) (.v 4) (.v 5), .iadd64 7 (.v 118) (.v 4) (.v 6), .isub64 7 (.v 10) (.v 4) (.v 6), .imul64 7 (.v 10) (.v 4) (.v 6),
      .imaw 7 (.v 10) (.v 4) (.v 5), .nmaw 7 (.v 10) (.v 4) (.v 5)] : List Instr),
    (sA.issueCause i = none ∧ (sA.iss.lanes.map (·.uid)).Nodup) ∧ ∀ t ∈ sA.acting 7, i.srcs.any t.opPois = false := by decide +kernel

theorem wit_BitResults : ∀ i ∈ ([.and 7 (.v 10) (.v 4) (.v 5), .or 7 (.v 10) (.v 4) (.v 5), .xor 7 (.v 10) (.v 4) (.v 5), .andn 7 (.v 10) (.v 4) (.v 5),
      .shl 7 (.v 10) (.v 4) (.lit 32), .shr 7 (.v 10) (.v 4) (.lit 31), .sar 7 (.v 10) (.v 4) (.lit 0xFFFFFFFF), .sel 7 (.v 10) (.v 4) (.v 5),
      .pcnt 7 (.v 10) (.v 6) true, .clz 7 (.v 10) (.v 6) true, .brev 7 (.v 10) (.v 6) true, .pcnt 7 (.v 10) (.v 5) false, .clz 7 (.v 10) .zero false,
      .brev 7 (.v 10) (.v 5) false, .tern 7 (.v 10) (.v 2) (.v 3) (.v 4) 0x96, .fsh 7 (.v 10) (.v 2) (.v 3) true (.imm 31), .fsh 7 (.v 10) (.v 2) (.v 3) false (.reg (.v 4)),
      .bfe 7 (.v 10) (.v 2) true 0 0, .bfe 7 (.v 10) (.v 2) false 31 1, .bfi 7 (.v 10) (.v 2) 0 0, .bfi 7 (.v 10) (.v 2) 31 1, .bperm 7 (.v 10) (.v 2) (.v 3) (.v 4)] : List Instr),
    (sA.issueCause i = none ∧ (sA.iss.lanes.map (·.uid)).Nodup) ∧ ∀ t ∈ sA.acting 7, i.srcs.any t.opPois = false := by decide +kernel

theorem wit_FloatResults : ∀ i ∈ ([.faddF32 7 (.v 10) (.v 4) (.v 5), .fsubF32 7 (.v 10) (.v 4) (.v 5), .fmulF32 7 (.v 10) (.v 4) (.v 5), .fmaF32 7 (.v 10) (.v 4) (.v 5),
      .fminF32 7 (.v 10) (.v 4) (.v 5), .fmaxF32 7 (.v 10) (.v 4) (.v 5), .faddH2 7 (.v 10) (.v 4) (.v 5), .fmulH2 7 (.v 10) (.v 4) (.v 5), .fmaH2 7 (.v 10) (.v 4) (.v 5),
      .faddB2 7 (.v 10) (.v 4) (.v 5), .fmulB2 7 (.v 10) (.v 4) (.v 5), .fmaB2 7 (.v 10) (.v 4) (.v 5), .dadd 7 (.v 10) (.v 6) (.v 8), .dmul 7 (.v 10) (.v 6) (.v 8),
      .dfma 7 (.v 10) (.v 6) (.v 8), .fdot2 7 (.v 10) (.v 4) (.v 5), .idot4 7 (.v 10) (.v 4) (.v 5), .fsf 7 (.v 10) (.v 12) .rcp,
      .fop 7 (.v 10) (.v 4) (.v 5) false .fma .f32 .dith (.v 12), .fop 7 (.v 10) (.v 6) (.v 8) false .div .f64 .rz (.v 0), .fop 7 (.v 10) (.v 4) (.v 5) true .add .f16 .ru (.v 0),
      .frnd 7 (.v 10) (.v 6) true .f64 .rn, .frnd 7 (.v 10) (.v 12) false .h2 .rna, .conv 7 (.v 10) (.v 12) .f32 .i64 .rd, .convx 7 (.v 10) (.v 12) true 2 .t8,
      .convx 7 (.v 10) (.v 12) false 3 .e4m3, .fclass 7 (.v 10) (.v 6) true] : List Instr),
    (sA.issueCause i = none ∧ (sA.iss.lanes.map (·.uid)).Nodup) ∧ ∀ t ∈ sA.acting 7, i.srcs.any t.opPois = false := by decide +kernel

theorem wit_MoveResults : ∀ i ∈ ([.mov 7 (.v 119) (.v 4) false, .mov 7 (.v 118) (.v 4) true, .movi 7 (.v 10) 0x3FFF, .movhi 7 (.v 10) 1, .movk 7 (.v 10) false 31,
      .movk 7 (.v 10) true 30] : List Instr),
    (sA.issueCause i = none ∧ (sA.iss.lanes.map (·.uid)).Nodup) ∧ ∀ t ∈ sA.acting 7, i.srcs.any t.opPois = false := by decide +kernel

theorem wit_CompareResults : ∀ i ∈ ([.icmp 7 true .lt 6 (.v 4) (.v 6), .icmp 7 false .ntst 7 (.v 4) (.v 5), .fcmp 7 .un 0 (.v 12) (.v 4), .dcmp 7 .gt 1 (.v 6) (.v 8),
      .plop 7 2 3 7 0b1000] : List Instr),
    (sA.issueCause i = none ∧ (sA.iss.lanes.map (·.uid)).Nodup) ∧ ∀ t ∈ sA.acting 7, i.srcs.any t.opPois = false := by decide +kernel

theorem wit_LaneResults : (5 : Nat) ≤ 5 ∧ (∀ t ∈ sA.active 7, t.logw = 5) ∧ sA.canIssue (.swz 7 (.v 10) (.v 4) (.v 5) .idx 0) ∧ sA.canIssue (.swz 7 (.v 10) (.v 4) (.v 0) .up 31)
    ∧ sA.canIssue (.vote 7 (.v 10) 7 .ballot) ∧ sA.canIssue (.lred 7 (.v 10) (.v 4) .i32 .add .rn) ∧ sA.canIssue (.lscan 7 (.v 10) (.v 4) true .f32 .max .rn)
    ∧ (∀ t ∈ sA.active 7, t.opPois (.s (.v 4)) = false ∧ t.opPois (.s (.v 5)) = false) ∧ (∀ t ∈ sA.active 7, t.opPois (.sw false (.v 4)) = false) := by decide +kernel

theorem wit_BlockResults : sA.canIssue (.trsp 7 (.v 16) (.v 24) .n8) ∧ (∀ t ∈ sA.active 7, t.opPois (.sg 8 1 (.v 24)) = false)
    ∧ sA.canIssue (.scaleb 7 (.v 16) (.v 24) .t8 .l128 true .rn (.v 20) 0) ∧ sA.canIssue (.convb 7 (.v 16) (.v 24) .t6 .l32 .dith (.v 20) 127)
    ∧ (∀ t ∈ sA.active 7, t.opPois (.sg (scalebRegs .l128) 1 (.v 24)) = false ∧ t.lane < 32) ∧ (∀ t ∈ sA.active 7, t.opPois (.sg (convbRegs .l32) 1 (.v 24)) = false ∧ t.lane < 32)
    ∧ sA.canIssue (.derx 7 (.v 10) (.v 12) true) ∧ sA.canIssue (.dery 7 (.v 10) (.v 12) false) ∧ ∀ t ∈ sA.iss.lanes, t.opPois (.s (.v 12)) = false := by decide +kernel

theorem wit_SpecialResults : (∀ i ∈ ([.nop 0, .part 7 5, .srd 7 (.v 10) true .xflags, .time 7 (.v 10), .yield 7 63, .rep 1 2 3 31, .txctlTest 7 (.v 10), .wait 7 0 7 0 0] : List Instr),
      sA.issueCause i = none ∧ (sA.iss.lanes.map (·.uid)).Nodup)
    ∧ ∀ t ∈ sA.acting 7, ((0 : BitVec 3) = 7 ∨ t.cntL ≤ (0 : BitVec 3).toNat) ∧ ((7 : BitVec 3) = 7 ∨ t.cntS ≤ (7 : BitVec 3).toNat)
      ∧ ((0 : BitVec 3) = 7 ∨ t.cntC ≤ (0 : BitVec 3).toNat) ∧ ((0 : BitVec 3) = 7 ∨ t.cntT ≤ (0 : BitVec 3).toNat) := by decide +kernel

/-- v20:v21 = 0x618, a packet address below 2^52; v22:v23 at 2^52; v24:v25 = 0x61C, no packet address; the link pair 0x624. -/
def tB : Thread := setV th0 [(20, 0x618), (23, 0x100000), (24, 0x61C), (118, 0x624)]
def sB : State := issuing tB
theorem wit_BranchResults_transfer : sB.iss.pc.toNat < 2 ^ 52 ∧ sB.canIssue (.jmp 7 0x100000) ∧ sB.canIssue (.call 7 1) ∧ sB.canIssue (.jmpx 7 (.v 20) true)
    ∧ (∀ t ∈ sB.acting 7, t.opPois (.s2 (.v 20)) = false ∧ (sB.src2 t (.v 20)).toNat < 2 ^ 52 ∧ (sB.src2 t (.v 20)).toNat % 12 = 0)
    ∧ sB.canIssue (.ret 7) ∧ (∀ t ∈ sB.acting 7, t.opPois (.s2 (.v 118)) = false ∧ (sB.src2 t (.v 118)).toNat < 2 ^ 52 ∧ (sB.src2 t (.v 118)).toNat % 12 = 0) := by decide +kernel
theorem wit_BranchResults_trap : sB.mayTrap tB 0x900 ∧ (sB.alone (.jmpx 7 (.v 22) false) 7 tB ∧ tB.opPois (.s2 (.v 22)) = false ∧ (sB.src2 tB (.v 22)).toNat ≥ 2 ^ 52)
    ∧ sB.alone (.jmpx 7 (.v 24) true) 7 tB ∧ tB.opPois (.s2 (.v 24)) = false ∧ (sB.src2 tB (.v 24)).toNat < 2 ^ 52 ∧ (sB.src2 tB (.v 24)).toNat % 12 ≠ 0 := by decide +kernel

def tIn : Thread := { th0 with trap := ⟨0x618, true, 2, 0, 1, 0, 0, Rep.none⟩ }
theorem wit_TrapResults : (issuing th0).alone (.trap 7 0x3FFF) 7 th0 ∧ (issuing th0).mayTrap th0 0x900 ∧ (issuing th0).alone (.brk 7 0) 7 th0
    ∧ ((issuing th0).rreg ((issuing th0).issAsid / 64) (0x500 + (issuing th0).issAsid % 64)).getLsbD 0 = false
    ∧ ({ issuing th0 with regs := [(0x500, 1#32)] } : State).alone (.brk 7 0) 7 th0
    ∧ (({ issuing th0 with regs := [(0x500, 1#32)] } : State).rreg 0 0x500).getLsbD 0 = true
    ∧ (issuing tIn).alone (.trap 7 0) 7 tIn ∧ tIn.tx = none ∧ tIn.trap.inh = true
    ∧ ({ issuing th0 with launches := [{ loadLaunch 1 with trap := none }] } : State).alone (.trap 7 0) 7 th0 ∧ th0.tx = none ∧ th0.trap.inh = false
    ∧ (({ issuing th0 with launches := [{ loadLaunch 1 with trap := none }] } : State).launchOfWg th0.wg).bind (·.trap) = none
    ∧ (issuing tIn).alone (.rett 7) 7 tIn ∧ tIn.trap.xpc.toNat % 12 = 0 ∧ tIn.trap.rslot < 3 ∧ tIn.log = [] ∧ (issuing th0).alone (.rett 7) 7 th0 := by decide +kernel

/-- An odd pair is no instruction (1); a register above the launch's count is out of range (2). -/
def sSmall : State := { issuing th0 with launches := [{ loadLaunch 1 with regs := 16 }] }
theorem wit_TrapResults_words : (Instr.forThreads (.iadd64 7 (.v 4) (.v 5) (.v 6)) = true ∧ sSmall.issueCause (.iadd64 7 (.v 4) (.v 5) (.v 6)) = some 1)
    ∧ (Instr.forThreads (.iadd 7 (.v 16) (.v 5) (.v 6)) = true ∧ sSmall.issueCause (.iadd 7 (.v 16) (.v 5) (.v 6)) = some 2) ∧ sSmall.apart
    ∧ ∀ t ∈ sSmall.iss.lanes, sSmall.thr? t.uid = some t ∧ sSmall.mayTrap t 0x900 := by decide +kernel

/-- v4 is owned by an entry of the replay log, v6 is unrecoverable; the logs of the other two have 63 and 64 derived entries. -/
def tPois : Thread := (setV th0 [(5, 7), (8, 0x600)]).setReg 4 9 (.owned 77 1)
def tLost : Thread := tPois.setReg 6 0 .lost
def derivedLog (n : Nat) : List LogEntry := (List.range n).map fun k => ⟨1000 + k, .nop 7, .derived 0 []⟩
def tLog (n : Nat) : Thread := { tPois with log := derivedLog n }
theorem wit_PoisonResults_consume : (∀ i ∈ ([.icmp 7 false .eq 1 (.v 5) (.v 4), .ssp 7 (.v 4) (.v 5) .n32, .spawn 7 (.pair (.v 4)) 0 0, .seq 7 (.v 8) (.v 5) (.v 4), .rstkPush 7 (.v 4),
      .syswr 7 (.v 4) 0x80, .st 7 (.v 4) (.v 8) false .dev .n32, .rdm 7 (.v 8) (.v 4) .add .f32 .fab false] : List Instr),
      (issuing tPois).alone i 7 tPois ∧ ∃ os, Instr.consumes i = some (7, os) ∧ os.any tPois.opPois = true)
    ∧ (issuing tPois).mayTrap tPois 0x900 ∧ tPois.helper = false ∧ isEnsign ((issuing tPois).coreOf tPois.wg) = false ∧ tPois.tx = none ∧ tPois.lane < 32
    ∧ (issuing tPois).seqFull tPois.wg = false ∧ ∀ o ∈ (issuing tPois).ops, ∀ x ∈ o.lanes, x.uid ≠ tPois.uid := by
  refine ⟨?_, by decide +kernel⟩
  intro i h
  simp only [List.mem_cons, List.not_mem_nil, or_false] at h
  rcases h with rfl | rfl | rfl | rfl | rfl | rfl | rfl | rfl <;> exact ⟨by decide +kernel, _, rfl, by decide +kernel⟩
theorem wit_PoisonResults_queue : (bound 3 ⟨.copy, 0, []⟩ tPois).alone (.qput 7 (.v 4) 3) 7 tPois ∧ ((bound 3 ⟨.copy, 0, []⟩ tPois).qbOf tPois.wg 3).port = .copy
    ∧ (bound 3 ⟨.hoistout, 0, []⟩ tPois).alone (.hoist 7 3 0 (.v 4) (.off 1) 0 false) 7 tPois ∧ ((bound 3 ⟨.hoistout, 0, []⟩ tPois).qbOf tPois.wg 3).port = .hoistout
    ∧ (bound 3 ⟨.copy, 0, []⟩ tPois).mayTrap tPois 0x900 ∧ (bound 3 ⟨.hoistout, 0, []⟩ tPois).mayTrap tPois 0x900 ∧ tPois.helper = false ∧ tPois.tx = none
    ∧ tPois.opPois (.s (.v 4)) = true := by decide +kernel
theorem wit_PoisonResults_compute : Instr.computes (.iadd 7 (.v 10) (.v 5) (.v 6)) = some (7, .v 10, false) ∧ (issuing tLost).alone (.iadd 7 (.v 10) (.v 5) (.v 6)) 7 tLost
    ∧ anyLost tLost (Instr.srcs (.iadd 7 (.v 10) (.v 5) (.v 6))) = true ∧ Instr.computes (.iadd64 7 (.v 10) (.v 4) (.v 8)) = some (7, .v 10, true)
    ∧ (∀ n ∈ [63, 64], (issuing (tLog n)).alone (.iadd64 7 (.v 10) (.v 4) (.v 8)) 7 (tLog n) ∧ (issuing (tLog n)).mayTrap (tLog n) 0x900
      ∧ (Instr.srcs (.iadd64 7 (.v 10) (.v 4) (.v 8))).any (tLog n).opPois = true ∧ anyLost (tLog n) (Instr.srcs (.iadd64 7 (.v 10) (.v 4) (.v 8))) = false
      ∧ ((tLog n).log.filter (·.isDerived)).length = n) := by decide +kernel
theorem wit_PoisonResults_block : (issuing tPois).alone (.scaleb 7 (.v 16) (.v 4) .t8 .l128 true .rn (.v 20) 0) 7 tPois ∧ (issuing tPois).alone (.convb 7 (.v 16) (.v 4) .t6 .l32 .rn (.v 20) 127) 7 tPois
    ∧ (issuing tPois).active 7 = [tPois] ∧ tPois.lane < 32 ∧ tPois.trap.inh = false ∧ (tPois.log.filter (·.isDerived)).length < 64
    ∧ tPois.opPois (blkOpnd (.v 4) (scalebRegs .l128)) = true ∧ anyLost tPois [blkOpnd (.v 4) (scalebRegs .l128)] = false
    ∧ tPois.opPois (blkOpnd (.v 4) (convbRegs .l32)) = true ∧ anyLost tPois [blkOpnd (.v 4) (convbRegs .l32)] = false := by decide +kernel

/-- v4 holds −1 and v5 2^31; the others 0. -/
def tCnv : Thread := setV th0 [(4, 0xFFFFFFFF#32), (5, 0x80000000#32)]
def sCnv : State := issuing tCnv
theorem wit_IntegerConversions : (∀ t ∈ [Ty.i8, .n8, .i16, .n16, .i32, .n32, .i64, .n64], Ty.isInt t = true) ∧ sCnv.canIssue (.conv 7 (.v 8) (.v 4) .i32 .n8 .rn)
    ∧ (∀ t ∈ sCnv.acting 7, ([.sw false (.v 4)] : List Opnd).any t.opPois = false) ∧ intOf .i32 (sCnv.src tCnv (.v 5)).toNat < -(2 ^ 7) := by decide +kernel

/-- v4:v5 = 0x700, aligned; v6:v7 = 0x701; v8:v9 = 2^52; v10 = 16, v12 = 0x70000 local addresses,
v15 = 0x11000000 in the gang window; v14 = 5. -/
def tM : Thread := setV th0 [(4, 0x700), (6, 0x701), (9, 0x100000), (10, 16), (12, 0x70000), (14, 5), (15, 0x11000000)]
def sM : State := issuing tM
def sHelp : State := issuing { tM with helper := true }

theorem wit_GlobalAccessIssue : (∀ i ∈ ([.ld 7 (.v 20) (.v 4) true .dev .x16, .st 7 (.v 14) (.v 4) true .sys .n32, .atm 7 (.v 20) (.v 4) (.v 14) .cas .n32 .dev .ar (.v 16),
      .atm 7 .zero (.v 4) (.v 16) .add .n64 .core .plain (.v 0), .rdm 7 (.v 4) (.v 14) .add .f32 .fab false, .vbmin 7 (.v 4) (.v 16), .cpltest 7 (.v 20) (.v 4) .sys,
      .rbox 7 (.v 20) (.v 24) (.v 4), .rtri 7 (.v 20) (.v 24) (.v 4) .front, .ldlod 7 (.v 20) (.v 4) (.v 16) 15 false .zero 4, .sample 7 (.v 20) (.v 4) (.v 16) .single true .zero] : List Instr),
      sM.issueCause i = none ∧ (sM.iss.lanes.map (·.uid)).Nodup)
    ∧ (∀ t ∈ sM.acting 7, (∀ o ∈ ([.s2 (.v 4), .s (.v 14), .sw true (.v 16), .s2 (.v 16), .sg 8 1 (.v 24), .s .zero] : List Opnd), t.opPois o = false)
      ∧ t.cnt .l < 63 ∧ t.cnt .s < 63 ∧ t.cnt .t < 63 ∧ (sM.src2 t (.v 4)).toNat % 64 = 0 ∧ (sM.src2 t (.v 4)).toNat < 2 ^ 52 ∧ t.tx.isSome = false)
    ∧ (sHelp.acting 7).filter (fun t => !t.helper) = [] ∧ (sM.acting 7).filter (fun t => !t.helper) = [tM] := by decide +kernel

/-- A thread in a revocable transaction that has touched nothing yet. -/
def tTxn : Thread := { tM with tx := some ⟨0x660#64, [], []⟩ }
def sTxn : State := issuing tTxn
def txLd : (Except TxAbort (List Byte)) × State := sTxn.txLoad tTxn ⟨0x660#64, [], []⟩ 0 0 0x700 4 .dev
def txSt : Option TxAbort × State := sTxn.txStore tTxn ⟨0x660#64, [], []⟩ 0 0 0x700 ((bytesOfWords [5#32]).take 4) fun _ => true
theorem reachTx : tTxn.mayReach 4 .dev (sTxn.src2 tTxn (.v 4)) := by decide +kernel
theorem txLd_ok : txLd = (.ok (bytesOf 4 0), txLd.2) := Prod.ext (by decide +kernel) rfl
theorem wit_GlobalAccessIssue_tx : sTxn.alone (.ld 7 (.v 20) (.v 4) true .dev .n32) 7 tTxn ∧ sTxn.alone (.st 7 (.v 14) (.v 4) false .dev .n32) 7 tTxn
    ∧ tTxn.st.irrev = false ∧ sTxn.ops = [] ∧ tTxn.opPois (.s2 (.v 4)) = false ∧ tTxn.helper = false ∧ tTxn.opPois (Size.src .n32 (.v 14)) = false
    ∧ tTxn.cntL < 63 ∧ tTxn.cntS < 63 ∧ (sTxn.src2 tTxn (.v 4)).toNat = 0x700
    ∧ (match txLd.1 with | .ok bs => bs == bytesOf 4 0 | .error _ => false) = true ∧ txSt.1 = none := by decide +kernel

/-- The same with 0x700 of the bunting, and the operations that join it: each reaches the bunting and aborts it, and none does in plain memory. -/
def sTxB : State := { sTxn with tlb := [⟨0, 0, 30, 0, 0, 2 ^ 40, true, true, true, true⟩] }
def joinOf (i : Instr) (cls : OpClass) (ws : List Word) (p : Bool) (b : DWord) : Op :=
  ⟨0, i, 0, sTxn.issWg, 0, cls, sTxn.iss.slot, [], [{ sTxn.laneAt tTxn 0x700 with data := ws, tx := true, pois := p, addr2 := b }]⟩
def joins : List Op := [joinOf (.rdm 7 (.v 4) (.v 14) .add .n32 .dev true) .s [5] false 0, joinOf (.vbmin 7 (.v 4) (.v 16)) .s [0, 0] false 0,
  joinOf (.cpltest 7 (.v 20) (.v 4) .dev) .l [] false 0, joinOf (.rbox 7 (.v 20) (.v 24) (.v 4)) .t (List.replicate 8 0) false 0,
  joinOf (.rtri 7 (.v 20) (.v 24) (.v 4) .front) .t (List.replicate 8 0) false 0, joinOf (.ldlod 7 (.v 20) (.v 4) (.v 4) 15 false .zero 4) .l [] false 0x700,
  joinOf (.sample 7 (.v 20) (.v 4) (.v 4) .single true .zero) .l [0] false 0x700]
def abortOf (s : State) (o : Op) : Option TxAbort := match (s.doAccess o (o.lanes.getD 0 (s.laneAt tTxn 0))).1 with | .abort c => some c | _ => none
theorem noAbort_of {r : LaneRes} (h : (match r with | .abort _ => false | _ => true) = true) : ∀ c, r ≠ .abort c := by rintro c rfl; cases h
theorem wit_GlobalAccessIssue_join : tTxn.tx.isSome = true ∧ tTxn.st.irrev = false ∧ tTxn.helper = false ∧ tTxn.cnt .l < 63 ∧ tTxn.cnt .s < 63 ∧ tTxn.cnt .t < 63
    ∧ tTxn.mayReach 64 .dev (sTxn.src2 tTxn (.v 4)) ∧ (∀ os ∈ ([.s2 (.v 4), .s (.v 14), .s2 (.v 16), .sg 8 1 (.v 24), .s .zero] : List Opnd), tTxn.opPois os = false)
    ∧ (∀ o ∈ joins, sTxB.alone o.instr 7 tTxn ∧ sTxn.alone o.instr 7 tTxn ∧ abortOf sTxn o = none ∧ abortOf sTxB o = some 5)
    ∧ sTxB.thr? tTxn.uid = some tTxn ∧ sTxB.inBunting 0 0 0x700 = true := by decide +kernel

theorem wit_LocalAccesses_issue : (∀ i ∈ ([.lsp 7 (.v 20) (.v 10) .x16, .ssp 7 (.v 14) (.v 10) .n8, .atms 7 (.v 20) (.v 10) (.v 14) .xchg .n32 (.v 0)] : List Instr),
      sM.issueCause i = none ∧ (sM.iss.lanes.map (·.uid)).Nodup)
    ∧ ∀ t ∈ sM.acting 7, (∀ o ∈ ([.s (.v 10), .s (.v 14)] : List Opnd), t.opPois o = false) ∧ t.cnt .l < 63 ∧ t.cnt .s < 63 ∧ (sM.src t (.v 10)).toNat % 16 = 0
      ∧ sM.wg? t.wg = some (wgOf sM) ∧ ∀ n ∈ [1, 4, 16], ∀ b : Bool, sM.localPlace (wgOf sM) (sM.src t (.v 10)).toNat n b = .ok (2, false, 16) := by decide +kernel

/-- The scratchpad of the test launch has 4,096 bytes: the last word is inside, the next is not, and nothing lies between the windows. -/
theorem wit_LocalAccesses_place : sM.launch? (wgOf sM).launch = some (launchOf sM) ∧ ((launchOf sM).scratch + 1023) / 1024 * 1024 = 4096
    ∧ sM.localPlace (wgOf sM) 4092 4 false = .ok (2, false, 4092) ∧ sM.localPlace (wgOf sM) 4093 4 false = .error 8
    ∧ sM.localPlace (wgOf sM) 0x60000 4 false = .error 8 ∧ sM.localPlace (wgOf sM) 0x3FFFFC 4 true = .error 8 ∧ sM.localPlace (wgOf sM) 0x800000 1 false = .error 8
    ∧ sM.localPlace (wgOf sM) 0x20000000 1 false = .error 8 := by decide +kernel

/-- The global forms with `a` as their address, the waits, and the local forms. -/
def globalForms (a : Src) : List Instr := [.ld 7 (.v 20) a false .dev .n32, .st 7 (.v 14) a true .dev .n32, .atm 7 (.v 20) a a .cas .i64 .dev .ar (.v 4),
  .rdm 7 a a .add .i64 .dev true, .vbmin 7 a a, .cpltest 7 (.v 20) a .dev, .rbox 7 (.v 20) (.v 24) a, .rtri 7 (.v 20) (.v 24) a .none]
def waitForms (a : Src) : List Instr := [.monwait 7 (.v 14) a .dev, .cplwait 7 (.v 14) a false .dev]
def localForms (a : Src) : List Instr := [.lsp 7 (.v 20) a .n32, .ssp 7 (.v 14) a .n32, .atms 7 (.v 20) a (.v 4) .cas .n32 (.v 4)]
def sEns : State := { sM with wgs := [{ wgOf sM with core := 216 }], iss := { sM.iss with core := 216 } }
theorem wit_AddressTraps_global : sM.mayTrap tM 0x900 ∧ tM.helper = false ∧ tM.tx = none ∧ (sM.src2 tM (.v 6)).toNat % 4 ≠ 0 ∧ (sM.src2 tM (.v 8)).toNat % 64 = 0 ∧ 2 ^ 52 ≤ (sM.src2 tM (.v 8)).toNat
    ∧ (∀ a ∈ ([.v 6, .v 8] : List Src), ∀ i ∈ globalForms a ++ waitForms a, sM.alone i 7 tM)
    ∧ ∀ o ∈ ([.s2 (.v 4), .s2 (.v 6), .s2 (.v 8), .s2 (.v 14), .sg 8 1 (.v 24)] : List Opnd), tM.opPois o = false := by decide +kernel
theorem wit_AddressTraps_local : sEns.mayTrap tM 0x900 ∧ sM.wg? tM.wg = some (wgOf sM) ∧ sEns.wg? tM.wg = some (wgOf sEns)
    ∧ (∀ a ∈ ([.v 14, .v 12, .v 15] : List Src), ∀ i ∈ localForms a, sM.alone i 7 tM) ∧ (∀ i ∈ localForms (.v 15), sEns.alone i 7 tM)
    ∧ (isEnsign (wgOf sEns).core && inWindow (sEns.src tM (.v 15)).toNat) = true ∧ (isEnsign (wgOf sM).core && inWindow (sM.src tM (.v 14)).toNat) = false
    ∧ (sM.src tM (.v 14)).toNat % 4 ≠ 0 ∧ (sM.src tM (.v 12)).toNat % 4 = 0 ∧ (sM.src tM (.v 15)).toNat % 4 = 0
    ∧ ∀ b : Bool, sM.localPlace (wgOf sM) (sM.src tM (.v 12)).toNat 4 b = .error 8 ∧ sM.localPlace (wgOf sM) (sM.src tM (.v 15)).toNat 4 b = .error 9 := by decide +kernel

/-- One operation of `tM` in flight, and the line of 0x700 in the L1 at scope .dev. -/
def laneOf (t : Thread) (a : DWord) : LaneAcc := ⟨t.uid, 0, a, 0, [], 0, none, false, false, none, none, none, false, t.helper, t.tid, 0⟩
def inFlight (o : Op) : State := { sM with ops := [o], threads := [{ tM with cntL := 1, cntS := 1, cntT := 1 }], l1 := [⟨0, 0, 0x700, 0x700, true, .dev, 0, 0, 0, (List.range 128).map (BitVec.ofNat 8)⟩] }
def tF : Thread := { tM with cntL := 1, cntS := 1, cntT := 1 }
def oLsp : Op := ⟨50, .lsp 7 (.v 20) (.v 10) .i8, 0, 2, 0, .l, 0, [], [{ laneOf tM 16 with loc := some (2, false, 16) }]⟩
def oSsp : Op := ⟨50, .ssp 7 (.v 14) (.v 10) .n64, 0, 2, 0, .s, 0, [], [{ laneOf tM 16 with loc := some (2, false, 16), data := [0x12345678#32, 0x9ABCDEF0#32] }]⟩
def oLd : Op := ⟨50, .ld 7 (.v 20) (.v 4) false .dev .x16, 0, 2, 0, .l, 0, [], [laneOf tM 0x710]⟩
def oRtri : Op := ⟨50, .rtri 7 (.v 20) (.v 24) (.v 4) .none, 0, 2, 0, .t, 0, [], [{ laneOf tM 0x700 with data := List.replicate 8 0#32 }]⟩
theorem wit_OperationsPerform : ∀ o ∈ [oLsp, oSsp, oLd, oRtri], o.lanes.length = 1 ∧ (∀ l ∈ o.lanes, l.fault = none ∧ l.held = false ∧ l.ready = none ∧ l.pois = false ∧ (inFlight o).thr? l.uid = some tF ∧ l.tx = false
      ∧ (∀ x ∈ (inFlight o).ops, x = o ∨ (x.id ≠ o.id ∧ x.lanes ≠ [] ∧ ∀ y ∈ x.lanes, y.uid ≠ l.uid)))
    ∧ o ∈ (inFlight o).ops ∧ (inFlight o).ops.Nodup ∧ tF.park = none ∧ (inFlight o).wg? tF.wg = some (wgOf sM) ∧ (wgOf sM).state = .resident
    ∧ (inFlight o).takesCkp o.asid = false ∧ ((inFlight o).l1at o.core o.asid 0x710).isSome = true := by decide +kernel
theorem wit_OperationsPerform_ray : (inFlight oRtri).doAccess oRtri { laneOf tM 0x700 with data := List.replicate 8 0#32 } =
    (.done (match ((inFlight oRtri).doAccess oRtri { laneOf tM 0x700 with data := List.replicate 8 0#32 }).1 with | .done out => out | _ => []), inFlight oRtri) := Prod.ext (by decide +kernel) rfl
/-- Atomics on the scratchpad; and a store, atomics and a reduction of 0x700, at their home with its translation cached, or in the line of the L1. -/
def at700 (i : Instr) (cls : OpClass) (ws : List Word) : Op := ⟨50, i, 0, 2, 0, cls, 0, [], [{ laneOf tM 0x700 with data := ws }]⟩
def oAtms (d : Dst) : Op := ⟨50, .atms 7 d (.v 10) (.v 14) .xchg .n32 (.v 0), 0, 2, 0, if d = .zero then .s else .l, 0, [], [{ laneOf tM 16 with loc := some (2, false, 16), data := [9] }]⟩
def oSt (sc : Scope) : Op := at700 (.st 7 (.v 14) (.v 4) true sc .n64) .s [5, 6]
def oAtm (sc : Scope) (d : Dst) (op : AtomOp) : Op := at700 (.atm 7 d (.v 4) (.v 14) op .i64 sc .ar (.v 16)) (if d = .zero then .s else .l) [5, 6]
def oRdm (ty : Ty) : Op := at700 (.rdm 7 (.v 4) (.v 14) .max ty .dev true) .s [5, 6]
def homed (o : Op) : State := { inFlight o with l1 := [], tlb := [⟨0, 0, 30, 0, 0, 0, true, true, true, true⟩] }
def line700 (o : Op) : L1Line := (inFlight o).l1.getD 0 ⟨0, 0, 0, 0, true, .dev, 0, 0, 0, []⟩
theorem wit_OperationsPerform_write : (∀ o ∈ [oAtms (.v 20), oAtms .zero, oSt .dev, oSt .core, oAtm .clu (.v 20) .cas, oAtm .dev .zero .add, oAtm .wg (.v 20) .min, oRdm .i32, oRdm .n64, oRdm .f32],
      (∀ l ∈ o.lanes, l.fault = none ∧ l.held = false ∧ l.ready = none ∧ l.pois = false ∧ l.tx = false ∧ (inFlight o).thr? l.uid = some tF ∧ (homed o).thr? l.uid = some tF
        ∧ ∀ x ∈ (inFlight o).ops, x = o ∨ (x.id ≠ o.id ∧ x.lanes ≠ [] ∧ ∀ y ∈ x.lanes, y.uid ≠ l.uid))
      ∧ o ∈ (inFlight o).ops ∧ (inFlight o).ops.Nodup ∧ (inFlight o).plain o.asid ∧ (homed o).plain o.asid ∧ (homed o).l1 = [] ∧ (inFlight o).l1 = [line700 o]
      ∧ (line700 o).isAt o.core o.asid 0x700 = true ∧ (line700 o).wr = true ∧ homeOf ((line700 o).pa + 0x700 % 128) = .dram)
    ∧ tF.park = none ∧ (wgOf sM).state = .resident := by decide +kernel
theorem wit_OperationsPerform_maps : ∀ o ∈ [oSt .dev, oAtm .clu (.v 20) .cas, oRdm .n64], ∀ x ∈ [XAcc.store, .atomic], (homed o).maps (clusterOf o.core) o.asid 0x700 x 0x700 := by decide +kernel

/-- As `tM`, with v26:v27 = 2^30, which nothing maps, and v28:v29 = 3. -/
def tW : Thread := setV tM [(26, 0x40000000), (28, 3), (30, 0), (32, 0x700)]
def sW : State := issuing tW
/-- The counter of the completion object at 0x700 is 2. -/
def sC : State := { sW with mem := mputs 0#8 sW.mem 0x700 [2#8] }

/-- The translation of low addresses cached. -/
def sPf : State := { sW with tlb := [⟨0, 0, 30, 0, 0, 0, true, true, true, true⟩] }
theorem wit_WaitResults_prefetch : (∀ b : Bool, sW.alone (.pref 7 (.v 4) b) 7 tW ∧ sW.alone (.pref 7 (.v 8) b) 7 tW ∧ sW.alone (.pref 7 (.v 26) b) 7 tW ∧ sPf.alone (.pref 7 (.v 4) b) 7 tW)
    ∧ 2 ^ 52 ≤ (sW.src2 tW (.v 8)).toNat ∧ tW.opPois (.s2 (.v 4)) = false ∧ (sW.src2 tW (.v 4)).toNat < 2 ^ 52 ∧ tW.opPois (.s2 (.v 26)) = false ∧ (sW.src2 tW (.v 26)).toNat < 2 ^ 52
    ∧ (sW.tlbHit (clusterOf sW.iss.core) sW.issAsid (sW.src2 tW (.v 4)).toNat .load).isNone = true ∧ (sW.tlbHit (clusterOf sW.iss.core) sW.issAsid (sW.src2 tW (.v 26)).toNat .load).isNone = true
    ∧ (sW.xlate (clusterOf sW.iss.core) sW.issAsid (sW.src2 tW (.v 4)).toNat .load true).1 = .ok ⟨0x700, false⟩
    ∧ (match (sW.xlate (clusterOf sW.iss.core) sW.issAsid (sW.src2 tW (.v 26)).toNat .load true).1 with | .error _ => true | .ok _ => false) = true
    ∧ sPf.shadows = [] ∧ sPf.ecc = [] ∧ sPf.l1 = [] := by decide +kernel
theorem wit_WaitResults_cached : sPf.maps (clusterOf sPf.iss.core) sPf.issAsid (sPf.src2 tW (.v 4)).toNat .load 0x700 := by decide +kernel
theorem wit_WaitResults_fence : sW.alone (.fence 7 .full .sys) 7 tW ∧ sW.alone (.fence 7 .acq .core) 7 tW ∧ tW.tx = none ∧ ∀ o ∈ sW.ops, ∀ l ∈ o.lanes, l.uid ≠ tW.uid := by decide +kernel
theorem wit_WaitResults_monwait : sW.alone (.monwait 7 (.v 30) (.v 4) .dev) 7 tW ∧ sW.alone (.monwait 7 (.v 14) (.v 4) .dev) 7 tW ∧ tW.opPois (.s2 (.v 4)) = false
    ∧ tW.opPois (.s (.v 30)) = false ∧ tW.opPois (.s (.v 14)) = false ∧ tW.tx = none ∧ (sW.src2 tW (.v 4)).toNat % 4 = 0 ∧ (sW.src2 tW (.v 4)).toNat < 2 ^ 52
    ∧ (∀ o ∈ sW.ops, ∀ l ∈ o.lanes, l.uid ≠ tW.uid)
    ∧ (sW.waitRead sW.iss.core sW.issAsid (sW.src2 tW (.v 4)).toNat 4 .dev).1 = .ok (0, 0x700) := by decide +kernel
theorem wit_WaitResults_cplwait : sC.alone (.cplwait 7 (.v 28) (.v 4) true .sys) 7 tW ∧ sC.alone (.cplwait 7 (.v 30) (.v 4) false .sys) 7 tW ∧ tW.opPois (.s2 (.v 4)) = false
    ∧ tW.opPois (.s2 (.v 28)) = false ∧ tW.opPois (.s2 (.v 30)) = false ∧ tW.tx = none ∧ (sC.src2 tW (.v 4)).toNat % 16 = 0 ∧ (sC.src2 tW (.v 4)).toNat < 2 ^ 52
    ∧ (∀ o ∈ sC.ops, ∀ l ∈ o.lanes, l.uid ≠ tW.uid)
    ∧ (sC.waitRead sC.iss.core sC.issAsid (sC.src2 tW (.v 4)).toNat 8 .sys).1 = .ok (2, 0x700) := by decide +kernel
/-- Parked waits of words of another device and of this one, in a workgroup that runs and in one that is saved. -/
def tMon (want : Word) : Thread := { tW with park := some (.mon 0x700 (2 ^ 64 + 0x700) want .sys 0 0) }
def tMonHome : Thread := { tW with park := some (.mon 0x700 0x700 1 .sys 0 0) }
def tCpl (want : DWord) : Thread := { tW with park := some (.cpl 0x700 0x700 want .dev false 0 0) }
def parkedIn (t : Thread) : State := { sC with threads := [t] }
def savedIn (t : Thread) : State := { parkedIn t with wgs := [{ wgOf sC with state := .saved }] }
theorem wit_WaitResults_polls : (∀ t ∈ [tMon 0, tMon 1, tMon 2, tMonHome, tCpl 2, tCpl 3], (∀ s ∈ [parkedIn t, savedIn t], s.thr? t.uid = some t ∧ s.threads.filter (fun u => u.gid == t.gid) = [t]
      ∧ Instr.monwaitPoll t.uid ∉ s.agenda ∧ Instr.cplwaitPoll t.uid ∉ s.agenda) ∧ (parkedIn t).runs t.wg = true ∧ (savedIn t).runs t.wg = false ∧ (parkedIn t).coreOf t.wg = 0 ∧ (parkedIn t).asidOf t.wg = 0)
    ∧ homeOf 0x700 ≠ .peer ∧ homeOf 0x700 ≠ .host ∧ homeOf (2 ^ 64 + 0x700) = .host := by decide +kernel
def freshIn (t : Thread) : State := ((parkedIn t).l1Out 0 0 0x700 ((2 ^ 64 + 0x700) / 128 * 128)).rdcDrop ((2 ^ 64 + 0x700) / 128 * 128)
theorem wit_WaitResults_reads : (∀ t ∈ [tMon 1, tMon 2], ((freshIn t).waitRead 0 0 0x700 4 .sys).1 = .ok (2, 0x700))
    ∧ ∀ t ∈ [tCpl 2, tCpl 3], (((parkedIn t).updThr t.uid fun u => { u with park := none }).waitRead 0 0 0x700 8 .dev).1 = .ok (2, 0x700) := by decide +kernel

/-- Transactions: none open, none and eight conflicts behind; the token free and taken; one open, revocable and irrevocable. -/
def t8 : Thread := { th0 with st := { th0.st with conflicts := 8 } }
def tTx (x : Tx) (irrev : Bool) : Thread := { th0 with tx := some x, st := { th0.st with intx := true, irrev := irrev } }
def x0 : Tx := ⟨0x618, [], []⟩
def x1 : Tx := ⟨0x618, [⟨0x700, 0x700, 0, List.replicate 128 1#8⟩], []⟩
def tVal (x : Tx) : Thread := { tTx x false with park := some .txend }
theorem wit_TransactionResults : (issuing th0).alone (.txbegin 7 2) 7 th0 ∧ th0.tx = none ∧ th0.st.conflicts ≠ 8
    ∧ (issuing t8).alone (.txbegin 7 2) 7 t8 ∧ t8.tx = none ∧ t8.st.conflicts = 8 ∧ (∀ p ∈ (issuing t8).tokens, p.1 ≠ (issuing t8).issAsid / 64)
    ∧ ({ issuing t8 with tokens := [(0, 9)] } : State).alone (.txbegin 7 2) 7 t8 ∧ (∃ p ∈ ({ issuing t8 with tokens := [(0, 9)] } : State).tokens, p.1 = 0)
    ∧ (issuing (tTx x0 false)).alone (.txend 7) 7 (tTx x0 false) ∧ (issuing (tTx x0 true)).alone (.txend 7) 7 (tTx x0 true)
    ∧ (∀ o ∈ (issuing th0).ops, ∀ l ∈ o.lanes, l.uid ≠ th0.uid) ∧ (issuing th0).alone (.txctlAbort 7) 7 th0 ∧ (issuing (tTx x0 false)).alone (.txctlAbort 7) 7 (tTx x0 false)
    ∧ (issuing (tTx x0 false)).ops = [] := by decide +kernel
theorem wit_TransactionResults_validation : (∀ x ∈ [x0, x1], (issuing (tVal x)).thr? (tVal x).uid = some (tVal x) ∧ (tVal x).park = some .txend
      ∧ (∀ u ∈ (issuing (tVal x)).threads, u.uid ≠ (tVal x).uid → u.st.irrev = false))
    ∧ (issuing (tVal x0)).txValid ((issuing (tVal x0)).asidOf (tVal x0).wg) x0.reads = (true, ((issuing (tVal x0)).txValid 0 []).2) ∧ x0.writes = [] ∧ (issuing (tVal x0)).l1 = []
    ∧ (issuing (tVal x1)).homeRead ((issuing (tVal x1)).asidOf (tVal x1).wg) 0x700 128 .dev = (List.replicate 128 0#8, ((issuing (tVal x1)).homeRead 0 0x700 128 .dev).2)
    ∧ List.replicate 128 0#8 ≠ List.replicate 128 1#8 := by decide +kernel

/-- Stacks of 8 entries: the depth word of the thread is at 1,728 of its scratchpad; 0, 7 and 8 entries. -/
def withDepth (n : Nat) : State := { sM with wgs := [{ wgOf sM with spad := mputs 0#8 [] (4096 - 32 * (4 + 64)) (bytesOf 4 n) }] }
theorem wit_StackResults : (∀ n ∈ [0, 7, 8], (withDepth n).issLaunch = some (launchOf sM) ∧ (withDepth n).wg? tM.wg = some (wgOf (withDepth n))
      ∧ leNat (mgets 0#8 (wgOf (withDepth n)).spad (4096 - 32 * (4 + 64)) 4) = n) ∧ tM.cntL < 63 ∧ tM.cntS < 63 ∧ (launchOf sM).rstack = 8 ∧ (∀ o ∈ sM.ops, ∀ x ∈ o.lanes, x.uid ≠ tM.uid)
    ∧ (withDepth 7).alone (.rstkPush 7 (.v 4)) 7 tM ∧ (withDepth 8).alone (.rstkPush 7 (.v 4)) 7 tM ∧ tM.opPois (.s2 (.v 4)) = false ∧ (withDepth 8).mayTrap tM 0x900
    ∧ (withDepth 0).alone (.rstkPop 7 (.v 20)) 7 tM ∧ (withDepth 8).alone (.rstkPop 7 (.v 20)) 7 tM ∧ (withDepth 8).alone (.rstkDepth 7 (.v 20)) 7 tM
    ∧ (withDepth 8).alone (.rstkClear 7) 7 tM := by decide +kernel

/-- v14 = 5, v15 = 1, v16 = 2, v17 = 3, v18 = 4, v19 = the first word of a FILL. -/
def tQ : Thread := setV th0 [(14, 5), (15, 1), (16, 2), (17, 3), (18, 4), (19, 0x08000000), (20, 0x618)]
def tQ5 : Thread := tQ.setPartial .copy [0x08000000#32, 8#32, 0x700#32, 0#32, 1#32, 2#32, 3#32]
theorem wit_QueueResults_bind : (∀ b ∈ ([⟨.unbound, 0, []⟩] : List QBind), (bound 3 b tQ).wg? tQ.wg = some (wgOf (bound 3 b tQ))) ∧ tQ.helper = false ∧ tQ.tx = none
    ∧ tQ.opPois (.s .zero) = false ∧ tQ.opPois (.s (.v 14)) = false ∧ (bound 3 .none tQ).alone (.qbind 7 .halyard .zero 15) 7 tQ ∧ (bound 3 .none tQ).src tQ .zero = 0
    ∧ (wgOf (bound 3 .none tQ)).seq = none ∧ (wgOf (bound 3 .none tQ)).cplWords = [] ∧ (bound 3 .none tQ).alone (.qbind 7 .copy (.v 14) 0) 7 tQ ∧ (bound 3 .none tQ).src tQ (.v 14) ≠ 0
    ∧ (bound 3 .none tQ).mayTrap tQ 0x900 := by decide +kernel
theorem wit_QueueResults_put : (bound 3 ⟨.copy, 0, []⟩ tQ).alone (.qput 7 (.v 19) 3) 7 tQ ∧ cmdLen .copy 2 = some 8 ∧ tQ.partial' .copy = []
    ∧ (bound 3 ⟨.copy, 0, []⟩ tQ5).alone (.qput 7 (.v 15) 3) 7 tQ5 ∧ (tQ5.partial' .copy).length = 7 ∧ (∀ o ∈ (bound 3 ⟨.copy, 0, []⟩ tQ5).ops, ∀ l ∈ o.lanes, l.uid ≠ tQ5.uid)
    ∧ tQ5.cntC < 63 ∧ (bound 3 ⟨.copy, 0, []⟩ tQ5).l1 = [] ∧ (bound 3 ⟨.mailbox, 0, []⟩ tQ).alone (.qput 7 (.v 15) 3) 7 tQ
    ∧ (bound 3 ⟨.mailbox, 0, []⟩ tQ).alone (.qput 7 (.v 18) 3) 7 tQ ∧ (bound 3 ⟨.unbound, 0, []⟩ tQ).alone (.qput 7 (.v 18) 3) 7 tQ ∧ (bound 3 ⟨.cpl, 0, []⟩ tQ).alone (.qput 7 (.v 18) 3) 7 tQ
    ∧ (bound 3 ⟨.cpl, 0, []⟩ tQ).mayTrap tQ 0x900 := by decide +kernel
def qCpl : QBind := ⟨.cpl, 0, [(0, 0x31#32), (0, 0x32#32)]⟩
def withNotify (b : QBind) : State := { bound 5 b tQ with wgs := [{ wgOf (bound 5 b tQ) with cplWords := [7#32, 8#32] }] }
theorem wit_QueueResults_get : (bound 5 qCpl tQ).alone (.qget 7 (.v 24) 5) 7 tQ ∧ (wgOf (bound 5 qCpl tQ)).queues[5] = qCpl ∧ (wgOf (bound 5 qCpl tQ)).seq = none
    ∧ (wgOf (bound 5 qCpl tQ)).cplWords = [] ∧ (bound 5 ⟨.cpl, 0, []⟩ tQ).alone (.qget 7 (.v 24) 5) 7 tQ ∧ (bound 4 qCpl tQ).alone (.qget 7 (.v 24) 5) 7 tQ
    ∧ (bound 4 qCpl tQ).mayTrap tQ 0x900 ∧ (∀ k : Fin 16, (wgOf (withNotify ⟨.copy, 0, []⟩)).queues[k].port ≠ .cpl) ∧ (wgOf (withNotify qCpl)).queues[(5 : Fin 16)].port = .cpl
    ∧ (∀ j : Fin 16, j < 5 → (wgOf (withNotify qCpl)).queues[j].port ≠ .cpl) := by decide +kernel
def qOut : QBind := ⟨.hoistout, 63, []⟩
def sShut : State := { bound 2 qOut tQ with hoists := (bound 2 qOut tQ).hoists.set 63 ⟨[], true⟩ }
theorem wit_QueueResults_hoist : (bound 2 qOut tQ).alone (.hoist 7 2 14 (.v 15) (.off 1) 16 false) 7 tQ ∧ (wgOf (bound 2 qOut tQ)).queues[2] = ⟨.hoistout, 63, []⟩
    ∧ (bound 2 qOut tQ).hoists[(63 : Fin 64)].closed = false ∧ (bound 2 qOut tQ).hoists[(63 : Fin 64)].recs.length < 256 ∧ (bound 2 qOut tQ).l1 = []
    ∧ (bound 2 qOut tQ).takesCkp (bound 2 qOut tQ).issAsid = false ∧ ((bound 2 qOut tQ).entryOf tQ (.off 1)).toNat < 2 ^ 52 ∧ ((bound 2 qOut tQ).entryOf tQ (.off 1)).toNat % 12 = 0
    ∧ (bound 2 qOut tQ).alone (.hoistClose 7 2) 7 tQ ∧ (∀ x ∈ (bound 2 qOut tQ).wgs, ∀ k : Fin 16, ¬(x.queues[k].port = .hoistin ∧ x.queues[k].arg = 63))
    ∧ sShut.alone (.hoist 7 2 0 (.v 0) (.pair (.v 20)) 0 true) 7 tQ := by decide +kernel
/-- A record for any consumer, one behind it, and a workgroup bound to take it. -/
def aRec : HoistRec := ⟨none, ⟨false, 0x618#64, 0, [(5, false)], 2, false, false, none⟩, 0⟩
def sInQ : State := { bound 2 ⟨.hoistin, 63, []⟩ tQ with hoists := (bound 2 qOut tQ).hoists.set 63 ⟨[aRec, aRec], false⟩, launches := [{ loadLaunch 1 with rstack := 0 }] }
theorem wit_QueueResults_delivery : sInQ.wg? tQ.wg = some (wgOf sInQ) ∧ sInQ.hoists[(63 : Fin 64)].recs = aRec :: [aRec] ∧ aRec.dest = none ∧ sInQ.wgs = [wgOf sInQ] ∧ (wgOf sInQ).state = .resident
    ∧ (wgOf sInQ).queues[(2 : Fin 16)] = ⟨.hoistin, 63, []⟩ ∧ sInQ.launch? (wgOf sInQ).launch = some { loadLaunch 1 with rstack := 0 } ∧ (wgOf sInQ).ring = [] ∧ sInQ.bins = [] ∧ sInQ.l1 = []
    ∧ sInQ.takesCkp 0 = false ∧ (wgOf sInQ).seq = none ∧ aRec.seed.empty = false ∧ (∃ u ∈ sInQ.threads, u.wg = (wgOf sInQ).id) ∧ (bound 2 qOut tQ).hoists[(63 : Fin 64)].recs = [] := by decide +kernel
/-- A bin of two threads and an empty position. -/
def aBin : Bin := ⟨0, 0, 2, 0x618#64, false, 9, 0, [aRec.seed, aRec.seed, { aRec.seed with empty := true }], none⟩
def sBinQ : State := { issuing tQ with bins := [aBin] }
theorem wit_QueueResults_bin : sBinQ.alone (.binFlush 7 (.off 2)) 7 tQ ∧ sBinQ.alone (.binCount 7 (.v 24) (.pair (.v 20))) 7 tQ ∧ (∀ x ∈ [Target.off 2, .pair (.v 20)],
      x.opnds.any tQ.opPois = false ∧ (sBinQ.entryOf tQ x).toNat = 0x618) ∧ sBinQ.wg? tQ.wg = some (wgOf sBinQ) ∧ tQ.helper = false ∧ tQ.tx = none := by decide +kernel

/-- A launch without traversal stacks, and no sequencer. -/
def sL (ts : List Thread) : State :=
  { issuing (ts.getD 0 th0) with threads := ts, launches := [{ loadLaunch 1 with rstack := 0, isMatrix := false }], wgs := [{ wgOf base with seq := none }] }
def lL : Launch := { loadLaunch 1 with rstack := 0, isMatrix := false }
def tL : Thread := setV th0 [(20, 0x618), (14, 0x12345)]
def tL2 : Thread := { th0 with uid := 8, lane := 1, tid := 1 }
theorem wit_ThreadLifeResults : (∀ ts ∈ [[tL], [tL, tL2]], (sL ts).wg? tL.wg = some (wgOf (sL ts)) ∧ (sL ts).launch? (wgOf (sL ts)).launch = some lL ∧ lL.rstack = 0 ∧ (wgOf (sL ts)).ring = []
      ∧ (wgOf (sL ts)).round = none ∧ (sL ts).ops = [] ∧ (sL ts).l1 = [] ∧ (sL ts).gens = [] ∧ (sL ts).bins = [] ∧ ((sL ts).wgs.map (·.id)).Nodup) ∧ tL.tx = none ∧ tL.helper = false
    ∧ tL.pixel = false ∧ (sL [tL]).alone (.exit 7) 7 tL ∧ (sL [tL, tL2]).alone (.exit 7) 7 tL ∧ (sL [tL]).alone (.spawn 7 (.off 0x7FFF) 104 16) 7 tL ∧ Target.opnds (.off 0x7FFF) = []
    ∧ ((sL [tL]).entryOf tL (.off 0x7FFF)).toNat < 2 ^ 52 ∧ ((sL [tL]).entryOf tL (.off 0x7FFF)).toNat % 12 = 0 ∧ (sL [tL]).alone (.cont 7 (.pair (.v 20)) 15) 7 tL
    ∧ (sL [tL]).contOwn tL (.pair (.v 20)) 15 = none ∧ tL.cntL = 0 ∧ tL.cntT = 0 ∧ (sL [tL]).iss.core = (wgOf (sL [tL])).core ∧ (sL [tL, tL2]).alone (.reorder 7 (.v 14) 120) 7 tL
    ∧ tL.opPois (.s (.v 14)) = false ∧ tL.cntL + tL.cntS + tL.cntC + tL.cntT = 0 ∧ (∃ u ∈ (sL [tL, tL2]).threads, u.wg = tL.wg ∧ u.uid ≠ tL.uid) := by decide +kernel

def sBar (gens : List Gen) : State := { sL [tL, tL2] with gens := gens }
def gWait : Gen := ⟨.wg 2 5, [8, 4], [], [8], false, false⟩
def lG : Launch := { lL with groups := [⟨200, [0], false⟩] }
def sGrp : State := { sL [tL, tL2] with launches := [lG] }
theorem wit_BarrierResults : (sBar []).wg? tL.wg = some (wgOf (sBar [])) ∧ (sBar []).launch? (wgOf (sBar [])).launch = some lL ∧ (sBar []).issWg = tL.wg ∧ tL.tx = none
    ∧ (wgOf (sBar [])).seq = none ∧ (sBar []).ops = [] ∧ (sBar []).l1 = [] ∧ ((sBar []).wgs.map (·.id)).Nodup ∧ (sBar []).alone (.bar 7 false 5) 7 tL ∧ tL2 ∈ (sBar []).threads
    ∧ tL2.wg = tL.wg ∧ tL2.uid ≠ tL.uid ∧ (sBar [gWait]).alone (.bar 7 false 5) 7 tL ∧ (sBar [gWait]).gens = [⟨.wg tL.wg (5 : BitVec 4).toNat, [tL2.uid, tL.uid], [], [tL2.uid], false, false⟩]
    ∧ (sBar [gWait]).thr? tL2.uid = some tL2 ∧ sGrp.alone (.gbar 7 200) 7 tL ∧ sGrp.launch? (wgOf sGrp).launch = some lG
    ∧ lG.groups.find? (fun x => x.index == (200 : BitVec 8).toNat && x.members.contains (wgOf sGrp).index) = some ⟨200, [0], false⟩ ∧ (∀ x ∈ sGrp.wgs, x.state = .resident)
    ∧ wgOf sGrp ∈ sGrp.wgs ∧ lG.id = (wgOf sGrp).launch ∧ (sBar []).alone (.gbar 7 200) 7 tL ∧ (∀ e ∈ lL.groups, e.index = (200 : BitVec 8).toNat → (wgOf (sBar [])).index ∉ e.members)
    ∧ (sBar []).mayTrap tL 0x900 := by decide +kernel

/-- v14: base 0, 32 lines; v15: RL 128, no scales; v16: base beyond the buffer; v18:v19 = 0x700, v20 = 0xFFFF; v21 = 1. -/
def tX : Thread := setV th0 [(14, 32 * 2048), (15, 4), (16, 2000 + 64 * 2048), (18, 0x700), (20, 0xFFFF), (21, 1)]
def someResv (id : Nat) : Resv := ⟨id, 0, 4, .t8, .l32, false, 128, 0, false, 0⟩
def sX (n : Nat) : State := { issuing tX with wgs := [{ wgOf base with resv := (List.range n).map someResv }] }
def qOf (s : State) : Seq := (wgOf s).seq.getD (newSeq 0)
theorem wit_MatrixThreadResults_resv : (∀ n ∈ [0, 63, 64], (sX n).wg? tX.wg = some (wgOf (sX n)) ∧ (sX n).launchOfWg tX.wg = some (loadLaunch 1))
    ∧ (∀ o ∈ ([.s (.v 14), .s (.v 15), .s (.v 16), .s (.v 21), .s2 (.v 14), .s2 (.v 16)] : List Opnd), tX.opPois o = false)
    ∧ (sX 63).alone (.resv 7 (.v 24) (.v 14) (.v 15) .bf16 .l32 false false 127) 7 tX ∧ ((sX 63).src tX (.v 14)).toNat < 2 ^ 23 ∧ ((sX 63).src tX (.v 15)).toNat < 2 ^ 22
    ∧ (loadLaunch 1).obuf = 64 ∧ (∀ x ∈ (wgOf (sX 63)).resv, x.id ≠ 63) ∧ (∀ k ∈ List.range 63, ∃ x ∈ (wgOf (sX 63)).resv, x.id = k)
    ∧ (sX 64).alone (.resv 7 (.v 24) (.v 14) (.v 15) .bf16 .l32 false false 127) 7 tX ∧ (∀ k ∈ List.range 64, ∃ x ∈ (wgOf (sX 64)).resv, x.id = k)
    ∧ (sX 0).alone (.resv 7 (.v 24) (.v 16) (.v 15) .bf16 .l32 false false 127) 7 tX ∧ (sX 0).mayTrap tX 0x900 ∧ (sX 63).alone (.rfree 7 (.v 21)) 7 tX
    ∧ (∃ r ∈ (wgOf (sX 63)).resv, r.id = ((sX 63).src tX (.v 21)).toNat) ∧ (sX 0).alone (.rfree 7 (.v 21)) 7 tX ∧ (∀ r ∈ (wgOf (sX 0)).resv, r.id ≠ ((sX 0).src tX (.v 21)).toNat) := by decide +kernel
def accVal (what : AccSel) (fmt : Nat) (rnd : Rnd) : List Word × Flags := ((qOf (sX 0)).accVal ((qOf (sX 0)).tiles.getD 7 .fresh) what fmt rnd 15 0 true).getD ([], 0)
theorem wit_MatrixThreadResults_seq : (sX 0).alone (.seq 7 (.v 18) (.v 20) (.v 21)) 7 tX ∧ (wgOf (sX 0)).seq = some (qOf (sX 0)) ∧ ((sX 0).src2 tX (.v 18)).toNat < 2 ^ 52
    ∧ ((sX 0).src2 tX (.v 18)).toNat % 4 = 0 ∧ ((sX 0).src tX (.v 20)).toNat < 2 ^ 16 ∧ (qOf (sX 0)).queue.length < 4 ∧ tX.cntT < 63 ∧ tX.opPois (.s2 (.v 18)) = false
    ∧ (sX 0).alone (.accrd 7 (.v 24) .elem 10 .rn 7 15 true) 7 tX ∧ (sX 0).issWg = tX.wg ∧ accBad ((qOf (sX 0)).tiles.getD 7 .fresh) .elem 10 true = false
    ∧ (qOf (sX 0)).accVal ((qOf (sX 0)).tiles.getD 7 .fresh) .elem 10 .rn 15 tX.lane true = some (accVal .elem 10 .rn)
    ∧ (sX 0).alone (.accrd 7 (.v 24) .exp 0 .rn 7 15 false) 7 tX ∧ (sX 0).alone (.accrd 7 (.v 24) .seqpc 0 .rn 0 0 false) 7 tX := by decide +kernel

/-- A running sequencer with an F64 tile 0, an I32 tile 1, a tile 3 in ordered mode with an arrival that waits, and reservations 0 (A) and 2 (f32). -/
def arr0 : Arrival := ⟨0, 2, .mzero .f64 3, 0, 4, [], []⟩
def tilesQ : List Tile := (((List.replicate 8 Tile.fresh).set 0 { Tile.fresh with mode := .f64, rows := List.replicate 16 (TileRow.zero .f64) }).set 1 { Tile.fresh with mode := .i32, rows := List.replicate 16 (TileRow.zero .i32) }).set 3 { Tile.fresh with ordered := true, mask := 1, waiting := [arr0] }
def seqR : Seq := { newSeq 0 with st := .running, cur := some ⟨0x600, 0x8001, 0, 4, 0⟩, pc := 6, tiles := tilesQ }
def resvQ : List Resv := [⟨0, 0, 32, .i8, .l32, false, 64, 0, false, 0⟩, ⟨1, 0, 64, .b1, .l32, false, 1024, 0, false, 0⟩, ⟨2, 32, 32, .f32, .l32, false, 64, 0, false, 0⟩, ⟨3, 0, 8, .f64, .l32, false, 4, 0, false, 0⟩]
def sQ (q : Seq) : State := { issuing th0 with seqWg := 2, wgs := [{ wgOf base with seq := some q, resv := resvQ }], threads := [{ th0 with cntT := 1 }] }
def wQ (q : Seq) : Wg := wgOf (sQ q)
def mmac1 : Instr := .mmac false false false false 3 3 15 0 0 0 0
def applied (t : Nat) (i : Instr) : Tile × Flags :=
  match (wQ seqR).apply seqR ⟨0, 2, i, 0, 4, [], resvQ⟩ { (tilesQ.getD t .fresh) with waiting := [⟨0, 2, i, 0, 4, [], resvQ⟩] } with
  | .ok (x, _, f) => (x, f)
  | .error _ => (.fresh, 0)
theorem wit_TileResults_chunk : ∃ x fl, (wQ seqR).apply seqR ⟨0, (wQ seqR).id, mmac1, seqR.idx, seqR.pc - 2, seqR.loops, (wQ seqR).resv⟩
    { (tilesQ.getD 0 .fresh) with waiting := [⟨0, (wQ seqR).id, mmac1, seqR.idx, seqR.pc - 2, seqR.loops, (wQ seqR).resv⟩] } = .ok (x, 0, fl) := ⟨_, _, rfl⟩
theorem wit_TileResults : (sQ seqR).wg? (sQ seqR).seqWg = some (wQ seqR) ∧ (wQ seqR).seq = some seqR ∧ ((sQ seqR).wgs.map (·.id)).Nodup ∧ (wQ seqR).gang = none ∧ seqR.tiles.length = 8
    ∧ seqR.wait = false ∧ seqR.drop = false ∧ (∀ t ∈ [0, 1, 7], (seqR.tiles.getD t .fresh).ordered = false ∧ (seqR.tiles.getD t .fresh).waiting = [] ∧ (seqR.tiles.getD t .fresh).pos = [])
    ∧ (seqR.tiles.getD 7 .fresh).mode = .bfp48
    ∧ (seqR.tiles.getD 1 .fresh).rows.length = 16 ∧ (∀ r ∈ (seqR.tiles.getD 1 .fresh).rows, r.vals.length = 64) := by decide +kernel

/-- The workgroup holds reservation 2 and not 63. -/
theorem wit_PhaseResults : (sQ seqR).wg? (sQ seqR).seqWg = some (wQ seqR) ∧ (wQ seqR).seq = some seqR ∧ ((sQ seqR).wgs.map (·.id)).Nodup
    ∧ (∃ r ∈ (wQ seqR).resv, r.id = (2 : BitVec 6).toNat) ∧ ∀ r ∈ (wQ seqR).resv, r.id ≠ (63 : BitVec 6).toNat := by decide +kernel
theorem wit_StreamResults : (sQ seqR).wg? (sQ seqR).seqWg = some (wQ seqR) ∧ (wQ seqR).seq = some seqR ∧ seqR.cur = some ⟨0x600, 0x8001, 0, 4, 0⟩ ∧ ((sQ seqR).wgs.map (·.id)).Nodup
    ∧ (∃ r ∈ (wQ seqR).resv, r.id = (2 : BitVec 6).toNat) ∧ (∀ r ∈ (wQ seqR).resv, r.id ≠ (63 : BitVec 6).toNat) ∧ 2 ≤ (2 : BitVec 10).toNat ∧ seqR.loops = []
    ∧ (⟨0x600, 0x8001, 0, 4, 0⟩ : Stream).par = 0 ∧ (⟨0x600, 0x8001, 0, 4, 0⟩ : Stream).mask / 2 ^ (15 : BitVec 4).toNat % 2 = 1 ∧ (sQ seqR).gens = [] ∧ (∃ u ∈ (sQ seqR).threads, u.wg = (wQ seqR).id)
    ∧ seqR.st = .running ∧ seqR.queue = [] ∧ (sQ seqR).thr? 4 = some { th0 with cntT := 1 } ∧ (∀ k : Fin 16, (wQ seqR).queues[k].port ≠ .mailbox)
    ∧ (wQ seqR).resv.find? (fun r => r.id == (2 : BitVec 6).toNat) = some (resvQ.getD 2 (someResv 0)) ∧ (resvQ.getD 2 (someResv 0)).covers 0 16 0 64 = true ∧ (seqR.tiles.getD 1 .fresh).mode ≠ .f64 := by decide +kernel

def seqOf (st : SeqState) (queue : List Stream) (wait : Bool) : Seq := { seqR with st := st, queue := queue, wait := wait, cur := if st = .idle then none else seqR.cur }
theorem wit_SequencerEvents : (∀ q ∈ [seqOf .trapped [] false, seqOf .running [] false, seqOf .idle [⟨0x700, 1, 9, 4, 0⟩] false, seqOf .stalled [] true],
      (sQ q).wg? (wQ q).id = some (wQ q) ∧ (wQ q).seq = some q ∧ ((sQ q).wgs.map (·.id)).Nodup ∧ (sQ q).gens = [] ∧ (sQ q).thr? 4 = some { th0 with cntT := 1 }
      ∧ ∀ k : Fin 16, (wQ q).queues[k].port ≠ .mailbox)
    ∧ (seqOf .stalled [] true).tiles[3]? = some { Tile.fresh with ordered := true, mask := 1, waiting := [arr0] } ∧ arr0.instr = .mzero .f64 3 ∧ arr0.wg = (wQ seqR).id := by decide +kernel

/-- Memory with two bytes, an L1 line with one dirty byte, a narrow clean line and a tracked one. -/
def sMem : State := { issuing th0 with mem := mputs 0#8 [] 0x700 [1#8, 2#8], l1 := [⟨0, 0, 0x700, 0x700, true, .core, 2 ^ 127, 0, 0, (List.range 128).map (BitVec.ofNat 8)⟩,
  ⟨0, 0, 0x780, 0x780, true, .wg, 0, 0, 0, List.replicate 128 0#8⟩, ⟨0, 0, 0x800, 0x800, true, .dev, 0, 0, 0, List.replicate 128 0#8⟩] }
theorem wit_MemoryAndCaches : Mem.wf sMem.mem = true ∧ sMem.shadows = [] ∧ 2 ^ 40 - 2 + ([7#8, 8#8] : List Byte).length ≤ 2 ^ 40 ∧ sMem.ecc = [] ∧ (issuing th0).l1 = []
    ∧ (∀ u ∈ (issuing th0).threads, u.park = none) ∧ (∃ l, sMem.l1at 0 0 0x77F = some l ∧ l.dirty = 2 ^ 127)
    ∧ (∃ l, sMem.l1at 0 0 0x7FF = some l ∧ l.dirty = 0 ∧ Scope.num l.sc ≤ 1 ∧ l.core = 0 ∧ l.asid = 0 ∧ l.va = 0x7FF / 128 * 128)
    ∧ (∃ l, sMem.l1at 0 0 0x800 = some l ∧ 2 ≤ Scope.num l.sc) ∧ (2 ^ 40 - 128) % 128 = 0 ∧ 2 ^ 40 - 128 < 2 ^ 40 :=
  ⟨by decide +kernel, by decide +kernel, by decide, by decide +kernel, by decide +kernel, by decide +kernel, ⟨_, rfl, rfl⟩, ⟨_, rfl, rfl, by decide +kernel, rfl, rfl, rfl⟩,
    ⟨_, rfl, by decide +kernel⟩, by decide, by decide⟩
/-- An L2 that holds one line; front end 0 has two colours, front end 1 none. -/
def sL2 : State := { base with l2 := [⟨2 ^ 40 - 128, 0⟩], regs := regPut (regPut base.regs (regKey 0 0x1005) 5#32) (regKey 0 0x1006) 0#32 }
theorem wit_MemoryAndCaches_l2 : (sL2.l2.map (·.line)).Nodup ∧ sL2.colours 0 = [0, 2] ∧ sL2.colours 1 = [] ∧ ∃ x ∈ sL2.l2, x.line = 2 ^ 40 - 128 :=
  ⟨by decide +kernel, by decide +kernel, by decide +kernel, ⟨_, List.mem_cons_self, rfl⟩⟩

def tlbAll : TlbEntry := ⟨0, 0, 30, 0, 0, 0, true, true, true, true⟩
def sd0 : Seed := ⟨false, 0x600#64, 9#32, [], 0, false, false, none⟩
def bin0 (due : Option Nat) : Bin := ⟨0, 3, 2, 0x600#64, false, 5, 0, [sd0], due⟩
def sBin (due : Option Nat) : State := { base with bins := [bin0 due], groups := [], threads := [] }
theorem wit_BinEvents_launch : ∀ d ∈ [some 0, some 7, none], (sBin d).wg? 2 = some (wgOf base) ∧ (sBin d).launch? 1 = some (launchOf base) ∧ (bin0 d).wg = (wgOf base).id
    ∧ (bin0 d).core = (wgOf base).core ∧ (sBin d).groups = [] ∧ (∀ x ∈ (sBin d).wgs, x.ring = [] ∧ x.state = .resident) ∧ (sBin d).coreThreads 0 < 2048 ∧ (launchOf base).groupBytes ≤ 524288
    ∧ Instr.binLaunch 0 (bin0 d).num ∉ (sBin d).agenda := by decide +kernel
def wRing : Wg := { wgOf base with ring := [[sd0]], ringRd := 4, ringOk := 5 }
def sRing : State := { base with wgs := [wRing], tlb := [tlbAll], threads := [], l2 := [⟨0, 0⟩] }
theorem wit_BinEvents_ring : sRing.wg? wRing.id = some wRing ∧ sRing.launch? wRing.launch = some (launchOf base) ∧ wRing.ring = [[sd0]] ∧ wRing.paused = false ∧ wRing.ringOk = wRing.ringRd + 1
    ∧ (sRing.wgs.map (·.id)).Nodup ∧ sRing.bins = []
    ∧ wRing.state = .resident ∧ sRing.ringHeld wRing.id = false ∧ (launchOf base).shade = none
    ∧ sRing.ctxRead (clusterOf wRing.core) (launchOf base).asid .dev 13 ((launchOf base).cring + wRing.index * (launchOf base).crcap * 96 + 96 * (wRing.ringRd % max 1 (launchOf base).crcap)) 96 = (.ok (List.replicate 96 0#8), sRing) := by decide +kernel
def wRnd : Wg := { wgOf base with round := some ⟨3, 0, [(4, 9)]⟩ }
def sRnd : State := { base with wgs := [wRnd], threads := [{ th0 with park := some (.reorder 9 3 true 0x60C) }] }
theorem wit_BinEvents_reorder : sRnd.wg? wRnd.id = some wRnd ∧ sRnd.launch? wRnd.launch = some (launchOf base) ∧ sRnd.groups = [⟨3, 0, 0, 2, []⟩] ∧ th0.gid = 3 ∧ th0.wg = wRnd.id ∧ th0.pixel = false
    ∧ wRnd.round = some ⟨3, 0, [(th0.uid, 9)]⟩ ∧ (launchOf base).groupBytes ≤ 524288 ∧ sRnd.bins = [] ∧ (∀ x ∈ sRnd.wgs, x.ring = [] ∧ x.state = .resident) := by decide +kernel

/-- A waiting workgroup of a launch of one thread; with a gang of two; a saved one. -/
def lP : Launch := { loadLaunch 1 with isMatrix := false }
def wP : Wg := { wgOf base with state := .waiting, seq := none }
def sP (ws : List Wg) : State := { base with launches := [lP], wgs := ws, groups := [], threads := [] }
def wG (k : Nat) : Wg := { wP with id := 10 + k, gang := some (7, k) }
def sG : State := { sP [wG 0, wG 1] with launches := [{ lP with gangSize := 2 }], regs := regPut base.regs (regKey 0 0x1000) 0x80000000#32 }
def wS : Wg := { wP with state := .saved }
def gP : Graph := ⟨0, 0, .queue 0 2 0, 0x700, true, 0, 0, 0, 3, 0, [], 0, false, 2, false, none⟩
def sS (en : Nat) : State := { sP [wS] with graphs := [gP], threads := [th0], groups := base.groups, regs := regPut base.regs (regKey 0 0x0820) (BitVec.ofNat 32 en) }
/-- The waiting workgroup of a graph of a queue. -/
def sEN (en : Nat) : State := { sP [wP] with graphs := [gP], regs := regPut base.regs (regKey 0 0x0820) (BitVec.ofNat 32 en) }
theorem wit_PlacementEvents_off : (sEN 0).graph? lP.graph = some gP ∧ gP.asid = lP.asid ∧ wP.state = .waiting ∧ (sEN 0).rregN (lP.asid / 64) (0x0800 + 16 * gP.queue) / 2 ^ 31 % 2 = 0
    ∧ (sEN 0).wg? wP.id = some wP ∧ (sEN 0).launch? wP.launch = some lP ∧ (sEN 0).mayPlace (lP.asid / 64) = true := by decide +kernel
theorem wit_PlacementEvents : (sP [wP]).wg? wP.id = some wP ∧ (sP [wP]).launch? wP.launch = some lP ∧ (sP [wP]).mayPlace (lP.asid / 64) = true ∧ (sP [wP]).coResident wP = false
    ∧ ((sP [wP]).sharers (clusterOf 0)).length ≤ 1 ∧ (sP [wP]).groups = [] ∧ (sP [wP]).queueOn lP = true ∧ (sP [wP]).rregN (lP.asid / 64) (0x0A06 + 8 * (lP.asid % 64)) / 16 % 16 < 2 ∧ (sP [wP]).pick wP lP none ((sP [wP]).gangBars wP lP) = some ⟨0, 0, 0, 0⟩
    ∧ (sP [wP]).pick wP lP (some 216) ((sP [wP]).gangBars wP lP) = none
    ∧ sG.wg? (wG 0).id = some (wG 0) ∧ (sG.unitOf (wG 0)).map (·.id) = [10, 11] ∧ (∀ x ∈ sG.unitOf (wG 0), x.state = .waiting ∧ x.launch = (wG 0).launch)
    ∧ ((sG.placeUnitOn (sG.unitOf (wG 0)) (sG.gangBars (wG 0) { lP with gangSize := 2 })).map fun t => t.wgs.map (·.core)) = some [0, 1]
    ∧ (sS (2 ^ 31)).graph? lP.graph = some gP ∧ (∀ x ∈ (sS (2 ^ 31)).unitOf wS, x.state = .saved) ∧ (∀ x ∈ (sS (2 ^ 31)).unitOf wS, x.launch = wS.launch)
    ∧ (sS (2 ^ 31)).rregN (lP.asid / 64) (0x0800 + 16 * gP.queue) / 2 ^ 31 % 2 = 1 ∧ (sS 0).rregN (lP.asid / 64) (0x0800 + 16 * gP.queue) / 2 ^ 31 % 2 = 0
    ∧ (((sS (2 ^ 31)).placeUnitOn ((sS (2 ^ 31)).unitOf wS) ((sS (2 ^ 31)).gangBars wS lP)).map fun t => t.wgs.map (·.state)) = some [.resident]
    ∧ ∃ t ∈ base.threads, t.gid = 3 ∧ t.pc = 0x600 := by decide +kernel

def tlbAt (cl : Nat) : TlbEntry := ⟨cl, 0, 30, 0, 0, 0, true, true, true, true⟩
/-- A machine with one command of a thread, memory at 0x700 and a translation. -/
def sCmd (c : Cmd) : State := { base with cmds := [c], tlb := [tlbAt 0, tlbAt 18], threads := [], wgs := [], mem := mputs 0#8 [] 0x700 [1#8, 2#8, 3#8, 4#8, 5#8, 6#8, 7#8, 8#8] }
def cmdOf (code : Nat) (ws : List Nat) : Cmd := ⟨40, 0, .thread 2 4 0, 0, (code * 2 ^ 26 + 5) :: ws |>.map (BitVec.ofNat 32), 0, 0, false, false, 0, 0, none⟩
def cCopy : Cmd := cmdOf 1 [8, 0x700, 0, 0x780, 0, 0, 0]
def cFill : Cmd := cmdOf 2 [8, 0x780, 0, 0x55AA, 0x77, 0, 0]
def cTile : Cmd := cmdOf 3 [8, 1, 8, 8, 0, 0x700, 0, 0x780, 0, 0, 0]
def cGath : Cmd := cmdOf 8 [8, 1, 0, 0x7F0, 0, 0x700, 0, 0x780, 0, 0, 0]
def cOver : Cmd := cmdOf 1 [16, 0x700, 0, 0x708, 0, 0, 0]
/-- Longer commands at a unit of theirs: the first, the last, and one that ends at a page of the destination. -/
def unitOf' (c : Cmd) (u : Nat) : Cmd := { c with pos := u }
def cCopyL : Cmd := cmdOf 1 [24, 0x700, 0, 0xFF0, 0, 0, 0]
def cFillL : Cmd := cmdOf 2 [24, 0xFF0, 0, 0x55AA, 0x77, 0, 0]
def cTileL : Cmd := cmdOf 3 [16, 2, 32, 16, 0, 0x700, 0, 0xFE8, 0, 0, 0]
def cGathL : Cmd := cmdOf 8 [16, 2, 1, 0x740, 0, 0x700, 0, 0xFE8, 0, 0, 0]
theorem wit_EngineMoves : (∀ c ∈ [cCopy, cFill, cTile, cGath, cOver, unitOf' cCopyL 0, unitOf' cCopyL 1, unitOf' cCopyL 2, unitOf' cFillL 1, unitOf' cTileL 2, unitOf' cTileL 3, unitOf' cGathL 2, unitOf' cGathL 3],
      (sCmd c).cmd? c.id = some c ∧ c.ended = false ∧ c.paused = false ∧ (sCmd c).plain c.asid
      ∧ ∀ va ∈ [0x700, 0x708, 0x710, 0x720, 0x728, 0x740, 0x748, 0x780, 0x7F0, 0xFF0, 0xFF8, 0x1000], ∀ a ∈ [XAcc.load, .store], (sCmd c).maps (clusterOf c.core) c.asid va a va)
    ∧ copyChk (sCmd cCopy) cCopy = none ∧ copyChk (sCmd (unitOf' cCopyL 0)) (unitOf' cCopyL 0) = none ∧ fillChk (sCmd cFill) cFill = none ∧ tileChk (sCmd cTile) cTile = none
    ∧ gatherChk (sCmd cGath) cGath = none ∧ cTileL.w 5 = 0 ∧ cTile.w 5 = 0
    ∧ (cOver.badHead = false ∧ 0 < cOver.w 1 ∧ cOver.w2 2 < cOver.w2 4 + cOver.w 1 ∧ cOver.w2 4 < cOver.w2 2 + cOver.w 1 ∧ copyChk (sCmd cOver) cOver = some 1)
    ∧ fillChk (sCmd cCopy) (cmdOf 2 [12, 0x780, 0, 0, 0, 0, 0]) = some 2 ∧ tileChk (sCmd cTile) (cmdOf 3 [8, 1, 8, 8, 0, 0, 0xFFFFFFFF, 0x780, 0, 0, 0]) = some 4
    ∧ gatherChk (sCmd cGath) (cmdOf 8 [4, 1, 0, 0x7F0, 0, 0x700, 0, 0x780, 0, 0, 0]) = some 1 := by decide +kernel

/-- A collective of f32 over the two ranks of group 3, of which the device is rank 0; its last element is to be written. -/
def grp0 : CGroup := ⟨0, 0, 3, 2, 0, [0, 1]⟩
def cColl (op root : Nat) : Cmd := { cmdOf op [0x0A000003, 1, root, 0x700, 0, 0x780, 0, 0, 0] with pos := if op = 0x13 then 1 else 0 }
def sColl (op root : Nat) : State := { sCmd (cColl op root) with cgroups := [grp0] }
def part (op root rank : Nat) : Contribution := ⟨rank, op, .f32, 0, 1, root, true, [0x3F800000#64, 0x40000000#64]⟩
theorem wit_Collectives : ∀ p ∈ [(0x10, 0), (0x11, 0), (0x11, 1), (0x12, 1), (0x13, 0), (0x14, 0)], (sColl p.1 p.2).cmd? 40 = some (cColl p.1 p.2) ∧ (cColl p.1 p.2).code = p.1
    ∧ (sColl p.1 p.2).cgroup (cColl p.1 p.2).asid (cColl p.1 p.2).group = some grp0 ∧ collChk (sColl p.1 p.2) (cColl p.1 p.2) = none
    ∧ ((sColl p.1 p.2).takesCkp 0 = false ∧ (sColl p.1 p.2).shadows = [] ∧ (sColl p.1 p.2).ecc = [])
    ∧ (∃ j, j < grp0.n ∧ j ≠ grp0.rank ∧ ∀ q ∈ [part p.1 p.2 0], q.rank ≠ j) ∧ (∀ j, j < grp0.n → ∃ q ∈ [part p.1 p.2 0, part p.1 p.2 1], q.rank = j)
    ∧ (∃ q ∈ [part p.1 p.2 0, { part p.1 p.2 1 with ty := .i32 }], (cColl p.1 p.2).meets q = false) ∧ (∀ q ∈ [part p.1 p.2 0, part p.1 p.2 1], (cColl p.1 p.2).meets q = true)
    ∧ (cColl p.1 p.2).pos + 1 = (cColl p.1 p.2).dstCount grp0.n
    ∧ (sColl p.1 p.2).maps 0 0 ((cColl p.1 p.2).w2 6 + (cColl p.1 p.2).pos * Ty.bytes (cColl p.1 p.2).cty) .store ((cColl p.1 p.2).w2 6 + (cColl p.1 p.2).pos * Ty.bytes (cColl p.1 p.2).cty) := by decide +kernel
theorem wit_Collectives_root : (cColl 0x12 1).w 3 ≠ grp0.rank ∧ (∀ j, j < grp0.n → j ≠ grp0.rank → ∃ q ∈ [part 0x12 1 1], q.rank = j)
    ∧ ∀ q ∈ [part 0x12 1 1], q.rank ≠ grp0.rank ∧ (cColl 0x12 1).meets q = true := by decide +kernel

/-- A GRAPH command; and commands that have ended, of a thread whose counter C is 1. -/
def cGraph : Cmd := cmdOf 0x20 [0x800, 0, 0, 0, 0]
def tCd : Thread := { th0 with cntC := 1 }
def cEnd (notify cpl : Nat) : Cmd := { cmdOf 1 [8, 0x700, 0, 0x780, 0, cpl, 0] with words := (BitVec.ofNat 32 (2 ^ 26 + notify * 2 ^ 22 + 5)) :: [8#32, 0x700#32, 0#32, 0x780#32, 0#32, BitVec.ofNat 32 cpl, 0#32], ended := true }
def wCd : Wg := { wgOf base with queues := (wgOf base).queues.set 0 ⟨.cpl, 0, []⟩ }
def sEnd (c : Cmd) : State := { base with cmds := [c], threads := [tCd], wgs := [wCd], tlb := [tlbAt 0], mem := mputs 0#8 [] 0x700 [1#8, 2#8, 3#8, 4#8, 5#8, 6#8, 7#8, 8#8] }
theorem wit_CommandCompletion : ((sCmd cGraph).cmd? 40 = some cGraph ∧ (∀ g ∈ (sCmd cGraph).graphs, g.src ≠ .cmd 40) ∧ cGraph.badHead = false ∧ cGraph.w 3 = 0 ∧ cGraph.cpl % 16 = 0
      ∧ (sCmd cGraph).takesCkp cGraph.asid = false)
    ∧ (∀ c ∈ [cEnd 0 0, cEnd 1 0, cEnd 0 0x700], c.ended = true ∧ (sEnd c).faults = [] ∧ c.owner = .thread tCd.wg tCd.uid tCd.tid ∧ c.code < 0x10 ∧ c.status = 0 ∧ c.scope = .dev
      ∧ Instr.notifyPush wCd.id ∉ (sEnd c).agenda)
    ∧ (∀ c ∈ [cEnd 0 0, cEnd 1 0, cEnd 0 0x700], (sEnd c).thr? tCd.uid = some tCd ∧ (sEnd c).wg? tCd.wg = some wCd) ∧ wCd.state = .resident ∧ wCd.queues[(0 : Fin 16)].port = .cpl
    ∧ ((cEnd 0 0).cpl = 0 ∧ (cEnd 0 0).w 0 / 2 ^ 22 % 2 = 0 ∧ (cEnd 1 0).w 0 / 2 ^ 22 % 2 = 1 ∧ (cEnd 0 0x700).cpl = 0x700)
    ∧ (sEnd (cEnd 0 0x700)).maps 0 0 0x700 .atomic 0x700 := by decide +kernel

/-- A command with a fault in each phase of its life, stage 1 or stage 2; the page-request queue of the PF is full where `n` faults more wait. -/
def fr0 (p : FaultPhase) (st2 : Bool) : FaultRec := ⟨50, 0, 0, .cmd 40, p, st2, false, true, 0x700, 0, 6, 2, true, true, false, 0, 0xFFFFFFFF#32, 0#32, 5, [.copy 40]⟩
def frN (k : Nat) : FaultRec := { fr0 .waitRing false with id := 100 + k, va := 0x1000 * k }
def sFlt (r : FaultRec) (n : Nat) : State := { sCmd { cCopy with paused := true } with faults := r :: (List.range n).map frN }
theorem wit_Faults : (∀ r ∈ [fr0 .new false, fr0 .new true, fr0 .waitEntry false, fr0 .waitRing false, fr0 .waitResp false, fr0 .stage2 true], (sFlt r 0).fault? r.id = some r
      ∧ ((sFlt r 0).faults.map (·.id)).Nodup ∧ r.src = .cmd 40 ∧ (sFlt r 0).cmd? 40 = some { cCopy with paused := true } ∧ (sFlt r 0).prqMay (r.asid / 64) = true
      ∧ (r.phase = .waitEntry ∨ ∀ x ∈ (sFlt r 0).faults, x.phase ≠ .waitEntry))
    ∧ (sFlt (fr0 .waitResp false) 0).tokenRec 0 (fr0 .waitResp false).token = some (fr0 .waitResp false) := by decide +kernel
theorem wit_Faults_full : ∀ r ∈ [fr0 .new false, fr0 .waitEntry false], (sFlt r 1536).prqMay 0 = false := by decide +kernel
/-- A fault ring of four records at 0x1000: one is written when tail is 1 and head 0; none when tail is 4. -/
def sRingF (tail : Nat) : State := { sFlt (fr0 .waitRing false) 0 with regs := regPut (regPut (regPut base.regs (regKey 0 0x1C02) 0x1000#32) (regKey 0 0x1C04) 4#32) (regKey 0 0x1C06) (BitVec.ofNat 32 tail) }
def wrote : Except XFault State := (sRingF 1).ctxWrite 18 0 .sys 8 0x1020 (fr0 .waitRing false).bytes
theorem wit_Faults_ring : (∀ k ∈ [1, 4], (sRingF k).rreg2 0 0x1C02 = 0x1000 ∧ (sRingF k).rregN 0 0x1C04 = 4 ∧ (sRingF k).rregN 0 0x1C05 = 0 ∧ (sRingF k).rregN 0 0x1C06 = k)
    ∧ (∃ s2, wrote = .ok s2 ∧ s2.faults = [fr0 .waitRing false]) ∧ (sRingF 1).xlate 18 0 0x1020 .store false = (.ok ⟨0x1020, true⟩, sRingF 1) :=
  ⟨by decide +kernel, ⟨match wrote with | .ok s => s | .error _ => base, by decide +kernel, rfl⟩, Prod.ext (by decide +kernel) (by decide +kernel)⟩
/-- A load of one lane that faults without a response: the entry of its log owns v20. -/
def frL : FaultRec := { fr0 .new false with src := .op 9 4, resp := false, redo := [] }
def laneL : LaneAcc := { laneOf th0 0x700 with fault := some 50 }
def opL : Op := ⟨9, .ld 7 (.v 20) (.v 4) false .dev .n32, 0, 2, 0, .l, 0, [], [laneL]⟩
def sLd : State := { base with faults := [frL], ops := [opL], threads := [{ th0 with cntL := 1 }] }
theorem wit_Faults_load : sLd.faults = [frL] ∧ frL.src = .op opL.id laneL.uid ∧ frL.phase = .new ∧ frL.stage2 = false ∧ frL.resp = false ∧ sLd.prqMay (frL.asid / 64) = true ∧ sLd.ops = [opL]
    ∧ opL.lanes = [laneL] ∧ laneL.fault = some frL.id ∧ laneL.uid = th0.uid ∧ sLd.threads = [{ th0 with cntL := 1 }] ∧ th0.trap.inh = false ∧ th0.park = none ∧ th0.pend = [] := by decide +kernel

theorem wit_RegisterLevels : (∃ r : Requester, r.level = .u ∧ Requester.opens r 0x0400 false = false) ∧ (∃ r : Requester, r.level = .s ∧ r.view = 0 ∧ Requester.opens r 0x2800 false = true ∧ Requester.opens r 0x2800 true = false)
    ∧ (∃ r : Requester, r.level = .r ∧ r.view = 0 ∧ Requester.opens r 0x1E00 true = false ∧ Requester.opens r 0x2FFF true = true) ∧ (∃ r : Requester, r.level = .f ∧ r.view = 3 ∧ Requester.opens r 0x0C00 false = true ∧ Requester.opens r 0x0C00 true = false)
    ∧ (∃ r : Requester, r.level = .f ∧ r.view = 0 ∧ Requester.opens r 0x0420 false = true ∧ Requester.opens r 0x0460 false = false) :=
  ⟨⟨⟨0, .u, false, 0⟩, by decide⟩, ⟨⟨0, .s, false, 0⟩, by decide⟩, ⟨⟨0, .r, false, 0⟩, by decide⟩, ⟨⟨3, .f, false, 0⟩, by decide⟩, ⟨⟨0, .f, false, 0⟩, by decide⟩⟩

/-- Threads of level U and of level S, with trap registers and a poisoned v7. -/
def tY : Thread := { setV th0 [(4, 0x1234), (5, 0x80000000)] with trap := ⟨0x60C, true, 1, 2, 5, 77, 0x123456789, .none⟩ }
def tZ : Thread := (setV th0 [(4, 0x1234), (5, 0x80000000)]).setReg 7 9 (.owned 3 0)
def sY (t : Thread) (lv : Level) : State := { issuing t with launches := [{ loadLaunch 1 with level := lv }], dlc := 0x300000005 }
def lY (lv : Level) : Launch := { loadLaunch 1 with level := lv }
theorem wit_SysrdResults : (([0x080, 0x081, 0x082, 0x083, 0x084, 0x085, 0x086, 0x090, 0x091, 0x087, 0x0C00] : List Nat).all fun k => (sY tY .u).issueCause (.sysrd 7 (.v 20) (BitVec.ofNat 14 k)) = none) = true
    ∧ (sY tY .u).launchOfWg tY.wg = some (lY .u) ∧ (sY tZ .u).alone (.sysrd 7 (.v 20) 0x087) 7 tZ ∧ (sY tZ .u).mayTrap tZ 0x900 ∧ Requester.opens ⟨0, .u, false, 64 + 4⟩ 0x087 false = false
    ∧ (∀ k ∈ [0x0C00, 0x0C01, 0x0420, 0x0400], Requester.opens ⟨0, .s, false, 64 + 4⟩ k false = true) ∧ regHidden 0x0420 = false ∧ regRc 0 0x0420 = true ∧ regRc 0 0x0400 = false ∧ regHidden 0x0400 = false := by decide +kernel

theorem wit_RegisterWrites : (sY tZ .u).alone (.syswr 7 (.v 4) 0x087) 7 tZ ∧ (sY tZ .u).mayTrap tZ 0x900 ∧ Requester.opens ⟨0, .u, false, 64 + 4⟩ 0x087 true = false
    ∧ (sY tZ .s).alone (.syswr 7 (.v 7) 0x0400) 7 tZ ∧ (sY tZ .s).mayTrap tZ 0x900 ∧ tZ.opPois (.s (.v 7)) = true ∧ Requester.opens ⟨0, .s, false, 64 + 4⟩ 0x0411 true = true := by decide +kernel
theorem wit_RegisterWrites_trap : tZ.opPois (.s (.v 4)) = false ∧ (∀ k ∈ [0x080#14, 0x085#14], (sY tZ .u).alone (.syswr 7 (.v 4) k) 7 tZ) ∧ (∀ u ∈ (sY tZ .u).threads, u.uid = tZ.uid → u = tZ) ∧ tZ.trap.inh = false
    ∧ (∀ k ∈ [0x080#14, 0x085#14], (sY tY .u).alone (.syswr 7 (.v 4) k) 7 tY) ∧ (∀ u ∈ (sY tY .u).threads, u.uid = tY.uid → u = tY) ∧ tY.trap.inh = true ∧ tY.opPois (.s (.v 4)) = false
    ∧ (sY tZ .u).launchOfWg tZ.wg = some (lY .u) ∧ Requester.opens ⟨1, .u, true, 0⟩ 0x0411 true = false := by decide +kernel
theorem wit_RegisterWrites_marks : ∀ r, (tZ.reg r).mark ≠ .lost := fun r => by
  by_cases h : r < 120
  · exact (by decide +kernel : ∀ r, r < 120 → (tZ.reg r).mark ≠ .lost) r h
  · simp [Thread.reg, h]
/-- A thread of function core 5. -/
def sMgmt : State := { base with wgs := [{ wgOf base with core := 257 }] }
theorem wit_RegisterWrites_core : Requester.opens ⟨5, .f, false, 5⟩ 0x2C05 true = false ∧ sMgmt.mgmtThread ⟨5, .f, false, 5⟩ = some th0 ∧ sMgmt.thr? th0.uid = some th0 ∧ th0.tx = none
    ∧ sMgmt.mayTrap th0 0x900 ∧ base.mgmtThread ⟨0, .u, false, 0⟩ = none := by decide +kernel

/-- Causes 3 and 5 are set and masked; a write with a 0 in their mask bits sends their vectors. -/
def sEff : State := { base with regs := regPut (regPut base.regs (regKey 2 0x0410) 0x28#32) (regKey 2 0x0411) 0x1FF#32 }
theorem wit_RegisterEffects : writeEvent ⟨0, .s, true, 0⟩ 0x0C02 7 = [] ∧ (sEff.rreg 2 0x0410).getLsbD 3 = true ∧ (sEff.rreg 2 0x0411).getLsbD 3 = true
    ∧ sEff.rregN 2 0x1803 % 8 < 2 ∧ (sEff.rreg 2 0x0410).getLsbD 8 = false ∧ (base.rreg 2 0x0411).getLsbD 8 = false ∧ base.rregN 2 0x1803 % 8 < 2 := by decide +kernel

def sRd : State := { base with
  regs := [0x0420, 0x0460, 0x0440, 0x0D0F, 0x1E08, 0x2405, 0x2002, 0x2C05].foldl (fun m k => regPut m (regKey 0 k) 9#32) (regPut base.regs (regKey 5 0x1E08) 7#32)
  wgs := [{ wgOf base with core := 257 }] }
theorem wit_RegisterReadEvents : (∀ k ∈ [0x0420, 0x0460, 0x0440, 0x0D0F, 0x1E08, 0x2405, 0x2002, 0x2C05], sRd.rreg 0 k = 9) ∧ sRd.rreg 5 0x1E08 = 7
    ∧ (⟨0, .s, true, 0⟩ : Requester).level ≠ .u ∧ ¬((⟨1, .u, true, 0⟩ : Requester).level = .r ∨ (⟨1, .u, true, 0⟩ : Requester).level = .s)
    ∧ ¬((⟨5, .f, false, 5⟩ : Requester).level = .r ∨ (⟨5, .f, false, 5⟩ : Requester).level = .s) ∧ ((5 : Nat) ≠ 0 ∧ 5 = (⟨5, .f, true, 5⟩ : Requester).view ∧ (⟨5, .f, true, 5⟩ : Requester).level = .f)
    ∧ (⟨5, .f, false, 5⟩ : Requester).host = false ∧ sRd.mgmtThread ⟨5, .f, false, 5⟩ = some th0 ∧ sRd.thr? th0.uid = some th0 ∧ th0.tx = none ∧ sRd.mayTrap th0 0x900 ∧ (15 ≤ 24 ∧ 24 ≠ 22 ∧ 24 ≠ 23) := by decide +kernel
theorem wit_RegisterReadEvents_host : base.boot = .ready ∧ Requester.opens ⟨3, .r, true, 3⟩ 0x2002 false = true ∧ Requester.opens ⟨3, .f, true, 3⟩ 0x2002 false = true
    ∧ Requester.opens ⟨3, .f, true, 3⟩ 0x2C05 false = false
    ∧ ({ sRd with boot := .recovery } : State).boot ≠ .ready := by decide +kernel

def sT (off ctl : Word) : State := { base with regs := regPut (regPut base.regs (regKey 0 0x0C03) off) (regKey 0 0x0C08) ctl, dlc := 0x500000007, holdLeft := 3 }
theorem wit_TimeEvents : ((5#32 : Word) ++ (sT 2 1).rreg 0 0x0C03).toInt ≥ 0 ∧ ((0xFFFFFFFF#32 : Word) ++ (sT 0xFFFFFFF0 0).rreg 0 0x0C03).toInt < 0 ∧ -2 ^ 32 ≤ ((0xFFFFFFFF#32 : Word) ++ (sT 0xFFFFFFF0 0).rreg 0 0x0C03).toInt
    ∧ ((0xFFFFFFF0#32 : Word) ++ (sT 0 0).rreg 0 0x0C03).toInt < -2 ^ 32
    ∧ ((sT 0 1).rreg 0 0x0C08).getLsbD 0 = true ∧ ((sT 0 0).rreg 0 0x0C08).getLsbD 0 = false ∧ base.holdLeft = 0 ∧ base.frac < 2 ^ 32 ∧ (sT 0 0).holdLeft ≠ 0 := by decide +kernel

/-- An invalidation that may start; one under way, of each kind; translations of two contexts. -/
def sInv (len : Nat) (busy : Bool) : State := { base with regs := regPut (regPut (regPut base.regs (regKey 1 0x1E03) 0x5000#32) (regKey 1 0x1E05) (BitVec.ofNat 32 len)) (regKey 1 0x1E06) (if busy then 1#32 else 0#32) }
def tlb2 : List TlbEntry := [⟨0, 70, 12, 0x5000, 0x9000, 0x9000, true, true, true, true⟩, ⟨0, 70, 12, 0x6000, 0x5000, 0xA000, true, true, true, true⟩, ⟨0, 64, 12, 0x5000, 0x7000, 0x7000, true, true, true, true⟩,
  ⟨0, 0, 12, 0x5000, 0x5000, 0x5000, true, true, true, true⟩]
def sIng (kind : Nat) : State := { sInv 1 true with invals := [⟨1, kind, 6, 0x5000, 4096⟩], tlb := tlb2, filter := [(3, [70]), (4, [64]), (5, [])] }
theorem wit_Invalidations : ((sInv 1 false).rreg 1 0x1E06).getLsbD 0 = false ∧ ((sInv 1 true).rreg 1 0x1E06).getLsbD 0 = true ∧ (sInv 0 false).rregN 1 0x1E05 = 0 ∧ (sInv 1 false).rregN 1 0x1E05 ≠ 0
    ∧ ∀ k ∈ [0, 1, 2, 3], (sIng k).invals = [⟨1, k, 6, 0x5000, 4096⟩] ∧ (sIng k).l1 = [] ∧ (sIng k).faults = [] := by decide +kernel

/-- A machine without work, some registers written. -/
def bare (l : List (Nat × Nat × Nat)) : State := { base with threads := [], wgs := [], groups := [], launches := [], regs := l.foldl (fun m p => regPut m (regKey p.1 p.2.1) (BitVec.ofNat 32 p.2.2)) base.regs }
/-- PF and VF 0 hold clusters 0 to 17; a mask is staged for VF 1. -/
def sPtn (l : List (Nat × Nat × Nat)) : State := bare ((0, 0x1011, 6) :: (0, 0x100D, 8) :: (0, 0x1008, 0x80110000) :: l)
def sScrub : State := { bare [] with scrubs := [⟨2, [3, 4], [1]⟩] }
def nextOf (i : Instr) (s : State) : State := match exec i s with | .next t => t | _ => s
theorem wit_PartitionEvents : (∀ n ∈ [0x80030004, 0x80120000], (BitVec.ofNat 32 n).getLsbD 31 = true ∧ (n % 32 > n / 2 ^ 16 % 32 ∨ n / 2 ^ 16 % 32 > 17))
    ∧ ((sPtn []).rreg2 0 (0x1001 + 8 * 2) = 6 ∧ (∃ g, g < 17 ∧ g ≠ 2 ∧ ((sPtn [(0, 0x100D, 2)]).rreg 0 (0x1000 + 8 * g)).getLsbD 31 = true ∧ (sPtn [(0, 0x100D, 2)]).rreg2 0 (0x1005 + 8 * g) &&& 6 ≠ 0))
    ∧ (¬∃ g, g < 17 ∧ g ≠ 2 ∧ ((sPtn [(0, 0x1005, 0)]).rreg 0 (0x1000 + 8 * g)).getLsbD 31 = true ∧ (sPtn [(0, 0x1005, 0)]).rreg2 0 (0x1005 + 8 * g) &&& 6 ≠ 0)
    ∧ (sPtn []).wgs = [] ∧ (sPtn []).streams = [] ∧ (sPtn []).rregN 2 0x1803 % 8 = 0 ∧ (∀ u ∈ sScrub.threads, u.park = none) ∧ sScrub.wgs = [] ∧ sScrub.scrubs = [⟨2, [3, 4], [1]⟩] ∧ sScrub.l1 = [] ∧ sScrub.shadows = [] ∧ sScrub.flrs = [] ∧ sScrub.waking = []
    ∧ 3 ∈ (sPtn [(0, 0x1008, 0x80110003), (0, 0x1010, 0x80050003)]).clustersOf 2
    ∧ (bare []).cmds = [] ∧ (bare []).graphs = [] ∧ 3 ∈ ({ bare [] with flrs := [3] } : State).flrs := by decide +kernel

/-- VF 2 in a state of its class machine, with a class. -/
def sWk (st cls : Nat) : State := bare [(3, 0x1803, st), (3, 0x1800, cls)]
def sDeep : State := { bare [(3, 0x1803, 4), (5, 0x1803, 4), (6, 0x1803, 1)] with deep := true }
def sMayDeep : State := bare [(3, 0x0800, 0x80000000), (3, 0x1803, 2), (3, 0x1800, 3)]
/-- VF 2 whose collapse area a refusal has taken away. -/
def sGone (st cls : Nat) : State := bare [(3, 0x1803, st), (3, 0x1800, cls), (3, 0x1C07, 10)]
/-- VF 2 while it wakes, its core 36 gated since the collapse. -/
def waking (s : State) : State := { s with gated := [(2, some [36, 37])], waking := [(2, 1)], dlc := 2 ^ 32 }
theorem wit_CollapseAndWake_area : (∀ c ∈ [2, 3], (sGone 1 c).l1 = [] ∧ (sGone 1 c).rdc = [] ∧ (sGone 1 c).shadows = [] ∧ (sGone 1 c).faults = [] ∧ Instr.rollback 130 ∉ (sGone 1 c).agenda
      ∧ (sGone 1 c).rregN 3 0x1803 % 8 = 1 ∧ (sGone 1 c).rregN 3 0x1800 % 4 = c ∧ (waking (sGone 3 c)).wakeBarred ((waking (sGone 3 c)).wakeReads 2) = (none, waking (sGone 3 c))
      ∧ mget none (waking (sGone 3 c)).gated 2 = some [36, 37])
    ∧ (match (sGone 1 2).saveArea 3 with | .ok t => decide (t.l1 = [] ∧ t.rdc = [] ∧ t.shadows = []) | .error _ => false) = true
    ∧ (match (sWk 1 2).saveArea 3 with | .ok _ => false | .error _ => true) = true ∧ ((waking (sWk 3 2)).wakeBarred ((waking (sWk 3 2)).wakeReads 2)).1.isSome = true
    ∧ (sWk 3 1).wakeBarred ((sWk 3 1).wakeReads 2) = (none, sWk 3 1) ∧ (sWk 1 1).agenda = [] ∧ (sWk 0 1).slices = [] := by decide +kernel
theorem wit_CollapseAndWake : (∀ c ∈ [1, 2, 3], (sWk 0 c).rreg 3 0x1803 = 0 ∧ (sWk 0 c).rregN 3 0x1800 % 4 = c ∧ ((sWk 0 c).rreg 3 0x1800).getLsbD 9 = false ∧ (sWk 0 c).isIdle 3 = true ∧ (sWk 0 c).wgs = [])
    ∧ (∀ c ∈ [2, 3], (sWk 1 c).rregN 3 0x1803 % 8 = 1 ∧ 2 ≤ (sWk 1 c).rregN 3 0x1800 % 4 ∧ (sWk 1 c).wgs = [] ∧ (sWk 3 c).rregN 3 0x1803 % 8 = 3) ∧ (sWk 0 0x201).isIdle 3 = true ∧ ((sWk 0 0x201).rreg 3 0x1800).getLsbD 9 = true
    ∧ (∀ k ∈ [0, 1, 2, 3, 4], (sWk k 0).rregN 3 0x1803 % 8 = k) ∧ sDeep.deep = true ∧ sDeep.rregN 3 0x1803 % 8 = 4 ∧ (sWk 2 0).deep = false
    ∧ ((sWk 3 0).wgs = [] ∧ (sWk 3 0).threads = [] ∧ (sWk 3 0).rreg 3 0x0412 = 0 ∧ ∀ q, q < 32 → ((sWk 3 0).rreg 3 (0x0800 + 16 * q)).getLsbD 31 = false)
    ∧ (sMayDeep.deep = false ∧ sMayDeep.streams = [] ∧ sMayDeep.isIdle 0 = true ∧ (∃ q, q < 32 ∧ (sMayDeep.rreg 3 (0x0800 + 16 * q)).getLsbD 31 = true)
      ∧ ∀ n, n < 16 → (∃ q, q < 32 ∧ (sMayDeep.rreg (n + 1) (0x0800 + 16 * q)).getLsbD 31 = true) → sMayDeep.rregN (n + 1) 0x1803 % 8 = 2 ∧ sMayDeep.rregN (n + 1) 0x1800 % 4 = 3) := by decide +kernel

def sPw (req cur bits cap : Nat) : State := { bare [(0, 0x2C00, req), (0, 0x2C01, cur * 2 ^ 8 + bits)] with cap := cap }
/-- PWR_POWER against a limit of 100, PWR_TEMP, and how long the conditions of the throttle hold. -/
def sHot (power temp cap since dlc : Nat) : State :=
  { bare [(0, 0x2C00, 3), (0, 0x2C01, 0x100), (0, 0x2C02, 100), (0, 0x2C03, power), (0, 0x2C04, temp)] with cap := cap, clocks := [(16384, since), (16385, since)], dlc := dlc }
theorem wit_PowerEvents : ((sPw 3 1 0 4).rreg 0 0x2C01).toNat / 2 ^ 8 % 8 = 1 ∧ min ((sPw 3 1 0 4).rregN 0 0x2C00) 4 = 3 ∧ ((sPw 3 3 0 1).rreg 0 0x2C01).toNat / 2 ^ 8 % 8 = 3
    ∧ min ((sPw 3 3 0 1).rregN 0 0x2C00) 1 = 1 ∧ ((sPw 2 2 0 4).rreg 0 0x2C01).toNat / 2 ^ 8 % 8 = 2 ∧ Instr.oppStep ∉ (sPw 3 1 0 4).agenda ∧ (sPw 3 1 0 4).box = [] ∧ (sPw 3 1 0 4).halved = []
    ∧ (sPw 3 1 0 4).boxDroop = none ∧ (sPw 3 1 0 4).boxSnap = none
    ∧ (∀ s ∈ [sHot 101 0 3 1 4294967, sHot 0 840 3 1 4294967], (s.rregN 0 0x2C02 < s.rregN 0 0x2C03 ∨ 840 ≤ (s.rreg 0 0x2C04).toInt) ∧ mget 0 s.clocks 16384 ≠ 0
      ∧ mget 0 s.clocks 16384 - 1 + 1000 * 2 ^ 32 / 1000000 ≤ s.dlc)
    ∧ ¬(mget 0 (sHot 101 0 3 1 4294966).clocks 16384 - 1 + 1000 * 2 ^ 32 / 1000000 ≤ (sHot 101 0 3 1 4294966).dlc)
    ∧ (∀ s ∈ [sHot 95 799 1 1 42949672], s.rregN 0 0x2C03 * 100 ≤ s.rregN 0 0x2C02 * 95 ∧ (s.rreg 0 0x2C04).toInt < 800 ∧ s.cap < s.rregN 0 0x2C00 ∧ mget 0 s.clocks 16385 ≠ 0
      ∧ mget 0 s.clocks 16385 - 1 + 10000 * 2 ^ 32 / 1000000 ≤ s.dlc)
    ∧ ((sHot 0 919 4 0 0).rreg 0 0x2C04).toInt < 920 ∧ 920 ≤ ((sHot 0 920 4 0 0).rreg 0 0x2C04).toInt := by decide +kernel

/-- Queue 2 of VF 0 (or of the PF) at 0x700 with 4 entries: its control word, head, tail, save area, and the entry's bytes. -/
def sQu (fe ctl head tail save : Nat) (ent : List Byte) : State := { bare [(fe, 0x0820, ctl), (fe, 0x0821, 0x700), (fe, 0x0823, 4), (fe, 0x0824, head), (fe, 0x0825, tail), (fe, 0x0826, 0x1000), (fe, 0x0828, save)] with
  mem := mputs 0#8 [] 0x710 ent, tlb := [⟨18 + fe, 64 * fe, 30, 0, 0, 0, true, true, true, true⟩] }
def entB (va op flags handle : Nat) : List Byte := bytesOf 8 va ++ bytesOf 1 op ++ bytesOf 1 flags ++ bytesOf 2 0 ++ bytesOf 4 handle
theorem wit_QueueEntries : (∀ fe ∈ [0, 1], fe ∉ (sQu fe 0x80000000 1 2 64 []).flrs ∧ (sQu fe 0x80000000 1 2 64 []).wakeState fe = 0 ∧ (sQu fe 0x80000000 1 2 64 []).deep = false ∧ (sQu fe 0x80000000 1 2 64 []).rregN fe 0x0823 = 4
      ∧ ((sQu fe 0x80000000 1 2 64 []).rreg fe 0x0820).getLsbD 31 = true ∧ (sQu fe 0x80000000 1 2 64 []).rreg fe 0x0824 ≠ (sQu fe 0x80000000 1 2 64 []).rreg fe 0x0825
      ∧ ((sQu fe 0x80000000 1 2 64 []).rregN fe 0x0825 + 4 - 1) % 4 ≠ 0
      ∧ Instr.run fe 2 1 ∉ (sQu fe 0x80000000 1 2 64 []).agenda ∧ ((sQu fe 0 1 2 64 []).rreg fe 0x0820).getLsbD 31 = false)
    ∧ (∀ e ∈ [entB 0x900 0 1 0, entB 0x900 1 0 3, entB 0x900 2 1 3, entB 0x900 3 0 0, entB 0x900 0 0 3], ∀ ctl ∈ [0x80000000, 0x8C000000],
        ((sQu 1 ctl 1 2 64 e).rdcSync 64 true).feRead 64 ((sQu 1 ctl 1 2 64 e).rreg2 1 0x0821 + 16 * 1) 16 .sys = (.ok e, sQu 1 ctl 1 2 64 e)) := by decide +kernel

/-- A graph of context 64 (VF 0) in memory at 0x700, its nodes at 0x800, translated for every requester. -/
def gq (i : Bool) : Graph := ⟨60, 64, .queue 1 2 0, 0x700, false, 0, 0, 0, 3, 0, [], 0, false, 2, i, none⟩
def hdr (nn ns nodes succ cpl sc : Nat) : List Byte := bytesOf 4 nn ++ bytesOf 4 ns ++ bytesOf 8 nodes ++ bytesOf 8 succ ++ bytesOf 8 cpl ++ bytesOf 1 sc ++ bytesOf 31 0
def nodeB (kind pred s0 ns : Nat) (body : List Byte) : List Byte := bytesOf 1 kind ++ bytesOf 1 0 ++ bytesOf 2 pred ++ bytesOf 4 s0 ++ bytesOf 4 ns ++ bytesOf 4 0 ++ body ++ bytesOf (48 - body.length) 0
def sGr (g : Graph) (m : List (Nat × List Byte)) : State := { bare [(1, 0x0820, 0x80000000)] with graphs := [g], mem := m.foldl (fun m p => mputs 0#8 m p.1 p.2) [], tlb := [⟨19, 64, 30, 0, 0, 0, true, true, true, true⟩] }
def nd0 : GNode := ⟨3, 0, [], 0, .idle, 0, 0, 0, [], 0, none⟩
def gLoaded : Graph := { gq false with nodeVa := 0x800, succVa := 0x780, nodes := [nd0] }
def sLoad : State := sGr (gq false) [(0x700, hdr 1 0 0x800 0x780 0 3), (0x800, nodeB 3 0 0 0 (bytesOf 8 0x900))]
def sBadG : State := sGr (gq false) [(0x700, hdr 1 0 0x800 0x780 0 4), (0x800, nodeB 3 0 0 0 [])]
def gDone (i : Bool) (cpl : Nat) : Graph := { gq i with started := true, cpl := cpl, nodes := [{ nd0 with state := .done }, { nd0 with state := .idle }] }
def gRun : Graph := { gq false with started := true, nodes := [{ nd0 with state := .running }] }
theorem wit_GraphWalk : sLoad.graph? 60 = some (gq false) ∧ (sLoad.graphs.filter fun g => g.asid / 64 == 1 && g.started).length < 256 ∧ sLoad.loadGraph (gq false) true = (.ok (gLoaded, false), sLoad)
    ∧ nd0.pred = 0 ∧ nd0.inLoop = none ∧ gLoaded.stop = false ∧ nodeEvent 60 0 nd0.kind ∉ sLoad.agenda
    ∧ (sBadG.loadGraph (gq false) true).1.toOption.map (·.2) = some true ∧ (sBadG.loadGraph (gq false) true).2 = sBadG
    ∧ (∃ n ∈ gRun.nodes, n.state = .running) ∧ (∀ c ∈ [0, 0x780], ∀ n ∈ (gDone true c).nodes, n.state = .done ∨ n.state = .idle) ∧ (sGr (gDone true 0) []).takesCkp 64 = false
    ∧ (∀ c ∈ [0, 0x780], ∀ p, p < 32 → (sGr (gDone true c) []).pending 1 p = 0) ∧ ((sLoad.rreg 1 0x0820).getLsbD 31 = true) ∧ (sGr (gDone true 0) []).fatals = []
    ∧ (sGr (gDone true 0x780) []).maps 19 64 0x780 .atomic 0x780 ∧ (sGr (gDone true 0x780) []).plain 64 := by decide +kernel
def nR (st : Nat) (succ : List Nat) : GNode := { nd0 with kind := 2, state := .running, status := st, succ := succ }
def nW (cnt : Nat) : GNode := { nd0 with kind := 5, cnt := cnt }
def gEd (st : Nat) (cnt : Nat) : Graph := { gq false with started := true, nodes := [nR st [1], nW cnt] }
/-- A node for whose completion a graph submitted with JOIN must end. -/
def sJoin : State := { sGr (gEd 0 1) [] with graphs := [gEd 0 1, { gRun with id := 61, join := some (60, 0) }] }
theorem wit_GraphWalk_join : (sJoin.node? 60 0 = some (gEd 0 1, nR 0 [1])) ∧ ∃ g ∈ sJoin.graphs, g.join = some (60, 0) := by decide +kernel
theorem wit_GraphWalk_end : (sGr (gEd 0 1) []).node? 60 0 = some (gEd 0 1, nR 0 [1]) ∧ (∀ st ∈ [0, 8], ∀ k ∈ [1, 2], (∀ g ∈ (sGr (gEd st k) []).graphs, g.join ≠ some (60, 0)) ∧ (sGr (gEd st k) []).cmds = [] ∧ (sGr (gEd st k) []).launches = []) ∧ (nR 0 [1]).succ = [1] ∧ (gEd 0 1).nodes[1]? = some (nW 1)
    ∧ (nW 1).cnt = 1 ∧ 1 < (nW 2).cnt ∧ (nR 2 [1]).status ≠ 0 ∧ nodeEvent 60 1 (nW 1).kind ∉ (sGr (gEd 0 1) []).agenda := by decide +kernel

/-- A graph of one ready node, whose body is in memory; a second node for the body of a LOOP. -/
def nK (k : Nat) (body : List Nat) : GNode := { nd0 with kind := k, state := .ready, body := body, succ := [1] }
def nB : GNode := { nd0 with kind := 5, inLoop := some 0, state := .done, cnt := 3 }
def gK (k : Nat) (body : List Nat) : Graph := { gq false with started := true, nodeVa := 0x800, nodes := [nK k body, nB] }
def sK (k : Nat) (lb : List Nat) (body : List Byte) (word : Nat) : State := sGr (gK k lb) [(0x800, nodeB k 0 0 1 body), (0x900, bytesOf 8 word)]
def bodyOf (body : List Byte) : List Byte := body ++ bytesOf (48 - body.length) 0
def bCond : List Byte := bytesOf 8 0x900
def bLoop : List Byte := bytesOf 8 0x900 ++ bytesOf 4 1 ++ bytesOf 4 1 ++ bytesOf 4 9
def bSig : List Byte := bytesOf 8 0x900 ++ bytesOf 8 5 ++ bytesOf 1 3
def bWait : List Byte := bytesOf 8 0x900 ++ bytesOf 8 5 ++ bytesOf 1 0
def bCopy : List Byte := bytesOf 4 (2 ^ 26) ++ bytesOf 4 8 ++ bytesOf 8 0x700 ++ bytesOf 8 0x780
theorem wit_NodeLaunches : (∀ p ∈ [(3, bCond), (4, bLoop), (5, bSig), (6, bWait), (7, bCond), (2, bCopy)], (sK p.1 [1, 1] p.2 7).node? 60 0 = some (gK p.1 [1, 1], nK p.1 [1, 1])
      ∧ (sK p.1 [1, 1] p.2 7).feRead 64 (0x800 + 64 * 0 + 16) 48 .dev = (.ok (bodyOf p.2), sK p.1 [1, 1] p.2 7) ∧ (bodyOf p.2).length = 48 ∧ Instr.nodeComplete 60 0 ∉ (sK p.1 [1, 1] p.2 7).agenda
      ∧ (sK p.1 [1, 1] p.2 7).feRead 64 0x900 8 .dev = (.ok (bytesOf 8 7), sK p.1 [1, 1] p.2 7) ∧ (sK p.1 [1, 1] p.2 7).feRead 64 0x900 4 .dev = (.ok (bytesOf 4 7), sK p.1 [1, 1] p.2 7))
    ∧ zeroAt (bodyOf bCond) 16 32 = true ∧ zeroAt (bodyOf bSig) 16 32 = false ∧ (zeroAt (bodyOf bLoop) 20 4 = true → zeroAt (bodyOf bLoop) 32 16 = true) ∧ zeroAt (bodyOf bSig) 17 31 = true
    ∧ at' (bodyOf bSig) 16 1 = 3 ∧ at' (bodyOf bWait) 16 1 < 2 ∧ zeroAt (bodyOf bCond) 8 40 = true ∧ cmdLen .copy (cmdCode (wordsOf 12 (bodyOf bCopy))) = some 8
    ∧ (wordsOf 12 (bodyOf bCopy)).drop 8 = List.replicate 4 0#32 ∧ (sK 5 [] bSig 7).maps 19 64 0x900 .atomic 0x900 := by decide +kernel
theorem wit_NodeLaunches_zero : (wordsOf 12 (bodyOf bCopy)).drop 8 = List.replicate 4 0#32 := by decide +kernel
/-- A kernel image at 0x600 with one entry at its code, and a KERNEL node that launches one workgroup of it. -/
def imgHead (regs : Nat) : List Byte := bytesOf 4 0x4B4E5901 ++ bytesOf 2 regs ++ bytesOf 2 1 ++ bytesOf 4 1024 ++ bytesOf 1 0 ++ bytesOf 1 0 ++ bytesOf 2 64 ++ bytesOf 4 0x180 ++ bytesOf 4 12 ++ bytesOf 4 0x40 ++ bytesOf 2 1 ++ bytesOf 2 0 ++ bytesOf 4 0x40 ++ bytesOf 4 0 ++ bytesOf 24 0
def bKern : List Byte := bytesOf 8 0x600 ++ bytesOf 4 1 ++ bytesOf 2 0 ++ bytesOf 1 3 ++ bytesOf 1 0
def sKern (regs : Nat) : State := (sGr (gK 1 []) [(0x600, imgHead regs), (0x800, nodeB 1 0 0 1 bKern)]).wreg 0 0x1008 0x80000000#32
def imgOf (s : State) : Image := match (s.readImage 64 0x600 0).1 with | .ok m => m | .error _ => ⟨[], [], [], [], [], []⟩
def lK (s : State) : Launch := mkLaunch s.fresh 64 60 0 0x600 0 (bodyOf bKern) (imgOf s) (s.queuePrio 1 2) none
theorem wit_NodeLaunches_kernel : (∀ n ∈ [1, 121], (sKern n).readImage 64 0x600 0 = (.ok (imgOf (sKern n)), sKern n) ∧ (sKern n).feRead 64 (0x800 + 64 * 0 + 16) 48 .dev = (.ok (bodyOf bKern), sKern n))
    ∧ (∀ n ∈ [1, 121], (({ sKern n with fresh := (sKern n).fresh + 1 } : State).refuses (bodyOf bKern) (imgOf (sKern n)) (lK (sKern n)) 0x600 1 = (n != 1)))
    ∧ (∀ n ∈ [1, 121], (sKern n).partValid 1 = true ∧ (sKern n).waking = []) ∧ (sK 1 [] bKern 0).partValid 1 = false
    ∧ zeroAt (bodyOf bKern) 36 4 = true ∧ at' (bodyOf bKern) 0 8 = 0x600 ∧ at' (bodyOf bKern) 16 8 = 0 ∧ at' (bodyOf bKern) 8 4 = 1 ∧ (lK (sKern 1)).gangSize = 0 ∧ (lK (sKern 1)).groups = [] := by decide +kernel
def gLp : Graph := { gq false with started := true, nodeVa := 0x800, nodes := [{ nK 4 [1, 1, 0x900, 0, 0] with state := .running }, nB] }
theorem wit_NodeLaunches_loop : (sGr gLp []).node? 60 0 = some (gLp, { nK 4 [1, 1, 0x900, 0, 0] with state := .running }) ∧ nB.state = .done
    ∧ ((sGr gLp []).updNode 60 0 fun y => { y with iter := y.iter + 1 }).feRead 64 0x900 4 .dev = (.ok (bytesOf 4 0), (sGr gLp []).updNode 60 0 fun y => { y with iter := y.iter + 1 }) := by decide +kernel
/-- An EXTWAIT that waits for 5 at 0x900. -/
def nXw : GNode := { nK 6 [0x900, 5, 0] with state := .running }
def gXw : Graph := { gq false with started := true, nodeVa := 0x800, nodes := [nXw, nB] }
def sXw (v : Nat) : State := sGr gXw [(0x900, bytesOf 8 v)]
/-- A COND on a word of 0 whose false list, at 0x780, names node 1; its graph's header counts `ns` successor entries. -/
def bCondF : List Byte := bytesOf 8 0x900 ++ bytesOf 4 0 ++ bytesOf 4 1
def gCf : Graph := { gK 3 [] with succVa := 0x780, nodes := [nK 3 [], { nd0 with kind := 5 }] }
def sCf (ns : Nat) : State := sGr gCf [(0x700, hdr 2 ns 0x800 0x780 0 3), (0x780, bytesOf 4 1), (0x800, nodeB 3 0 0 1 bCondF), (0x900, bytesOf 4 0)]
theorem wit_NodeLaunches_wait : (sXw 5).wakeState 1 = 0 ∧ ((sXw 5).wreg 1 0x1803 2).wakeState 1 ≠ 0 ∧ (∀ v ∈ [5, 4], (sXw v).node? 60 0 = some (gXw, nXw) ∧ (sXw v).feRead 64 0x900 8 .dev = (.ok (bytesOf 8 v), sXw v))
    ∧ (∀ ns ∈ [1, 0], (sCf ns).feRead 64 0x780 4 .dev = (.ok (bytesOf 4 1), sCf ns) ∧ (sCf ns).feRead 64 0x700 64 .dev = (.ok (hdr 2 ns 0x800 0x780 0 3), sCf ns)
      ∧ (sCf ns).feRead 64 0x810 48 .dev = (.ok (bodyOf bCondF), sCf ns)) ∧ gCf.leaves 0 1 = false := by decide +kernel

/-- A descriptor of 16 by 16 pixels that passes R121; stream slot 2 of VF 0 with its registers; queue 2 of VF 0 with a STRIP entry at index 1. -/
def descB : List Byte := bytesOf 2 16 ++ bytesOf 2 16 ++ [0#8, 0#8, 0#8, 0#8, 2#8, 2#8, 2#8, 4#8] ++ bytesOf 4 0 ++ bytesOf 8 0x77 ++ bytesOf 4 0x55 ++ bytesOf 4 1 ++ bytesOf 8 0 ++ bytesOf 8 0 ++ bytesOf 4 4 ++ bytesOf 4 0 ++ bytesOf 8 0
def strRegs (tf : Nat) : List (Nat × Nat × Nat) := [(0, 0x1008, 0x80110000), (0, 0x0C09, 4096), (0, 0x0D40, 0x00010000), (0, 0x0D41, 0x700), (0, 0x0D43, 0x9000), (0, 0x0D45, tf), (0, 0x0D46, 16), (0, 0x0D47, 4), (0, 0x0D48, 8), (0, 0x0D49, 9), (0, 0x0D4A, 10),
  (0, 0x0D4B, 0x010101), (0, 0x0D4C, 3), (0, 0x0D56, 0x1000), (1, 0x0820, 0x80000000), (1, 0x0821, 0x600), (1, 0x0823, 4), (1, 0x0824, 1), (1, 0x0825, 2)]
def xS : StripStream := ⟨2, 1, readDesc descB, 64, none, 0, 0, 0, (0, 0), [], [], false, [], none, false, false⟩
def sStr (tf : Nat) (xs : List StripStream) (m : List (Nat × List Byte)) : State := { bare (strRegs tf) with
  streams := xs, mem := m.foldl (fun m p => mputs 0#8 m p.1 p.2) [], tlb := [⟨19, 64, 30, 0, 0, 0, true, true, true, true⟩], regs := regPut (bare (strRegs tf)).regs (regKey 0 0x1000) 0#32 }
/-- A chain: RENDER, SHADE, KERNEL, PUBLISH, each naming stream slot 2. -/
def chainM : List (Nat × List Byte) := [(0x610, entB 0x640 1 1 3), (0x640, hdr 4 3 0x800 0x780 0 3), (0x780, bytesOf 4 1 ++ bytesOf 4 2 ++ bytesOf 4 3), (0x800, nodeB 8 0 0 1 (bytesOf 4 3)),
  (0x840, nodeB 9 1 1 1 (bytesOf 36 0 ++ bytesOf 4 3)), (0x880, nodeB 1 1 2 1 []), (0x8C0, nodeB 10 1 0 0 (bytesOf 4 3 ++ [0#8, 1#8]))]
def sReg : State := sStr 4096 [xS] chainM
def gReg : Graph := match (sReg.loadGraph (newGraph 0 64 (.strip 2 0) 0x640 0 2 false none) true).1 with | .ok (g, _) => g | .error _ => gq false
def sRet (x : StripStream) : State := sStr 4096 [x] [(0x610, entB 0 2 1 3)]
def sOpen (tf : Nat) : State := sStr tf [] [(0x700, descB)]
theorem wit_StripStreams : (∀ s ∈ [sReg, sRet xS], (s.rreg 1 0x0820).getLsbD 31 = true ∧ (s.rreg 1 0x0820).toNat / 2 ^ 26 % 4 = 0 ∧ s.boot = .ready ∧ 1 ∉ s.flrs ∧ s.wakeState 1 = 0 ∧ s.rregN 1 0x0824 = 1
      ∧ (s.rregN 1 0x0825 + max 1 (s.rregN 1 0x0823) - 1) % max 1 (s.rregN 1 0x0823) ≠ 0 ∧ s.graphs = [] ∧ s.stream? 2 = some xS)
    ∧ (sReg.rdcSync 64 true).feRead 64 (sReg.rreg2 1 0x0821 + 16 * 1) 16 .sys = (.ok (entB 0x640 1 1 3), sReg)
    ∧ ((sRet xS).rdcSync 64 true).feRead 64 ((sRet xS).rreg2 1 0x0821 + 16 * 1) 16 .sys = (.ok (entB 0 2 1 3), sRet xS)
    ∧ sReg.loadGraph (newGraph 0 64 (.strip 2 0) 0x640 0 2 false none) true = (.ok (gReg, false), sReg) ∧ staged gReg.nodes ≠ none ∧ sReg.chainNames gReg = (.ok ([3, 3, 3], 0, 1), sReg)
    ∧ sReg.admits { xS with asid := 64, queue := 2, eng := (0, 1) } = true ∧ gReg.cpl = 0
    ∧ ((sOpen 4096).stream? 2 = none ∧ (sOpen 4096).feRead (64 * 1) ((sOpen 4096).rreg2 0 0x0D41) 64 .dev = (.ok descB, sOpen 4096) ∧ (sOpen 4096).descPasses descB (readDesc descB) = true
      ∧ (sOpen 4096).rreg2 0 0x0D56 = 0x1000 ∧ (sOpen 0).rregN 0 0x0D45 = 0) := by decide +kernel
/-- An instance: sequence number 1 of the stream, of which a tile has begun. -/
def st1 : Strip := ⟨1, 60, 2, 0, [], 0, [], [], [(0, 2)], [], 1, some 3, [], [11, 1], false, false, false, false⟩
def xI (t : Strip) : StripStream := { xS with tmpl := some 0x640, nextSq := 2, strips := [t] }
def sIn (t : Strip) : State := sStr 4096 [xI t] []
theorem wit_StripStreams_windows : (sStr 4096 [xI st1] []).streams = [xI st1] ∧ (xI st1).slot = 2 ∧ (xI st1).strips = [st1] ∧ (sStr 4096 [xI st1] []).wgs = [] ∧ (sStr 4096 [xI st1] []).graphs = [] ∧ 1 + 10 ∈ st1.opened ∧ 3 + 10 ∉ st1.opened := by decide +kernel

/-- A stage's node of the instance's graph: a narrow stream of one column, so that few pixels are written. -/
def dN : Desc := { readDesc descB with ow := 1 }
def xN (t : Strip) : StripStream := { xI t with desc := dN, prev := some 3, carry := [0x300, 0x308], carryOv := true }
def gN (k : Nat) (st : NodeState) : Graph := ⟨60, 64, .strip 2 1, 0x640, true, 0, 0x800, 0, 3, 0, [⟨k, 0, [], 0, st, 0, 0, 0, [], 0, none⟩], 0, false, 2, false, none⟩
def sN (k : Nat) (st : NodeState) (t : Strip) (m : List (Nat × List Byte)) : State := { sStr 4096 [xN t] m with graphs := [gN k st] }
def bRen : List Byte := bytesOf 4 3 ++ bytesOf 2 1 ++ bytesOf 2 0 ++ bytesOf 4 1 ++ bytesOf 4 0 ++ bytesOf 8 0x900
def bSh : List Byte := bytesOf 36 0 ++ bytesOf 4 3
def nodeAt (k : Nat) (b : List Byte) : List (Nat × List Byte) := [(0x800, nodeB k 0 0 0 b)]
def lSh (placed : Bool) : Launch := { loadLaunch 70 with graph := 60, node := 0, placed := placed }
def cleared : State := (List.range 16).foldl (fun (r : State) i => r.homeWrite 64 (dN.visAt 1 + 8 * i) (List.replicate 8 0xFF#8) .dev none) (sN 8 .ready st1 (nodeAt 8 bRen))
theorem wit_StageNodes : (∀ p ∈ [(8, bRen), (8, bytesOf 4 9), (9, bSh)], (sN p.1 .ready st1 (nodeAt p.1 p.2)).node? 60 0 = some (gN p.1 .ready, ⟨p.1, 0, [], 0, .ready, 0, 0, 0, [], 0, none⟩)
      ∧ (sN p.1 .ready st1 (nodeAt p.1 p.2)).strip? 2 1 = some (xN st1, st1) ∧ (sN p.1 .ready st1 (nodeAt p.1 p.2)).gate (gN p.1 .ready) 0 = true ∧ Instr.nodeComplete 60 0 ∉ (sN p.1 .ready st1 (nodeAt p.1 p.2)).agenda
      ∧ (sN p.1 .ready st1 (nodeAt p.1 p.2)).feRead 64 (0x800 + 64 * 0 + 16) 48 .dev = (.ok (bodyOf p.2), sN p.1 .ready st1 (nodeAt p.1 p.2)))
    ∧ at' (bodyOf bRen) 0 4 = 2 + 1 ∧ at' (bodyOf bRen) 4 2 = 1 ∧ zeroAt (bodyOf bRen) 6 2 = true ∧ at' (bodyOf bRen) 8 4 = 1 ∧ zeroAt (bodyOf bRen) 12 4 = true ∧ at' (bodyOf bRen) 16 8 % 8 = 0
    ∧ zeroAt (bodyOf bRen) 24 24 = true ∧ at' (bodyOf bSh) 36 4 = 3 ∧ (cleared.asset 64 (0x900 + 8 * 0) 8).1 = some (bytesOf 8 0) ∧ (cleared.asset 64 (0x900 + 8 * 0) 8).2 = cleared
    ∧ ((sN 8 .running { st1 with todo := [0x910] } [(0x910, bytesOf 32 0xFF)]).readMeshlet 64 0x910).1 = none ∧ (xN st1).desc.tiles 0 ≤ 1
    ∧ ({ sN 9 .running { st1 with next := 1 } [] with launches := [lSh false] } : State).launches.find? (fun l => l.graph == 60 && l.node == 0) = some (lSh false) := by decide +kernel

def sTl (t : Strip) : State := sStr 4096 [xN t] []
/-- A stream of two tiles a strip. -/
def xT (t : Strip) : StripStream := { xN t with desc := { dN with ow := 32 } }
def sT2 (t : Strip) : State := sStr 4096 [xT t] []
theorem wit_TilesAndFinishes : (sTl st1).strip? 2 1 = some (xN st1, st1) ∧ (sTl st1).ops = [] ∧ (sTl st1).bins = [] ∧ (sTl st1).launches = [] ∧ (sTl st1).wgs = [] ∧ (sTl st1).graphs = [] ∧ (sTl st1).l1 = []
    ∧ 0 ∉ st1.tiles ∧ (xN st1).desc.tiles (1 % max 1 dN.n) = 1 ∧ (xN st1).desc.n = 1 ∧ mget none (xN st1).costs 0 = none ∧ (xT st1).desc.tiles (1 % max 1 (xT st1).desc.n) = 2
    ∧ (xN { st1 with tiles := [0] }).ended 0 3 = true ∧ (sT2 st1).strip? 2 1 = some (xT st1, st1) ∧ (xN st1).desc.maxlvl = 4 := by decide +kernel

def bPub (kind ix : Nat) : List Byte := bytesOf 4 3 ++ bytesOf 1 kind ++ bytesOf 1 ix
def stP : Strip := { st1 with ended := [3] }
def sPub (kind ix ofmt : Nat) (owned : Bool) : State :=
  let s : State := { sStr 4096 [{ xN stP with desc := { dN with ofmt := ofmt } }] (nodeAt 10 (bPub kind ix)) with graphs := [{ gN 10 .ready with nodes := [⟨10, 0, [], 0, .ready, 0, 0, 0, [], 4, none⟩] }] }
  if owned then s.wreg 0 (0x0480 + 4 * (if kind = 0 then ix else 4 + ix)) 0x80010000 else s
theorem wit_Publication : (∀ p ∈ [(0, 3), (1, 7)], ∀ o : Bool, (sPub p.1 p.2 0 o).strip? 2 1 = some (xN stP, stP) ∧ ((sPub p.1 p.2 0 o).node? 60 0).isSome = true
      ∧ (sPub p.1 p.2 0 o).gate { gN 10 .ready with nodes := [⟨10, 0, [], 0, .ready, 0, 0, 0, [], 4, none⟩] } 0 = true ∧ Instr.nodeComplete 60 0 ∉ (sPub p.1 p.2 0 o).agenda
      ∧ (sPub p.1 p.2 0 o).feRead 64 (0x800 + 64 * 0 + 16) 48 .dev = (.ok (bodyOf (bPub p.1 p.2)), sPub p.1 p.2 0 o) ∧ at' (bodyOf (bPub p.1 p.2)) 0 4 = 3 ∧ zeroAt (bodyOf (bPub p.1 p.2)) 6 42 = true)
    ∧ ((sPub 0 3 0 true).rreg 0 0x048C).getLsbD 31 = true ∧ (sPub 0 3 0 true).rregN 0 0x048C / 2 ^ 16 % 32 = 1 ∧ ((sPub 0 3 0 false).rreg 0 0x048C).getLsbD 31 = false := by decide +kernel

/-- Two workgroups: one of a launch of a lower priority on core 0, and one that waits. -/
def lPr (p : Prio) : Launch := { launchOf base with id := 70, prio := p }
def wWt : Wg := { wgOf base with id := 71, launch := 70, state := .waiting }
def sPre (p q : Prio) : State := { base with launches := [{ launchOf base with prio := q }, lPr p], wgs := [wgOf base, wWt], threads := [], groups := [], dlc := 4294967 }
/-- A workgroup alone, in a state, without threads; queue 0 has a save area. -/
def lMin : Launch := { launchOf base with isMatrix := false, obuf := 0 }
def wSv (st : WgState) : Wg := { wgOf base with state := st }
def sSv (st : WgState) (size : Nat) : State := { base with wgs := [wSv st], launches := [lMin], threads := [], groups := [], tlb := [⟨18, 0, 52, 0, 0, 0, true, true, true, true⟩]
                                                           regs := regPut (regPut base.regs (regKey 0 0x0808) (BitVec.ofNat 32 size)) (regKey 0 0x0806) 0x1000#32 }
/-- A thread at a barrier that no other reaches, in a workgroup without work of its own. -/
def sDl : State := { base with wgs := [{ wgOf base with seq := none }], threads := [{ th0 with park := some (.bar (.wg 2 0)), wg := 2, gid := 3 }] }
/-- Two front ends share cluster 0, which front end 0 holds. -/
def sSl : State := { bare [(0, 0x1000, 0x80000000), (0, 0x1008, 0x80000000)] with slices := [(0, 1)], launches := [{ lMin with asid := 64 }], wgs := [{ wgOf base with state := .waiting }] }
theorem wit_Preemption : (∀ p ∈ [(Prio.high, Prio.normal), (.normal, .batch)], (sPre p.1 p.2).wg? wWt.id = some wWt ∧ (sPre p.1 p.2).launchOfWg wWt.id = some (lPr p.1)
      ∧ wWt.state = .waiting ∧ (sPre p.1 p.2).halts = [] ∧ (sPre p.1 p.2).mayPlace 0 = true ∧ wWt.since + 1000 * 2 ^ 32 / 1000000 = (sPre p.1 p.2).dlc ∧ (sPre p.1 p.2).victim wWt (lPr p.1) = some (wgOf base)
      ∧ (sPre p.1 p.2).unitOf (wgOf base) = [wgOf base] ∧ ((sPre p.1 p.2).rreg 0 0x0A06).getLsbD 3 = false)
    ∧ ((sPre .normal .high).victim wWt (lPr .normal) = none) ∧ (∀ x ∈ (sPre .high .normal).wgs, x.id ∈ [71] → x.state ≠ .resident)
    ∧ ((sSv .resident 0).wg? 2 = some (wSv .resident) ∧ (sSv .resident 0).launchOfWg 2 = some lMin ∧ (wSv .resident).state = .resident ∧ (sSv .resident 0).rollsBack 2 = false
      ∧ (sSv .resident 0).halts = [] ∧ (sSv .resident 0).ckpPending 0 = false ∧ ({ sSv .resident 0 with agenda := [.checkpoint 0] } : State).ckpPending 0 = true)
    ∧ ((wSv .halted).state = .halted ∧ (sSv .halted 100).wg? 2 = some (wSv .halted) ∧ (sSv .halted 100).launchOfWg 2 = some lMin ∧ (sSv .halted 100).unitOf (wSv .halted) = [wSv .halted]
      ∧ (sSv .halted 100).takeSpace 0 ((sSv .halted 100).launchQueue lMin) 0 [(2, (sSv .halted 100).imageSize 2 lMin)] = none)
    ∧ (sSl.l1 = [] ∧ (∀ x ∈ sSl.wgs, x.holds = false) ∧ ((List.range 18).filter fun c => decide (2 ≤ (sSl.sharers c).length) && mget 0 sSl.slices c == 0 + 1 && (sSl.nextHolder 0 c).isSome) = [0])
    ∧ (sDl.rregN 0 0x0A05 ≠ 0 ∧ sDl.deadlocked 0 = true) ∧ base.deadlocked 0 = false := by decide +kernel
theorem wit_Preemption_one : (∀ x ∈ (sSv .resident 0).wgs, x.id = (wSv .resident).id → x = wSv .resident) ∧ ((sSv .resident 0).wgs.map (·.id)).Nodup
    ∧ (∀ b : Bool, ({ sDl with wdogs := [0], launches := if b then [] else sDl.launches } : State).wdogs = [0]) := by decide +kernel
theorem wit_Preemption_slice : ∀ x ∈ sSl.wgs, x.holds = false := by decide +kernel
/-- A save into an area that has room and is translated throughout does not fault. -/
def sRoom : State := { sSv .halted 40960 with saves := [⟨0, 0, 2, 0, 0, 36864⟩] }
theorem wit_Preemption_save : (sSv .halted 40960).takeSpace 0 ((sSv .halted 40960).launchQueue lMin) 0 [(2, (sSv .halted 40960).imageSize 2 lMin)] = some sRoom
    ∧ ∃ t, sRoom.writeImages 0 [2] = .ok t :=
  ⟨by decide +kernel, writeImages_cached sRoom 0 2 lMin ⟨0, 0, 2, 0, 0, 36864⟩ ⟨18, 0, 52, 0, 0, 0, true, true, true, true⟩ (by decide +kernel) (by decide +kernel)
    (Prod.ext (by decide +kernel) (by decide +kernel)) (by decide +kernel) (by decide +kernel)⟩

/-- Context 0 with a queue that rolls back, or without one; with undo records, a checkpoint, or an irrevocable transaction. -/
def sCk (rb : Bool) (un : List (Nat × Nat × List Byte)) (cs : List Ckp) : State := { bare [(0, 0x0800, if rb then 0x02000000 else 0)] with undo := un, ckps := cs, tlb := [tlbAt 18] }
def ckOf (done : Bool) : Ckp := ⟨0, 1, done, [], [], [], [], [], [], [], [], [], [], 1⟩
def un2 : List (Nat × Nat × List Byte) := [(0, 0x700, [1#8, 2#8]), (5, 0x710, [3#8]), (0, 0x701, [4#8])]
/-- A collective runs that has halted context 0. -/
def sCkColl : State := { sCk true [] [] with stalls := [0], cmds := [cColl 0x10 0] }
theorem wit_Checkpoints : (sCk false [] []).takesCkp 0 = false ∧ (∀ cs ∈ [[], [ckOf false]], (sCk true un2 cs).takesCkp 0 = true ∧ (sCk true un2 cs).collRuns 0 = false) ∧ (∃ c ∈ (sCk true un2 [ckOf false]).ckps, c.asid = 0 ∧ c.complete = false)
    ∧ sCkColl.takesCkp 0 = true ∧ sCkColl.collRuns 0 = true
    ∧ ((∀ c ∈ (sCk true un2 []).ckps, c.asid = 0 → c.complete = true) ∧ (∀ t ∈ (sCk true un2 []).threads, t.st.irrev = false) ∧ (sCk true un2 []).wgs = []) := by decide +kernel
theorem wit_Checkpoints_complete : ((sCk true un2 [ckOf false]).ckps.find? fun c => c.asid == 0 && !c.complete) = some (ckOf false) ∧ (sCk true un2 [ckOf false]).protect = [] ∧ (sCk true un2 [ckOf false]).rregN 0 0x0A03 = 0
    ∧ (sCk true un2 [ckOf false]).ckpPending 0 = true := by decide +kernel
theorem wit_Checkpoints_rollback : (sCk true un2 []).unreadable 0 ((sCk true un2 []).rollbackReads 0) = (none, sCk true un2 []) ∧ (sCk true un2 []).ckpPending 0 = false ∧ (sCk true un2 []).graphs = []
    ∧ (match (sCk true un2 []).writeBackUndo 0 ((un2.filter fun u => u.1 == 0).reverse) with
      | .ok r => decide (r.wgs = [] ∧ r.graphs = [] ∧ r.ckps = [] ∧ 0 ∉ r.fatals ∧ r.regs = (sCk true un2 []).regs)
      | .error _ => false) = true
    ∧ (sCk true [(0, 0x700, [1#8])] []).undo = [(0, 0x700, [1#8])] := by decide +kernel

/-- A machine that runs, in recovery, or held. Whether a record or an image verifies is a free value (Config), so that each boot stands open. -/
def sBt (b : Boot) : State := { bare [] with boot := b }
/-- A device that has tripped, at a temperature in eighths of a degree. -/
def sTripAt (d : Int) : State := ((sBt .tripped).wreg 0 0x2C01 4).wreg 0 0x2C04 (BitVec.ofInt 32 d)
theorem wit_Resets : (((sTripAt 799).rreg 0 0x2C01).getLsbD 2 = true ∧ ((sTripAt 799).rreg 0 0x2C04).toInt < 800 ∧ (sTripAt 799).box.length < 1000)
    ∧ (((sTripAt 800).rreg 0 0x2C01).getLsbD 2 = true ∧ 800 ≤ ((sTripAt 800).rreg 0 0x2C04).toInt) ∧ ((sBt .ready).rreg 0 0x2C01).getLsbD 2 = false ∧ (sBt .ready).box.length < 1000 ∧ (∀ p ∈ (sBt .ready).inputs, p.1 ≤ (sBt .ready).stepNo → toFlash p.2 = false)
    ∧ (sBt .recovery).boot ≠ .ready ∧ (sBt .ready).boot = .ready := by decide +kernel
/-- Boot succeeds from a flash whose record verifies and whose images are signed and fresh, whatever the free functions that say so. -/
theorem wit_Resets_boots (s : State) (k : Nat) (a b c : List Byte) (hk : s.flash.bootCfg = some k) (ha : s.flash.bootImage (s.flash.configs.getD k []) 1 = some a)
    (hb : s.flash.bootImage (s.flash.configs.getD k []) 2 = some b) (hc : s.flash.bootImage (s.flash.configs.getD k []) 3 = some c) :
    ∃ k, s.flash.bootCfg = some k ∧ ∀ j, 1 ≤ j → j ≤ 3 → (s.flash.bootImage (s.flash.configs.getD k []) j).isSome = true :=
  ⟨k, hk, fun j h1 h3 => by
    have : j = 1 ∨ j = 2 ∨ j = 3 := by omega
    rcases this with rfl | rfl | rfl
    · rw [ha]; rfl
    · rw [hb]; rfl
    · rw [hc]; rfl⟩

def ans (b : List Byte) : Out := .mailbox Config.vendorId 0x51 b
def upB (kind last off n : Nat) : List Byte := bytesOf 1 kind ++ bytesOf 1 last ++ bytesOf 2 0 ++ bytesOf 4 off ++ bytesOf 4 n ++ bytesOf n 7
def winB : List Byte := [0#8, 5#8, 1#8, 3#8] ++ bytesOf 4 0 ++ bytesOf 8 0x1000 ++ bytesOf 8 0x2000
def grpB : List Byte := [1#8, 0#8, 2#8, 0#8] ++ bytesOf 2 7 ++ bytesOf 2 2 ++ bytesOf 4 1 ++ [8#8, 9#8]
theorem wit_Mailbox : (∀ b ∈ [Boot.held, .tripped, .recovery, .ready], (sBt b).boot = b) ∧ ([] : List Byte).length ≠ 32 ∧ (bytesOf 32 5).length = 32 ∧ (sBt .ready).flash.leaf < 2 ^ 20
    ∧ 2 ^ 20 ≤ ({ (sBt .ready).flash with leaf := 2 ^ 20 } : Flash).leaf ∧ (bytesOf 4 1023).length = 4 ∧ leNat (((bytesOf 4 1023).drop 0).take 2) ≤ 1023 ∧ leNat (((bytesOf 4 1023).drop 2).take 2) = 0
    ∧ (sBt .ready).boxSnap = none ∧ Instr.bbxPersistComplete ∉ (sBt .ready).agenda ∧ ({ sBt .ready with boxSnap := some [] } : State).boxSnap ≠ none
    ∧ (∀ k ∈ [1, 3], ∀ l ∈ [0, 1], 12 ≤ (upB k l 0 4).length ∧ leNat (((upB k l 0 4).drop 0).take 1) = k ∧ leNat (((upB k l 0 4).drop 1).take 1) = l ∧ leNat (((upB k l 0 4).drop 2).take 2) = 0
      ∧ leNat (((upB k l 0 4).drop 8).take 4) = 4 ∧ (upB k l 0 4).length = 12 + 4 ∧ leNat (((upB k l 0 4).drop 4).take 4) = 0 ∧ (sBt .ready).flash.signed (sBt .ready).cfg ((upB k l 0 4).drop 12) k = false)
    ∧ ((bytesOf 4 3).length = 4 ∧ leNat (((bytesOf 4 3).drop 0).take 1) = 3 ∧ leNat (((bytesOf 4 3).drop 1).take 3) = 0) ∧ (bytesOf 5520 1).length = 5520
    ∧ ((upB 0 1 0 4).length = 12 + 4 ∧ leNat (((upB 0 1 0 4).drop 0).take 1) = 0 ∧ leNat (((upB 0 1 0 4).drop 1).take 1) = 1)
    ∧ (leNat ((winB.drop 0).take 1) = 0 ∧ fabWin winB = some (5, ⟨1, 3, 0x1000, 0x2000, .f32, 0⟩)) ∧ leNat ((grpB.drop 0).take 1) = 1 ∧ fabGroup grpB = some ⟨0, 2, 7, 2, 1, [8, 9]⟩
    ∧ (sBt .ready).flash.owner ≤ 1 ∧ (sBt .ready).flash.owners.length = 2 := by decide +kernel
/-- A transfer's fields match a device whose identity and owner-key digest they name, whatever the free functions that give them. -/
theorem wit_Mailbox_transfer (s : State) (rest : List Byte) (h : (Config.cfgIdentity s.cfg).length = 64) (hd : (digest s.flash.own.pub).length = 64) (hr : rest.length = 68) (hc : s.flash.own.count = 0) (tail : List Byte) :
    s.xferFields (Config.cfgIdentity s.cfg ++ (digest s.flash.own.pub ++ (rest ++ (bytesOf 4 1 ++ tail)))) = true := by
  have e : ∀ (a b : List Byte) (n : Nat), a.length = n → (a ++ b).take n = a ∧ (a ++ b).drop n = b := fun a b n h => by subst h; simp
  have e1 := e (Config.cfgIdentity s.cfg) (digest s.flash.own.pub ++ (rest ++ (bytesOf 4 1 ++ tail))) 64 h
  have e2 := e (digest s.flash.own.pub) (rest ++ (bytesOf 4 1 ++ tail)) 64 hd
  have e3 := e rest (bytesOf 4 1 ++ tail) 68 hr
  have e4 := e (bytesOf 4 1) tail 4 rfl
  have e5 : (Config.cfgIdentity s.cfg ++ (digest s.flash.own.pub ++ (rest ++ (bytesOf 4 1 ++ tail)))).drop 196 = bytesOf 4 1 ++ tail := by
    rw [show 196 = 64 + (64 + 68) from rfl, ← List.drop_drop, e1.2, ← List.drop_drop, e2.2, e3.2]
  simp only [State.xferFields, leAt, e1.1, e1.2, e2.1, e5, e4.1, hc]
  simp; decide

def sOut (d : Bool) : State := { sBt .ready with deep := d, mem := mputs 0#8 [] 0x700 [1#8, 2#8] }
theorem wit_OutsideEvents : (∀ a ∈ [0, 2 ^ 40 - 2], a / 128 = (a + [7#8, 8#8].length - 1) / 128 ∧ 0 < [7#8, 8#8].length ∧ a + [7#8, 8#8].length ≤ 2 ^ 40) ∧ (sOut false).deep = false ∧ (sOut true).deep = true
    ∧ (sOut false).shadows = [] ∧ 0x704 % 4 = 0 ∧ (sOut false).boxSnap = none ∧ Instr.bbxPersistComplete ∉ (sOut false).agenda
    ∧ ({ sOut false with boxSnap := some [] } : State).boxSnap = some [] ∧ (sOut false).box.length < 1024 := by decide +kernel
theorem wit_Mailbox_unknown : (sBt .ready).flashBad = false ∧ (0x52 : Nat) ≠ 0x51 ∧ (∀ ty ∈ [0, 10, 255], ty < 256 ∧ (ty = 0 ∨ 9 < ty)) ∧ (sBt .ready).boot = .ready ∧ (sBt .recovery).boot = .recovery := by decide +kernel
theorem wit_OutsideEvents_bmc : (0x0C00 : Nat) ∉ [0x2C01, 0x2800, 0x2C03, 0x2C04] := by decide
theorem wit_OutsideEvents_memory : (sOut false).boot = .ready ∧ (sOut false).shadows = [] ∧ (sOut false).bad 0x700 = false ∧ (0 : Int) ≤ 919 ∧ (919 : Int) < 920 := by decide +kernel
/-- A persist that another follows. -/
def sNext (more : Bool) : State := { sOut false with boxSnap := some [⟨5, 1, 2, 3, 4, 6⟩], boxNext := more }
theorem wit_OutsideEvents_boxes : ∀ b : Bool, (sNext b).boxSnap = some [⟨5, 1, 2, 3, 4, 6⟩] ∧ (sNext b).box.length < 1024 ∧ (sNext b).boxNext = b ∧ Instr.bbxPersistComplete ∉ (sNext b).agenda := by decide +kernel

/-- A machine at the turn of its agenda, or of its lanes; the packet of the thread's chain is in memory: an IADD with its literal. -/
def sTurn (k : Nat) (ag : List Instr) (ins : List (Nat × Input)) : State := { base with turn := k, agenda := ag, inputs := ins }
def wsAt : List Nat := [0x01E102F9, 0x000003E8, 0x00E00000]
def sFetch : State := { base with turn := 1, mem := mputs 0#8 (loadTables []) 0x600 (wsAt.flatMap (bytesOf 4)), tlb := [tlbAt 0] }
def thF : Thread := sFetch.threads.headD th0
def gpF : LaneGroup := ⟨3, 0, 0, 2, []⟩
theorem wit_StepRuns_write : isWriteEvent (.ttsStep 0) = true ∧ (sTurn 0 [.ttsStep 0] []).tick.agenda = [.ttsStep 0] ∧ (sTurn 0 [.ttsStep 0] []).tick.boot = .ready
    ∧ ∃ t, exec (.ttsStep 0) { (sTurn 0 [.ttsStep 0] []).tick with agenda := [] } = .next t :=
  ⟨rfl, by decide +kernel, by decide +kernel, _, rfl⟩
/-- One input of each kind. -/
def inputs : List Input := [.ev .thermalTrip, .mmio 0 0x1000 none, .bmc 0x2C01, .doe 0 0x51 [], .hostRead 0x700 2, .memError 0x700 true, .sensor 77 800, .flashFail]
theorem wit_StepRuns_input : (∀ x ∈ inputs, (sTurn 0 [] [(1, x)]).tick.agenda = [] ∧ (sTurn 0 [] [(1, x)]).tick.inputs = [(1, x)] ∧ 1 ≤ (sTurn 0 [] [(1, x)]).tick.stepNo)
    ∧ (sTurn 0 [] [(1, .ev .thermalTrip)]).tick.atPort (.ev .thermalTrip) = false := by decide +kernel
theorem wit_StepRuns_event : let u := (sTurn 0 [.oppStep] []).tick
    u.inputs = [] ∧ u.stepNo % 64 ≠ 63 ∧ u.agenda = [.oppStep] ∧ isWriteEvent .oppStep = false ∧ u.turn % 3 = 0 ∧ u.acts .oppStep = true := by decide +kernel
theorem wit_StepRuns_lanes : let u := sFetch.tick
    u.inputs = [] ∧ u.agenda = [] ∧ u.stepNo % 64 ≠ 63 ∧ u.turn % 3 = 1 ∧ u.boot = .ready ∧ u.second = none ∧ u.groups = [gpF]
    ∧ gpF.core < 270 ∧ gpF.sched < 2 ∧ u.threads = [thF] ∧ thF.gid = gpF.id ∧ u.live thF = true ∧ thF.rep.active = false := by decide +kernel
/-- The lane as it is selected, and the machine once its packet is fetched. -/
def laneF : Thread := { thF with yields := thF.yields - 1 }
def vF : State := (({ sFetch.tick with threads := [laneF] } : State).fetchPacket gpF.core gpF.wg thF.pc).2
theorem wit_StepRuns_fetch : ({ sFetch.tick with threads := [laneF] } : State).fetchPacket gpF.core gpF.wg thF.pc = (.ok wsAt, vF) := Prod.ext (by decide +kernel) rfl
theorem wit_StepRuns_fetched : vF.ops = [] ∧ vF.threads = [laneF] := by decide +kernel
def iAt : Instr := .iadd 7 (.v 4) (.v 5) (.lit 1000)
def sHere : State := { vF with
  iss := ⟨0, 3, [laneF], thF.pc, BitVec.ofNat 64 ((thF.pc.toNat / 12 * 12 + 4 * (0 + iAt.slots)) % 2 ^ 52), 0, [], [], []⟩
  threads := [{ laneF with pc := BitVec.ofNat 64 ((thF.pc.toNat / 12 * 12 + 4 * (0 + iAt.slots)) % 2 ^ 52) }] }
theorem wit_StepRuns_word : thF.pc.toNat % 12 / 4 = 0 ∧ decodeThread (wsAt.getD 0 0) (if 0 < 2 then wsAt[1]? else none) = .ok iAt ∧ wsAt.getD 0 0 / 2 ^ 31 % 2 = 0
    ∧ (∀ a b c d, iAt ≠ .rep a b c d) ∧ sHere.issueCause iAt = none ∧ ∃ t, exec iAt sHere = .next t ∧ t.iss.retried = [] :=
  ⟨by decide +kernel, by decide +kernel, by decide +kernel, (fun _ _ _ _ h => by cases h), by decide +kernel, _, rfl, by decide +kernel⟩
theorem wit_RoundTrip : (Instr.wf iAt = true ∧ encode iAt ≠ [] ∧ Instr.inStream iAt = false)
    ∧ Instr.wf (.mloop 3 false 3) = true ∧ encode (.mloop 3 false 3) ≠ [] ∧ Instr.inStream (.mloop 3 false 3) = true := by decide +kernel
theorem wit_StepKeeps : State.reset.wellKept = true ∧ (∃ t, step State.reset = .next t) ∧ base.wellKept = true ∧ ∃ t, step (sTurn 0 [.ttsStep 0] []) = .next t :=
  ⟨by decide +kernel, ⟨_, rfl⟩, by decide +kernel, _, rfl⟩

end Sys2Proof.Tests
end

section
/-! SUPPORT. Laws of the system registers: what a write leaves in each register, and what a register write and an interrupt cause bring about. -/

namespace Sys2Proof.Machine

/-! ## Reading after writing -/

theorem mem_upFrom {c : Nat} : ∀ {n lo : Nat}, c ∈ upFrom lo n ↔ lo ≤ c ∧ c < lo + n
  | 0, lo => ⟨fun h => absurd h List.not_mem_nil, fun h => by omega⟩
  | n + 1, lo => by rw [upFrom, List.mem_cons, mem_upFrom]; omega

/-- A bit of a word read as a number is the bit of the word. -/
theorem bitOf_toNat (w : Word) (c : Nat) : bitOf w.toNat c = w.getLsbD c := by
  rw [bitOf, BitVec.getLsbD, Nat.testBit_eq_decide_div_mod_eq]; rfl

/-- What no entry of a front part lists is read behind it. -/
theorem regGet_append {j : Nat} {rest : SMap Word} : ∀ {front : SMap Word}, (∀ p ∈ front, p.1 ≠ j) → regGet (front ++ rest) j = regGet rest j
  | [], _ => rfl
  | p :: front, h => by
      have hp : j ≠ p.1 := Ne.symm (h p List.mem_cons_self)
      rw [List.cons_append, regGet, if_neg hp, regGet_append fun q hq => h q (List.mem_cons_of_mem _ hq)]

/-- A register that is not listed holds its reset value. -/
theorem regGet_unlisted {m : SMap Word} {j : Nat} (h : ∀ p ∈ m, p.1 ≠ j) : regGet m j = regReset j := by
  rw [← List.append_nil m, regGet_append h]; rfl

/-- Reading past an entry of another register, wherever the entry stands. -/
theorem regGet_insert_ne {j k : Nat} {v : Word} {rest : SMap Word} (hjk : j ≠ k) : ∀ front : SMap Word,
    regGet (front ++ (k, v) :: rest) j = regGet (front ++ rest) j
  | [] => by rw [List.nil_append, List.nil_append, regGet, if_neg hjk]
  | p :: front => by simp only [List.cons_append, regGet, regGet_insert_ne hjk front]

/-- Dropping the entries of one register leaves every other one. -/
theorem regGet_filter_ne {j k : Nat} (hjk : j ≠ k) : ∀ m : SMap Word, regGet (m.filter fun p => p.1 != k) j = regGet m j
  | [] => rfl
  | (k', v) :: m => by
      by_cases hk : k' = k
      · have hj : j ≠ k' := hk ▸ hjk
        rw [List.filter_cons_of_neg (by simpa using hk), regGet, if_neg hj, regGet_filter_ne hjk m]
      · rw [List.filter_cons_of_pos (by simpa using hk), regGet, regGet, regGet_filter_ne hjk m]

/-- Reading after listing a register that is not listed yet. -/
theorem regGet_regInsert {m : SMap Word} {k j : Nat} {v : Word} (hm : ∀ p ∈ m, p.1 ≠ k) :
    regGet (regInsert m k v) j = if j = k then v else regGet m j := by
  unfold regInsert
  by_cases hj : j = k
  · subst hj
    rw [if_pos rfl]
    split
    · next hv => rw [regGet_unlisted hm, hv]
    · rw [regGet_append fun p hp => hm p (List.takeWhile_subset _ hp), regGet, if_pos rfl]
  · rw [if_neg hj]
    split
    · rfl
    · rw [regGet_insert_ne hj, List.takeWhile_append_dropWhile]

/-- Reading after writing a register, whatever the list of them. -/
theorem regGet_regPut (m : SMap Word) (k j : Nat) (v : Word) : regGet (regPut m k v) j = if j = k then v else regGet m j := by
  have unlisted : ∀ p ∈ m.filter fun p => p.1 != k, p.1 ≠ k := fun p hp => by simpa using (List.mem_filter.mp hp).2
  rw [regPut, regGet_regInsert unlisted]
  by_cases hj : j = k
  · rw [if_pos hj, if_pos hj]
  · rw [if_neg hj, if_neg hj, regGet_filter_ne hj]

theorem rreg_wreg (s : State) (view idx view' idx' : Nat) (v : Word) :
    (s.wreg view idx v).rreg view' idx' = if regKey view' idx' = regKey view idx then v else s.rreg view' idx' := regGet_regPut ..

theorem rreg_wreg_ne {s : State} {view idx view' idx' : Nat} {v : Word} (h : regKey view' idx' ≠ regKey view idx) :
    (s.wreg view idx v).rreg view' idx' = s.rreg view' idx' := by rw [rreg_wreg, if_neg h]

/-- FE_IRQST and FE_IRQMSK are registers of their own in each view. -/
theorem regKey_irq {view idx : Nat} (h : idx = 0x0410 ∨ idx = 0x0411) : regKey view idx = view * 16384 + idx := by
  rcases h with rfl | rfl <;> simp [regKey, regHome]

/-- A VF's WAKE_ registers are part of the global block (R419). -/
theorem regKey_wake {view idx : Nat} (hv : 0 < view) (h : 0x1800 ≤ idx) (h' : idx < 0x1808) : regKey view idx = idx + 8 * (view - 1) := by
  have hlow : ¬(idx < 0x1800) := by omega
  simp [regKey, regHome, hv, h, h', hlow]

/-! ## Interrupt causes (R349, R350) -/

/-- Vectors leave at once unless the VF is collapsed at class 2 or 3. -/
theorem vecHeld_eq_false {s : State} {view : Nat} (h : view = 0 ∨ s.rregN view 0x1803 % 8 < 2 ∨ s.rregN view 0x1800 % 4 < 2) :
    s.vecHeld view = false := by
  simp only [State.vecHeld, fld, ge_iff_le, gt_iff_lt, Nat.pow_zero, Nat.div_one, Bool.and_eq_false_iff, decide_eq_false_iff_not]
  omega

/-- Writing FE_IRQST or FE_IRQMSK does not change whether vectors are held back. -/
theorem vecHeld_wreg_irq (s : State) {view idx : Nat} (v : Word) (h : idx = 0x0410 ∨ idx = 0x0411) : (s.wreg view idx v).vecHeld view = s.vecHeld view := by
  have other : ∀ o, 0 < view → 0x1800 ≤ o → o < 0x1808 → (s.wreg view idx v).rregN view o = s.rregN view o := fun o hv ho ho' => by
    have hne : regKey view o ≠ regKey view idx := by rw [regKey_wake hv ho ho', regKey_irq h]; omega
    rw [State.rregN, rreg_wreg_ne hne, State.rregN]
  by_cases hv : 0 < view
  · rw [State.vecHeld, other 0x1803 hv (by decide) (by decide), other 0x1800 hv (by decide) (by decide), State.vecHeld]
  · simp [State.vecHeld, hv]

/-- Messages leave the device, after those that left before. -/
def State.emit (s : State) (os : List Out) : State := { s with out := s.out ++ os }

theorem emit_nil (s : State) : s.emit [] = s := by rw [State.emit, List.append_nil]

theorem emit_emit (s : State) (os os' : List Out) : (s.emit os).emit os' = s.emit (os ++ os') :=
  congrArg (fun out => ({ s with out := out } : State)) (List.append_assoc s.out os os')

theorem emit_wreg (s : State) (view idx : Nat) (v : Word) (os : List Out) :
    (s.wreg view idx v).emit os = { s.wreg view idx v with out := s.out ++ os } := rfl

theorem vecHeld_emit (s : State) (os : List Out) (view : Nat) : (s.emit os).vecHeld view = s.vecHeld view := rfl

theorem vector_sent {s : State} {view c : Nat} (h : s.vecHeld view = false) : s.vector view c = s.emit [.msix view c] := by
  rw [State.vector, h]; rfl

/-- Vectors of a VF that holds none back leave in their order. -/
theorem over_vector {view : Nat} : ∀ {cs : List Nat} {s : State}, s.vecHeld view = false →
    (s.over cs fun s c => s.vector view c) = s.emit (cs.map (Out.msix view))
  | [], s, _ => (emit_nil s).symm
  | c :: cs, s, h => by
      have step : (s.over (c :: cs) fun s c => s.vector view c) = (s.vector view c).over cs fun s c => s.vector view c := rfl
      rw [step, vector_sent h, over_vector ((vecHeld_emit s _ view).trans h), emit_emit, List.map_cons, List.singleton_append]

/-- A cause that was set or is masked: its bit is all that is set. -/
theorem irq_quiet {s : State} {view c : Nat} (h : (s.rreg view 0x0410).getLsbD c = true ∨ (s.rreg view 0x0411).getLsbD c = true) :
    s.irq view c = s.wreg view 0x0410 (s.rreg view 0x0410 ||| 1#32 <<< c) := by
  refine if_neg ?_
  simp only [State.rregN, bitOf_toNat]
  rcases h with h | h <;> simp [h]

/-- A cause that rises unmasked: its vector leaves too. -/
theorem irq_sent {s : State} {view c : Nat} (hst : (s.rreg view 0x0410).getLsbD c = false) (hmsk : (s.rreg view 0x0411).getLsbD c = false)
    (hv : s.vecHeld view = false) :
    s.irq view c = (s.wreg view 0x0410 (s.rreg view 0x0410 ||| 1#32 <<< c)).emit [.msix view c] := by
  have rises : (!bitOf (s.rregN view 0x0410) c && !bitOf (s.rregN view 0x0411) c) = true := by
    simp only [State.rregN, bitOf_toNat, hst, hmsk, Bool.not_false, Bool.and_self]
  have free : (s.setBit view 0x0410 c true).vecHeld view = false := (vecHeld_wreg_irq s _ (.inl rfl)).trans hv
  exact (if_pos rises).trans (vector_sent free)

/-! ## Writes to an open register (R3) -/

/-- What the fields of a register hold after a write under their access codes. -/
def newFields (view idx : Nat) (old v : Word) : Word :=
  ((old &&& ~~~(regRw view idx)) ||| (regClamp view idx v &&& regRw view idx)) &&& ~~~(v &&& regW1c view idx)

/-- A field of plain access takes the limited value, a field that a 1 clears is cleared by it, and every other bit stays. -/
theorem newFields_getLsbD (view idx : Nat) (old v : Word) (c : Nat) : (newFields view idx old v).getLsbD c =
    ((if (regRw view idx).getLsbD c then (regClamp view idx v).getLsbD c else old.getLsbD c) && !(v.getLsbD c && (regW1c view idx).getLsbD c)) := by
  simp only [newFields, BitVec.getLsbD_and, BitVec.getLsbD_or, BitVec.getLsbD_not]
  by_cases hc : c < 32
  · cases (regRw view idx).getLsbD c <;> simp [hc]
  · simp [hc, BitVec.getLsbD_of_ge, Nat.le_of_not_lt hc]

/-- Fields that no write sets or clears stay. -/
theorem newFields_eq_old {view idx : Nat} (hrw : regRw view idx = 0#32) (hw1c : regW1c view idx = 0#32) (old v : Word) :
    newFields view idx old v = old := by
  refine BitVec.eq_of_getLsbD_eq fun c _ => ?_
  simp [newFields_getLsbD, hrw, hw1c]

/-- A write that starts nothing leaves the events to come as they are. -/
theorem postWrite_nil (s : State) : s.postWrite [] = s := by
  rw [State.postWrite, List.append_nil, List.takeWhile_append_dropWhile]

/-- Indices whose writes bring about something beside their fields and their event. -/
def hasWriteSide (idx : Nat) : Prop :=
  idx = 0x0411 ∨ idx = 0x0C08 ∨ idx = 0x1E09 ∨ idx = 0x1E0A ∨ idx = 0x2C00 ∨ (0x1C00 ≤ idx ∧ idx < 0x1E00 ∧ idx % 8 = 5)

theorem writeSide_eq_self {idx : Nat} (h : ¬hasWriteSide idx) (s : State) (view : Nat) (old v : Word) : s.writeSide view idx old v = s := by
  simp only [hasWriteSide, not_or] at h
  obtain ⟨h411, hc08, h1e09, h1e0a, h2c00, hring⟩ := h
  have hring' : ¬((0x1C00 ≤ idx ∧ idx < 0x1E00) ∧ idx % 8 = 5) := fun ⟨⟨hlo, hhi⟩, hmod⟩ => hring ⟨hlo, hhi, hmod⟩
  simp [State.writeSide, h411, hc08, h1e09, h1e0a, h2c00, hring']

/-- A write to any register but the step's low half and WAKE_CTL: the fields, what they bring about, and the event. -/
theorem regWrite_eq {s : State} {r : Requester} {k : Nat} {v : Word} (hlow : k ≠ 0x0C03)
    (hctl : ¬(0x1800 ≤ k ∧ k < 0x1C00) ∨ ∀ n, wakeAt r.view k ≠ some (n, 0)) :
    s.regWrite r k v = ((s.wreg r.view k (newFields r.view k (s.rreg r.view k) v)).writeSide r.view k (s.rreg r.view k)
      (newFields r.view k (s.rreg r.view k) v)).postWrite (writeEvent r k v) := by
  simp only [State.regWrite, if_neg hlow]
  split
  · next hk =>
      simp only [Bool.and_eq_true, decide_eq_true_eq] at hk
      split
      · next n hn => exact absurd hn (hctl.resolve_left (not_not.mpr hk) n)
      · rfl
  · rfl

/-- A write to a register of plain fields: they follow their access codes, and nothing else happens. -/
theorem regWrite_plain {s : State} {r : Requester} {k : Nat} {v : Word} (hlow : k ≠ 0x0C03) (hwake : ¬(0x1800 ≤ k ∧ k < 0x1C00))
    (hside : ¬hasWriteSide k) (hev : writeEvent r k v = []) : s.regWrite r k v = s.wreg r.view k (newFields r.view k (s.rreg r.view k) v) := by
  rw [regWrite_eq hlow (.inl hwake), writeSide_eq_self hside, hev, postWrite_nil]

/-- The machine after a write that changes no field: event `i` comes before every event but those of earlier writes. -/
def State.started (s : State) (view k : Nat) (i : Instr) : State :=
  { s.wreg view k (s.rreg view k) with agenda := s.agenda.takeWhile isWriteEvent ++ [i] ++ s.agenda.dropWhile isWriteEvent }

/-- A write to a register without plain fields, whose write is an event. -/
theorem regWrite_starts {s : State} {r : Requester} {k : Nat} {v : Word} {i : Instr} (hlow : k ≠ 0x0C03)
    (hctl : ¬(0x1800 ≤ k ∧ k < 0x1C00) ∨ ∀ n, wakeAt r.view k ≠ some (n, 0)) (hside : ¬hasWriteSide k)
    (hrw : regRw r.view k = 0#32) (hw1c : regW1c r.view k = 0#32) (hev : writeEvent r k v = [i]) :
    s.regWrite r k v = s.started r.view k i := by
  rw [regWrite_eq hlow hctl, newFields_eq_old hrw hw1c, writeSide_eq_self hside, hev]; rfl

/-- Which causes of FE_IRQST a write to FE_IRQMSK lets out: those set that were masked and are not any more. -/
def unmaskedCauses (st old new : Word) : List Nat := (upFrom 0 32).filter fun c => st.getLsbD c && old.getLsbD c && !new.getLsbD c

theorem mem_unmaskedCauses {st old new : Word} {c : Nat} :
    c ∈ unmaskedCauses st old new ↔ c < 32 ∧ st.getLsbD c = true ∧ old.getLsbD c = true ∧ new.getLsbD c = false := by
  simp [unmaskedCauses, mem_upFrom, and_assoc]

/-- Unmasking sends the vectors that were waiting for it (R350). -/
theorem unmask_sent {s : State} {view : Nat} (old new : Word) (h : s.vecHeld view = false) :
    s.unmask view old new = s.emit ((unmaskedCauses (s.rreg view 0x0410) old new).map (Out.msix view)) := by
  simp only [State.unmask, State.rregN, bitOf_toNat]
  exact over_vector h

end Sys2Proof.Machine
end

section
/-! O37, RegisterEffects: the writes that start something, the write that unmasks, and the statement. -/

namespace Sys2Proof.Machine

/-! ## The writes that start something -/

/-- A write to HAL_QTAIL of queue `q` is a notify (R352). -/
theorem qtail_write (s : State) (r : Requester) (v : Word) {q : Nat} (hq : q < 32) :
    s.regWrite r (0x0805 + 16 * q) v = s.started r.view (0x0805 + 16 * q) (.queueNotify r.view q v) := by
  obtain ⟨k, hk⟩ : ∃ k, k = 0x0805 + 16 * q := ⟨_, rfl⟩
  have hmod : k % 16 = 5 := by omega
  have hdiv : (k - 0x0800) / 16 = q := by omega
  have hlo : 0x0800 ≤ k := by omega
  have hhi : k < 0x0A00 := by omega
  have hmod8 : k % 8 = 5 := by omega
  have h410 : k ≠ 0x0410 := by omega
  have h411 : k ≠ 0x0411 := by omega
  have hc05 : k ≠ 0x0C05 := by omega
  have h1e06 : k ≠ 0x1E06 := by omega
  have heng : ¬(k < 0x04B0) := by omega
  have hrun : ¬(k < 0x0540) := by omega
  have hscr : ¬(0x1400 ≤ k) := by omega
  rw [← hk]
  apply regWrite_starts
  · omega
  · exact .inl (by omega)
  · unfold hasWriteSide; omega
  · simp [regRw, h411, heng, hrun, hlo, hhi, hmod]
  · simp [regW1c, h410, hc05, h1e06, hscr, hmod, hmod8]
  · simp [writeEvent, hlo, hhi, hmod, hdiv]

/-- The write to TTS_STEPHI applies the step (R361). -/
theorem stepHi_write (s : State) (r : Requester) (v : Word) : s.regWrite r 0x0C04 v = s.started r.view 0x0C04 (.ttsStep v) :=
  regWrite_starts (by decide) (.inl (by decide)) (by unfold hasWriteSide; omega) (by simp [regRw]) rfl rfl

/-- TLB_INVCTL with its GO bit starts the invalidation that its KIND field names (R394). -/
theorem invCtl_write (s : State) (r : Requester) {v : Word} (hgo : v.getLsbD 31 = true) :
    s.regWrite r 0x1E02 v = s.started r.view 0x1E02 (match v.toNat / 2 ^ 26 % 4 with
      | 0 => .tlbInvStage1Range r.view r.level (v.toNat / 2 ^ 16 % 64)
      | 1 => .tlbInvContext r.view r.level (v.toNat / 2 ^ 16 % 64)
      | 2 => .tlbInvStage2Range r.view r.level
      | _ => .tlbInvFrontEnd r.view r.level) := by
  have hbit : bitOf v.toNat 31 = true := (bitOf_toNat v 31).trans hgo
  apply regWrite_starts
  · decide
  · exact .inl (by decide)
  · unfold hasWriteSide; omega
  · simp [regRw]
  · rfl
  · have hkind : fld v.toNat 26 2 = v.toNat / 2 ^ 26 % 4 := rfl
    have hctx : fld v.toNat 16 6 = v.toNat / 2 ^ 16 % 64 := rfl
    have hlt : v.toNat / 2 ^ 26 % 4 < 4 := Nat.mod_lt _ (by decide)
    simp only [writeEvent, hbit, hkind, hctx]
    generalize v.toNat / 2 ^ 26 % 4 = kind at hlt
    interval_cases kind <;> rfl

/-- TLB_PRRESP starts the refusal or the retry of a page request (R399). -/
theorem prResp_write (s : State) (r : Requester) (v : Word) : s.regWrite r 0x1E07 v = s.started r.view 0x1E07
    (if v.getLsbD 31 then .pageRequestRefuse r.view (v.toNat % 2 ^ 16) else .pageRequestRetry r.view (v.toNat % 2 ^ 16)) := by
  apply regWrite_starts
  · decide
  · exact .inl (by decide)
  · unfold hasWriteSide; omega
  · simp [regRw]
  · rfl
  · have htag : fld v.toNat 0 16 = v.toNat % 2 ^ 16 := by rw [fld, Nat.pow_zero, Nat.div_one]
    have hev : writeEvent r 0x1E07 v = if bitOf v.toNat 31 then [.pageRequestRefuse r.view (fld v.toNat 0 16)]
      else [.pageRequestRetry r.view (fld v.toNat 0 16)] := rfl
    rw [hev, htag, bitOf_toNat]
    split <;> rfl

/-- LOD_FLUSH takes a context's keys out of the cluster filters (R407). -/
theorem lodFlush_write (s : State) (r : Requester) (v : Word) : s.regWrite r 0x2600 v = s.started r.view 0x2600 (.lodFlush r.view v) :=
  regWrite_starts (by decide) (.inl (by decide)) (by unfold hasWriteSide; omega) (by simp [regRw]) rfl rfl

/-- WAKE_WAKE of a VF starts its wake (R419, R422). -/
theorem wakeWake_write (s : State) {r : Requester} (v : Word) {n : Nat} (hv : r.view = n + 1) :
    s.regWrite r 0x1801 v = s.started r.view 0x1801 (.wakeWake n) := by
  have hat : wakeAt r.view 0x1801 = some (n, 1) := by simp [wakeAt, hv]
  exact regWrite_starts (by decide) (.inr fun m => by simp [hat]) (by unfold hasWriteSide; omega)
    (by simp [regRw, hat]) rfl (by simp [writeEvent, hat])

/-! ## The write that unmasks -/

/-- Of a VF's mask a write sets the nine low bits. -/
theorem newFields_mask_getLsbD {view : Nat} (hv : view ≠ 0) (old v : Word) (c : Nat) :
    (newFields view 0x0411 old v).getLsbD c = if c < 9 then v.getLsbD c else old.getLsbD c := by
  have hrw : regRw view 0x0411 = (BitVec.allOnes 9).setWidth 32 := by simp [regRw, hv]
  have hw1c : regW1c view 0x0411 = 0#32 := rfl
  have hclamp : regClamp view 0x0411 v = v := rfl
  rw [newFields_getLsbD, hrw, hw1c, hclamp]
  have hmask : ((BitVec.allOnes 9).setWidth 32).getLsbD c = decide (c < 9) := by
    rw [BitVec.getLsbD_setWidth, BitVec.getLsbD_allOnes, Bool.and_eq_right_iff_imp]
    simp only [decide_eq_true_eq]; omega
  rw [hmask]; simp

/-- A VF that holds no vectors back: a write to its mask lets out the causes that it unmasks. -/
theorem mask_write {s : State} {r : Requester} (v : Word) (h : s.vecHeld r.view = false) :
    s.regWrite r 0x0411 v = (s.wreg r.view 0x0411 (newFields r.view 0x0411 (s.rreg r.view 0x0411) v)).emit
      ((unmaskedCauses (s.rreg r.view 0x0410) (s.rreg r.view 0x0411) (newFields r.view 0x0411 (s.rreg r.view 0x0411) v)).map (Out.msix r.view)) := by
  have hother : regKey r.view 0x0410 ≠ regKey r.view 0x0411 := by rw [regKey_irq (.inl rfl), regKey_irq (.inr rfl)]; omega
  rw [regWrite_eq (by decide) (.inl (by decide)), show writeEvent r 0x0411 v = [] from rfl, postWrite_nil]
  refine (unmask_sent _ _ ((vecHeld_wreg_irq s _ (.inr rfl)).trans h)).trans ?_
  rw [rreg_wreg_ne hother]

/-- A write to a VF's mask sends the vectors of just the causes that are set, were masked and are no longer. -/
theorem mask_write_sends {s : State} {r : Requester} (v : Word) (hv : r.view ≠ 0) (h : s.vecHeld r.view = false) :
    ∃ cs : List Nat, (∀ c, c ∈ cs ↔ c < 9 ∧ (s.rreg r.view 0x0410).getLsbD c = true ∧ (s.rreg r.view 0x0411).getLsbD c = true ∧ v.getLsbD c = false)
      ∧ s.regWrite r 0x0411 v = (s.wreg r.view 0x0411 (newFields r.view 0x0411 (s.rreg r.view 0x0411) v)).emit (cs.map (Out.msix r.view)) := by
  refine ⟨_, fun c => ?_, mask_write v h⟩
  rw [mem_unmaskedCauses, newFields_mask_getLsbD hv]
  by_cases hc : c < 9
  · have hc' : c < 32 := by omega
    simp only [hc, hc', if_true, true_and]
  · simp only [hc, if_false, false_and, iff_false]
    rintro ⟨-, -, hold, hnew⟩
    exact absurd (hold.symm.trans hnew) (by decide)

/-! ## The statement -/

/-- FUNCTION_CORE_UNRESPONSIVE raises FATAL of its VF (R345). -/
theorem functionCoreUnresponsive_irq (s : State) {n : Nat} (hn : n < 16) : exec (.functionCoreUnresponsive n) s = .next (s.irq (n + 1) 4) :=
  congrArg Host.Outcome.next (if_pos hn)

/-- Settles O37: each kind of register write and of interrupt cause by the lemma about it. -/
theorem registerEffects : Obligations.RegisterEffects := by
  unfold Obligations.RegisterEffects
  refine ⟨fun s r k v => ⟨?plain, ?read, ?notify, ?step, ?tlb, ?page, ?lod, ?wake, ?mask⟩, fun s n view c _ => ⟨irq_quiet, ?sent, ?core⟩⟩
  case plain =>
    intro hev hk hring hwake
    simp only [List.mem_cons, List.not_mem_nil, or_false, not_or] at hk
    obtain ⟨hmsk, hlow, hclk, hlo, hhi, hpt⟩ := hk
    refine regWrite_plain hlow hwake ?_ hev
    unfold hasWriteSide; omega
  case read => exact fun view' k' w => rreg_wreg s r.view k view' k' w
  case notify => rintro q hq rfl; exact qtail_write s r v hq
  case step => rintro rfl; exact stepHi_write s r v
  case tlb => rintro rfl hgo; exact invCtl_write s r hgo
  case page => rintro rfl; exact prResp_write s r v
  case lod => rintro rfl; exact lodFlush_write s r v
  case wake => rintro n _ rfl hv; exact wakeWake_write s v hv
  case mask =>
    rintro rfl hv _ hawake
    obtain ⟨cs, hcs, hw⟩ := mask_write_sends v hv (vecHeld_eq_false (.inr hawake))
    exact ⟨cs, hcs, hw.trans (emit_wreg ..)⟩
  case sent => exact fun hst hmsk hawake => (irq_sent hst hmsk (vecHeld_eq_false (hawake.imp id .inl))).trans (emit_wreg ..)
  case core => exact functionCoreUnresponsive_irq s

end Sys2Proof.Machine
end

section
/-! SUPPORT. Laws of an instruction that acts in one lane: what it finds, how it traps, and what releases and acquires leave of a quiet machine. -/

namespace Sys2Proof.Machine

/-! ## One record found and updated -/

theorem wg?_id {s : State} {n : Nat} {w : Wg} (h : s.wg? n = some w) : w.id = n := by simpa using List.find?_some h

theorem wg?_mem {s : State} {n : Nat} {w : Wg} (h : s.wg? n = some w) : w ∈ s.wgs := List.mem_of_find?_eq_some h

theorem thr?_mem {s : State} {n : Nat} {t : Thread} (h : s.thr? n = some t) : t ∈ s.threads := List.mem_of_find?_eq_some h

/-- Where workgroups have names of their own, the one that is found is the only one of its name. -/
theorem eq_of_wg? {s : State} {n : Nat} {w x : Wg} (hs : (s.wgs.map (·.id)).Nodup) (h : s.wg? n = some w) (hx : x ∈ s.wgs) (hn : x.id = n) : x = w :=
  List.inj_on_of_nodup_map hs hx (wg?_mem h) (hn.trans (wg?_id h).symm)

/-- The workgroup that is found after an update of it. -/
theorem wg?_updWg_same {s : State} {n : Nat} {w : Wg} {f : Wg → Wg} (h : s.wg? n = some w)
    (hf : ∀ w, (f w).id = w.id := by intro; rfl) : (s.updWg n f).wg? n = some (f w) := by rw [wg?_updWg s n n f hf, h, Option.map_some, if_pos (wg?_id h)]

/-- The thread that is found after an update of it. -/
theorem thr?_updThr_same {s : State} {t : Thread} {f : Thread → Thread} (h : s.thr? t.uid = some t)
    (hf : ∀ t, (f t).uid = t.uid := by intro; rfl) : (s.updThr t.uid f).thr? t.uid = some (f t) := by
  rw [thr?_updThr s _ _ f hf, h, Option.map_some, if_pos rfl]

/-- The thread that is found after an update of another. -/
theorem thr?_updThr_other {s : State} {t : Thread} {m n : Nat} {f : Thread → Thread} (h : s.thr? n = some t) (hne : n ≠ m)
    (hf : ∀ t, (f t).uid = t.uid := by intro; rfl) : (s.updThr m f).thr? n = some t := by
  have hid : t.uid = n := by simpa using List.find?_some h
  rw [thr?_updThr s _ _ f hf, h, Option.map_some, if_neg (by omega)]

/-- An update that changes no workgroup of its name changes nothing. -/
theorem updWg_eq_self {s : State} {n : Nat} {f : Wg → Wg} (h : ∀ x ∈ s.wgs, x.id = n → f x = x) : s.updWg n f = s := by
  have same : (s.wgs.map fun x => if x.id = n then f x else x) = s.wgs := by
    conv_rhs => rw [← List.map_id s.wgs]
    refine List.map_congr_left fun x hx => ?_
    by_cases hn : x.id = n
    · rw [if_pos hn, h x hx hn, id]
    · rw [if_neg hn, id]
  rw [State.updWg, same]

theorem updWg_updWg (s : State) (n : Nat) (f h : Wg → Wg) (hf : ∀ w, (f w).id = w.id) :
    (s.updWg n f).updWg n h = s.updWg n fun w => h (f w) := by
  simp only [State.updWg, List.map_map]
  congr 1
  refine List.map_congr_left fun w _ => ?_
  by_cases hw : w.id = n <;> simp [hw, hf]

/-! ## One acting lane -/

theorem issued_body {s : State} {i : Instr} {body : State → State} (h : s.issueCause i = none) : issued i s body = .next (body s) := by
  rw [issued, h]

theorem eachLane_one {s : State} {g : Pred} {t : Thread} (h : s.acting g = [t]) (f : State → Thread → State) : s.eachLane g f = f s t := by
  rw [State.eachLane, h]; rfl

theorem consuming_one {s : State} {g : Pred} {t : Thread} {os : List Opnd} (h : s.acting g = [t]) (hp : os.any t.opPois = false)
    (f : State → Thread → State) : s.consuming g os f = f s t := by
  rw [State.consuming, eachLane_one h, if_neg (by simp [hp])]

theorem realLanes_one {s : State} {g : Pred} {t : Thread} (h : s.acting g = [t]) (hh : t.helper = false) : s.realLanes g = [t] := by
  rw [State.realLanes, h, List.filter_cons_of_pos (by simp [hh]), List.filter_nil]

theorem toTarget_ok {s : State} {t : Thread} {a : DWord} (hlt : a.toNat < 2 ^ 52) (hmod : a.toNat % 12 = 0) (f : State → State) :
    s.toTarget t a f = f s := by
  rw [State.toTarget, targetCause, if_neg (by omega), if_neg (by omega)]

/-- A lane that may trap traps at this chain, and nothing else happens (R221, R222). -/
theorem trapHere_mayTrap {s : State} {t : Thread} {entry : DWord} (ht : s.thr? t.uid = some t) (h : s.mayTrap t entry) (cause code : Nat)
    (xaddr : DWord) : s.trapHere t.uid cause code xaddr = s.trapsHere t entry cause code xaddr := by
  obtain ⟨hinh, hentry, htx⟩ := h
  have hrv : (t.tx.isSome && !t.st.irrev) = false := by
    cases hs : t.tx.isSome
    · rfl
    · simp [htx hs]
  simp only [State.trapHere, State.takeTrap, ht, hrv, hinh, hentry, Bool.false_eq_true, if_false]
  rfl

/-! ## A quiet machine -/

/-- A thread of no operation in flight has nothing outstanding. -/
theorem drained_of_ops {s : State} {n : Nat} (h : ∀ o ∈ s.ops, ∀ l ∈ o.lanes, l.uid ≠ n) : s.drained n = true := by
  simp only [State.drained, Bool.not_eq_true', List.any_eq_false]
  exact fun o ho hany => by
    obtain ⟨l, hl, hn⟩ := List.any_eq_true.mp hany
    exact h o ho l hl (by simpa using hn)

theorem drained_of_nil {s : State} {n : Nat} (h : s.ops = []) : s.drained n = true := by
  rw [State.drained, h]; rfl

theorem release_narrow {s : State} {core asid : Nat} {sc : Scope} (h : Scope.num sc ≤ 1) : s.release core asid sc = s := by
  rw [State.release, if_pos (by simpa [Scope.narrow] using h)]

theorem acquire_narrow {s : State} {core asid : Nat} {sc : Scope} (h : Scope.num sc ≤ 1) : s.acquire core asid sc = s := by
  rw [State.acquire, if_pos (by simpa [Scope.narrow] using h)]

/-- Without L1 lines a release below .fab has nothing to write back (R98). -/
theorem release_noLines {s : State} {core asid : Nat} {sc : Scope} (h : s.l1 = []) (hsc : Scope.num sc < 4) : s.release core asid sc = s := by
  rw [State.release, h, List.filter_nil]
  split
  · rfl
  · exact if_neg (by omega)

/-- Nor has an acquire anything to drop. -/
theorem acquire_noLines {s : State} {core asid : Nat} {sc : Scope} (h : s.l1 = []) (hsc : Scope.num sc < 4) : s.acquire core asid sc = s := by
  rw [State.acquire, h, List.filter_nil]
  split
  · rfl
  · exact if_neg (by omega)

/-- A workgroup with a live thread, whose sequencer, if any, has not trapped, is not complete (R33). -/
theorem wgCheck_live {s : State} {w : Wg} {n : Nat} {u : Thread} (hw : s.wg? n = some w) (hq : w.seq = none) (hu : u ∈ s.threads) (huw : u.wg = n) :
    s.wgCheck n = s := by
  have hlive : (s.wgThreads n).isEmpty = false := by
    rw [List.isEmpty_eq_false_iff_exists_mem]
    exact ⟨u, List.mem_filter.mpr ⟨hu, by simp [huw]⟩⟩
  rw [State.wgCheck, hw]
  cases hl : s.launchOfWg n with
  | none => rfl
  | some l => simp [hq, hlive]

end Sys2Proof.Machine
end

section
/-! O20, ThreadLifeResults: a unit placed on a core without bins, the end of a thread in a quiet machine, and the statement. -/

namespace Sys2Proof.Machine

/-! ## A unit enters the first bin (R26) -/

/-- One thread placed in a bin that it opens: bin 0 of the core, with its timer started now. -/
def State.binned (s : State) (core wg : Nat) (entry : DWord) (sd : Seed) : State :=
  { s with bins := [⟨core, 0, wg, entry, false, s.fresh, s.dlc, [sd], none⟩], fresh := s.fresh + 1 }

/-- A thread that the shade stage has not made begins no tile. -/
theorem tileBegins_other {s : State} {wg : Nat} {sd : Seed} (h : sd.origin ≠ 3) : s.tileBegins wg [sd] = s := by
  have none_ : shadeTile [sd] = none := by simp [shadeTile, h]
  rw [State.tileBegins, none_]
  cases (s.launchOfWg wg).bind (·.shade) <;> rfl

theorem binAccept_noBins {s : State} {core wg : Nat} {entry : DWord} {sd : Seed} (hb : s.bins = []) (ho : sd.origin ≠ 3) :
    s.binAccept core wg entry [sd] = some (s.binned core wg entry sd) := by
  have free : ((upFrom 0 64).find? fun n => !(s.bins.any fun b => b.core == core && b.num == n)) = some 0 := by rw [hb]; rfl
  have room : (s.bins.filter fun b => b.key core wg entry ([sd].length == 4) && b.lanes.length + [sd].length ≤ 32) = [] := by rw [hb]; rfl
  rw [State.binAccept, room, free]
  simp only [sortKey, List.foldr_nil, List.head?_nil, State.newId, hb, List.nil_append, tileBegins_other ho]
  simp [State.binPut, State.binned]

theorem zeroDepth_noStack {s : State} {w : Wg} {l : Launch} {n : Nat} {sd : Seed} (hw : s.wg? n = some w) (hl : s.launch? w.launch = some l)
    (hr : l.rstack = 0) : s.zeroDepth n sd = s := by
  simp [State.zeroDepth, State.launchOfWg, hw, hl, hr]

/-- A thread of a launch without traversal stacks, placed on a core without bins behind an empty ring. -/
theorem placeUnit_noBins {s : State} {w : Wg} {l : Launch} {n : Nat} {entry : DWord} {sd : Seed} (hw : s.wg? n = some w)
    (hl : s.launch? w.launch = some l) (hr : l.rstack = 0) (hring : w.ring = []) (hb : s.bins = []) (ho : sd.origin ≠ 3) :
    s.placeUnit n entry [sd] = s.binned w.core n entry sd := by
  have hlw : s.launchOfWg n = some l := by rw [State.launchOfWg, hw]; exact hl
  simp only [State.placeUnit, hw, hlw, State.over, List.foldl_cons, List.foldl_nil, zeroDepth_noStack hw hl hr, hring, List.isEmpty_nil,
    if_true, binAccept_noBins hb ho]

/-! ## A thread leaves (R30) -/

/-- The machine without a thread, and without the group that it was the last of. -/
def State.without (s : State) (uid : Nat) : State :=
  ({ s with threads := s.threads.filter (·.uid != uid), tokens := s.tokens.filter (·.2 != uid) } : State).pruneGroups

theorem leaveGens_noGens {s : State} {uid : Nat} (h : s.gens = []) : s.leaveGens uid = s := by
  rw [State.leaveGens, h]
  exact congrArg (fun gs => ({ s with gens := gs } : State)) h.symm

/-- A round in which a live thread has not arrived stays open (R31). -/
theorem roundCheck_open {s : State} {w : Wg} {n : Nat} {r : Round} {u : Thread} (hw : s.wg? n = some w) (hr : w.round = some r) (hu : u ∈ s.threads)
    (huw : u.wg = n) (hnot : ∀ p ∈ r.arrived, p.1 ≠ u.uid) : s.roundCheck n = s := by
  have waits : ((s.wgThreads n).all fun v => r.arrived.any fun p => p.1 == v.uid) = false :=
    List.all_eq_false.mpr ⟨u, List.mem_filter.mpr ⟨hu, by simp [huw]⟩, fun hany => by
      obtain ⟨p, hp, he⟩ := List.any_eq_true.mp hany
      exact hnot p hp (by simpa using he)⟩
  rw [State.roundCheck, hw, Option.bind_some, hr]
  simp only [waits, Bool.and_false, Bool.false_eq_true, if_false]

theorem roundCheck_noRound {s : State} {w : Wg} {n : Nat} (hw : s.wg? n = some w) (h : w.round = none) : s.roundCheck n = s := by
  rw [State.roundCheck, hw, Option.bind_some, h]

/-- Without barrier generations and rounds a thread leaves nothing but its lane and its token. -/
theorem removeThread_quiet {s : State} {t : Thread} {w : Wg} (ht : s.thr? t.uid = some t) (hw : s.wg? t.wg = some w) (hround : w.round = none)
    (hg : s.gens = []) (hs : (s.wgs.map (·.id)).Nodup) : s.removeThread t.uid = s.without t.uid := by
  simp only [State.removeThread, ht]
  change ((((s.without t.uid).leaveGens t.uid).updWg t.wg _).roundCheck t.wg) = _
  rw [leaveGens_noGens (s := s.without t.uid) hg, updWg_eq_self, roundCheck_noRound (s := s.without t.uid) hw hround]
  intro x hx hn
  obtain rfl : x = w := eq_of_wg? hs hw hx hn
  rw [hround, Option.map_none, ← hround]

/-! ## Payloads -/

theorem upFrom_eq_map (n : Nat) : ∀ lo, upFrom lo n = (List.range n).map (lo + ·) := by
  induction n with
  | zero => exact fun _ => rfl
  | succ n ih =>
      intro lo
      rw [upFrom, ih, List.range_succ_eq_map, List.map_cons, List.map_map]
      simp only [List.cons.injEq, Nat.add_zero, true_and]
      exact List.map_congr_left fun k _ => by simp only [Function.comp, Nat.succ_eq_add_one]; omega

theorem payload_eq (t : Thread) (vs n : Nat) : t.payload vs n = (List.range n).map fun i => (t.val (vs + i), t.poisoned (vs + i)) := by
  rw [Thread.payload, upFrom_eq_map, List.map_map]; rfl

/-! ## The statement -/

section
variable {s : State} {g : Pred} {t : Thread} {w : Wg} {l : Launch}

/-- EXIT outside a transaction ends the thread (R228). -/
theorem exit_ends (h : s.alone (.exit g) g t) (hw : s.wg? t.wg = some w) (htx : t.tx = none) (hround : w.round = none) (hg : s.gens = [])
    (hs : (s.wgs.map (·.id)).Nodup) : exec (.exit g) s =
      .next (((({ s.without t.uid with ended := s.ended ++ [(w.core, t)] } : State).tileCheck t.wg t.tile).wgCheck t.wg).coreFreed w.core) := by
  obtain ⟨⟨hi, -⟩, hact, ht⟩ := h
  have hcore : s.coreOf t.wg = w.core := by rw [State.coreOf, hw]; rfl
  have hdrop : s.dropTxLanes t = s := by rw [State.dropTxLanes, htx]; rfl
  have hrem : ({ s with ended := s.ended ++ [(w.core, t)] } : State).removeThread t.uid = { s.without t.uid with ended := s.ended ++ [(w.core, t)] } :=
    removeThread_quiet (s := { s with ended := s.ended ++ [(w.core, t)] }) ht hw hround hg hs
  change execExit g s = _
  rw [execExit, issued_body hi]
  congr 1
  rw [eachLane_one hact, htx, Option.isSome_none, Bool.false_and, if_neg Bool.false_ne_true]
  simp only [State.endThread, ht, hcore, hdrop]
  rw [hrem]

/-- SPAWN places a thread with the next id of the workgroup in a bin (R28, R229). -/
theorem spawn_binned {tgt : Target} {vs : Fin 120} {n : Fin 17} (h : s.alone (.spawn g tgt vs n) g t) (hw : s.wg? t.wg = some w)
    (hl : s.launch? w.launch = some l) (hr : l.rstack = 0) (htx : t.tx = none) (hh : t.helper = false) (hring : w.ring = []) (hops : s.ops = [])
    (hb : s.bins = []) (hpois : tgt.opnds.any t.opPois = false) (hlt : (s.entryOf t tgt).toNat < 2 ^ 52) (hmod : (s.entryOf t tgt).toNat % 12 = 0) :
    exec (.spawn g tgt vs n) s = .next ((s.updWg t.wg fun w => { w with spawnCt := w.spawnCt + 1 }).binned w.core t.wg (s.entryOf t tgt)
      ⟨false, s.entryOf t tgt, w.spawnCt, t.payload vs.val n.val, 0, false, false, none⟩) := by
  obtain ⟨⟨hi, -⟩, hact, ht⟩ := h
  change execSpawn g tgt vs n s = _
  rw [execSpawn, issued_body hi]
  congr 1
  rw [realLanes_one hact hh]
  simp only [State.over, List.foldl_cons, List.foldl_nil, htx, Option.isSome_none, hpois, Bool.false_eq_true, if_false, toTarget_ok hlt hmod,
    drained_of_nil hops, Bool.not_true, release_narrow (show Scope.num .wg ≤ 1 by decide), hw, Option.map_some, Option.getD_some]
  refine placeUnit_noBins (s := s.updWg t.wg fun w => { w with spawnCt := w.spawnCt + 1 })
    (w := { w with spawnCt := w.spawnCt + 1 }) (wg?_updWg_same hw) hl hr hring hb ?_
  simp

/-- CONT replaces the thread by one that keeps its id (R29, R229). -/
theorem cont_binned {tgt : Target} {n : Fin 17} (h : s.alone (.cont g tgt n) g t) (hw : s.wg? t.wg = some w)
    (hl : s.launch? w.launch = some l) (hr : l.rstack = 0) (hpix : t.pixel = false) (hring : w.ring = []) (hround : w.round = none)
    (hops : s.ops = []) (hg : s.gens = []) (hb : s.bins = []) (hs : (s.wgs.map (·.id)).Nodup) (hown : s.contOwn t tgt n.val = none)
    (hL : t.cntL = 0) (hT : t.cntT = 0) : exec (.cont g tgt n) s = .next (((s.without t.uid).binned w.core t.wg (s.entryOf t tgt)
      (t.contSeed (s.entryOf t tgt) n.val)).coreFreed s.iss.core) := by
  obtain ⟨⟨hi, -⟩, hact, ht⟩ := h
  have hwait : s.contWaits t = false := by rw [State.contWaits, hL, hT, drained_of_nil hops]; rfl
  have hunit : s.contUnit [t] (s.entryOf t tgt) [t.contSeed (s.entryOf t tgt) n.val] =
      ((s.without t.uid).binned w.core t.wg (s.entryOf t tgt) (t.contSeed (s.entryOf t tgt) n.val)).coreFreed s.iss.core := by
    simp only [State.contUnit, release_narrow (show Scope.num .wg ≤ 1 by decide), State.over, List.foldl_cons, List.foldl_nil]
    rw [removeThread_quiet ht hw hround hg hs, placeUnit_noBins (s := s.without t.uid) hw hl hr hring hb (by simp [Thread.contSeed])]
  change execCont g tgt n s = _
  rw [execCont, issued_body hi]
  congr 1
  rw [hact]
  simp only [List.filter_cons, List.filter_nil, hpix, Bool.not_false, Bool.false_and, Bool.false_eq_true, if_true, if_false,
    State.over, List.foldl_cons, List.foldl_nil, hown, hwait, hunit]
  rfl

/-- A thread parked at a REORDER. -/
def Thread.atReorder (u : Thread) (key n : Nat) (arrived : Bool) (at' : DWord) : Thread := { u with park := some (.reorder key n arrived at') }

/-- A thread with all counters at zero opens a round in which it has arrived; it stays open while another thread has not (R31). -/
theorem reorderArrive_opens {key n : Nat} {a : DWord} (ht : s.thr? t.uid = some t) (hpark : t.park = some (.reorder key n false a))
    (hcnt : t.cntL + t.cntS + t.cntC + t.cntT = 0) (hw : s.wg? t.wg = some w) (hround : w.round = none)
    (hu : ∃ u ∈ s.threads, u.wg = t.wg ∧ u.uid ≠ t.uid) :
    s.reorderArrive t.uid = (s.updThr t.uid fun u => { u with park := some (.reorder key n true a) }).updWg t.wg fun w => { w with
      round := some ⟨n, s.dlc, [(t.uid, key)]⟩ } := by
  obtain ⟨u, hu, huw, hut⟩ := hu
  have hnew : ((s.wg? t.wg).bind (·.round)).getD ⟨n, s.dlc, []⟩ = ⟨n, s.dlc, []⟩ := by rw [hw, Option.bind_some, hround]; rfl
  simp only [State.reorderArrive, ht, hpark, hcnt, hnew, ne_eq, not_true, if_false, List.nil_append]
  refine roundCheck_open (u := u) (r := ⟨n, s.dlc, [(t.uid, key)]⟩) (wg?_updWg_same hw) rfl ?_ huw (by simp [Ne.symm hut])
  exact List.mem_map.mpr ⟨u, hu, if_neg hut⟩

/-- REORDER with all counters at zero, while another thread of the workgroup has not arrived (R31, R230). -/
theorem reorder_opens {a : Src} {n : Fin 121} (h : s.alone (.reorder g a n) g t) (hw : s.wg? t.wg = some w) (htx : t.tx = none)
    (hround : w.round = none) (hpois : t.opPois (.s a) = false) (hcnt : t.cntL + t.cntS + t.cntC + t.cntT = 0)
    (hu : ∃ u ∈ s.threads, u.wg = t.wg ∧ u.uid ≠ t.uid) : exec (.reorder g a n) s = .next ((s.updThr t.uid fun u => { u with
        park := some (.reorder ((s.src t a).toNat % 2 ^ 16) n.val true s.iss.instrAddr) }).updWg t.wg fun w => { w with
      round := some ⟨n.val, s.dlc, [(t.uid, (s.src t a).toNat % 2 ^ 16)]⟩ }) := by
  obtain ⟨⟨hi, -⟩, hact, ht⟩ := h
  obtain ⟨u, hu, huw, hut⟩ := hu
  change execReorder g a n s = _
  rw [execReorder, issued_body hi, consuming_one hact (by simp [hpois]), htx, Option.isSome_none, if_neg Bool.false_ne_true]
  have harr := reorderArrive_opens (s := s.updThr t.uid (·.atReorder ((s.src t a).toNat % 2 ^ 16) n.val false s.iss.instrAddr))
    (t := t.atReorder ((s.src t a).toNat % 2 ^ 16) n.val false s.iss.instrAddr) (thr?_updThr_same ht) rfl hcnt hw hround
    ⟨u, List.mem_map.mpr ⟨u, hu, if_neg hut⟩, huw, hut⟩
  exact congrArg _ (harr.trans (congrArg (State.updWg · t.wg _) (updThr_updThr s t.uid _ _ fun _ => rfl)))
end

/-- Settles O20: each of the four instructions by the lemma about it. -/
theorem threadLifeResults : Obligations.ThreadLifeResults := by
  unfold Obligations.ThreadLifeResults
  intro s g t w l hw hl hr htx hh hpix hring hround hops _ hg hb hs
  refine ⟨?exit, ?spawn, ?cont, ?reorder⟩
  case exit => exact fun h => exit_ends h hw htx hround hg hs
  case spawn =>
    intro tgt vs n h hpois hlt hmod
    rw [spawn_binned h hw hl hr htx hh hring hops hb hpois hlt hmod, payload_eq]
    rfl
  case cont =>
    intro tgt n h hown hL hT hcore
    rw [cont_binned h hw hl hr hpix hring hround hops hg hb hs hown hL hT, Thread.contSeed, payload_eq, hpix, hh, hcore]
    rfl
  case reorder => exact fun a n h hpois hcnt hu => reorder_opens h hw htx hround hpois hcnt hu

end Sys2Proof.Machine
end

section
/-! O21, BarrierResults: what an arrival leaves of a barrier's generation (R35, R40), and the statement. -/

namespace Sys2Proof.Machine

/-! ## Generations -/

/-- A thread parked at a barrier. -/
def Thread.atBarrier (u : Thread) (k : BarKey) : Thread := { u with park := some (.bar k) }

/-- A thread that is parked no more. -/
def Thread.goesOn (u : Thread) : Thread := { u with park := none }

/-- While an expected thread has not arrived a generation waits. -/
theorem genCheck_waits {s : State} {k : BarKey} {g : Gen} {u : Nat} (hg : s.gens.find? (·.key == k) = some g) (hu : u ∈ g.expected)
    (hn : u ∉ g.arrived) (n : Nat) : s.genCheck k n = s := by
  cases n with
  | zero => rfl
  | succ n =>
      have hall : g.expected.all (g.arrived.contains ·) = false := List.all_eq_false.mpr ⟨u, hu, by simpa using hn⟩
      have hopen : g.complete = false := by rw [Gen.complete, hall, Bool.and_false, Bool.false_and]
      simp only [State.genCheck, hg, hopen, Bool.not_false, if_true]

/-- A generation that is complete, and has no arrival of another, releases its arrivals and is gone (R35). -/
theorem genCheck_completes {s : State} {k : BarKey} {g : Gen} (hg : s.gens.find? (·.key == k) = some g) (hc : g.complete = true)
    (hin : ∀ u ∈ g.arrived, u ∈ g.expected) (n : Nat) : s.genCheck k (n + 1) =
      (({ s with gens := s.gens.filter (·.key != k) } : State).over g.arrived fun s u => s.barRelease k u).seqWake k := by
  have hall : g.arrived.filter (g.expected.contains ·) = g.arrived := List.filter_eq_self.mpr fun u hu => by simpa using hin u hu
  have hlate : (g.arrived.filter fun u => !(g.expected.contains u)) = [] := List.filter_eq_nil_iff.mpr fun u hu => by simpa using hin u hu
  simp only [State.genCheck, hg, hc, hall, hlate, Bool.not_true, Bool.false_eq_true, if_false, List.isEmpty_nil, if_true]

/-- The first arrival at a barrier that another live thread is expected at: a generation opens, and the thread parks (R35). -/
theorem arrive_first {s : State} {k : BarKey} {n u : Nat} (hg : s.gens = []) (hu : u ∈ s.barLive k) (hn : u ≠ n) :
    s.arrive k n = { s.updThr n (·.atBarrier k) with gens := [⟨k, s.barLive k, s.barSeeds k, [n], s.seqAttached k, false⟩] } := by
  have hopen : s.openGen k = { s with gens := [⟨k, s.barLive k, s.barSeeds k, [], s.seqAttached k, false⟩] } := by
    simp only [State.openGen, hg, List.any_nil, Bool.false_eq_true, if_false, List.nil_append]
  rw [State.arrive, hopen]
  simp only [State.updGen, List.map_cons, List.map_nil, if_true, List.nil_append]
  exact genCheck_waits (g := ⟨k, s.barLive k, s.barSeeds k, [n], s.seqAttached k, false⟩) (by simp) hu (by simpa using hn) 2

/-- No sequencer waits at a barrier of a workgroup that has none. -/
theorem seqWake_noSeq {s : State} {w : Wg} {n b : Nat} (hs : (s.wgs.map (·.id)).Nodup) (hw : s.wg? n = some w) (hq : w.seq = none) :
    s.seqWake (.wg n b) = s := by
  refine updWg_eq_self fun x hx hn => ?_
  obtain rfl : x = w := eq_of_wg? hs hw hx hn
  rw [hq, Option.map_none, ← hq]

/-- A released thread of a barrier of a workgroup goes on. -/
theorem barRelease_wg {s : State} {t : Thread} {m n b : Nat} (ht : s.thr? m = some t) :
    s.barRelease (.wg n b) m = s.updThr m Thread.goesOn := by
  simp only [State.barRelease, ht]
  exact acquire_narrow (Nat.zero_le 1)

/-- The last arrival of two at a barrier of a workgroup without a sequencer: both threads go on, and the generation is gone (R35). -/
theorem arrive_last {s : State} {w : Wg} {t u : Thread} {b : Nat} (hs : (s.wgs.map (·.id)).Nodup) (hw : s.wg? t.wg = some w) (hq : w.seq = none)
    (ht : s.thr? t.uid = some t) (hu : s.thr? u.uid = some u) (hne : u.uid ≠ t.uid)
    (hg : s.gens = [⟨.wg t.wg b, [u.uid, t.uid], [], [u.uid], false, false⟩]) :
    s.arrive (.wg t.wg b) t.uid = { s with
      gens := [], threads := s.threads.map fun v => if v.uid = u.uid ∨ v.uid = t.uid then { v with park := none } else v } := by
  have hopen : s.openGen (.wg t.wg b) = s := by rw [State.openGen, hg]; simp
  obtain ⟨s1, hs1⟩ : ∃ s1 : State, s1 = { s.updThr t.uid (·.atBarrier (.wg t.wg b)) with gens := [] } := ⟨_, rfl⟩
  have hu1 : s1.thr? u.uid = some u := by rw [hs1]; exact thr?_updThr_other hu hne
  have hpark : s1.thr? t.uid = some (t.atBarrier (.wg t.wg b)) := by rw [hs1]; exact thr?_updThr_same ht
  have ht1 : (s1.updThr u.uid Thread.goesOn).thr? t.uid = some (t.atBarrier (.wg t.wg b)) := thr?_updThr_other hpark hne.symm
  have released : (s1.over [u.uid, t.uid] fun s v => s.barRelease (.wg t.wg b) v) =
      (s1.updThr u.uid Thread.goesOn).updThr t.uid fun v => { v with park := none } := by
    simp only [State.over, List.foldl_cons, List.foldl_nil]
    rw [barRelease_wg hu1]
    exact barRelease_wg ht1
  have hcheck := genCheck_completes
    (s := { s.updThr t.uid (·.atBarrier (.wg t.wg b)) with gens := [⟨.wg t.wg b, [u.uid, t.uid], [], [u.uid, t.uid], false, false⟩] })
    (k := .wg t.wg b) (g := ⟨.wg t.wg b, [u.uid, t.uid], [], [u.uid, t.uid], false, false⟩) (by simp) (by simp [Gen.complete]) (by simp) 1
  have hgone : ([⟨.wg t.wg b, [u.uid, t.uid], [], [u.uid, t.uid], false, false⟩] : List Gen).filter (·.key != .wg t.wg b) = [] := by simp
  rw [State.arrive, hopen]
  simp only [State.updGen, hg, List.map_cons, List.map_nil, if_true, List.cons_append, List.nil_append]
  refine hcheck.trans ?_
  rw [hgone, ← hs1, released, seqWake_noSeq (w := w) (by subst hs1; exact hs) (by subst hs1; exact hw) hq]
  have hthreads : (((s1.updThr u.uid Thread.goesOn).updThr t.uid Thread.goesOn).threads) =
      s.threads.map fun v => if v.uid = u.uid ∨ v.uid = t.uid then { v with park := none } else v := by
    simp only [hs1, updThr_threads, List.map_map]
    refine List.map_congr_left fun v _ => ?_
    by_cases hvt : v.uid = t.uid
    · simp [hvt, hne.symm, Thread.atBarrier, Thread.goesOn]
    · by_cases hvu : v.uid = u.uid <;> simp [hvt, hvu, hne, Thread.goesOn]
  rw [← hthreads, hs1]
  rfl

/-! ## The statement -/

section
variable {s : State} {g : Pred} {t : Thread} {w : Wg} {l : Launch}

/-- BAR of a workgroup with nothing outstanding arrives (R232). -/
theorem bar_arrives {b : BitVec 4} (h : s.alone (.bar g false b) g t) (htx : t.tx = none) (hops : s.ops = []) :
    exec (.bar g false b) s = .next (s.arrive (.wg t.wg b.toNat) t.uid) := by
  obtain ⟨⟨hi, -⟩, hact, -⟩ := h
  change execBar g false b s = _
  rw [execBar, issued_body hi, eachLane_one hact, htx, Option.isSome_none, if_neg Bool.false_ne_true]
  simp only [Bool.false_eq_true, if_false, drained_of_nil hops, Bool.not_true]
  rw [release_narrow (show Scope.num (BarKey.wg t.wg b.toNat).scope ≤ 1 from Nat.zero_le 1)]

/-- GBAR of a workgroup that its entry names, all of whose members are resident, arrives (R233). -/
theorem gbar_arrives {idx : BitVec 8} {e : SyncGroup} (h : s.alone (.gbar g idx) g t) (hw : s.wg? t.wg = some w) (hl : s.launch? w.launch = some l)
    (hwg : s.issWg = t.wg) (htx : t.tx = none) (hops : s.ops = []) (hl1 : s.l1 = [])
    (he : l.groups.find? (fun x => x.index == idx.toNat && x.members.contains w.index) = some e) (hres : ∀ x ∈ s.wgs, x.state = .resident) :
    exec (.gbar g idx) s = .next (s.arrive (.group l.id idx.toNat) t.uid) := by
  obtain ⟨⟨hi, -⟩, hact, -⟩ := h
  have hil : s.issLaunch = some l := by rw [State.issLaunch, hwg, State.launchOfWg, hw]; exact hl
  have haway : (s.wgs.any fun x => (some l.id == some x.launch) && e.members.contains x.index && !(x.state == .resident || x.state == .done)) = false :=
    List.any_eq_false.mpr fun x hx => by simp [hres x hx]
  change execGbar g idx s = _
  rw [execGbar, issued_body hi, eachLane_one hact]
  simp only [hil, hw, htx, he, Option.map_some, Option.getD_some, Option.bind_some, Option.isSome_none, Option.isNone_some, Bool.false_eq_true,
    if_false, haway, drained_of_nil hops, Bool.not_true]
  rw [release_noLines hl1 (by decide)]

/-- GBAR of a workgroup that its entry does not name (R40). -/
theorem gbar_traps {idx : BitVec 8} {entry : DWord} (h : s.alone (.gbar g idx) g t) (hw : s.wg? t.wg = some w) (hl : s.launch? w.launch = some l)
    (hwg : s.issWg = t.wg) (htx : t.tx = none) (hne : ∀ e ∈ l.groups, e.index = idx.toNat → w.index ∉ e.members) (ht : s.mayTrap t entry) :
    exec (.gbar g idx) s = .next (s.trapsHere t entry 17 0 0) := by
  obtain ⟨⟨hi, -⟩, hact, hfind⟩ := h
  have hil : s.issLaunch = some l := by rw [State.issLaunch, hwg, State.launchOfWg, hw]; exact hl
  have hnone : (l.groups.find? fun x => x.index == idx.toNat && x.members.contains w.index) = none :=
    List.find?_eq_none.mpr fun x hx => by simpa using hne x hx
  change execGbar g idx s = _
  rw [execGbar, issued_body hi, eachLane_one hact]
  simp only [hil, hw, htx, hnone, Option.map_some, Option.getD_some, Option.bind_some, Option.isSome_none, Option.isNone_none, Bool.false_eq_true,
    if_false, if_true]
  rw [trapHere_mayTrap hfind ht]

theorem barWgs_wg (n b : Nat) : s.barWgs (.wg n b) = [n] := rfl

/-- The workgroups of an entry are those of the launch that it names. -/
theorem mem_barWgs_group {x : Wg} {i : Nat} {e : SyncGroup} (hl : s.launch? l.id = some l) (hx : x ∈ s.wgs) (hxl : x.launch = l.id)
    (he : l.groups.find? (fun y => y.index == i && y.members.contains x.index) = some e) : x.id ∈ s.barWgs (.group l.id i) := by
  have hmem : (l.groups.any fun y => y.index == i && y.members.contains x.index) = true :=
    List.any_eq_true.mpr ⟨e, List.mem_of_find?_eq_some he, by simpa using List.find?_some he⟩
  simp only [State.barWgs, hl]
  exact List.mem_map.mpr ⟨x, List.mem_filter.mpr ⟨hx, by simp only [hxl, beq_self_eq_true, Bool.true_and, hmem]⟩, rfl⟩

/-- The live threads of a workgroup that meets at a barrier are expected there. -/
theorem mem_barLive {k : BarKey} {v : Thread} (hv : v ∈ s.threads) (hk : v.wg ∈ s.barWgs k) : v.uid ∈ s.barLive k :=
  List.mem_map.mpr ⟨v, List.mem_filter.mpr ⟨hv, by simpa using hk⟩, rfl⟩
end

/-- Settles O21: the first arrival and the last, at the barriers of a workgroup and of a group, and the trap of a workgroup that is none of it. -/
theorem barrierResults : Obligations.BarrierResults := by
  unfold Obligations.BarrierResults
  intro s g t u w l b idx entry hw hl hwg htx hq hops hl1 hs
  refine ⟨?first, ?last, ?group, ?stranger⟩
  case first =>
    intro h hg hu huw hne
    have hlive : u.uid ∈ s.barLive (.wg t.wg b.toNat) := mem_barLive hu (by rw [barWgs_wg, huw]; exact List.mem_singleton_self _)
    have hseq : s.seqAttached (.wg t.wg b.toNat) = false := by simp [State.seqAttached, hw, hq]
    rw [bar_arrives h htx hops, arrive_first hg hlive hne, hseq]
    simp only [State.barLive, State.barSeeds, barWgs_wg, List.contains_cons, List.contains_nil, Bool.or_false, List.flatMap_cons, List.flatMap_nil,
      List.append_nil]
    rfl
  case last =>
    intro h hg hu hne
    rw [bar_arrives h htx hops, arrive_last hs hw hq h.2.2 hu hne hg]
  case group =>
    intro e h he hg hres hu huw hne hwm hid
    have hk : t.wg ∈ s.barWgs (.group l.id idx.toNat) := by
      rw [← wg?_id hw]
      exact mem_barWgs_group (hid ▸ hl) hwm hid.symm he
    rw [gbar_arrives h hw hl hwg htx hops hl1 he hres, arrive_first hg (mem_barLive hu (huw ▸ hk)) hne]
    refine ⟨_, rfl, rfl, _, _, rfl, fun v hv hvw => mem_barLive hv (hvw ▸ hk), fun x hx => ?_⟩
    exact List.mem_flatMap.mpr ⟨t.wg, hk, List.mem_map.mpr ⟨x, hx, rfl⟩⟩
  case stranger => exact fun h hne ht => gbar_traps h hw hl hwg htx hne ht

end Sys2Proof.Machine
end

section
/-! O19, QueueResults: queue registers and their ports, commands, notify words, hoists and BIN, and the statement. -/

namespace Sys2Proof.Machine

/-! ## Queue registers (R52) -/

/-- What a queue register of a workgroup is bound to. -/
theorem qbOf_eq {s : State} {n : Nat} {w : Wg} (hw : s.wg? n = some w) (k : Fin 16) : s.qbOf n k.val = w.queues[k] := by
  rw [State.qbOf, hw, Option.map_some, Option.getD_some, Wg.qb, List.getD_eq_getElem?_getD]
  simp

theorem setQb_queues (s : State) (n : Nat) (k : Fin 16) (b : QBind) : s.setQb n k.val b = s.updWg n fun w => { w with queues := w.queues.set k b } := by
  simp only [State.setQb, k.isLt, dif_pos]

theorem mailFlush_noSeq {s : State} {n : Nat} {w : Wg} (hw : s.wg? n = some w) (hq : w.seq = none) : s.mailFlush n = s := by
  rw [State.mailFlush, hw, Option.bind_some, hq]

/-- The workgroup that is found after a binding of its. -/
theorem wg?_setQb {s : State} {n : Nat} {w : Wg} (hw : s.wg? n = some w) (k : Nat) (b : QBind) :
    ∃ w', (s.setQb n k b).wg? n = some w' ∧ w'.seq = w.seq ∧ w'.cplWords = w.cplWords :=
  ⟨_, wg?_updWg_same hw, rfl, rfl⟩

/-! ## Binding (R253 to R255) -/

/-- A port of the workgroup's own, of which argument 0 alone is a legal one. -/
def Port.plain (p : Port) : Prop := p = .copy ∨ p = .gather ∨ p = .coll ∨ p = .cpl ∨ p = .halyard

theorem portDenied_plain {s : State} {t : Thread} {p : Port} (h : Port.plain p) (arg : Nat) : s.portDenied t p arg = decide (arg ≠ 0) := by
  rcases h with rfl | rfl | rfl | rfl | rfl <;> rfl

theorem bind_plain {s : State} {n : Nat} {w : Wg} {p : Port} (hw : s.wg? n = some w) (hq : w.seq = none) (hc : w.cplWords = []) (h : Port.plain p)
    (q arg : Nat) : s.bind n q p arg = s.setQb n q ⟨p, 0, []⟩ := by
  have hout : p ≠ .hoistout := by rcases h with rfl | rfl | rfl | rfl | rfl <;> decide
  have hin : p ≠ .hoistin := by rcases h with rfl | rfl | rfl | rfl | rfl <;> decide
  obtain ⟨w', hw', hq', hc'⟩ := wg?_setQb hw q ⟨p, 0, []⟩
  have hflush : (s.setQb n q ⟨p, 0, []⟩).mailFlush n = s.setQb n q ⟨p, 0, []⟩ := mailFlush_noSeq hw' (hq'.trans hq)
  simp [State.bind, hout, hin, hflush, hw', hc', hc]

/-! ## Commands (R256 to R259) -/

theorem cmdCode_eq (ws : List Word) : cmdCode ws = (ws.getD 0 0#32).toNat / 2 ^ 26 := by
  have := (ws.getD 0 0#32).isLt
  rw [cmdCode, fld]; omega

/-- The codes of the copy and gather engines. -/
theorem cmdLen_engine {p : Port} {code n : Nat} (hp : p = .copy ∨ p = .gather) (h : cmdLen p code = some n) : code < 0x10 := by
  by_contra hlarge
  have h1 : code ≠ 1 := by omega
  have h2 : code ≠ 2 := by omega
  have h3 : code ≠ 3 := by omega
  have h8 : code ≠ 8 := by omega
  have h9 : code ≠ 9 := by omega
  rcases hp with rfl | rfl <;> simp [cmdLen, h1, h2, h3, h8, h9] at h

/-- A command of a copy or gather engine: C rises, the engine has it, and its event is to come. -/
theorem submit_engine {s : State} {t : Thread} {core asid : Nat} {ws : List Word} (h : cmdCode ws < 0x10) :
    s.submit t core asid ws = { s.updThr t.uid fun u => { u with cntC := u.cntC + 1 } with
      cmds := s.cmds ++ [⟨s.fresh, asid, .thread t.wg t.uid t.tid, core, ws, 0, 0, false, false, 0, s.queueOfWg t.wg, none⟩]
      fresh := s.fresh + 1
      agenda := s.agenda ++ [cmdEvent s.fresh (cmdCode ws)] } := by
  have hcoll : ¬(0x10 ≤ cmdCode ws) := by omega
  have hgraph : cmdCode ws ≠ 0x20 := by omega
  have hjoin : s.joinOf t.wg ws = none := by simp [State.joinOf, hgraph]
  simp [State.submit, hcoll, hgraph, hjoin, State.newId, State.post]

section
variable {s : State} {t : Thread} {p : Port} {x : Word}

/-- A word that does not complete its command joins those that the thread has pushed. -/
theorem enginePut_more {n : Nat} (htx : t.tx = none) (hlen : cmdLen p (cmdCode (t.partial' p ++ [x])) = some n)
    (hlt : (t.partial' p ++ [x]).length < n) : s.enginePut t p x = s.updThr t.uid (·.setPartial p (t.partial' p ++ [x])) := by
  have hlast : t.lastWord p x = false := by
    simp only [Thread.lastWord, hlen, Option.some_beq_some, beq_eq_false_iff_ne]; omega
  simp only [State.enginePut, htx, hlen, hlast, Option.isSome_none, Option.isNone_some, Bool.false_eq_true, if_false, Bool.not_false, if_true]

/-- The word that completes a command hands it to its engine. -/
theorem enginePut_last (htx : t.tx = none)
    (hlen : cmdLen p (cmdCode (t.partial' p ++ [x])) = some (t.partial' p ++ [x]).length) (hops : ∀ o ∈ s.ops, ∀ l ∈ o.lanes, l.uid ≠ t.uid)
    (hC : t.cntC < 63) (hl1 : s.l1 = []) : s.enginePut t p x = (s.updThr t.uid (·.setPartial p [])).submit t s.iss.core s.issAsid (t.partial' p ++ [x]) := by
  have hlast : t.lastWord p x = true := by simp only [Thread.lastWord, hlen, beq_self_eq_true]
  have hroom : ¬(63 ≤ t.cntC) := by omega
  simp only [State.enginePut, htx, hlen, hlast, Option.isSome_none, Option.isNone_some, Bool.false_eq_true, if_false, Bool.not_true,
    drained_of_ops hops, ge_iff_le, hroom, decide_false, Bool.and_false, Bool.or_false]
  rw [release_noLines hl1 (by decide)]
end

/-! ## Notify words (R261) -/

/-- The first number of a range that is found. -/
theorem find?_upFrom {p : Nat → Bool} {k : Nat} (hk : p k = true) : ∀ {n lo : Nat}, (∀ j, lo ≤ j → j < k → p j = false) →
    lo ≤ k → k < lo + n →
    (upFrom lo n).find? p = some k
  | 0, lo, _, hlo, hhi => by omega
  | n + 1, lo, hbelow, hlo, hhi => by
      by_cases heq : lo = k
      · rw [upFrom, List.find?_cons_of_pos (heq ▸ hk), heq]
      · rw [upFrom, List.find?_cons_of_neg (by simp [hbelow lo le_rfl (by omega)])]
        exact find?_upFrom hk (fun j hj => hbelow j (by omega)) (by omega) (by omega)

theorem boundTo_none {s : State} {n : Nat} {w : Wg} {p : Port} (hw : s.wg? n = some w) (h : ∀ k : Fin 16, w.queues[k].port ≠ p) : s.boundTo n p = none := by
  refine List.find?_eq_none.mpr fun k hk => ?_
  obtain ⟨-, hk⟩ := mem_upFrom.mp hk
  have := h ⟨k, by omega⟩
  rw [← qbOf_eq hw] at this
  simpa using this

theorem boundTo_some {s : State} {n : Nat} {w : Wg} {p : Port} (hw : s.wg? n = some w) {k : Fin 16} (hk : w.queues[k].port = p)
    (h : ∀ j : Fin 16, j < k → w.queues[j].port ≠ p) : s.boundTo n p = some k.val := by
  refine find?_upFrom (by rw [qbOf_eq hw, hk]; exact beq_self_eq_true p) (fun j _ hj => ?_) (Nat.zero_le _) (by omega)
  have := h ⟨j, by omega⟩ hj
  rw [← qbOf_eq hw] at this
  simpa using this

/-! ## QBIND, QPUT, QGET and NOTIFY_PUSH -/

theorem qbOf_bv {s : State} {n : Nat} {w : Wg} (hw : s.wg? n = some w) (q : BitVec 4) : s.qbOf n q.toNat = w.queues[q.toFin] := qbOf_eq hw q.toFin

section
variable {s : State} {g : Pred} {t : Thread} {w : Wg} {d : Dst} {a : Src} {q : BitVec 4} {entry : DWord}

/-- QBIND with argument 0 binds. -/
theorem qbind_binds {port : Port} (h : s.alone (.qbind g port a q) g t) (hw : s.wg? t.wg = some w) (hpois : t.opPois (.s a) = false)
    (hp : Port.plain port) (hx : s.src t a = 0) (hq : w.seq = none) (hc : w.cplWords = []) :
    exec (.qbind g port a q) s = .next (s.setQb t.wg q.toNat ⟨port, 0, []⟩) := by
  obtain ⟨⟨hi, -⟩, hact, ht⟩ := h
  have hok : s.portDenied t port (s.src t a).toNat = false := by rw [portDenied_plain hp, hx]; rfl
  obtain ⟨w', hw', hq', -⟩ := wg?_setQb hw q.toNat ⟨port, 0, []⟩
  change execQbind g port a q s = _
  rw [execQbind, issued_body hi, consuming_one hact (by simp [hpois])]
  simp only [hok, Bool.false_eq_true, if_false, bind_plain hw hq hc hp]
  rw [wgCheck_live hw' (hq'.trans hq) (thr?_mem ht) rfl]

/-- QBIND with any other is denied (R254). -/
theorem qbind_denied {port : Port} (h : s.alone (.qbind g port a q) g t) (hpois : t.opPois (.s a) = false) (hp : Port.plain port)
    (hx : s.src t a ≠ 0) (hm : s.mayTrap t entry) : exec (.qbind g port a q) s = .next (s.trapsHere t entry 23 0 0) := by
  obtain ⟨⟨hi, -⟩, hact, ht⟩ := h
  have hbad : s.portDenied t port (s.src t a).toNat = true := by
    rw [portDenied_plain hp, decide_eq_true_eq]
    exact fun h0 => hx (BitVec.eq_of_toNat_eq (by simpa using h0))
  change execQbind g port a q s = _
  rw [execQbind, issued_body hi, consuming_one hact (by simp [hpois])]
  simp only [hbad, if_true]
  rw [trapHere_mayTrap ht hm]

/-- QPUT to an engine's port. -/
theorem qput_engine (h : s.alone (.qput g a q) g t) (hw : s.wg? t.wg = some w) (hh : t.helper = false) (hpois : t.opPois (.s a) = false)
    (hp : w.queues[q.toFin].port = .copy ∨ w.queues[q.toFin].port = .gather) :
    exec (.qput g a q) s = .next (s.enginePut t w.queues[q.toFin].port (s.src t a)) := by
  obtain ⟨⟨hi, -⟩, hact, -⟩ := h
  change execQput g a q s = _
  rw [execQput, issued_body hi, realLanes_one hact hh]
  rcases hp with hp | hp <;>
    simp only [State.over, List.foldl_cons, List.foldl_nil, qbOf_bv hw, hp, hpois, Bool.false_eq_true, if_false]

/-- QPUT to the mailbox: the words 1 to 3 are events, and others are discarded (R314). -/
theorem qput_mailbox (h : s.alone (.qput g a q) g t) (hw : s.wg? t.wg = some w) (hh : t.helper = false) (hpois : t.opPois (.s a) = false)
    (hp : w.queues[q.toFin].port = .mailbox) : exec (.qput g a q) s = .next (s.posts (mailEvent t.wg (s.src t a))) := by
  obtain ⟨⟨hi, -⟩, hact, -⟩ := h
  change execQput g a q s = _
  rw [execQput, issued_body hi, realLanes_one hact hh]
  simp only [State.over, List.foldl_cons, List.foldl_nil, qbOf_bv hw, hp, hpois, Bool.false_eq_true, if_false]

/-- QPUT to a queue that takes no words traps: an unbound one, or one toward completions (R217). -/
theorem qput_traps (h : s.alone (.qput g a q) g t) (hw : s.wg? t.wg = some w) (hh : t.helper = false) (hm : s.mayTrap t entry) :
    (w.queues[q.toFin].port = .unbound → exec (.qput g a q) s = .next (s.trapsHere t entry 11 0 0))
    ∧ (w.queues[q.toFin].port = .cpl → exec (.qput g a q) s = .next (s.trapsHere t entry 12 0 0)) := by
  obtain ⟨⟨hi, -⟩, hact, ht⟩ := h
  change (_ → execQput g a q s = _) ∧ (_ → execQput g a q s = _)
  rw [execQput, issued_body hi, realLanes_one hact hh]
  constructor <;> intro hp <;>
    simp only [State.over, List.foldl_cons, List.foldl_nil, qbOf_bv hw, hp, trapHere_mayTrap ht hm]

/-- QGET of a completion queue that holds a word pops it. -/
theorem qget_pops {y : Nat × Word} {ys : List (Nat × Word)} (h : s.alone (.qget g d q) g t) (hw : s.wg? t.wg = some w) (hh : t.helper = false)
    (hp : w.queues[q.toFin].port = .cpl) (hb : w.queues[q.toFin].buf = y :: ys) (hq : w.seq = none) (hc : w.cplWords = []) :
    exec (.qget g d q) s = .next ((s.setQb t.wg q.toNat { w.queues[q.toFin] with buf := ys }).updThr t.uid fun u => (u.wr d y.2).trimLog) := by
  obtain ⟨⟨hi, -⟩, hact, -⟩ := h
  have hqb := qbOf_bv hw q
  generalize w.queues[q.toFin] = b at hp hb hqb ⊢
  obtain ⟨p, arg, buf⟩ := b
  obtain rfl : p = .cpl := hp
  obtain rfl : buf = y :: ys := hb
  obtain ⟨s1, hs1⟩ : ∃ s1, s1 = (s.setQb t.wg q.toNat ⟨.cpl, arg, ys⟩).updThr t.uid fun u => (u.wr d y.2).trimLog := ⟨_, rfl⟩
  obtain ⟨w', hw', hq', hc'⟩ := wg?_setQb hw q.toNat ⟨.cpl, arg, ys⟩
  have hfind : s1.wg? t.wg = some w' := by rw [hs1]; exact hw'
  change execQget g d q s = _
  rw [execQget, issued_body hi, eachLane_one hact]
  simp only [hh, Bool.false_eq_true, if_false, hqb]
  rw [← hs1, mailFlush_noSeq hfind (hq'.trans hq), hfind, Option.map_some, Option.getD_some, hc', hc]
  simp

/-- QGET of a queue that holds no word waits (R217). -/
theorem qget_waits (h : s.alone (.qget g d q) g t) (hw : s.wg? t.wg = some w) (hh : t.helper = false)
    (hp : w.queues[q.toFin].port = .cpl ∨ w.queues[q.toFin].port = .mailbox) (hb : w.queues[q.toFin].buf = []) :
    exec (.qget g d q) s = .next (s.retry t.uid) := by
  obtain ⟨⟨hi, -⟩, hact, -⟩ := h
  change execQget g d q s = _
  rw [execQget, issued_body hi, eachLane_one hact]
  rcases hp with hp | hp <;> simp only [hh, Bool.false_eq_true, if_false, qbOf_bv hw, hp, hb]

/-- QGET of an unbound queue traps (R217). -/
theorem qget_traps (h : s.alone (.qget g d q) g t) (hw : s.wg? t.wg = some w) (hh : t.helper = false) (hm : s.mayTrap t entry)
    (hp : w.queues[q.toFin].port = .unbound) : exec (.qget g d q) s = .next (s.trapsHere t entry 11 0 0) := by
  obtain ⟨⟨hi, -⟩, hact, ht⟩ := h
  change execQget g d q s = _
  rw [execQget, issued_body hi, eachLane_one hact]
  simp only [hh, Bool.false_eq_true, if_false, qbOf_bv hw, hp, trapHere_mayTrap ht hm]

/-- Notify words without a completion queue are discarded. -/
theorem notifyPush_discards {n : Nat} (hw : s.wg? n = some w) (h : ∀ k : Fin 16, w.queues[k].port ≠ .cpl) :
    exec (.notifyPush n) s = .next (s.updWg n fun w => { w with cplWords := [] }) := by
  change execNotifyPush n s = _
  rw [execNotifyPush, hw, boundTo_none hw h]

/-- Else as many as fit move into the lowest completion queue. -/
theorem notifyPush_moves {n : Nat} {k : Fin 16} (hw : s.wg? n = some w) (hk : w.queues[k].port = .cpl)
    (h : ∀ j : Fin 16, j < k → w.queues[j].port ≠ .cpl) :
    exec (.notifyPush n) s = .next ((s.setQb n k.val { w.queues[k] with
      buf := w.queues[k].buf ++ (w.cplWords.take (16 - w.queues[k].buf.length)).map fun x => (0, x) }).updWg n fun x => { x with
        cplWords := x.cplWords.drop (16 - w.queues[k].buf.length) }) := by
  change execNotifyPush n s = _
  rw [execNotifyPush, hw, boundTo_some hw hk h]
  simp only [qbOf_eq hw]
end

end Sys2Proof.Machine
end

section
/-! O19, QueueResults: hoists and BIN, and the statement. -/

namespace Sys2Proof.Machine

/-! ## Hoists (R42, R271 to R273) -/

theorem hoist_eq (s : State) (h : Fin 64) : s.hoist h.val = s.hoists[h] := by
  rw [State.hoist, List.getD_eq_getElem?_getD]
  simp

theorem updHoist_eq (s : State) (h : Fin 64) (f : Hoist → Hoist) : s.updHoist h.val f = { s with hoists := s.hoists.set h (f s.hoists[h]) } := by
  simp only [State.updHoist, h.isLt, dif_pos]
  rfl

/-- The operation of a context that takes no checkpoints is not followed by one (R379). -/
theorem irrevocable_noCkp {s : State} {asid : Nat} (h : s.takesCkp asid = false) : s.irrevocable asid = s := by
  rw [State.irrevocable, h, if_neg Bool.false_ne_true]

theorem hoistBound_none {s : State} {h : Nat} (hno : ∀ x ∈ s.wgs, ∀ k : Fin 16, ¬(x.queues[k].port = .hoistin ∧ x.queues[k].arg = h)) :
    s.hoistBound h = [] := by
  refine List.filter_eq_nil_iff.mpr fun x hx hb => ?_
  obtain ⟨-, hany⟩ := Bool.and_eq_true_iff.mp hb
  obtain ⟨b, hmem, hport⟩ := List.any_eq_true.mp hany
  obtain ⟨k, hk, rfl⟩ := List.mem_iff_getElem.mp hmem
  have hk16 : k < 16 := by simpa using hk
  exact hno x hx ⟨k, hk16⟩ (by simpa using hport)

/-- The one workgroup of a machine, resident and bound to a hoist. -/
theorem hoistBound_one {s : State} {h : Nat} {w : Wg} (hs : s.wgs = [w]) (hr : w.state = .resident) (hk : ∃ k : Fin 16, w.queues[k] = ⟨.hoistin, h, []⟩) :
    s.hoistBound h = [w] := by
  obtain ⟨k, hk⟩ := hk
  have bound : (w.queues.toList.any fun q => q.port == .hoistin && q.arg == h) = true :=
    List.any_eq_true.mpr ⟨w.queues[k], by simp, by simp [hk]⟩
  rw [State.hoistBound, hs, List.filter_cons_of_pos (by simp [hr, bound]), List.filter_nil]

section
variable {s : State} {g : Pred} {t : Thread} {w : Wg} {q : BitVec 4} {h : Fin 64} {tgt : Target} {vs : Fin 120} {b : Src} {n : Fin 17} {any : Bool}
  {entry : DWord}

/-- HOIST appends a record, and a delivery is to come (R271). -/
theorem hoist_appends (hal : s.alone (.hoist g q vs b tgt n any) g t) (hw : s.wg? t.wg = some w) (hh : t.helper = false) (htx : t.tx = none)
    (hq : w.queues[q.toFin] = ⟨.hoistout, h.val, []⟩) (hb : any = false → t.opPois (.s b) = false) (hpois : tgt.opnds.any t.opPois = false)
    (hlt : (s.entryOf t tgt).toNat < 2 ^ 52) (hmod : (s.entryOf t tgt).toNat % 12 = 0) (hopen : s.hoists[h].closed = false)
    (hroom : s.hoists[h].recs.length < 256) (hops : ∀ o ∈ s.ops, ∀ l ∈ o.lanes, l.uid ≠ t.uid) (hl1 : s.l1 = [])
    (hckp : s.takesCkp s.issAsid = false) : exec (.hoist g q vs b tgt n any) s = .next { s with
      hoists := s.hoists.set h { s.hoists[h] with recs := s.hoists[h].recs ++ [⟨if any then none else some (s.src t b).toNat,
        ⟨false, s.entryOf t tgt, 0, t.payload vs.val n.val, 2, false, false, none⟩, s.issAsid⟩] }
      agenda := s.agenda ++ [.hoistDelivery h.val] } := by
  obtain ⟨⟨hi, -⟩, hact, -⟩ := hal
  have clean : ((if any then [] else [Opnd.s b]) ++ tgt.opnds).any t.opPois = false := by
    cases any
    · simpa [hb rfl] using hpois
    · simpa using hpois
  have full : ¬(256 ≤ s.hoists[h].recs.length) := by omega
  change execHoist g q vs b tgt n any s = _
  rw [execHoist, issued_body hi, realLanes_one hact hh]
  simp only [State.over, List.foldl_cons, List.foldl_nil, htx, Option.isSome_none, qbOf_bv hw, hq, clean, Bool.false_eq_true, if_false, reduceCtorEq,
    not_true_eq_false, ne_eq, toTarget_ok hlt hmod, hoist_eq, hopen, ge_iff_le, full, decide_false, drained_of_ops hops, Bool.not_true, bne_self_eq_false,
    Bool.or_self, release_noLines hl1 (show Scope.num .dev < 4 by decide), updHoist_eq]
  refine congrArg _ (irrevocable_noCkp ?_)
  exact hckp

/-- A closed hoist takes no record (R273). -/
theorem hoist_closed (hal : s.alone (.hoist g q vs b tgt n true) g t) (hw : s.wg? t.wg = some w) (hh : t.helper = false) (htx : t.tx = none)
    (hq : w.queues[q.toFin] = ⟨.hoistout, h.val, []⟩) (hpois : tgt.opnds.any t.opPois = false) (hlt : (s.entryOf t tgt).toNat < 2 ^ 52)
    (hmod : (s.entryOf t tgt).toNat % 12 = 0) (hclosed : s.hoists[h].closed = true) (hm : s.mayTrap t entry) :
    exec (.hoist g q vs b tgt n true) s = .next (s.trapsHere t entry 26 0 0) := by
  obtain ⟨⟨hi, -⟩, hact, ht⟩ := hal
  change execHoist g q vs b tgt n true s = _
  rw [execHoist, issued_body hi, realLanes_one hact hh]
  simp only [State.over, List.foldl_cons, List.foldl_nil, htx, Option.isSome_none, qbOf_bv hw, hq, hpois, Bool.false_eq_true, if_false, reduceCtorEq,
    not_true_eq_false, ne_eq, toTarget_ok hlt hmod, hoist_eq, hclosed, if_true, List.nil_append, trapHere_mayTrap ht hm]

/-- HOIST.close of a hoist that no workgroup reads (R273). -/
theorem hoistClose_closes (hal : s.alone (.hoistClose g q) g t) (hw : s.wg? t.wg = some w) (hh : t.helper = false) (htx : t.tx = none)
    (hq : w.queues[q.toFin] = ⟨.hoistout, h.val, []⟩) (hno : ∀ x ∈ s.wgs, ∀ k : Fin 16, ¬(x.queues[k].port = .hoistin ∧ x.queues[k].arg = h.val)) :
    exec (.hoistClose g q) s = .next { s with hoists := s.hoists.set h { s.hoists[h] with closed := true } } := by
  obtain ⟨⟨hi, -⟩, hact, -⟩ := hal
  change execHoistClose g q s = _
  rw [execHoistClose, issued_body hi, realLanes_one hact hh]
  simp only [State.over, List.foldl_cons, List.foldl_nil, htx, Option.isSome_none, qbOf_bv hw, hq, Bool.false_eq_true, if_false, reduceCtorEq,
    not_true_eq_false, ne_eq]
  rw [updHoist_eq, hoistBound_none, List.foldl_nil]
  exact hno
end

section
variable {s : State} {w : Wg} {h : Fin 64} {r : HoistRec} {rest : List HoistRec}

theorem hoistDelivery_empty (hrecs : s.hoists[h].recs = []) : exec (.hoistDelivery h.val) s = .next s := by
  change execHoistDelivery h.val s = _
  rw [execHoistDelivery, hoist_eq, hrecs]

/-- Without a workgroup that is bound to the hoist its records wait (R42). -/
theorem hoistDelivery_unbound (hno : ∀ x ∈ s.wgs, ∀ k : Fin 16, ¬(x.queues[k].port = .hoistin ∧ x.queues[k].arg = h.val)) :
    exec (.hoistDelivery h.val) s = .next s := by
  change execHoistDelivery h.val s = _
  rw [execHoistDelivery]
  cases (s.hoist h.val).recs with
  | nil => rfl
  | cons r rest =>
      have nobody : s.hoistDest h.val r = none := by
        simp only [State.hoistDest, hoistBound_none hno]
        cases r.dest <;> rfl
      simp only [nobody]

/-- The record at the head goes to the workgroup that is bound (R42), as a thread in a bin. -/
theorem hoistDelivery_delivers {l : Launch} (hrecs : s.hoists[h].recs = r :: rest) (hdest : r.dest = none) (hs : s.wgs = [w]) (hres : w.state = .resident)
    (hk : ∃ k : Fin 16, w.queues[k] = ⟨.hoistin, h.val, []⟩) (hl : s.launch? w.launch = some l) (hstack : l.rstack = 0) (hring : w.ring = [])
    (hb : s.bins = []) (hl1 : s.l1 = []) (hckp : s.takesCkp l.asid = false) (hseq : w.seq = none) (hrest : rest ≠ []) (ho : r.seed.origin = 2)
    (hlive : ∃ u ∈ s.threads, u.wg = w.id) : exec (.hoistDelivery h.val) s = .next { s with
      hoists := s.hoists.set h { s.hoists[h] with recs := rest }
      wgs := [{ w with spawnCt := w.spawnCt + 1 }]
      bins := [⟨w.core, 0, w.id, r.seed.entry, false, s.fresh, s.dlc, [{ r.seed with tid := w.spawnCt }], none⟩]
      fresh := s.fresh + 1
      agenda := s.agenda ++ [.hoistDelivery h.val] } := by
  obtain ⟨u, hu, huw⟩ := hlive
  have hto : s.hoistDest h.val r = some w := by simp only [State.hoistDest, hdest, hoistBound_one hs hres hk]; rfl
  have hupd : (s.updHoist h.val fun x => { x with recs := rest }).updWg w.id (fun w => { w with spawnCt := w.spawnCt + 1 })
      = { s with hoists := s.hoists.set h { s.hoists[h] with recs := rest }, wgs := [{ w with spawnCt := w.spawnCt + 1 }] } := by
    simp [State.updWg, updHoist_eq, hs]
  obtain ⟨s1, hs1⟩ : ∃ s1 : State, s1 = { s with
    hoists := s.hoists.set h { s.hoists[h] with recs := rest }, wgs := [{ w with spawnCt := w.spawnCt + 1 }] } := ⟨_, rfl⟩
  have hw1 : s1.wg? w.id = some { w with spawnCt := w.spawnCt + 1 } := by rw [hs1]; simp [State.wg?]
  have hl' : s1.launch? w.launch = some l := by rw [hs1]; exact hl
  have hasid : s1.asidOf w.id = l.asid := by rw [State.asidOf, State.launchOfWg, hw1, Option.bind_some, hl']; rfl
  obtain ⟨s2, hs2⟩ : ∃ s2, s2 = (s1.binned w.core w.id r.seed.entry { r.seed with tid := w.spawnCt }).post (.hoistDelivery h.val) := ⟨_, rfl⟩
  have hw2 : s2.wg? w.id = some { w with spawnCt := w.spawnCt + 1 } := by rw [hs2]; exact hw1
  have hbound : s2.hoistBound h.val = [{ w with spawnCt := w.spawnCt + 1 }] := hoistBound_one (by rw [hs2, hs1]; rfl) hres hk
  have hstay : s2.wgCheck w.id = s2 := wgCheck_live hw2 hseq (u := u) (by rw [hs2, hs1]; exact hu) huw
  have hpost : (if rest.isEmpty then s1.binned w.core w.id r.seed.entry { r.seed with tid := w.spawnCt } else
      (s1.binned w.core w.id r.seed.entry { r.seed with tid := w.spawnCt }).post (.hoistDelivery h.val)) = s2 := by
    rw [if_neg (by simpa using hrest), hs2]
  change execHoistDelivery h.val s = _
  rw [execHoistDelivery, hoist_eq, hrecs]
  simp only [hto, hupd]
  rw [← hs1, hasid, acquire_noLines (s := s1) (by rw [hs1]; exact hl1) (by decide),
    placeUnit_noBins (s := s1) hw1 hl' hstack hring (by rw [hs1]; exact hb) (by rw [ho]; decide), hpost,
    irrevocable_noCkp (s := s2) (by rw [hs2, hs1]; exact hckp), hbound, State.over, List.foldl_cons, List.foldl_nil, hstay, hs2, hs1]
  rfl
end

/-! ## BIN (R285) -/

/-- Events that are put among those to come change nothing else, and then are among them. -/
theorem over_postOnce {α : Type} (e : Issue → α → Instr) : ∀ (xs : List α) (s : State),
    ∃ more, (s.over xs fun s x => s.postOnce (e s.iss x)) = { s with agenda := s.agenda ++ more } ∧ ∀ x ∈ xs, e s.iss x ∈ s.agenda ++ more
  | [], s => ⟨[], by simp [State.over], by simp⟩
  | x :: xs, s => by
      obtain ⟨new, hnew, hin⟩ : ∃ new, s.postOnce (e s.iss x) = { s with agenda := s.agenda ++ new } ∧ e s.iss x ∈ s.agenda ++ new := by
        by_cases hx : e s.iss x ∈ s.agenda
        · exact ⟨[], by simp [State.postOnce, hx], by simp [hx]⟩
        · exact ⟨[e s.iss x], by simp [State.postOnce, hx, State.post], by simp⟩
      obtain ⟨more, hmore, hall⟩ := over_postOnce e xs { s with agenda := s.agenda ++ new }
      refine ⟨new ++ more, ?_, ?_⟩
      · simp only [State.over, List.foldl_cons, hnew] at hmore ⊢
        rw [hmore, List.append_assoc]
      · rw [List.forall_mem_cons, ← List.append_assoc]
        exact ⟨List.mem_append_left _ hin, hall⟩

section
variable {s : State} {g : Pred} {t : Thread} {d : Dst} {tgt : Target}

/-- The bins that BIN.flush makes due: those of the core, the workgroup and the entry that hold a thread and are not due. -/
def Bin.flushes (b : Bin) (core wg : Nat) (entry : DWord) : Bool := b.named core wg entry && b.due.isNone && b.lanes.any fun sd => !sd.empty

theorem flushes_iff (b : Bin) (core wg : Nat) (entry : DWord) : b.flushes core wg entry = true ↔
    b.core = core ∧ b.wg = wg ∧ b.entry = entry ∧ b.due = none ∧ ∃ sd ∈ b.lanes, sd.empty = false := by
  simp [Bin.named, Bin.flushes, and_assoc]

/-- The machine with those bins due. -/
def State.flushBins (s : State) (core wg : Nat) (entry : DWord) : State :=
  { s with bins := s.bins.map fun b => if b.flushes core wg entry then { b with due := some s.dlc } else b }

theorem binFlush_eq (h : s.alone (.binFlush g tgt) g t) (hlt : (s.entryOf t tgt).toNat < 2 ^ 52) (hmod : (s.entryOf t tgt).toNat % 12 = 0) :
    exec (.binFlush g tgt) s = .next ((s.flushBins s.iss.core t.wg (s.entryOf t tgt)).over
      ((s.bins.filter (·.flushes s.iss.core t.wg (s.entryOf t tgt))).map (·.num)) fun s n => s.postOnce (.binLaunch s.iss.core n)) := by
  obtain ⟨⟨hi, -⟩, hact, -⟩ := h
  change execBinFlush g tgt s = _
  rw [execBinFlush, issued_body hi, eachLane_one hact, toTarget_ok hlt hmod]
  rfl

/-- BIN.flush makes the named bins due (R285). -/
theorem binFlush_due (h : s.alone (.binFlush g tgt) g t) (hlt : (s.entryOf t tgt).toNat < 2 ^ 52) (hmod : (s.entryOf t tgt).toNat % 12 = 0) :
    ∃ s1, exec (.binFlush g tgt) s = .next s1 ∧ s1 = { s with bins := s1.bins, agenda := s1.agenda }
      ∧ s1.bins.length = s.bins.length
      ∧ ∀ (k : Nat) (b : Bin), s.bins[k]? = some b → (b.flushes s.iss.core t.wg (s.entryOf t tgt) = true →
          s1.bins[k]? = some { b with due := some s.dlc } ∧ Instr.binLaunch b.core b.num ∈ s1.agenda)
        ∧ (b.flushes s.iss.core t.wg (s.entryOf t tgt) = false → s1.bins[k]? = some b) := by
  rw [binFlush_eq h hlt hmod]
  obtain ⟨more, hmore, hin⟩ := over_postOnce (fun iss n => Instr.binLaunch iss.core n)
    ((s.bins.filter (·.flushes s.iss.core t.wg (s.entryOf t tgt))).map (·.num)) (s.flushBins s.iss.core t.wg (s.entryOf t tgt))
  rw [hmore]
  refine ⟨_, rfl, rfl, by simp [State.flushBins], fun k b hb =>
    ⟨fun hit => ⟨by simp [State.flushBins, hb, hit], ?_⟩, fun miss => by simp [State.flushBins, hb, miss]⟩⟩
  obtain ⟨hcore, -⟩ := (flushes_iff ..).mp hit
  rw [hcore]
  exact hin b.num (List.mem_map.mpr ⟨b, List.mem_filter.mpr ⟨List.mem_of_getElem? hb, hit⟩, rfl⟩)

theorem foldl_add_eq_sum {α : Type} (f : α → Nat) : ∀ (xs : List α) (n : Nat), xs.foldl (fun n x => n + f x) n = n + (xs.map f).sum
  | [], n => rfl
  | x :: xs, n => by rw [List.foldl_cons, foldl_add_eq_sum f xs, List.map_cons, List.sum_cons, Nat.add_assoc]

/-- BIN.count counts the threads of the named bins (R285). -/
theorem binCount_counts (h : s.alone (.binCount g d tgt) g t) (hlt : (s.entryOf t tgt).toNat < 2 ^ 52) (hmod : (s.entryOf t tgt).toNat % 12 = 0) :
    exec (.binCount g d tgt) s = .next (s.updThr t.uid fun u => (u.wr d (BitVec.ofNat 32
      ((s.bins.filter fun b => b.core == s.iss.core && b.wg == t.wg && b.entry == s.entryOf t tgt).map fun b =>
        (b.lanes.filter fun sd => !sd.empty).length).sum)).trimLog) := by
  obtain ⟨⟨hi, -⟩, hact, -⟩ := h
  change execBinCount g d tgt s = _
  rw [execBinCount, issued_body hi, eachLane_one hact]
  simp only [toTarget_ok hlt hmod, Bin.named, foldl_add_eq_sum, Nat.zero_add]
end

/-- Settles O19: each port, command word, hoist and bin by the lemma that says what the instruction does there. -/
theorem queueResults : Obligations.QueueResults := by
  unfold Obligations.QueueResults
  refine ⟨fun s g t w d a q entry hw hh htx hpois => ⟨fun port h hp => ⟨?_, ?_⟩, fun h => ⟨?_, ?_, ?_, ?_⟩, fun h => ⟨?_, ?_, ?_⟩, ?_, ?_⟩,
    fun s g t w q entry h hw hh htx => ⟨?_, ?_, ?_, ⟨hoistDelivery_empty, hoistDelivery_unbound, ?_⟩, ?_, ?_⟩⟩
  · exact fun hx hq hc => qbind_binds h hw hpois hp hx hq hc
  · exact fun hx hm => qbind_denied h hpois hp hx hm
  · intro n hp hlen hlt
    rw [qput_engine h hw hh hpois hp, enginePut_more htx (by rw [cmdCode_eq]; exact hlen) hlt]
  · intro hp hlen hops hC hl1
    rw [← cmdCode_eq] at hlen ⊢
    rw [qput_engine h hw hh hpois hp, enginePut_last htx hlen hops hC hl1, submit_engine (cmdLen_engine hp hlen)]
    exact congrArg _ (congrArg (fun x : State => ({ x with
      cmds := _, fresh := _, agenda := _ } : State)) (updThr_updThr s t.uid _ _ fun _ => rfl))
  · intro hp
    rw [qput_mailbox h hw hh hpois hp]
    refine ⟨fun hx => ?_, fun hx => ?_, fun hx => ?_, fun hx => ?_⟩
    · rw [hx]; rfl
    · rw [hx]; rfl
    · rw [hx]; rfl
    · have h1 : s.src t a ≠ 1#32 := fun he => by rw [he] at hx; exact absurd hx (by decide)
      have h2 : s.src t a ≠ 2#32 := fun he => by rw [he] at hx; exact absurd hx (by decide)
      have h3 : s.src t a ≠ 3#32 := fun he => by rw [he] at hx; exact absurd hx (by decide)
      rw [mailEvent, if_neg h1, if_neg h2, if_neg h3, State.posts, List.append_nil]
  · exact fun hm => qput_traps h hw hh hm
  · exact fun y ys hp hb hq hc => qget_pops h hw hh hp hb hq hc
  · exact fun hp hb => qget_waits h hw hh hp hb
  · exact fun hm hp => qget_traps h hw hh hm hp
  · exact fun h => notifyPush_discards hw h
  · exact fun k hk h => notifyPush_moves hw hk h
  · exact fun vs b tgt n any hal hq hb hpois hlt hmod hopen hroom hops hl1 hckp =>
      hoist_appends hal hw hh htx hq hb hpois hlt hmod hopen hroom hops hl1 hckp
  · exact fun vs b tgt n hal hq hpois hlt hmod hclosed hm => hoist_closed hal hw hh htx hq hpois hlt hmod hclosed hm
  · exact fun hal hq hno => hoistClose_closes hal hw hh htx hq hno
  · exact fun r rest l hrecs hdest hs hres hk hl hstack hring hb hl1 hckp hseq hrest _ ho hlive =>
      hoistDelivery_delivers hrecs hdest hs hres hk hl hstack hring hb hl1 hckp hseq hrest ho hlive
  · intro tgt hal hlt hmod
    simpa only [← flushes_iff, Bool.not_eq_true] using binFlush_due hal hlt hmod
  · exact fun d tgt hal hlt hmod => binCount_counts hal hlt hmod

end Sys2Proof.Machine
end

section
/-! O28, BinEvents: the state that refutes it. -/

namespace Sys2Proof.Machine

def waitingSeed : Seed := ⟨false, 0x600#64, 9#32, [], 0, false, false, none⟩

def dueBin : Bin := ⟨0, 3, 2, 0x600#64, false, 5, 0, [waitingSeed], some 0⟩

/-- A machine whose one workgroup has a thread in a due bin and no live thread, while a front end waits to wake (R422). -/
def binDueWhileWaking : State := { State.reset.loaded 32 0 with bins := [dueBin], groups := [], threads := [], waking := [(0, 1)] }

/-- The events that are to come after an outcome. -/
def agendaOf : Host.Outcome State Fault Refusal → List Instr
  | .next s => s.agenda
  | _ => []

/-- The launch frees resources, so the dispatcher has the waiting wake try again (R422). -/
theorem agendaOf_binLaunch_waking : agendaOf (exec (.binLaunch 0 3) binDueWhileWaking) = [.wakeComplete 0] := by decide +kernel

/-- Refutes O28: a bin's launch frees resources of its core, and the dispatcher then has the wake of a front end that waits for its units try again
(R422), so the events to come change, which the statement says they do not. -/
theorem not_binEvents : ¬ Obligations.BinEvents := by
  unfold Obligations.BinEvents
  intro h
  obtain ⟨hbin, -⟩ := h binDueWhileWaking (loadWg 2 1 4 false) (loadLaunch 1) waitingSeed (by decide +kernel) (by decide +kernel)
  obtain ⟨hlaunch, -⟩ := hbin dueBin rfl rfl rfl rfl rfl rfl
  have claimed : agendaOf (exec (.binLaunch 0 3) binDueWhileWaking) = [] :=
    congrArg agendaOf (hlaunch rfl rfl (by decide +kernel) (by decide +kernel) (by decide +kernel))
  rw [agendaOf_binLaunch_waking] at claimed
  exact absurd claimed (List.cons_ne_nil _ _)

end Sys2Proof.Machine
end

section
/-! O29, PlacementEvents: what a placement leaves alone, the trials of the dispatcher, and the statement. -/

namespace Sys2Proof.Machine

/-! ## Sorting -/

theorem perm_insKey {α : Type} (k : α → List Nat) (x : α) : ∀ xs : List α, (insKey k x xs).Perm (x :: xs)
  | [] => .refl _
  | y :: ys => by
      rw [insKey]
      split
      · exact ((perm_insKey k x ys).cons y).trans (.swap x y ys)
      · exact .refl _

/-- Sorting by a key moves the entries of a list and no more. -/
theorem perm_sortKey {α : Type} (k : α → List Nat) : ∀ xs : List α, (sortKey k xs).Perm xs
  | [] => .refl _
  | x :: xs => (perm_insKey k x _).trans ((perm_sortKey k xs).cons x)

theorem mem_sortKey {α : Type} {k : α → List Nat} {xs : List α} {x : α} : x ∈ sortKey k xs ↔ x ∈ xs := (perm_sortKey k xs).mem_iff

/-! ## Lines that leave an L1 -/

theorem keeps_writeBack (s : State) (l : L1Line) (sc : Scope) : KeepsHome s (s.writeBack l sc) := by
  unfold State.writeBack
  split
  · exact .refl s
  · exact KeepsHome.trans (t := s.updL1 l.core l.asid l.va fun l => { l with dirty := 0 }) ⟨id, rfl, rfl, rfl, rfl, rfl, rfl, rfl, rfl, rfl⟩
      (.over _ (fun _ _ => keeps_homeWrite ..) _ _)

theorem keeps_l1Drop (s : State) (l : L1Line) (sc : Scope) : KeepsHome s (s.l1Drop l sc) :=
  (keeps_writeBack s l sc).trans ⟨id, rfl, rfl, rfl, rfl, rfl, rfl, rfl, rfl, rfl⟩

theorem keeps_release (s : State) (core asid : Nat) (sc : Scope) : KeepsHome s (s.release core asid sc) := by
  have lines := KeepsHome.over (fun s l => s.writeBack l sc) (fun s l => keeps_writeBack s l sc) (s.l1.filter fun l => l.core == core && tagBelow l sc) s
  unfold State.release
  split
  · exact .refl s
  · dsimp only
    split
    · exact lines.trans (keeps_rdcSync ..)
    · exact lines

theorem keeps_acquire (s : State) (core asid : Nat) (sc : Scope) : KeepsHome s (s.acquire core asid sc) := by
  have lines := KeepsHome.over (fun s l => s.l1Drop l sc) (fun s l => keeps_l1Drop s l sc) (s.l1.filter fun l => l.core == core && tagBelow l sc) s
  unfold State.acquire
  split
  · exact .refl s
  · dsimp only
    split
    · exact lines.trans (keeps_rdcSync ..)
    · exact lines

theorem zeroCores_wgs (s : State) (cl : Nat) : (s.zeroCores cl).wgs = s.wgs :=
  (KeepsHome.over (fun s l => s.l1Drop l .dev) (fun s l => keeps_l1Drop s l .dev) (s.l1.filter fun l => clusterOf l.core == cl) s).work.2.2.1

theorem takeCluster_wgs (s : State) (fe cl : Nat) : (s.takeCluster fe cl).wgs = s.wgs := by
  unfold State.takeCluster
  split
  · rfl
  · exact zeroCores_wgs s cl

theorem resumed_wgs (s : State) (asid : Nat) : (s.resumed asid).wgs = s.wgs := by
  unfold State.resumed
  split <;> rfl

/-! ## One workgroup of one thread (R34) -/

/-- A cluster that one front end alone may use is not taken from another. -/
theorem takeCluster_unshared {s t : State} {fe cl : Nat} (hregs : t.regs = s.regs) (h : (s.sharers cl).length ≤ 1) : t.takeCluster fe cl = t := by
  have same : t.sharers cl = s.sharers cl := by
    unfold State.sharers State.rregN State.rreg
    rw [hregs]
  rw [State.takeCluster, same, if_pos (by simp [show (s.sharers cl).length < 2 by omega])]

/-- A context of fewer than two rollbacks resumes without PROTECT (R380). -/
theorem resumed_fewRolls {s t : State} {asid : Nat} (hregs : t.regs = s.regs) (h : s.rregN (asid / 64) (0x0A06 + 8 * (asid % 64)) / 16 % 16 < 2) :
    t.resumed asid = t := by
  have few : ¬(2 ≤ fld (t.rregN (feOf asid) (ctxst asid)) 4 4) := by
    have idx : ctxst asid = 0x0A06 + 8 * (asid % 64) := by rw [ctxst]; omega
    simp only [State.rregN, State.rreg, hregs, idx, fld, feOf] at h ⊢
    omega
  rw [State.resumed, if_neg (by simp [few])]

theorem launchThreads_one {t : State} {w : Wg} {l : Launch} {core : Nat} (hsize : l.wgsize = 1) (hcore : core < 216) (hg : t.groups = []) :
    t.launchThreads w l core = { t with
      ended := t.ended.filter fun x => x.1 != core
      fresh := t.fresh + 2, groups := [⟨t.fresh, core, 0, w.id, []⟩]
      threads := t.threads ++ [newThread (t.fresh + 1) w.id t.fresh 0 ⟨false, l.entry, 0, [], 0, false, false, none⟩]
      gens := t.gens.map fun x => if (w.id, 0) ∈ x.seeds then
        { x with seeds := x.seeds.erase (w.id, 0), expected := x.expected ++ [t.fresh + 1] } else x } := by
  have array : isEnsign core = false := by simp [isEnsign, hcore]
  have lanes : ((upFrom 0 32).filter fun j => 32 * 0 + j < 1) = [0] := by decide
  have placed : ∀ x : Gen, x.placed w.id 0 (t.fresh + 1) = if (w.id, 0) ∈ x.seeds then
      { x with seeds := x.seeds.erase (w.id, 0), expected := x.expected ++ [t.fresh + 1] } else x := fun x => by
    simp only [Gen.placed, List.contains_iff_mem]
  simp only [State.launchThreads, array, hsize, Bool.false_eq_true, if_false, show upFrom 0 (ceilDiv 1 32) = [0] from rfl, State.over, List.foldl_cons,
    List.foldl_nil, State.newGroup, State.newId, lanes, State.addThread, hg, List.filter_nil, List.length_nil, le_refl, if_true, List.nil_append]
  simp only [← placed]
  rfl

/-- A waiting workgroup of one thread on an array core that no other front end uses (R34, R107). -/
theorem putWg_one {s : State} {w : Wg} {l : Launch} {p : Slot} (hsize : l.wgsize = 1) (hmat : l.isMatrix = false) (hcore : p.core < 216)
    (hshare : (s.sharers (clusterOf p.core)).length ≤ 1) (hg : s.groups = [])
    (hrolls : s.rregN (l.asid / 64) (0x0A06 + 8 * (l.asid % 64)) / 16 % 16 < 2) :
    s.putWg w l p = State.acquire { s.updWg w.id fun w => { w with
        core := p.core, state := .resident, base := p.base, obase := p.obase, spad := [], obuf := [], resv := [], spawnCt := 1, seq := none
        opened := s.fresh } with
      past := s.past.filter fun x => x.core != p.core
      ended := s.ended.filter fun x => x.1 != p.core
      rrLast := mput 0 s.rrLast (4 * (l.asid / 64) + Prio.num l.prio) (l.asid % 64 + 1)
      fresh := s.fresh + 3, groups := [⟨s.fresh + 1, p.core, 0, w.id, []⟩]
      threads := s.threads ++ [newThread (s.fresh + 2) w.id (s.fresh + 1) 0 ⟨false, l.entry, 0, [], 0, false, false, none⟩]
      gens := s.gens.map fun x => if (w.id, 0) ∈ x.seeds then
        { x with seeds := x.seeds.erase (w.id, 0), expected := x.expected ++ [s.fresh + 2] } else x } p.core l.asid (s.startScope l) := by
  simp only [State.putWg, State.newId]
  rw [takeCluster_unshared (s := s) ?regs hshare, resumed_fewRolls (s := s) ?regs' hrolls, launchThreads_one hsize hcore ?groups]
  · simp only [hsize, hmat]
    rfl
  · exact hg
  · rfl
  · rfl

/-! ## The trials of the dispatcher (R356) -/

/-- Where no launch of the unit feeds a shade stage, nothing follows its placement. -/
theorem afterPlace_noShade {s : State} : ∀ {unit : List Wg}, (∀ x ∈ unit, ∀ l, s.launch? x.launch = some l → l.shade = none) → s.afterPlace unit = s
  | [], _ => rfl
  | x :: xs, h => by
      have rest : s.afterPlace xs = s := afterPlace_noShade fun y hy => h y (List.mem_cons_of_mem _ hy)
      rw [State.afterPlace, State.over, List.foldl_cons]
      cases hl : s.launch? x.launch with
      | none => exact rest
      | some l =>
          simp only [h x List.mem_cons_self l hl, Option.isSome_none, Bool.false_and, Bool.false_eq_true, if_false]
          exact rest

/-- Work of a queue whose EN is 1 may be placed. -/
theorem queueOn_enabled {s : State} {l : Launch} {gr : Graph} (hg : s.graph? l.graph = some gr) (ha : gr.asid = l.asid)
    (hen : (s.rregN (l.asid / 64) (0x0800 + 16 * gr.queue)) / 2 ^ 31 % 2 = 1) : s.queueOn l = true := by
  simp only [State.queueOn, hg, State.graphOn, ha, feOf, bitOf, hen, beq_self_eq_true, Bool.or_true]

/-- Where EN is 0 none is, strip chains apart (R384). -/
theorem queueOn_disabled {s : State} {l : Launch} {gr : Graph} (hg : s.graph? l.graph = some gr) (ha : gr.asid = l.asid)
    (hsrc : ∀ slot sq, gr.src ≠ .strip slot sq) (hen : (s.rregN (l.asid / 64) (0x0800 + 16 * gr.queue)) / 2 ^ 31 % 2 = 0) : s.queueOn l = false := by
  simp only [State.queueOn, hg, State.graphOn, ha, feOf, bitOf, hen, Nat.reduceBEq, Bool.or_false]
section
variable {s s1 : State} {w : Wg} {l : Launch}

/-- A unit that waits whole, of one launch without a shade stage, is placed all at once. -/
theorem tryUnit_places (hl : s.launch? w.launch = some l) (hmay : s.mayPlace (l.asid / 64) = true) (hon : s.queueOn l = true)
    (hunit : ∀ x ∈ s.unitOf w, x.state = .waiting ∨ x.state = .saved) (hshade : l.shade = none) (hone : ∀ x ∈ s.unitOf w, x.launch = w.launch)
    (hput : s.placeUnitOn (s.unitOf w) (s.gangBars w l) = some s1) (hkeep : s1.launches = s.launches) : s.tryUnit w l = s1 := by
  have waits : ((s.unitOf w).all fun x => x.state == .waiting || x.state == .saved) = true :=
    List.all_eq_true.mpr fun x hx => by simpa using hunit x hx
  have quiet : s1.afterPlace (s.unitOf w) = s1 := afterPlace_noShade fun x hx l' hl' => by
    rw [hone x hx, State.launch?, hkeep] at hl'
    rw [← Option.some.inj (hl.symm.trans hl'), hshade]
  simp only [State.tryUnit, feOf, hmay, hon, waits, Bool.and_self, if_true, hput, quiet]

/-- A unit for which there is no room stays where it is. -/
theorem tryUnit_noRoom (hput : s.placeUnitOn (s.unitOf w) (s.gangBars w l) = none) : s.tryUnit w l = s := by
  simp only [State.tryUnit, hput, ite_self]

theorem tryUnit_disabled (hoff : s.queueOn l = false) : s.tryUnit w l = s := by
  simp only [State.tryUnit, hoff, Bool.and_false, Bool.false_and, Bool.false_eq_true, if_false]

theorem launchOfWg_eq (hw : s.wg? w.id = some w) (hl : s.launch? w.launch = some l) : s.launchOfWg w.id = some l := by
  rw [State.launchOfWg, hw, Option.bind_some, hl]

theorem gangPlacement_tries (hw : s.wg? w.id = some w) (hl : s.launch? w.launch = some l) (hwait : w.state = .waiting) :
    exec (.gangPlacement w.id) s = .next (s.tryUnit w l) := by
  change execGangPlacement w.id s = _
  simp only [execGangPlacement, hw, launchOfWg_eq hw hl, hwait, if_true]

theorem resumePlacement_tries (hw : s.wg? w.id = some w) (hl : s.launch? w.launch = some l) (hsaved : w.state = .saved)
    (hhalts : ∀ h ∈ s.halts, ∀ x ∈ s.unitOf w, h.1 ≠ x.id)
    (hread : s.unreadable l.asid (s.imagesOf 0 ((s.unitOf w).map (·.id))) = (none, s)) : exec (.resumePlacement w.id) s = .next (s.tryUnit w l) := by
  have runs : (s.halts.any fun h => ((s.unitOf w).map (·.id)).contains h.1) = false :=
    List.any_eq_false.mpr fun h hh hc => by
      obtain ⟨x, hx, he⟩ := List.mem_map.mp (List.contains_iff_mem.mp hc)
      exact hhalts h hh x hx he.symm
  change execResumePlacement w.id s = _
  simp only [execResumePlacement, hw, launchOfWg_eq hw hl, hsaved, ne_eq, not_true_eq_false, decide_false, runs, Bool.or_self, Bool.false_eq_true, if_false,
    hread]

/-- A single workgroup is put on the core that the dispatcher picks. -/
theorem workgroupPlacement_puts {p : Slot} {hint : Option Nat} (hw : s.wg? w.id = some w) (hl : s.launch? w.launch = some l)
    (hmay : s.mayPlace (l.asid / 64) = true) (hwait : w.state = .waiting) (hgang : w.gang = none) (hco : s.coResident w = false) (hon : s.queueOn l = true)
    (hpick : s.pick w l hint (s.gangBars w l) = some p) : exec (.workgroupPlacement w.id hint) s = .next ((s.putWg w l p).afterPlace [w]) := by
  change execWorkgroupPlacement w.id hint s = _
  simp only [execWorkgroupPlacement, hw, launchOfWg_eq hw hl, hwait, hgang, hco, feOf, hmay, hon, hpick, decide_true, Option.isNone_none, Bool.not_false,
    Bool.and_self, if_true]

theorem workgroupPlacement_noRoom {hint : Option Nat} (hw : s.wg? w.id = some w) (hl : s.launch? w.launch = some l)
    (hpick : s.pick w l hint (s.gangBars w l) = none) : exec (.workgroupPlacement w.id hint) s = .next s := by
  change execWorkgroupPlacement w.id hint s = _
  simp only [execWorkgroupPlacement, hw, launchOfWg_eq hw hl, hpick, ite_self]

theorem workgroupPlacement_disabled {hint : Option Nat} (hw : s.wg? w.id = some w) (hl : s.launch? w.launch = some l)
    (hoff : s.queueOn l = false) : exec (.workgroupPlacement w.id hint) s = .next s := by
  change execWorkgroupPlacement w.id hint s = _
  simp only [execWorkgroupPlacement, hw, launchOfWg_eq hw hl, hoff, Bool.and_false, Bool.false_eq_true, if_false]

/-- A PC group that still has a thread is noted as aged (R16). -/
theorem pcGroupAged_notes {gid : Nat} {pc : DWord} (h : ∃ t ∈ s.threads, t.gid = gid ∧ t.pc = pc) : exec (.pcGroupAged gid pc) s = .next { s with
    groups := s.groups.map fun x => if x.id = gid ∧ pc ∉ x.aged then { x with aged := x.aged ++ [pc] } else x } := by
  have stands : (s.threads.any fun t => t.gid == gid && t.pc == pc) = true := by
    obtain ⟨t, ht, hgid, hpc⟩ := h
    exact List.any_eq_true.mpr ⟨t, ht, by simp [hgid, hpc]⟩
  change execPcGroupAged gid pc s = _
  simp [execPcGroupAged, stands]
end

end Sys2Proof.Machine
end

section
/-! O29, PlacementEvents: where the members of a unit stand once it is placed, and the statement. -/

namespace Sys2Proof.Machine

/-! ## Operations that leave the workgroups alone -/

theorem over_wgs {β : Type} {f : State → β → State} (hf : ∀ s x, (f s x).wgs = s.wgs) : ∀ (xs : List β) (s : State), (s.over xs f).wgs = s.wgs
  | [], _ => rfl
  | x :: xs, s => (over_wgs hf xs (f s x)).trans (hf s x)

theorem addThread_wgs (s : State) (wg gid lane : Nat) (sd : Seed) : (s.addThread wg gid lane sd).wgs = s.wgs := by
  unfold State.addThread
  split <;> rfl

theorem launchThreads_wgs (s : State) (w : Wg) (l : Launch) (core : Nat) : (s.launchThreads w l core).wgs = s.wgs :=
  over_wgs (fun s _ => over_wgs (fun s _ => addThread_wgs s ..) _ (s.newGroup core w.id).2) _ s

theorem postOnce_wgs (s : State) (i : Instr) : (s.postOnce i).wgs = s.wgs := by
  unfold State.postOnce
  split <;> rfl

theorem coreFreed_wgs (s : State) (core : Nat) : (s.coreFreed core).wgs = s.wgs := by
  unfold State.coreFreed
  refine (over_wgs (fun s _ => postOnce_wgs s _) _ _).trans ?_
  split
  · exact postOnce_wgs s _
  · rfl

/-! ## Workgroups whose states move -/

/-- No workgroup is new, and one whose state is another is now in a state of `ok`. -/
def State.Moved (ok : WgState → Prop) (s t : State) : Prop := ∀ y ∈ t.wgs, ∃ x ∈ s.wgs, x.id = y.id ∧ (y.state = x.state ∨ ok y.state)

/-- A workgroup is in a state of `ok`. -/
def State.Stands (ok : WgState → Prop) (n : Nat) (s : State) : Prop := ∀ y ∈ s.wgs, y.id = n → ok y.state

section
variable {ok : WgState → Prop} {s t u : State} {n : Nat}

theorem State.Moved.of_subset (h : ∀ y ∈ t.wgs, y ∈ s.wgs) : s.Moved ok t := fun y hy => ⟨y, h y hy, rfl, Or.inl rfl⟩

theorem State.Moved.of_wgs (h : t.wgs = s.wgs) : s.Moved ok t := State.Moved.of_subset fun _ hy => h ▸ hy

theorem State.Moved.trans (h : s.Moved ok t) (k : t.Moved ok u) : s.Moved ok u := fun z hz => by
  obtain ⟨y, hy, hid, hyz⟩ := k z hz
  obtain ⟨x, hx, hid', hxy⟩ := h y hy
  refine ⟨x, hx, hid'.trans hid, ?_⟩
  rcases hyz with he | hok
  · exact hxy.imp he.trans (he ▸ ·)
  · exact Or.inr hok

theorem State.Stands.moved (hn : s.Stands ok n) (h : s.Moved ok t) : t.Stands ok n := fun y hy he => by
  obtain ⟨x, hx, hid, hxy⟩ := h y hy
  rcases hxy with hst | hok
  · exact hst ▸ hn x hx (hid.trans he)
  · exact hok

theorem State.Moved.updWg {f : Wg → Wg} (hid : ∀ w, (f w).id = w.id) (hst : ∀ w, (f w).state = w.state ∨ ok (f w).state) :
    s.Moved ok (s.updWg n f) := by
  intro y hy
  obtain ⟨x, hx, rfl⟩ := List.mem_map.mp hy
  refine ⟨x, hx, ?_⟩
  split
  · exact ⟨(hid x).symm, hst x⟩
  · exact ⟨rfl, Or.inl rfl⟩

theorem State.Stands.updWg {f : Wg → Wg} (hst : ∀ w, ok (f w).state) : (s.updWg n f).Stands ok n := by
  intro y hy he
  obtain ⟨x, hx, rfl⟩ := List.mem_map.mp hy
  by_cases hx' : x.id = n
  · rw [if_pos hx']
    exact hst x
  · rw [if_neg hx'] at he
    exact absurd he hx'

theorem updSeq_moved (s : State) (n : Nat) (f : Seq → Seq) : s.Moved ok (s.updSeq n f) := State.Moved.updWg (fun _ => rfl) fun _ => Or.inl rfl

theorem mailFlush_moved (s : State) (n : Nat) : s.Moved ok (s.mailFlush n) := by
  unfold State.mailFlush
  split
  · exact .of_wgs rfl
  · split
    · exact updSeq_moved _ _ _
    · exact State.Moved.trans (t := s.setQb n _ _) (State.Moved.updWg (fun _ => rfl) fun _ => Or.inl rfl) (updSeq_moved _ _ _)

theorem mailPush_moved (s : State) (n : Nat) (x : Word) : s.Moved ok (s.mailPush n x) := State.Moved.trans (updSeq_moved _ _ _) (mailFlush_moved _ _)

end

/-! ## A workgroup that goes on, and one that is put on a core -/

/-- Placed: on a core, or complete by now. -/
def WgState.settled (x : WgState) : Prop := x = .resident ∨ x = .done

/-- A workgroup that is complete ends, and with the last of its launch all of them leave (R33). -/
theorem wgCheck_moved (s : State) (n : Nat) : s.Moved WgState.settled (s.wgCheck n) := by
  unfold State.wgCheck
  split
  · rename_i w l _ _
    extract_lets orphan pc s0 idle
    have before : s.Moved WgState.settled s0 := by
      simp only [s0]
      split
      · exact State.Moved.trans (updSeq_moved _ _ _) (mailPush_moved _ _ _)
      · exact .of_wgs rfl
    clear_value s0
    split
    · rename_i s1 kept s2 s3 s4 _
      have released : s1.wgs = s0.wgs := (keeps_release ..).work.2.2.1
      have ended : kept.Moved WgState.settled s2 := by
        simp only [s2]
        exact State.Moved.updWg (fun _ => rfl) fun _ => Or.inr (Or.inr rfl)
      have gone : s3.Moved WgState.settled s4 := .of_subset fun y hy => by
        simp only [s4] at hy
        split at hy
        · exact List.mem_of_mem_filter hy
        · exact hy
      exact before.trans ((State.Moved.of_wgs (t := kept) released).trans (ended.trans ((State.Moved.of_wgs (s := s2) (t := s3) rfl).trans
        (gone.trans (.of_wgs (coreFreed_wgs ..))))))
    · exact before
  · exact .of_wgs rfl

theorem goesOn_moved (s : State) (n : Nat) : s.Moved WgState.settled (s.goesOn n) := by
  unfold State.goesOn
  split
  · exact .of_wgs rfl
  · extract_lets cmds due hoists
    exact State.Moved.trans (.of_wgs rfl) (wgCheck_moved _ n)

/-- An update that places a workgroup: it is resident and keeps its name. -/
def Places (f : Wg → Wg) : Prop := ∀ w, (f w).id = w.id ∧ (f w).state = .resident

/-- A waiting workgroup that is placed is resident, and no other workgroup changes (R34). -/
theorem putWg_wgs (s : State) (w : Wg) (l : Launch) (p : Slot) : ∃ f, Places f ∧ (s.putWg w l p).wgs = (s.updWg w.id f).wgs := by
  unfold State.putWg State.newId
  dsimp -zeta only
  extract_lets s1 s2
  refine ⟨fun w => { w with
    core := p.core, state := .resident, base := p.base, obase := p.obase, spad := [], obuf := [], resv := []
    spawnCt := BitVec.ofNat 32 l.wgsize, seq := if l.isMatrix then some (newSeq p.seq) else none, opened := s.fresh }, fun _ => ⟨rfl, rfl⟩, ?_⟩
  rw [(keeps_acquire ..).work.2.2.1, launchThreads_wgs, resumed_wgs]
  exact takeCluster_wgs s1 _ _

/-- A saved one that is restored is resident, and then goes on (R373). -/
theorem restoreWg_wgs (s : State) (w : Wg) (l : Launch) (p : Slot) :
    ∃ (f : Wg → Wg) (t : State), Places f ∧ t.wgs = (s.updWg w.id f).wgs ∧ s.restoreWg w l p = t.goesOn w.id := by
  unfold State.restoreWg State.newId
  dsimp -zeta only
  extract_lets nums mine renum s1 s2 s3 s4 s5
  refine ⟨fun w => { w with
    core := p.core, state := .resident, base := p.base, obase := p.obase, opened := s.fresh
    seq := w.seq.map fun q => { q with slot := p.seq }, round := w.round.map (Round.turned · s.dlc) }, _, fun _ => ⟨rfl, rfl⟩, ?_, rfl⟩
  have regrouped : s3.wgs = s2.wgs := by
    refine over_wgs ?_ _ _
    exact fun _ _ => rfl
  rw [(keeps_acquire ..).work.2.2.1]
  exact (resumed_wgs _ _).trans ((takeCluster_wgs s3 _ _).trans regrouped)

theorem putOrRestore_moved (s : State) (w : Wg) (l : Launch) (p : Slot) :
    s.Moved WgState.settled (s.putOrRestore w l p) ∧ (s.putOrRestore w l p).Stands WgState.settled w.id := by
  unfold State.putOrRestore
  split
  · obtain ⟨f, t, hf, hwgs, he⟩ := restoreWg_wgs s w l p
    rw [he]
    have placed : s.Moved WgState.settled t := .trans (.updWg (fun x => (hf x).1) fun x => Or.inr (Or.inl (hf x).2)) (.of_wgs hwgs)
    have stands : t.Stands WgState.settled w.id := .moved (.updWg fun x => Or.inl (hf x).2) (.of_wgs hwgs)
    exact ⟨placed.trans (goesOn_moved t w.id), stands.moved (goesOn_moved t w.id)⟩
  · obtain ⟨f, hf, hwgs⟩ := putWg_wgs s w l p
    exact ⟨.trans (.updWg (fun x => (hf x).1) fun x => Or.inr (Or.inl (hf x).2)) (.of_wgs hwgs),
      .moved (.updWg fun x => Or.inl (hf x).2) (.of_wgs hwgs)⟩

/-! ## A unit, all or nothing (R36, R39, R373) -/

/-- What the placement of a unit does as a whole, where each member does so: it relates the machine before and after by `R`, a preorder that keeps
what `S` says of a member once it is placed. -/
structure PutsUnit (unit : List Wg) (R : State → State → Prop) (S : Nat → State → Prop) : Prop where
  refl  : ∀ s, R s s
  trans : ∀ {s t u}, R s t → R t u → R s u
  keeps : ∀ {s t n}, S n s → R s t → S n t
  puts  : ∀ s w l p, w ∈ unit → R s (s.putOrRestore w l p) ∧ S w.id (s.putOrRestore w l p)

theorem foldl_bind_none {α β : Type} (f : β → α → Option β) : ∀ xs : List α, xs.foldl (fun acc x => acc.bind fun s => f s x) none = none
  | [] => rfl
  | _ :: xs => foldl_bind_none f xs

section
variable {unit : List Wg} {R : State → State → Prop} {S : Nat → State → Prop} (h : PutsUnit unit R S)
include h

/-- A sequence of steps each of which may fail: if none does, each has done its part. -/
theorem PutsUnit.steps {α : Type} {f : State → α → Option State} {ids : α → List Nat} :
    ∀ {xs : List α} {s t : State}, (∀ x ∈ xs, ∀ {s t}, f s x = some t → R s t ∧ ∀ n ∈ ids x, S n t) →
      xs.foldl (fun acc x => acc.bind fun s => f s x) (some s) = some t → R s t ∧ ∀ x ∈ xs, ∀ n ∈ ids x, S n t
  | [], s, t, _, he => by
      obtain rfl : s = t := Option.some.inj he
      exact ⟨h.refl s, by simp⟩
  | x :: xs, s, t, hf, he => by
      rw [List.foldl_cons, Option.bind_some] at he
      cases hx : f s x with
      | none => rw [hx, foldl_bind_none] at he; exact absurd he (by simp)
      | some u =>
          rw [hx] at he
          obtain ⟨hsu, hu⟩ := hf x List.mem_cons_self hx
          obtain ⟨hut, hxs⟩ := PutsUnit.steps (fun y hy => hf y (List.mem_cons_of_mem _ hy)) he
          exact ⟨h.trans hsu hut, List.forall_mem_cons.mpr ⟨fun n hn => h.keeps (hu n hn) hut, hxs⟩⟩

/-- Members put on the places that have been chosen for them. -/
theorem PutsUnit.over {f : State → Wg × Option Slot → State} {l : Launch} (hf : ∀ s w p, f s (w, some p) = s.putOrRestore w l p) :
    ∀ {rooms : List (Wg × Option Slot)} {s : State}, (∀ x ∈ rooms, x.1 ∈ unit ∧ x.2.isSome) →
      R s (s.over rooms f) ∧ ∀ x ∈ rooms, S x.1.id (s.over rooms f)
  | [], s, _ => ⟨h.refl s, by simp⟩
  | (w, none) :: xs, s, hr => absurd (hr _ List.mem_cons_self).2 (by simp)
  | (w, some p) :: xs, s, hr => by
      obtain ⟨hput, hw⟩ := h.puts s w l p (hr _ List.mem_cons_self).1
      obtain ⟨hrest, hxs⟩ := PutsUnit.over hf (s := s.putOrRestore w l p) fun x hx => hr x (List.mem_cons_of_mem _ hx)
      rw [State.over, List.foldl_cons, hf]
      exact ⟨h.trans hput hrest, List.forall_mem_cons.mpr ⟨h.keeps hw hrest, hxs⟩⟩
end

/-- The start that is chosen for a gang is one of those that will do. -/
theorem gangStart_ok {s : State} {g : Nat} {ok : List Nat → Bool} {cs : List Nat} (h : s.gangStart g ok = some cs) : ok cs = true := by
  unfold State.gangStart at h
  extract_lets all at h
  have chosen : ∀ x ∈ sortKey (fun cs => [2048 * 12 - s.freeSlots cs]) all, ok x = true := fun x hx =>
    (List.mem_filter.mp (mem_sortKey.mp hx)).2
  split at h
  · exact absurd h (by simp)
  · rename_i heq
    exact chosen cs (heq ▸ List.mem_of_find?_eq_some h)

section
variable {unit : List Wg} {R : State → State → Prop} {S : Nat → State → Prop} (h : PutsUnit unit R S)
include h

theorem PutsUnit.placeGang {ws : List Wg} {l : Launch} {barred : List Nat} {s t : State} (hws : ∀ w ∈ ws, w ∈ unit)
    (he : s.placeGang ws l barred = some t) : R s t ∧ ∀ n ∈ ws.map (·.id), S n t := by
  unfold State.placeGang at he
  extract_lets cores coreOf rooms ok at he
  obtain ⟨cs, hcs, ht⟩ := Option.map_eq_some_iff.mp he
  obtain ⟨hroom, -⟩ := Bool.and_eq_true_iff.mp (gangStart_ok hcs)
  have members : ∀ x ∈ rooms cs, x.1 ∈ unit ∧ x.2.isSome := fun x hx => by
    refine ⟨?_, List.all_eq_true.mp hroom x hx⟩
    obtain ⟨w, hw, rfl⟩ := List.mem_map.mp hx
    exact hws w hw
  obtain ⟨hst, hall⟩ : R s t ∧ ∀ x ∈ rooms cs, S x.1.id t := by
    rw [← ht]
    refine h.over (l := l) ?_ members
    exact fun _ _ _ => rfl
  refine ⟨hst, fun n hn => ?_⟩
  obtain ⟨w, hw, rfl⟩ := List.mem_map.mp hn
  exact hall _ (List.mem_map.mpr ⟨w, hw, rfl⟩)

/-- A unit that is placed is placed whole: its gangs, then its single workgroups. -/
theorem PutsUnit.placeUnitOn {barred : List Nat} {s t : State} (he : s.placeUnitOn unit barred = some t) : R s t ∧ ∀ w ∈ unit, S w.id t := by
  unfold State.placeUnitOn at he
  extract_lets gangs s1 at he
  cases hs1 : s1 with
  | none => rw [hs1, foldl_bind_none] at he; exact absurd he (by simp)
  | some u =>
      rw [hs1] at he
      obtain ⟨hsu, hgangs⟩ := h.steps (ids := fun ws => ws.map (·.id)) (fun ws hws s t hput => by
        obtain ⟨g, -, rfl⟩ := List.mem_map.mp hws
        obtain ⟨l, -, hput⟩ := Option.bind_eq_some_iff.mp hput
        exact h.placeGang (fun w hw => (List.mem_filter.mp (mem_sortKey.mp hw)).1) hput) hs1
      obtain ⟨hut, hsingles⟩ := h.steps (ids := fun w => [w.id]) (fun w hw s t hput => by
        obtain ⟨l, -, hput⟩ := Option.bind_eq_some_iff.mp hput
        obtain ⟨p, -, rfl⟩ := Option.map_eq_some_iff.mp hput
        simpa using h.puts s w l p (List.mem_filter.mp hw).1) he
      refine ⟨h.trans hsu hut, fun w hw => ?_⟩
      cases hg : w.gang with
      | none => exact hsingles w (List.mem_filter.mpr ⟨hw, by simp [hg]⟩) w.id (by simp)
      | some g =>
          have mine : g.1 ∈ (unit.filterMap fun w => w.gang.map (·.1)).eraseDups :=
            List.mem_eraseDups.mpr (List.mem_filterMap.mpr ⟨w, hw, by simp [hg]⟩)
          refine h.keeps (hgangs _ (List.mem_map.mpr ⟨g.1, mine, rfl⟩) w.id (List.mem_map.mpr ⟨w, ?_, rfl⟩)) hut
          exact mem_sortKey.mpr (List.mem_filter.mpr ⟨hw, by simp [hg]⟩)
end

/-! ## The members of a unit -/

theorem mem_closeUnit {s : State} {x : Wg} : ∀ {n : Nat} {us : List Wg}, (∀ u ∈ us, u ∈ s.wgs) → x ∈ s.closeUnit n us → x ∈ s.wgs
  | 0, _, hus, hx => hus x hx
  | n + 1, us, hus, hx => by
      rw [State.closeUnit] at hx
      split at hx
      · exact hus x hx
      · exact mem_closeUnit (fun u hu => (List.mem_append.mp hu).elim (hus u) List.mem_of_mem_filter) hx

theorem mem_unitOf {s : State} {w x : Wg} (hw : s.wg? w.id = some w) (hx : x ∈ s.unitOf w) : x ∈ s.wgs :=
  mem_closeUnit (fun u hu => by rw [List.mem_singleton.mp hu]; exact wg?_mem hw) (mem_sortKey.mp hx)

/-- The placement of any unit: what it places is resident, or complete by now. -/
theorem putsUnit_settled (unit : List Wg) : PutsUnit unit (State.Moved WgState.settled) (State.Stands WgState.settled) where
  refl _ := .of_wgs rfl
  trans := State.Moved.trans
  keeps := State.Stands.moved
  puts s w l p _ := putOrRestore_moved s w l p

/-- The placement of a unit that waits: no workgroup comes or goes, and what it places is resident. -/
theorem putsUnit_resident {unit : List Wg} (h : ∀ x ∈ unit, x.state = .waiting) :
    PutsUnit unit (fun s t => s.Moved (· = .resident) t ∧ t.wgs.map (·.id) = s.wgs.map (·.id)) (State.Stands (· = .resident)) where
  refl _ := ⟨.of_wgs rfl, rfl⟩
  trans h k := ⟨h.1.trans k.1, k.2.trans h.2⟩
  keeps hs h := hs.moved h.1
  puts s w l p hw := by
    have put : s.putOrRestore w l p = s.putWg w l p := by rw [State.putOrRestore, h w hw, if_neg (by decide)]
    obtain ⟨f, hf, hwgs⟩ := putWg_wgs s w l p
    have names : (s.updWg w.id f).wgs.map (·.id) = s.wgs.map (·.id) := by
      simp only [State.updWg, List.map_map]
      refine List.map_congr_left fun x _ => ?_
      by_cases hx : x.id = w.id <;> simp [hx, (hf x).1]
    rw [put]
    exact ⟨⟨.trans (.updWg (fun x => (hf x).1) fun x => Or.inr (hf x).2) (.of_wgs hwgs), hwgs ▸ names⟩,
      .moved (.updWg fun x => (hf x).2) (.of_wgs hwgs)⟩

/-- A unit that is placed: every member that is still there is resident or complete. -/
theorem placeUnitOn_settles {s t : State} {unit : List Wg} {barred : List Nat} {x y : Wg} (h : s.placeUnitOn unit barred = some t) (hx : x ∈ unit)
    (hy : t.wg? x.id = some y) : y.state = .resident ∨ y.state = .done :=
  ((putsUnit_settled unit).placeUnitOn h).2 x hx y (wg?_mem hy) (wg?_id hy)

/-- Where all of it waited, every member is there and resident. -/
theorem placeUnitOn_waiting {s t : State} {unit : List Wg} {barred : List Nat} {x : Wg} (h : s.placeUnitOn unit barred = some t)
    (hwait : ∀ x ∈ unit, x.state = .waiting) (hx : x ∈ unit) (hmem : x ∈ s.wgs) : ∃ y, t.wg? x.id = some y ∧ y.state = .resident := by
  obtain ⟨⟨-, names⟩, stands⟩ := (putsUnit_resident hwait).placeUnitOn h
  obtain ⟨z, hz, hid⟩ := List.mem_map.mp (names ▸ List.mem_map.mpr ⟨x, hmem, rfl⟩ : x.id ∈ t.wgs.map (·.id))
  obtain ⟨y, hy⟩ := Option.isSome_iff_exists.mp (List.find?_isSome.mpr ⟨z, hz, by simp [hid]⟩ : (t.wg? x.id).isSome)
  exact ⟨y, hy, stands x hx y (wg?_mem hy) (wg?_id hy)⟩

/-- Settles O29: the trials of the dispatcher by what their guards admit, and where the members of a unit stand by an invariant of its placement. -/
theorem placementEvents : Obligations.PlacementEvents := by
  unfold Obligations.PlacementEvents
  intro s s1 w l hw hl hmay
  refine ⟨?_, ?_, ?_, ?_, ?_, ?_, ?_⟩
  · intro p hwait hgang hco hshade hsize hmat hcore hshare hg hon hrolls hpick
    rw [workgroupPlacement_puts hw hl hmay hwait hgang hco hon hpick, putWg_one hsize hmat hcore hshare hg hrolls]
    refine congrArg _ (afterPlace_noShade fun x hx l' hl' => ?_)
    obtain rfl := List.mem_singleton.mp hx
    rw [State.launch?, (keeps_acquire ..).work.2.1] at hl'
    rw [← Option.some.inj (hl.symm.trans hl'), hshade]
  · exact fun hint _ _ _ hpick => workgroupPlacement_noRoom hw hl hpick
  · intro hwait hunit hshade hone
    refine ⟨fun hon hput hkeep => ?_, fun hput => ?_⟩
    · rw [gangPlacement_tries hw hl hwait, tryUnit_places hl hmay hon (fun x hx => Or.inl (hunit x hx)) hshade hone hput hkeep]
    · rw [gangPlacement_tries hw hl hwait, tryUnit_noRoom hput]
  · exact fun barred hput => ⟨fun hwait x hx => placeUnitOn_waiting hput hwait hx (mem_unitOf hw hx), fun x hx y hy => placeUnitOn_settles hput hx hy⟩
  · intro gr hsaved hunit hshade hone hgr ha hhalts hread
    refine ⟨fun hen hput hkeep => ?_, fun hen hsrc => ?_⟩
    · rw [resumePlacement_tries hw hl hsaved hhalts hread,
        tryUnit_places hl hmay (queueOn_enabled hgr ha hen) (fun x hx => Or.inr (hunit x hx)) hshade hone hput hkeep]
    · rw [resumePlacement_tries hw hl hsaved hhalts hread, tryUnit_disabled (queueOn_disabled hgr ha hsrc hen)]
  · intro gr hint hgr ha hsrc hwait hen
    have hoff := queueOn_disabled hgr ha hsrc hen
    exact ⟨workgroupPlacement_disabled hw hl hoff, by rw [gangPlacement_tries hw hl hwait, tryUnit_disabled hoff]⟩
  · exact fun gid pc h => pcGroupAged_notes h

end Sys2Proof.Machine
end

section
/-! O56, StepRuns: what a step takes first, the selection of a machine of one thread, and the statement. -/

namespace Sys2Proof.Machine

/-! ## Writes, inputs and events -/

/-- No event of a register's write acts whatever the boot state. -/
theorem isWriteEvent_of_whenDown {i : Instr} (h : whenDown i = true) : isWriteEvent i = false := by
  unfold whenDown at h
  split at h
  any_goals rfl
  exact absurd h Bool.false_ne_true

section
variable {s u t : State} {i : Instr}

/-- Nothing that a register's write began comes first: the head of the events to come is none, or the device is not ready. -/
def State.calm (u : State) : Prop := ∀ j, u.agenda.head? = some j → isWriteEvent j = false ∨ u.boot ≠ .ready

theorem writeFirst_calm (h : u.calm) : u.writeFirst = none := by
  have first : (u.agenda.head?.map fun i => isWriteEvent i && u.acts i).getD false = false := by
    cases hj : u.agenda.head? with
    | none => rfl
    | some j =>
        rw [Option.map_some, Option.getD_some, Bool.and_eq_false_iff]
        rcases h j hj with hw | hb
        · exact Or.inl hw
        · cases hd : whenDown j
          · exact Or.inr (by simp [State.acts, hb, hd])
          · exact Or.inl (isWriteEvent_of_whenDown hd)
  rw [State.writeFirst, first, if_neg Bool.false_ne_true]

/-- The first event to come, where it acts. -/
theorem nextEvent_head {is : List Instr} (ha : u.agenda = i :: is) (hacts : u.acts i = true) (he : exec i { u with agenda := is } = .next t) :
    u.nextEvent = some t := by
  have rest : (i :: is).erase i = is := List.erase_cons_head ..
  simp only [State.nextEvent, ha, List.find?_cons_of_pos hacts, Option.map_some, rest, he, landed]

theorem step_write {is : List Instr} (hu : s.tick = u) (ha : u.agenda = i :: is) (hw : isWriteEvent i = true) (hacts : u.acts i = true)
    (he : exec i { u with agenda := is } = .next t) : step s = .next t := by
  have first : u.writeFirst = some t := by
    rw [State.writeFirst, ha]
    simpa [hw, hacts] using nextEvent_head ha hacts he
  rw [step, hu, first]

/-- The input that has come, unless it waits at its port (R424). -/
theorem step_input {k : Nat} {x : Input} {rest : List (Nat × Input)} (hu : s.tick = u)
    (hdue : u.calm ∧ u.inputs = (k, x) :: rest ∧ k ≤ u.stepNo) (hport : u.atPort x = false) : step s = ({ u with inputs := rest } : State).input x := by
  obtain ⟨hcalm, hin, hk⟩ := hdue
  have next : u.nextInput = some (x, { u with inputs := rest }) := by
    simp only [State.nextInput, hin, takeDue, hport, hk, decide_true, Bool.not_false, Bool.and_self, if_true, Option.map_some]
  rw [step, hu, writeFirst_calm hcalm, next]

/-- Neither a write, nor an input, nor the turn of the timers that comes once in 64 steps. -/
def State.quiet (u : State) : Prop := u.inputs = [] ∧ u.calm ∧ u.stepNo % 64 ≠ 63

theorem source_events {k : Nat} (hk : k % 3 = 0) (h : u.nextEvent = some t) : u.source k = some t := by rw [State.source, if_pos hk, h]

theorem source_threads {k : Nat} (hk : k % 3 = 1) (h : u.threadTurn = some t) : u.source k = some t := by
  rw [State.source, if_neg (by omega), if_pos hk, h]

/-- The source whose turn it is acts. -/
theorem step_source (hu : s.tick = u) (hquiet : u.quiet) (hsrc : u.source u.turn = some t) : step s = .next { t with turn := (u.turn + 1) % 3 } := by
  obtain ⟨hin, hcalm, hstep⟩ := hquiet
  have noInput : u.nextInput = none := by rw [State.nextInput, hin]; rfl
  rw [step, hu, writeFirst_calm hcalm, noInput]
  simp only [State.ownTurn, hstep, if_false, firstActing, hsrc, Option.map_some, Option.getD_some]
end

/-! ## A chain of one instruction (R156, R157) -/

/-- The chain of one word that is not followed by another of its chain, and is no REP. -/
theorem chainAt_one {ws : List Nat} {pc : DWord} {i : Instr} (hi : decodeThread (ws.getD (slotOf pc) 0) (wordAfter ws (slotOf pc)) = .ok i)
    (hlast : (ws.getD (slotOf pc) 0) / 2 ^ 31 % 2 = 0) (hrep : ∀ a b c d, i ≠ .rep a b c d) :
    chainAt ws pc = ⟨[(slotOf pc, i)], slotAddr pc (slotOf pc + i.slots), none, false⟩ := by
  have alone : bitOf (ws.getD (slotOf pc) 0) 31 = false := by rw [bitOf, hlast]; rfl
  have noRep : isRepInstr i = false := by
    unfold isRepInstr
    split
    · exact absurd rfl (hrep _ _ _ _)
    · rfl
  simp only [chainAt, readChain, hi, alone, Bool.not_false, if_true, chainBad, firstClash, List.any_nil, Bool.false_eq_true, if_false, List.find?_cons, noRep,
    Bool.false_and, List.find?_nil, Option.map_none]

theorem slotAddr_eq (pc : DWord) (k : Nat) : slotAddr pc k = BitVec.ofNat 64 ((pc.toNat / 12 * 12 + 4 * k) % 2 ^ 52) := by
  have := pc.isLt
  have packet : (packetOf pc).toNat = pc.toNat / 12 * 12 := by
    rw [packetOf, BitVec.toNat_ofNat, Nat.mod_eq_of_lt (by omega)]
  rw [slotAddr, packet]

theorem issueOrder_one (p : Nat × Instr) : issueOrder [p] = [p] := by
  have ranks : issueRank p.2 = 0 ∨ issueRank p.2 = 1 ∨ issueRank p.2 = 2 := by
    unfold issueRank
    split
    · exact Or.inl rfl
    · split
      · exact Or.inr (Or.inr rfl)
      · exact Or.inr (Or.inl rfl)
  rcases ranks with h | h | h <;> simp [issueOrder, h]

theorem sortKey_one {α : Type} (k : α → List Nat) (x : α) : sortKey k [x] = [x] := rfl

section
variable {u v t : State} {i : Instr} {g : LaneGroup} {lane : Thread} {pc next : DWord} {k : Nat}

/-- A chain of one instruction in one lane: the instruction executes at its slot. -/
theorem chainRun_one (hv : v.threads = [lane])
    (hcause : ({ v with iss := ⟨g.core, g.id, [lane], pc, next, k, [], [], []⟩, threads := [{ lane with pc := next }] } : State).issueCause i = none)
    (he : exec i { v with iss := ⟨g.core, g.id, [lane], pc, next, k, [], [], []⟩, threads := [{ lane with pc := next }] } = .next t) :
    v.chainRun g.core g.id pc ⟨[(k, i)], next, none, false⟩ [lane] [] = t := by
  have enters : v.enterIssue g.core g.id pc ⟨[(k, i)], next, none, false⟩ [lane] [] =
      { v with iss := ⟨g.core, g.id, [lane], pc, next, 0, [], [], []⟩, threads := [{ lane with pc := next }] } := by
    simp [State.enterIssue, hv]
  have clean : (v.enterIssue g.core g.id pc ⟨[(k, i)], next, none, false⟩ [lane] []).chainCause ⟨[(k, i)], next, none, false⟩ = none := by
    have same : ∀ n, (v.enterIssue g.core g.id pc ⟨[(k, i)], next, none, false⟩ [lane] []).issueCause i ≠ some n := fun n => by
      rw [enters]
      exact ne_of_eq_of_ne hcause (by simp)
    simp [State.chainCause, same]
  rw [enters] at clean
  simp only [State.chainRun, enters, clean, issueOrder_one, State.runInstrs, Bool.false_eq_true, if_false]
  rw [he]
  rfl

/-- A lane with nothing outstanding waits for no register. -/
theorem awaits_noOps {c : Chain} (h : v.ops = []) : v.awaits lane c = false := by
  rw [State.awaits, State.awaited, h]; rfl

/-- The only lane of a machine has whole quads. -/
theorem wholeQuads_one {c : Chain} (hv : v.threads = [lane]) : v.wholeQuads c [lane] = [lane] := by
  have mates : v.mates lane = [lane] := by simp [State.mates, hv]
  unfold State.wholeQuads
  dsimp only
  split
  · simp [mates]
  · split <;> simp [mates]

/-- The one lane of a group, ready with a chain of one instruction. -/
theorem readyAt_one {ws : List Nat} (hfetch : u.fetchPacket g.core g.wg lane.pc = (.ok ws, v)) (hops : v.ops = []) (hv : v.threads = [lane])
    (hchain : lane.chain ws = ⟨[(k, i)], next, none, false⟩) (hseq : isSeq i = true → v.seqFull lane.wg = false)
    (hrun : v.chainRun g.core g.id lane.pc ⟨[(k, i)], next, none, false⟩ [lane] [] = t) (hretried : t.iss.retried = []) :
    u.readyAt g [lane] = some ⟨lane.pc, [lane], i.pipe == .m, i.pipe == .x, t⟩ := by
  have goes : (v.seqFull lane.wg && isSeq i) = false := by
    cases hq : isSeq i
    · exact Bool.and_false _
    · rw [hseq hq]; rfl
  have settled : v.settle g.core g.id lane.pc ⟨[(k, i)], next, none, false⟩ 40 [lane] [] = ([lane], t) := by
    simp [State.settle, hrun, hretried]
  simp only [State.readyAt, hfetch, hchain, List.any_cons, List.any_nil, Bool.or_false, awaits_noOps hops, goes, Bool.not_false, Bool.and_self,
    List.filter_cons_of_pos, List.filter_nil, wholeQuads_one hv, settled, List.isEmpty_cons, Bool.false_eq_true, if_false]
end

/-! ## The selection of the one lane of a machine (R16, R17) -/

/-- A thread of which one more YIELD has counted down (R231). -/
def Thread.yielded (t : Thread) : Thread := { t with yields := t.yields - 1 }

section
variable {u : State} {g : LaneGroup} {th : Thread} {r : Ready}

theorem countYields_one (hth : u.threads = [th]) (hgid : th.gid = g.id) : u.countYields g = { u with threads := [th.yielded] } := by
  have mine : (th.gid == g.id) = true := beq_iff_eq.mpr hgid
  simp only [State.countYields, hth, List.map_cons, List.map_nil, mine, Bool.true_or, if_true]
  rfl

/-- YIELDs have no part in what keeps a thread from its next chain. -/
theorem live_yielded : ({ u with threads := [th.yielded] } : State).live th.yielded = u.live th := rfl

theorem readyGroups_one (hth : u.threads = [th]) (hgid : th.gid = g.id) (hlive : u.live th = true) (hready : u.readyAt g [th] = some r) :
    u.readyGroups g = [r] := by
  have lanes : u.liveLanes g = [th] := by
    rw [State.liveLanes, hth, List.filter_cons_of_pos (by simp [hgid, hlive]), List.filter_nil, sortKey_one]
  have one : [(th.pc, th.rep)].eraseDups = [(th.pc, th.rep)] := rfl
  simp only [State.readyGroups, lanes, List.map_cons, List.map_nil, one, List.filterMap_cons, List.filterMap_nil, beq_self_eq_true, Bool.and_self,
    List.filter_cons_of_pos, List.filter_nil, hready]

/-- The one PC group issues, and none stands by. -/
theorem selectFrom_one (hth : u.threads = [th]) (hgid : th.gid = g.id) (hlive : u.live th = true)
    (hready : ({ u with threads := [th.yielded] } : State).readyAt g [th.yielded] = some r) (hr : r.lanes = [th.yielded]) :
    u.selectFrom g = some { r.after with
      groups := r.after.groups.map fun x => if x.id = g.id then { x with aged := x.aged.filter fun p => p != r.pc } else x
      threads := r.after.threads.map fun x => if x.uid = th.uid then { x with lastIss := u.stepNo } else x
      second := none
      lastSel := mput 0 (mput 0 r.after.lastSel (2 * g.core + g.sched) (g.id + 1)) 1001 (2 * g.core + g.sched + 1) } := by
  have groups : ({ u with threads := [th.yielded] } : State).readyGroups g = [r] := readyGroups_one rfl hgid (live_yielded.trans hlive) hready
  have mine : ∀ x : Thread, (r.lanes.any fun y => y.uid == x.uid) = decide (x.uid = th.uid) := fun x => by
    rw [hr, List.any_cons, List.any_nil, Bool.or_false]
    by_cases hx : x.uid = th.uid
    · simp [hx, Thread.yielded]
    · simp [hx, Ne.symm hx, Thread.yielded]
  rw [State.selectFrom, countYields_one hth hgid]
  dsimp only
  rw [groups, sortKey_one]
  simp only [State.issuedAt, mine, decide_eq_true_eq]

/-- The threads' turn, where the one thread is live and nothing stands by. -/
theorem threadTurn_one {t : State} (hboot : u.boot = .ready) (hsecond : u.second = none) (hgs : u.groups = [g]) (hcore : g.core < 270) (hsched : g.sched < 2)
    (hth : u.threads = [th]) (hlive : u.live th = true) (hsel : u.selectFrom g = some t) : u.threadTurn = some t := by
  have noTrap : u.pendingTrap = none := by
    have : th.pend.isEmpty = true := by
      simp only [State.live, State.unheld, Bool.and_eq_true] at hlive
      obtain ⟨⟨⟨⟨⟨-, hpend⟩, -⟩, -⟩, -⟩, -⟩ := hlive
      exact hpend
    simp [State.pendingTrap, hth, this]
  have noSecond : u.issueSecond = none := by rw [State.issueSecond, hsecond]
  have scheds : u.schedulers = [(g.core, g.sched)] := by
    have pair : ((2 * g.core + g.sched) / 2, (2 * g.core + g.sched) % 2) = (g.core, g.sched) := by
      congr 1 <;> omega
    rw [State.schedulers, hgs, List.filter_cons_of_pos (by simpa using hcore), List.filter_nil]
    exact congrArg (fun x => [x]) pair
  have turn : u.inTurn g.core g.sched = [g] := by
    rw [State.inTurn, hgs, List.filter_cons_of_pos (by simp), List.filter_nil, sortKey_one]
  have stays : u.givesWay g = false := by simp [State.givesWay, hgs]
  simp only [State.threadTurn, hboot, ne_eq, not_true_eq_false, if_false, noTrap, noSecond, scheds, firstActing, turn, stays, Bool.false_eq_true, hsel]
end

/-- Settles O56: each kind of move by the lemma for what comes before it, and the issue of a thread by the chain of its one instruction. -/
theorem stepRuns : Obligations.StepRuns := by
  unfold Obligations.StepRuns
  intro s t i
  obtain ⟨u, hu⟩ : ∃ u, s.tick = u := ⟨_, rfl⟩
  rw [hu]
  refine ⟨?_, ?_, ?_, ?_, ?_, ?_, ?_, ?_, ?_, ?_, ?_⟩
  · exact fun is ha hw hb he => step_write hu ha hw (by rw [State.acts, hb]; rfl) he
  · exact fun k rest hdue hport => step_input hu hdue hport
  · exact fun k rest bar off v hdue => step_input hu hdue rfl
  · exact fun k rest idx hdue => step_input hu hdue rfl
  · exact fun k rest ven ty bs hdue => step_input hu hdue rfl
  · exact fun k rest pa len hdue => step_input hu hdue rfl
  · exact fun k rest pa hard hdue => step_input hu hdue rfl
  · exact fun k rest p d hdue => step_input hu hdue rfl
  · exact fun k rest hdue => step_input hu hdue rfl
  · intro is hquiet hturn ha hacts he
    exact step_source hu hquiet (source_events hturn (nextEvent_head ha hacts he))
  · intro g th ws v hquiet hturn hboot hsecond hgs hcore hsched hth hgid hlive hrep lane hfetch hops hv k hdec hlast hnorep hseq next here hcause he hretried
    have chain : th.yielded.chain ws = ⟨[(slotOf th.pc, i)], slotAddr th.pc (slotOf th.pc + i.slots), none, false⟩ := by
      rw [Thread.chain, show th.yielded.rep = th.rep from rfl, hrep, if_neg Bool.false_ne_true]
      exact chainAt_one hdec hlast hnorep
    rw [slotAddr_eq] at chain
    have ready := readyAt_one (lane := th.yielded) hfetch hops hv chain hseq (chainRun_one (lane := th.yielded) hv hcause he) hretried
    exact step_source hu hquiet (source_threads hturn
      (threadTurn_one hboot hsecond hgs hcore hsched hth hlive (selectFrom_one hth hgid hlive ready rfl)))

end Sys2Proof.Machine
end

section
/-! O58, DecodeWords. -/

namespace Sys2Proof.Machine

/-- Settles O58: the decoders run on each of the words. -/
theorem decodeWords : Obligations.DecodeWords := by
  unfold Obligations.DecodeWords
  decide

end Sys2Proof.Machine
end

section
/-! SUPPORT. Laws of an instruction that changes each acting lane on its own, and of the words of the special registers. -/

namespace Sys2Proof.Machine

/-! ## A pass in which each lane changes itself -/

/-- An instruction whose pass over the lanes is an update of each lane's own thread. -/
theorem laneEffect_of_pass {s : State} {i : Instr} {g : Pred} {f : Thread → Thread → Thread} {step : State → Thread → State}
    (hexec : exec i s = issued i s fun s => s.eachLane g step) (hstep : ∀ t xs, step (s.withThreads xs) t = (s.withThreads xs).updThr t.uid (f t))
    (huid : ∀ t u, (f t u).uid = u.uid := by intros; rfl) : s.laneEffect i g f := fun hi => by
  rw [hexec, issued_body hi.1, eachLane_eq_inLanes hi.2 g f step huid fun t _ xs => hstep t xs]

/-- A pass in which every acting lane leaves the machine as it is. -/
theorem eachLane_self {s : State} {g : Pred} {step : State → Thread → State} (h : ∀ t ∈ s.acting g, step s t = s) : s.eachLane g step = s := by
  rw [State.eachLane]
  generalize s.acting g = ts at h
  induction ts with
  | nil => rfl
  | cons t ts ih =>
      rw [State.over, List.foldl_cons, h t List.mem_cons_self]
      exact ih fun u hu => h u (List.mem_cons_of_mem _ hu)

@[simp] theorem wr_uid (t : Thread) (d : Dst) (x : Word) : (t.wr d x).uid = t.uid := wrWords_uid ..

@[simp] theorem wr2_uid (t : Thread) (d : Dst) (x : DWord) : (t.wr2 d x).uid = t.uid := wrWords_uid ..

@[simp] theorem clearSpr_uid (t : Thread) (x : Spr) : (t.clearSpr x).uid = t.uid := by cases x <;> rfl

/-! ## Words of the special registers (R55) -/

/-- What a special register holds does not depend on the other threads. -/
theorem spr_withThreads (s : State) (xs : List Thread) : (s.withThreads xs).spr = s.spr := by
  funext t x
  cases x <;> rfl

/-- The bits of a mask are the numbers of its list. -/
theorem testBit_maskOf (r : Nat) (is : List Nat) : (maskOf is).testBit r = decide (r ∈ is) := by
  have go : ∀ (is : List Nat) (m : Nat), (is.foldl (fun m i => m ||| 2 ^ i) m).testBit r = (m.testBit r || decide (r ∈ is)) := by
    intro is
    induction is with
    | nil => simp
    | cons i is ih =>
        intro m
        rw [List.foldl_cons, ih, Nat.testBit_or, Nat.testBit_two_pow, Bool.or_assoc]
        simp [eq_comm]
  rw [maskOf, go, Nat.zero_testBit, Bool.false_or]

/-- A bit of a POISON word is the poison bit of its register. -/
theorem poisonWord_getLsbD (t : Thread) (i : Nat) {r : Nat} (hr : r < 32) : (t.poisonWord i).getLsbD r = t.poisoned (32 * i + r) := by
  rw [Thread.poisonWord, BitVec.getLsbD_ofNat, testBit_maskOf]
  simp [mem_upFrom, hr]

/-- TXCTL.test's word (R251). -/
theorem txTestWord (x y : Bool) : boolNat x + 2 * boolNat y = (if x then 1 else 0) + if y then 2 else 0 := by
  cases x <;> cases y <;> rfl

/-- A WAIT whose limits a lane keeps holds nothing back. -/
theorem within_iff (t : Thread) (l sl c x : BitVec 3) : t.within l sl c x = true ↔
    (l = 7 ∨ t.cntL ≤ l.toNat) ∧ (sl = 7 ∨ t.cntS ≤ sl.toNat) ∧ (c = 7 ∨ t.cntC ≤ c.toNat) ∧ (x = 7 ∨ t.cntT ≤ x.toNat) := by
  simp [Thread.within, and_assoc]

end Sys2Proof.Machine
end

section
/-! O8, SpecialResults: what SRD reads and clears, and the statement. -/

namespace Sys2Proof.Machine

section
variable (s : State) (g : Pred) (d : Dst)

/-- SRD reads the register as it stood before the chain, and clears what it holds now (R55, R207). -/
theorem srd_reads (clr : Bool) (idx : Spr) :
    s.laneEffect (.srd g d clr idx) g fun t u => ((if clr then u.clearSpr idx else u).wr d (s.spr t idx)).trimLog := by
  refine laneEffect_of_pass rfl (fun t xs => ?_) fun t u => ?_
  · rw [spr_withThreads]
  · cases clr <;> simp

/-- WAIT in lanes that keep their limits goes on at once (R234). -/
theorem wait_passes {l sl c x : BitVec 3} (hi : s.canIssue (.wait g l sl c x)) (h : ∀ t ∈ s.acting g, t.within l sl c x = true) :
    exec (.wait g l sl c x) s = .next s := by
  change execWait g l sl c x s = _
  rw [execWait, issued_body hi.1, eachLane_self fun t ht => if_pos (h t ht)]
end

/-- Settles O8: each instruction is a pass in which every acting lane updates itself, and the words of SRD are read off their layouts. -/
theorem specialResults : Obligations.SpecialResults := by
  unfold Obligations.SpecialResults
  intro s g d
  refine ⟨?nop, ?part, ?srd, ?words, ?time, ?yield, ?rep, ?txtest, ?wait⟩
  case nop => exact fun hi => issued_body (body := fun s => s) hi.1
  case part => exact fun n => laneEffect_of_pass rfl fun _ _ => rfl
  case srd => exact srd_reads s g d
  case words =>
    refine fun t => ⟨?_, rfl, rfl, fun r hr => ?_, rfl, rfl, rfl, rfl⟩
    · exact BitVec.toNat_setWidth_of_le (by decide)
    · rw [State.spr, poisonWord_getLsbD t 0 hr, Nat.mul_zero, Nat.zero_add]
  case time => exact laneEffect_of_pass rfl (fun _ _ => rfl) fun t u => by simp
  case yield => exact fun n => laneEffect_of_pass rfl fun _ _ => rfl
  case rep => exact fun sb sa sd tot => laneEffect_of_pass rfl fun _ _ => rfl
  case txtest =>
    simp only [← txTestWord]
    exact laneEffect_of_pass rfl (fun _ _ => rfl) fun t u => by simp
  case wait => exact fun l sl c x hi h => wait_passes s g hi fun t ht => (within_iff t l sl c x).mpr (h t ht)

end Sys2Proof.Machine
end

section
/-! SUPPORT. Laws of a computation in each lane: the values of its operands, results in codes of a format, and packed pairs. -/

namespace Sys2Proof

/-! ## Rounding to nearest even does not look at the dither threshold (R74, R75) -/

theorem roundAt_rn (neg : Bool) (t : Nat) (v : Mag) (u : Int) : roundAt .rn neg t v u = roundAt .rn neg 0 v u := rfl

theorem roundBin_rn (ty : Ty) (neg : Bool) (t : Nat) (v : Mag) : roundBin ty .rn neg t v = roundBin ty .rn neg 0 v := rfl

theorem roundTaper_rn (ty : Ty) (neg : Bool) (t : Nat) (v : Mag) : roundTaper ty .rn neg t v = roundTaper ty .rn neg 0 v := rfl

theorem roundF_rn (ty : Ty) (t : Nat) (neg : Bool) (v : Mag) (sat : Flags) : roundF ty .rn t neg v sat = roundF ty .rn 0 neg v sat := by
  unfold roundF
  simp only [ite_self]
  rfl

theorem finish_rn (ty : Ty) (t : Nat) (r : FVal × Flags) : finish ty .rn t r = finish ty .rn 0 r := by
  obtain ⟨x, fl⟩ := r
  cases x with
  | nan sig => rfl
  | inf neg => rfl
  | fin neg v => simp only [finish, encodeF, roundF_rn ty t]

/-! ## Packed pairs (R67) -/

/-- A computation on the low halves of three words and on their high halves, as a pair. -/
def onHalves (f h : Nat → Nat → Nat → Nat × Flags) (x y z : Nat) : Nat × Flags :=
  ((f (x % 2 ^ 16) (y % 2 ^ 16) (z % 2 ^ 16)).1 + 2 ^ 16 * (h (x / 2 ^ 16) (y / 2 ^ 16) (z / 2 ^ 16)).1,
    (f (x % 2 ^ 16) (y % 2 ^ 16) (z % 2 ^ 16)).2 ||| (h (x / 2 ^ 16) (y / 2 ^ 16) (z / 2 ^ 16)).2)

theorem packed_eq (f : Nat → Nat → Nat → Nat → Nat × Flags) (lane : Nat) {x y z : Nat} (hx : x < 2 ^ 32) (hy : y < 2 ^ 32) (hz : z < 2 ^ 32) :
    packed f lane x y z = onHalves (f (dithT lane 0)) (f (dithT (lane + 32) 0)) x y z := by
  have low : ∀ w, fld w 0 16 = w % 2 ^ 16 := fun w => by rw [fld, Nat.pow_zero, Nat.div_one]
  have high : ∀ w, w < 2 ^ 32 → fld w 16 16 = w / 2 ^ 16 := fun w hw => Nat.mod_eq_of_lt (by omega)
  simp only [packed, onHalves, low, high x hx, high y hy, high z hz, Nat.mul_comm]

end Sys2Proof

namespace Sys2Proof.Machine

/-! ## Operand values (R48, R186) -/

theorem lo32_setWidth (w : Word) : lo32 (w.setWidth 64) = w := by
  rw [lo32, BitVec.setWidth_setWidth_of_le w (by decide), BitVec.setWidth_eq]

theorem toNat_setWidth64 (w : Word) : (w.setWidth 64).toNat = w.toNat := BitVec.toNat_setWidth_of_le (by decide)

/-- A 32-bit source stands in the low half of its operand value. -/
theorem opnd_src (s : State) (t : Thread) (a : Src) : s.opnd t (.s a) = (s.src t a).setWidth 64 := by
  have low : ∃ w : Word, s.opnd t (.s a) = w.setWidth 64 := by
    cases a with
    | v r => exact ⟨t.val r.val, by simp [State.opnd, Opnd.s, Src.code, r.isLt]⟩
    | zero => exact ⟨0, rfl⟩
    | lit w => exact ⟨w, rfl⟩
    | lane => exact ⟨_, rfl⟩
    | tid => exact ⟨_, rfl⟩
    | wg => exact ⟨_, rfl⟩
  obtain ⟨w, hw⟩ := low
  rw [State.src, hw, lo32_setWidth]

/-- A destination that is read as well. -/
theorem opnd_old (s : State) (t : Thread) (d : Dst) : s.opnd t (.ds d) = (t.old d).setWidth 64 := by
  cases d with
  | v r => simp [State.opnd, Opnd.ds, Dst.code, r.isLt, Thread.old]
  | zero => rfl

theorem opnd_old2 (s : State) (t : Thread) (d : Dst) : s.opnd t (.ds2 d) = t.old2 d := by
  cases d with
  | v r => simp [State.opnd, Opnd.ds2, Dst.code, r.isLt, Thread.old2]
  | zero => rfl

theorem opnd_wide (s : State) (t : Thread) (a : Src) : s.opnd t (.sw true a) = s.src2 t a := rfl

theorem opnd_narrow (s : State) (t : Thread) (a : Src) : s.opnd t (.sw false a) = (s.src t a).setWidth 64 := opnd_src s t a

/-- The code that a source of one or the other width holds. -/
theorem toNat_opnd_sw (s : State) (t : Thread) (w : Bool) (a : Src) :
    (s.opnd t (.sw w a)).toNat = if w then (s.src2 t a).toNat else (s.src t a).toNat := by
  cases w
  · rw [opnd_narrow, toNat_setWidth64]; rfl
  · rfl

section
variable {s : State} {i : Instr} {g : Pred} {d : Dst} {w : Bool} {a b : Src} {x y z : Opnd}

theorem vals_one (h : i.srcs = [x]) (t : Thread) : s.vals t i = (s.opnd t x, 0, 0) := by rw [State.vals, h]; rfl
theorem vals_two (h : i.srcs = [x, y]) (t : Thread) : s.vals t i = (s.opnd t x, s.opnd t y, 0) := by rw [State.vals, h]; rfl
theorem vals_three (h : i.srcs = [x, y, z]) (t : Thread) : s.vals t i = (s.opnd t x, s.opnd t y, s.opnd t z) := by rw [State.vals, h]; rfl

/-! ## Results of a lane computation -/

theorem laneResult_alu {f : AluFn} {F : Thread → DWord × Flags} (hexec : exec i s = aluExec i f g d w s)
    (hF : ∀ t, f t.lane (s.vals t i).1 (s.vals t i).2.1 (s.vals t i).2.2 = F t) : s.laneResult i g d w F := fun hi hr => by
  rw [hexec, aluExec_clean f d w hi hr]
  simp only [hF]

/-- A computation on codes, of the codes that its operands hold. -/
theorem floatResult_codes {f : Nat → Nat → Nat → Nat → Nat × Flags} {F : Thread → Nat × Flags} (hexec : exec i s = aluExec i (aluF f) g d w s)
    (hF : ∀ t, f t.lane (s.vals t i).1.toNat (s.vals t i).2.1.toNat (s.vals t i).2.2.toNat = F t) : s.floatResult i g d w F :=
  laneResult_alu hexec fun t => by rw [← hF t]; rfl

theorem floatResult_one {f : Nat → Nat → Nat × Flags} (hexec : exec i s = aluExec i (aluF fun l x _ _ => f l x) g d false s) (hsrcs : i.srcs = [.s a]) :
    s.floatResult i g d false fun t => f t.lane (s.src t a).toNat :=
  floatResult_codes hexec fun t => by rw [vals_one hsrcs, opnd_src, toNat_setWidth64]

theorem floatResult_two {f : Nat → Nat → Nat × Flags} (hexec : exec i s = aluExec i (aluF fun _ x y _ => f x y) g d false s)
    (hsrcs : i.srcs = [.s a, .s b]) : s.floatResult i g d false fun t => f (s.src t a).toNat (s.src t b).toNat :=
  floatResult_codes hexec fun t => by rw [vals_two hsrcs, opnd_src, opnd_src, toNat_setWidth64, toNat_setWidth64]

theorem floatResult_acc {f : Nat → Nat → Nat → Nat × Flags} (hexec : exec i s = aluExec i (aluF fun _ x y z => f x y z) g d false s)
    (hsrcs : i.srcs = [.s a, .s b, .ds d]) : s.floatResult i g d false fun t => f (s.src t a).toNat (s.src t b).toNat (t.old d).toNat :=
  floatResult_codes hexec fun t => by rw [vals_three hsrcs, opnd_src, opnd_src, opnd_old, toNat_setWidth64, toNat_setWidth64, toNat_setWidth64]

/-- Packed pairs of a computation that rounds to nearest even, whatever its dither threshold. -/
theorem floatResult_pair {f : Nat → Nat → Nat → Nat × Flags} (hrn : ∀ t x y, f t x y = f 0 x y)
    (hexec : exec i s = aluExec i (aluF (packed fun t x y _ => f t x y)) g d false s) (hsrcs : i.srcs = [.s a, .s b]) :
    s.floatResult i g d false fun t => onHalves (fun x y _ => f 0 x y) (fun x y _ => f 0 x y) (s.src t a).toNat (s.src t b).toNat 0 :=
  floatResult_codes hexec fun t => by
    have unused : (0 : DWord).toNat < 2 ^ 32 := by decide
    rw [vals_two hsrcs, opnd_src, opnd_src, toNat_setWidth64, toNat_setWidth64, packed_eq _ _ (s.src t a).isLt (s.src t b).isLt unused]
    simp only [hrn (dithT _ _)]
    rfl

theorem floatResult_pairAcc {f : Nat → Nat → Nat → Nat → Nat × Flags} (hrn : ∀ t x y z, f t x y z = f 0 x y z)
    (hexec : exec i s = aluExec i (aluF (packed f)) g d false s) (hsrcs : i.srcs = [.s a, .s b, .ds d]) :
    s.floatResult i g d false fun t => onHalves (f 0) (f 0) (s.src t a).toNat (s.src t b).toNat (t.old d).toNat :=
  floatResult_codes hexec fun t => by
    have same : ∀ k, f k = f 0 := fun k => funext fun x => funext fun y => funext fun z => hrn k x y z
    rw [vals_three hsrcs, opnd_src, opnd_src, opnd_old, toNat_setWidth64, toNat_setWidth64, toNat_setWidth64,
      packed_eq _ _ (s.src t a).isLt (s.src t b).isLt (t.old d).isLt, same (dithT t.lane 0), same (dithT (t.lane + 32) 0)]

/-- Pairs of registers. -/
theorem floatResult_wide {f : Nat → Nat → Nat × Flags} (hexec : exec i s = aluExec i (aluF fun _ x y _ => f x y) g d true s)
    (hsrcs : i.srcs = [.s2 a, .s2 b]) : s.floatResult i g d true fun t => f (s.src2 t a).toNat (s.src2 t b).toNat :=
  floatResult_codes hexec fun t => by rw [vals_two hsrcs]; rfl

theorem floatResult_wideAcc {f : Nat → Nat → Nat → Nat × Flags} (hexec : exec i s = aluExec i (aluF fun _ x y z => f x y z) g d true s)
    (hsrcs : i.srcs = [.s2 a, .s2 b, .ds2 d]) : s.floatResult i g d true fun t => f (s.src2 t a).toNat (s.src2 t b).toNat (t.old2 d).toNat :=
  floatResult_codes hexec fun t => by rw [vals_three hsrcs, opnd_old2]; rfl
end

end Sys2Proof.Machine
end

section
/-! O3, FloatResults: the operations with types of their own, dot products, and the statement. -/

namespace Sys2Proof.Machine

/-! ## Dot products of bytes (R205) -/

theorem sbyte_eq (a : Word) (k : Nat) : sbyte a k = BitVec.ofInt 32 (signedOf 8 (a.toNat / 2 ^ (8 * k))) := by
  have low : ((a >>> (8 * k)).setWidth 8).toNat = a.toNat / 2 ^ (8 * k) % 2 ^ 8 := by
    rw [BitVec.toNat_setWidth, BitVec.toNat_ushiftRight, Nat.shiftRight_eq_div_pow]
  rw [sbyte, BitVec.signExtend, BitVec.toInt_eq_toNat_cond, low, signedOf]
  congr 1
  split <;> split <;> omega

theorem fnIdot4_eq (l : Nat) (x y z : Word) : fnIdot4 l (x.setWidth 64) (y.setWidth 64) (z.setWidth 64) =
    ((z + BitVec.ofInt 32 (((List.range 4).map fun k =>
      signedOf 8 (x.toNat / 2 ^ (8 * k)) * signedOf 8 (y.toNat / 2 ^ (8 * k))).sum)).setWidth 64, 0) := by
  have sum4 : ∀ p : Nat → Int, ((List.range 4).map p).sum = p 0 + (p 1 + (p 2 + p 3)) := fun p => by simp [List.range_succ]
  simp only [fnIdot4, alu32, lo32_setWidth, sbyte_eq, sum4, BitVec.ofInt_add, BitVec.ofInt_mul, BitVec.add_assoc]

/-! ## Operations whose types their fields name -/

/-- An instruction that may issue is well-formed. -/
theorem wf_of_issueCause {s : State} {i : Instr} (h : s.issueCause i = none) : i.wf = true := by
  by_contra hwf
  rw [Bool.not_eq_true] at hwf
  simp [State.issueCause, hwf] at h

theorem extraOk_of_issueCause {s : State} {i : Instr} (h : s.issueCause i = none) : i.extraOk = true := by
  have := wf_of_issueCause h
  simp only [Instr.wf, Bool.and_eq_true] at this
  exact this.1.2

@[simp] theorem Opnd.isDst_sw (w : Bool) (a : Src) : (Opnd.sw w a).isDst = false := by cases w <;> rfl
@[simp] theorem Opnd.isDst_dw (w : Bool) (d : Dst) : (Opnd.dw w d).isDst = true := by cases w <;> rfl

section
variable {s : State} {g : Pred} {d : Dst} {a b e : Src}

/-- What a source of one or the other width holds, as a number. -/
def State.code (s : State) (w : Bool) (t : Thread) (a : Src) : Nat := if w then (s.src2 t a).toNat else (s.src t a).toNat

/-- FOP's operands: a square root has one and a fused multiply-add three (R199). -/
theorem vals_fop (pk : Bool) (fn : FopFn) (ty : Ty) (md : Rnd) (t : Thread) :
    ((s.vals t (.fop g d a b pk fn ty md e)).1.toNat, (s.vals t (.fop g d a b pk fn ty md e)).2.1.toNat,
      (s.vals t (.fop g d a b pk fn ty md e)).2.2.toNat) =
    (s.code ty.wide t a, if fn = .sqrt then 0 else s.code ty.wide t b, if fn = .fma ∨ fn = .fms then s.code ty.wide t e else 0) := by
  have one : ∀ i : Instr, i.srcs = [.sw ty.wide a] → ((s.vals t i).1.toNat, (s.vals t i).2.1.toNat, (s.vals t i).2.2.toNat) =
      (s.code ty.wide t a, 0, 0) := fun i h => by rw [vals_one h, toNat_opnd_sw]; rfl
  have two : ∀ i : Instr, i.srcs = [.sw ty.wide a, .sw ty.wide b] → ((s.vals t i).1.toNat, (s.vals t i).2.1.toNat, (s.vals t i).2.2.toNat) =
      (s.code ty.wide t a, s.code ty.wide t b, 0) := fun i h => by rw [vals_two h, toNat_opnd_sw, toNat_opnd_sw]; rfl
  have three : ∀ i : Instr, i.srcs = [.sw ty.wide a, .sw ty.wide b, .sw ty.wide e] →
      ((s.vals t i).1.toNat, (s.vals t i).2.1.toNat, (s.vals t i).2.2.toNat) =
      (s.code ty.wide t a, s.code ty.wide t b, s.code ty.wide t e) := fun i h => by
    rw [vals_three h, toNat_opnd_sw, toNat_opnd_sw, toNat_opnd_sw]; rfl
  cases fn with
  | sqrt => exact one _ (by simp [Instr.srcs, Instr.operands])
  | fma | fms => exact three _ (by simp [Instr.srcs, Instr.operands])
  | add | sub | mul | div | min | max => exact two _ (by simp [Instr.srcs, Instr.operands])

/-- FOP on one element, at any type. -/
theorem fop_result (fn : FopFn) (ty : Ty) (md : Rnd) :
    s.floatResult (.fop g d a b false fn ty md e) g d ty.wide fun t => fopOne fn ty md (dithT t.lane 0) (s.code ty.wide t a)
      (if fn = .sqrt then 0 else s.code ty.wide t b) (if fn = .fma ∨ fn = .fms then s.code ty.wide t e else 0) :=
  floatResult_codes rfl fun t => by
    obtain ⟨ha, hb, hc⟩ : _ ∧ _ ∧ _ := by simpa only [Prod.mk.injEq] using vals_fop (s := s) (g := g) (d := d) (a := a) (b := b) (e := e) false fn ty md t
    rw [ha, hb, hc]; rfl

/-- FOP at a type that it may have, other than f64, gives one word. -/
theorem fop_narrow (fn : FopFn) {ty : Ty} (md : Rnd) (hty : ty ≠ .f64) :
    s.floatResult (.fop g d a b false fn ty md e) g d false fun t => fopOne fn ty md (dithT t.lane 0) (s.src t a).toNat
      (if fn = .sqrt then 0 else (s.src t b).toNat) (if fn = .fma ∨ fn = .fms then (s.src t e).toNat else 0) := fun hi => by
  have wide : ty.wide = false := by
    have := extraOk_of_issueCause hi.1
    simp only [Instr.extraOk, Bool.and_eq_true, Bool.or_eq_true, beq_iff_eq] at this
    obtain ⟨⟨⟨((rfl | rfl) | rfl) | rfl, -⟩, -⟩, -⟩ := this
    · rfl
    · rfl
    · rfl
    · exact absurd rfl hty
  have result := fop_result (s := s) (g := g) (d := d) (a := a) (b := b) (e := e) fn ty md
  rw [wide] at result
  exact result hi

/-- FOP on a packed pair (R67, R199). -/
theorem fop_packed (fn : FopFn) {ty : Ty} (md : Rnd) (hty : ty = .f16 ∨ ty = .bf16) :
    s.floatResult (.fop g d a b true fn ty md e) g d false fun t =>
      onHalves (fopOne fn ty md (dithT t.lane 0)) (fopOne fn ty md (dithT (t.lane + 32) 0)) (s.src t a).toNat
        (if fn = .sqrt then 0 else (s.src t b).toNat) (if fn = .fma ∨ fn = .fms then (s.src t e).toNat else 0) := by
  have wide : ty.wide = false := by rcases hty with rfl | rfl <;> rfl
  have result : s.floatResult (.fop g d a b true fn ty md e) g d ty.wide fun t => packed (fopOne fn ty md) t.lane (s.code ty.wide t a)
      (if fn = .sqrt then 0 else s.code ty.wide t b) (if fn = .fma ∨ fn = .fms then s.code ty.wide t e else 0) :=
    floatResult_codes rfl fun t => by
      obtain ⟨ha, hb, hc⟩ : _ ∧ _ ∧ _ := by
        simpa only [Prod.mk.injEq] using vals_fop (s := s) (g := g) (d := d) (a := a) (b := b) (e := e) true fn ty md t
      rw [ha, hb, hc]; rfl
  rw [wide] at result
  simp only [State.code, Bool.false_eq_true, if_false] at result
  have second : ∀ t, (if fn = .sqrt then 0 else (s.src t b).toNat) < 2 ^ 32 := fun t => by
    split
    · decide
    · exact (s.src t b).isLt
  have third : ∀ t, (if fn = .fma ∨ fn = .fms then (s.src t e).toNat else 0) < 2 ^ 32 := fun t => by
    split
    · exact (s.src t e).isLt
    · decide
  simpa only [fun t => packed_eq (fopOne fn ty md) t.lane (s.src t a).isLt (second t) (third t)] using result

/-- IDOT4 (R205). -/
theorem idot4_result : s.wordResult (.idot4 g d a b) g d fun t => t.old d + BitVec.ofInt 32 (((List.range 4).map fun k =>
    signedOf 8 ((s.src t a).toNat / 2 ^ (8 * k)) * signedOf 8 ((s.src t b).toNat / 2 ^ (8 * k))).sum) :=
  laneResult_alu rfl fun t => by rw [vals_three (x := .s a) (y := .s b) (z := .ds d) rfl, opnd_src, opnd_src, opnd_old, fnIdot4_eq]

/-- FSF takes the whole word (R201). -/
theorem fsf_result (fn : SfFn) : s.floatResult (.fsf g d a fn) g d false fun t => fSf fn (s.src t a).toNat :=
  floatResult_codes rfl fun t => by rw [vals_one (x := .s a) rfl, opnd_src, toNat_setWidth64, Nat.mod_eq_of_lt (s.src t a).isLt]

/-- FRND at each type (R200). -/
theorem frnd_result (ty : FrndTy) (x : Bool) (md : Rnd) : s.floatResult (.frnd g d a x ty md) g d (ty == .f64) fun t =>
    let r := fnFrnd x ty md t.lane (if ty = .f64 then s.src2 t a else (s.src t a).setWidth 64) 0 0
    (r.1.toNat, r.2) := by
  refine laneResult_alu rfl fun t => ?_
  rw [BitVec.ofNat_toNat, BitVec.setWidth_eq]
  cases ty with
  | f64 => rfl
  | f32 | h2 | b2 => rw [vals_one (x := .s a) rfl, opnd_src]; rfl

/-- CONV between any two types (R202). -/
theorem conv_result (ts tt : Ty) (md : Rnd) : s.floatResult (.conv g d a ts tt md) g d tt.wide fun t =>
    let r := fConv ts tt md (dithT t.lane 0) (s.code ts.wide t a)
    (regForm tt r.1, r.2) :=
  floatResult_codes rfl fun t => by rw [vals_one (x := .sw ts.wide a) (by simp [Instr.srcs, Instr.operands]), toNat_opnd_sw]; rfl

/-- CONVX of one byte, or of a byte and the next (R203). -/
theorem convx_result (h : Bool) (k : BitVec 2) (ty : Ty) : s.floatResult (.convx g d a h k ty) g d false fun t =>
    let one := fun (tt : Ty) (j : Nat) => encodeF tt .rn 0 (decodeF ty ((s.src t a).toNat / 2 ^ (8 * j) % 256))
    if h then ((one .f16 k.toNat).1 + 2 ^ 16 * (one .f16 (k.toNat + 1)).1, (one .f16 k.toNat).2 ||| (one .f16 (k.toNat + 1)).2)
    else one .f32 k.toNat :=
  floatResult_codes rfl fun t => by rw [vals_one (x := .s a) rfl, opnd_src, toNat_setWidth64]; rfl

/-- FCLASS in both widths (R198). -/
theorem fclass_result (w : Bool) : s.floatResult (.fclass g d a w) g d false fun t => (classOf (if w then .f64 else .f32) (s.code w t a), 0) :=
  floatResult_codes rfl fun t => by rw [vals_one (x := .sw w a) (by simp [Instr.srcs, Instr.operands, Opnd.d]), toNat_opnd_sw]; rfl

end

/-- Settles O3: each instruction is a computation on the codes of its operands; the packed ones take their halves, and rounding to nearest even does
not look at the dither threshold. -/
theorem floatResults : Obligations.FloatResults := by
  unfold Obligations.FloatResults
  intro s g d a b e
  refine ⟨floatResult_two rfl rfl, floatResult_two rfl rfl, floatResult_two rfl rfl, floatResult_acc rfl rfl, floatResult_two rfl rfl,
    floatResult_two rfl rfl, floatResult_pair (fun t x y => finish_rn _ t _) rfl rfl, floatResult_pair (fun t x y => finish_rn _ t _) rfl rfl,
    floatResult_pairAcc (fun t x y z => finish_rn _ t _) rfl rfl, floatResult_pair (fun t x y => finish_rn _ t _) rfl rfl,
    floatResult_pair (fun t x y => finish_rn _ t _) rfl rfl, floatResult_pairAcc (fun t x y z => finish_rn _ t _) rfl rfl,
    floatResult_wide rfl rfl, floatResult_wide rfl rfl, floatResult_wideAcc rfl rfl, floatResult_acc rfl rfl, idot4_result, ?_, ?_, ?_, ?_, ?_, ?_, ?_, ?_⟩
  · exact fsf_result
  · exact fun fn ty md hty => fop_narrow fn md hty
  · exact fun fn md => fop_result fn .f64 md
  · exact fun fn ty md hty => fop_packed fn md hty
  · exact frnd_result
  · exact conv_result
  · exact convx_result
  · exact fclass_result

end Sys2Proof.Machine
end

section
/-! SUPPORT. Laws of a pass over lanes that notes something of each, of instructions whose words trap, and of trap entry. -/

namespace Sys2Proof.Machine

/-! ## An instruction in one lane -/

section
variable {s : State} {i : Instr} {g : Pred} {t : Thread}

theorem State.alone.issues (h : s.alone i g t) : s.issueCause i = none := by
  obtain ⟨⟨hi, -⟩, -, -⟩ := h
  exact hi

theorem State.alone.acts (h : s.alone i g t) : s.acting g = [t] := by
  obtain ⟨-, hact, -⟩ := h
  exact hact

theorem State.alone.found (h : s.alone i g t) : s.thr? t.uid = some t := by
  obtain ⟨-, -, ht⟩ := h
  exact ht
end

/-! ## A pass that changes each lane and notes something of it -/

/-- Changing a first thread and then the others changes them all. -/
theorem mapLanes_cons {f : Thread → Thread → Thread} (huid : ∀ t u, (f t u).uid = u.uid) {t : Thread} {ts : List Thread}
    (hn : ((t :: ts).map (·.uid)).Nodup) (xs : List Thread) :
    mapLanes ts f (xs.map fun u => if u.uid = t.uid then f t u else u) = mapLanes (t :: ts) f xs := by
  have all := foldl_updThr f (fun s t => s.updThr t.uid (f t)) State.reset huid (t :: ts) xs hn fun _ _ _ => rfl
  have rest := foldl_updThr f (fun s t => s.updThr t.uid (f t)) State.reset huid ts (xs.map fun u => if u.uid = t.uid then f t u else u)
    (List.nodup_cons.mp hn).2 fun _ _ _ => rfl
  rw [List.foldl_cons, updThr_withThreads] at all
  exact congrArg State.threads (rest.symm.trans all)

theorem find?_update_other {f : Thread → Thread} (huid : ∀ u, (f u).uid = u.uid) {m n : Nat} (hne : m ≠ n) (xs : List Thread) :
    (xs.map fun u => if u.uid = n then f u else u).find? (·.uid == m) = xs.find? (·.uid == m) := by
  have found := thr?_updThr (State.reset.withThreads xs) n m f huid
  change _ = Option.map _ (xs.find? (·.uid == m)) at found
  refine found.trans ?_
  cases hx : xs.find? (·.uid == m) with
  | none => rfl
  | some u =>
      have hu : u.uid = m := by simpa using List.find?_some hx
      rw [Option.map_some, if_neg (by omega)]

/-- A fold over lanes with names of their own, in which each changes its own thread and adds a note to a list. -/
theorem foldl_lanes {σ β : Type} (F : List Thread → List β → σ) (f : Thread → Thread → Thread) (note : Thread → β) (step : σ → Thread → σ)
    (huid : ∀ t u, (f t u).uid = u.uid) : ∀ (ts xs : List Thread) (ps : List β), (ts.map (·.uid)).Nodup →
      (∀ t ∈ ts, ∀ ys ps, ys.find? (·.uid == t.uid) = xs.find? (·.uid == t.uid) →
        step (F ys ps) t = F (ys.map fun u => if u.uid = t.uid then f t u else u) (ps ++ [note t])) →
      ts.foldl step (F xs ps) = F (mapLanes ts f xs) (ps ++ ts.map note)
  | [], xs, ps, _, _ => by simp [mapLanes]
  | t :: ts, xs, ps, hn, hstep => by
      have others : ∀ x ∈ ts, x.uid ≠ t.uid := fun x hx h => (List.nodup_cons.mp hn).1 (List.mem_map.mpr ⟨x, hx, h⟩)
      rw [List.foldl_cons, hstep t List.mem_cons_self xs ps rfl, foldl_lanes F f note step huid ts _ _ (List.nodup_cons.mp hn).2 fun x hx ys ps hys =>
        hstep x (List.mem_cons_of_mem _ hx) ys ps (hys.trans (find?_update_other (huid t) (others x hx) xs)),
        mapLanes_cons huid hn, List.map_cons, List.append_assoc, List.singleton_append]

/-! ## Instructions whose words trap (R46, R171) -/

/-- Every instruction of threads looks at the causes of its words first. -/
theorem exec_issued {i : Instr} (h : Instr.forThreads i = true) : ∃ body : State → State, ∀ s, exec i s = issued i s body := by
  cases i
  case nop | iadd | isub | imul | imulh | nmulh | ima | imin | imax | nmin | nmax | isad | iadd64 | isub64 | imul64 | imaw | and | or | xor |
    andn | shl | shr | sar | sel | tern | fsh | pcnt | clz | brev | bfe | bfi | bperm | faddF32 | fsubF32 | fmulF32 | fmaF32 | fminF32 | fmaxF32 |
    faddH2 | fmulH2 | fmaH2 | faddB2 | fmulB2 | fmaB2 | icmp | fcmp | plop | fclass | dadd | dmul | dfma | dcmp | fop | frnd | fsf | conv | convb |
    convx | scaleb | idot4 | fdot2 | nmaw | mov | movi | movhi | movk | srd | swz | vote | lred | lscan | trsp | part | rep | derx | dery | qput |
    qget | jmp | jmpx | call | ret | exit | spawn | cont | reorder | yield | bar | gbar | wait | trap | rett | brk | time | ld | st | lsp | ssp |
    ldlod | sample | atm | atms | rdm | vbmin | pref | fence | monwait | txbegin | txend | txctlAbort | txctlTest | qbind | cplwait | cpltest |
    hoist | hoistClose | binFlush | binCount | rbox | rtri | rstkPush | rstkPop | rstkDepth | rstkClear | resv | rfree | accrd | seq | sysrd |
    syswr =>
    exact ⟨_, fun _ => rfl⟩
  all_goals exact absurd h Bool.false_ne_true

/-- The machine in which lanes have changed and some have trapped at this chain. -/
def State.withTrapped (s : State) (xs : List Thread) (ps : List (Nat × Nat)) : State :=
  { s.withThreads xs with iss := { s.iss with trapped := s.iss.trapped ++ ps } }

/-- Every lane of the PC group enters its handler. -/
theorem trapAll_mayTrap {s : State} {entry : DWord} (hs : s.apart) (h : ∀ t ∈ s.iss.lanes, s.thr? t.uid = some t ∧ s.mayTrap t entry) (c : Nat) :
    s.trapAll c = { s.inThreads s.iss.lanes fun _ u => u.trapped entry s.iss.pc c s.iss.slot 0 0 with
      iss := { s.iss with trapped := s.iss.trapped ++ s.iss.lanes.map fun t => (t.uid, s.iss.slot) } } := by
  have start : s = s.withTrapped s.threads [] := by simp [State.withTrapped, State.withThreads]
  have pass := foldl_lanes s.withTrapped (fun _ u => u.trapped entry s.iss.pc c s.iss.slot 0 0) (fun t => (t.uid, s.iss.slot))
    (fun s t => s.trapHere t.uid c 0 0) (fun _ _ => rfl) s.iss.lanes s.threads [] hs fun t ht ys ps hys => by
      obtain ⟨hthr, hmay⟩ := h t ht
      have found : (s.withTrapped ys ps).thr? t.uid = some t := hys.trans hthr
      rw [trapHere_mayTrap (s := s.withTrapped ys ps) found hmay]
      simp only [State.trapsHere, State.withTrapped, State.withThreads, State.updThr, List.append_assoc]
  rw [← start] at pass
  exact pass

/-- An instruction of threads whose words trap does nothing else, whatever its guard. -/
theorem exec_words_trap {s : State} {i : Instr} {c : Nat} (hi : Instr.forThreads i = true) (hc : s.issueCause i = some c) :
    exec i s = .next (s.trapAll c) := by
  obtain ⟨body, hbody⟩ := exec_issued hi
  rw [hbody, issued, hc]

/-! ## Trap entry (R221) -/

section
variable {s : State} {t : Thread} {entry : DWord}

/-- A lane that may trap enters its handler. -/
theorem takeTrap_mayTrap (ht : s.thr? t.uid = some t) (h : s.mayTrap t entry) (cause oslot code : Nat) (xaddr resume : DWord) :
    s.takeTrap t.uid cause oslot code xaddr resume = s.updThr t.uid (·.trapped entry resume cause oslot code xaddr) := by
  obtain ⟨hinh, hentry, htx⟩ := h
  have revocable : (t.tx.isSome && !t.st.irrev) = false := by
    cases hs : t.tx.isSome
    · rfl
    · simp [htx hs]
  simp only [State.takeTrap, ht, revocable, hinh, hentry, Bool.false_eq_true, if_false]
  rfl

/-- A trap of a thread that is in its handler already stops the context. -/
theorem takeTrap_inHandler (ht : s.thr? t.uid = some t) (htx : t.tx = none) (hinh : t.trap.inh = true) (cause oslot code : Nat) (resume : DWord) :
    s.takeTrap t.uid cause oslot code 0 resume = s.fatal (s.asidOf t.wg) 2 := by
  simp only [State.takeTrap, ht, htx, hinh, Option.isSome_none, Bool.false_and, Bool.false_eq_true, if_false, if_true]
  rfl

/-- So does a trap of a launch without a trap entry. -/
theorem takeTrap_noEntry (ht : s.thr? t.uid = some t) (htx : t.tx = none) (hinh : t.trap.inh = false)
    (hentry : (s.launchOfWg t.wg).bind (·.trap) = none) (cause oslot code : Nat) (resume : DWord) :
    s.takeTrap t.uid cause oslot code 0 resume = s.fatal (s.asidOf t.wg) 3 := by
  simp only [State.takeTrap, ht, htx, hinh, hentry, Option.isSome_none, Bool.false_and, Bool.false_eq_true, if_false]
  rfl
end

end Sys2Proof.Machine
end

section
/-! O10, TrapResults: TRAP, BREAK and RETT in one lane, and the statement. -/

namespace Sys2Proof.Machine

section
variable {s : State} {g : Pred} {t : Thread} {imm : BitVec 14} {entry : DWord}

/-- TRAP traps so as to go on at the chain that follows (R222, R226). -/
theorem trap_one (h : s.alone (.trap g imm) g t) : exec (.trap g imm) s = .next (s.takeTrap t.uid 20 s.iss.slot imm.toNat 0 s.iss.next) := by
  change execTrap g imm s = _
  rw [execTrap, issued_body h.issues, eachLane_one h.acts]
  rfl

/-- BREAK does so too, or halts the thread where it is routed to the debugger (R348). -/
theorem brk_one (h : s.alone (.brk g imm) g t) : exec (.brk g imm) s =
    .next (if (s.rreg (s.issAsid / 64) (0x500 + s.issAsid % 64)).getLsbD 0 then s.updThr t.uid fun u => { u with park := some .debug }
      else s.takeTrap t.uid 21 s.iss.slot imm.toNat 0 s.iss.next) := by
  change execBrk g imm s = _
  rw [execBrk, issued_body h.issues, eachLane_one h.acts, State.rregN, bitOf_toNat]
  rfl

theorem rett_one (h : s.alone (.rett g) g t) : exec (.rett g) s = .next (s.rett t) := by
  change execRett g s = _
  rw [execRett, issued_body h.issues, eachLane_one h.acts]

/-- RETT with nothing to replay goes back to the resume point (R225). -/
theorem rett_emptyLog (hinh : t.trap.inh = true) (hpc : t.trap.xpc.toNat % 12 = 0) (hslot : t.trap.rslot < 3) (hlog : t.log = [])
    (hops : ∀ o ∈ s.ops, ∀ l ∈ o.lanes, l.uid ≠ t.uid) : s.rett t = s.updThr t.uid fun u => { u.leaveTrap with log := [] } := by
  have hslot' : t.trap.rslot ≠ 3 := by omega
  simp only [State.rett, hinh, hpc, hslot', drained_of_ops hops, hlog, State.replay, Bool.not_true, Bool.false_eq_true, if_false, ne_eq,
    not_true_eq_false, decide_false, Bool.or_self]

/-- Outside a handler RETT is illegal. -/
theorem rett_outside (hinh : t.trap.inh = false) : s.rett t = s.trapHere t.uid 1 0 0 := by
  simp only [State.rett, hinh, Bool.not_false, if_true]
end

/-- Settles O10: TRAP, BREAK and RETT in their one lane by what trap entry does there, and words that trap by the pass that traps every lane. -/
theorem trapResults : Obligations.TrapResults := by
  unfold Obligations.TrapResults
  refine ⟨?breaks, ?stops, ?returns, ?words⟩
  case breaks =>
    refine fun s g t entry imm => ⟨?_, ?_, ?_, rfl, rfl⟩
    · exact fun h hm => by rw [trap_one h, takeTrap_mayTrap h.found hm]
    · exact fun h hm hr => by rw [brk_one h, hr, if_neg Bool.false_ne_true, takeTrap_mayTrap h.found hm]
    · exact fun h hr => by rw [brk_one h, hr, if_pos rfl]
  case stops =>
    refine fun s g t imm h htx => ⟨fun hinh => ?_, fun hinh hentry => ?_⟩
    · rw [trap_one h, takeTrap_inHandler h.found htx hinh]
    · rw [trap_one h, takeTrap_noEntry h.found htx hinh hentry]
  case returns =>
    refine fun s g t entry h => ⟨fun hinh hpc hslot hlog hops => ?_, fun hm => ?_⟩
    · rw [rett_one h, rett_emptyLog hinh hpc hslot hlog hops]; rfl
    · rw [rett_one h, rett_outside hm.1, trapHere_mayTrap h.found hm]
  case words => exact fun s i c entry hi hc hs h => by rw [exec_words_trap hi hc, trapAll_mayTrap hs h]

end Sys2Proof.Machine
end

section
/-! SUPPORT. Laws of the issue of an operation: lanes that all join, one lane in a revocable transaction, and the checks of a global access. -/

namespace Sys2Proof.Machine

/-! ## Changing the threads of a list -/

/-- One pass over a list of lanes is the state in which those threads have changed. -/
theorem over_updThr {ts : List Thread} (hn : (ts.map (·.uid)).Nodup) (s : State) {f : Thread → Thread → Thread} (huid : ∀ t u, (f t u).uid = u.uid) :
    (s.over ts fun s t => s.updThr t.uid (f t)) = s.inThreads ts f :=
  foldl_updThr f (fun s t => s.updThr t.uid (f t)) s huid ts s.threads hn fun _ _ _ => rfl

theorem inThreads_one (s : State) (t : Thread) {f : Thread → Thread → Thread} (huid : ∀ t u, (f t u).uid = u.uid) :
    s.inThreads [t] f = s.updThr t.uid (f t) := (over_updThr (ts := [t]) (by simp) s huid).symm

/-- The thread of a name in a sublist of lanes with names of their own. -/
theorem find?_filter_uid {ts : List Thread} (hn : (ts.map (·.uid)).Nodup) (p : Thread → Bool) (n : Nat) :
    (ts.filter p).find? (·.uid == n) = (ts.find? (·.uid == n)).filter p := by
  induction ts with
  | nil => rfl
  | cons t ts ih =>
      obtain ⟨hnew, hrest⟩ := List.nodup_cons.mp hn
      by_cases hu : t.uid = n
      · have gone : (ts.filter p).find? (·.uid == n) = none := List.find?_eq_none.mpr fun x hx hxn =>
          hnew (List.mem_map.mpr ⟨x, List.mem_of_mem_filter hx, (by simpa using hxn : x.uid = n).trans hu.symm⟩)
        cases hp : p t <;> simp [hp, hu, gone, Option.filter]
      · have hne : (t.uid == n) = false := by simpa using hu
        cases hp : p t <;> simp [hp, hne, ih hrest]

/-- Changing some lanes of a list one way and then the others another way. -/
theorem inThreads_filter {ts : List Thread} (hn : (ts.map (·.uid)).Nodup) (s : State) (p : Thread → Bool) {f h : Thread → Thread → Thread}
    (huid : ∀ t u, (f t u).uid = u.uid) :
    (s.inThreads (ts.filter p) f).inThreads (ts.filter (!p ·)) h = s.inThreads ts fun t u => if p t then f t u else h t u := by
  simp only [State.inThreads, State.withThreads, List.map_map]
  congr 1
  refine List.map_congr_left fun u _ => ?_
  simp only [Function.comp, find?_filter_uid hn]
  cases ht : ts.find? (·.uid == u.uid) with
  | none => simp [Option.filter, ht]
  | some t => cases hp : p t <;> simp [Option.filter, hp, huid, ht]

/-! ## Launch (R219) -/

/-- The operation that lanes are about to issue, as their accesses see it. -/
def State.opOf (s : State) (i : Instr) (cls : OpClass) (ls : List LaneAcc) : Op := ⟨0, i, s.iss.core, s.issWg, s.issAsid, cls, s.iss.slot, [], ls⟩

/-- It goes into flight with the lanes that have joined, whatever has become of the threads. -/
theorem launchOp_opOf (s : State) (i : Instr) (cls : OpClass) (done : Nat → Instr) (plan ls : List LaneAcc) :
    s.launchOp (s.opOf i cls plan) done ls = s.withOp i cls done ls := by
  cases ls <;> rfl

/-! ## One lane's part in an issue -/

/-- The accesses that the lanes of an instruction are about to make. -/
def issuePlan (s : State) (ts : List Thread) (os : List Opnd) (mk : State → Thread → LaneDo) : List LaneAcc :=
  ts.filterMap fun t => match mk s t with | .go l => if os.any t.opPois then none else some l | _ => none

/-- One lane at issue: it traps, aborts, waits, or joins the accesses gathered so far. -/
def issueLane (os : List Opnd) (mk : State → Thread → LaneDo) (o : Op) (acc : State × List LaneAcc) (t : Thread) : State × List LaneAcc :=
  match !(((os.head?).map t.opPois).getD false), os.any t.opPois, mk acc.1 t with
  | true, _, .trap 1 a => (acc.1.trapHere t.uid 1 0 a, acc.2)
  | _, true, _ => (acc.1.trapPoison t false os, acc.2)
  | _, _, .trap c a => (acc.1.trapHere t.uid c 0 a, acc.2)
  | _, _, .txBad => (acc.1.illegalInTx t, acc.2)
  | _, _, .go l => ((acc.1.joinLane o t l).2, acc.2 ++ (acc.1.joinLane o t l).1.toList)

theorem memIssue_eq (s : State) (ts : List Thread) (i : Instr) (cls : OpClass) (os : List Opnd) (done : Nat → Instr) (mk : State → Thread → LaneDo) :
    s.memIssue ts i cls os done mk = (ts.foldl (issueLane os mk (s.opOf i cls (issuePlan s ts os mk))) (s, [])).1.launchOp
      (s.opOf i cls (issuePlan s ts os mk)) done (ts.foldl (issueLane os mk (s.opOf i cls (issuePlan s ts os mk))) (s, [])).2 := rfl

/-- A lane without poison that makes a good access joins, if it can. -/
theorem issueLane_go {os : List Opnd} {mk : State → Thread → LaneDo} {o : Op} {s : State} {ls : List LaneAcc} {t : Thread} {l : LaneAcc}
    (hpois : os.any t.opPois = false) (hmk : mk s t = .go l) :
    issueLane os mk o (s, ls) t = ((s.joinLane o t l).2, ls ++ (s.joinLane o t l).1.toList) := by
  have clean : ((os.head?).map t.opPois).getD false = false := by
    cases os with
    | nil => rfl
    | cons o os =>
        simp only [List.any_cons, Bool.or_eq_false_iff] at hpois
        exact hpois.1
  simp only [issueLane, clean, hpois, hmk, Bool.not_false]

/-! ## Lanes that all join -/

@[simp] theorem raiseCnt_uid (t : Thread) (cls : OpClass) : (t.raiseCnt cls).uid = t.uid := by cases cls <;> rfl

/-- A lane with room in its counter joins: in no transaction, or in an irrevocable one (R53, R116). -/
theorem joinLane_plain {s : State} {o : Op} {t : Thread} {l : LaneAcc} (hroom : t.cnt o.cls < 63) (hplain : l.tx = true → t.st.irrev = true) :
    s.joinLane o t l = (some l, s.updThr t.uid (·.raiseCnt o.cls)) := by
  have full : ¬(63 ≤ t.cnt o.cls) := by omega
  have outside : (!(l.tx && !t.st.irrev)) = true := by
    cases hl : l.tx
    · rfl
    · simp [hplain hl]
  simp only [State.joinLane, ge_iff_le, full, if_false, outside, if_true]

/-- Lanes that are ready, make good accesses and are in no revocable transaction issue an operation together. -/
theorem memIssue_joins {s : State} {ts : List Thread} {i : Instr} {cls : OpClass} {os : List Opnd} {done : Nat → Instr} {mk : State → Thread → LaneDo}
    {acc : Thread → LaneAcc} (hn : (ts.map (·.uid)).Nodup) (hready : s.ready ts os cls)
    (hmk : ∀ t ∈ ts, ∀ xs, mk (s.withThreads xs) t = .go (acc t)) (hplain : ∀ t ∈ ts, (acc t).tx = true → t.st.irrev = true) :
    s.memIssue ts i cls os done mk = s.opIssues ts i cls done acc := by
  have pass : ts.foldl (issueLane os mk (s.opOf i cls (issuePlan s ts os mk))) (s, []) =
      (s.inThreads ts fun _ u => u.raiseCnt cls, ts.map acc) :=
    foldl_lanes (fun xs as => (s.withThreads xs, as)) (fun _ u => u.raiseCnt cls) acc _ (fun _ u => raiseCnt_uid u cls) ts s.threads [] hn
      fun t ht ys as _ => by
        obtain ⟨hpois, hroom⟩ := hready t ht
        rw [issueLane_go hpois (hmk t ht ys), joinLane_plain hroom (hplain t ht)]
        rfl
  rw [memIssue_eq, pass]
  exact launchOp_opOf (s.inThreads ts fun _ u => u.raiseCnt cls) i cls done _ (ts.map acc)

/-! ## One lane in a revocable transaction (R113, R248, R249) -/

section
variable {s : State} {t : Thread} {i : Instr} {cls : OpClass} {os : List Opnd} {done : Nat → Instr} {mk : State → Thread → LaneDo} {l : LaneAcc}

theorem memIssue_one (hpois : os.any t.opPois = false) (hmk : mk s t = .go l) : s.memIssue [t] i cls os done mk =
    (s.joinLane (s.opOf i cls [l]) t l).2.launchOp (s.opOf i cls [l]) done (s.joinLane (s.opOf i cls [l]) t l).1.toList := by
  have plan : issuePlan s [t] os mk = [l] := by
    simp only [issuePlan, List.filterMap_cons, List.filterMap_nil, hmk, hpois, Bool.false_eq_true, if_false]
  rw [memIssue_eq, plan, List.foldl_cons, List.foldl_nil, issueLane_go hpois hmk, List.nil_append]

/-- An access of a revocable transaction's thread that is not transactional aborts the transaction where performing it would (R127, R248). -/
theorem joinLane_other_aborts {o : Op} {c : Nat} (hroom : t.cnt o.cls < 63) (hl : l.tx = true) (hrev : t.st.irrev = false)
    (hkind : Instr.transactional o.instr = false) (habort : (s.doAccess o l).1 = .abort c) :
    s.joinLane o t l = (none, (s.abortTx t.uid c).leaves t.uid) := by
  have full : ¬(63 ≤ t.cnt o.cls) := by omega
  simp only [State.joinLane, ge_iff_le, full, if_false, hl, hrev, hkind, habort, Bool.not_false, Bool.and_self, Bool.not_true, Bool.false_eq_true, if_true]

/-- Else it joins. -/
theorem joinLane_other_joins {o : Op} (hroom : t.cnt o.cls < 63) (hl : l.tx = true) (hrev : t.st.irrev = false)
    (hkind : Instr.transactional o.instr = false) (hgoes : ∀ c, (s.doAccess o l).1 ≠ .abort c) :
    s.joinLane o t l = (some l, s.updThr t.uid (·.raiseCnt o.cls)) := by
  have full : ¬(63 ≤ t.cnt o.cls) := by omega
  cases hr : (s.doAccess o l).1 with
  | abort c => exact absurd hr (hgoes c)
  | done | fault =>
      simp only [State.joinLane, ge_iff_le, full, if_false, hl, hrev, hkind, hr, Bool.not_false, Bool.and_self, Bool.not_true, Bool.false_eq_true, if_true]

/-- A transactional access of a thread whose earlier accesses have performed takes place in the sets of the transaction at once (R249). -/
theorem joinLane_tx_done {o : Op} {outs : List (Dst × List Word)} {s1 : State} (hroom : t.cnt o.cls < 63) (hl : l.tx = true) (hrev : t.st.irrev = false)
    (hkind : Instr.transactional o.instr = true) (hbefore : s.globalBefore t.uid = false) (hdo : s.doTx o l = (.done outs, s1)) :
    s.joinLane o t l = (some { l with ready := some outs }, s1.updThr t.uid (·.raiseCnt o.cls)) := by
  have full : ¬(63 ≤ t.cnt o.cls) := by omega
  simp only [State.joinLane, ge_iff_le, full, if_false, hl, hrev, hkind, hbefore, hdo, Bool.not_false, Bool.and_self, Bool.not_true, Bool.false_eq_true]

/-- Or it aborts the transaction. -/
theorem joinLane_tx_aborts {o : Op} {c : Nat} {s1 : State} (hroom : t.cnt o.cls < 63) (hl : l.tx = true) (hrev : t.st.irrev = false)
    (hkind : Instr.transactional o.instr = true) (hbefore : s.globalBefore t.uid = false) (hdo : s.doTx o l = (.abort c, s1)) :
    s.joinLane o t l = (none, (s1.abortTx t.uid c).leaves t.uid) := by
  have full : ¬(63 ≤ t.cnt o.cls) := by omega
  simp only [State.joinLane, ge_iff_le, full, if_false, hl, hrev, hkind, hbefore, hdo, Bool.not_false, Bool.and_self, Bool.not_true, Bool.false_eq_true]

/-- A thread of no operation in flight has no access that waits. -/
theorem globalBefore_of_ops {n : Nat} (h : ∀ o ∈ s.ops, ∀ l ∈ o.lanes, l.uid ≠ n) : s.globalBefore n = false := by
  simp only [State.globalBefore, List.any_eq_false, Bool.and_eq_true, not_and, Bool.not_eq_true]
  exact fun o ho _ l hl => by simp [h o ho l hl]

/-- The open transaction of an access that was issued in it. -/
theorem txOf_some {x : Tx} (hl : l.tx = true) (ht : s.thr? l.uid = some t) (hx : t.tx = some x) : s.txOf l = some (t, x) := by
  rw [State.txOf, hl, if_pos rfl, ht, Option.bind_some, hx]; rfl

/-- What a transactional load of a revocable transaction does (R248). -/
theorem doLd_tx {o : Op} {x : Tx} (hl : l.tx = true) (ht : s.thr? l.uid = some t) (hx : t.tx = some x) (hrev : t.st.irrev = false) (d : Dst) (acq : Bool)
    (sc : Scope) (sz : Size) {s1 : State} :
    (∀ bs, s.txLoad t x o.core o.asid l.addr.toNat (Size.bytes sz) sc = (.ok bs, s1) →
      s.doLd o l d acq sc sz = (.done [(d, Size.load sz bs)], if acq then s1.acquire o.core o.asid sc else s1))
    ∧ ∀ c, s.txLoad t x o.core o.asid l.addr.toNat (Size.bytes sz) sc = (.error c, s1) → s.doLd o l d acq sc sz = (.abort c, s1) := by
  constructor <;> intro _ hload <;> simp only [State.doLd, txOf_some hl ht hx, hrev, hload, Bool.false_eq_true, if_false]

/-- What a transactional store of one lane does: no higher lane of the instruction writes its bytes (R237). -/
theorem doSt_tx {i : Instr} {cls : OpClass} {x : Tx} (hl : l.tx = true) (ht : s.thr? l.uid = some t) (hx : t.tx = some x) (hrev : t.st.irrev = false)
    (rel : Bool) (sc : Scope) (sz : Size) {r : Option TxAbort × State}
    (hr : s.txStore t x s.iss.core s.issAsid l.addr.toNat ((bytesOfWords l.data).take (Size.bytes sz)) (fun _ => true) = r) :
    (r.1 = none → s.doSt (s.opOf i cls [l]) l rel sc sz = (.done [], r.2))
    ∧ ∀ c, r.1 = some c → s.doSt (s.opOf i cls [l]) l rel sc sz = (.abort c, r.2) := by
  have alone : ∀ k, ([l].any fun y => y.tx && decide (y.lane > l.lane) && decide (y.addr.toNat ≤ l.addr.toNat + k)
      && decide (l.addr.toNat + k < y.addr.toNat + Size.bytes sz)) = false := fun k => by simp
  obtain ⟨c, s1⟩ := r
  constructor
  · rintro rfl
    simp only [State.doSt, txOf_some hl ht hx, txIrrev, hrev, State.opOf, alone, Bool.not_false, hr]
  · rintro c rfl
    simp only [State.doSt, txOf_some hl ht hx, txIrrev, hrev, State.opOf, alone, Bool.not_false, hr]

/-- An access that reaches the bunting aborts a revocable transaction, whatever it would do. -/
theorem offBunting_aborts {o : Op} {vas : List Nat} {va : Nat} (r : LaneRes × State) (hl : l.tx = true) (ht : s.thr? l.uid = some t)
    (htx : t.tx.isSome = true) (hrev : t.st.irrev = false) (hva : va ∈ vas) (hb : s.inBunting o.core o.asid va = true) :
    s.offBunting o l vas r = (.abort 5, s) := by
  obtain ⟨x, hx⟩ := Option.isSome_iff_exists.mp htx
  have reaches : (vas.any fun a => s.inBunting o.core o.asid a) = true := List.any_eq_true.mpr ⟨va, hva, hb⟩
  simp only [State.offBunting, txOf_some hl ht hx, txIrrev, hrev, reaches, Option.isSome_some, Bool.not_false, Bool.and_self, if_true]
end

/-! ## Global accesses at issue (R89, R113) -/

/-- An aligned address below 2^52 at a scope that the thread may use is a good access. -/
theorem globalChk_reach {n : Nat} {sc : Scope} {t : Thread} {l : LaneAcc} (h : t.mayReach n sc l.addr) :
    globalChk n sc t l = .go { l with tx := t.tx.isSome } := by
  obtain ⟨halign, hrange, hscope⟩ := h
  have narrow : (t.tx.isSome && decide (4 ≤ Scope.num sc)) = false := by
    cases htx : t.tx.isSome
    · rfl
    · simpa using hscope htx
  have below : ¬(2 ^ 52 ≤ l.addr.toNat) := by omega
  simp only [globalChk, halign, ge_iff_le, below, narrow, bne_self_eq_false, Bool.false_eq_true, if_false]

theorem realLanes_nodup {s : State} (h : s.apart) (g : Pred) : ((s.realLanes g).map (·.uid)).Nodup :=
  (List.Sublist.map _ List.filter_sublist).nodup (acting_nodup h g)

section
variable {s : State} {i : Instr} {g : Pred} {ts : List Thread} {t : Thread} {cls : OpClass} {os : List Opnd} {done : Nat → Instr}
  {mk : State → Thread → LaneDo}

/-- An instruction that issues an operation, in lanes that all join it. -/
theorem exec_joins {acc : Thread → LaneAcc} (hexec : exec i s = .next (s.memIssue ts i cls os done mk))
    (hn : (ts.map (·.uid)).Nodup) (hready : s.ready ts os cls) (hmk : ∀ t ∈ ts, ∀ xs, mk (s.withThreads xs) t = .go (acc t))
    (hplain : ∀ t ∈ ts, (acc t).tx = true → t.st.irrev = true) : exec i s = .next (s.opIssues ts i cls done acc) := by
  rw [hexec, memIssue_joins hn hready hmk hplain]

/-- In one lane: what becomes of the lane is what becomes of the operation. -/
theorem exec_one {l : LaneAcc} (hexec : exec i s = .next (s.memIssue ts i cls os done mk)) (hts : ts = [t])
    (hpois : os.any t.opPois = false) (hmk : mk s t = .go l) : exec i s =
      .next ((s.joinLane (s.opOf i cls [l]) t l).2.launchOp (s.opOf i cls [l]) done (s.joinLane (s.opOf i cls [l]) t l).1.toList) := by
  rw [hexec, hts, memIssue_one hpois hmk]

/-- An access in a revocable transaction that is not transactional: it aborts at issue, or the operation goes into flight. -/
theorem exec_otherInTx {l : LaneAcc} (hexec : exec i s = .next (s.memIssue ts i cls os done mk)) (hts : ts = [t])
    (hkind : Instr.transactional i = false) (hmk : mk s t = .go l) (hl : l.tx = true) (hrev : t.st.irrev = false) (hpois : os.any t.opPois = false)
    (hroom : t.cnt cls < 63) :
    (∀ c, (s.doAccess (s.opOf i cls [l]) l).1 = .abort c → exec i s = .next ((s.abortTx t.uid c).leaves t.uid))
    ∧ ((∀ c, (s.doAccess (s.opOf i cls [l]) l).1 ≠ .abort c) → exec i s = .next (s.opIssues [t] i cls done fun _ => l)) := by
  have lane := exec_one hexec hts hpois hmk
  refine ⟨fun c habort => ?_, fun hgoes => ?_⟩
  · rw [lane, joinLane_other_aborts (o := s.opOf i cls [l]) hroom hl hrev hkind habort]
    rfl
  · rw [lane, joinLane_other_joins (o := s.opOf i cls [l]) hroom hl hrev hkind hgoes, State.opIssues, inThreads_one s t fun _ u => raiseCnt_uid u cls]
    rfl
end

end Sys2Proof.Machine
end

section
/-! O12, GlobalAccessIssue: each instruction in lanes that may make its access, the accesses of a revocable transaction, and the statement. -/

namespace Sys2Proof.Machine

/-! ## What each instruction issues -/

section
variable {s : State} {g : Pred} {d : Dst} {v a b e : Src}

/-- An instruction whose words make no lane trap has its effect. -/
theorem exec_body {i : Instr} {body : State → State} (hexec : exec i s = issued i s body) (hi : s.issueCause i = none) : exec i s = .next (body s) :=
  hexec.trans (issued_body hi)

theorem exec_ld {acq : Bool} {sc : Scope} {sz : Size} (hi : s.issueCause (.ld g d a acq sc sz) = none) : exec (.ld g d a acq sc sz) s =
    .next (s.memIssue (s.acting g) (.ld g d a acq sc sz) .l [.s2 a] .loadReturn fun s t => globalChk (Size.bytes sz) sc t (s.accAt t a)) :=
  exec_body (by rfl) hi

theorem exec_st {rel : Bool} {sc : Scope} {sz : Size} (hi : s.issueCause (.st g v a rel sc sz) = none) : exec (.st g v a rel sc sz) s =
    .next (s.memIssue (s.realLanes g) (.st g v a rel sc sz) .s [.s2 a, Size.src sz v] .storePerform fun s t =>
      globalChk (Size.bytes sz) sc t { s.accAt t a with data := s.srcWords t (Size.src sz v) }) :=
  exec_body (by rfl) hi

theorem exec_rdm {op : RedOp} {ty : Ty} {sc : Scope} {rel : Bool} (hi : s.issueCause (.rdm g a b op ty sc rel) = none) :
    exec (.rdm g a b op ty sc rel) s =
    .next (s.memIssue (s.realLanes g) (.rdm g a b op ty sc rel) .s [.s2 a, .sw ty.wide b] .storePerform fun s t =>
      globalChk (rdmBytes ty) sc t { s.accAt t a with data := s.srcWords t (.sw ty.wide b) }) :=
  exec_body (by rfl) hi

theorem exec_vbmin (hi : s.issueCause (.vbmin g a b) = none) : exec (.vbmin g a b) s =
    .next (s.memIssue (s.realLanes g) (.vbmin g a b) .s [.s2 a, .s2 b] .storePerform fun s t =>
      globalChk 8 .dev t { s.accAt t a with data := s.srcWords t (.s2 b) }) :=
  exec_body (by rfl) hi

theorem exec_cpltest {sc : Scope} (hi : s.issueCause (.cpltest g d a sc) = none) : exec (.cpltest g d a sc) s =
    .next (s.memIssue (s.acting g) (.cpltest g d a sc) .l [] .loadReturn fun s t =>
      globalChk 16 sc t { s.accAt t a with pois := t.opPois (.s2 a) }) :=
  exec_body (by rfl) hi

theorem exec_rbox (hi : s.issueCause (.rbox g d a b) = none) : exec (.rbox g d a b) s =
    .next (s.memIssue (s.acting g) (.rbox g d a b) .t [.sg 8 1 a, .s2 b] .rayTestComplete fun s t =>
      globalChk 64 .wg t { s.accAt t b with data := t.ray a }) :=
  exec_body (by rfl) hi

theorem exec_rtri {cull : Cull} (hi : s.issueCause (.rtri g d a b cull) = none) : exec (.rtri g d a b cull) s =
    .next (s.memIssue (s.acting g) (.rtri g d a b cull) .t [.sg 8 1 a, .s2 b] .rayTestComplete fun s t =>
      globalChk 4 .wg t { s.accAt t b with data := t.ray a }) :=
  exec_body (by rfl) hi

theorem exec_ldlod {lvl : BitVec 4} {lreg : Bool} {f : Dst} {sz : Fin 5} (hi : s.issueCause (.ldlod g d a b lvl lreg f sz) = none) :
    exec (.ldlod g d a b lvl lreg f sz) s =
    .next (s.memIssue (s.acting g) (.ldlod g d a b lvl lreg f sz) .l [.s2 a, .s2 b] .loadReturn fun s t =>
      .go { s.accAt t a with addr2 := s.src2 t b, tx := t.tx.isSome }) :=
  exec_body (by rfl) hi

theorem exec_sample {fmt : SampleFmt} {bilin : Bool} (hi : s.issueCause (.sample g d a b fmt bilin e) = none) : exec (.sample g d a b fmt bilin e) s =
    .next (s.memIssue (s.acting g) (.sample g d a b fmt bilin e) .l [.s2 a, .s2 b, .s e] .loadReturn fun s t =>
      .go { s.accAt t a with addr2 := s.src2 t b, data := [s.src t e], tx := t.tx.isSome }) :=
  exec_body (by rfl) hi
end

/-! ## Atomics with helper lanes (R138, R241) -/

/-- The helper lanes of an atomic take 0, the others raise their counter. -/
theorem atm_issues {s : State} {g : Pred} {d : Dst} {a b e : Src} {op : AtomOp} {ty : Ty} {sc : Scope} {ord : Order}
    (hi : s.canIssue (.atm g d a b op ty sc ord e)) (hready : s.ready (s.realLanes g) (atomOpnds (.s2 a) op ty b e) (atomCls d))
    (hreach : ∀ t ∈ s.realLanes g, t.mayReach (Ty.bytes ty) sc (s.src2 t a)) (hplain : ∀ t ∈ s.realLanes g, t.tx.isSome = true → t.st.irrev = true) :
    exec (.atm g d a b op ty sc ord e) s =
      .next ((s.inLanes g fun t u => if t.helper then (u.wrW ty.wide d 0).trimLog else u.raiseCnt (atomCls d)).withOp (.atm g d a b op ty sc ord e)
        (atomCls d) (atomDone d) ((s.realLanes g).map fun t => { s.atomVals t (s.accAt t a) op ty b e with tx := t.tx.isSome })) := by
  have distinct := acting_nodup hi.2 g
  have zeroed : s.helperZero g d ty.wide = s.inThreads ((s.acting g).filter (·.helper)) fun _ u => (u.wrW ty.wide d 0).trimLog :=
    over_updThr ((List.Sublist.map _ List.filter_sublist).nodup distinct) s fun _ u => by simp
  have both : (s.helperZero g d ty.wide).inThreads (s.realLanes g) (fun _ u => u.raiseCnt (atomCls d)) =
      s.inLanes g fun t u => if t.helper then (u.wrW ty.wide d 0).trimLog else u.raiseCnt (atomCls d) := by
    rw [zeroed]
    exact inThreads_filter distinct s (·.helper) fun _ u => by simp
  have issue := memIssue_joins (s := s.helperZero g d ty.wide) (ts := s.realLanes g) (i := .atm g d a b op ty sc ord e) (done := atomDone d)
    (mk := fun s t => globalChk (Ty.bytes ty) sc t (s.atomVals t (s.accAt t a) op ty b e))
    (acc := fun t => { s.atomVals t (s.accAt t a) op ty b e with tx := t.tx.isSome }) (realLanes_nodup hi.2 g) hready
    (fun t ht xs => by rw [zeroed]; exact globalChk_reach (hreach t ht)) hplain
  change execAtm g d a b op ty sc ord e s = _
  rw [execAtm, issued_body hi.1, issue, State.opIssues, both]

/-! ## Loads and stores of a revocable transaction (R113, R248, R249) -/

section
variable {s : State} {g : Pred} {t : Thread} {x : Tx}

/-- A load or store that takes place in the sets of its transaction goes into flight with its results. -/
theorem exec_txDone {i : Instr} {ts : List Thread} {cls : OpClass} {os : List Opnd} {done : Nat → Instr} {mk : State → Thread → LaneDo} {l : LaneAcc}
    {outs : List (Dst × List Word)} {s1 : State} (hexec : exec i s = .next (s.memIssue ts i cls os done mk))
    (hts : ts = [t]) (hpois : os.any t.opPois = false) (hmk : mk s t = .go l) (hroom : t.cnt cls < 63) (hl : l.tx = true) (hrev : t.st.irrev = false)
    (hkind : Instr.transactional i = true) (hops : ∀ o ∈ s.ops, ∀ l ∈ o.lanes, l.uid ≠ t.uid)
    (hdo : s.doTx (s.opOf i cls [l]) l = (.done outs, s1)) : exec i s = .next { s1.updThr t.uid (·.raiseCnt cls) with
      ops := s1.ops ++ [⟨s1.fresh, i, s.iss.core, s.issWg, s.issAsid, cls, s.iss.slot, [], [{ l with ready := some outs }]⟩]
      fresh := s1.fresh + 1, agenda := s1.agenda ++ [done s1.fresh] } := by
  rw [exec_one hexec hts hpois hmk, joinLane_tx_done (o := s.opOf i cls [l]) hroom hl hrev hkind (globalBefore_of_ops hops) hdo]
  rfl

theorem exec_txAborts {i : Instr} {ts : List Thread} {cls : OpClass} {os : List Opnd} {done : Nat → Instr} {mk : State → Thread → LaneDo} {l : LaneAcc}
    {c : Nat} {s1 : State} (hexec : exec i s = .next (s.memIssue ts i cls os done mk))
    (hts : ts = [t]) (hpois : os.any t.opPois = false) (hmk : mk s t = .go l) (hroom : t.cnt cls < 63) (hl : l.tx = true) (hrev : t.st.irrev = false)
    (hkind : Instr.transactional i = true) (hops : ∀ o ∈ s.ops, ∀ l ∈ o.lanes, l.uid ≠ t.uid)
    (hdo : s.doTx (s.opOf i cls [l]) l = (.abort c, s1)) : exec i s = .next ((s1.abortTx t.uid c).leaves t.uid) := by
  rw [exec_one hexec hts hpois hmk, joinLane_tx_aborts (o := s.opOf i cls [l]) hroom hl hrev hkind (globalBefore_of_ops hops) hdo]
  rfl
end

/-- Settles O12: lanes that may make their access join one operation; in a revocable transaction the access of the one lane takes place, or aborts, at
issue. -/
theorem globalAccessIssue : Obligations.GlobalAccessIssue := by
  unfold Obligations.GlobalAccessIssue
  intro s g d v a b e act real acc reach plain
  refine ⟨?ld, ?st, ?atm, ?rdm, ?vbmin, ?cpltest, ?rbox, ?rtri, ?ldlod, ?sample, ?other, ?sets⟩
  case ld =>
    intro acq sc sz i hi hready hreach hplain
    exact exec_joins (exec_ld hi.1) (acting_nodup hi.2 g) hready (fun t ht xs => globalChk_reach (hreach t ht)) hplain
  case st =>
    intro rel sc sz i hi hready hreach hplain
    exact exec_joins (exec_st hi.1) (realLanes_nodup hi.2 g) hready (fun t ht xs => globalChk_reach (hreach t ht)) hplain
  case atm =>
    intro op ty sc ord i cls done os hi hready hreach hplain
    exact atm_issues hi hready hreach hplain
  case rdm =>
    intro op ty sc rel i hi hready hreach hplain
    exact exec_joins (exec_rdm hi.1) (realLanes_nodup hi.2 g) hready (fun t ht xs => globalChk_reach (hreach t ht)) hplain
  case vbmin =>
    intro i hi hready hreach hplain
    exact exec_joins (exec_vbmin hi.1) (realLanes_nodup hi.2 g) hready (fun t ht xs => globalChk_reach (hreach t ht)) hplain
  case cpltest =>
    intro sc i hi hready hreach hplain
    exact exec_joins (exec_cpltest hi.1) (acting_nodup hi.2 g) hready (fun t ht xs => globalChk_reach (hreach t ht)) hplain
  case rbox =>
    intro i hi hready hreach hplain
    exact exec_joins (exec_rbox hi.1) (acting_nodup hi.2 g) hready (fun t ht xs => globalChk_reach (hreach t ht)) hplain
  case rtri =>
    intro cull i hi hready hreach hplain
    exact exec_joins (exec_rtri hi.1) (acting_nodup hi.2 g) hready (fun t ht xs => globalChk_reach (hreach t ht)) hplain
  case ldlod =>
    intro lvl lreg f sz i hi hready hplain
    exact exec_joins (exec_ldlod hi.1) (acting_nodup hi.2 g) hready (fun t ht xs => rfl) hplain
  case sample =>
    intro fmt bilin i hi hready hplain
    exact exec_joins (exec_sample hi.1) (acting_nodup hi.2 g) hready (fun t ht xs => rfl) hplain
  case other =>
    intro t op ty sc rel cull lvl lreg f sz fmt bilin htx hrev join stores at'
    have single : ∀ {i : Instr}, s.alone i g t → t.helper = false → s.realLanes g = [t] := fun h hh => realLanes_one h.acts hh
    refine ⟨?_, ?_, ?_, ?_, ?_, ?_, ?_, ?_⟩
    · exact fun hh hreach h hpois hroom => exec_otherInTx (exec_rdm h.issues) (single h hh) rfl (globalChk_reach hreach) htx hrev hpois hroom
    · exact fun hh hreach h hpois hroom => exec_otherInTx (exec_vbmin h.issues) (single h hh) rfl (globalChk_reach hreach) htx hrev hpois hroom
    · exact fun hreach h hpois hroom => exec_otherInTx (exec_cpltest h.issues) h.acts rfl (globalChk_reach hreach) htx hrev hpois hroom
    · exact fun hreach h hpois hroom => exec_otherInTx (exec_rbox h.issues) h.acts rfl (globalChk_reach hreach) htx hrev hpois hroom
    · exact fun hreach h hpois hroom => exec_otherInTx (exec_rtri h.issues) h.acts rfl (globalChk_reach hreach) htx hrev hpois hroom
    · exact fun h hpois hroom => exec_otherInTx (exec_ldlod h.issues) h.acts rfl rfl htx hrev hpois hroom
    · exact fun h hpois hroom => exec_otherInTx (exec_sample h.issues) h.acts rfl rfl htx hrev hpois hroom
    · intro o l hu hl ht hb
      have aborts : ∀ vas r, l.addr.toNat ∈ vas → (s.offBunting o l vas r).1 = .abort 5 := fun vas r hva => by
        rw [offBunting_aborts r hl (hu ▸ ht) htx hrev hva hb]
      exact ⟨aborts _ _ List.mem_cons_self, aborts _ _ List.mem_cons_self, aborts _ _ List.mem_cons_self, aborts _ _ List.mem_cons_self⟩
  case sets =>
    intro t x sc sz hx hrev hops hpois hreach va join
    have htx : t.tx.isSome = true := by rw [hx]; rfl
    refine ⟨?load, ?store⟩
    case load =>
      intro acq i h hroom s1
      obtain ⟨hok, habort⟩ := doLd_tx (s := s) (o := s.opOf i .l [acc t a [] 0]) (l := acc t a [] 0) htx h.found hx hrev d acq sc sz (s1 := s1)
      refine ⟨fun bs hload => ?_, fun c hload => ?_⟩
      · exact exec_txDone (exec_ld h.issues) h.acts (by simp [hpois]) (globalChk_reach hreach) hroom htx hrev rfl hops (hok bs hload)
      · exact exec_txAborts (exec_ld h.issues) h.acts (by simp [hpois]) (globalChk_reach hreach) hroom htx hrev rfl hops (habort c hload)
    case store =>
      intro rel i ws r h hh hvpois hroom
      obtain ⟨hok, habort⟩ := doSt_tx (s := s) (i := i) (cls := .s) (l := acc t a ws 0) htx h.found hx hrev rel sc sz (r := r) rfl
      refine ⟨fun hnone => ?_, fun c hsome => ?_⟩
      · exact exec_txDone (exec_st h.issues) (realLanes_one h.acts hh) (by simp [hpois, hvpois]) (globalChk_reach hreach) hroom htx hrev rfl hops (hok hnone)
      · exact exec_txAborts (exec_st h.issues) (realLanes_one h.acts hh) (by simp [hpois, hvpois]) (globalChk_reach hreach) hroom htx hrev rfl hops
          (habort c hsome)

end Sys2Proof.Machine
end

section
/-! O4, IntegerConversions: the range of an integer type, the value of a saturated code, and the statement. -/

namespace Sys2Proof

/-! ## The range of an integer type (R61) -/

/-- The least value of a type, and the greatest. -/
def Ty.least (ty : Ty) : Int := if ty.isSigned then -(2 ^ (ty.width - 1) : Int) else 0
def Ty.most (ty : Ty) : Int := if ty.isSigned then (2 ^ (ty.width - 1) : Int) - 1 else 2 ^ ty.width - 1

theorem Ty.least_le_most (ty : Ty) : ty.least ≤ ty.most := by
  have half : (0 : Int) < 2 ^ (ty.width - 1) := by positivity
  have whole : (0 : Int) < 2 ^ ty.width := by positivity
  unfold Ty.least Ty.most
  split <;> omega

theorem Ty.width_pos (ty : Ty) : 0 < ty.width := by cases ty <;> decide

/-- A type of one register has at most 32 bits, and one of a pair at most 64. -/
theorem Ty.width_le (ty : Ty) : ty.width ≤ if ty.wide then 64 else 32 := by cases ty <;> decide

/-! ## The value of a code -/

/-- A number in the signed range of `n` bits is read from any code that agrees with it in those bits. -/
theorem signedOf_eq {n w : Nat} {x : Int} (hn : 0 < n) (hw : (w : Int) % 2 ^ n = x % 2 ^ n) (hlo : -(2 ^ (n - 1)) ≤ x) (hhi : x < 2 ^ (n - 1)) :
    signedOf n w = x := by
  obtain ⟨k, rfl⟩ : ∃ k, n = k + 1 := ⟨n - 1, by omega⟩
  have code : ((w % 2 ^ (k + 1) : Nat) : Int) = x % 2 ^ (k + 1) := by push_cast; exact hw
  rw [Nat.add_sub_cancel] at hlo hhi
  rw [signedOf, Nat.add_sub_cancel]
  rcases lt_or_ge x 0 with hneg | hpos
  · have wrapped : x % 2 ^ (k + 1) = x + 2 ^ (k + 1) := by
      rw [← Int.add_emod_right, Int.emod_eq_of_lt] <;> rw [pow_succ] <;> omega
    have high : ¬ w % 2 ^ (k + 1) < 2 ^ k := by
      zify
      rw [hw, wrapped, pow_succ]
      omega
    rw [if_neg high, code, wrapped]
    push_cast
    omega
  · have same : x % 2 ^ (k + 1) = x := Int.emod_eq_of_lt hpos (by rw [pow_succ]; omega)
    have low : w % 2 ^ (k + 1) < 2 ^ k := by
      zify
      rw [hw, same]
      exact hhi
    rw [if_pos low, code, same]

/-- So is a number in the range of an integer type. -/
theorem intOf_eq {ty : Ty} {w : Nat} {x : Int} (hw : (w : Int) % 2 ^ ty.width = x % 2 ^ ty.width) (hlo : ty.least ≤ x) (hhi : x ≤ ty.most) :
    intOf ty w = x := by
  unfold Ty.least at hlo
  unfold Ty.most at hhi
  unfold intOf
  cases hs : ty.isSigned <;> simp only [hs, Bool.false_eq_true, if_false, if_true] at hlo hhi ⊢
  · push_cast
    rw [hw, Int.emod_eq_of_lt hlo (by omega)]
  · exact signedOf_eq ty.width_pos hw hlo (by omega)

/-! ## Saturation (R63) -/

/-- The value that a conversion to an integer type gives for an integer: itself, or the nearer bound. -/
def Ty.clamp (ty : Ty) (v : Int) : Int := max ty.least (min ty.most v)

theorem satI_eq (ty : Ty) (v : Int) : (satI ty v : Int) = ty.clamp v % 2 ^ 64 := by
  have code : satI ty v = (ty.clamp v % 2 ^ 64).toNat := by
    unfold satI Ty.clamp Ty.least Ty.most
    push_cast
    rfl
  rw [code, Int.toNat_of_nonneg (Int.emod_nonneg _ (by decide))]

/-- A code stands whole in the register or pair of its type (R62). -/
theorem regForm_mod (ty : Ty) (c : Nat) : (BitVec.ofNat 64 (regForm ty c)).toNat % 2 ^ ty.width = c % 2 ^ ty.width := by
  rw [BitVec.toNat_ofNat, regForm]
  cases hw : ty.wide
  · have fits : ty.width ≤ 32 := by simpa [hw] using ty.width_le
    rw [if_neg Bool.false_ne_true, Nat.mod_mod_of_dvd _ (pow_dvd_pow 2 (fits.trans (by decide))), Nat.mod_mod_of_dvd _ (pow_dvd_pow 2 fits)]
  · have fits : ty.width ≤ 64 := by simpa [hw] using ty.width_le
    rw [if_pos rfl, Nat.mod_mod, Nat.mod_mod_of_dvd _ (pow_dvd_pow 2 fits)]

/-- The value of a saturated code. -/
theorem intOf_satI (ty : Ty) (v : Int) : intOf ty (BitVec.ofNat 64 (regForm ty (satI ty v))).toNat = ty.clamp v := by
  refine intOf_eq ?_ (le_max_left ..) (max_le ty.least_le_most (min_le_left ..))
  have fits : ty.width ≤ 64 := ty.width_le.trans (by split <;> decide)
  have code := regForm_mod ty (satI ty v)
  zify at code
  rw [code, satI_eq, Int.emod_emod_of_dvd _ (pow_dvd_pow 2 fits)]

end Sys2Proof

namespace Sys2Proof.Machine

/-- Settles O4: CONV between integer types writes the saturated code of its operand's value, and raises no flag. -/
theorem integerConversions : Obligations.IntegerConversions := by
  unfold Obligations.IntegerConversions
  intro s g d a ts tt md hs ht least most
  refine ⟨fun t => BitVec.ofNat 64 (regForm tt (satI tt (intOf ts (s.code ts.wide t a)))), ?result, fun t => ?value⟩
  case result =>
    have conv := conv_result (s := s) (g := g) (d := d) (a := a) ts tt md
    simpa only [State.floatResult, fConv, hs, ht, if_true] using conv
  case value =>
    intro v
    have range : least ≤ most := tt.least_le_most
    have clamped : intOf tt (BitVec.ofNat 64 (regForm tt (satI tt v))).toNat = max least (min most v) := intOf_satI tt v
    refine ⟨fun hlo hhi => ?_, fun hlo => ?_, fun hhi => ?_⟩
    all_goals refine clamped.trans ?_; omega

end Sys2Proof.Machine
end

section
/-! SUPPORT. Laws of an operation in flight: what a result write leaves of its thread, and an operation of one lane that performs and is gone. -/

namespace Sys2Proof.Machine

/-! ## What a result write leaves of its thread -/

/-- A fold of updates that keep a field of the thread keeps it. -/
theorem foldl_field {α β : Type} (p : Thread → β) {f : Thread → α → Thread} (h : ∀ t x, p (f t x) = p t) :
    ∀ (xs : List α) (t : Thread), p (xs.foldl f t) = p t
  | [], _ => rfl
  | x :: xs, t => by rw [List.foldl_cons, foldl_field p h xs, h]

/-- A write to a destination keeps what a write of one register keeps. -/
theorem wrWords_field {β : Type} (p : Thread → β) (h : ∀ t r v m, p (t.setReg r v m) = p t) (t : Thread) (d : Dst) (ws : List Word)
    (m : Nat → Mark) : p (t.wrWords d ws m) = p t := by
  cases d with
  | zero => rfl
  | v r => exact foldl_field p (fun t x => h ..) _ t

theorem setReg_park (t : Thread) (r : Nat) (v : Word) (m : Mark) : (t.setReg r v m).park = t.park := by unfold Thread.setReg; split <;> rfl
theorem setReg_cntL (t : Thread) (r : Nat) (v : Word) (m : Mark) : (t.setReg r v m).cntL = t.cntL := by unfold Thread.setReg; split <;> rfl
theorem setReg_cntT (t : Thread) (r : Nat) (v : Word) (m : Mark) : (t.setReg r v m).cntT = t.cntT := by unfold Thread.setReg; split <;> rfl

/-- A thread that takes the results of an access: they are written clean, and the counter of the class falls (R53, R219). -/
def Thread.takes (u : Thread) (outs : List (Dst × List Word)) (cls : OpClass) : Thread :=
  ((outs.foldl (fun (u : Thread) p => u.wrWords p.1 p.2 fun _ => .clean) u).lower cls).trimLog

theorem takes_field {β : Type} (p : Thread → β) (hset : ∀ t r v m, p (t.setReg r v m) = p t) (hlower : ∀ t cls, p (Thread.lower t cls) = p t)
    (hlog : ∀ t : Thread, p { t with log := [] } = p t) (u : Thread) (outs : List (Dst × List Word)) (cls : OpClass) : p (u.takes outs cls) = p u := by
  have trim : ∀ t : Thread, p t.trimLog = p t := fun t => by
    unfold Thread.trimLog
    split
    · rfl
    · exact hlog t
  rw [Thread.takes, trim, hlower]
  exact foldl_field p (fun t x => wrWords_field p hset ..) outs u

@[simp] theorem takes_uid (u : Thread) (outs : List (Dst × List Word)) (cls : OpClass) : (u.takes outs cls).uid = u.uid :=
  takes_field (·.uid) setReg_uid (fun t cls => by cases cls <;> rfl) (fun _ => rfl) u outs cls

@[simp] theorem takes_park (u : Thread) (outs : List (Dst × List Word)) (cls : OpClass) : (u.takes outs cls).park = u.park :=
  takes_field (·.park) setReg_park (fun t cls => by cases cls <;> rfl) (fun _ => rfl) u outs cls

/-- A load's counter falls whatever its result. -/
theorem takes_load (u : Thread) (d : Dst) (ws : List Word) :
    u.takes [(d, ws)] .l = (({ u.wrWords d ws fun _ => .clean with cntL := u.cntL - 1 } : Thread)).trimLog := by
  have kept : (u.wrWords d ws fun _ => .clean).cntL = u.cntL := wrWords_field (·.cntL) setReg_cntL ..
  rw [Thread.takes, List.foldl_cons, List.foldl_nil, Thread.lower, kept]

/-- So does the counter of class T. -/
theorem takes_test (u : Thread) (outs : List (Dst × List Word)) : u.takes outs .t =
    (({ outs.foldl (fun (u : Thread) p => u.wrWords p.1 p.2 fun _ => .clean) u with cntT := u.cntT - 1 } : Thread)).trimLog := by
  have kept : (outs.foldl (fun (u : Thread) p => u.wrWords p.1 p.2 fun _ => .clean) u).cntT = u.cntT :=
    foldl_field (·.cntT) (fun t x => wrWords_field (·.cntT) setReg_cntT ..) outs u
  rw [Thread.takes, Thread.lower, kept]

/-! ## An operation of one lane -/

/-- An operation is in flight with one lane, which waits for nothing: no other operation bears its name or is of its thread, and the thread is found,
not parked, on its core. -/
structure State.performsNow (s : State) (o : Op) (l : LaneAcc) (t : Thread) : Prop where
  lanes : o.lanes = [l]
  others : ∀ x ∈ s.ops, x = o ∨ (x.id ≠ o.id ∧ x.lanes ≠ [] ∧ ∀ y ∈ x.lanes, y.uid ≠ l.uid)
  inFlight : o ∈ s.ops
  noFault : l.fault = none
  notHeld : l.held = false
  notReady : l.ready = none
  clean : l.pois = false
  found : s.thr? l.uid = some t
  unparked : t.park = none
  onCore : s.offCore l.uid = false

/-- The operation of a name is gone, and a thread has changed. -/
def State.opDone (s : State) (n uid : Nat) (f : Thread → Thread) : State := { s.updThr uid f with ops := s.ops.filter fun x => x.id != n }

/-- A thread of a resident workgroup is on its core. -/
theorem onCore_of_resident {s : State} {n : Nat} {t : Thread} {w : Wg} (ht : s.thr? n = some t) (hw : s.wg? t.wg = some w) (hres : w.state = .resident) :
    s.offCore n = false := by
  simp only [State.offCore, ht, hw, hres, Option.map_some, Option.getD_some]
  decide

/-- An operation that loses its lanes is gone, and the others, which keep theirs, are not. -/
theorem setOp_gone {s : State} {n : Nat} {f : Op → Op} (hgone : ∀ x ∈ s.ops, x.id = n → (f x).lanes = [])
    (hkept : ∀ x ∈ s.ops, x.id ≠ n → x.lanes ≠ []) : s.setOp n f = { s with ops := s.ops.filter fun x => x.id != n } := by
  rw [State.setOp]
  congr 1
  generalize s.ops = os at hgone hkept
  induction os with
  | nil => rfl
  | cons x os ih =>
      have rest := ih (fun y hy => hgone y (List.mem_cons_of_mem _ hy)) fun y hy => hkept y (List.mem_cons_of_mem _ hy)
      by_cases hx : x.id = n
      · have := hgone x List.mem_cons_self hx
        simp [hx, this, rest]
      · have := hkept x List.mem_cons_self hx
        simp [hx, this, rest]

/-- Nothing is held behind what no held access names. -/
theorem unhold_self {s : State} {f : Op → LaneAcc → Bool} (h : ∀ x ∈ s.ops, ∀ y ∈ x.lanes, f x y = false) : s.unhold f = s := by
  have noEvent : (s.ops.filter fun x => x.lanes.any fun y => y.held && f x y) = [] := List.filter_eq_nil_iff.mpr fun x hx hany => by
    obtain ⟨y, hy, hf⟩ := List.any_eq_true.mp hany
    simp [h x hx y hy] at hf
  have same : (s.ops.map fun (x : Op) =>
      { x with lanes := x.lanes.map fun (y : LaneAcc) => if y.held && f x y then { y with held := false } else y }) = s.ops := by
    conv_rhs => rw [← List.map_id s.ops]
    refine List.map_congr_left fun x hx => ?_
    have lanes : (x.lanes.map fun (y : LaneAcc) => if y.held && f x y then { y with held := false } else y) = x.lanes := by
      conv_rhs => rw [← List.map_id x.lanes]
      exact List.map_congr_left fun y hy => by simp [h x hx y hy]
    rw [lanes, id]
  rw [State.unhold, noEvent, same, List.map_nil, List.append_nil]

/-- Only a thread parked at REORDER arrives there. -/
theorem reorderArrive_unparked {s : State} {n : Nat} {t : Thread} (ht : s.thr? n = some t) (hpark : t.park = none) : s.reorderArrive n = s := by
  simp only [State.reorderArrive, ht, hpark]

section
variable {s s1 : State} {o : Op} {l : LaneAcc} {t : Thread}

theorem State.performsNow.find (h : s.performsNow o l t) : s.ops.find? (·.id == o.id) = some o := by
  cases hx : s.ops.find? (·.id == o.id) with
  | none => exact absurd (List.find?_eq_none.mp hx o h.inFlight) (by simp)
  | some x =>
      have hid : x.id = o.id := by simpa using List.find?_some hx
      rcases h.others x (List.mem_of_find?_eq_some hx) with rfl | ⟨hne, -, -⟩
      · rfl
      · exact absurd hid hne

theorem State.performsNow.noneEarlier (h : s.performsNow o l t) : s.earlierWaits o l s.ops = false := by
  have go : ∀ os : List Op, (∀ x ∈ os, x ∈ s.ops) → s.earlierWaits o l os = false := by
    intro os
    induction os with
    | nil => exact fun _ => rfl
    | cons x os ih =>
        intro hos
        rcases h.others x (hos x List.mem_cons_self) with rfl | ⟨hne, -, huid⟩
        · exact if_pos rfl
        · have apart : (x.lanes.any fun a => s.orderedAfter x a o l) = false := List.any_eq_false.mpr fun a ha => by
            simp [State.orderedAfter, huid a ha]
          rw [State.earlierWaits, if_neg hne, apart, Bool.false_or, ih fun y hy => hos y (List.mem_cons_of_mem _ hy)]
  exact go s.ops fun _ hx => hx

theorem State.performsNow.noneLower (h : s.performsNow o l t) : s.lowerWaits o l = false := by
  simp [State.lowerWaits, h.lanes]

/-- The access of the one lane is made at once (R102, R237). -/
theorem State.performsNow.acts (h : s.performsNow o l t) : s.performOp o.id = s.actLane o l := by
  have turn : (o.lanes.filter fun x => !x.held && !s.offCore x.uid) = [l] := by
    rw [h.lanes, List.filter_cons_of_pos (by simp [h.notHeld, h.onCore]), List.filter_nil]
  have lane : (o.lanes.find? fun x => x.uid == l.uid && x.lane == l.lane) = some l := by simp [h.lanes]
  simp only [State.performOp, h.find, turn, State.over, List.foldl_cons, List.foldl_nil, State.stepLane, lane, h.noFault, h.notReady, h.noneEarlier,
    h.noneLower, Option.isSome_none, Bool.or_self, Bool.and_false, Bool.false_eq_true, if_false]

section
variable (h : s.performsNow o l t) (hops : s1.ops = s.ops)
include h hops

/-- The operation loses its one lane. -/
theorem State.performsNow.setOp_done (f : Thread → Thread) :
    (s1.updThr l.uid f).setOp o.id (fun o => { o with lanes := o.lanes.filter fun x => !(x.uid == l.uid && x.lane == l.lane) })
      = s1.opDone o.id l.uid f := by
  refine setOp_gone (fun x hx hn => ?_) fun x hx hn => ?_ <;> rw [updThr_ops, hops] at hx <;> rcases h.others x hx with rfl | ⟨hne, hlanes, -⟩
  · simp [h.lanes]
  · exact absurd hn hne
  · exact absurd rfl hn
  · exact hlanes

/-- No other access was held behind it. -/
theorem State.performsNow.unhold_done (f : Thread → Thread) :
    (s1.opDone o.id l.uid f).unhold (fun x y => y.uid == l.uid || x.id == o.id) = s1.opDone o.id l.uid f :=
  unhold_self fun x hx y hy => by
    obtain ⟨hmem, hne⟩ := List.mem_filter.mp (show x ∈ s1.ops.filter fun x => x.id != o.id from hx)
    rcases h.others x (hops ▸ hmem) with rfl | ⟨hid, -, huid⟩
    · simp at hne
    · simp [huid y hy, hid]

/-- The operation leaves the machine, once its access has taken effect (R219). -/
theorem State.performsNow.finishes (outs : List (Dst × List Word)) (hfound : s1.thr? l.uid = some t) :
    s1.finishLane o l outs = s1.opDone o.id l.uid (·.takes outs o.cls) := by
  have found : (s1.opDone o.id l.uid (·.takes outs o.cls)).thr? l.uid = some (t.takes outs o.cls) := by
    have hid : t.uid = l.uid := by simpa using List.find?_some hfound
    have updated := thr?_updThr s1 l.uid l.uid (·.takes outs o.cls) fun u => takes_uid ..
    rwa [hfound, Option.map_some, if_pos hid] at updated
  have taken : (s1.updThr l.uid fun u => ((outs.foldl (fun (u : Thread) p => u.wrWords p.1 p.2 fun _ => if l.pois then .lost else .clean) u).lower
      o.cls).trimLog) = s1.updThr l.uid (·.takes outs o.cls) := by
    rw [h.clean]; rfl
  rw [State.finishLane, taken, h.setOp_done hops, h.unhold_done hops, reorderArrive_unparked found ((takes_park ..).trans h.unparked), hfound]
  rfl
end

/-- An operation of one lane whose access gives its results is gone, and its thread has taken them. -/
theorem State.performsNow.performs (h : s.performsNow o l t) {outs : List (Dst × List Word)} (hgate : s.accGate o l = (true, s))
    (hacc : s.doAccess o l = (.done outs, s1)) (hops : s1.ops = s.ops) (hfound : s1.thr? l.uid = some t) :
    s.performOp o.id = s1.opDone o.id l.uid (·.takes outs o.cls) := by
  rw [h.acts, State.actLane, hgate]
  simp only [hacc]
  exact h.finishes hops outs hfound
end

/-- No undo record is due before an access that writes no memory of the device, or of a context that takes no checkpoints (R376). -/
theorem accGate_open {s : State} {o : Op} (l : LaneAcc) (h : Instr.writesGlobal o.instr = false ∨ s.takesCkp o.asid = false) :
    s.accGate o l = (true, s) := by
  rw [State.accGate, if_pos]
  rcases h with h | h <;> simp [h]

end Sys2Proof.Machine
end

section
/-! SUPPORT. Laws of plain memory: reads and writes at the home in DRAM of the device (R8, R99), and in a line of the L1 (R98). -/

namespace Sys2Proof.Machine

/-! ## At the home -/

section
variable {s : State} {asid key : Nat}

theorem noCkp_of_plain (h : s.plain asid) : s.takesCkp asid = false := by
  obtain ⟨hckp, -, -⟩ := h
  exact hckp

theorem noShadows_of_plain (h : s.plain asid) : s.shadows = [] := by
  obtain ⟨-, hshadows, -⟩ := h
  exact hshadows

theorem fold_noShadows (h : s.shadows = []) (line : Nat) : s.fold line = s := by
  rw [State.fold, h]; rfl

/-- A thread when a line of memory is touched: a MONWAIT on it returns (R246). -/
def Thread.wokenBy (line : Nat) (t : Thread) : Thread :=
  match t.park with
  | some (.mon _ pa _ _ _ _) => if lineOf pa = line then { t with park := none, st := { t.st with monFull := false } } else t
  | _ => t

theorem monWake_eq (s : State) (line : Nat) : s.monWake line = s.withThreads (s.threads.map (·.wokenBy line)) := rfl

theorem wokenBy_uid (line : Nat) (t : Thread) : (t.wokenBy line).uid = t.uid := by
  unfold Thread.wokenBy
  split
  · split <;> rfl
  · rfl

theorem wokenBy_unparked {t : Thread} (h : t.park = none) (line : Nat) : t.wokenBy line = t := by
  rw [Thread.wokenBy, h]

/-- A thread that is not parked is found as it was, whatever else a touched line wakes. -/
theorem thr?_monWake {n : Nat} {t : Thread} (ht : s.thr? n = some t) (hpark : t.park = none) (line : Nat) : (s.monWake line).thr? n = some t := by
  have uids : ((fun u : Thread => u.uid == n) ∘ Thread.wokenBy line) = fun u => u.uid == n := funext fun u => by
    rw [Function.comp_apply, wokenBy_uid]
  rw [State.thr?, monWake_eq, withThreads_threads, List.find?_map, uids, ← State.thr?, ht, Option.map_some, wokenBy_unparked hpark]

theorem l2Evict_noShadows (h : s.shadows = []) (line : Nat) :
    s.l2Evict line = ({ s with l2 := s.l2.filter fun x => x.line != line } : State).monWake line := by
  rw [State.l2Evict, fold_noShadows h]

/-- What a fill of the L2 leaves where no line is shadowed: it changes the cache and the next name, and wakes threads. -/
structure OnlyFills (s s1 : State) : Prop where
  rest : ∃ n ls ts, s1 = { s with fresh := n, l2 := ls, threads := ts }
  found : ∀ {n t}, s.thr? n = some t → t.park = none → s1.thr? n = some t

theorem onlyFills_l2Room (h : s.shadows = []) (colour line : Nat) : OnlyFills s (s.l2Room colour line) := by
  unfold State.l2Room
  dsimp only
  split
  · exact ⟨⟨_, _, _, rfl⟩, fun ht _ => ht⟩
  · split
    · next v _ =>
      have evicted := l2Evict_noShadows (s := { s with fresh := s.fresh + 1 }) h v.line
      rw [evicted]
      exact ⟨⟨_, _, _, rfl⟩, fun ht hpark => thr?_monWake ht hpark _⟩
    · exact ⟨⟨_, _, _, rfl⟩, fun ht _ => ht⟩

theorem onlyFills_seen (h : s.shadows = []) (asid key : Nat) : OnlyFills s (s.seen asid key) := by
  unfold State.seen State.l2Fill
  split
  · exact ⟨⟨_, _, _, rfl⟩, fun ht _ => ht⟩
  · split
    · exact ⟨⟨_, _, _, rfl⟩, fun ht _ => ht⟩
    · next c _ =>
      obtain ⟨⟨n, ls, ts, hroom⟩, found⟩ := onlyFills_l2Room h c (key / 128 * 128)
      refine ⟨⟨n, ls ++ [⟨_, c⟩], ts, by rw [hroom]⟩, fun ht hpark => found ht hpark⟩

theorem seen_mem (h : s.shadows = []) : (s.seen asid key).mem = s.mem := by
  obtain ⟨⟨_, _, _, hs⟩, -⟩ := onlyFills_seen h asid key
  rw [hs]

theorem seen_shadows (h : s.shadows = []) : (s.seen asid key).shadows = [] := by
  obtain ⟨⟨_, _, _, hs⟩, -⟩ := onlyFills_seen h asid key
  rw [hs]; exact h

/-- A line that the L2 holds, or does not keep, is not filled again. -/
theorem seen_seen : (s.seen asid key).seen asid key = s.seen asid key := by
  unfold State.seen
  cases hheld : s.l2.any (·.line == key / 128 * 128) with
  | true =>
    have same : s.l2Fill (asid / 64) (key / 128 * 128) = s := by rw [State.l2Fill, if_pos hheld]
    rw [same, same]
  | false =>
    cases hcolour : s.fillColour (asid / 64) (key / 128 * 128) with
    | none =>
      have same : s.l2Fill (asid / 64) (key / 128 * 128) = s := by rw [State.l2Fill, hheld, if_neg Bool.false_ne_true, hcolour]
      rw [same, same]
    | some c =>
      have held : ((s.l2Fill (asid / 64) (key / 128 * 128)).l2.any (·.line == key / 128 * 128)) = true := by
        rw [State.l2Fill, hheld, if_neg Bool.false_ne_true, hcolour]
        simp
      conv_lhs => rw [State.l2Fill, if_pos held]

theorem memErr_noErrors (h : s.ecc = []) (asid key : Nat) : s.memErr asid key = s := by
  rw [State.memErr, State.bad, h]; rfl

theorem atHome_plain (h : s.shadows = []) (asid key : Nat) : s.atHome asid key = s.seen asid key := by
  rw [State.atHome, fold_noShadows h]; rfl

theorem homeOf_dram (h : key < 2 ^ 40) : homeOf key = .dram := if_pos h

/-- A read at the home of a byte of DRAM. -/
theorem homeRead_plain (h : s.shadows = []) (hecc : s.ecc = []) (hdram : homeOf key = .dram) (n : Nat) (sc : Scope) :
    s.homeRead asid key n sc = (mgets 0#8 s.mem key n, s.seen asid key) := by
  simp only [State.homeRead, memErr_noErrors hecc, hdram, atHome_plain h, seen_mem h]

/-- The machine after a write of bytes at their home: the L2 has filled the line, and its other copies are gone (R8, R99). -/
def State.writtenHome (s : State) (asid key : Nat) (bs : List Byte) : State :=
  ({ s.seen asid key with mem := mputs 0#8 s.mem key bs } : State).touched key none

theorem homeWrite_plain (h : s.shadows = []) (hdram : homeOf key = .dram) (bs : List Byte) (sc : Scope) :
    s.homeWrite asid key bs sc none = s.writtenHome asid key bs := by
  simp only [State.homeWrite, hdram, atHome_plain h, seen_mem h, State.writtenHome]

/-- A write after a read of the same byte. -/
theorem homeWrite_seen (h : s.shadows = []) (hdram : homeOf key = .dram) (bs : List Byte) (sc : Scope) :
    (s.seen asid key).homeWrite asid key bs sc none = s.writtenHome asid key bs := by
  rw [homeWrite_plain (seen_shadows h) hdram, State.writtenHome, State.writtenHome, seen_seen, seen_mem h]

theorem writtenHome_ops (h : s.shadows = []) (bs : List Byte) : (s.writtenHome asid key bs).ops = s.ops := by
  obtain ⟨⟨_, _, _, hs⟩, -⟩ := onlyFills_seen h asid key
  rw [State.writtenHome, hs]
  rfl

theorem writtenHome_regs (h : s.shadows = []) (bs : List Byte) : (s.writtenHome asid key bs).regs = s.regs := by
  obtain ⟨⟨_, _, _, hs⟩, -⟩ := onlyFills_seen h asid key
  rw [State.writtenHome, hs]
  rfl

theorem writtenHome_noLines (h : s.shadows = []) (hl1 : s.l1 = []) (bs : List Byte) : (s.writtenHome asid key bs).l1 = [] := by
  obtain ⟨⟨_, _, _, hs⟩, -⟩ := onlyFills_seen h asid key
  simp [State.writtenHome, hs, State.touched, hl1]

theorem thr?_writtenHome (h : s.shadows = []) {n : Nat} {t : Thread} (ht : s.thr? n = some t) (hpark : t.park = none) (bs : List Byte) :
    (s.writtenHome asid key bs).thr? n = some t :=
  thr?_monWake (s := { s.seen asid key with mem := mputs 0#8 s.mem key bs }) ((onlyFills_seen h asid key).found ht hpark) hpark _

/-- Whether a context takes checkpoints stands in the registers (R375). -/
theorem takesCkp_congr {s1 : State} (h : s1.regs = s.regs) (asid : Nat) : s1.takesCkp asid = s.takesCkp asid := by
  have read : s1.rregN = s.rregN := by
    funext view idx
    rw [State.rregN, State.rreg, h]; rfl
  have queue : s1.rollbackQueue asid = s.rollbackQueue asid := by simp only [State.rollbackQueue, read]
  have sharers : s1.sharers = s.sharers := by
    funext cl
    simp only [State.sharers, read]
  rw [State.takesCkp, State.takesCkp, queue, sharers]

theorem writtenHome_noCkp (h : s.plain asid) (bs : List Byte) : (s.writtenHome asid key bs).takesCkp asid = false := by
  rw [takesCkp_congr (writtenHome_regs (noShadows_of_plain h) bs), noCkp_of_plain h]
end

/-! ## Accesses at the point of coherence of the device, from a core without lines -/

section
variable {s : State} {core asid va key : Nat} {acc : XAcc} {sc : Scope}

theorem l1Grant_cached (hl1 : s.l1 = []) (h : s.maps (clusterOf core) asid va acc key) :
    ∃ w, s.l1Grant core asid va acc = (.ok ⟨key, w⟩, s) := by
  obtain ⟨-, -, hcluster, hentry⟩ := h
  obtain ⟨e, he, hkey⟩ := Option.map_eq_some_iff.mp hentry
  have hit : s.tlbHit (clusterOf core) asid va acc = some e := he
  refine ⟨e.w && e.d, ?_⟩
  rw [State.l1Grant, State.l1at, hl1, List.find?_nil]
  simp only [State.xlate, hit, if_neg (Nat.not_le.mpr hcluster), hkey]

/-- What a cached translation of plain memory names is DRAM. -/
theorem homeOf_maps (h : s.maps (clusterOf core) asid va acc key) : homeOf key = .dram := by
  obtain ⟨hkey, -⟩ := h
  exact homeOf_dram (by omega)

theorem narrow_of_le (h : Scope.num sc ≤ 1) : Scope.narrow sc = true := decide_eq_true h

theorem not_narrow_of_le (h : 2 ≤ Scope.num sc) : Scope.narrow sc = false := decide_eq_false (by omega)

/-- No undo record is due before a write of a context that takes no checkpoints (R376). -/
theorem beforeWrite_noCkp (h : s.takesCkp asid = false) (core va key : Nat) : s.beforeWrite core asid va key = s := by
  rw [State.beforeWrite, h, if_neg Bool.false_ne_true]

theorem l1Out_noLines (hl1 : s.l1 = []) (core asid va line : Nat) : s.l1Out core asid va line = s := by
  rw [State.l1Out, hl1]; rfl

section
variable (hplain : s.plain asid) (hl1 : s.l1 = [])
include hplain hl1

/-- A store at .clu or .dev (R98, R237). -/
theorem l1Store_home (hmap : s.maps (clusterOf core) asid va .store key) (hsc : 2 ≤ Scope.num sc) (bs : List Byte) :
    s.l1Store core asid va bs sc = (none, s.writtenHome asid key bs) := by
  obtain ⟨hckp, hshadows, -⟩ := hplain
  obtain ⟨w, hgrant⟩ := l1Grant_cached hl1 hmap
  have dram := homeOf_maps hmap
  simp only [State.l1Store, hgrant, hckp, not_narrow_of_le hsc, Bool.false_eq_true, if_false, l1Out_noLines hl1, homeWrite_plain hshadows dram]

/-- An atomic at .clu or .dev (R241). -/
theorem gAtomic_home (hmap : s.maps (clusterOf core) asid va .atomic key) (hsc : 2 ≤ Scope.num sc) (op : AtomOp) (ty : Ty) (b e : Nat) :
    s.gAtomic core asid va op ty b e sc = (.ok (leNat (mgets 0#8 s.mem key (Ty.bytes ty))),
      s.writtenHome asid key (bytesOf (Ty.bytes ty) (atomNew op ty (leNat (mgets 0#8 s.mem key (Ty.bytes ty))) b e))) := by
  obtain ⟨hckp, hshadows, hecc⟩ := hplain
  obtain ⟨w, hgrant⟩ := l1Grant_cached hl1 hmap
  have dram := homeOf_maps hmap
  have provided : (decide (homeOf key = .host) && !hostAtomic op ty) = false := by rw [dram]; rfl
  simp only [State.gAtomic, hgrant, provided, beforeWrite_noCkp hckp, not_narrow_of_le hsc, Bool.false_eq_true, if_false, l1Out_noLines hl1,
    homeRead_plain hshadows hecc dram, homeWrite_seen hshadows dram]

/-- A reduction of one element in its own format (R110, R111, R242). -/
theorem gRdm_home (hmap : s.maps (clusterOf core) asid va .atomic key) (op : RedOp) {ty : Ty} (hty : ty ∈ [Ty.i32, .n32, .i64, .n64, .f32]) (v : Nat) :
    s.gRdm core asid va op ty v = (.ok none, s.writtenHome asid key
      (bytesOf (Ty.bytes ty) (redNode ty op .rn (leNat (mgets 0#8 s.mem key (Ty.bytes ty))) (v % 2 ^ ty.width)).1)) := by
  obtain ⟨hckp, hshadows, hecc⟩ := hplain
  obtain ⟨w, hgrant⟩ := l1Grant_cached hl1 hmap
  have dram := homeOf_maps hmap
  have provided : (decide (homeOf key = .host) && !(op == .add && !ty.isFloat)) = false := by rw [dram]; rfl
  obtain ⟨noShadow, oneElement⟩ : rdmShadowed op ty = false ∧ rdmElems ty v = [(0, v % 2 ^ ty.width)] := by
    simp only [List.mem_cons, List.not_mem_nil, or_false] at hty
    rcases hty with rfl | rfl | rfl | rfl | rfl <;> exact ⟨Bool.and_false _, rfl⟩
  have slot : s.noSlot key op ty = false := by simp [State.noSlot, noShadow]
  have direct : s.rdmAt asid key op ty v = s.writtenHome asid key
      (bytesOf (Ty.bytes ty) (redNode ty op .rn (leNat (mgets 0#8 s.mem key (Ty.bytes ty))) (v % 2 ^ ty.width)).1) := by
    simp only [State.rdmAt, State.rdmEls, dram, noShadow, oneElement, State.rdmDirect, State.over, List.foldl_cons, List.foldl_nil, Nat.add_zero,
      homeRead_plain hshadows hecc dram, homeWrite_seen hshadows dram, Bool.not_false, if_true]
  simp only [State.gRdm, hgrant, provided, beforeWrite_noCkp hckp, slot, Bool.false_eq_true, if_false, l1Out_noLines hl1, direct]
end
end

/-! ## Accesses in a line of the L1 -/

/-- Bytes written into a line at a narrow scope (R98): it holds them dirty, and with the tag of the core. -/
def L1Line.written (line : L1Line) (now va : Nat) (bs : List Byte) : L1Line :=
  { line with
    wr := true, sc := .core
    dirtyAt := if line.dirty = 0 then now else line.dirtyAt
    dirty := line.dirty ||| ((2 ^ bs.length - 1) * 2 ^ (va % 128))
    data := line.data.take (va % 128) ++ bs ++ line.data.drop (va % 128 + bs.length) }

theorem length_bytesOf (n v : Nat) : (bytesOf n v).length = n := by
  induction n generalizing v with
  | zero => rfl
  | succ n ih => rw [bytesOf, List.length_cons, ih]

section
variable {s : State} {core asid va : Nat} {sc : Scope} {line : L1Line}

section
variable (hl1 : s.l1 = [line]) (hat : line.isAt core asid va = true)
include hl1 hat

theorem l1at_only : s.l1at core asid va = some line := by
  rw [State.l1at, hl1, List.find?_cons_of_pos (p := fun l : L1Line => l.isAt core asid va) hat]

theorem updL1_only (f : L1Line → L1Line) : s.updL1 core asid va f = { s with l1 := [f line] } := by
  rw [State.updL1, hl1, List.map_cons, List.map_nil, if_pos hat]

theorem l1Grant_only (hwr : line.wr = true) (acc : XAcc) : s.l1Grant core asid va acc = (.ok ⟨line.pa + va % 128, true⟩, s) := by
  rw [State.l1Grant, l1at_only hl1 hat]
  simp only [hwr, if_true]

/-- A line with the write grant that stands at its tag is not filled for a narrow scope (R392). -/
theorem l1Fill_only (hwr : line.wr = true) : s.l1Fill core asid va (line.pa + va % 128) true .core = s := by
  have hat' := hat
  simp only [L1Line.isAt, Bool.and_eq_true, beq_iff_eq] at hat'
  obtain ⟨⟨hcore, hasid⟩, hva⟩ := hat'
  have base : line.pa + va % 128 - va % 128 = line.pa := Nat.add_sub_cancel ..
  have noStale : s.l1Stale core asid va line.pa = s := by simp [State.l1Stale, hl1, State.over]
  have same : { s with l1 := s.l1.map fun (l : L1Line) =>
      if l.core = core && l.pa = line.pa then { l with asid := asid, va := lineOf va, wr := true } else l } = s := by
    have kept : { line with asid := asid, va := lineOf va, wr := true } = line := by rw [← hasid, ← hva, ← hwr]
    rw [hl1, List.map_cons, List.map_nil, if_pos (by simp [hcore]), kept, ← hl1]
  simp only [State.l1Fill, base, noStale, same, l1at_only hl1 hat, Scope.narrow, Scope.num]
  rfl

section
variable (hwr : line.wr = true) (hplain : s.plain asid) (hsc : Scope.num sc ≤ 1)
include hwr hplain hsc

/-- A store at .wg or .core (R98, R237). -/
theorem l1Store_only (bs : List Byte) : s.l1Store core asid va bs sc = (none, { s with l1 := [line.written (s.cycleCount core) va bs] }) := by
  obtain ⟨hckp, -⟩ := hplain
  simp only [State.l1Store, l1Grant_only hl1 hat hwr, hckp, narrow_of_le hsc, Bool.false_eq_true, if_false, if_true,
    l1Fill_only hl1 hat hwr, updL1_only hl1 hat]
  rfl

/-- An atomic at .wg or .core (R241). -/
theorem gAtomic_only (hdram : homeOf (line.pa + va % 128) = .dram) (op : AtomOp) (ty : Ty) (b e : Nat) :
    s.gAtomic core asid va op ty b e sc = (.ok (leNat (line.bytesAt va (Ty.bytes ty))), { s with l1 := [line.written (s.cycleCount core) va
      (bytesOf (Ty.bytes ty) (atomNew op ty (leNat (line.bytesAt va (Ty.bytes ty))) b e))] }) := by
  obtain ⟨hckp, -⟩ := hplain
  have provided : (decide (homeOf (line.pa + va % 128) = .host) && !hostAtomic op ty) = false := by rw [hdram]; rfl
  simp only [State.gAtomic, l1Grant_only hl1 hat hwr, provided, beforeWrite_noCkp hckp, narrow_of_le hsc, Bool.false_eq_true, if_false, if_true,
    l1Fill_only hl1 hat hwr, l1at_only hl1 hat, updL1_only hl1 hat, L1Line.written, patch, length_bytesOf, Option.map_some, Option.getD_some]
end
end
end

end Sys2Proof.Machine
end

section
/-! O15, OperationsPerform: what each access gives where nothing is in its way, and the statement. -/

namespace Sys2Proof.Machine

/-! ## Values of reductions and atomics (R86, R241) -/

theorem redNode_add (ty : Ty) (x y : Nat) :
    (redNode ty .add .rn x y).1 = if ty.isFloat then (fAdd ty .rn 0 x y).1 else (x + y) % 2 ^ ty.width := apply_ite Prod.fst ..

theorem redNode_min (ty : Ty) (x y : Nat) : (redNode ty .min .rn x y).1 =
    if ty.isFloat then (fMinMax false ty x y).1 else (if intOf ty x ≤ intOf ty y then x else y) % 2 ^ ty.width := by
  simp only [redNode, apply_ite Prod.fst, apply_ite (· % 2 ^ ty.width)]

theorem redNode_max (ty : Ty) (x y : Nat) : (redNode ty .max .rn x y).1 =
    if ty.isFloat then (fMinMax true ty x y).1 else (if intOf ty x ≤ intOf ty y then y else x) % 2 ^ ty.width := by
  simp only [redNode, apply_ite Prod.fst, apply_ite (· % 2 ^ ty.width)]

/-! ## One lane's access outside transactions -/

section
variable {s s1 : State} {o : Op} {l : LaneAcc}

theorem txOf_outside (h : l.tx = false) : s.txOf l = none := by
  rw [State.txOf, h, if_neg Bool.false_ne_true]

/-- Outside transactions, and without checkpoints, nothing follows an access. -/
theorem afterAccess_outside {asid : Nat} (h : s.takesCkp asid = false) (core va uid : Nat) (sc : Scope) (write : Bool) :
    s.afterAccess core asid va none uid sc write = s := by
  rw [State.afterAccess, h]; rfl

theorem locRead_found {p : Nat × Bool × Nat} {w : Wg} (hw : s.wg? p.1 = some w) (n : Nat) :
    s.locRead p n = (if p.2.1 then mgets 0#8 w.obuf p.2.2 else mgets 0#8 w.spad p.2.2) n := by
  rw [State.locRead, hw, ite_apply]

theorem doLocal_at {p : Nat × Bool × Nat} (hloc : l.loc = some p) (f : Nat × Bool × Nat → State → List (Dst × List Word) × State) :
    s.doLocal l f = (.done (f p s).1, (f p s).2) := by
  rw [State.doLocal, hloc]

/-- A load that the L1 serves at its scope (R98). -/
theorem doLd_hit {line : L1Line} {sc : Scope} (htx : l.tx = false) (hckp : s.takesCkp o.asid = false)
    (hline : s.l1at o.core o.asid l.addr.toNat = some line) (hsc : Scope.num sc ≤ 1 ∨ Scope.num sc ≤ Scope.num line.sc) (d : Dst) (sz : Size) :
    s.doLd o l d false sc sz = (.done [(d, Size.load sz (line.bytesAt l.addr.toNat (Size.bytes sz)))], s) := by
  have serves : (Scope.narrow sc || decide (Scope.num line.sc ≥ Scope.num sc)) = true := by simpa [Scope.narrow] using hsc
  simp only [State.doLd, txOf_outside htx, State.l1Load, hline, serves, if_true, afterAccess_outside hckp, Bool.false_eq_true, if_false]

/-- A store whose release has nothing to write back. -/
theorem doSt_done (htx : l.tx = false) {rel : Bool} {sc : Scope} {sz : Size} (hrel : s.release o.core o.asid sc = s)
    (hst : s.l1Store o.core o.asid l.addr.toNat ((bytesOfWords l.data).take (Size.bytes sz)) sc = (none, s1)) (hckp : s1.takesCkp o.asid = false) :
    s.doSt o l rel sc sz = (.done [], s1) := by
  have same : txScope none sc = sc := rfl
  simp only [State.doSt, txOf_outside htx, hrel, ite_self, same, hst, afterAccess_outside hckp]

/-- An atomic whose release has nothing to write back, and whose acquire nothing to drop. -/
theorem doAtm_done (htx : l.tx = false) {op : AtomOp} {ty : Ty} {sc : Scope} {old : Nat} (hrel : s.release o.core o.asid sc = s)
    (hat : s.gAtomic o.core o.asid l.addr.toNat op ty l.val l.cmp.toNat sc = (.ok old, s1)) (hckp : s1.takesCkp o.asid = false)
    (hacq : s1.acquire o.core o.asid sc = s1) (d : Dst) (ord : Order) : s.doAtm o l d op ty sc ord = (.done [(d, tyWords ty old)], s1) := by
  have same : txScope none sc = sc := rfl
  simp only [State.doAtm, txOf_outside htx, hrel, ite_self, same, hat, afterAccess_outside hckp, hacq]

/-- A reduction that takes no part in a shadow. -/
theorem doRdm_done (htx : l.tx = false) {op : RedOp} {ty : Ty} {sc : Scope} {rel : Bool} (hrel : s.release o.core o.asid sc = s)
    (hred : s.gRdm o.core o.asid l.addr.toNat op ty l.val = (.ok none, s1)) (hckp : s1.takesCkp o.asid = false) :
    s.doRdm o l op ty sc rel = (.done [], s1) := by
  simp only [State.doRdm, State.offBunting, txOf_outside htx, hrel, ite_self, hred, State.countNoShadow, afterAccess_outside hckp, Option.isSome_none,
    Bool.false_and, Bool.false_eq_true, if_false]
end

/-! ## The operation performs -/

/-- The event at which an atomic performs does not matter. -/
theorem exec_performs (d : Dst) (n : Nat) (s : State) : exec (if d = .zero then .storePerform n else .loadReturn n) s = .next (s.performOp n) := by
  split <;> rfl

section
variable {s : State} {o : Op} {l : LaneAcc} {t : Thread} (now : s.performsNow o l t)
include now

/-- A load: its results are written, and the counter of loads falls. -/
theorem performOp_load {s1 : State} {d : Dst} {ws : List Word} (hcls : o.cls = .l) (hkind : Instr.writesGlobal o.instr = false)
    (hacc : s.doAccess o l = (.done [(d, ws)], s1)) (hops : s1.ops = s.ops) (hfound : s1.thr? l.uid = some t) :
    s.performOp o.id = s1.opDone o.id l.uid fun u => (({ u.wrWords d ws fun _ => .clean with cntL := u.cntL - 1 } : Thread)).trimLog := by
  rw [now.performs (accGate_open l (.inl hkind)) hacc hops hfound, hcls]
  simp only [takes_load]

/-- A write of global memory at its home. -/
theorem performOp_home {key : Nat} {bs : List Byte} {outs : List (Dst × List Word)} (hplain : s.plain o.asid)
    (hacc : s.doAccess o l = (.done outs, s.writtenHome o.asid key bs)) :
    s.performOp o.id = (s.writtenHome o.asid key bs).opDone o.id l.uid (·.takes outs o.cls) := by
  have hshadows := noShadows_of_plain hplain
  exact now.performs (accGate_open l (.inr (noCkp_of_plain hplain))) hacc (writtenHome_ops hshadows bs)
    (thr?_writtenHome hshadows now.found now.unparked bs)

section
variable {key : Nat} (hplain : s.plain o.asid) (htx : l.tx = false) (hl1 : s.l1 = [])
include hplain htx hl1

/-- ST at .clu and .dev. -/
theorem performOp_st_home {g : Pred} {v a : Src} {rel : Bool} {sc : Scope} {sz : Size} (hi : o.instr = .st g v a rel sc sz)
    (hwide : 2 ≤ Scope.num sc ∧ Scope.num sc ≤ 3) (hmap : s.maps (clusterOf o.core) o.asid l.addr.toNat .store key) :
    s.performOp o.id = (s.writtenHome o.asid key ((bytesOfWords l.data).take (Size.bytes sz))).opDone o.id l.uid (·.takes [] o.cls) := by
  obtain ⟨hnarrow, hwide⟩ := hwide
  refine performOp_home now hplain ?_
  rw [State.doAccess, hi]
  exact doSt_done htx (release_noLines hl1 (by omega)) (l1Store_home hplain hl1 hmap hnarrow _) (writtenHome_noCkp hplain _)

/-- ATM at .clu and .dev. -/
theorem performOp_atm_home {g : Pred} {d : Dst} {a b e : Src} {op : AtomOp} {ty : Ty} {sc : Scope} {ord : Order}
    (hi : o.instr = .atm g d a b op ty sc ord e) (hwide : 2 ≤ Scope.num sc ∧ Scope.num sc ≤ 3)
    (hmap : s.maps (clusterOf o.core) o.asid l.addr.toNat .atomic key) :
    s.performOp o.id = (s.writtenHome o.asid key (bytesOf (Ty.bytes ty)
      (atomNew op ty (leNat (mgets 0#8 s.mem key (Ty.bytes ty))) l.val l.cmp.toNat))).opDone o.id l.uid
        (·.takes [(d, tyWords ty (leNat (mgets 0#8 s.mem key (Ty.bytes ty))))] o.cls) := by
  obtain ⟨hnarrow, hwide⟩ := hwide
  refine performOp_home now hplain ?_
  rw [State.doAccess, hi]
  exact doAtm_done htx (release_noLines hl1 (by omega)) (gAtomic_home hplain hl1 hmap hnarrow ..) (writtenHome_noCkp hplain _)
    (acquire_noLines (writtenHome_noLines (noShadows_of_plain hplain) hl1 _) (by omega)) d ord

/-- RDM of one element. -/
theorem performOp_rdm_home {g : Pred} {a b : Src} {op : RedOp} {ty : Ty} {sc : Scope} {rel : Bool} (hi : o.instr = .rdm g a b op ty sc rel)
    (hsc : Scope.num sc ≤ 3) (hty : ty ∈ [Ty.i32, .n32, .i64, .n64, .f32]) (hmap : s.maps (clusterOf o.core) o.asid l.addr.toNat .atomic key) :
    s.performOp o.id = (s.writtenHome o.asid key (bytesOf (Ty.bytes ty)
      (redNode ty op .rn (leNat (mgets 0#8 s.mem key (Ty.bytes ty))) (l.val % 2 ^ ty.width)).1)).opDone o.id l.uid (·.takes [] o.cls) := by
  refine performOp_home now hplain ?_
  rw [State.doAccess, hi]
  exact doRdm_done htx (release_noLines hl1 (by omega)) (gRdm_home hplain hl1 hmap op hty _) (writtenHome_noCkp hplain _)
end

section
variable {line : L1Line} (hplain : s.plain o.asid) (htx : l.tx = false) (hl1 : s.l1 = [line]) (hat : line.isAt o.core o.asid l.addr.toNat = true)
  (hwr : line.wr = true)
include hplain htx hl1 hat hwr

/-- ST at .wg and .core. -/
theorem performOp_st_line {g : Pred} {v a : Src} {rel : Bool} {sc : Scope} {sz : Size} (hi : o.instr = .st g v a rel sc sz) (hsc : Scope.num sc ≤ 1) :
    s.performOp o.id = ({ s with l1 := [line.written (s.cycleCount o.core) l.addr.toNat
      ((bytesOfWords l.data).take (Size.bytes sz))] } : State).opDone o.id l.uid (·.takes [] o.cls) := by
  refine now.performs (accGate_open l (.inr (noCkp_of_plain hplain))) ?_ rfl now.found
  rw [State.doAccess, hi]
  exact doSt_done htx (release_narrow hsc) (l1Store_only hl1 hat hwr hplain hsc _) (noCkp_of_plain hplain)

/-- ATM at .wg and .core. -/
theorem performOp_atm_line {g : Pred} {d : Dst} {a b e : Src} {op : AtomOp} {ty : Ty} {sc : Scope} {ord : Order}
    (hi : o.instr = .atm g d a b op ty sc ord e) (hsc : Scope.num sc ≤ 1) (hdram : homeOf (line.pa + l.addr.toNat % 128) = .dram) :
    s.performOp o.id = ({ s with l1 := [line.written (s.cycleCount o.core) l.addr.toNat (bytesOf (Ty.bytes ty)
      (atomNew op ty (leNat (line.bytesAt l.addr.toNat (Ty.bytes ty))) l.val l.cmp.toNat))] } : State).opDone o.id l.uid
        (·.takes [(d, tyWords ty (leNat (line.bytesAt l.addr.toNat (Ty.bytes ty))))] o.cls) := by
  refine now.performs (accGate_open l (.inr (noCkp_of_plain hplain))) ?_ rfl now.found
  rw [State.doAccess, hi]
  exact doAtm_done htx (release_narrow hsc) (gAtomic_only hl1 hat hwr hplain hsc hdram ..) (noCkp_of_plain hplain) (acquire_narrow hsc) d ord
end
end

/-- Settles O15: an operation of one lane that waits for nothing makes its access at once; the access is made in the local space, in a line of the L1,
or at the home in DRAM, by the lemma about each. -/
theorem operationsPerform : Obligations.OperationsPerform := by
  unfold Obligations.OperationsPerform
  intro s o l t w p hlanes hothers hin _ hfault hheld hready hpois ht hpark hwg hres done bytes
  have now : s.performsNow o l t := ⟨hlanes, hothers, hin, hfault, hheld, hready, hpois, ht, hpark, onCore_of_resident ht hwg hres⟩
  refine ⟨?lsp, ?ssp, ?ld, ?writes, ?rtri⟩
  case lsp =>
    intro g d a sz hi hcls hloc _ hw
    have acc : s.doAccess o l = (.done [(d, Size.load sz (bytes (Size.bytes sz)))], s) := by
      rw [State.doAccess, hi]
      simp only [doLocal_at hloc, locRead_found hw]
      rfl
    exact congrArg _ (performOp_load now hcls (by rw [hi]; rfl) acc rfl ht)
  case ssp =>
    intro g v a sz hi hcls hloc hid _
    have acc : s.doAccess o l = (.done [], s.locWrite p ((bytesOfWords l.data).take (Size.bytes sz))) := by
      rw [State.doAccess, hi]
      simp only [doLocal_at hloc]
    refine congrArg _ ((now.performs (accGate_open l (.inl (by rw [hi]; rfl))) acc rfl ht).trans ?_)
    rw [hcls, State.locWrite, hid]
    rfl
  case ld =>
    intro g d a sc sz line hi hcls htx hckp hline hsc
    have acc : s.doAccess o l = (.done [(d, Size.load sz (line.bytesAt l.addr.toNat (Size.bytes sz)))], s) := by
      rw [State.doAccess, hi]
      exact doLd_hit htx hckp hline hsc d sz
    exact congrArg _ (performOp_load now hcls (by rw [hi]; rfl) acc rfl ht)
  case writes =>
    intro red atom val cmp va regs answered performs atHome inL1 wide
    have hred : ∀ op ty x y, red op ty x y = (redNode ty op .rn x y).1 := fun op ty x y => by
      cases op with
      | add => exact (redNode_add ty x y).symm
      | min => exact (redNode_min ty x y).symm
      | max => exact (redNode_max ty x y).symm
      | and | or | xor => rfl
    have hatom : ∀ op ty x y z, atom op ty x y z = atomNew op ty x y z := fun op ty x y z => by
      cases op with
      | add => exact hred .add ty x y
      | min => exact hred .min ty x y
      | max => exact hred .max ty x y
      | and | or | xor | xchg | cas => rfl
    refine ⟨?atms, ?home, ?line⟩
    case atms =>
      intro g d a b op ty e hi _ hloc hid hw old bs
      have acc : s.doAccess o l = (.done [(d, tyWords ty old)], s.locWrite p bs) := by
        rw [State.doAccess, hi]
        simp only [doLocal_at hloc, locRead_found hw, bs, hatom]
        rfl
      refine (exec_performs d o.id s).trans (congrArg _ ((now.performs (accGate_open l (.inl (by rw [hi]; rfl))) acc rfl ht).trans ?_))
      rw [State.locWrite, hid]
      rfl
    case home =>
      intro key hplain htx hl1
      refine ⟨?st, ?atm, ?rdm⟩
      case st =>
        intro g v a rel sc sz hi hcls hsc hmap
        refine congrArg _ ((performOp_st_home now hplain htx hl1 hi hsc hmap).trans ?_)
        rw [hcls]
        rfl
      case atm =>
        intro g d a b op ty sc ord e hi _ hsc hmap old
        refine (exec_performs d o.id s).trans (congrArg _ ((performOp_atm_home now hplain htx hl1 hi hsc hmap).trans ?_))
        rw [hatom]
        rfl
      case rdm =>
        intro g a b op ty sc rel hi hcls hsc hty hmap
        refine congrArg _ ((performOp_rdm_home now hplain htx hl1 hi hsc hty hmap).trans ?_)
        rw [hcls, hred]
        rfl
    case line =>
      intro line hplain htx hl1 hat hwr hdram
      refine ⟨?st, ?atm⟩
      case st =>
        intro g v a rel sc sz hi hcls hsc
        refine congrArg _ ((performOp_st_line now hplain htx hl1 hat hwr hi hsc).trans ?_)
        rw [hcls]
        rfl
      case atm =>
        intro g d a b op ty sc ord e hi _ hsc old
        refine (exec_performs d o.id s).trans (congrArg _ ((performOp_atm_line now hplain htx hl1 hat hwr hi hsc hdram).trans ?_))
        rw [hatom]
        rfl
  case rtri =>
    intro g d a b cull out hi hcls hacc
    refine congrArg _ ((now.performs (accGate_open l (.inl (by rw [hi]; rfl))) hacc rfl ht).trans ?_)
    rw [hcls]
    simp only [takes_test]
    rfl

end Sys2Proof.Machine
end

section
/-! SUPPORT. Laws of local accesses at issue (R91 to R93, R238): the checks of an address, and an operation of lanes among which there are helper lanes. -/

namespace Sys2Proof.Machine

/-! ## The checks of a local address (R89, R91) -/

section
variable {s : State} {w : Wg} {t : Thread} {l : LaneAcc} {n : Nat} {atms : Bool}

theorem localPlace_barred {addr : Nat} (he : isEnsign w.core = true) (hw : inWindow addr = true) : s.localPlace w addr n atms = .error 1 := by
  simp only [inWindow, Bool.or_eq_true, Bool.and_eq_true, decide_eq_true_eq] at hw
  rcases hw with ⟨hlo, hhi⟩ | ⟨hlo, hhi⟩
  · have above : ¬addr < 0x60000 := by omega
    simp only [State.localPlace, above, if_false, decide_eq_true hlo, decide_eq_true hhi, Bool.and_self, if_true, he]
  · have above : ¬addr < 0x60000 := by omega
    have past : ¬addr < 0x800000 := by omega
    simp only [State.localPlace, above, if_false, decide_eq_false past, Bool.and_false, Bool.false_eq_true, decide_eq_true hlo, decide_eq_true hhi,
      Bool.and_self, if_true, he]

/-- An address that lies somewhere, or whose trap is not that of a window on an ensign core, is in no such window. -/
theorem unbarred_of_place {addr : Nat} (h : s.localPlace w addr n atms ≠ .error 1) : (isEnsign w.core && inWindow addr) = false := by
  by_contra hb
  rw [Bool.not_eq_false, Bool.and_eq_true] at hb
  obtain ⟨he, hw⟩ := hb
  exact h (localPlace_barred he hw)

theorem coreOf_found (hw : s.wg? t.wg = some w) : s.coreOf t.wg = w.core := by rw [State.coreOf, hw]; rfl

theorem localChk_barred (hw : s.wg? t.wg = some w) (hb : (isEnsign w.core && inWindow l.addr.toNat) = true) : s.localChk n atms t l = .trap 1 0 := by
  rw [State.localChk, coreOf_found hw, if_pos hb]

theorem localChk_misaligned (hw : s.wg? t.wg = some w) (hb : (isEnsign w.core && inWindow l.addr.toNat) = false) (ha : l.addr.toNat % n ≠ 0) :
    s.localChk n atms t l = .trap 6 l.addr := by
  rw [State.localChk, coreOf_found hw, if_neg (by simp [hb]), if_pos (by simpa using ha)]

theorem localChk_place {p : Nat × Bool × Nat} (hw : s.wg? t.wg = some w) (ha : l.addr.toNat % n = 0)
    (hp : s.localPlace w l.addr.toNat n atms = .ok p) : s.localChk n atms t l = .go { l with loc := some p } := by
  have open' : s.localPlace w l.addr.toNat n atms ≠ .error 1 := by rw [hp]; exact nofun
  rw [State.localChk, coreOf_found hw, if_neg (by simp [unbarred_of_place open']), if_neg (by simp [ha])]
  simp only [hw, hp]

/-- An aligned address in no window that is barred, and at no place, traps with the cause that the local space says. -/
theorem localChk_noPlace {c : Nat} (hw : s.wg? t.wg = some w) (ha : l.addr.toNat % n = 0) (hp : s.localPlace w l.addr.toNat n atms = .error c)
    (hc : c ≠ 1) : s.localChk n atms t l = .trap c (if c = 8 then l.addr else 0) := by
  have open' : s.localPlace w l.addr.toNat n atms ≠ .error 1 := by rw [hp]; exact fun h => hc (Except.error.inj h)
  rw [State.localChk, coreOf_found hw, if_neg (by simp [unbarred_of_place open']), if_neg (by simp [ha])]
  simp only [hw, hp]
end

/-! ## Operations with helper lanes (R138) -/

theorem helperZero_eq {s : State} (h : s.apart) (g : Pred) (d : Dst) (w : Bool) :
    s.helperZero g d w = s.inThreads ((s.acting g).filter (·.helper)) fun _ u => (u.wrW w d 0).trimLog :=
  over_updThr ((List.Sublist.map _ List.filter_sublist).nodup (acting_nodup h g)) s fun _ u => by simp

/-- The helper lanes take 0, and the others issue the operation together. -/
theorem helperZero_memIssue {s : State} {g : Pred} {d : Dst} {w : Bool} {i : Instr} {cls : OpClass} {os : List Opnd} {done : Nat → Instr}
    {mk : State → Thread → LaneDo} {acc : Thread → LaneAcc} (hs : s.apart) (hready : s.ready (s.realLanes g) os cls)
    (hmk : ∀ t ∈ s.realLanes g, ∀ xs, mk (s.withThreads xs) t = .go (acc t)) (hplain : ∀ t ∈ s.realLanes g, (acc t).tx = true → t.st.irrev = true) :
    (s.helperZero g d w).memIssue (s.realLanes g) i cls os done mk =
      (s.inLanes g fun t u => if t.helper then (u.wrW w d 0).trimLog else u.raiseCnt cls).withOp i cls done ((s.realLanes g).map acc) := by
  have both := inThreads_filter (f := fun _ u => (u.wrW w d 0).trimLog) (h := fun _ u => u.raiseCnt cls) (acting_nodup hs g) s (·.helper)
    fun _ u => by simp
  have issue := memIssue_joins (s := s.helperZero g d w) (i := i) (done := done) (realLanes_nodup hs g) hready
    (fun t ht xs => by rw [helperZero_eq hs]; exact hmk t ht xs) hplain
  rw [issue, State.opIssues, helperZero_eq hs]
  exact congrArg (State.withOp · i cls done _) both

end Sys2Proof.Machine
end

section
/-! O13, LocalAccesses: each instruction in lanes whose addresses lie in the local space, the local space of an array core, and the statement. -/

namespace Sys2Proof.Machine

section
variable {s : State} {g : Pred} {d : Dst} {v a b e : Src}

theorem exec_lsp {sz : Size} (hi : s.issueCause (.lsp g d a sz) = none) : exec (.lsp g d a sz) s =
    .next (s.memIssue (s.acting g) (.lsp g d a sz) .l [.s a] .loadReturn fun s t =>
      s.localChk (Size.bytes sz) false t (s.laneAt t ((s.src t a).setWidth 64))) :=
  exec_body (by rfl) hi

theorem exec_ssp {sz : Size} (hi : s.issueCause (.ssp g v a sz) = none) : exec (.ssp g v a sz) s =
    .next (s.memIssue (s.realLanes g) (.ssp g v a sz) .s [.s a, Size.src sz v] .storePerform fun s t =>
      s.localChk (Size.bytes sz) false t { s.laneAt t ((s.src t a).setWidth 64) with data := s.srcWords t (Size.src sz v) }) :=
  exec_body (by rfl) hi

theorem exec_atms {op : AtomOp} {ty : Ty} (hi : s.issueCause (.atms g d a b op ty e) = none) : exec (.atms g d a b op ty e) s =
    .next ((s.helperZero g d ty.wide).memIssue (s.realLanes g) (.atms g d a b op ty e) (atomCls d) (atomOpnds (.s a) op ty b e) (atomDone d) fun s t =>
      s.localChk (Ty.bytes ty) true t (s.atomVals t (s.laneAt t ((s.src t a).setWidth 64)) op ty b e)) :=
  exec_body (by rfl) hi

/-- A lane at a place of the local space makes a good access, whatever the other lanes have done. -/
theorem localChk_placed {t : Thread} {n : Nat} {atms : Bool} {l : LaneAcc} {p : Nat × Bool × Nat} (hl : l.addr = (s.src t a).setWidth 64)
    (h : (s.src t a).toNat % n = 0 ∧ ∃ w, s.wg? t.wg = some w ∧ s.localPlace w (s.src t a).toNat n atms = .ok p) (xs : List Thread) :
    (s.withThreads xs).localChk n atms t l = .go { l with loc := some p } := by
  obtain ⟨halign, w, hw, hp⟩ := h
  have addr : l.addr.toNat = (s.src t a).toNat := by rw [hl, toNat_setWidth64]
  exact localChk_place (s := s.withThreads xs) hw (addr ▸ halign) (by rw [addr]; exact hp)
end

/-- Settles O13: lanes at places of the local space join one operation; and where the addresses of an array core's own scratchpad and those between
the windows lie. -/
theorem localAccesses : Obligations.LocalAccesses := by
  unfold Obligations.LocalAccesses
  refine ⟨?issue, ?space⟩
  case issue =>
    intro s g d v a b e place act real addr at' placed
    refine ⟨?lsp, ?ssp, ?atms⟩
    case lsp =>
      intro sz i hi hready hplaced
      exact exec_joins (exec_lsp hi.1) (acting_nodup hi.2 g) hready (fun t ht xs => localChk_placed rfl (hplaced t ht) xs) fun _ _ h => nomatch h
    case ssp =>
      intro sz i hi hready hplaced
      exact exec_joins (exec_ssp hi.1) (realLanes_nodup hi.2 g) hready (fun t ht xs => localChk_placed rfl (hplaced t ht) xs) fun _ _ h => nomatch h
    case atms =>
      intro op ty i cls done os hi hready hplaced
      exact (exec_atms hi.1).trans (congrArg _ (helperZero_memIssue hi.2 hready (fun t ht xs => localChk_placed rfl (hplaced t ht) xs)
        fun _ _ h => nomatch h))
  case space =>
    intro s w l addr n atms hl size
    have own : (((s.launch? w.launch).map (·.spadSize)).getD 0) = size := by rw [hl]; rfl
    refine ⟨?inside, ?past, ?low, ?between, ?high⟩
    case inside =>
      intro hlow hfits
      simp only [State.localPlace, hlow, own, hfits, if_true]
    case past =>
      intro hlow hpast
      have outside : ¬addr + n ≤ size := by omega
      simp only [State.localPlace, hlow, own, outside, if_true, if_false]
    case low | between | high =>
      intros
      unfold State.localPlace
      dsimp only
      rw [if_neg (by omega), if_neg (by simp; omega), if_neg (by simp; omega)]

end Sys2Proof.Machine
end

section
/-! O14, AddressTraps: a lane whose address is bad traps at issue, and the statement. -/

namespace Sys2Proof.Machine

/-! ## One lane that traps at issue -/

section
variable {s : State} {t : Thread} {i : Instr} {cls : OpClass} {os : List Opnd} {done : Nat → Instr} {mk : State → Thread → LaneDo} {g : Pred}
  {entry : DWord}

theorem issueLane_trap {o : Op} {ls : List LaneAcc} {c : Nat} {x : DWord} (hpois : os.any t.opPois = false) (hmk : mk s t = .trap c x) :
    issueLane os mk o (s, ls) t = (s.trapHere t.uid c 0 x, ls) := by
  unfold issueLane
  rw [hpois, hmk]
  dsimp only
  split <;> simp_all

theorem memIssue_trap {c : Nat} {x : DWord} (hpois : os.any t.opPois = false) (hmk : mk s t = .trap c x) :
    s.memIssue [t] i cls os done mk = s.trapHere t.uid c 0 x := by
  rw [memIssue_eq, List.foldl_cons, List.foldl_nil, issueLane_trap hpois hmk]
  rfl

/-- The one lane of an instruction that issues an operation traps at this chain, and no operation goes into flight (R89, R91). -/
theorem exec_laneTraps {ts : List Thread} {c : Nat} {x : DWord} (hexec : exec i s = .next (s.memIssue ts i cls os done mk)) (hts : ts = [t])
    (hpois : os.any t.opPois = false) (ht : s.thr? t.uid = some t) (hmay : s.mayTrap t entry) (hmk : mk s t = .trap c x) :
    exec i s = .next (s.trapsHere t entry c 0 x) := by
  rw [hexec, hts, memIssue_trap hpois hmk, trapHere_mayTrap ht hmay]

/-! ## Global addresses (R89) -/

theorem globalChk_misaligned {n : Nat} {sc : Scope} {l : LaneAcc} (h : l.addr.toNat % n ≠ 0) : globalChk n sc t l = .trap 6 l.addr := by
  rw [globalChk, if_pos (by simpa using h)]

theorem globalChk_beyond {n : Nat} {sc : Scope} {l : LaneAcc} (h : l.addr.toNat % n = 0) (h' : 2 ^ 52 ≤ l.addr.toNat) :
    globalChk n sc t l = .trap 7 l.addr := by
  rw [globalChk, if_neg (by simp [h]), if_pos h']

/-- What a bad global address brings about. -/
def State.badGlobal (s : State) (i : Instr) (t : Thread) (entry : DWord) (n : Nat) (x : DWord) : Prop :=
  (x.toNat % n ≠ 0 → exec i s = .next (s.trapsHere t entry 6 0 x))
  ∧ (x.toNat % n = 0 → 2 ^ 52 ≤ x.toNat → exec i s = .next (s.trapsHere t entry 7 0 x))

theorem badGlobal_operation {ts : List Thread} {n : Nat} {sc : Scope} {l : LaneAcc} (hexec : exec i s = .next (s.memIssue ts i cls os done mk))
    (hts : ts = [t]) (hpois : os.any t.opPois = false) (ht : s.thr? t.uid = some t) (hmay : s.mayTrap t entry)
    (hmk : mk s t = globalChk n sc t l) : s.badGlobal i t entry n l.addr :=
  ⟨fun h => exec_laneTraps hexec hts hpois ht hmay (hmk.trans (globalChk_misaligned h)),
    fun h h' => exec_laneTraps hexec hts hpois ht hmay (hmk.trans (globalChk_beyond h h'))⟩

/-- A wait on memory checks its address before it looks at the thread's accesses (R246, R269). -/
theorem badGlobal_wait {os : List Opnd} {n : Nat} {x : DWord} {start : State → State} (h : s.alone i g t) (hpois : os.any t.opPois = false)
    (hmay : s.mayTrap t entry) (htx : t.tx = none) {f : State → Thread → State} (hexec : exec i s = issued i s fun s => s.consuming g os f)
    (hf : f s t = s.waitIssue t x n start) : s.badGlobal i t entry n x := by
  have wait : exec i s = .next (s.waitIssue t x n start) := by rw [exec_body hexec h.issues, consuming_one h.acts hpois, hf]
  refine ⟨fun halign => ?_, fun halign hrange => ?_⟩
  · rw [wait, State.waitIssue, htx, if_neg (by simp), if_pos (by simpa using halign), trapHere_mayTrap h.found hmay]
  · rw [wait, State.waitIssue, htx, if_neg (by simp), if_neg (by simp [halign]), if_pos hrange, trapHere_mayTrap h.found hmay]

/-! ## Local addresses (R91, R93) -/

/-- What a bad local address brings about. -/
def State.badLocal (s : State) (i : Instr) (t : Thread) (entry : DWord) (w : Wg) (n : Nat) (atms : Bool) (a : Word) : Prop :=
  ((isEnsign w.core && inWindow a.toNat) = true → exec i s = .next (s.trapsHere t entry 1 0 0))
  ∧ ((isEnsign w.core && inWindow a.toNat) = false → a.toNat % n ≠ 0 → exec i s = .next (s.trapsHere t entry 6 0 (a.setWidth 64)))
  ∧ (a.toNat % n = 0 → s.localPlace w a.toNat n atms = .error 8 → exec i s = .next (s.trapsHere t entry 8 0 (a.setWidth 64)))
  ∧ (a.toNat % n = 0 → s.localPlace w a.toNat n atms = .error 9 → exec i s = .next (s.trapsHere t entry 9 0 0))

theorem badLocal_operation {ts : List Thread} {w : Wg} {n : Nat} {atms : Bool} {a : Word} {l : LaneAcc}
    (hexec : exec i s = .next (s.memIssue ts i cls os done mk)) (hts : ts = [t]) (hpois : os.any t.opPois = false) (ht : s.thr? t.uid = some t)
    (hmay : s.mayTrap t entry) (hw : s.wg? t.wg = some w) (hmk : mk s t = s.localChk n atms t l) (hl : l.addr = a.setWidth 64) :
    s.badLocal i t entry w n atms a := by
  have addr : l.addr.toNat = a.toNat := by rw [hl, toNat_setWidth64]
  have traps : ∀ {c x}, s.localChk n atms t l = .trap c x → exec i s = .next (s.trapsHere t entry c 0 x) := fun h =>
    exec_laneTraps hexec hts hpois ht hmay (hmk.trans h)
  rw [State.badLocal, ← addr, ← hl]
  refine ⟨fun hb => ?_, fun hb halign => ?_, fun halign hp => ?_, fun halign hp => ?_⟩
  · exact traps (localChk_barred hw hb)
  · exact traps (localChk_misaligned hw hb halign)
  · exact traps (localChk_noPlace hw halign hp (by decide))
  · exact traps (localChk_noPlace hw halign hp (by decide))
end

/-! ## Atomics of a lane that is no helper -/

section
variable {s : State} {g : Pred} {t : Thread}

theorem helperZero_one (h : s.acting g = [t]) (hh : t.helper = false) (d : Dst) (w : Bool) : s.helperZero g d w = s := by
  rw [State.helperZero, h, List.filter_cons_of_neg (by simp [hh])]
  rfl

theorem exec_atm_one {d : Dst} {a b e : Src} {op : AtomOp} {ty : Ty} {sc : Scope} {ord : Order} (h : s.alone (.atm g d a b op ty sc ord e) g t)
    (hh : t.helper = false) : exec (.atm g d a b op ty sc ord e) s =
      .next (s.memIssue [t] (.atm g d a b op ty sc ord e) (atomCls d) (atomOpnds (.s2 a) op ty b e) (atomDone d) fun s t =>
        globalChk (Ty.bytes ty) sc t (s.atomVals t (s.accAt t a) op ty b e)) := by
  have issue : exec (.atm g d a b op ty sc ord e) s = .next ((s.helperZero g d ty.wide).memIssue (s.realLanes g) (.atm g d a b op ty sc ord e)
      (atomCls d) (atomOpnds (.s2 a) op ty b e) (atomDone d) fun s t => globalChk (Ty.bytes ty) sc t (s.atomVals t (s.accAt t a) op ty b e)) :=
    exec_body (by rfl) h.issues
  rw [issue, helperZero_one h.acts hh, realLanes_one h.acts hh]

theorem exec_atms_one {d : Dst} {a b e : Src} {op : AtomOp} {ty : Ty} (h : s.alone (.atms g d a b op ty e) g t)
    (hh : t.helper = false) : exec (.atms g d a b op ty e) s =
      .next (s.memIssue [t] (.atms g d a b op ty e) (atomCls d) (atomOpnds (.s a) op ty b e) (atomDone d) fun s t =>
        s.localChk (Ty.bytes ty) true t (s.atomVals t (s.laneAt t ((s.src t a).setWidth 64)) op ty b e)) := by
  rw [exec_atms h.issues, helperZero_one h.acts hh, realLanes_one h.acts hh]
end

/-- Settles O14: the one lane of each access traps with the cause of its address, whatever else the access would do. -/
theorem addressTraps : Obligations.AddressTraps := by
  unfold Obligations.AddressTraps
  intro s g t d v a b e entry hmay
  refine ⟨?wide, ?near⟩
  case wide =>
    intro acq rel sc sz op rop ty ord cull forms
    refine ⟨?operations, ?waits⟩
    case operations =>
      simp only [forms, List.forall_mem_cons, List.not_mem_nil, false_implies, implies_true, and_true]
      refine ⟨?ld, ?st, ?atm, ?rdm, ?vbmin, ?cpltest, ?rbox, ?rtri⟩
      case ld => exact fun h hpois _ => badGlobal_operation (exec_ld h.issues) h.acts hpois h.found hmay rfl
      case st => exact fun h hpois hh => badGlobal_operation (exec_st h.issues) (realLanes_one h.acts (hh trivial)) hpois h.found hmay rfl
      case atm => exact fun h hpois hh => badGlobal_operation (exec_atm_one h (hh trivial)) rfl hpois h.found hmay rfl
      case rdm => exact fun h hpois hh => badGlobal_operation (exec_rdm h.issues) (realLanes_one h.acts (hh trivial)) hpois h.found hmay rfl
      case vbmin => exact fun h hpois hh => badGlobal_operation (exec_vbmin h.issues) (realLanes_one h.acts (hh trivial)) hpois h.found hmay rfl
      case cpltest => exact fun h hpois _ => badGlobal_operation (exec_cpltest h.issues) h.acts hpois h.found hmay rfl
      case rbox => exact fun h hpois _ => badGlobal_operation (exec_rbox h.issues) h.acts hpois h.found hmay rfl
      case rtri => exact fun h hpois _ => badGlobal_operation (exec_rtri h.issues) h.acts hpois h.found hmay rfl
    case waits =>
      simp only [List.forall_mem_cons, List.not_mem_nil, false_implies, implies_true, and_true]
      refine ⟨?monwait, ?cplwait⟩
      case monwait => exact fun h hpois htx => badGlobal_wait h hpois hmay htx (by rfl) rfl
      case cplwait => exact fun h hpois htx => badGlobal_wait h hpois hmay htx (by rfl) rfl
  case near =>
    intro sz op ty w hw forms
    simp only [forms, List.forall_mem_cons, List.not_mem_nil, false_implies, implies_true, and_true]
    refine ⟨?lsp, ?ssp, ?atms⟩
    case lsp => exact fun h hpois _ => badLocal_operation (exec_lsp h.issues) h.acts hpois h.found hmay hw rfl rfl
    case ssp => exact fun h hpois hh => badLocal_operation (exec_ssp h.issues) (realLanes_one h.acts (hh trivial)) hpois h.found hmay hw rfl rfl
    case atms => exact fun h hpois hh => badLocal_operation (exec_atms_one h (hh trivial)) rfl hpois h.found hmay hw rfl rfl

end Sys2Proof.Machine
end

section
/-! O17, TransactionResults: transactions that open, close, are validated and abort in one lane, and the statement. -/

namespace Sys2Proof.Machine

/-! ## Opening (R116, R247) -/

section
variable {s : State} {g : Pred} {t : Thread} {off : BitVec 21}

/-- A thread whose transaction has opened. -/
def Thread.openTx (target : DWord) (irrev : Bool) (t : Thread) : Thread :=
  { t with tx := some ⟨target, [], []⟩, st := { t.st with intx := true, irrev := irrev } }

theorem txbegin_one (h : s.alone (.txbegin g off) g t) (htx : t.tx = none) : exec (.txbegin g off) s =
    .next (if t.st.conflicts = 8 then
      (if s.tokens.any (·.1 == feOf s.issAsid) then s.retry t.uid
       else { s.updThr t.uid (Thread.openTx (s.target off.toInt) true) with tokens := s.tokens ++ [(feOf s.issAsid, t.uid)] })
      else s.updThr t.uid (Thread.openTx (s.target off.toInt) false)) := by
  change execTxbegin g off s = _
  rw [execTxbegin, issued_body h.issues, eachLane_one h.acts, htx]
  rfl

theorem txbegin_revocable (h : s.alone (.txbegin g off) g t) (htx : t.tx = none) (hc : t.st.conflicts ≠ 8) :
    exec (.txbegin g off) s = .next (s.updThr t.uid (Thread.openTx (s.target off.toInt) false)) := by
  rw [txbegin_one h htx, if_neg hc]

theorem txbegin_takesToken (h : s.alone (.txbegin g off) g t) (htx : t.tx = none) (hc : t.st.conflicts = 8)
    (hfree : ∀ p ∈ s.tokens, p.1 ≠ s.issAsid / 64) : exec (.txbegin g off) s =
      .next { s.updThr t.uid (Thread.openTx (s.target off.toInt) true) with tokens := s.tokens ++ [(s.issAsid / 64, t.uid)] } := by
  have free : s.tokens.any (·.1 == feOf s.issAsid) = false := List.any_eq_false.mpr fun p hp => by simpa [feOf] using hfree p hp
  rw [txbegin_one h htx, if_pos hc, free, if_neg Bool.false_ne_true]
  rfl

theorem txbegin_waits (h : s.alone (.txbegin g off) g t) (htx : t.tx = none) (hc : t.st.conflicts = 8)
    (htaken : ∃ p ∈ s.tokens, p.1 = s.issAsid / 64) : exec (.txbegin g off) s = .next (s.retry t.uid) := by
  obtain ⟨p, hp, hfe⟩ := htaken
  have taken : s.tokens.any (·.1 == feOf s.issAsid) = true := List.any_eq_true.mpr ⟨p, hp, by simpa [feOf] using hfe⟩
  rw [txbegin_one h htx, if_pos hc, if_pos taken]
end

/-! ## TXEND (R114, R116, R250) -/

section
variable {s : State} {g : Pred} {t : Thread} {x : Tx}

theorem txLoading_of_ops {n : Nat} (h : ∀ o ∈ s.ops, ∀ l ∈ o.lanes, l.uid ≠ n) : s.txLoading n = false := by
  simp only [State.txLoading, List.any_eq_false, Bool.and_eq_true, not_and, Bool.not_eq_true]
  exact fun o ho _ l hl => by simp [h o ho l hl]

section
variable (h : s.alone (.txend g) g t) (hx : t.tx = some x) (hcalm : ∀ o ∈ s.ops, ∀ l ∈ o.lanes, l.uid ≠ t.uid)
include h hx hcalm

/-- The transaction of one lane has no lower lane to conflict with: it waits for its validation. -/
theorem txend_revocable (hrev : t.st.irrev = false) : exec (.txend g) s =
    .next ((s.updThr t.uid fun u => { u with park := some .txend }).post (.txValidation t.uid)) := by
  change execTxend g s = _
  rw [execTxend, issued_body h.issues, h.acts, List.foldl_cons, List.foldl_nil]
  simp only [hx, txLoading_of_ops hcalm, hrev, Bool.false_and, Bool.or_self, Bool.false_eq_true, if_false, List.any_nil]

theorem txend_irrevocable (hirrev : t.st.irrev = true) : exec (.txend g) s =
    .next { ((s.release s.iss.core s.issAsid .dev).acquire s.iss.core s.issAsid .dev).updThr t.uid (·.closeTx) with
      tokens := ((s.release s.iss.core s.issAsid .dev).acquire s.iss.core s.issAsid .dev).tokens.filter fun p => p.2 != t.uid } := by
  change execTxend g s = _
  rw [execTxend, issued_body h.issues, h.acts, List.foldl_cons, List.foldl_nil]
  simp only [hx, txLoading_of_ops hcalm, hirrev, drained_of_ops hcalm, Bool.not_true, Bool.and_false, Bool.or_self, Bool.false_eq_true, if_false, if_true]
end
end

/-! ## The commit (R114) -/

section
variable {s : State} {core asid : Nat}

/-- Operations that leave the registers alone in a context without checkpoints, one after another. -/
theorem over_regs_noCkp {β : Type} {f : State → β → State} (hf : ∀ s x, s.takesCkp asid = false → (f s x).regs = s.regs) :
    ∀ (xs : List β) (s : State), s.takesCkp asid = false → (s.over xs f).regs = s.regs
  | [], _, _ => rfl
  | x :: xs, s, h => by
      have first := hf s x h
      exact (over_regs_noCkp hf xs (f s x) ((takesCkp_congr first asid).trans h)).trans first

theorem txCommit_regs (h : s.takesCkp asid = false) (x : Tx) : (s.txCommit core asid x).regs = s.regs := by
  have released := (keeps_release s core asid .dev).regs
  refine ((keeps_acquire _ core asid .dev).regs.trans ?_).trans released
  refine over_regs_noCkp (asid := asid) (fun s w hs => ?_) x.writes _ ((takesCkp_congr released asid).trans h)
  rw [beforeWrite_noCkp hs]
  exact (KeepsHome.over _ (fun s r => keeps_homeWrite s asid _ _ _ _) _ s).regs

theorem undoGate_noCkp (h : s.takesCkp asid = false) (cluster va : Nat) (line : List Byte) (redo : Instr) :
    s.undoGate cluster asid va line redo = (true, s) := by
  have noted : s.undoTry cluster asid va line = .ok s := by rw [State.undoTry, h]; rfl
  rw [State.undoGate, noted]

theorem txGate_noCkp (h : s.takesCkp asid = false) (redo : Instr) : ∀ ws, s.txGate core asid redo ws = (true, s)
  | [] => rfl
  | w :: ws => by
      rw [State.txGate, undoGate_noCkp h]
      exact txGate_noCkp h redo ws

theorem txCommit_empty (hl1 : s.l1 = []) {x : Tx} (hw : x.writes = []) : s.txCommit core asid x = s := by
  rw [State.txCommit, release_noLines hl1 (by decide), hw]
  exact acquire_noLines hl1 (by decide)
end

/-! ## The validation (R114 to R116, R250) -/

section
variable {s : State} {t : Thread} {x : Tx}

theorem lockedLines_noIrrev {n : Nat} (h : ∀ u ∈ s.threads, u.uid ≠ n → u.st.irrev = false) : s.lockedLines n = [] := by
  have none' : (s.threads.filter fun t => t.uid != n && t.st.irrev) = [] := List.filter_eq_nil_iff.mpr fun u hu hb => by
    simp only [Bool.and_eq_true, bne_iff_ne] at hb
    obtain ⟨hne, hirrev⟩ := hb
    exact absurd (h u hu hne) (by simp [hirrev])
  rw [State.lockedLines, none']
  rfl

theorem noneLocked {n : Nat} (h : ∀ u ∈ s.threads, u.uid ≠ n → u.st.irrev = false) (ls : List TxLine) :
    (ls.any fun l => (s.lockedLines n).contains l.pa) = false := by
  rw [lockedLines_noIrrev h]
  exact List.any_eq_false.mpr fun _ _ => by simp

theorem abortTx_noOps (h : s.ops = []) (n c : Nat) : s.abortTx n c = s.updThr n (·.abortTx c) := by
  have same : ({ s with ops := [] } : State) = s := by rw [← h]
  simp only [State.abortTx, h, List.filter_nil, List.map_nil, State.over, List.foldl_nil, same]
  exact unhold_self (by simp [h])

section
variable (ht : s.thr? t.uid = some t) (hx : t.tx = some x) (hpark : t.park = some .txend)
  (hothers : ∀ u ∈ s.threads, u.uid ≠ t.uid → u.st.irrev = false)
include ht hx hpark hothers

theorem txOutcome_commits {s1 : State} (hvalid : s.txValid (s.asidOf t.wg) x.reads = (true, s1))
    (hgate : s1.txGate (s.coreOf t.wg) (s.asidOf t.wg) (.txValidation t.uid) x.writes = (true, s1)) :
    s.txOutcome t.uid = if (x.reads ++ x.writes).any fun l => irrevAccess .dev l.pa then
      ((s1.txCommit (s.coreOf t.wg) (s.asidOf t.wg) x).updThr t.uid (·.closeTx)).irrevocable (s.asidOf t.wg)
      else (s1.txCommit (s.coreOf t.wg) (s.asidOf t.wg) x).updThr t.uid (·.closeTx) := by
  simp only [State.txOutcome, ht, hx, hpark, noneLocked hothers, hvalid, hgate, Bool.false_eq_true, if_false]

/-- In a context without checkpoints the commit is no irrevocable operation that a checkpoint follows (R379). -/
theorem txOutcome_commits_noCkp {s1 : State} (hvalid : s.txValid (s.asidOf t.wg) x.reads = (true, s1)) (hckp : s1.takesCkp (s.asidOf t.wg) = false) :
    s.txOutcome t.uid = (s1.txCommit (s.coreOf t.wg) (s.asidOf t.wg) x).updThr t.uid (·.closeTx) := by
  have noCkp : ((s1.txCommit (s.coreOf t.wg) (s.asidOf t.wg) x).updThr t.uid (·.closeTx)).takesCkp (s.asidOf t.wg) = false :=
    (takesCkp_congr (txCommit_regs hckp x) _).trans hckp
  rw [txOutcome_commits ht hx hpark hothers hvalid (txGate_noCkp hckp _ _), irrevocable_noCkp noCkp, ite_self]

/-- A transaction that has read and written nothing, on a core without lines. -/
theorem txOutcome_empty (hr : x.reads = []) (hw : x.writes = []) (hl1 : s.l1 = []) : s.txOutcome t.uid = s.updThr t.uid (·.closeTx) := by
  rw [txOutcome_commits ht hx hpark hothers (s1 := s) (by rw [hr]; rfl) (by rw [hw]; rfl), txCommit_empty hl1 hw, hr, hw]
  rfl

/-- A line whose value has changed at its home aborts the transaction with a conflict. -/
theorem txOutcome_conflict {r : TxLine} {rs : List TxLine} {bs : List Byte} {s1 : State} (hr : x.reads = r :: rs)
    (hread : s.homeRead (s.asidOf t.wg) r.pa 128 .dev = (bs, s1)) (hne : bs ≠ r.data) : s.txOutcome t.uid = s1.abortTx t.uid 3 := by
  have invalid : s.txValid (s.asidOf t.wg) x.reads = (false, s1) := by
    rw [hr, State.txValid, hread]
    exact if_neg hne
  simp only [State.txOutcome, ht, hx, hpark, noneLocked hothers, invalid, Bool.false_eq_true, if_false]
end

theorem txValidation_outcome {n : Nat} (h : s.globalBefore n = false) : exec (.txValidation n) s = .next (s.txOutcome n) := by
  change execTxValidation n s = _
  rw [execTxValidation, h, Bool.false_and, if_neg Bool.false_ne_true]
end

/-! ## TXCTL.abort (R115, R251) -/

section
variable {s : State} {g : Pred} {t : Thread}

theorem txctlAbort_one (h : s.alone (.txctlAbort g) g t) : exec (.txctlAbort g) s = .next (if t.tx.isNone then s
    else if t.st.irrev then s.trapHere t.uid 18 0 0 else (s.abortTx t.uid 4).leaves t.uid) := by
  change execTxctlAbort g s = _
  rw [execTxctlAbort, issued_body h.issues, eachLane_one h.acts]
end

/-- Settles O17: the outcomes of TXBEGIN, TXEND, the validation and TXCTL.abort of one lane. -/
theorem transactionResults : Obligations.TransactionResults := by
  unfold Obligations.TransactionResults
  intro s g t calm closed aborted
  have aborts : ∀ c ∈ [3, 4], aborted c = (·.abortTx c) := fun c hc => funext fun u => by
    simp only [aborted, Thread.abortTx]
    cases u.tx with
    | none => rfl
    | some x =>
        simp only [List.mem_cons, List.not_mem_nil, or_false] at hc
        rcases hc with rfl | rfl <;> rfl
  refine ⟨?txbegin, ?txend, ?validation, ?txctl⟩
  case txbegin => exact fun off h htx => ⟨txbegin_revocable h htx, txbegin_takesToken h htx, txbegin_waits h htx⟩
  case txend => exact fun x h hx hcalm => ⟨txend_revocable h hx hcalm, txend_irrevocable h hx hcalm⟩
  case validation =>
    intro x ht hx hpark hothers hbefore
    refine ⟨?commits, ?empty, ?conflict⟩
    case commits =>
      intro s1 hvalid hckp
      rw [txValidation_outcome hbefore, txOutcome_commits_noCkp ht hx hpark hothers hvalid hckp]
      rfl
    case empty =>
      intro hr hw hl1
      rw [txValidation_outcome hbefore, txOutcome_empty ht hx hpark hothers hr hw hl1]
      rfl
    case conflict =>
      intro r rs bs s1 hr hread hne hops _
      rw [txValidation_outcome hbefore, txOutcome_conflict ht hx hpark hothers hr hread hne, abortTx_noOps hops, aborts 3 (by decide)]
  case txctl =>
    intro h
    refine ⟨fun htx => ?_, fun x hx hrev hops => ?_⟩
    · rw [txctlAbort_one h, htx]
      rfl
    · rw [txctlAbort_one h, hx, hrev, abortTx_noOps hops, aborts 4 (by decide)]
      rfl

end Sys2Proof.Machine
end

section
/-! SUPPORT. Laws of memory and of the caches: maps in canonical form, lines that the L2 fills and evicts (R8, R411), and what a write at a home
leaves where nothing else is tracked or awaited (R99). -/

namespace Sys2Proof.Machine

/-! ## Maps in canonical form -/

section
variable {α : Type} {d : α}

theorem mget_head (k : Nat) (v : α) (m : SMap α) : mget d ((k, v) :: m) k = v := if_pos rfl

theorem mget_tail {j k : Nat} (h : j ≠ k) (v : α) (m : SMap α) : mget d ((k, v) :: m) j = mget d m j := if_neg h

theorem length_upFrom (lo n : Nat) : (upFrom lo n).length = n := by rw [upFrom_eq_map, List.length_map, List.length_range]

theorem length_mgets (m : SMap α) (k n : Nat) : (mgets d m k n).length = n := by rw [mgets, List.length_map, length_upFrom]

variable [DecidableEq α]

theorem mwfFrom_cons {lo k : Nat} {v : α} {m : SMap α} : mwfFrom d lo ((k, v) :: m) = true ↔ lo ≤ k ∧ v ≠ d ∧ mwfFrom d (k + 1) m = true := by
  simp only [mwfFrom, Bool.and_eq_true, decide_eq_true_eq, and_assoc]

/-- A map reads as the default below its first key. -/
theorem mget_below {lo j k : Nat} {v : α} {m : SMap α} (h : mwfFrom d lo ((k, v) :: m) = true) (hj : j < k) : mget d ((k, v) :: m) j = d := by
  obtain ⟨-, -, hm⟩ := mwfFrom_cons.mp h
  rw [mget_tail (by omega), mget_lt d m (k + 1) j (by omega) hm]

/-- Two maps in canonical form that read alike are one. -/
theorem mwfFrom_ext : ∀ {m n : SMap α} {lo : Nat}, mwfFrom d lo m = true → mwfFrom d lo n = true → (∀ k, mget d m k = mget d n k) → m = n
  | [], [], _, _, _, _ => rfl
  | [], (k, v) :: n, _, _, hn, h => by
      obtain ⟨-, hv, -⟩ := mwfFrom_cons.mp hn
      exact absurd ((h k).trans (mget_head k v n)).symm hv
  | (k, v) :: m, [], _, hm, _, h => by
      obtain ⟨-, hv, -⟩ := mwfFrom_cons.mp hm
      exact absurd ((mget_head k v m).symm.trans (h k)) hv
  | (k, v) :: m, (k', v') :: n, _, hm, hn, h => by
      obtain ⟨-, hv, hm'⟩ := mwfFrom_cons.mp hm
      obtain ⟨-, hv', hn'⟩ := mwfFrom_cons.mp hn
      rcases Nat.lt_trichotomy k k' with hlt | rfl | hlt
      · exact absurd ((mget_head k v m).symm.trans ((h k).trans (mget_below hn hlt))) hv
      · have hhead : v = v' := (mget_head k v m).symm.trans ((h k).trans (mget_head k v' n))
        have htails : ∀ j, mget d m j = mget d n j := fun j => by
          by_cases hj : j = k
          · rw [mget_lt d m (k + 1) j (by omega) hm', mget_lt d n (k + 1) j (by omega) hn']
          · rw [← mget_tail hj v m, h j, mget_tail hj]
        rw [hhead, mwfFrom_ext hm' hn' htails]
      · exact absurd ((mget_head k' v' n).symm.trans ((h k').symm.trans (mget_below hm hlt))) hv'

/-- What was written at consecutive keys reads back. -/
theorem mgets_mputs {m : SMap α} (h : mwfFrom d 0 m = true) (k : Nat) (vs : List α) : mgets d (mputs d m k vs) k vs.length = vs := by
  refine List.ext_getElem (length_mgets _ _ _) fun i _ hi => ?_
  have read := mget_mputs d vs m k (k + i) h
  rw [if_pos ⟨by omega, by omega⟩, Nat.add_sub_cancel_left, List.getD_eq_getElem _ _ hi] at read
  simp only [mgets, upFrom_eq_map, List.map_map, List.getElem_map, List.getElem_range, Function.comp]
  exact read
end

/-! ## Lines of the L2 (R8, R411) -/

section
variable {s : State} {fe line colour : Nat}

theorem fold_l2 (s : State) (line : Nat) : (s.fold line).l2 = s.l2 := by
  unfold State.fold
  split <;> rfl

theorem fold_threads (s : State) (line : Nat) : (s.fold line).threads = s.threads := by
  unfold State.fold
  split <;> rfl

theorem l2Evict_eq (s : State) (line : Nat) : s.l2Evict line = { s.fold line with
    l2 := s.l2.filter fun x => x.line != line, threads := s.threads.map (·.wokenBy line) } := by
  rw [← fold_threads s line, ← fold_l2 s line]
  exact monWake_eq _ _

/-- Room in the L2 is there, or is made by the eviction of a line of the colour. -/
theorem l2Room_l2 (s : State) (colour line : Nat) : (s.l2Room colour line).l2 = s.l2
    ∨ ∃ v ∈ s.l2, v.colour = colour ∧ (s.l2Room colour line).l2 = s.l2.filter fun x => x.line != v.line := by
  unfold State.l2Room
  dsimp only
  split
  · exact .inl rfl
  · split
    · next v hv =>
      obtain ⟨hsame, -⟩ := List.mem_filter.mp (List.mem_of_getElem? hv)
      obtain ⟨hmem, hcolour⟩ := List.mem_filter.mp hsame
      exact .inr ⟨v, hmem, by simpa using hcolour, by rw [l2Evict_eq]⟩
    · exact .inl rfl

theorem fillColour_eq (s : State) (fe line : Nat) : s.fillColour fe line = (s.colours fe)[colourHash line % (s.colours fe).length]? := by
  rw [State.fillColour]
  cases s.colours fe <;> rfl

/-- The colours of a front end stand in the registers (R409, R411). -/
theorem fillColour_congr {s1 : State} (h : s1.regs = s.regs) : s1.fillColour fe line = s.fillColour fe line := by
  have colours : s1.colours fe = s.colours fe := by simp only [State.colours, State.rreg2, State.rregN, State.rreg, h]
  rw [fillColour_eq, fillColour_eq, colours]

theorem l2Fill_held (h : ∃ x ∈ s.l2, x.line = line) : s.l2Fill fe line = s := by
  obtain ⟨x, hx, hline⟩ := h
  rw [State.l2Fill, if_pos (List.any_eq_true.mpr ⟨x, hx, by simpa using hline⟩)]

theorem l2Fill_noColour (h : s.fillColour fe line = none) : s.l2Fill fe line = s := by
  rw [State.l2Fill, h, ite_self]

theorem l2Fill_adds (hnew : ¬∃ x ∈ s.l2, x.line = line) (h : s.fillColour fe line = some colour) :
    (s.l2Fill fe line).l2 = (s.l2Room colour line).l2 ++ [⟨line, colour⟩] := by
  have absent : s.l2.any (·.line == line) = false := List.any_eq_false.mpr fun x hx hb => hnew ⟨x, hx, by simpa using hb⟩
  rw [State.l2Fill, absent, if_neg Bool.false_ne_true, h]

/-- After a fill the L2 holds the line, unless the requester has no colour. -/
theorem l2Fill_settles (s : State) (fe line : Nat) : (∃ x ∈ (s.l2Fill fe line).l2, x.line = line) ∨ s.fillColour fe line = none := by
  by_cases held : ∃ x ∈ s.l2, x.line = line
  · exact .inl (by rw [l2Fill_held held]; exact held)
  · cases hc : s.fillColour fe line with
    | none => exact .inr rfl
    | some c => exact .inl ⟨⟨line, c⟩, by rw [l2Fill_adds held hc]; simp, rfl⟩

section
variable (hn : (s.l2.map (·.line)).Nodup)
include hn

/-- A fill evicts lines of its colour alone, and adds its line alone. -/
theorem l2Fill_colour (h : s.fillColour fe line = some colour) : (∃ x ∈ (s.l2Fill fe line).l2, x.line = line)
    ∧ (∀ x ∈ s.l2, x ∉ (s.l2Fill fe line).l2 → x.colour = colour) ∧ ∀ x ∈ (s.l2Fill fe line).l2, x ∉ s.l2 → x = ⟨line, colour⟩ := by
  refine ⟨(l2Fill_settles s fe line).resolve_right (by simp [h]), ?_⟩
  by_cases held : ∃ x ∈ s.l2, x.line = line
  · rw [l2Fill_held held]
    exact ⟨fun x hx hx' => absurd hx hx', fun x hx hx' => absurd hx hx'⟩
  rw [l2Fill_adds held h]
  rcases l2Room_l2 s colour line with hroom | ⟨v, hv, hcolour, hroom⟩
  · rw [hroom]
    exact ⟨fun x hx hx' => absurd (List.mem_append_left _ hx) hx',
      fun x hx hx' => List.mem_singleton.mp ((List.mem_append.mp hx).resolve_left hx')⟩
  · rw [hroom]
    refine ⟨fun x hx hx' => ?_, fun x hx hx' => ?_⟩
    · have evicted : x.line = v.line := by
        by_contra hne
        exact hx' (List.mem_append_left _ (List.mem_filter.mpr ⟨hx, by simpa using hne⟩))
      rw [List.inj_on_of_nodup_map hn hx hv evicted, hcolour]
    · exact List.mem_singleton.mp ((List.mem_append.mp hx).resolve_left fun hkept => hx' (List.mem_of_mem_filter hkept))

/-- The lines of the L2 stay distinct. -/
theorem l2Fill_nodup (fe line : Nat) : ((s.l2Fill fe line).l2.map (·.line)).Nodup := by
  by_cases held : ∃ x ∈ s.l2, x.line = line
  · rw [l2Fill_held held]
    exact hn
  cases hc : s.fillColour fe line with
  | none => rw [l2Fill_noColour hc]; exact hn
  | some c =>
      have sub : List.Sublist (s.l2Room c line).l2 s.l2 := by
        rcases l2Room_l2 s c line with hroom | ⟨v, -, -, hroom⟩
        · rw [hroom]
        · rw [hroom]
          exact List.filter_sublist
      rw [l2Fill_adds held hc, List.map_append]
      refine List.Nodup.append ((sub.map _).nodup hn) (List.nodup_singleton _) fun n hroom hline => ?_
      obtain ⟨x, hx, rfl⟩ := List.mem_map.mp hroom
      exact held ⟨x, sub.subset hx, by simpa using hline⟩
end

/-! ## Where no thread waits -/

section
variable (hpark : ∀ u ∈ s.threads, u.park = none)
include hpark

theorem monWake_unparked (line : Nat) : s.monWake line = s := by
  have same : s.threads.map (·.wokenBy line) = s.threads :=
    (List.map_congr_left (g := id) fun u hu => wokenBy_unparked (hpark u hu) line).trans (List.map_id _)
  rw [monWake_eq, same]
  rfl

theorem l2Evict_unparked (hs : s.shadows = []) (line : Nat) : s.l2Evict line = { s with l2 := s.l2.filter fun x => x.line != line } :=
  (l2Evict_noShadows hs line).trans (monWake_unparked (by exact hpark) line)

theorem l2Room_unparked (hs : s.shadows = []) (colour line : Nat) : ∃ n ls, s.l2Room colour line = { s with fresh := n, l2 := ls } := by
  unfold State.l2Room
  dsimp only
  split
  · exact ⟨_, _, rfl⟩
  · split
    · next v _ =>
      exact ⟨_, _, l2Evict_unparked (s := { s with fresh := s.fresh + 1 }) hpark hs v.line⟩
    · exact ⟨_, _, rfl⟩

theorem seen_unparked (hs : s.shadows = []) (asid key : Nat) : ∃ n ls, s.seen asid key = { s with fresh := n, l2 := ls } := by
  unfold State.seen State.l2Fill
  split
  · exact ⟨_, _, rfl⟩
  · split
    · exact ⟨_, _, rfl⟩
    · next c _ =>
      obtain ⟨n, ls, hroom⟩ := l2Room_unparked hpark hs c (key / 128 * 128)
      exact ⟨n, ls ++ [⟨_, c⟩], by rw [hroom]⟩

theorem touched_unparked (hl1 : s.l1 = []) (key : Nat) (keep : Option Nat) : s.touched key keep = s := by
  have noPolls : (s.threads.filterMap fun t => match t.park with
      | some (.cpl _ pa _ _ _ _ _) => if lineOf pa = lineOf key then some (Instr.cplwaitPoll t.uid) else none
      | _ => none) = [] := List.filterMap_eq_nil_iff.mpr fun u hu => by rw [hpark u hu]
  have noLines : ({ s with l1 := [] } : State) = s := by rw [← hl1]
  rw [State.touched, monWake_unparked hpark, hl1, List.filter_nil]
  exact (congrArg (fun ps => ({ s with l1 := [], agenda := s.agenda ++ ps } : State)) noPolls).trans (by rw [List.append_nil]; exact noLines)
end
end

/-! ## A write at a home of the device (R99) -/

section
variable {s : State} {asid key : Nat} {bs : List Byte}

theorem homeWrite_dram (h : s.shadows = []) (hdram : homeOf key = .dram) (sc : Scope) (keep : Option Nat) :
    s.homeWrite asid key bs sc keep = ({ s.seen asid key with mem := mputs 0#8 s.mem key bs } : State).touched key keep := by
  simp only [State.homeWrite, hdram, atHome_plain h, seen_mem h]

/-- Bytes that end at the end of DRAM are in DRAM, but for none of them. -/
theorem home_of_bytes (h : key + bs.length ≤ 2 ^ 40) : homeOf key = .dram ∨ (homeOf key = .bunting ∧ bs = []) := by
  by_cases hkey : key < 2 ^ 40
  · exact .inl (homeOf_dram hkey)
  · have last : key = 2 ^ 40 := by omega
    exact .inr ⟨by rw [last]; rfl, List.eq_nil_of_length_eq_zero (by omega)⟩

/-- No bytes, at the first address past DRAM. -/
theorem homeWrite_nothing (hhome : homeOf key = .bunting) (sc : Scope) (keep : Option Nat) : s.homeWrite asid key [] sc keep = s.touched key keep := by
  rw [State.homeWrite, hhome]
  rfl

section
variable (hs : s.shadows = []) (hkey : key + bs.length ≤ 2 ^ 40)
include hs hkey

theorem homeWrite_mem (sc : Scope) (keep : Option Nat) : (s.homeWrite asid key bs sc keep).mem = mputs 0#8 s.mem key bs := by
  rcases home_of_bytes hkey with hdram | ⟨hhome, rfl⟩
  · rw [homeWrite_dram hs hdram]
    rfl
  · rw [homeWrite_nothing hhome]
    rfl

/-- What was written at a home reads back from there, and the read changes nothing. -/
theorem homeRead_homeWrite (hwf : Mem.wf s.mem = true) (hecc : s.ecc = []) (sc : Scope) (keep : Option Nat) :
    (s.homeWrite asid key bs sc keep).homeRead asid key bs.length sc = (bs, s.homeWrite asid key bs sc keep) := by
  rcases home_of_bytes hkey with hdram | ⟨hhome, rfl⟩
  · have hmem := homeWrite_mem (asid := asid) hs hkey sc keep
    have hregs := (keeps_homeWrite s asid key bs sc keep).regs
    have hl2 : (s.homeWrite asid key bs sc keep).l2 = (s.seen asid key).l2 := by rw [homeWrite_dram hs hdram]; rfl
    obtain ⟨⟨_, _, _, hseen⟩, -⟩ := onlyFills_seen hs asid key
    have hshadows : (s.homeWrite asid key bs sc keep).shadows = [] := by rw [homeWrite_dram hs hdram, hseen]; exact hs
    have herrors : (s.homeWrite asid key bs sc keep).ecc = [] := by rw [homeWrite_dram hs hdram, hseen]; exact hecc
    have settled : (s.homeWrite asid key bs sc keep).seen asid key = s.homeWrite asid key bs sc keep := by
      rcases l2Fill_settles s (asid / 64) (key / 128 * 128) with held | hcolour
      · exact l2Fill_held (by rw [hl2]; exact held)
      · exact l2Fill_noColour ((fillColour_congr hregs).trans hcolour)
    rw [homeRead_plain hshadows herrors hdram, settled, hmem, mgets_mputs hwf]
  · rw [homeWrite_nothing hhome, State.homeRead, memErr_noErrors (s := s.touched key keep) hecc, hhome]
    rfl

/-- A line that no L1 holds and no thread awaits: nothing changes but memory and what the L2 holds. -/
theorem homeWrite_alone (hl1 : s.l1 = []) (hpark : ∀ u ∈ s.threads, u.park = none) (sc : Scope) (keep : Option Nat) :
    s.homeWrite asid key bs sc keep = { s with
      mem := (s.homeWrite asid key bs sc keep).mem
      l2 := (s.homeWrite asid key bs sc keep).l2
      fresh := (s.homeWrite asid key bs sc keep).fresh } := by
  rcases home_of_bytes hkey with hdram | ⟨hhome, rfl⟩
  · obtain ⟨n, ls, hseen⟩ := seen_unparked hpark hs asid key
    rw [homeWrite_dram hs hdram, hseen, touched_unparked (by exact hpark) (by exact hl1)]
  · rw [homeWrite_nothing hhome, touched_unparked hpark hl1]
end
end

end Sys2Proof.Machine
end

section
/-! O27, MemoryAndCaches: the bytes of a line written back, the events of the caches, and the statement. -/

namespace Sys2Proof.Machine

/-! ## Runs of set bits -/

theorem bitOf_two_pow (k i : Nat) : bitOf (2 ^ k) i = decide (k = i) := by
  rw [← Nat.testBit_two_pow, Nat.testBit_eq_decide_div_mod_eq]
  rfl

theorem runsOf_clear {mask : Nat} : ∀ {is : List Nat}, (∀ i ∈ is, bitOf mask i = false) → runsOf mask is = []
  | [], _ => rfl
  | i :: is, h => by
      rw [runsOf, h i List.mem_cons_self, runsOf_clear fun j hj => h j (List.mem_cons_of_mem i hj)]
      rfl

/-- One set bit is one run of length one. -/
theorem runsOf_two_pow {k : Nat} : ∀ {n lo : Nat}, lo ≤ k → k < lo + n → runsOf (2 ^ k) (upFrom lo n) = [(k, 1)]
  | 0, lo, hlo, hhi => by omega
  | n + 1, lo, hlo, hhi => by
      rw [upFrom, runsOf, bitOf_two_pow]
      by_cases hk : k = lo
      · subst hk
        have rest : runsOf (2 ^ k) (upFrom (k + 1) n) = [] := runsOf_clear fun i hi => by
          obtain ⟨hlow, -⟩ := mem_upFrom.mp hi
          rw [bitOf_two_pow, decide_eq_false (by omega)]
        rw [rest, decide_eq_true rfl]
        rfl
      · rw [runsOf_two_pow (by omega) (by omega), decide_eq_false hk]
        rfl

/-! ## Lines of the L1 (R98) -/

section
variable {s : State} {l : L1Line}

theorem writeBack_clean (h : l.dirty = 0) (sc : Scope) : s.writeBack l sc = s := if_pos h

/-- A line with one dirty byte writes that byte back. -/
theorem writeBack_byte {k : Nat} (hk : k < 128) (h : l.dirty = 2 ^ k) (sc : Scope) : s.writeBack l sc =
    (s.updL1 l.core l.asid l.va fun l => { l with dirty := 0 }).homeWrite l.asid (l.pa + k) ((l.data.drop k).take 1) sc (some l.core) := by
  rw [State.writeBack, if_neg (by rw [h]; exact (Nat.two_pow_pos k).ne'), h, runsOf_two_pow (Nat.zero_le k) (by omega)]
  rfl

theorem l1Drop_clean (h : l.dirty = 0) (sc : Scope) : s.l1Drop l sc = { s with l1 := s.l1.filter fun x => !x.isAt l.core l.asid l.va } := by
  rw [State.l1Drop, writeBack_clean h]
end

section
variable {s : State} {core asid va : Nat} {l : L1Line}

theorem l1DirtyTimeout_line (hl : s.l1at core asid va = some l) : exec (.l1DirtyTimeout core asid va) s = .next (s.writeBack l .dev) := by
  change execL1DirtyTimeout core asid va s = _
  rw [execL1DirtyTimeout, hl]

theorem l1NarrowTimeout_line (hl : s.l1at core asid va = some l) :
    exec (.l1NarrowTimeout core asid va) s = .next (if Scope.narrow l.sc then s.l1Drop l .dev else s) := by
  change execL1NarrowTimeout core asid va s = _
  rw [execL1NarrowTimeout, hl]
end

theorem l2Eviction_line {s : State} {line : Nat} (halign : line % 128 = 0) (hdram : line < 2 ^ 40) :
    exec (.l2Eviction line) s = .next (s.l2Evict line) := by
  have base : lineOf line = line := by rw [lineOf]; omega
  change execL2Eviction line s = _
  rw [execL2Eviction, base, if_pos (homeOf_dram hdram)]

/-- Settles O27: a write at a home and its read, a fill of the L2, the maps of memory, and the events of the caches. -/
theorem memoryAndCaches : Obligations.MemoryAndCaches := by
  unfold Obligations.MemoryAndCaches
  refine ⟨?homes, ?fills, ?maps, ?events⟩
  case homes =>
    intro s asid key bs sc keep hwf hs hkey t
    refine ⟨fun a => ?_, (keeps_homeWrite s asid key bs sc keep).wf hwf, fun hecc => homeRead_homeWrite hs hkey hwf hecc sc keep,
      fun hl1 hpark => homeWrite_alone hs hkey hl1 hpark sc keep⟩
    rw [homeWrite_mem hs hkey, mget_mputs 0#8 bs s.mem key a hwf]
  case fills =>
    intro s fe line hn H mine t
    have colour : s.fillColour fe line = mine[H % mine.length]? := fillColour_eq s fe line
    refine ⟨l2Fill_nodup hn fe line, fun c hc => l2Fill_colour hn (colour.trans hc), fun hnone => l2Fill_noColour ?_, l2Fill_held⟩
    rw [colour, hnone]
    rfl
  case maps =>
    intro m n hm
    exact ⟨fun k v j => mget_mput 0#8 m 0 k j v hm, fun k v => Mem.wf_mput m k v hm, fun k bs => Mem.wf_mputs m k bs hm,
      fun k b bs j => mget_mputs 0#8 (b :: bs) m k j hm, fun hn h => mwfFrom_ext hm hn h⟩
  case events =>
    intro s core asid va
    refine ⟨?dirty, ?narrow, ?wide, ?evict⟩
    case dirty =>
      intro l k hl hk hdirty
      rw [l1DirtyTimeout_line hl, writeBack_byte hk hdirty]
    case narrow =>
      rintro l hl hdirty hsc rfl rfl -
      rw [l1NarrowTimeout_line hl, narrow_of_le hsc, if_pos rfl, l1Drop_clean hdirty]
      rfl
    case wide =>
      intro l hl hsc
      rw [l1NarrowTimeout_line hl, not_narrow_of_le hsc, if_neg Bool.false_ne_true]
    case evict =>
      intro line halign hdram
      exact (l2Eviction_line halign hdram).trans (congrArg Host.Outcome.next (l2Evict_eq s line))

end Sys2Proof.Machine
end

section
/-! O30, EngineMoves: reads and writes of an engine in memory that is mapped and plain, one unit of a command, and the statement. -/

namespace Sys2Proof.Machine

/-! ## What a fill of the L2 leaves of plain and mapped memory -/

section
variable {s s1 s2 : State} {cluster asid va key : Nat} {acc : XAcc}

theorem OnlyFills.refl (s : State) : OnlyFills s s := ⟨⟨_, _, _, rfl⟩, fun ht _ => ht⟩

theorem OnlyFills.trans (h : OnlyFills s s1) (h' : OnlyFills s1 s2) : OnlyFills s s2 := by
  obtain ⟨⟨_, _, _, hs1⟩, found⟩ := h
  obtain ⟨⟨n, ls, ts, hs2⟩, found'⟩ := h'
  exact ⟨⟨n, ls, ts, by rw [hs2, hs1]⟩, fun ht hpark => found' (found ht hpark) hpark⟩

theorem OnlyFills.plain (h : OnlyFills s s1) (hplain : s.plain asid) : s1.plain asid := by
  obtain ⟨⟨_, _, _, rfl⟩, -⟩ := h
  obtain ⟨hckp, hshadows, hecc⟩ := hplain
  exact ⟨(takesCkp_congr (by rfl) asid).trans hckp, hshadows, hecc⟩

theorem OnlyFills.maps (h : OnlyFills s s1) (hmap : s.maps cluster asid va acc key) : s1.maps cluster asid va acc key := by
  obtain ⟨⟨_, _, _, rfl⟩, -⟩ := h
  exact hmap

theorem xlate_maps (h : s.maps cluster asid va acc key) (spec : Bool) : ∃ w, s.xlate cluster asid va acc spec = (.ok ⟨key, w⟩, s) := by
  obtain ⟨-, -, hcluster, hentry⟩ := h
  obtain ⟨e, he, hkey⟩ := Option.map_eq_some_iff.mp hentry
  have hit : s.tlbHit cluster asid va acc = some e := he
  exact ⟨e.w && e.d, by simp only [State.xlate, hit, if_neg (Nat.not_le.mpr hcluster), hkey]⟩

/-- An access of the device to its DRAM is not irrevocable (R379). -/
theorem irrevAccess_dram (h : homeOf key = .dram) : irrevAccess .dev key = false := by
  rw [irrevAccess, h]
  rfl

theorem beyond_eq_false {n : Nat} (h : va + n ≤ 2 ^ 52) : beyond va n = false := by
  rw [beyond, decide_eq_false (by omega : ¬va + n > 2 ^ 52), Bool.and_false]
end

/-! ## Reads and writes of an engine -/

section
variable {s : State} {c : Cmd} {va key n : Nat} {bs : List Byte}

theorem engRead_plain (hplain : s.plain c.asid) (hmap : s.maps (clusterOf c.core) c.asid va .load key) (hin : va + n ≤ 2 ^ 52) :
    s.engRead c va n .dev = (.ok (mgets 0#8 s.mem key n), s.seen c.asid key) := by
  obtain ⟨-, hshadows, hecc⟩ := hplain
  obtain ⟨w, hx⟩ := xlate_maps hmap false
  have dram := homeOf_maps hmap
  have good : s.bad key = false := by rw [State.bad, hecc]; rfl
  simp only [State.engRead, beyond_eq_false hin, hx, good, homeRead_plain hshadows hecc dram, irrevAccess_dram dram, Bool.false_eq_true, if_false]

theorem engWrite_plain (hplain : s.plain c.asid) (hmap : s.maps (clusterOf c.core) c.asid va .store key) (hin : va + bs.length ≤ 2 ^ 52) :
    s.engWrite c va bs .dev = (none, s.homeWrite c.asid key bs .dev none) := by
  obtain ⟨w, hx⟩ := xlate_maps hmap false
  have dram := homeOf_maps hmap
  simp only [State.engWrite, beyond_eq_false hin, hx, beforeWrite_noCkp (noCkp_of_plain hplain), irrevAccess_dram dram, Bool.false_eq_true, if_false]

theorem engGate_noCkp (h : s.takesCkp c.asid = false) (redo : Instr) (va : Nat) : s.engGate c redo (.glob va) = (true, s) := by
  have before : s.undoBefore (clusterOf c.core) c.asid va redo = (true, s) := by rw [State.undoBefore, h]; rfl
  simp only [State.engGate, before, ite_self]
end

/-! ## One unit of a command (R108, R263 to R265) -/

section
variable {s : State} {c : Cmd} {redo : Instr} {chk : State → Cmd → Option Nat} {total : Cmd → Nat} {isLocal : Cmd → Bool}
  {unit : Cmd → State → Nat → (Except EngStop (Spot × Spot)) × State}

section
variable (hcmd : s.cmd? c.id = some c) (hended : c.ended = false) (hpaused : c.paused = false) (hlocal : isLocal c = false)
include hcmd hended hpaused hlocal

/-- A command that a copy engine holds goes on with its next unit. -/
theorem engRun_goesOn (hchk : c.pos = 0 → chk s c = none) :
    s.engRun c.id redo chk total isLocal unit = s.engUnits c (total c) redo (unit c) 512 c.pos := by
  have passed : (if c.pos = 0 then chk s c else none) = none := by
    split
    · next h => exact hchk h
    · rfl
  simp only [State.engRun, hcmd, hended, hpaused, hlocal, passed, Bool.or_self, Bool.false_and, Bool.false_eq_true, if_false]

/-- A command whose checks fail ends with their status and moves nothing. -/
theorem engRun_refused {st : Nat} (hpos : c.pos = 0) (hchk : chk s c = some st) :
    s.engRun c.id redo chk total isLocal unit = s.cmdEnd c.id st := by
  simp only [State.engRun, hcmd, hended, hpaused, hlocal, hpos, hchk, Bool.or_self, Bool.false_and, Bool.false_eq_true, if_false, if_true]

/-- After a unit has been written to global memory: the command ends, or goes on in a later event, or with the next unit. -/
theorem engRun_moves {src : Spot} {dst kd : Nat} {s1 s2 : State} {bs : List Byte} (hchk : c.pos = 0 → chk s c = none)
    (hunit : unit c s c.pos = (.ok (src, .glob dst), s1)) (hread : s1.spotRead c src = (.ok bs, s2)) (hlen : bs.length = 8)
    (hfills : OnlyFills s s2) (hplain : s.plain c.asid) (hpos : c.pos < total c) (hdst : dst + 8 ≤ 2 ^ 52)
    (hmap : s.maps (clusterOf c.core) c.asid dst .store kd) :
    s.engRun c.id redo chk total isLocal unit = if c.pos + 1 = total c then (s2.homeWrite c.asid kd bs .dev none).cmdEnd c.id 0
      else if (dst + 8) % 4096 = 0 then ((s2.homeWrite c.asid kd bs .dev none).updCmd c.id fun x => { x with pos := c.pos + 1 }).postOnce redo
      else (s2.homeWrite c.asid kd bs .dev none).engUnits c (total c) redo (unit c) 511 (c.pos + 1) := by
  have plain := hfills.plain hplain
  have write : s2.spotWrite c bs (.glob dst) = (none, s2.homeWrite c.asid kd bs .dev none) :=
    engWrite_plain plain (hfills.maps hmap) (by rw [hlen]; exact hdst)
  rw [engRun_goesOn hcmd hended hpaused hlocal hchk, State.engUnits, if_neg (by omega), hunit]
  simp only [hread, engGate_noCkp (noCkp_of_plain plain), write, Spot.edge, Bool.and_eq_true, beq_iff_eq, decide_eq_true_eq]
  by_cases hlast : c.pos + 1 = total c
  · rw [if_neg (by omega), if_pos hlast, State.engUnits, if_pos (by omega)]
  · rw [if_neg hlast]
    by_cases hedge : (dst + 8) % 4096 = 0
    · rw [if_pos ⟨hedge, by omega⟩, if_pos hedge]
    · rw [if_neg fun ⟨h, _⟩ => hedge h, if_neg hedge]
end

/-- A unit of global memory is read. -/
theorem spotRead_glob {va key : Nat} (hplain : s.plain c.asid) (hin : va + 8 ≤ 2 ^ 52) (hmap : s.maps (clusterOf c.core) c.asid va .load key) :
    s.spotRead c (.glob va) = (.ok (mgets 0#8 s.mem key 8), s.seen c.asid key) := engRead_plain hplain hmap hin

theorem tileSpot_glob (base0 base1 off : Nat) : s.tileSpot c 0 base0 base1 off = some (.glob (base0 + 2 ^ 32 * base1 + off)) := rfl

/-- A TILE from global memory to global memory (R264). -/
theorem tileUnit_glob (h : c.w 5 = 0) (u : Nat) : tileUnit c s u =
    (.ok (.glob (c.w2 6 + (u / (c.w 1 / 8) * c.w 3 + 8 * (u % (c.w 1 / 8)))), .glob (c.w2 8 + (u / (c.w 1 / 8) * c.w 4 + 8 * (u % (c.w 1 / 8))))), s) := by
  have sk : c.sk = 0 := by rw [Cmd.sk, h]; rfl
  have dk : c.dk = 0 := by rw [Cmd.dk, h]; rfl
  simp only [tileUnit, sk, dk, tileSpot_glob]
  rfl

theorem iw_eq (c : Cmd) : c.iw = if c.w 3 % 2 = 1 then 8 else 4 := by
  simp only [Cmd.iw, bitOf, pow_zero, Nat.div_one, beq_iff_eq]

/-- A unit of a GATHER or a SCATTER, whose index is read first (R265). -/
theorem gatherUnit_index {ki : Nat} (scatter : Bool) (hplain : s.plain c.asid)
    (hmap : s.maps (clusterOf c.core) c.asid (c.w2 4 + c.pos / (c.w 1 / 8) * c.iw) .load ki)
    (hin : c.w2 4 + c.pos / (c.w 1 / 8) * c.iw + c.iw ≤ 2 ^ 52) (ha : (c.w2 6 + leNat (mgets 0#8 s.mem ki c.iw) * c.w 1) % 2 ^ 64 < 2 ^ 52) :
    gatherUnit scatter c s c.pos = (.ok (if scatter then (.glob (c.w2 8 + 8 * c.pos),
        .glob ((c.w2 6 + leNat (mgets 0#8 s.mem ki c.iw) * c.w 1) % 2 ^ 64 + 8 * (c.pos % (c.w 1 / 8))))
      else (.glob ((c.w2 6 + leNat (mgets 0#8 s.mem ki c.iw) * c.w 1) % 2 ^ 64 + 8 * (c.pos % (c.w 1 / 8))), .glob (c.w2 8 + 8 * c.pos))),
      s.seen c.asid ki) := by
  simp only [gatherUnit, engRead_plain hplain hmap hin, ge_iff_le, if_neg (Nat.not_le.mpr ha)]
end

theorem copyChk_overlap {s : State} {c : Cmd} (hhead : c.badHead = false) (hn : 0 < c.w 1) (hsrc : c.w2 2 < c.w2 4 + c.w 1)
    (hdst : c.w2 4 < c.w2 2 + c.w 1) : copyChk s c = some 1 := by
  have meet : overlaps (c.w2 2) (c.w 1) (c.w2 4) (c.w 1) = true := by simp [overlaps, hn, hsrc, hdst]
  simp only [copyChk, firstBad, hhead, meet, Bool.false_or, if_true]

/-- Settles O30: the unit at hand is read, in plain memory, and written, and the command ends or goes on; or its checks fail. -/
theorem engineMoves : Obligations.EngineMoves := by
  unfold Obligations.EngineMoves
  intro s c ks kd hcmd hended hpaused hplain cl u per moves word from' ended
  have filled : ∀ k, OnlyFills s (s.seen c.asid k) := fun k => onlyFills_seen (noShadows_of_plain hplain) c.asid k
  refine ⟨?copy, ?fill, ?tile, ?gather, ?refused, copyChk_overlap⟩
  case copy =>
    rintro hchk ⟨hin, hsrc⟩ hu hdst hmap
    exact congrArg Host.Outcome.next (engRun_moves hcmd hended hpaused rfl hchk rfl (spotRead_glob hplain hin hsrc) (length_mgets _ _ _) (filled ks)
      hplain hu hdst hmap)
  case fill =>
    intro hchk hu hdst hmap
    exact congrArg Host.Outcome.next (engRun_moves hcmd hended hpaused rfl hchk rfl rfl (length_bytesOf _ _) (OnlyFills.refl s) hplain hu hdst hmap)
  case tile =>
    rintro hkinds hchk ⟨hin, hsrc⟩ hu hdst hmap
    have global : (c.dk != 0) = false := by rw [Cmd.dk, hkinds]; rfl
    exact congrArg Host.Outcome.next (engRun_moves hcmd hended hpaused global hchk (tileUnit_glob hkinds c.pos) (spotRead_glob hplain hin hsrc)
      (length_mgets _ _ _) (filled ks) hplain hu hdst hmap)
  case gather =>
    intro ki hchk iw a line item ha hidx hindex
    have width : c.iw = iw := iw_eq c
    have index := fun scatter => gatherUnit_index (s := s) (c := c) (ki := ki) scatter hplain (by rw [width]; exact hindex) (by rw [width]; exact hidx)
      (by rw [width]; exact ha)
    rw [width] at index
    have read : ∀ {va}, from' va → (s.seen c.asid ki).spotRead c (.glob va) = (.ok word, (s.seen c.asid ki).seen c.asid ks) := fun h => by
      obtain ⟨hin, hsrc⟩ := h
      rw [spotRead_glob ((filled ki).plain hplain) hin ((filled ki).maps hsrc), seen_mem (noShadows_of_plain hplain)]
    have fills : OnlyFills s ((s.seen c.asid ki).seen c.asid ks) :=
      (filled ki).trans (onlyFills_seen (seen_shadows (noShadows_of_plain hplain)) c.asid ks)
    refine ⟨fun hsrc hu hdst hmap => ?_, fun hsrc hu hdst hmap => ?_⟩
    · exact congrArg Host.Outcome.next (engRun_moves hcmd hended hpaused rfl hchk (index false) (read hsrc) (length_mgets _ _ _) fills hplain hu hdst hmap)
    · exact congrArg Host.Outcome.next (engRun_moves hcmd hended hpaused rfl hchk (index true) (read hsrc) (length_mgets _ _ _) fills hplain hu hdst hmap)
  case refused =>
    intro st hu
    have refuses : ∀ {redo chk total isLocal unit}, isLocal c = false → chk s c = some st → s.engRun c.id redo chk total isLocal unit = ended st :=
      fun hlocal hchk => engRun_refused hcmd hended hpaused hlocal hu hchk
    refine ⟨fun h => congrArg _ (refuses rfl h), fun h => congrArg _ (refuses rfl h), fun h hkinds => congrArg _ (refuses ?_ h),
      fun h => ⟨congrArg _ (refuses rfl h), congrArg _ (refuses rfl h)⟩⟩
    rw [Cmd.dk, hkinds]
    rfl

end Sys2Proof.Machine
end

section
/-! O55, OutsideEvents: what comes from outside to the device's own memory, the record of the black box and its copies, the sensors, and the
statement. -/

namespace Sys2Proof.Machine

/-! ## The device's own memory (R424, R445, R451) -/

section
variable {s : State} {pa : Nat} {bs : List Byte}

theorem ownMem_dram (h : pa < 2 ^ 40) : ownMem pa = true := decide_eq_true h

theorem ownMem_other (h : 2 ^ 40 ≤ pa) : ownMem pa = false := decide_eq_false (by omega)

/-- Bytes of one line are written at their home at once. -/
theorem writeLines_one (hline : pa / 128 = (pa + bs.length - 1) / 128) (hpos : 0 < bs.length) :
    s.writeLines (bs.length + 1) pa bs = s.homeWrite 0 pa bs .sys none := by
  have hwhole : bs.length ≤ 128 - pa % 128 := by omega
  cases bs with
  | nil => exact absurd hpos (by simp)
  | cons b bs =>
      unfold State.writeLines
      dsimp only
      rw [List.take_of_length_le hwhole, List.drop_eq_nil_of_le hwhole]
      rfl

theorem postedWrite_own (hline : pa / 128 = (pa + bs.length - 1) / 128) (hpos : 0 < bs.length) (hin : pa + bs.length ≤ 2 ^ 40) :
    exec (.postedWrite pa bs) s = .next (s.homeWrite 0 pa bs .sys none) := by
  change execPostedWrite pa bs s = _
  rw [execPostedWrite, ownMem_dram (by omega), ownMem_dram (by omega), Bool.and_self, if_pos rfl, writeLines_one hline hpos]

theorem postedWrite_other (h : 2 ^ 40 ≤ pa) : exec (.postedWrite pa bs) s = .next s := by
  change execPostedWrite pa bs s = _
  rw [execPostedWrite, ownMem_other h, Bool.false_and, if_neg Bool.false_ne_true]

theorem fabricWrite_own (hdeep : s.deep = false) (hline : pa / 128 = (pa + bs.length - 1) / 128) (hpos : 0 < bs.length)
    (hin : pa + bs.length ≤ 2 ^ 40) : exec (.fabricAccess pa (some bs)) s = .next (s.homeWrite 0 pa bs .sys none) := by
  change execFabricAccess pa (some bs) s = _
  simp only [execFabricAccess, hdeep, Bool.false_eq_true, if_false, ownMem_dram (by omega : pa < 2 ^ 40),
    ownMem_dram (by omega : pa + bs.length - 1 < 2 ^ 40), Bool.and_self, if_true, writeLines_one hline hpos]

theorem fabricRead_own (hdeep : s.deep = false) (h : pa < 2 ^ 40) (hs : s.shadows = []) : exec (.fabricAccess pa none) s =
    .next { s with out := s.out ++ [.peer (pa / 128 * 128) (mgets 0#8 s.mem (pa / 128 * 128) 128)] } := by
  change execFabricAccess pa none s = _
  simp only [execFabricAccess, hdeep, Bool.false_eq_true, if_false, ownMem_dram h, if_true, fold_noShadows hs]
  rfl

theorem fabricRead_other (h : 2 ^ 40 ≤ pa) : exec (.fabricAccess pa none) s = .next s := by
  change execFabricAccess pa none s = _
  simp only [execFabricAccess, ownMem_other h, Bool.false_eq_true, if_false, ite_self]

theorem fabricAccess_deep (hdeep : s.deep = true) (data : Option (List Byte)) : exec (.fabricAccess pa data) s = .next s := by
  change execFabricAccess pa data s = _
  unfold execFabricAccess
  rw [if_pos hdeep]

theorem reductionDelivery_deep (hdeep : s.deep = true) (ty : Ty) (v : Word) : exec (.reductionDelivery pa ty v) s = .next s := by
  change execReductionDelivery pa ty v s = _
  rw [execReductionDelivery, if_pos hdeep]

/-- A delivery of an F32 element is one reduction at the home, counted where no slot is free for a shadow (R111, R112). -/
theorem reductionDelivery_f32 (hdeep : s.deep = false) (h : pa < 2 ^ 40) (halign : pa % 4 = 0) (v : Word) : exec (.reductionDelivery pa .f32 v) s =
    .next (if s.noSlot pa .add .f32 then (s.rdmEls 0 pa .add .f32 [(0, v.toNat)]).bump 0 (0x0460 + sliceOfLine (pa / 128 * 128))
      else s.rdmEls 0 pa .add .f32 [(0, v.toNat)]) := by
  have whole : v.toNat % 2 ^ Ty.width .f32 = v.toNat := Nat.mod_eq_of_lt v.isLt
  have taken : (ownMem pa && (Ty.f32 == .bf16 || Ty.f32 == .e4m3 || Ty.f32 == .e5m2 || Ty.f32 == .f32) && decide (pa % Ty.bytes .f32 = 0)) = true := by
    rw [ownMem_dram h]
    exact decide_eq_true halign
  change execReductionDelivery pa .f32 v s = _
  rw [execReductionDelivery, if_neg (by simp [hdeep]), if_pos taken, whole]
  rfl

theorem fabricPortFallback_notes (port : Nat) : exec (.fabricPortFallback port) s =
    .next (if port < 18 ∧ port ∉ s.slowPorts then { s with slowPorts := s.slowPorts ++ [port] } else s) := by
  change execFabricPortFallback port s = _
  simp only [execFabricPortFallback, Bool.and_eq_true, decide_eq_true_eq, Bool.not_eq_true', List.contains_eq_mem, decide_eq_false_iff_not]

/-- A read of the host within DRAM without shadows finds the bytes at their home (R445). -/
theorem hostRead_own {n : Nat} (hboot : s.boot = .ready) (hs : s.shadows = []) (hpos : 0 < n) (hin : pa + n ≤ 2 ^ 40) :
    s.hostRead pa n = { s with out := s.out ++ [.host pa (mgets 0#8 s.mem pa n)] } := by
  have unfolded : ∀ ks : List Nat, (s.over ks fun s k => if lineOf pa + 128 * k < pa + n then s.fold (lineOf pa + 128 * k) else s) = s := fun ks => by
    induction ks with
    | nil => rfl
    | cons k ks ih =>
        rw [State.over, List.foldl_cons, fold_noShadows hs, ite_self]
        exact ih
  have taken : (decide (s.boot = .ready) && ownMem pa && ownMem (pa + n - 1)) = true := by
    rw [ownMem_dram (by omega), ownMem_dram (by omega), decide_eq_true hboot]
    rfl
  simp only [State.hostRead, taken, if_true, unfolded]

theorem memError_hard (h : pa < 2 ^ 40) (hgood : s.bad pa = false) : s.memError pa true = { s with ecc := s.ecc ++ [pa / 128 * 128] } := by
  simp only [State.memError, Bool.not_true, Bool.false_eq_true, if_false, homeOf_dram h, hgood, reduceCtorEq]
  rfl
end

/-! ## The black box (R442, R443) -/

section
variable {s : State}

theorem vector_out (s : State) (view c : Nat) : ∃ rs os, s.vector view c = { s with regs := rs, out := os } := by
  unfold State.vector
  split
  · exact ⟨_, _, rfl⟩
  · exact ⟨_, _, rfl⟩

theorem setBit_regs (s : State) (view idx b : Nat) (on : Bool) : ∃ rs, s.setBit view idx b on = { s with regs := rs } := ⟨_, rfl⟩

/-- An interrupt cause changes registers and what leaves the device. -/
theorem irq_out (s : State) (view c : Nat) : ∃ rs os, s.irq view c = { s with regs := rs, out := os } := by
  obtain ⟨rs, hset⟩ := setBit_regs s view 0x0410 c true
  unfold State.irq
  dsimp only
  rw [hset]
  split
  · obtain ⟨rs', os, hv⟩ := vector_out { s with regs := rs } view c
    exact ⟨rs', os, hv⟩
  · exact ⟨rs, s.out, rfl⟩

theorem persist_idle (hsnap : s.boxSnap = none) (hnew : Instr.bbxPersistComplete ∉ s.agenda) :
    s.persist = { s with boxSnap := some s.box, agenda := s.agenda ++ [.bbxPersistComplete] } := by
  have absent : s.agenda.contains .bbxPersistComplete = false := by simpa using hnew
  rw [State.persist, hsnap, Option.isSome_none, if_neg Bool.false_ne_true, State.postOnce, absent, if_neg Bool.false_ne_true]
  rfl

theorem persist_busy {evs : List BoxEv} (hsnap : s.boxSnap = some evs) : s.persist = { s with boxNext := true } := by
  rw [State.persist, hsnap, Option.isSome_some, if_pos rfl]

/-- The record that a persist has left in the older copy, with its PERSIST event, and BBXSAVE raised. -/
def State.persisted (s : State) (evs : List BoxEv) : State :=
  ({ s with
    boxSnap := none, boxNext := false, box := s.box ++ [⟨s.dlc, 10, 0xFFFF, 0, 0, 0⟩], boxCount := s.boxCount + 1
    flash := { s.flash with box := 1 - s.flash.box, boxes := s.flash.boxes.set (1 - s.flash.box) (evs.flatMap BoxEv.bytes) } } : State).irq 0 16

theorem persistComplete_idle (hsnap : s.boxSnap = none) : exec .bbxPersistComplete s = .next s := by
  change execBbxPersistComplete s = _
  rw [execBbxPersistComplete, hsnap]

theorem persistComplete_running {evs : List BoxEv} (hsnap : s.boxSnap = some evs) (hroom : s.box.length < 1024) :
    exec .bbxPersistComplete s = .next (if s.boxNext then (s.persisted evs).persist else s.persisted evs) := by
  have room : ¬s.box.length ≥ 1024 := by omega
  change execBbxPersistComplete s = _
  simp only [execBbxPersistComplete, hsnap, State.boxPut, room, if_false]
  rfl

/-- A persist that was wanted meanwhile follows, of the record as it stands then. -/
theorem persisted_persist (evs : List BoxEv) (hnew : Instr.bbxPersistComplete ∉ s.agenda) : (s.persisted evs).persist = { s.persisted evs with
    boxSnap := some (s.persisted evs).box, agenda := (s.persisted evs).agenda ++ [.bbxPersistComplete] } := by
  obtain ⟨rs, os, hirq⟩ := irq_out { s with
    boxSnap := none, boxNext := false, box := s.box ++ [⟨s.dlc, 10, 0xFFFF, 0, 0, 0⟩], boxCount := s.boxCount + 1
    flash := { s.flash with box := 1 - s.flash.box, boxes := s.flash.boxes.set (1 - s.flash.box) (evs.flatMap BoxEv.bytes) } } 0 16
  exact persist_idle (by rw [State.persisted, hirq]) (by rw [State.persisted, hirq]; exact hnew)
end

/-! ## Reads of the BMC (R453) and sensors (R425) -/

section
variable {s : State}

theorem bmcRead_open {idx : Nat} (h : idx ∈ [0x2C01, 0x2C03, 0x2C04]) : s.bmcRead idx = { s with out := s.out ++ [.bmc idx (s.rreg 0 idx)] } := by
  simp only [List.mem_cons, List.not_mem_nil, or_false] at h
  rcases h with rfl | rfl | rfl <;> rfl

theorem bmcRead_bbxStat : s.bmcRead 0x2800 = { s with out := s.out ++ [.bmc 0x2800 s.bbxStat] } := rfl

theorem bmcRead_closed {idx : Nat} (h : idx ∉ [0x2C01, 0x2800, 0x2C03, 0x2C04]) : s.bmcRead idx = s := by
  have closed : [0x2C01, 0x2C03, 0x2C04, 0x2800].contains idx = false := by
    simp only [List.mem_cons, List.not_mem_nil, or_false, not_or] at h
    obtain ⟨h1, h2, h3, h4⟩ := h
    simp [h1, h2, h3, h4]
  rw [State.bmcRead, closed, if_neg Bool.false_ne_true]

/-- A temperature below 115 degrees, in eighths of a degree, as a register holds it. -/
theorem eighths_toInt {d : Int} (hlo : 0 ≤ d) (hhi : d < 920) : (BitVec.ofInt 32 d).toInt = d :=
  BitVec.toInt_ofInt_eq_self (by decide) (by omega) (by omega)

/-- Below 115 degrees the sensors set their two registers, and nothing trips. -/
theorem sensor_cool {p : Nat} {d : Int} (hlo : 0 ≤ d) (hhi : d < 920) :
    s.sensor p d = (s.wreg 0 0x2C03 (BitVec.ofNat 32 p)).wreg 0 0x2C04 (BitVec.ofInt 32 d) := by
  have temp : ((s.wreg 0 0x2C03 (BitVec.ofNat 32 p)).wreg 0 0x2C04 (BitVec.ofInt 32 d)).temp = d := by
    rw [State.temp, rreg_wreg, if_pos rfl, eighths_toInt hlo hhi]
  have stays : landed ((s.wreg 0 0x2C03 (BitVec.ofNat 32 p)).wreg 0 0x2C04 (BitVec.ofInt 32 d))
      (execThermalTrip ((s.wreg 0 0x2C03 (BitVec.ofNat 32 p)).wreg 0 0x2C04 (BitVec.ofInt 32 d))) =
      (s.wreg 0 0x2C03 (BitVec.ofNat 32 p)).wreg 0 0x2C04 (BitVec.ofInt 32 d) := by
    rw [execThermalTrip, temp, if_pos hhi]
    rfl
  simp only [State.sensor, stays, ite_self]

theorem sensor_power {p : Nat} {d : Int} (hlo : 0 ≤ d) (hhi : d < 920) (hp : p < 2 ^ 32) : (s.sensor p d).rregN 0 0x2C03 = p := by
  rw [sensor_cool hlo hhi, State.rregN, rreg_wreg_ne (by decide), rreg_wreg, if_pos rfl]
  exact Nat.mod_eq_of_lt hp

theorem sensor_temp {p : Nat} {d : Int} (hlo : 0 ≤ d) (hhi : d < 920) : ((s.sensor p d).rreg 0 0x2C04).toInt = d := by
  rw [sensor_cool hlo hhi, rreg_wreg, if_pos rfl, eighths_toInt hlo hhi]
end

/-- Settles O55: accesses from outside to the device's own memory, the persists of the black box, errors of memory, the sensors, and the reads of the
board management controller. -/
theorem outsideEvents : Obligations.OutsideEvents := by
  unfold Obligations.OutsideEvents
  intro s pa port bs v n near written
  refine ⟨?writes, ?others, ?deep, ?read, ?reduction, fabricPortFallback_notes port, ?idle, ?bmc, ?host, rfl, memError_hard, ?sensors, ?running⟩
  case writes =>
    rintro ⟨hline, hpos, hin⟩
    exact ⟨postedWrite_own hline hpos hin, fun hdeep => fabricWrite_own hdeep hline hpos hin⟩
  case others => exact fun h => ⟨postedWrite_other h, fabricRead_other h⟩
  case deep => exact fun hdeep data ty => ⟨fabricAccess_deep hdeep data, reductionDelivery_deep hdeep ty v⟩
  case read => exact fun hdeep h hs => fabricRead_own hdeep h hs
  case reduction => exact fun hdeep h halign => reductionDelivery_f32 hdeep h halign v
  case idle => exact fun hsnap => ⟨persistComplete_idle hsnap, fun hnew => congrArg Host.Outcome.next (persist_idle hsnap hnew)⟩
  case bmc => exact fun idx => ⟨bmcRead_open, fun h => h ▸ bmcRead_bbxStat, bmcRead_closed⟩
  case host =>
    rintro hboot hs ⟨-, hpos, hin⟩
    exact hostRead_own hboot hs hpos hin
  case sensors => exact fun p d hhi hlo hp => ⟨sensor_power hlo hhi hp, sensor_temp hlo hhi⟩
  case running =>
    intro evs hsnap
    refine ⟨congrArg Host.Outcome.next (persist_busy hsnap), ?_⟩
    intro hroom f t
    refine ⟨fun hnext => ?_, fun hnext hnew => ?_⟩
    · rw [persistComplete_running hsnap hroom, hnext]
      rfl
    · rw [persistComplete_running hsnap hroom, hnext, if_pos rfl, persisted_persist evs hnew]
      rfl

end Sys2Proof.Machine
end

section
/-! O45, StripStreams: how a STRIP queue takes an entry, the events of REGISTER and RETIRE, those of a stream and of its windows, and the
statement. -/

namespace Sys2Proof.Machine

/-! ## One stream found -/

section
variable {s : State} {slot : Nat} {x : StripStream}

theorem stream?_slot (h : s.stream? slot = some x) : x.slot = slot := by simpa using List.find?_some h

theorem stream?_only (hs : s.streams = [x]) (hslot : x.slot = slot) : s.stream? slot = some x := by
  rw [State.stream?, hs, List.find?_cons, hslot, beq_self_eq_true]

/-- The state with other streams. -/
def State.withStreams (s : State) (xs : List StripStream) : State := { s with streams := xs }

theorem updStream_only (hs : s.streams = [x]) (hslot : x.slot = slot) (f : StripStream → StripStream) :
    s.updStream slot f = s.withStreams [f x] := by
  rw [State.updStream, hs, List.map_singleton, if_pos hslot]
  rfl

theorem updStream_withStreams (hslot : x.slot = slot) (f : StripStream → StripStream) :
    (s.withStreams [x]).updStream slot f = s.withStreams [f x] :=
  updStream_only rfl hslot f

/-- A front end finds a stream of its own by the handle of its slot (R364). -/
theorem owned_handle (hslot : slot < 16) (hx : s.stream? slot = some x) : s.owned x.fe (slot + 1) = some x := by
  have hin : (decide (slot + 1 < 1) || decide (slot + 1 > 16)) = false := by simp; omega
  rw [State.owned, hin, if_neg Bool.false_ne_true, Nat.add_sub_cancel, hx, Option.filter_some, beq_self_eq_true, if_pos rfl]

/-- A stream that retires without strips leaves its chain, and one that closes frees its slot (R364). -/
theorem stripSweep_retires (hslot : x.slot = slot) (hstrips : x.strips = []) (hretire : x.retire = true) : (s.withStreams [x]).stripSweep slot =
    if x.close then (s.withStreams []).sctl slot 0 0
    else (s.withStreams [{ x with strips := [], retire := false, tmpl := none }]).sctl slot 1 0 := by
  have hgone : ([{ x with strips := [] }].filter fun y : StripStream => y.slot != slot) = [] := by simp [hslot]
  have hreset := fun f => updStream_withStreams (s := s) (x := { x with strips := [] }) hslot f
  simp only [State.stripSweep, stream?_only (s := s.withStreams [x]) rfl hslot, updStream_withStreams hslot, hstrips, List.filter_nil,
    List.isEmpty_nil, Bool.not_true, Bool.or_false, hreset]
  rw [if_neg (by simp [hretire])]
  exact congrArg (fun r : State => if x.close then r else _) (congrArg (fun xs => (s.withStreams xs).sctl slot 0 0) hgone)

end

/-! ## Entries of a STRIP queue (R354, R355) -/

/-- Entry `idx` is the next that a STRIP queue takes: no graph runs, and nothing holds the queue back (R355). -/
structure State.takesNext (s : State) (fe q idx : Nat) : Prop where
  enabled : (s.rreg fe (0x0800 + 16 * q)).getLsbD 31 = true
  strip : (s.rreg fe (0x0800 + 16 * q)).toNat / 2 ^ 26 % 4 = 0
  boots : s.boot = .ready
  noFlr : fe ∉ s.flrs
  awake : s.wakeState fe = 0
  head : s.queueHead fe q = idx
  pending : s.pending fe q ≠ 0
  noGraphs : s.graphs = []

/-- The entry's bytes as read, with FLAGS and the reserved bytes within their limits (R355). -/
structure State.readsEntry (s : State) (fe q idx : Nat) (bs : List Byte) : Prop where
  read : (s.rdcSync (64 * fe + fld (s.rregN fe (0x0800 + 16 * q)) 16 6) true).feRead (64 * fe + fld (s.rregN fe (0x0800 + 16 * q)) 16 6)
    (s.rreg2 fe (0x0800 + 16 * q + 1) + 16 * idx) 16 .sys = (.ok bs, s)
  flags : at' bs 9 1 < 2
  reserved : zeroAt bs 10 2 = true

section
variable {s : State} {fe q idx : Nat} {bs : List Byte} (h : s.takesNext fe q idx) (hbs : s.readsEntry fe q idx bs)

include h in
theorem State.takesNext.mayTake : s.mayTake fe q idx = true := by
  simp [State.mayTake, State.rregN, bitOf_toNat, h.enabled, h.boots, h.noFlr, h.awake, h.head, h.pending, State.queueGraphs,
    State.running', h.noGraphs]

include h hbs

/-- An entry of OP 1 or 2 is handed to what its event does with it. -/
theorem readEntry_strip (hop : at' bs 8 1 = 1 ∨ at' bs 8 1 = 2) (redo : Instr) (f : State → Nat → Nat → Nat → Nat → State) :
    s.readEntry fe q idx redo f = f s (at' bs 0 8) (at' bs 8 1) (at' bs 9 1) (at' bs 12 4) := by
  have hstrip : (fld (s.rregN fe (0x0800 + 16 * q)) 26 2 == 0) = true := beq_iff_eq.mpr h.strip
  have hflags : fld (at' bs 9 1) 1 7 = 0 := by
    have := hbs.flags
    rw [fld]
    omega
  have hgood : (decide (at' bs 8 1 > 2) || decide (fld (at' bs 9 1) 1 7 ≠ 0) || !zeroAt bs 10 2
      || (decide (at' bs 8 1 = 0) && !zeroAt bs 12 4) || (decide (at' bs 8 1 ≥ 1) && !(fld (s.rregN fe (0x0800 + 16 * q)) 26 2 == 0))) = false := by
    rcases hop with hop | hop <;> simp [hop, hflags, hbs.reserved, hstrip]
  simp only [State.readEntry, h.mayTake, Bool.not_true, Bool.false_eq_true, if_false, hbs.read, hgood]

/-! ## REGISTER and RETIRE (R364) -/

variable {slot : Nat} {x : StripStream} (hslot : slot < 16) (hx : s.stream? slot = some x) (hfe : x.fe = fe) (hhandle : at' bs 12 4 = slot + 1)
include hslot hx hfe hhandle

section
variable {g : Graph} {eng ix : Nat} (hop : at' bs 8 1 = 1)
  (hload : s.loadGraph (newGraph 0 (64 * fe + fld (s.rregN fe (0x0800 + 16 * q)) 16 6) (.strip slot 0) (at' bs 0 8) 0 q false none) true
    = (.ok (g, false), s))
  (hstaged : staged g.nodes ≠ none) (hnames : s.chainNames g = (.ok ([slot + 1, slot + 1, slot + 1], eng, ix), s))
  (htmpl : x.tmpl = none) (hretire : x.retire = false)
include hop hload hstaged hnames htmpl hretire

/-- A chain that passes R282 and R284, of a stream of the front end without one, is admitted or refused (R364, R367). -/
theorem register_chain : exec (.register fe q idx) s = .next (
    let y : StripStream := { x with asid := 64 * fe + fld (s.rregN fe (0x0800 + 16 * q)) 16 6, queue := q, eng := (eng, ix) }
    let sq := s.nextFrame y * y.desc.n
    if s.admits y = true then
      ((s.updStream slot fun _ => { y with tmpl := some (at' bs 0 8), nextSq := sq, scanSq := sq }).sctl slot 2 0).entryDone fe q (at' bs 9 1)
    else s.refuseChain (slot + 1) fe q (at' bs 9 1) g 8 (.register fe q idx)) := by
  subst hfe
  obtain ⟨ns, hns⟩ := Option.ne_none_iff_exists'.mp hstaged
  change execRegister x.fe q idx s = _
  rw [execRegister, readEntry_strip h hbs (.inl hop)]
  simp only [hop, hhandle, ne_eq, not_true_eq_false, if_false, Nat.add_sub_cancel, hload, hns, Option.isNone_some, Bool.or_self, Bool.false_eq_true,
    hnames, List.any_cons, List.any_nil, bne_self_eq_false, owned_handle hslot hx, htmpl, hretire, Option.isSome_none, Bool.false_or,
    Bool.not_eq_true', ← Bool.not_eq_true, ite_not, stream?_slot hx]

end

/-- A stream of the front end without a chain has none to retire. -/
theorem retire_none (hop : at' bs 8 1 = 2) (htmpl : x.tmpl = none) : exec (.retire fe q idx) s = .next (s.entryDone fe q (at' bs 9 1)) := by
  subst hfe
  change execRetire x.fe q idx s = _
  rw [execRetire, readEntry_strip h hbs (.inr hop)]
  simp only [hop, hhandle, ne_eq, not_true_eq_false, if_false, owned_handle hslot hx, htmpl, Option.isNone_none, if_true]

/-- A stream without strips goes back to STATE 1 at once (R364). -/
theorem retire_only (hop : at' bs 8 1 = 2) (htmpl : x.tmpl ≠ none) (hstrips : x.strips = []) (hclose : x.close = false) (hs : s.streams = [x]) :
    exec (.retire fe q idx) s = .next (((s.withStreams [{ x with strips := [], retire := false, tmpl := none }]).sctl slot 1 0).entryDone
      fe q (at' bs 9 1)) := by
  obtain rfl := hfe
  obtain rfl := stream?_slot hx
  change execRetire x.fe q idx s = _
  rw [execRetire, readEntry_strip h hbs (.inr hop)]
  simp only [hop, hhandle, ne_eq, not_true_eq_false, if_false, owned_handle hslot hx, Option.isNone_iff_eq_none, htmpl]
  have hat : ({ x with retire := true } : StripStream).slot = x.slot := rfl
  rw [updStream_only hs rfl, stripSweep_retires hat hstrips rfl, if_neg (by simp [hclose])]

end

/-- A refused chain without a completion object: the entry is consumed, and the stream's STATUS is 2 (R364). -/
theorem refuseChain_noObject {s : State} {x : StripStream} {slot q flags status : Nat} {g : Graph} (hslot : slot < 16) (hx : s.stream? slot = some x)
    (htmpl : x.tmpl = none) (hcpl : g.cpl = 0) (redo : Instr) :
    s.refuseChain (slot + 1) x.fe q flags g status redo = (s.sctl slot 1 2).entryDone x.fe q flags := by
  simp only [State.refuseChain, owned_handle hslot hx, htmpl, hcpl, Option.isSome_none, Bool.false_eq_true, if_false, stream?_slot hx, decide_true,
    Bool.true_or, if_true]

/-- An entry that is decided is consumed, with QDONE where IRQ is set (R355). -/
theorem entryDone_eq (s : State) (fe q flags : Nat) : s.entryDone fe q flags =
    ((if flags % 2 = 1 then ((s.consume fe q).rdcSync (64 * fe + (s.consume fe q).rregN fe (0x0800 + 16 * q) / 2 ^ 16 % 64) false).irq fe 0
      else s.consume fe q).queueGo fe q) := by
  simp only [State.entryDone, bitOf, pow_zero, Nat.div_one, beq_iff_eq]
  rfl

/-! ## STREAM_OPEN and STREAM_CLOSE (R121, R364) -/

section
variable {s : State} {slot : Nat}

theorem streamOpen_open (h : s.stream? slot ≠ none) : exec (.streamOpen slot) s = .next s := by
  have hopen : ((s.stream? slot).isSome || decide (slot ≥ 16)) = true := by simp [Option.isSome_iff_ne_none.mpr h]
  change execStreamOpen slot s = _
  simp only [execStreamOpen, hopen, if_true]

/-- The front end that a slot's TTS_SCTL names as its owner (R363). -/
def State.opener (s : State) (slot : Nat) : Nat := fld (s.sreg slot 0) 16 5

/-- The owner, the descriptor and the base address pass R121. -/
abbrev State.openFits (s : State) (slot : Nat) (bs : List Byte) : Prop :=
  s.opener slot ≤ 16 ∧ s.descPasses bs (readDesc bs) = true ∧ s.rreg2 0 (streamReg slot 22) ≠ 0
    ∧ s.rreg2 0 (streamReg slot 22) % 4096 = 0 ∧ s.rreg2 0 (streamReg slot 22) < 2 ^ 52

/-- TF times a power of two, 1 to 16, is TABLEN, and the other periods are not 0 (R363). -/
abbrev State.periodsFit (s : State) (slot : Nat) : Prop :=
  (∃ j, j < 5 ∧ s.sreg slot 5 * 2 ^ j = s.rregN 0 0x0C09) ∧ s.sreg slot 6 ≠ 0 ∧ s.sreg slot 8 ≠ 0 ∧ s.sreg slot 9 ≠ 0 ∧ s.sreg slot 10 ≠ 0

/-- A stream right after its opening: no chain, no strip. -/
def openedStream (slot fe : Nat) (d : Desc) : StripStream := ⟨slot, fe, d, 64 * fe, none, 0, 0, 0, (0, 0), [], [], false, [], none, false, false⟩

/-- A free slot is opened with a descriptor that can be read, or STATUS tells which check fails (R364). -/
theorem streamOpen_free {bs : List Byte} (hslot : slot < 16) (hfree : s.stream? slot = none)
    (hread : s.feRead (64 * s.opener slot) (s.rreg2 0 (streamReg slot 1)) 64 .dev = (.ok bs, s)) : exec (.streamOpen slot) s = .next (
    if ¬s.openFits slot bs then s.sctl slot 0 1
    else if ¬s.periodsFit slot then s.sctl slot 0 3
    else (s.withStreams (s.streams ++ [openedStream slot (s.opener slot) (readDesc bs)])).sctl slot 1 0) := by
  have hopener : fld (s.sreg slot 0) 16 5 = s.opener slot := rfl
  have hnew : ((s.stream? slot).isSome || decide (slot ≥ 16)) = false := by simp [hfree, hslot]
  have hasset : s.asset (64 * s.opener slot) (s.rreg2 0 (streamReg slot 1)) 64 = (some bs, s) := by rw [State.asset, hread]
  have hfits : (decide (s.opener slot > 16) || !s.descPasses bs (readDesc bs) || decide (s.rreg2 0 (streamReg slot 22) = 0)
      || decide (s.rreg2 0 (streamReg slot 22) % 4096 ≠ 0) || decide (s.rreg2 0 (streamReg slot 22) ≥ 2 ^ 52)) = true ↔ ¬s.openFits slot bs := by
    simp only [Bool.or_eq_true, decide_eq_true_eq, Bool.not_eq_true', ← Bool.not_eq_true, State.openFits, not_and_or, not_le, not_lt,
      gt_iff_lt, ge_iff_le, ne_eq, not_not, or_assoc]
  have hperiods : (!((upFrom 0 5).any (fun j => s.sreg slot 5 * 2 ^ j == s.rregN 0 0x0C09) && decide (s.sreg slot 6 ≠ 0)
      && decide (s.sreg slot 8 ≠ 0) && decide (s.sreg slot 9 ≠ 0) && decide (s.sreg slot 10 ≠ 0))) = true ↔ ¬s.periodsFit slot := by
    simp only [Bool.not_eq_true', ← Bool.not_eq_true, Bool.and_eq_true, decide_eq_true_eq, List.any_eq_true, beq_iff_eq, mem_upFrom, zero_le,
      true_and, zero_add, and_assoc, State.periodsFit]
  change execStreamOpen slot s = _
  unfold execStreamOpen
  rw [hnew, if_neg Bool.false_ne_true]
  simp only [hopener, hasset, hfits, hperiods]
  rfl

/-- A stream without strips closes at once. -/
theorem streamClose_only {x : StripStream} (hs : s.streams = [x]) (hslot : x.slot = slot) (hstrips : x.strips = []) :
    exec (.streamClose slot) s = .next ((s.withStreams []).sctl slot 0 0) := by
  have hat : ({ x with retire := true, close := true } : StripStream).slot = slot := hslot
  change execStreamClose slot s = _
  rw [execStreamClose, updStream_only hs hslot, stripSweep_retires hat hstrips rfl]
  rfl

/-! ## CHAIN_INSTANTIATE (R364) -/

section
variable {x : StripStream} {va : Nat} (hx : s.stream? slot = some x) (htmpl : x.tmpl = some va)
include hx htmpl

theorem chainInstantiate_retiring (hretire : x.retire = true) : exec (.chainInstantiate slot) s = .next s := by
  change execChainInstantiate slot s = _
  simp only [execChainInstantiate, hx, htmpl, hretire, if_true]

/-- A strip before anything has happened to it. -/
def newStrip (sq graph : Nat) : Strip := ⟨sq, graph, 0, 0, [], 0, [], [], [], [], 0, none, [], [], false, false, false, false⟩

/-- The next strip gets a graph of its own, which starts, and its frame stands in TTS_FRAME. -/
theorem chainInstantiate_next (hretire : x.retire = false) : exec (.chainInstantiate slot) s = .next
    (((({ s with
        fresh := s.fresh + 1
        graphs := s.graphs ++ [newGraph s.fresh x.asid (.strip slot x.nextSq) va 0 x.queue false none] } : State).updStream slot fun y =>
          { y with nextSq := x.nextSq + 1, strips := y.strips ++ [newStrip x.nextSq s.fresh] }).wreg 0 (streamReg slot 14)
      (BitVec.ofNat 32 (x.nextSq / max 1 x.desc.n))).post (.graphStart s.fresh)) := by
  change execChainInstantiate slot s = _
  simp only [execChainInstantiate, hx, htmpl, hretire, Bool.false_eq_true, if_false]
  rfl
end

/-! ## Reservations (R368) -/

section
variable {x : StripStream} {t : Strip} {stage : Nat} (hs : s.streams = [x]) (hslot : x.slot = slot) (hstrips : x.strips = [t])
include hs hslot hstrips

theorem strip?_only : s.strip? slot t.sq = some (x, t) := by
  rw [State.strip?, stream?_only hs hslot, Option.bind_some, StripStream.strip?, hstrips, List.find?_cons, beq_self_eq_true]
  rfl

theorem updStrip_only (f : Strip → Strip) : s.updStrip slot t.sq f = s.withStreams [{ x with strips := [f t] }] := by
  rw [State.updStrip, updStream_only hs hslot, hstrips, List.map_singleton, if_pos rfl]

theorem reservationStart_begun (hbegun : stage + 10 ∈ t.opened) : exec (.reservationStart slot t.sq stage) s = .next s := by
  change execReservationStart slot t.sq stage s = _
  simp only [execReservationStart, strip?_only hs hslot hstrips, List.contains_eq_mem, hbegun, decide_true, Bool.true_or, if_true]

/-- The stage holds the lowest of the exclusive cores that no window holds, and its window opens. -/
theorem reservationStart_holds (hwgs : s.wgs = []) (hnew : stage + 10 ∉ t.opened) (hlo : 1 ≤ stage) (hhi : stage ≤ 3) :
    exec (.reservationStart slot t.sq stage) s = .next (({ s with holds := s.holds ++ [⟨slot, t.sq, stage,
      ((s.exclusive x.fe).filter fun c => !(s.holds.any fun h => h.cores.contains c)).take (s.stageCores slot stage)⟩] } : State).withStreams
        [{ x with strips := [{ t with opened := t.opened ++ [stage + 10] }] }]) := by
  have hgo : (t.opened.contains (stage + 10) || decide (stage < 1) || decide (stage > 3)) = false := by
    simp only [List.contains_eq_mem, Bool.or_eq_false_iff, decide_eq_false_iff_not]
    exact ⟨⟨hnew, by omega⟩, by omega⟩
  have hopens := fun hs' => updStrip_only (s := { s with wgs := [], holds := hs' }) hs hslot hstrips
  change execReservationStart slot t.sq stage s = _
  simp only [execReservationStart, strip?_only hs hslot hstrips, hgo, Bool.false_eq_true, if_false, hwgs, List.filter_nil, List.flatMap_nil,
    List.isEmpty_nil, if_true]
  exact congrArg _ (hopens _ _)
end
end

/-! ## The statement -/

/-- Settles O45: the entries of a STRIP queue by what REGISTER and RETIRE do with them, and the events of a slot one by one. -/
theorem stripStreams : Obligations.StripStreams := by
  unfold Obligations.StripStreams
  refine ⟨?entries, ?events⟩
  case entries =>
    intro s fe q idx slot bs x b ctl size head asid done henabled hstrip hboots hflr hawake hhead hpending hgraphs hslot hread hflags hzero
      hhandle hx hfe
    have hnext : s.takesNext fe q idx := ⟨henabled, hstrip, hboots, hflr, hawake, hhead, hpending, hgraphs⟩
    have hbs : s.readsEntry fe q idx bs := ⟨hread, hflags, hzero⟩
    have hdone : ∀ t : State, done t = t.entryDone fe q (at' bs 9 1) := fun t => (entryDone_eq t fe q _).symm
    refine ⟨?register, fun hop => ⟨fun htmpl => ?_, fun htmpl hstrips hclose hs => ?_⟩⟩
    case register =>
      intro g eng ix r sh p hop hload hstaged hnames hr hsh hp htmpl hretire y sq
      subst hr hsh hp
      have hchain := register_chain hnext hbs hslot hx hfe hhandle hop hload hstaged hnames htmpl hretire
      refine ⟨fun hadm => ?_, fun hadm hcpl => ?_⟩
      · rw [hchain, hdone]
        exact congrArg _ (if_pos hadm)
      · rw [hchain, hdone]
        subst hfe
        exact congrArg _ ((if_neg fun hyes => Bool.false_ne_true (hadm.symm.trans hyes)).trans (refuseChain_noObject hslot hx htmpl hcpl _))
    · rw [hdone]
      exact retire_none hnext hbs hslot hx hfe hhandle hop htmpl
    · rw [hdone]
      exact retire_only hnext hbs hslot hx hfe hhandle hop htmpl hstrips hclose hs
  case events =>
    intro s slot bs hslot at0 reg reg2 fe ctl d
    refine ⟨fun hfree hread => ?_, streamOpen_open, fun x hs hat hstrips => streamClose_only hs hat hstrips, fun x va hx htmpl => ?_,
      fun x t stage hs hat hstrips hwgs _ => ?_⟩
    · intro fits times
      have hopen := streamOpen_free hslot hfree hread
      refine ⟨fun hno => ?_, fun hfit hno => ?_, fun hfit htimes => ?_⟩
      · exact hopen.trans (congrArg _ (if_pos hno))
      · exact hopen.trans (congrArg _ ((if_neg (not_not.mpr hfit)).trans (if_pos hno)))
      · exact hopen.trans (congrArg _ ((if_neg (not_not.mpr hfit)).trans (if_neg (not_not.mpr htimes))))
    · exact ⟨chainInstantiate_retiring hx htmpl, chainInstantiate_next hx htmpl⟩
    · exact ⟨reservationStart_begun hs hat hstrips, reservationStart_holds hs hat hstrips hwgs, rfl⟩

end Sys2Proof.Machine
end

section
/-! O48, O49 and O50: the states that refute them. The statements range over all states, also over those in which a stream lists a sequence number
twice, or two streams stand in one slot. An update of a strip or of a stream changes every record of that name, each from its own fields, where the
statements take the fields of the record that is found first. -/

namespace Sys2Proof.Machine

/-- A stream in slot 0, of frames of `lines` lines without a pixel. -/
def blankStream (lines : Nat) (ts : List Strip) : StripStream :=
  ⟨0, 0, ⟨0, lines, 0, 0, 0, 0, 0, 0, 0, 0, 0, 0#64, 0#32, 0, 0, 0, 0, 0⟩, 0, none, 0, 2, 0, (0, 0), ts, [], false, [], none, false, false⟩

/-- The streams after an outcome. -/
def streamsOf : Host.Outcome State Fault Refusal → List StripStream
  | .next s => s.streams
  | _ => []

/-! ## O48: the level at the end of rasterisation (R141) -/

def runningRender : GNode := ⟨8, 0, [], 0, .running, 0, 0, 0, [], 1, none⟩

def renderGraph : Graph := ⟨60, 0, .strip 0 1, 0, true, 0, 0, 0, 3, 0, [runningRender], 0, false, 0, false, none⟩

/-- Strip 1 is listed at level 0 and at level 2, behind a strip that is not shaded. -/
def twinLevels : StripStream := blankStream 0 [newStrip 0 60, newStrip 1 60, { newStrip 1 60 with lvl := 2 }]

def renderingTwins : State := { State.reset with streams := [twinLevels], graphs := [renderGraph] }

def levelsOf (o : Host.Outcome State Fault Refusal) : List Nat := (streamsOf o).flatMap fun x => x.strips.map (·.lvl)

/-- Each of the two keeps a level of its own. -/
theorem levelsOf_renderNode_twins : levelsOf (exec (.renderNode 60 0 (some 0)) renderingTwins) = [0, 0, 2] := by decide +kernel

/-- Refutes O48: at the end of rasterisation a strip whose predecessor is not shaded takes the larger of its own level and one below the
predecessor's, so the second of the two keeps level 2, where the statement gives it the level of the first. -/
theorem not_stageNodes : ¬ Obligations.StageNodes := by
  unfold Obligations.StageNodes
  intro h
  obtain ⟨-, hdraw, -⟩ := h renderingTwins 60 0 0 1 renderGraph runningRender twinLevels (newStrip 1 60) [] [] rfl rfl rfl List.not_mem_nil
  obtain ⟨hdone, -⟩ := hdraw rfl rfl 0
  obtain ⟨-, hbefore⟩ := hdone rfl
  have claimed : levelsOf (exec (.renderNode 60 0 (some 0)) renderingTwins) = [0, 0, 0] :=
    congrArg levelsOf (hbefore (newStrip 0 60) (by decide) rfl List.not_mem_nil)
  rw [levelsOf_renderNode_twins] at claimed
  exact absurd claimed (by decide)

/-! ## O49: the cost counter of a strip (R140) -/

/-- A strip whose tile 0 has been placed. -/
def placedStrip : Strip := { newStrip 1 60 with lvl := 4, next := 1 }

/-- A frame of the first stream is one strip, a frame of the second is two. -/
def twinStreams : State := { State.reset with streams := [blankStream 16 [placedStrip], blankStream 32 [placedStrip]] }

def costsOf (o : Host.Outcome State Fault Refusal) : List (SMap (Option (Nat × Nat))) := (streamsOf o).map (·.costs)

/-- Strip 1 is strip 0 of a frame of the first stream, and strip 1 of one of the second. -/
theorem costsOf_tileComplete_twins : costsOf (exec (.tileComplete 0 1 0) twinStreams) = [[(0, some (0, 0))], [(1, some (0, 0))]] := by
  decide +kernel

/-- Refutes O49: the end of a strip's last tile sets in either stream the cost counter of the strip index that its own frames give, where the
statement takes the index in the first stream for both. -/
theorem not_tilesAndFinishes : ¬ Obligations.TilesAndFinishes := by
  unfold Obligations.TilesAndFinishes
  intro h
  obtain ⟨htile, -⟩ := h twinStreams 0 1 (blankStream 16 [placedStrip]) placedStrip rfl rfl rfl rfl rfl rfl rfl
  obtain ⟨-, hends⟩ := htile 0
  obtain ⟨-, hlast⟩ := hends List.not_mem_nil List.not_mem_nil (by decide)
  have claimed : costsOf (exec (.tileComplete 0 1 0) twinStreams) = [[(0, some (0, 0))], [(0, some (0, 0))]] :=
    (congrArg costsOf (hlast (by decide +kernel))).trans (by decide +kernel)
  rw [costsOf_tileComplete_twins] at claimed
  exact absurd claimed (by decide)

/-! ## O50: the miss of a scan-out (R144) -/

/-- Strip 1 is listed as published, and again as not published. -/
def twinOuts : StripStream := blankStream 0 [{ newStrip 1 60 with out := true }, newStrip 1 60]

def scanningTwins : State := { State.reset with streams := [twinOuts] }

def missesOf (o : Host.Outcome State Fault Refusal) : List Bool := (streamsOf o).flatMap fun x => x.strips.map (·.late)

/-- The one that is not published is late. -/
theorem missesOf_scanout_twins : missesOf (exec (.scanout 0 1) scanningTwins) = [false, true] := by decide +kernel

/-- Refutes O50: the scan-out of a published strip marks as late each strip of that number that is not published, where the statement marks none. -/
theorem not_publication : ¬ Obligations.Publication := by
  unfold Obligations.Publication
  intro h
  obtain ⟨-, -, hscan⟩ := h scanningTwins 0 0 0 1 renderGraph runningRender twinOuts { newStrip 1 60 with out := true } [] rfl
  obtain ⟨hpublished, -⟩ := hscan rfl rfl
  have claimed : missesOf (exec (.scanout 0 1) scanningTwins) = [false, false] :=
    (congrArg missesOf (hpublished rfl (by decide))).trans (by decide +kernel)
  rw [missesOf_scanout_twins] at claimed
  exact absurd claimed (by decide)

end Sys2Proof.Machine
end

section
/-! O9, BranchResults: the target of an offset, branches in lanes whose targets are legal, a branch through registers in one lane, and the
statement. -/

namespace Sys2Proof.Machine

/-! ## Targets and link values (R164, R166) -/

section
variable {s : State} (hpc : s.iss.pc.toNat < 2 ^ 52)
include hpc

theorem toInt_packetOf : (packetOf s.iss.pc).toInt = (s.iss.pc.toNat / 12 * 12 : Nat) := by
  have below : s.iss.pc.toNat / 12 * 12 < 2 ^ 52 := by omega
  have whole : (packetOf s.iss.pc).toNat = s.iss.pc.toNat / 12 * 12 := Nat.mod_eq_of_lt (by omega)
  rw [BitVec.toInt_eq_toNat_of_lt (by omega), whole]

/-- The target of an offset is P + 12 × OFF modulo 2^52. -/
theorem target_eq (off : Int) : s.target off = BitVec.ofInt 64 (((s.iss.pc.toNat / 12 * 12 : Nat) + 12 * off) % 2 ^ 52) := by
  have wrapped : 0 ≤ ((s.iss.pc.toNat / 12 * 12 : Nat) + 12 * off) % 2 ^ 52 := Int.emod_nonneg _ (by decide)
  rw [State.target, toInt_packetOf hpc, ← BitVec.ofInt_natCast]
  exact congrArg _ (Int.toNat_of_nonneg wrapped)
end

theorem packetOf_add_twelve (a : DWord) : packetOf a + 12 = BitVec.ofNat 64 (a.toNat / 12 * 12 + 12) := (BitVec.ofNat_add ..).symm

/-- A thread whose v118:v119 holds the link value of a chain. -/
def Thread.linkedAt (u : Thread) (pc : DWord) : Thread := (u.wr2 (.v 118) (packetOf pc + 12)).trimLog

theorem linkedAt_uid (u : Thread) (pc : DWord) : (u.linkedAt pc).uid = u.uid := by simp [Thread.linkedAt]

/-- A lane that links and jumps is one update of its thread. -/
theorem jump_link (s : State) (n : Nat) (a : DWord) :
    (s.link n).jump n a = s.updThr n fun u => { u.linkedAt s.iss.pc with pc := a } :=
  updThr_updThr s n _ _ fun u => linkedAt_uid u s.iss.pc

/-! ## Lanes that consume clean operands -/

/-- The pass of an instruction that consumes operands, none of them poisoned, when each lane then updates its own thread. -/
theorem consuming_eq_inLanes {s : State} {g : Pred} {os : List Opnd} {f : Thread → Thread → Thread} {step : State → Thread → State}
    (h : s.apart) (hreads : s.reads g os) (huid : ∀ t u, (f t u).uid = u.uid)
    (hstep : ∀ t ∈ s.acting g, ∀ xs, step (s.withThreads xs) t = (s.withThreads xs).updThr t.uid (f t)) :
    s.consuming g os step = s.inLanes g f :=
  eachLane_eq_inLanes h g f _ huid fun t ht xs => by rw [hreads t ht, if_neg Bool.false_ne_true, hstep t ht xs]

theorem toTarget_bad {s : State} {t : Thread} {a x : DWord} {c : Nat} (h : targetCause a = some (c, x)) (f : State → State) :
    s.toTarget t a f = s.trapHere t.uid c 0 x := by rw [State.toTarget, h]

theorem targetCause_high {a : DWord} (h : 2 ^ 52 ≤ a.toNat) : targetCause a = some (7, a) := if_pos h

theorem targetCause_unaligned {a : DWord} (hlt : a.toNat < 2 ^ 52) (h : a.toNat % 12 ≠ 0) : targetCause a = some (10, 0) := by
  rw [targetCause, if_neg (by omega), if_pos h]

/-! ## The instructions (R227) -/

section
variable {s : State} {g : Pred} {a : Src} {link : Bool}

theorem jmp_effect (off : BitVec 21) : s.laneEffect (.jmp g off) g fun _ u => { u with pc := s.target off.toInt } := fun hi => by
  change execJmp g off s = _
  rw [execJmp, issued_body hi.1]
  exact congrArg _ (eachLane_eq_inLanes hi.2 g _ _ (fun _ _ => rfl) fun _ _ _ => rfl)

theorem call_effect (off : BitVec 21) :
    s.laneEffect (.call g off) g fun _ u => { u.linkedAt s.iss.pc with pc := s.target off.toInt } := fun hi => by
  change execCall g off s = _
  rw [execCall, issued_body hi.1]
  exact congrArg _ (eachLane_eq_inLanes hi.2 g _ _ (fun _ u => linkedAt_uid u s.iss.pc) fun _ _ _ => jump_link ..)

theorem jmpx_jumps (hi : s.canIssue (.jmpx g a link))
    (h : ∀ t ∈ s.acting g, t.opPois (.s2 a) = false ∧ (s.src2 t a).toNat < 2 ^ 52 ∧ (s.src2 t a).toNat % 12 = 0) :
    exec (.jmpx g a link) s =
      .next (s.inLanes g fun t u => { (if link then u.linkedAt s.iss.pc else u) with pc := s.src2 t a }) := by
  have clean : s.reads g [.s2 a] := fun t ht => by
    obtain ⟨hpois, -⟩ := h t ht
    simpa using hpois
  change execJmpx g a link s = _
  rw [execJmpx, issued_body hi.1]
  refine congrArg _ (consuming_eq_inLanes hi.2 clean (fun t u => ?_) fun t ht xs => ?_)
  · cases link
    · rfl
    · exact linkedAt_uid u s.iss.pc
  · obtain ⟨-, hlt, hmod⟩ := h t ht
    rw [toTarget_ok hlt hmod]
    cases link
    · rfl
    · exact jump_link ..

theorem ret_jumps (hi : s.canIssue (.ret g))
    (h : ∀ t ∈ s.acting g, t.opPois (.s2 (.v 118)) = false ∧ (s.src2 t (.v 118)).toNat < 2 ^ 52 ∧ (s.src2 t (.v 118)).toNat % 12 = 0) :
    exec (.ret g) s = .next (s.inLanes g fun t u => { u with pc := s.src2 t (.v 118) }) := by
  have clean : s.reads g [.impl 118 2 false] := fun t ht => by
    obtain ⟨hpois, -⟩ := h t ht
    exact (Bool.or_false _).trans hpois
  change execRet g s = _
  rw [execRet, issued_body hi.1]
  refine congrArg _ (consuming_eq_inLanes hi.2 clean (fun _ _ => rfl) fun t ht xs => ?_)
  obtain ⟨-, hlt, hmod⟩ := h t ht
  exact toTarget_ok hlt hmod _

/-- A branch through registers whose target is illegal traps with its cause and nothing else (R165, R227). -/
theorem jmpx_traps {t : Thread} {entry x : DWord} {c : Nat} (h : s.alone (.jmpx g a link) g t) (hmay : s.mayTrap t entry)
    (hpois : t.opPois (.s2 a) = false) (hbad : targetCause (s.src2 t a) = some (c, x)) :
    exec (.jmpx g a link) s = .next (s.trapsHere t entry c 0 x) := by
  change execJmpx g a link s = _
  rw [execJmpx, issued_body h.issues, consuming_one h.acts (by simpa using hpois), toTarget_bad hbad, trapHere_mayTrap h.found hmay]
end

/-- Settles O9: each transfer is one update of every acting lane's thread, and an illegal target is the cause of the trap. -/
theorem branchResults : Obligations.BranchResults := by
  unfold Obligations.BranchResults
  refine ⟨fun s g hpc => ?_, fun s g a link t entry h hmay hpois => ⟨fun high => ?_, fun low odd => ?_⟩⟩
  · simp only [← target_eq hpc, ← packetOf_add_twelve]
    exact ⟨jmp_effect, call_effect, fun _ _ => jmpx_jumps, ret_jumps⟩
  · exact jmpx_traps h hmay hpois (targetCause_high high)
  · exact jmpx_traps h hmay hpois (targetCause_unaligned low odd)

end Sys2Proof.Machine
end

section
/-! O57, RoundTrip: the instruction that refutes it. HOIST is two words long, so no field of it may hold the literal code (R48, R154). The model's
well-formedness looks for a literal in B of a HOIST to an offset, and in the register field of its target when it has one, but not in B of a HOIST to a
register pair. The decoder refuses the words of such a HOIST. -/

namespace Sys2Proof

/-- HOIST to the pair v0:v1, with a literal where B names the destination workgroup (R271). -/
def literalHoist : Instr := .hoist 7 0 0 (.lit 5) (.pair (.v 0)) 0 false

theorem wf_literalHoist : literalHoist.wf = true := by decide

theorem encode_literalHoist : encode literalHoist = [0x73E00079, 1] := by decide

theorem decodeThread_literalHoist : decodeThread 0x73E00079 (some 1) = .error .literal := by decide

/-- Refutes O57: a HOIST to a register pair with a literal in B is well-formed, and its words do not decode. -/
theorem not_roundTrip : ¬ Obligations.RoundTrip := by
  unfold Obligations.RoundTrip
  intro h
  obtain ⟨hthread, -⟩ := h literalHoist wf_literalHoist (by simp [encode_literalHoist])
  rcases hthread rfl with ⟨w, hw, -⟩ | ⟨w, x, hw, hdecode⟩
  · simp [encode_literalHoist] at hw
  · obtain ⟨rfl, rfl⟩ : 0x73E00079 = w ∧ 1 = x := by simpa [encode_literalHoist] using hw
    rw [decodeThread_literalHoist] at hdecode
    cases hdecode

end Sys2Proof
end

section
/-! SUPPORT. Laws of results of one register or a pair: the operand values of each form, and what a write and a raise leave. -/

namespace Sys2Proof.Machine

/-- Raising no flag changes nothing. -/
@[simp] theorem raised_zero (s : State) (u : Thread) : s.raised u 0 = u := by simp [State.raised]

theorem alu32_words (f : Word → Word → Word → Word) (l : Nat) (x y z : Word) :
    alu32 f l (x.setWidth 64) (y.setWidth 64) (z.setWidth 64) = ((f x y z).setWidth 64, 0) := by
  simp only [alu32, lo32_setWidth]

/-- The low word of a number. -/
theorem lo32_ofNat (n : Nat) : lo32 (BitVec.ofNat 64 n) = BitVec.ofNat 32 n :=
  BitVec.eq_of_toNat_eq (by simp [lo32])

/-- A number that fits in a word, as a double word. -/
theorem ofNat_setWidth64 {n : Nat} (h : n < 2 ^ 32) : (BitVec.ofNat 32 n).setWidth 64 = BitVec.ofNat 64 n := by
  refine BitVec.eq_of_toNat_eq ?_
  rw [toNat_setWidth64, BitVec.toNat_ofNat, BitVec.toNat_ofNat]
  omega

section
variable {s : State} {i : Instr} {g : Pred} {d : Dst} {a b e : Src} {f : Word → Word → Word → Word} {f2 : DWord → DWord → DWord → DWord}
  {F : Thread → Word} {F2 : Thread → DWord}

theorem wordResult_one (hexec : exec i s = aluExec i (alu32 f) g d false s) (hsrcs : i.srcs = [.s a]) (hF : ∀ t, f (s.src t a) 0 0 = F t) :
    s.wordResult i g d F :=
  laneResult_alu hexec fun t => by rw [vals_one hsrcs, opnd_src, ← hF]; exact alu32_words f t.lane (s.src t a) 0 0

theorem wordResult_two (hexec : exec i s = aluExec i (alu32 f) g d false s) (hsrcs : i.srcs = [.s a, .s b])
    (hF : ∀ t, f (s.src t a) (s.src t b) 0 = F t) : s.wordResult i g d F :=
  laneResult_alu hexec fun t => by rw [vals_two hsrcs, opnd_src, opnd_src, ← hF]; exact alu32_words f t.lane _ _ 0

theorem wordResult_three (hexec : exec i s = aluExec i (alu32 f) g d false s) (hsrcs : i.srcs = [.s a, .s b, .s e])
    (hF : ∀ t, f (s.src t a) (s.src t b) (s.src t e) = F t) : s.wordResult i g d F :=
  laneResult_alu hexec fun t => by rw [vals_three hsrcs, opnd_src, opnd_src, opnd_src, ← hF, alu32_words]

/-- The destination is read as the last source. -/
theorem wordResult_acc (hexec : exec i s = aluExec i (alu32 f) g d false s) (hsrcs : i.srcs = [.s a, .s b, .ds d])
    (hF : ∀ t, f (s.src t a) (s.src t b) (t.old d) = F t) : s.wordResult i g d F :=
  laneResult_alu hexec fun t => by rw [vals_three hsrcs, opnd_src, opnd_src, opnd_old, ← hF, alu32_words]

theorem pairResult_two (hexec : exec i s = aluExec i (alu64 f2) g d true s) (hsrcs : i.srcs = [.s2 a, .s2 b])
    (hF : ∀ t, f2 (s.src2 t a) (s.src2 t b) 0 = F2 t) : s.pairResult i g d F2 :=
  laneResult_alu hexec fun t => by rw [vals_two hsrcs, ← hF]; rfl

/-- Two words and the destination's pair. -/
theorem pairResult_acc (hexec : exec i s = aluExec i (alu64 f2) g d true s) (hsrcs : i.srcs = [.s a, .s b, .ds2 d])
    (hF : ∀ t, f2 ((s.src t a).setWidth 64) ((s.src t b).setWidth 64) (t.old2 d) = F2 t) : s.pairResult i g d F2 :=
  laneResult_alu hexec fun t => by rw [vals_three hsrcs, opnd_src, opnd_src, opnd_old2, ← hF]; rfl
end

end Sys2Proof.Machine
end

section
/-! O1, IntegerResults: integers in words, and the statement. -/

namespace Sys2Proof.Machine

/-! ## Products (R190) -/

theorem mulHigh_signed (x y : Word) :
    ((x.signExtend 64 * y.signExtend 64) >>> 32).setWidth 32 = BitVec.ofInt 32 (x.toInt * y.toInt / 2 ^ 32) := by
  rw [BitVec.signExtend, BitVec.signExtend, ← BitVec.ofInt_mul]
  generalize x.toInt * y.toInt = p
  refine BitVec.eq_of_toNat_eq ?_
  rw [BitVec.toNat_setWidth, BitVec.toNat_ushiftRight, Nat.shiftRight_eq_div_pow, BitVec.toNat_ofInt, BitVec.toNat_ofInt]
  omega

theorem mulHigh_unsigned (x y : Word) :
    ((x.setWidth 64 * y.setWidth 64) >>> 32).setWidth 32 = BitVec.ofNat 32 (x.toNat * y.toNat / 2 ^ 32) := by
  refine BitVec.eq_of_toNat_eq ?_
  rw [BitVec.toNat_setWidth, BitVec.toNat_ushiftRight, Nat.shiftRight_eq_div_pow, BitVec.toNat_mul, toNat_setWidth64, toNat_setWidth64,
    BitVec.toNat_ofNat]
  generalize x.toNat * y.toNat = p
  omega

theorem mul_unsigned (x y : Word) : x.setWidth 64 * y.setWidth 64 = BitVec.ofNat 64 (x.toNat * y.toNat) := by
  refine BitVec.eq_of_toNat_eq ?_
  rw [BitVec.toNat_mul, toNat_setWidth64, toNat_setWidth64, BitVec.toNat_ofNat]

/-! ## Sums of absolute differences -/

theorem toNat_byte (x : Word) (k : Nat) : ((x >>> (8 * k)) &&& 0xFF#32).toNat = x.toNat / 2 ^ (8 * k) % 256 := by
  rw [BitVec.toNat_and, BitVec.toNat_ushiftRight, Nat.shiftRight_eq_div_pow]
  exact Nat.and_two_pow_sub_one_eq_mod _ 8

theorem byteDiff_eq (x y : Word) (k : Nat) :
    byteDiff x y k = BitVec.ofNat 32 (((x.toNat / 2 ^ (8 * k) % 256 : Nat) : Int) - (y.toNat / 2 ^ (8 * k) % 256 : Nat)).natAbs := by
  refine BitVec.eq_of_toNat_eq ?_
  simp only [byteDiff, BitVec.le_def, toNat_byte]
  have hx : x.toNat / 2 ^ (8 * k) % 256 < 256 := Nat.mod_lt _ (by decide)
  have hy : y.toNat / 2 ^ (8 * k) % 256 < 256 := Nat.mod_lt _ (by decide)
  split <;> rw [BitVec.toNat_sub, toNat_byte, toNat_byte, BitVec.toNat_ofNat] <;> omega

theorem isad_sum (x y z : Word) : z + byteDiff x y 0 + byteDiff x y 1 + byteDiff x y 2 + byteDiff x y 3 =
    z + BitVec.ofNat 32 (((List.range 4).map fun k =>
      (((x.toNat / 2 ^ (8 * k) % 256 : Nat) : Int) - (y.toNat / 2 ^ (8 * k) % 256 : Nat)).natAbs).sum) := by
  have sum4 : ∀ p : Nat → Nat, ((List.range 4).map p).sum = p 0 + (p 1 + (p 2 + p 3)) := fun p => by simp [List.range_succ]
  simp only [sum4, byteDiff_eq, BitVec.ofNat_add, BitVec.add_assoc]

/-! ## Moves (R206) -/

theorem movhi_word (x : Word) (imm : BitVec 14) :
    (imm.setWidth 32 <<< 18) ||| (x &&& 0x3FFFF#32) = BitVec.ofNat 32 (x.toNat % 2 ^ 18 + imm.toNat * 2 ^ 18) := by
  refine BitVec.eq_of_toNat_eq ?_
  have low : (x &&& 0x3FFFF#32).toNat = x.toNat % 2 ^ 18 := by
    rw [BitVec.toNat_and]
    exact Nat.and_two_pow_sub_one_eq_mod _ 18
  have high : (imm.setWidth 32 <<< 18).toNat = imm.toNat <<< 18 := by
    rw [BitVec.toNat_shiftLeft, BitVec.toNat_setWidth_of_le (by decide), Nat.shiftLeft_eq]
    exact Nat.mod_eq_of_lt (by omega)
  rw [BitVec.toNat_or, low, high, ← Nat.shiftLeft_add_eq_or_of_lt (Nat.mod_lt _ (by decide)), Nat.shiftLeft_eq, BitVec.toNat_ofNat]
  omega

section
variable {s : State} {g : Pred} {d : Dst} {a : Src}

theorem mov_result (w : Bool) : s.laneResult (.mov g d a w) g d w fun t => (s.opnd t (.sw w a), 0) :=
  laneResult_alu rfl fun t => by
    rw [vals_one (x := .sw w a) (by simp [Instr.srcs, Instr.operands])]
    cases w
    · rw [opnd_narrow]
      exact congrArg (fun x : Word => (x.setWidth 64, (0 : Flags))) (lo32_setWidth _)
    · rfl

/-- MOVK reads the constants of its thread's launch. -/
theorem movk_result (w : Bool) (n : BitVec 5) : s.laneResult (.movk g d w n) g d w fun t =>
    let k := fun i => (((s.launchOfWg t.wg).map (·.consts)).getD []).getD i 0#32
    (pairOf (k n.toNat) (k (n.toNat + 1)), 0) := fun hi _ => by
  simp only [raised_zero]
  exact laneEffect_of_pass (i := .movk g d w n) rfl (fun _ _ => rfl) (fun t u => by simp) hi
end

theorem lo32_pairOf (x y : Word) : lo32 (pairOf x y) = x := by
  rw [lo32, pairOf]
  refine BitVec.eq_of_getLsbD_eq fun i hi => ?_
  simp [hi]

theorem wrW_word (u : Thread) (d : Dst) (x : DWord) : u.wrW false d ((lo32 x).setWidth 64) = u.wrW false d x := by
  simp only [Thread.wrW, lo32_setWidth, Bool.false_eq_true, if_false]

/-- A narrow result counts by its low word alone. -/
theorem wordResult_of_laneResult {s : State} {i : Instr} {g : Pred} {d : Dst} {f : Thread → DWord}
    (h : s.laneResult i g d false fun t => (f t, 0)) : s.wordResult i g d fun t => lo32 (f t) := fun hi hr => by
  simp only [wrW_word]
  exact h hi hr

/-- Settles O1: each instruction is one function of the words of its operands. -/
theorem integerResults : Obligations.IntegerResults := by
  unfold Obligations.IntegerResults
  refine ⟨fun s g d a b => ?arith, fun s g d a => ?moves⟩
  case arith =>
    intro A B A2 B2
    refine ⟨wordResult_two rfl rfl fun _ => rfl, wordResult_two rfl rfl fun _ => rfl, wordResult_two rfl rfl fun _ => rfl,
      wordResult_two rfl rfl fun t => mulHigh_signed (A t) (B t), wordResult_two rfl rfl fun t => mulHigh_unsigned (A t) (B t),
      wordResult_acc rfl rfl fun _ => rfl, wordResult_two rfl rfl fun t => ?min, wordResult_two rfl rfl fun t => ?max,
      wordResult_two rfl rfl fun _ => rfl, wordResult_two rfl rfl fun _ => rfl, wordResult_acc rfl rfl fun t => isad_sum (A t) (B t) (t.old d),
      pairResult_two rfl rfl fun _ => rfl, pairResult_two rfl rfl fun _ => rfl, pairResult_two rfl rfl fun _ => rfl,
      pairResult_acc rfl rfl fun t => ?imaw, pairResult_acc rfl rfl fun t => ?nmaw⟩
    case min => simp only [BitVec.sle_iff_toInt_le]; rfl
    case max => simp only [BitVec.sle_iff_toInt_le]; rfl
    case imaw => simp only [lo32_setWidth, BitVec.ofInt_mul]; rfl
    case nmaw => rw [lo32_setWidth, lo32_setWidth, mul_unsigned]
  case moves =>
    refine ⟨wordResult_of_laneResult (mov_result false), mov_result true, fun imm => ⟨?movi, ?movhi⟩, fun n => ⟨?one, movk_result true n⟩⟩
    case movi => exact laneResult_alu rfl fun _ => rfl
    case movhi =>
      exact laneResult_alu rfl fun t => by
        rw [vals_one (x := .ds d) rfl, opnd_old]
        exact (alu32_words _ t.lane (t.old d) 0 0).trans (congrArg (fun x : Word => (x.setWidth 64, (0 : Flags))) (movhi_word (t.old d) imm))
    case one => simpa only [lo32_pairOf] using wordResult_of_laneResult (movk_result (s := s) (g := g) (d := d) false n)

end Sys2Proof.Machine
end

section
/-! O2, BitResults: bits of the words of logic, counts and fields, and the statement. -/

namespace Sys2Proof

/-! ## Bits -/

theorem bitOf_eq_testBit (n k : Nat) : bitOf n k = n.testBit k := by
  rw [bitOf, Nat.testBit_eq_decide_div_mod_eq]; rfl

theorem toNat_pairOf (lo hi : Word) : (pairOf lo hi).toNat = lo.toNat + 2 ^ 32 * hi.toNat := by
  have high : (hi.setWidth 64 <<< 32).toNat = hi.toNat <<< 32 := by
    rw [BitVec.toNat_shiftLeft, BitVec.toNat_setWidth_of_le (by decide), Nat.shiftLeft_eq]
    exact Nat.mod_eq_of_lt (by omega)
  rw [pairOf, BitVec.toNat_or, high, BitVec.toNat_setWidth_of_le (by decide), ← Nat.shiftLeft_add_eq_or_of_lt lo.isLt, Nat.shiftLeft_eq]
  omega

/-- A shift by 31 leaves copies of the sign. -/
theorem sshiftRight_31 (x : Word) : x.sshiftRight 31 = if x.msb then 0xFFFFFFFF#32 else 0 := by
  have ones : (0xFFFFFFFF#32 : Word) = BitVec.allOnes 32 := by decide
  refine BitVec.eq_of_getLsbD_eq fun i hi => ?_
  have sign : (x.sshiftRight 31).getLsbD i = x.msb := by
    rw [BitVec.getLsbD_sshiftRight]
    obtain rfl | h : i = 0 ∨ ¬ 31 + i < 32 := by omega
    · simp [BitVec.msb_eq_getLsbD_last]
    · simp [h, hi]
  rw [sign, ones]
  cases x.msb
  · simp
  · exact (BitVec.getLsbD_allOnes.trans (decide_eq_true hi)).symm

theorem wordBits_getLsbD (f : Nat → Bool) {i : Nat} (hi : i < 32) : (wordBits f).getLsbD i = f i := by
  rw [wordBits, BitVec.getLsbD_ofNat, Machine.testBit_maskOf]
  simp [Machine.mem_upFrom, hi]

/-! ## Counts (R191) -/

/-- The set bits among the `n` lowest. -/
theorem setBits_length (n : Nat) (x : DWord) : (setBits n x.toNat).length = ((List.range n).filter fun i => x.getLsbD i).length := by
  have bit : ∀ i, bitOf x.toNat i = x.getLsbD i := fun i => bitOf_eq_testBit x.toNat i
  have all : upFrom 0 n = List.range n := by simp [Machine.upFrom_eq_map]
  simp only [setBits, bit, all]

/-- The zeros above the highest set bit of a number of `n` bits. -/
def leadingZeros (n : Nat) (x : DWord) : Nat := if x.toNat % 2 ^ n = 0 then n else n - 1 - Nat.log2 (x.toNat % 2 ^ n)

theorem leadingZeros_le (n : Nat) (x : DWord) : leadingZeros n x ≤ n := by
  unfold leadingZeros
  split <;> omega

section
variable {n : Nat} {x : DWord}

theorem leadingZeros_ne (hx : x.toNat < 2 ^ n) (h : x.toNat ≠ 0) : leadingZeros n x = n - 1 - Nat.log2 x.toNat := by
  rw [leadingZeros, Nat.mod_eq_of_lt hx, if_neg h]

theorem getLsbD_leadingZeros (hx : x.toNat < 2 ^ n) {i : Nat} (hlo : n - leadingZeros n x ≤ i) : x.getLsbD i = false := by
  refine Nat.testBit_lt_two_pow ?_
  rcases Nat.eq_zero_or_pos x.toNat with h | h
  · rw [h]; exact Nat.two_pow_pos i
  · have hlog : Nat.log2 x.toNat < n := (Nat.log2_lt h.ne').mpr hx
    rw [leadingZeros_ne hx h.ne'] at hlo
    exact Nat.lt_log2_self.trans_le (Nat.pow_le_pow_right (by decide) (by omega))

theorem getLsbD_below_leadingZeros (hx : x.toNat < 2 ^ n) (hz : leadingZeros n x < n) : x.getLsbD (n - 1 - leadingZeros n x) = true := by
  have h : x.toNat ≠ 0 := fun h => by simp [leadingZeros, h] at hz
  have hlog : Nat.log2 x.toNat < n := (Nat.log2_lt h).mpr hx
  have top : n - 1 - leadingZeros n x = Nat.log2 x.toNat := by
    rw [leadingZeros_ne hx h]; omega
  rw [top]
  exact Nat.testBit_log2 h
end

/-- The `n` lowest bits in reverse order. -/
def reversed (n : Nat) (x : DWord) : DWord := BitVec.ofNat 64 (maskOf ((upFrom 0 n).filter fun i => x.getLsbD (n - 1 - i)))

theorem reversed_getLsbD {n : Nat} (hn : n ≤ 64) (x : DWord) (i : Nat) :
    (reversed n x).getLsbD i = (decide (i < n) && x.getLsbD (n - 1 - i)) := by
  rw [reversed, BitVec.getLsbD_ofNat, Machine.testBit_maskOf]
  by_cases hi : i < n
  · have low : i < 64 := by omega
    simp [Machine.mem_upFrom, hi, low]
  · simp [Machine.mem_upFrom, hi]

/-! ## Bit fields (R192) -/

theorem fld_mod (x p n : Nat) : fld x p n % 2 ^ n = fld x p n := Nat.mod_mod _ _

theorem signedOf_fld (x p n : Nat) : signedOf n (fld x p n) =
    if fld x p n < 2 ^ (n - 1) then (fld x p n : Int) else (fld x p n : Int) - 2 ^ n := by
  rw [signedOf, fld_mod]
  push_cast
  rfl

/-- A bit of BFI's result comes from the field or from the old destination. -/
theorem fieldInsert_getLsbD (p n : Nat) (x y : Word) {i : Nat} (hi : i < 32) :
    ((y &&& ~~~ BitVec.ofNat 32 ((2 ^ n - 1) * 2 ^ p)) ||| ((x <<< p) &&& BitVec.ofNat 32 ((2 ^ n - 1) * 2 ^ p))).getLsbD i =
      if p ≤ i ∧ i < p + n then x.getLsbD (i - p) else y.getLsbD i := by
  have mask : (BitVec.ofNat 32 ((2 ^ n - 1) * 2 ^ p)).getLsbD i = decide (p ≤ i ∧ i < p + n) := by
    rw [BitVec.getLsbD_ofNat, Nat.testBit_mul_two_pow, Nat.testBit_two_pow_sub_one]
    by_cases h : p ≤ i
    · have : i - p < n ↔ i < p + n := by omega
      simp [hi, h, this]
    · simp [h]
  simp only [BitVec.getLsbD_or, BitVec.getLsbD_and, BitVec.getLsbD_not, BitVec.getLsbD_shiftLeft, mask]
  by_cases h : p ≤ i ∧ i < p + n
  · have : ¬ i < p := by omega
    simp [h, hi, this]
  · simp [h, hi]

/-- A byte of BPERM's result, chosen by four bits of the third operand. -/
theorem bpermByte_eq (x y z : Word) (i : Nat) : bpermByte x y z i =
    let k := z.toNat / 2 ^ (4 * i) % 16
    let v := (x.toNat + 2 ^ 32 * y.toNat) / 2 ^ (8 * (k % 8)) % 256
    if k < 8 then v else if v < 128 then 0 else 255 := by
  simp only [bpermByte, toNat_pairOf, fld, show (2 : Nat) ^ 4 = 16 from rfl, show (2 : Nat) ^ 8 = 256 from rfl]
  generalize z.toNat / 2 ^ (4 * i) % 16 = k
  generalize (x.toNat + 2 ^ 32 * y.toNat) / 2 ^ (8 * (k % 8)) % 256 = v
  by_cases hk : k < 8 <;> by_cases hv : v < 128 <;> simp [hk, hv, Nat.not_le.mpr, Nat.not_lt.mp]

theorem bpermByte_lt (x y z : Word) (i : Nat) : bpermByte x y z i < 256 := by
  rw [bpermByte_eq]
  dsimp only
  split
  · exact Nat.mod_lt _ (by decide)
  · split <;> decide

/-- The word of four bytes. -/
theorem byte_of_four {b : Nat → Nat} (hb : ∀ i, b i < 256) {i : Nat} (hi : i < 4) :
    (BitVec.ofNat 32 (b 0 + 2 ^ 8 * b 1 + 2 ^ 16 * b 2 + 2 ^ 24 * b 3)).toNat / 2 ^ (8 * i) % 256 = b i := by
  have h0 := hb 0
  have h1 := hb 1
  have h2 := hb 2
  have h3 := hb 3
  rw [BitVec.toNat_ofNat]
  obtain rfl | rfl | rfl | rfl : i = 0 ∨ i = 1 ∨ i = 2 ∨ i = 3 := by omega
  all_goals omega

/-- BPERM's result. -/
def bpermWord (x y z : Word) : Word :=
  BitVec.ofNat 32 (bpermByte x y z 0 + 2 ^ 8 * bpermByte x y z 1 + 2 ^ 16 * bpermByte x y z 2 + 2 ^ 24 * bpermByte x y z 3)

end Sys2Proof

namespace Sys2Proof.Machine

/-- A source of one or the other width. -/
theorem opnd_sw (s : State) (t : Thread) (w : Bool) (a : Src) :
    s.opnd t (.sw w a) = if w then s.src2 t a else (s.src t a).setWidth 64 := by
  cases w
  · exact opnd_narrow s t a
  · rfl

section
variable {s : State} {i : Instr} {g : Pred} {d : Dst} {a : Src} {w : Bool}

/-- A count, which fits in a word, of a source of one or the other width. -/
theorem wordResult_count {f : DWord → Nat} (hexec : exec i s = aluExec i (alu64 fun x _ _ => BitVec.ofNat 64 (f x)) g d false s)
    (hsrcs : i.srcs = [.sw w a]) (hf : ∀ x, f x < 2 ^ 32) :
    s.wordResult i g d fun t => BitVec.ofNat 32 (f (if w then s.src2 t a else (s.src t a).setWidth 64)) :=
  laneResult_alu hexec fun t => by rw [vals_one hsrcs, opnd_sw, ofNat_setWidth64 (hf _)]; rfl

theorem count_lt {m : Nat} (h : m ≤ if w then 64 else 32) : m < 2 ^ 32 := h.trans_lt (by cases w <;> decide)
end

/-- Settles O2: each instruction is a function of the words of its operands, read bit by bit. -/
theorem bitResults : Obligations.BitResults := by
  unfold Obligations.BitResults
  refine ⟨fun s g d a b => ?logic, fun s g d a w => ?counts,
    fun s g d a b e => ⟨fun tt => ?tern, fun dir m => ?fsh, fun pos len => ?fields, ?bperm⟩⟩
  case logic =>
    intro A B
    refine ⟨wordResult_two rfl rfl fun _ => rfl, wordResult_two rfl rfl fun _ => rfl, wordResult_two rfl rfl fun _ => rfl,
      wordResult_two rfl rfl fun _ => rfl, wordResult_two rfl rfl fun _ => rfl, wordResult_two rfl rfl fun _ => rfl,
      wordResult_two rfl rfl fun t => ?sar, wordResult_acc rfl rfl fun _ => rfl⟩
    case sar => rw [sshiftRight_31]
  case counts =>
    intro n A
    have hn : n ≤ 64 := by cases w <;> decide
    have srcs : ∀ o : Opnd, o.isDst = true → [Opnd.sw w a, o].filter (!·.isDst) = [.sw w a] := fun o ho => by simp [ho]
    refine ⟨?pcnt,
      ⟨leadingZeros n, fun x hx => ⟨leadingZeros_le n x, fun i hlo _ => getLsbD_leadingZeros hx hlo, getLsbD_below_leadingZeros hx⟩, ?clz⟩,
      ⟨reversed n, reversed_getLsbD hn, ?brev⟩⟩
    case pcnt =>
      simp only [← setBits_length]
      refine wordResult_count (f := fun x => (setBits n x.toNat).length) rfl (srcs _ rfl) fun x => count_lt (w := w) ?_
      rw [setBits_length]
      exact (List.length_filter_le _ _).trans_eq List.length_range
    case clz => exact wordResult_count (f := leadingZeros n) rfl (srcs _ rfl) fun x => count_lt (w := w) (leadingZeros_le n x)
    case brev => exact laneResult_alu rfl fun t => by rw [vals_one (i := .brev g d a w) (srcs _ (Opnd.isDst_dw w d)), opnd_sw]; rfl
  case tern =>
    exact ⟨fun x y z => wordBits fun i => tt.getLsbD (4 * (x.getLsbD i).toNat + 2 * (y.getLsbD i).toNat + (z.getLsbD i).toNat),
      fun x y z i hi => wordBits_getLsbD _ hi, wordResult_three rfl rfl fun _ => rfl⟩
  case fsh => exact ⟨wordResult_two rfl rfl fun _ => rfl, wordResult_three rfl rfl fun _ => rfl⟩
  case fields =>
    intro n field
    refine ⟨wordResult_one rfl rfl fun _ => rfl, wordResult_one rfl rfl fun t => ?signed,
      fun x y => (y &&& ~~~ BitVec.ofNat 32 ((2 ^ n - 1) * 2 ^ pos.toNat)) ||| ((x <<< pos.toNat) &&& BitVec.ofNat 32 ((2 ^ n - 1) * 2 ^ pos.toNat)),
      fun x y i hi => fieldInsert_getLsbD pos.toNat n x y hi, ?bfi⟩
    case signed => exact congrArg (BitVec.ofInt 32) (signedOf_fld _ _ _)
    case bfi =>
      refine laneResult_alu rfl fun t => ?_
      rw [vals_two (x := .s a) (y := .ds d) rfl, opnd_src, opnd_old]
      exact alu32_words _ t.lane (s.src t a) (t.old d) 0
  case bperm =>
    exact ⟨bpermWord, fun x y z i hi => (byte_of_four (bpermByte_lt x y z) hi).trans (bpermByte_eq x y z i), wordResult_three rfl rfl fun _ => rfl⟩

end Sys2Proof.Machine
end

section
/-! O5, CompareResults: lanes that write a predicate, the orders that the conditions name, and the statement. -/

namespace Sys2Proof

theorem boolNat_eq (b : Bool) : Machine.boolNat b = b.toNat := by cases b <;> rfl

/-- A word as a signed number. -/
theorem signedOf_toNat {n : Nat} (x : BitVec n) : signedOf n x.toNat = x.toInt := by
  cases n with
  | zero => rw [BitVec.of_length_zero (x := x)]; rfl
  | succ n =>
      rw [signedOf, Nat.mod_eq_of_lt x.isLt, BitVec.toInt_eq_toNat_cond, Nat.add_sub_cancel, Nat.pow_succ]
      split <;> split <;> omega

/-- A compare of floats (R196): a NaN is unequal and unordered, and every other pair stands in one order. -/
theorem fcmpTrue_law (ty : Ty) (c : FCond) (x y : Nat) :
    let X := decodeF ty x
    let Y := decodeF ty y
    let ordered := decide (c = .lt ∨ c = .le ∨ c = .gt ∨ c = .ge)
    let lt := X.ltN Y
    let gt := Y.ltN X
    (fcmpTrue ty c x y).1 = (if X.isNan || Y.isNan then decide (c = .ne ∨ c = .un) else match c with
      | .eq => !lt && !gt | .ne => lt || gt | .lt => lt | .le => !gt || lt | .gt => gt | .ge => !lt || gt | .ord => true | .un => false)
    ∧ (fcmpTrue ty c x y).2 = if X.isSNan || Y.isSNan || (ordered && (X.isNan || Y.isNan)) then fNV else 0 := by
  intro X Y ordered lt gt
  refine ⟨?truth, by cases c <;> rfl⟩
  simp only [fcmpTrue, X, Y, lt, gt]
  generalize ((decodeF ty x).isNan || (decodeF ty y).isNan) = un
  generalize (decodeF ty x).ltN (decodeF ty y) = lt
  generalize (decodeF ty y).ltN (decodeF ty x) = gt
  cases un
  case true => cases c <;> rfl
  case false => cases c <;> cases lt <;> cases gt <;> rfl

namespace Machine

@[simp] theorem setPred_uid (t : Thread) (p : Pred) (b : Bool) : (t.setPred p b).uid = t.uid := by
  unfold Thread.setPred; split <;> rfl

section
variable {s : State} {i : Instr} {g p : Pred} {a b : Src}

/-- A compare of clean operands writes its predicate in each acting lane and raises its flags there. -/
theorem predResult_cmp {f : DWord → DWord → Bool × Flags} {F : Thread → Bool × Flags} (hexec : exec i s = cmpExec i f g p s)
    (hF : ∀ t, f (s.vals t i).1 (s.vals t i).2.1 = F t) : s.predResult i g p F := fun hi hr => by
  rw [hexec, cmpExec, issued_body hi.1, consuming_eq_inLanes hi.2 hr (f := fun t u => s.raised (u.setPred p (F t).1) (F t).2)
    (fun t u => by simp [State.raised]) fun t ht xs => ?_]
  simp only [vals_withThreads, hF]
  rw [raise_eq, updThr_updThr _ _ _ _ (by simp)]
  rfl

/-- What a source of one or the other width holds, as a signed number. -/
def State.signedCode (s : State) (w : Bool) (t : Thread) (a : Src) : Int := if w then (s.src2 t a).toInt else (s.src t a).toInt

theorem code_mod (w : Bool) (t : Thread) (a : Src) : (s.opnd t (.sw w a)).toNat % 2 ^ (if w then 64 else 32) = s.code w t a := by
  rw [toNat_opnd_sw]
  cases w
  · exact Nat.mod_eq_of_lt (s.src t a).isLt
  · exact Nat.mod_eq_of_lt (s.src2 t a).isLt

theorem signedOf_code (w : Bool) (t : Thread) (a : Src) : signedOf (if w then 64 else 32) (s.code w t a) = s.signedCode w t a := by
  cases w
  · exact signedOf_toNat (s.src t a)
  · exact signedOf_toNat (s.src2 t a)

theorem icmp_result (w : Bool) (c : ICond) : s.predResult (.icmp g w c p a b) g p fun t => (match c with
    | .eq => decide (s.code w t a = s.code w t b) | .ne => decide (s.code w t a ≠ s.code w t b)
    | .lt => decide (s.signedCode w t a < s.signedCode w t b) | .le => decide (s.signedCode w t a ≤ s.signedCode w t b)
    | .ltu => decide (s.code w t a < s.code w t b) | .leu => decide (s.code w t a ≤ s.code w t b)
    | .tst => decide (s.code w t a &&& s.code w t b ≠ 0) | .ntst => decide (s.code w t a &&& s.code w t b = 0), 0) :=
  predResult_cmp (f := fun x y => (icmpTrue w c x y, 0)) rfl fun t => by
    rw [vals_two (x := .sw w a) (y := .sw w b) (by simp [Instr.srcs, Instr.operands])]
    refine congrArg (·, (0 : Flags)) ?_
    simp only [icmpTrue, code_mod, signedOf_code]
    cases c
    case ne | tst => exact (decide_not ..).symm
    all_goals rfl
end

/-- Settles O5: each compare is one function of its operands' codes, and PLOP looks its truth table up. -/
theorem compareResults : Obligations.CompareResults := by
  unfold Obligations.CompareResults
  refine fun s g p a b => ⟨fun w c => ?icmp, ⟨fcmpTrue, fcmpTrue_law, fun c => ⟨?fcmp, ?dcmp⟩⟩, fun q r tt => ?plop⟩
  case icmp =>
    have result := icmp_result (s := s) (g := g) (p := p) (a := a) (b := b) w c
    cases c <;> exact result
  case fcmp =>
    refine predResult_cmp (f := fun x y => fcmpTrue .f32 c x.toNat y.toNat) rfl fun t => ?_
    rw [vals_two (x := .s a) (y := .s b) rfl, opnd_src, opnd_src, toNat_setWidth64, toNat_setWidth64]
  case dcmp =>
    refine predResult_cmp (f := fun x y => fcmpTrue .f64 c x.toNat y.toNat) rfl fun t => ?_
    rw [vals_two (x := .s2 a) (y := .s2 b) rfl]
    rfl
  case plop =>
    intro hi _
    simp only [raised_zero, ← boolNat_eq]
    exact laneEffect_of_pass (i := .plop g p q r tt) rfl (fun _ _ => rfl) (fun t u => by simp) hi

end Machine
end Sys2Proof
end

section
/-! SUPPORT. Laws of lane operations: a clean result in each lane, tiles of one size, and the lanes of a tile. -/

namespace Sys2Proof.Machine

theorem mem_active_of_acting {s : State} {g : Pred} {t : Thread} (h : t ∈ s.acting g) : t ∈ s.active g := List.mem_of_mem_filter h

/-- A clean word in a destination. -/
theorem wrW_setWidth (u : Thread) (d : Dst) (x : Word) : u.wrW false d (x.setWidth 64) = u.wr d x := by
  rw [Thread.wrW, lo32_setWidth, if_neg Bool.false_ne_true]

theorem wrW_ofNat (u : Thread) (d : Dst) (n : Nat) : u.wrW false d (BitVec.ofNat 64 n) = u.wr d (BitVec.ofNat 32 n) := by
  rw [Thread.wrW, lo32_ofNat, if_neg Bool.false_ne_true]

/-- A result without poison is one update of its lane's thread. -/
theorem laneOut_clean (s : State) (t : Thread) (d : Dst) (w : Bool) (x : DWord) (fl : Flags) :
    s.laneOut t d w false x fl = s.updThr t.uid fun u => s.raised ((u.wrW w d x).trimLog) fl := by
  rw [State.laneOut, if_neg Bool.false_ne_true, raise_eq, updThr_updThr _ _ _ _ (by simp)]
  rfl

/-- A pass in which each acting lane writes a result without poison. -/
theorem eachLane_laneOut {s : State} {g : Pred} (hs : s.apart) {step : State → Thread → State} {d : Dst} {w : Bool} {x : Thread → DWord}
    {fl : Thread → Flags} (hstep : ∀ t ∈ s.acting g, ∀ xs, step (s.withThreads xs) t = (s.withThreads xs).laneOut t d w false (x t) (fl t)) :
    s.eachLane g step = s.inLanes g fun t u => s.raised ((u.wrW w d (x t)).trimLog) (fl t) :=
  eachLane_eq_inLanes hs g _ _ (fun t u => by simp [State.raised]) fun t ht xs => by
    rw [hstep t ht xs, laneOut_clean, raised_withThreads]

/-! ## Tiles (R58, R208) -/

section
variable {s : State} {g : Pred} {k : Nat}

theorem tiled_same (h : ∀ t ∈ s.active g, t.logw = k) (f : State → Thread → State) : s.tiled g f = s.eachLane g f := by
  refine if_pos (List.all_eq_true.mpr fun t ht => ?_)
  cases hts : s.active g with
  | nil => simp [hts] at ht
  | cons u us =>
      have hu : u ∈ s.active g := hts ▸ List.mem_cons_self
      simp [h t ht, h u hu]

theorem atLane_mem {ts : List Thread} {l : Nat} {u : Thread} (h : atLane ts l = some u) : u ∈ ts := List.mem_of_find?_eq_some h

theorem atLane_lane {ts : List Thread} {l : Nat} {u : Thread} (h : atLane ts l = some u) : u.lane = l := by
  simpa using List.find?_some h

theorem tileOf_eq (ts : List Thread) (k l : Nat) : tileOf ts k l = (List.range (2 ^ k)).map fun p => atLane ts (l / 2 ^ k * 2 ^ k + p) := by
  rw [tileOf, upFrom_eq_map, List.map_map]
  rfl

/-- The active lanes of a tile. -/
theorem mem_tile {ts : List Thread} {l : Nat} {u : Thread} :
    u ∈ (tileOf ts k l).filterMap id ↔ ∃ p < 2 ^ k, atLane ts (l / 2 ^ k * 2 ^ k + p) = some u := by
  simp [tileOf_eq]

/-- A lane's position in its tile. -/
theorem tile_position {ts : List Thread} {l p : Nat} {u : Thread} (hp : p < 2 ^ k) (h : atLane ts (l / 2 ^ k * 2 ^ k + p) = some u) :
    u.lane % 2 ^ k = p := by
  rw [atLane_lane h, Nat.mul_add_mod_self_right, Nat.mod_eq_of_lt hp]
end

end Sys2Proof.Machine
end

section
/-! O6, LaneResults: the sources of SWZ, the votes of a tile, sums over a tree, and the statement. -/

namespace Sys2Proof.Machine

/-! ## SWZ (R209) -/

/-- The position that a lane of a tile reads, where there is one. -/
theorem swzPos_bind {α : Type} (mode : SwzMode) {p w : Nat} (hp : p < w) (n b : Nat) (f : Nat → Option α) :
    (swzPos mode p n w b).bind f = match mode with
      | .bcast => if n < w then f n else none
      | .xor => if p ^^^ n < w then f (p ^^^ n) else none
      | .up => if n ≤ p then f (p - n) else none
      | .down => if p + n < w then f (p + n) else none
      | .rot => f ((p + n) % w)
      | .idx => if b % 32 < w then f (b % 32) else none := by
  have position : ∀ m : Nat, (if 0 ≤ (m : Int) && (m : Int) < w then some (m : Int).toNat else none).bind f =
      if m < w then f m else none := fun m => by
    by_cases h : m < w <;> simp [h]
  cases mode with
  | bcast => exact position n
  | xor => exact position (p ^^^ n)
  | down => exact position (p + n)
  | idx => exact position (b % 32)
  | rot => exact (position _).trans (if_pos (Nat.mod_lt _ (by omega)))
  | up =>
      by_cases h : n ≤ p
      · have shift : ((p : Int) - n) = ((p - n : Nat) : Int) := by omega
        simp only [swzPos, shift]
        exact (position (p - n)).trans (by rw [if_pos (by omega), if_pos h])
      · simp [swzPos, h]

/-! ## VOTE (R210) -/

/-- What VOTE answers over the active lanes of a tile. -/
def voteNat (op : VoteOp) (ps : Pred) (w : Nat) (tl : List Thread) : Nat :=
  let yes := tl.filter (·.pred ps)
  match op with
  | .ballot => maskOf (yes.map fun t => t.lane % w)
  | .any => boolNat (!yes.isEmpty)
  | .all => boolNat (yes.length == tl.length)
  | .eq => boolNat (yes.isEmpty || yes.length == tl.length)

/-- A word holds the truth value of a proposition. -/
def tells (x : Word) (q : Prop) : Prop := (x = 1 ∨ x = 0) ∧ (x = 1 ↔ q)

theorem tells_boolNat {b : Bool} {q : Prop} (h : b = true ↔ q) : tells (BitVec.ofNat 32 (boolNat b)) q := by
  rw [tells, ← h]
  cases b <;> decide

section
variable {ps : Pred} {w : Nat} {tl : List Thread} {somePred someNot : Prop}

theorem nobody_votes (hp : (∃ u ∈ tl, u.pred ps = true) ↔ somePred) : (tl.filter (·.pred ps)).isEmpty = true ↔ ¬somePred := by
  simp [← hp]

theorem everybody_votes (hn : (∃ u ∈ tl, u.pred ps = false) ↔ someNot) : ((tl.filter (·.pred ps)).length == tl.length) = true ↔ ¬someNot := by
  simp [← hn, List.length_filter_eq_length_iff]

theorem voteNat_any (hp : (∃ u ∈ tl, u.pred ps = true) ↔ somePred) : tells (BitVec.ofNat 32 (voteNat .any ps w tl)) somePred :=
  tells_boolNat (by rw [Bool.not_eq_true', ← Bool.not_eq_true, nobody_votes hp, not_not])

theorem voteNat_all (hn : (∃ u ∈ tl, u.pred ps = false) ↔ someNot) : tells (BitVec.ofNat 32 (voteNat .all ps w tl)) (¬someNot) :=
  tells_boolNat (everybody_votes hn)

theorem voteNat_eq (hp : (∃ u ∈ tl, u.pred ps = true) ↔ somePred) (hn : (∃ u ∈ tl, u.pred ps = false) ↔ someNot) :
    tells (BitVec.ofNat 32 (voteNat .eq ps w tl)) (¬(somePred ∧ someNot)) :=
  tells_boolNat (by rw [Bool.or_eq_true, nobody_votes hp, everybody_votes hn, not_and_or])

theorem voteNat_ballot (p : Nat) : (voteNat .ballot ps w tl).testBit p = true ↔ ∃ u ∈ tl, u.pred ps = true ∧ u.lane % w = p := by
  simp [voteNat, testBit_maskOf, and_assoc]
end

/-! ## Sums over a tree (R86) -/

section
variable {f : Nat → Nat → Nat × Flags} (hf : ∀ x y, (f x y).1 = (x + y) % 2 ^ 32)
include hf

theorem pairUp_sum : ∀ xs : List Nat, (pairUp f xs).1.sum % 2 ^ 32 = xs.sum % 2 ^ 32
  | [] => rfl
  | [_] => rfl
  | x :: y :: xs => by
      have rest := pairUp_sum xs
      simp only [pairUp, hf, List.sum_cons]
      omega

theorem pairUp_lt : ∀ xs : List Nat, (∀ x ∈ xs, x < 2 ^ 32) → ∀ x ∈ (pairUp f xs).1, x < 2 ^ 32
  | [], h => h
  | [_], h => h
  | x :: y :: xs, h => by
      simp only [pairUp, hf, List.forall_mem_cons] at h ⊢
      obtain ⟨-, -, hrest⟩ := h
      exact ⟨Nat.mod_lt _ (by decide), pairUp_lt xs hrest⟩

omit hf in
theorem pairUp_length : ∀ {n : Nat} {xs : List Nat}, xs.length = 2 * n → (pairUp f xs).1.length = n
  | 0, [], _ => rfl
  | n + 1, x :: y :: xs, h => by
      have : xs.length = 2 * n := by simp at h; omega
      simp [pairUp, pairUp_length this]

theorem treeRed_sum : ∀ (k : Nat) (xs : List Nat), xs.length = 2 ^ k → (∀ x ∈ xs, x < 2 ^ 32) → (treeRed f k xs).1 = xs.sum % 2 ^ 32
  | 0, [x], _, hlt => by simpa [treeRed] using (Nat.mod_eq_of_lt (hlt x (by simp))).symm
  | k + 1, xs, hlen, hlt => by
      rw [treeRed, ← pairUp_sum hf xs]
      exact treeRed_sum k _ (pairUp_length (by rw [hlen, Nat.pow_succ, Nat.mul_comm])) (pairUp_lt hf xs hlt)
end

/-! ## The instructions -/

section
variable {s : State} {g : Pred} {d : Dst} {k : Nat} {a b : Src}

/-- The values of a tile whose active lanes are clean. -/
theorem tileVals_clean {ts : List Thread} {t : Thread} {ty : Ty} (op : RedOp) (hk : t.logw = k) (h : ∀ u ∈ ts, u.opPois (.sw ty.wide a) = false) :
    s.tileVals ts t ty op a = ((List.range (2 ^ k)).map fun p => match atLane ts (t.lane / 2 ^ k * 2 ^ k + p) with
      | some u => (s.opnd u (.sw ty.wide a)).toNat
      | none => redIdent ty op, false) := by
  have clean : ((tileOf ts k t.lane).any fun x => (x.map (·.opPois (.sw ty.wide a))).getD false) = false := by
    rw [List.any_eq_false]
    intro x hx
    cases x with
    | none => simp
    | some u =>
        obtain ⟨p, -, hp⟩ := mem_tile.mp (List.mem_filterMap.mpr ⟨some u, hx, rfl⟩)
        simp [h u (atLane_mem hp)]
  rw [State.tileVals, hk]
  rw [clean, tileOf_eq, List.map_map]
  rfl

/-- A lane operation over tiles of one size, in which each lane writes a clean result. -/
theorem exec_tiled {i : Instr} {step : State → Thread → State} {w : Bool} {x : Thread → DWord} {fl : Thread → Flags} (hi : s.canIssue i)
    (hk : ∀ t ∈ s.active g, t.logw = k) (hexec : exec i s = .next (s.tiled g step))
    (hstep : ∀ t ∈ s.active g, ∀ xs, step (s.withThreads xs) t = (s.withThreads xs).laneOut t d w false (x t) (fl t)) :
    exec i s = .next (s.inLanes g fun t u => s.raised ((u.wrW w d (x t)).trimLog) (fl t)) := by
  rw [hexec, tiled_same hk, eachLane_laneOut hi.2 fun t ht xs => hstep t (mem_active_of_acting ht) xs]

theorem swz_result {mode : SwzMode} {n : BitVec 5} {source : Thread → Option Thread} (hi : s.canIssue (.swz g d a b mode n))
    (hk : ∀ t ∈ s.active g, t.logw = k) (hclean : ∀ t ∈ s.active g, t.opPois (.s a) = false ∧ t.opPois (.s b) = false)
    (hsource : ∀ t, (swzPos mode (t.lane % 2 ^ k) n.toNat (2 ^ k) (s.src t b).toNat).bind
      (fun p => atLane (s.active g) (t.lane / 2 ^ k * 2 ^ k + p)) = source t) :
    exec (.swz g d a b mode n) s = .next (s.inLanes g fun t u => (u.wr d (s.src ((source t).getD t) a)).trimLog) := by
  have supplier : ∀ t ∈ s.active g, (source t).getD t ∈ s.active g := fun t ht => by
    rw [← hsource]
    cases hp : swzPos mode (t.lane % 2 ^ k) n.toNat (2 ^ k) (s.src t b).toNat with
    | none => exact ht
    | some p =>
        rw [Option.bind_some]
        cases hu : atLane (s.active g) (t.lane / 2 ^ k * 2 ^ k + p) with
        | none => exact ht
        | some u => exact atLane_mem hu
  have result := exec_tiled (d := d) (w := false) (x := fun t => (s.src ((source t).getD t) a).setWidth 64) (fl := fun _ => 0) hi hk
    (exec_body (by rfl) hi.1) fun t ht xs => by
      obtain ⟨-, hb⟩ := hclean t ht
      obtain ⟨ha, -⟩ := hclean _ (supplier t ht)
      have same : (s.withThreads xs).src = s.src := rfl
      simp only [hk t ht, same, hsource, ha, hb, Bool.and_false, Bool.or_self]
  simpa only [raised_zero, wrW_setWidth] using result

theorem vote_result {ps : Pred} {op : VoteOp} (hi : s.canIssue (.vote g d ps op)) (hk : ∀ t ∈ s.active g, t.logw = k) :
    exec (.vote g d ps op) s = .next (s.inLanes g fun t u =>
      (u.wr d (BitVec.ofNat 32 (voteNat op ps (2 ^ k) ((tileOf (s.active g) k t.lane).filterMap id)))).trimLog) := by
  have result := exec_tiled (d := d) (w := false) (fl := fun _ => 0)
    (x := fun t => BitVec.ofNat 64 (voteNat op ps (2 ^ k) ((tileOf (s.active g) k t.lane).filterMap id))) hi hk
    (exec_body (by rfl) hi.1) fun t ht xs => by
      simp only [hk t ht]
      rfl
  simpa only [raised_zero, wrW_ofNat] using result

/-- The values that LRED and LSCAN take from the tile of a lane (R88, R211). -/
def State.tileCodes (s : State) (g : Pred) (k : Nat) (ty : Ty) (op : RedOp) (a : Src) (t : Thread) : List Nat :=
  (List.range (2 ^ k)).map fun p => match atLane (s.active g) (t.lane / 2 ^ k * 2 ^ k + p) with
    | some u => (s.opnd u (.sw ty.wide a)).toNat
    | none => redIdent ty op

section
variable {ty : Ty} {op : RedOp} {rnd : Rnd} (hk : ∀ t ∈ s.active g, t.logw = k) (hclean : ∀ t ∈ s.active g, t.opPois (.sw ty.wide a) = false)
include hk hclean

theorem lred_result (hi : s.canIssue (.lred g d a ty op rnd)) :
    exec (.lred g d a ty op rnd) s = .next (s.inLanes g fun t u =>
      let r := treeRed (redNode ty op rnd) k (s.tileCodes g k ty op a t)
      s.raised ((u.wrW ty.wide d (BitVec.ofNat 64 r.1)).trimLog) r.2) :=
  exec_tiled hi hk (exec_body (by rfl) hi.1) fun t ht xs => by
    simp only [tileVals_clean op (hk t ht) hclean, hk t ht]
    rfl

theorem lscan_result {x : Bool} (hi : s.canIssue (.lscan g d a x ty op rnd)) :
    exec (.lscan g d a x ty op rnd) s = .next (s.inLanes g fun t u =>
      let r := scanRed (redNode ty op rnd) k 1 (s.tileCodes g k ty op a t)
      let p := t.lane % 2 ^ k
      s.raised ((u.wrW ty.wide d (BitVec.ofNat 64 (if x then (if p = 0 then redIdent ty op else r.1.getD (p - 1) 0) else r.1.getD p 0))).trimLog) r.2) :=
  exec_tiled hi hk (exec_body (by rfl) hi.1) fun t ht xs => by
    simp only [tileVals_clean op (hk t ht) hclean, hk t ht]
    rfl
end
end

/-- Settles O6: SWZ reads the position that its mode gives, a vote counts the lanes of its tile, and the tree and the scan run over its values. -/
theorem laneResults : Obligations.LaneResults := by
  unfold Obligations.LaneResults
  intro s g d k hk5 hk w lane
  refine ⟨?swz, ?vote, ?trees, ?sum⟩
  case swz =>
    intro a b mode n i source hi hclean
    refine swz_result hi hk hclean fun t => (swzPos_bind mode (Nat.mod_lt _ (Nat.two_pow_pos k)) _ _ _).trans ?_
    cases mode <;> rfl
  case vote =>
    intro ps op i yes no hi
    refine ⟨fun t => BitVec.ofNat 32 (voteNat op ps w ((tileOf (s.active g) k t.lane).filterMap id)), fun t => ?_, vote_result hi hk⟩
    have tile : ∀ q : Thread → Prop, (∃ u ∈ (tileOf (s.active g) k t.lane).filterMap id, q u) ↔
        ∃ p, p < w ∧ ∃ u, lane t p = some u ∧ q u := fun q => by
      simp only [mem_tile]
      tauto
    have some_yes : (∃ u ∈ (tileOf (s.active g) k t.lane).filterMap id, u.pred ps = true) ↔ ∃ p, yes t p := tile _
    have some_no : (∃ u ∈ (tileOf (s.active g) k t.lane).filterMap id, u.pred ps = false) ↔ ∃ p, no t p := tile _
    cases op with
    | ballot =>
        intro p
        have small : yes t p → p < 32 := fun ⟨hp, _⟩ => hp.trans_le (Nat.pow_le_pow_right (by decide) hk5)
        rw [BitVec.getLsbD_ofNat, Bool.and_eq_true, decide_eq_true_iff, voteNat_ballot, tile]
        constructor
        · rintro ⟨-, q, hq, u, hu, hpred, rfl⟩
          rw [tile_position hq hu]
          exact ⟨hq, u, hu, hpred⟩
        · rintro ⟨hp, u, hu, hpred⟩
          exact ⟨small ⟨hp, u, hu, hpred⟩, p, hp, u, hu, hpred, tile_position hp hu⟩
    | any => exact voteNat_any some_yes
    | all => exact voteNat_all some_no
    | eq => exact voteNat_eq some_yes some_no
  case trees =>
    intro a ty op rnd vals clean out
    exact ⟨fun hi hclean => lred_result hk hclean hi, fun x hi hclean => lscan_result hk hclean hi⟩
  case sum => exact fun rnd xs => treeRed_sum (fun _ _ => rfl) k xs

end Sys2Proof.Machine
end

section
/-! O7, BlockResults: transposed rows, the lanes of each block, derivatives over a quad, and the statement. -/

namespace Sys2Proof.Machine

/-! ## Fields side by side in a word -/

/-- The first `m` of a sequence of fields of `b` bits, least significant first. -/
def packFields (b : Nat) (x : Nat → Nat) : Nat → Nat
  | 0 => 0
  | m + 1 => packFields b x m + x m * 2 ^ (m * b)

section
variable {b : Nat} {x : Nat → Nat} (hx : ∀ k, x k < 2 ^ b)
include hx

theorem packFields_lt : ∀ m, packFields b x m < 2 ^ (m * b)
  | 0 => by simp [packFields]
  | m + 1 => by
      have low := packFields_lt m
      have top : (x m + 1) * 2 ^ (m * b) ≤ 2 ^ b * 2 ^ (m * b) := Nat.mul_le_mul_right _ (hx m)
      rw [packFields, Nat.succ_mul, Nat.pow_add, Nat.mul_comm (2 ^ (m * b))]
      rw [Nat.succ_mul] at top
      omega

theorem packFields_field {k : Nat} : ∀ {m : Nat}, k < m → packFields b x m / 2 ^ (k * b) % 2 ^ b = x k
  | m + 1, hk => by
      rw [packFields]
      obtain hlt | rfl : k < m ∨ k = m := by omega
      · obtain ⟨j, rfl⟩ : ∃ j, m = k + 1 + j := ⟨m - k - 1, by omega⟩
        have above : x (k + 1 + j) * 2 ^ ((k + 1 + j) * b) = 2 ^ b * (x (k + 1 + j) * 2 ^ (j * b)) * 2 ^ (k * b) := by ring
        rw [above, Nat.add_mul_div_right _ _ (Nat.two_pow_pos _), Nat.add_mul_mod_self_left, packFields_field hlt]
      · rw [Nat.add_mul_div_right _ _ (Nat.two_pow_pos _), Nat.div_eq_of_lt (packFields_lt hx k), Nat.zero_add, Nat.mod_eq_of_lt (hx k)]
end

/-! ## TRSP (R212) -/

theorem trspElem_lt (o : Option Thread) (a : Src) (sz e : Nat) : (trspElem o a sz e).1 < 2 ^ sz := by
  cases o with
  | none => exact Nat.two_pow_pos sz
  | some u => exact Nat.mod_lt _ (Nat.two_pow_pos sz)

/-- A lane whose eight registers are clean supplies a clean element. -/
theorem trspElem_clean {o : Option Thread} {a : Src} {sz e : Nat} (he : e * sz / 32 < 8) (h : ∀ u ∈ o, u.opPois (.sg 8 1 a) = false) :
    (trspElem o a sz e).2 = false := by
  cases o with
  | none => rfl
  | some u =>
      cases a with
      | v n =>
          have clean : ∀ r ∈ (Opnd.sg 8 1 (.v n)).regs, u.poisoned r = false := by simpa [Thread.opPois] using h u rfl
          refine clean (n.val + e * sz / 32) ?_
          have regs : (Opnd.sg 8 1 (.v n)).regs = upFrom n.val 8 := if_pos n.isLt
          rw [regs, mem_upFrom]
          omega
      | zero | lit | lane | tid | wg => rfl

/-- The element of a lane at TRSP, and the registers of its row. -/
theorem trspRow_clean {a : Src} {sz e : Nat} {o : Nat → Option Thread} (h : ∀ k, (trspElem (o k) a sz e).2 = false) (m : Nat) :
    (upFrom 0 m).foldl (fun (acc : Nat × Bool) k => let x := trspElem (o k) a sz e; (acc.1 + x.1 * 2 ^ (k * sz), acc.2 || x.2)) (0, false) =
      (packFields sz (fun k => (trspElem (o k) a sz e).1) m, false) := by
  rw [upFrom_eq_map]
  simp only [Nat.zero_add, List.map_id']
  induction m with
  | zero => rfl
  | succ m ih => rw [List.range_succ, List.foldl_append, ih, List.foldl_cons, List.foldl_nil, h, packFields]; rfl

/-- Eight clean words. -/
theorem writeRows_clean (s : State) (n : Nat) (d : Dst) {v : Nat → Nat} {out : List (Nat × Bool)} (h : out = (upFrom 0 8).map fun r => (v r, false)) :
    (let (ws, s1) := if out.any (·.2) then s.freeWords 8 else ([], s)
     s1.updThr n fun t => (t.wrWords d (((upFrom 0 8).zip out).map fun q => if q.2.2 then ws.getD q.1 0#32 else BitVec.ofNat 32 q.2.1)
       fun r => if (out.getD r (0, false)).2 then .lost else .clean).trimLog) =
    s.updThr n fun u => (u.wrWords d ((List.range 8).map fun r => BitVec.ofNat 32 (v r)) fun _ => .clean).trimLog := by
  subst h
  have marks : ∀ r, (((upFrom 0 8).map fun r => (v r, false)).getD r (0, false)).2 = false := fun r => by
    rw [List.getD_eq_getElem?_getD, List.getElem?_map]
    cases (upFrom 0 8)[r]? <;> rfl
  simp only [marks]
  rfl

section
variable {s : State} {g : Pred} {d : Dst} {a : Src}

/-- A row of a transposed block. -/
def trspRow (ts : List Thread) (a : Src) (b l r : Nat) : Nat :=
  packFields b (fun k => (trspElem (atLane ts (l / (256 / b) * (256 / b) + r * (32 / b) + k)) a b (l % (256 / b))).1) (32 / b)

theorem trspBits_fill (sz : TrspSize) : 0 < 256 / TrspSize.bits sz ∧ 32 / TrspSize.bits sz * TrspSize.bits sz = 32
    ∧ 256 / TrspSize.bits sz * TrspSize.bits sz = 256 := by cases sz <;> decide

theorem trspRow_field (ts : List Thread) (a : Src) (sz : TrspSize) (l r : Nat) {k : Nat} (hk : k < 32 / TrspSize.bits sz) :
    (BitVec.ofNat 32 (trspRow ts a (TrspSize.bits sz) l r)).toNat / 2 ^ (k * TrspSize.bits sz) % 2 ^ TrspSize.bits sz =
      (trspElem (atLane ts (l / (256 / TrspSize.bits sz) * (256 / TrspSize.bits sz) + r * (32 / TrspSize.bits sz) + k)) a (TrspSize.bits sz)
        (l % (256 / TrspSize.bits sz))).1 := by
  obtain ⟨-, fill, -⟩ := trspBits_fill sz
  generalize TrspSize.bits sz = b at hk fill ⊢
  have fields := fun k => trspElem_lt (atLane ts (l / (256 / b) * (256 / b) + r * (32 / b) + k)) a b (l % (256 / b))
  have fits := packFields_lt fields (32 / b)
  rw [fill] at fits
  rw [trspRow, BitVec.toNat_ofNat, Nat.mod_eq_of_lt fits]
  exact packFields_field fields hk

theorem trsp_result {sz : TrspSize} (hi : s.canIssue (.trsp g d a sz)) (hclean : ∀ t ∈ s.active g, t.opPois (.sg 8 1 a) = false) :
    exec (.trsp g d a sz) s = .next (s.inLanes g fun t u =>
      (u.wrWords d ((List.range 8).map fun r => BitVec.ofNat 32 (trspRow (s.active g) a (TrspSize.bits sz) t.lane r)) fun _ => .clean).trimLog) := by
  rw [exec_body (i := .trsp g d a sz) (by rfl) hi.1]
  refine congrArg _ (eachLane_eq_inLanes hi.2 g _ _ (fun t u => by simp) fun t _ xs => ?_)
  obtain ⟨hpos, -, fill⟩ := trspBits_fill sz
  refine writeRows_clean (s.withThreads xs) t.uid d (v := trspRow (s.active g) a (TrspSize.bits sz) t.lane) (List.map_congr_left fun r _ => ?_)
  have low : t.lane - t.lane / (256 / TrspSize.bits sz) * (256 / TrspSize.bits sz) = t.lane % (256 / TrspSize.bits sz) :=
    Nat.mod_eq_sub_div_mul.symm
  have inside : t.lane % (256 / TrspSize.bits sz) * TrspSize.bits sz / 32 < 8 := by
    have below := Nat.mul_lt_mul_of_pos_right (Nat.mod_lt t.lane hpos) (show 0 < TrspSize.bits sz by cases sz <;> decide)
    omega
  rw [low]
  exact trspRow_clean (fun k => trspElem_clean inside fun u hu => hclean u (atLane_mem hu)) _
end

/-! ## CONVB and SCALEB (R204) -/

/-- One pass over lanes with names of their own, each of which changes its own thread. -/
theorem over_lanes {s : State} {ts : List Thread} (hn : (ts.map (·.uid)).Nodup) {f : Thread → Thread → Thread} {step : State → Thread → State}
    (huid : ∀ t u, (f t u).uid = u.uid) (hstep : ∀ t ∈ ts, ∀ xs, step (s.withThreads xs) t = (s.withThreads xs).updThr t.uid (f t))
    (xs : List Thread) :
    (s.withThreads xs).over ts step = (s.withThreads xs).inThreads ts f :=
  foldl_updThr f step s huid ts xs hn hstep

/-- What a lane of a block takes: the codes of its own bytes, the block's flags and its scale. -/
def State.takesBlock (s : State) (k : BlkConv) (ws : List (List Word)) (d e : Dst) (t u : Thread) : Thread :=
  let r := k.codes ws (k.blockOf t.lane)
  ((s.raised ((u.wrW k.wide d (blkValue r.2 t.lane)).trimLog) (blkFlags r.2)).wr e (BitVec.ofNat 32 r.1)).trimLog

theorem takesBlock_uid (s : State) (k : BlkConv) (ws : List (List Word)) (d e : Dst) (t u : Thread) : (s.takesBlock k ws d e t u).uid = u.uid := by
  simp [State.takesBlock, State.raised]

section
variable {s : State} {g : Pred} {d e : Dst} {a : Src} {k : BlkConv}

theorem blockOf_halves (h : (k.scale && k.len == .l32) = true) (l : Nat) : k.blockOf l = l / 16 := by
  simp only [Bool.and_eq_true, beq_iff_eq] at h
  simp [BlkConv.blockOf, blkPlace, h]

theorem blockOf_whole (h : (k.scale && k.len == .l32) = false) (l : Nat) : k.blockOf l = 0 := by
  unfold BlkConv.blockOf blkPlace
  cases hs : k.scale
  · rfl
  · have hlen : k.len ≠ .l32 := by simpa [hs] using h
    simp [hlen]

/-- The pass of one block, by the words that the lanes had before the chain. -/
def State.convPass (s : State) (ts : List Thread) (ws : List (List Word)) (i : Instr) (k : BlkConv) (g : Pred) (d : Dst) (a : Src) (e : Dst)
    (blk : Nat) : State :=
  let o := blkOpnd a k.regs
  let r := k.codes ws blk
  let pois := ts.filter fun t => k.blockOf t.lane == blk && t.opPois o
  s.over ((s.acting g).filter fun t => k.blockOf t.lane == blk) fun s t =>
    if (pois.map (·.uid)) == [t.uid] && !anyLost t [o] then
      s.deriveInto i t [o] ((upFrom 0 32).map fun l => if l = t.lane then s.logSrc t o else (ws.getD l []).map .val)
        [(d, if k.wide then 2 else 1), (e, 1)]
    else (s.laneOut t d k.wide (!pois.isEmpty) (blkValue r.2 t.lane) (blkFlags r.2)).laneOut t e false (!pois.isEmpty) (BitVec.ofNat 64 r.1) 0

theorem convBlock_eq (s : State) (i : Instr) : s.convBlock i k g d a e = s.over (if k.scale && k.len == .l32 then [0, 1] else [0]) fun x blk =>
    x.convPass (s.active g) ((upFrom 0 32).map (s.blkWords (s.active g) a k.regs)) i k g d a e blk := rfl

theorem convPass_clean (hs : s.apart) (hclean : ∀ t ∈ s.active g, t.opPois (blkOpnd a k.regs) = false) (ws : List (List Word)) (i : Instr) (blk : Nat)
    (xs : List Thread) : (s.withThreads xs).convPass (s.active g) ws i k g d a e blk =
      (s.withThreads xs).inThreads ((s.acting g).filter fun t => k.blockOf t.lane == blk) (s.takesBlock k ws d e) := by
  have none : ((s.active g).filter fun t => k.blockOf t.lane == blk && t.opPois (blkOpnd a k.regs)) = [] :=
    List.filter_eq_nil_iff.mpr fun t ht => by simp [hclean t ht]
  refine over_lanes ((List.Sublist.map _ List.filter_sublist).nodup (acting_nodup hs g)) (takesBlock_uid s k ws d e) (fun t ht ys => ?_) xs
  have block : k.blockOf t.lane = blk := by simpa using (List.mem_filter.mp ht).2
  rw [none, ← block]
  change ((s.withThreads ys).laneOut t d k.wide false _ _).laneOut t e false false _ 0 = _
  rw [laneOut_clean, laneOut_clean, updThr_updThr _ _ _ _ (by simp [State.raised])]
  simp only [raised_zero, wrW_ofNat]
  rfl

/-- The passes of the blocks together change each acting lane once. -/
theorem convBlock_clean (hs : s.apart) (hclean : ∀ t ∈ s.active g, t.opPois (blkOpnd a k.regs) = false ∧ t.lane < 32) (i : Instr) :
    s.convBlock i k g d a e = s.inLanes g (s.takesBlock k ((upFrom 0 32).map (s.blkWords (s.active g) a k.regs)) d e) := by
  rw [convBlock_eq, State.inLanes]
  generalize (upFrom 0 32).map (s.blkWords (s.active g) a k.regs) = ws
  have pass := convPass_clean (d := d) (e := e) hs (fun t ht => (hclean t ht).1) ws i
  cases halves : k.scale && k.len == .l32
  case false =>
    have all : ((s.acting g).filter fun t => k.blockOf t.lane == 0) = s.acting g := List.filter_eq_self.mpr fun t _ => by simp [blockOf_whole halves]
    exact (pass 0 s.threads).trans (by rw [all]; rfl)
  case true =>
    have second : ((s.acting g).filter fun t => k.blockOf t.lane == 1) = (s.acting g).filter fun t => !(k.blockOf t.lane == 0) :=
      List.filter_congr fun t ht => by
        have lanes := (hclean t (mem_active_of_acting ht)).2
        obtain h | h : k.blockOf t.lane = 0 ∨ k.blockOf t.lane = 1 := by rw [blockOf_halves halves]; omega
        all_goals simp [h]
    have both := inThreads_filter (acting_nodup hs g) s (fun t => k.blockOf t.lane == 0) (h := s.takesBlock k ws d e) (takesBlock_uid s k ws d e)
    simp only [ite_self] at both
    rw [← both, ← second]
    exact (congrArg (State.convPass · _ _ i k g d a e 1) (pass 0 s.threads)).trans (pass 1 _)
end

/-- The elements of the block of a lane: lane, register and half. -/
def BlkConv.elements (k : BlkConv) (l : Nat) : List (Nat × Nat × Nat) :=
  ((List.range 32).flatMap fun l => (List.range k.regs).flatMap fun j => (if k.scale then [0, 1] else [0]).map fun h => (l, j, h)).filter fun c =>
    (blkPlace k.scale k.len c.1 c.2.1 c.2.2).1 == k.blockOf l

theorem codes_elements (k : BlkConv) (ws : List (List Word)) (l : Nat) :
    let el := fun (c : Nat × Nat × Nat) => blkElem ws k.scale k.b2 c.1 c.2.1 c.2.2
    let sc := blockScale k.tt ((k.elements l).map el)
    k.codes ws (k.blockOf l) = (sc.1, (k.elements l).map fun c => (c.1, (blkPlace k.scale k.len c.1 c.2.1 c.2.2).2.2,
      blockElem k.tt k.rnd sc.1 sc.2 (dithT (blkPlace k.scale k.len c.1 c.2.1 c.2.2).2.1 k.ph) (el c))) := by
  have fromZero : ∀ n, upFrom 0 n = List.range n := fun n => by simp [upFrom_eq_map]
  simp only [BlkConv.codes, fromZero, List.map_map]
  rfl

section
variable {α : Type} (f : α → Nat × Nat × Nat × Flags) (xs : List α)

theorem blkValue_map (l : Nat) : blkValue (xs.map f) l =
    BitVec.ofNat 64 (((xs.filter fun c => (f c).1 == l).map fun c => (f c).2.2.1 * 2 ^ (8 * (f c).2.1)).sum) := by
  rw [blkValue, List.filter_map, foldl_add_eq_sum, List.map_map, Nat.zero_add]
  rfl

theorem blkFlags_map : blkFlags (xs.map f) = xs.foldl (fun fl c => fl ||| (f c).2.2.2) 0 := by
  rw [blkFlags, List.foldl_map]
end

/-- What a lane takes from its block, element by element. -/
theorem takesBlock_eq (s : State) (k : BlkConv) (ws : List (List Word)) (d e : Dst) : s.takesBlock k ws d e = fun t u =>
    let el := fun (c : Nat × Nat × Nat) => blkElem ws k.scale k.b2 c.1 c.2.1 c.2.2
    let place := fun (c : Nat × Nat × Nat) => blkPlace k.scale k.len c.1 c.2.1 c.2.2
    let sc := blockScale k.tt ((k.elements t.lane).map el)
    let code := fun c => blockElem k.tt k.rnd sc.1 sc.2 (dithT (place c).2.1 k.ph) (el c)
    let v := (((k.elements t.lane).filter fun c => c.1 == t.lane).map fun c => (code c).1 * 2 ^ (8 * (place c).2.2)).sum
    ((s.raised ((u.wrW k.wide d (BitVec.ofNat 64 v)).trimLog) ((k.elements t.lane).foldl (fun fl c => fl ||| (code c).2) 0)).wr e
      (BitVec.ofNat 32 sc.1)).trimLog := by
  funext t u
  simp only [State.takesBlock, codes_elements, blkValue_map, blkFlags_map]

/-! ## DERX and DERY (R216) -/

section
variable {s : State} {g : Pred} {d : Dst} {a : Src}

/-- The lanes whose values DERX and DERY subtract, by the place in the quad. -/
theorem derPair_eq (y coarse : Bool) (l : Nat) : derPair y coarse l =
    let j := if coarse then 0 else if y then l % 2 else l % 4 / 2 * 2
    (l / 4 * 4 + j, l / 4 * 4 + j + if y then 2 else 1) := by
  have place : l - l / 4 * 4 = l % 4 := Nat.mod_eq_sub_div_mul.symm
  cases coarse with
  | true => cases y <;> rfl
  | false =>
      cases y
      all_goals
        simp only [derPair, place, Bool.false_eq_true, if_false, if_true, Prod.mk.injEq]
        omega

/-- What a lane takes from the two lanes of its quad. -/
def State.takesSlope (s : State) (d : Dst) (a : Src) (lo hi : Option Thread) (pixel : Bool) (u : Thread) : Thread :=
  match lo, hi with
  | some tl, some th =>
      let r := fSub .f32 .rn 0 (s.src th a).toNat (s.src tl a).toNat
      s.raised ((u.wr d (BitVec.ofNat 32 r.1)).trimLog) r.2
  | _, _ =>
      let u0 := (u.wr d 0).trimLog
      if pixel then u0 else { u0 with st := { u0.st with degraded := true } }

theorem takesSlope_uid (lo hi : Option Thread) (pixel : Bool) (u : Thread) : (s.takesSlope d a lo hi pixel u).uid = u.uid := by
  unfold State.takesSlope
  split
  · simp [State.raised]
  · cases pixel <;> simp

/-- DERX or DERY in one lane, of two lanes of its quad. -/
def State.slopeAt (s : State) (d : Dst) (a : Src) (t : Thread) (lo hi : Option Thread) : State :=
  match lo, hi with
  | some tl, some th =>
      let r := fSub .f32 .rn 0 (s.src th a).toNat (s.src tl a).toNat
      s.laneOut t d false (tl.opPois (.s a) || th.opPois (.s a)) (BitVec.ofNat 64 r.1) r.2
  | _, _ =>
      let s1 := s.laneOut t d false false 0 0
      if t.pixel then s1 else s1.updThr t.uid fun t => { t with st := { t.st with degraded := true } }

theorem slopeAt_clean (t : Thread) {lo hi : Option Thread} (hlo : ∀ u ∈ lo, u.opPois (.s a) = false) (hhi : ∀ u ∈ hi, u.opPois (.s a) = false) :
    s.slopeAt d a t lo hi = s.updThr t.uid (s.takesSlope d a lo hi t.pixel) := by
  have missing : s.slopeAt d a t none none = s.updThr t.uid (s.takesSlope d a none none t.pixel) := by
    simp only [State.slopeAt, laneOut_clean, raised_zero]
    unfold State.takesSlope
    cases t.pixel
    · exact updThr_updThr _ _ _ _ fun u => by simp
    · rfl
  cases lo with
  | none => exact missing
  | some tl =>
      cases hi with
      | none => exact missing
      | some th =>
          simp only [State.slopeAt, hlo tl rfl, hhi th rfl, Bool.or_self, laneOut_clean, wrW_ofNat]
          rfl

theorem derive_clean (y coarse : Bool) (hs : s.apart) (hclean : ∀ t ∈ s.iss.lanes, t.opPois (.s a) = false) :
    s.derive2 y g d a coarse = s.inLanes g fun t u =>
      let ts := if t.pixel then s.iss.lanes else s.active g
      s.takesSlope d a (atLane ts (derPair y coarse t.lane).1) (atLane ts (derPair y coarse t.lane).2) t.pixel u := by
  refine eachLane_eq_inLanes hs g _ _ (fun t u => takesSlope_uid ..) fun t _ xs => ?_
  have clean : ∀ l, ∀ u ∈ atLane (if t.pixel then s.iss.lanes else s.active g) l, u.opPois (.s a) = false := fun l u hu => by
    have mem := atLane_mem hu
    refine hclean u ?_
    split at mem
    · exact mem
    · exact List.mem_of_mem_filter mem
  exact slopeAt_clean (s := s.withThreads xs) t (clean _) (clean _)
end

/-- Settles O7: TRSP packs the elements that its lanes supply, the passes over the blocks give each lane its block's codes, flags and scale, and DERX
and DERY subtract two lanes of the quad. -/
theorem blockResults : Obligations.BlockResults := by
  unfold Obligations.BlockResults
  refine fun s g d a => ⟨fun sz => ?trsp, fun scale b2 tt len rnd e ph => ?conv, fun y coarse => ?der⟩
  case trsp =>
    intro i b n hi hclean
    refine ⟨fun t r => BitVec.ofNat 32 (trspRow (s.active g) a (TrspSize.bits sz) t.lane r), fun t r k _ hk => ?_, trsp_result hi hclean⟩
    have bits : b = TrspSize.bits sz := by cases sz <;> rfl
    rw [bits] at hk ⊢
    rw [trspRow_field _ a sz t.lane r hk]
    simp only [n, bits]
    cases atLane (s.active g) (t.lane / (256 / TrspSize.bits sz) * (256 / TrspSize.bits sz) + r * (32 / TrspSize.bits sz) + k) <;> rfl
  case conv =>
    intro i n fmt block coords mine ws el sc code byte v fl wide hi hclean
    cases scale
    case false =>
      have result := exec_body (i := .convb g d a tt len rnd e ph) (by rfl) hi.1
      rw [convBlock_clean hi.2 hclean, takesBlock_eq] at result
      exact result
    case true =>
      have result := exec_body (i := .scaleb g d a tt len b2 rnd e ph) (by rfl) hi.1
      rw [convBlock_clean hi.2 hclean, takesBlock_eq] at result
      exact result
  case der =>
    intro i from' q j lo hi' hi hclean
    have result : exec i s = .next (s.derive2 y g d a coarse) := by cases y <;> exact exec_body (by rfl) hi.1
    rw [derive_clean y coarse hi.2 hclean] at result
    simp only [derPair_eq] at result
    exact result

end Sys2Proof.Machine
end

section
/-! SUPPORT. Laws of poison: an operand that traps, and entries of the replay log that own a result. -/

namespace Sys2Proof.Machine

/-! ## Passes in which little happens -/

section
variable {α : Type} {f : State → α → State}

theorem over_none {xs : List α} {s : State} (hf : ∀ x ∈ xs, f s x = s) : s.over xs f = s := by
  induction xs with
  | nil => rfl
  | cons x xs ih =>
      obtain ⟨hx, hxs⟩ := List.forall_mem_cons.mp hf
      rw [State.over, List.foldl_cons, hx]
      exact ih hxs

/-- A fold in which one element alone does something. -/
theorem over_once {k : α} {xs : List α} {s : State} (hn : xs.Nodup) (hk : k ∈ xs) (hbefore : ∀ x ≠ k, f s x = s)
    (hafter : ∀ x ≠ k, f (f s k) x = f s k) : s.over xs f = f s k := by
  induction xs with
  | nil => cases hk
  | cons x xs ih =>
      obtain ⟨hnew, hrest⟩ := List.nodup_cons.mp hn
      rw [State.over, List.foldl_cons]
      obtain rfl | hmem := List.mem_cons.mp hk
      · exact over_none fun y hy => hafter y fun h => hnew (h ▸ hy)
      · rw [hbefore x fun h => hnew (h ▸ hmem)]
        exact ih hrest hmem
end

/-! ## Operands that are consumed (R187, R220) -/

/-- The code of POISON_CONSUMED in a log with room: UNRECOVERABLE and the first poisoned operand (R223). -/
def poisonCode (t : Thread) (os : List Opnd) : Nat := (if anyLost t os then 2 else 0) + 4 * firstPoisoned t os

section
variable {s : State} {g : Pred} {t : Thread} {i : Instr} {entry : DWord} {os : List Opnd}

theorem trapPoison_mayTrap (ht : s.thr? t.uid = some t) (hmay : s.mayTrap t entry) (os : List Opnd) :
    s.trapPoison t false os = s.trapsHere t entry 3 (poisonCode t os) 0 := by
  rw [State.trapPoison, trapHere_mayTrap ht hmay, if_neg Bool.false_ne_true, Nat.zero_add]
  rfl

/-- An instruction that consumes its operands traps in its one lane where one of them is poisoned. -/
theorem consumer_traps {F : State → State → Thread → State} (hexec : exec i s = issued i s fun s => s.consuming g os (F s)) (h : s.alone i g t)
    (hmay : s.mayTrap t entry) (hpois : os.any t.opPois = true) : exec i s = .next (s.trapsHere t entry 3 (poisonCode t os) 0) := by
  rw [hexec, issued_body h.issues, State.consuming, eachLane_one h.acts, if_pos hpois, trapPoison_mayTrap h.found hmay]

/-- Poison comes before all but the words of an access whose address is no poison. -/
theorem issueLane_poison {mk : State → Thread → LaneDo} {o : Op} {ls : List LaneAcc} (hpois : os.any t.opPois = true)
    (hmk : ((os.head?).map t.opPois).getD false = true ∨ ∀ x, mk s t ≠ .trap 1 x) : issueLane os mk o (s, ls) t = (s.trapPoison t false os, ls) := by
  unfold issueLane
  rw [hpois]
  rcases hmk with hhead | hmk
  · rw [hhead]
    rfl
  · generalize (!((os.head?).map t.opPois).getD false) = clean
    cases hdo : mk s t with
    | go l | txBad => cases clean <;> rfl
    | trap c x =>
        have legal : c ≠ 1 := fun hc => hmk x (hc ▸ hdo)
        cases clean
        · rfl
        · simp [legal]

/-- So an access traps in its one lane (R220). -/
theorem access_traps {ts : List Thread} {cls : OpClass} {done : Nat → Instr} {mk : State → Thread → LaneDo}
    (hexec : exec i s = .next (s.memIssue ts i cls os done mk)) (hts : ts = [t]) (ht : s.thr? t.uid = some t) (hmay : s.mayTrap t entry)
    (hpois : os.any t.opPois = true) (hmk : ((os.head?).map t.opPois).getD false = true ∨ ∀ x, mk s t ≠ .trap 1 x) :
    exec i s = .next (s.trapsHere t entry 3 (poisonCode t os) 0) := by
  rw [hexec, hts, memIssue_eq, List.foldl_cons, List.foldl_nil, issueLane_poison hpois hmk, trapPoison_mayTrap ht hmay]
  rfl

theorem globalChk_legal (n : Nat) (sc : Scope) (l : LaneAcc) (x : DWord) : globalChk n sc t l ≠ .trap 1 x := by
  unfold globalChk
  split_ifs <;> simp

/-- Only on an ensign core is a local access illegal (R41). -/
theorem localPlace_legal {w : Wg} (hcore : isEnsign w.core = false) (addr n : Nat) (atms : Bool) : s.localPlace w addr n atms ≠ .error 1 := by
  unfold State.localPlace
  rw [hcore]
  simp only [Bool.false_eq_true, if_false]
  repeat' split
  all_goals simp

theorem localChk_legal (hcore : isEnsign (s.coreOf t.wg) = false) (n : Nat) (atms : Bool) (l : LaneAcc) (x : DWord) :
    s.localChk n atms t l ≠ .trap 1 x := by
  rw [State.localChk, hcore, Bool.false_and, if_neg Bool.false_ne_true]
  split
  · simp
  · cases hw : s.wg? t.wg with
    | none => simp
    | some w =>
        rw [State.coreOf, hw] at hcore
        cases hp : s.localPlace w l.addr.toNat n atms with
        | ok p => simp [hp]
        | error c =>
            have legal : c ≠ 1 := fun hc => localPlace_legal hcore l.addr.toNat n atms (hc ▸ hp)
            simp [hp, legal]

/-! ## Instructions that test something else first -/

/-- SPAWN outside a transaction (R228). -/
theorem spawn_traps {tgt : Target} {vs : Fin 120} {n : Fin 17} (h : s.alone (.spawn g tgt vs n) g t) (hmay : s.mayTrap t entry)
    (hh : t.helper = false) (hpois : tgt.opnds.any t.opPois = true) (htx : t.tx = none) :
    exec (.spawn g tgt vs n) s = .next (s.trapsHere t entry 3 (poisonCode t tgt.opnds) 0) := by
  change execSpawn g tgt vs n s = _
  rw [execSpawn, issued_body h.issues, realLanes_one h.acts hh, State.over, List.foldl_cons, List.foldl_nil, htx, if_neg (by simp), if_pos hpois,
    trapPoison_mayTrap h.found hmay]

/-- CONT outside a transaction: its payload is consumed, by a quad's lane as by any other (R29, R229). -/
theorem cont_traps {tgt : Target} {n : Fin 17} (h : s.alone (.cont g tgt n) g t) (hmay : s.mayTrap t entry) (htx : t.tx = none) (hlane : t.lane < 32)
    (hpois : (if n.val = 0 then [] else [Opnd.impl 0 n.val false]).any t.opPois = true) :
    exec (.cont g tgt n) s = .next (s.trapsHere t entry 3 (poisonCode t (if n.val = 0 then [] else [Opnd.impl 0 n.val false])) 0) := by
  have own : s.contOwn t tgt n.val = some fun s => s.trapPoison t false (if n.val = 0 then [] else [Opnd.impl 0 n.val false]) := by
    simp only [State.contOwn, htx, Option.isSome_none, Bool.false_eq_true, if_false, hpois, if_true]
  have empty : ∀ u : State, s.contQuad u [] tgt n.val = u := fun _ => rfl
  change execCont g tgt n s = _
  rw [execCont, issued_body h.issues, h.acts, ← trapPoison_mayTrap h.found hmay]
  dsimp only
  cases hp : t.pixel with
  | false =>
      rw [List.filter_cons_of_pos (by simp [hp]), List.filter_nil]
      refine congrArg _ ((over_none fun k _ => ?_).trans ?_)
      · rw [List.filter_cons_of_neg (by simp [hp]), List.filter_nil, empty]
      · rw [State.over, List.foldl_cons, List.foldl_nil, own]
  | true =>
      have whole : s.contQuad s [t] tgt n.val = s.trapPoison t false (if n.val = 0 then [] else [Opnd.impl 0 n.val false]) := by
        simp only [State.contQuad, List.any_cons, own, Option.isSome_some, Bool.true_or, Bool.or_true, if_true, State.over, List.foldl_cons,
          List.foldl_nil]
      have quad : t.lane / 4 ∈ upFrom 0 8 := mem_upFrom.mpr (by omega)
      have others : ∀ k ≠ t.lane / 4, ∀ u : State, s.contQuad u ([t].filter fun t => t.pixel && t.lane / 4 == k) tgt n.val = u := fun k hk u => by
        rw [List.filter_cons_of_neg (by simp [Ne.symm hk]), List.filter_nil, empty]
      rw [List.filter_cons_of_neg (by simp [hp]), List.filter_nil]
      refine congrArg _ ((over_once (by decide) quad (fun k hk => others k hk _) fun k hk => others k hk _).trans ?_)
      rw [List.filter_cons_of_pos (by simp [hp]), List.filter_nil]
      exact whole

/-- SEQ with room in its queue (R301). -/
theorem seq_traps {a b e : Src} (h : s.alone (.seq g a b e) g t) (hmay : s.mayTrap t entry) (hroom : s.seqFull t.wg = false)
    (hpois : [Opnd.s2 a, .s b, .s e].any t.opPois = true) :
    exec (.seq g a b e) s = .next (s.trapsHere t entry 3 (poisonCode t [.s2 a, .s b, .s e]) 0) := by
  change execSeq g a b e s = _
  rw [execSeq, issued_body h.issues, eachLane_one h.acts, hroom, if_neg Bool.false_ne_true, if_pos hpois, trapPoison_mayTrap h.found hmay]

/-- SYSWR of a trap register, or of one that is open to its thread (R223, R348). -/
theorem syswr_traps {a : Src} {idx : BitVec 14} (h : s.alone (.syswr g a idx) g t) (hmay : s.mayTrap t entry)
    (hopen : (0x080 ≤ idx.toNat ∧ idx.toNat ≤ 0x085) ∨ Requester.opens (s.threadReq t) idx.toNat true = true)
    (hpois : [Opnd.s a].any t.opPois = true) : exec (.syswr g a idx) s = .next (s.trapsHere t entry 3 (poisonCode t [.s a]) 0) := by
  have reached : (!(decide (0x080 ≤ idx.toNat) && decide (idx.toNat ≤ 0x085)) && !Requester.opens (s.threadReq t) idx.toNat true) = false := by
    rcases hopen with ⟨hlo, hhi⟩ | hopens
    · simp [hlo, hhi]
    · simp [hopens]
  change execSyswr g a idx s = _
  rw [execSyswr, issued_body h.issues, eachLane_one h.acts]
  dsimp only
  rw [reached, if_neg Bool.false_ne_true, if_pos (by simpa using hpois), trapPoison_mayTrap h.found hmay]

/-- RSTK.push of a thread of no operation in flight (R291, R292). -/
theorem rstkPush_traps {a : Src} (h : s.alone (.rstkPush g a) g t) (hmay : s.mayTrap t entry) (hops : ∀ o ∈ s.ops, ∀ x ∈ o.lanes, x.uid ≠ t.uid)
    (hpois : [Opnd.s2 a].any t.opPois = true) : exec (.rstkPush g a) s = .next (s.trapsHere t entry 3 (poisonCode t [.s2 a]) 0) := by
  obtain ⟨l, hl⟩ : ∃ l, s.issLaunch = some l := by
    cases hl : s.issLaunch with
    | some l => exact ⟨l, rfl⟩
    | none => exact absurd h.issues (by simp [State.issueCause, hl])
  have idle : (s.ops.any fun o => o.lanes.any fun x => x.uid == t.uid && x.loc.isSome) = false :=
    List.any_eq_false.mpr fun o ho => by simpa using fun x hx hu => absurd hu (hops o ho x hx)
  change execRstkPush g a s = _
  rw [execRstkPush, issued_body h.issues, State.rstk, hl, h.acts, ← trapPoison_mayTrap h.found hmay]
  dsimp only
  simp only [List.filter_cons, List.filter_nil, idle, Bool.not_false, Bool.false_eq_true, if_true, if_false, List.foldl_cons, List.foldl_nil, hpois,
    State.over]
  rfl

/-- QPUT into a queue that takes words (R256, R257). -/
theorem qput_poisoned {a : Src} {q : BitVec 4} (h : s.alone (.qput g a q) g t) (hmay : s.mayTrap t entry) (hh : t.helper = false)
    (hpois : t.opPois (.s a) = true) (hport : (s.qbOf t.wg q.toNat).port ∉ [Port.unbound, .cpl, .hoistout, .hoistin]) :
    exec (.qput g a q) s = .next (s.trapsHere t entry 3 (poisonCode t [.s a]) 0) := by
  change execQput g a q s = _
  rw [execQput, issued_body h.issues, realLanes_one h.acts hh, State.over, List.foldl_cons, List.foldl_nil, ← trapPoison_mayTrap h.found hmay]
  dsimp only
  cases hp : (s.qbOf t.wg q.toNat).port with
  | unbound | cpl | hoistout | hoistin => exact absurd hport (by simp [hp])
  | mailbox | copy | gather | coll | halyard => exact congrArg _ (if_pos hpois)

/-- HOIST into a queue bound to a hoist, outside a transaction (R271). -/
theorem hoist_poisoned {q : BitVec 4} {vs : Fin 120} {b : Src} {tgt : Target} {n : Fin 17} {any : Bool} (h : s.alone (.hoist g q vs b tgt n any) g t)
    (hmay : s.mayTrap t entry) (hh : t.helper = false) (htx : t.tx = none) (hport : (s.qbOf t.wg q.toNat).port = .hoistout)
    (hpois : ((if any then [] else [Opnd.s b]) ++ tgt.opnds).any t.opPois = true) :
    exec (.hoist g q vs b tgt n any) s = .next (s.trapsHere t entry 3 (poisonCode t ((if any then [] else [Opnd.s b]) ++ tgt.opnds)) 0) := by
  change execHoist g q vs b tgt n any s = _
  rw [execHoist, issued_body h.issues, realLanes_one h.acts hh, State.over, List.foldl_cons, List.foldl_nil]
  dsimp only
  rw [htx, if_neg (by simp), hport, if_neg (by decide), if_neg (by simp), if_pos hpois, trapPoison_mayTrap h.found hmay]
end

end Sys2Proof.Machine
end

section
/-! SUPPORT. Laws of entries of the replay log that own a result (R224). -/

namespace Sys2Proof.Machine

/-- The values under the next `n` poison bits. -/
def State.poisonWords (s : State) (n : Nat) : List Word := (List.range n).map fun k => Config.poisonWord (s.fresh + k)

theorem freeWords_eq (s : State) (n : Nat) : s.freeWords n = (s.poisonWords n, { s with fresh := s.fresh + n }) := by
  rw [State.freeWords, upFrom_eq_map, List.map_map]
  rfl

theorem poisonWords_length (s : State) (n : Nat) : (s.poisonWords n).length = n := by rw [State.poisonWords, List.length_map, List.length_range]

theorem poisonWords_succ (s : State) (n : Nat) : s.poisonWords (n + 1) = s.poisonWords n ++ [Config.poisonWord (s.fresh + n)] := by
  rw [State.poisonWords, List.range_succ, List.map_append]
  rfl

/-- The derived entries that a thread's log holds. -/
def Thread.derivedCount (t : Thread) : Nat := (t.log.filter (·.isDerived)).length

theorem wrOwned_one (t : Thread) (id : Nat) (ws : List Word) (d : Dst) : t.wrOwned id ws [(d, ws.length)] = t.wrWords d ws (.owned id) := by
  simp [Thread.wrOwned]

/-- Two destinations own consecutive words of one entry. -/
theorem wrOwned_two (t : Thread) (id : Nat) (ws : List Word) (x : Word) (d e : Dst) :
    t.wrOwned id (ws ++ [x]) [(d, ws.length), (e, 1)] = (t.wrWords d ws (.owned id)).wrWords e [x] fun _ => .owned id ws.length := by
  have single : ∀ (u : Thread) (m : Nat → Mark), u.wrWords e [x] m = u.wrWords e [x] fun _ => m 0 := fun u m => by cases e <;> rfl
  simp [Thread.wrOwned, single _ fun k => Mark.owned id (ws.length + k)]

section
variable {s : State} {g : Pred} {t : Thread} {i : Instr} {d : Dst} {w : Bool} {entry : DWord}

/-- A derived entry joins the log of a thread and owns what is written. -/
theorem deriveInto_joins (hinh : t.trap.inh = false) (hroom : t.derivedCount < 64) (os : List Opnd) (srcs : List (List LogSrc)) (ds : List (Dst × Nat)) :
    let n := ds.foldl (fun n x => n + x.2) 0
    s.deriveInto i t os srcs ds = { s.updThr t.uid fun u =>
        ({ u with log := u.log ++ [⟨s.fresh + n, i, .derived t.lane srcs⟩] } : Thread).wrOwned (s.fresh + n) (s.poisonWords n) ds with
      fresh := s.fresh + n + 1 } := by
  rw [Thread.derivedCount] at hroom
  intro n
  rw [State.deriveInto, hinh, if_neg Bool.false_ne_true, if_neg (by omega), freeWords_eq]
  rfl

/-- A log with 64 derived entries takes no more (R224). -/
theorem deriveInto_full (ht : s.thr? t.uid = some t) (hmay : s.mayTrap t entry) (hfull : 64 ≤ t.derivedCount) {os : List Opnd}
    (hlost : anyLost t os = false) (srcs : List (List LogSrc)) (ds : List (Dst × Nat)) :
    s.deriveInto i t os srcs ds = s.trapsHere t entry 3 (1 + 4 * firstPoisoned t os) 0 := by
  have hinh : t.trap.inh = false := hmay.1
  rw [Thread.derivedCount] at hfull
  rw [State.deriveInto, hinh, if_neg Bool.false_ne_true, if_pos hfull, State.trapPoison, hlost, trapHere_mayTrap ht hmay]
  rfl

/-! ## Computations that go on (R187, R224) -/

/-- The instructions of rows 0x0_ to 0x3_ compute in each lane by one scheme. -/
theorem exec_computes (h : Instr.computes i = some (g, d, w)) : ∃ f, ∀ s, exec i s = aluExec i f g d w s := by
  cases i
  case iadd | isub | imul | imulh | nmulh | ima | imin | imax | nmin | nmax | isad | and | or | xor | andn | shl | shr | sar | sel | faddF32 | fsubF32 |
    fmulF32 | fmaF32 | fminF32 | fmaxF32 | faddH2 | fmulH2 | fmaH2 | faddB2 | fmulB2 | fmaB2 | idot4 | fdot2 | tern | bperm | fsh | pcnt | clz |
    fclass | bfe | bfi | fsf | convx | movhi | iadd64 | isub64 | imul64 | imaw | nmaw | dadd | dmul | dfma | brev | mov | fop | frnd | conv =>
    cases h
    exact ⟨_, fun _ => rfl⟩
  all_goals cases h

theorem computes_derives (hc : Instr.computes i = some (g, d, w)) (h : s.alone i g t) (hpois : i.srcs.any t.opPois = true) :
    exec i s = .next (s.derive i d w t) := by
  obtain ⟨f, hf⟩ := exec_computes hc
  rw [hf, aluExec, issued_body h.issues, eachLane_one h.acts, State.aluLane, if_pos hpois]

theorem derive_lost (hlost : anyLost t i.srcs = true) : s.derive i d w t =
    { s.updThr t.uid (·.wrWords d (s.poisonWords (if w then 2 else 1)) fun _ => .lost) with fresh := s.fresh + if w then 2 else 1 } := by
  rw [State.derive, if_pos hlost, freeWords_eq]
  rfl

theorem derive_kept (hlost : anyLost t i.srcs = false) : s.derive i d w t =
    s.deriveInto i t i.srcs (i.srcs.map (s.logSrc t)) [(d, if w then 2 else 1)] := by
  rw [State.derive, hlost, if_neg Bool.false_ne_true]

theorem derive_joins (hlost : anyLost t i.srcs = false) (hinh : t.trap.inh = false) (hroom : t.derivedCount < 64) :
    let n := if w then 2 else 1
    s.derive i d w t = { s.updThr t.uid fun u =>
        ({ u with log := u.log ++ [⟨s.fresh + n, i, .derived t.lane (i.srcs.map (s.logSrc t))⟩] } : Thread).wrWords d (s.poisonWords n)
          (.owned (s.fresh + n)) with
      fresh := s.fresh + n + 1 } := by
  intro n
  have own : ∀ u : Thread, u.wrOwned (s.fresh + n) (s.poisonWords n) [(d, n)] = u.wrWords d (s.poisonWords n) (.owned (s.fresh + n)) := fun u => by
    rw [← wrOwned_one, poisonWords_length]
  have total : [(d, n)].foldl (fun n x => n + x.2) 0 = n := Nat.zero_add n
  simp only [derive_kept hlost, deriveInto_joins hinh hroom, total, own, n]

theorem logSrc_reg (r : Fin 120) : s.logSrc t (.s (.v r)) = [match (t.reg r.val).mark with
    | .owned m k => .ent m k
    | _ => .val (t.val r.val)] := by
  rw [State.logSrc, if_pos (show (Opnd.s (.v r)).code < 120 from r.isLt), Opnd.regs, if_pos (show (Opnd.s (.v r)).code < 120 from r.isLt)]
  rfl

/-! ## CONVB and SCALEB of one lane (R204) -/

section
variable {k : BlkConv} {e : Dst} {a : Src} {blk : Nat} {ws : List (List Word)}

theorem convPass_other (hact : s.acting g = [t]) (ts : List Thread) (h : blk ≠ k.blockOf t.lane) : s.convPass ts ws i k g d a e blk = s := by
  rw [State.convPass, hact, List.filter_cons_of_neg (by simpa using Ne.symm h)]
  rfl

/-- The sources of a derived entry of a block: the words of the one poisoned lane, and zeros for those that are not active. -/
def State.blockSrcs (s : State) (t : Thread) (a : Src) (n : Nat) : List (List LogSrc) :=
  (List.range 32).map fun l => if l = t.lane then s.logSrc t (blkOpnd a n) else List.replicate n (.val 0)

theorem blockSrcs_eq (s : State) (t : Thread) (a : Src) (n : Nat) :
    ((upFrom 0 32).map fun l => if l = t.lane then s.logSrc t (blkOpnd a n) else (((upFrom 0 32).map (s.blkWords [t] a n)).getD l []).map .val) =
      s.blockSrcs t a n := by
  have fromZero : upFrom 0 32 = List.range 32 := by decide
  rw [State.blockSrcs, fromZero]
  refine List.map_congr_left fun l hl => ?_
  split
  · rfl
  next hne =>
    have other : s.blkWords [t] a n l = List.replicate n 0 := by
      have away : (t.lane == l) = false := by simpa using Ne.symm hne
      simp [State.blkWords, atLane, away]
    rw [List.getD_eq_getElem?_getD, List.getElem?_map, List.getElem?_range (List.mem_range.mp hl), Option.map_some, Option.getD_some, other,
      List.map_replicate]

theorem convPass_derives (hact : s.acting g = [t]) (hactive : s.active g = [t]) (hpois : t.opPois (blkOpnd a k.regs) = true)
    (hlost : anyLost t [blkOpnd a k.regs] = false) :
    s.convPass (s.active g) ((upFrom 0 32).map (s.blkWords (s.active g) a k.regs)) i k g d a e (k.blockOf t.lane) =
      s.deriveInto i t [blkOpnd a k.regs] (s.blockSrcs t a k.regs) [(d, if k.wide then 2 else 1), (e, 1)] := by
  rw [State.convPass, hact, hactive, List.filter_cons_of_pos (by simp), List.filter_cons_of_pos (by simp [hpois]), List.filter_nil, List.filter_nil,
    State.over, List.foldl_cons, List.foldl_nil, if_pos (by simp [hlost]), blockSrcs_eq]

/-- One lane's block, poisoned in its own registers alone. -/
theorem convBlock_derives (hact : s.acting g = [t]) (hactive : s.active g = [t]) (hlane : t.lane < 32) (hpois : t.opPois (blkOpnd a k.regs) = true)
    (hlost : anyLost t [blkOpnd a k.regs] = false) (hinh : t.trap.inh = false) (hroom : t.derivedCount < 64) :
    let m := if k.wide then 2 else 1
    s.convBlock i k g d a e = { s.updThr t.uid fun u =>
        (({ u with log := u.log ++ [⟨s.fresh + m + 1, i, .derived t.lane (s.blockSrcs t a k.regs)⟩] } : Thread).wrWords d (s.poisonWords m)
          (.owned (s.fresh + m + 1))).wrWords e [Config.poisonWord (s.fresh + m)] fun _ => .owned (s.fresh + m + 1) m with
      fresh := s.fresh + m + 2 } := by
  intro m
  have own : ∀ u : Thread, u.wrOwned (s.fresh + m + 1) (s.poisonWords (m + 1)) [(d, m), (e, 1)] =
      (u.wrWords d (s.poisonWords m) (.owned (s.fresh + m + 1))).wrWords e [Config.poisonWord (s.fresh + m)]
        fun _ => .owned (s.fresh + m + 1) m := fun u => by
    have two := wrOwned_two u (s.fresh + m + 1) (s.poisonWords m) (Config.poisonWord (s.fresh + m)) d e
    rwa [← poisonWords_succ, poisonWords_length] at two
  have total : [(d, m), (e, 1)].foldl (fun n x => n + x.2) 0 = m + 1 := congrArg (· + 1) (Nat.zero_add m)
  have derived := convPass_derives (i := i) (d := d) (e := e) hact hactive hpois hlost
  simp only [deriveInto_joins hinh hroom, total, ← Nat.add_assoc, own, m] at derived
  have mine : k.blockOf t.lane ∈ if k.scale && k.len == .l32 then [0, 1] else [0] := by
    cases halves : k.scale && k.len == .l32
    · simp [blockOf_whole halves]
    · rw [blockOf_halves halves, if_pos rfl]
      simp
      omega
  have still : (s.convPass (s.active g) ((upFrom 0 32).map (s.blkWords (s.active g) a k.regs)) i k g d a e (k.blockOf t.lane)).acting g = [t] := by
    rw [derived]
    exact hact
  rw [convBlock_eq, over_once (by split <;> decide) mine (fun blk h => convPass_other hact _ h) fun blk h => convPass_other still _ h]
  exact derived
end
end

end Sys2Proof.Machine
end

section
/-! O11, PoisonResults: which operands each instruction consumes, and the statement. -/

namespace Sys2Proof.Machine

/-- What an instruction that consumes operands tests before it looks at them. -/
def State.opensTo (s : State) (t : Thread) : Instr → Prop
  | .ssp .. | .atms .. => isEnsign (s.coreOf t.wg) = false
  | .spawn .. | .cont .. => t.tx = none ∧ t.lane < 32
  | .seq .. => s.seqFull t.wg = false
  | .rstkPush .. => ∀ o ∈ s.ops, ∀ x ∈ o.lanes, x.uid ≠ t.uid
  | .syswr _ _ idx => (0x080 ≤ idx.toNat ∧ idx.toNat ≤ 0x085) ∨ Requester.opens (s.threadReq t) idx.toNat true = true
  | _ => True

/-- An instruction traps where an operand that it consumes is poisoned (R187, R220, R402). -/
theorem exec_consumes {s : State} {g : Pred} {t : Thread} {i : Instr} {os : List Opnd} {entry : DWord} (hc : Instr.consumes i = some (g, os))
    (h : s.alone i g t) (hmay : s.mayTrap t entry) (hh : t.helper = false) (hpois : os.any t.opPois = true) (hopen : s.opensTo t i) :
    exec i s = .next (s.trapsHere t entry 3 (poisonCode t os) 0) := by
  cases i
  case icmp w _ _ a b =>
    cases hc
    cases w <;> exact consumer_traps (by rfl) h hmay hpois
  case fcmp | dcmp | resv | jmpx | ret | reorder | rfree | qbind | monwait | cplwait =>
    cases hc
    exact consumer_traps (by rfl) h hmay hpois
  case ld =>
    cases hc
    exact access_traps (exec_ld h.issues) h.acts h.found hmay hpois (.inr (globalChk_legal _ _ _))
  case rbox =>
    cases hc
    exact access_traps (exec_rbox h.issues) h.acts h.found hmay hpois (.inr (globalChk_legal _ _ _))
  case rtri =>
    cases hc
    exact access_traps (exec_rtri h.issues) h.acts h.found hmay hpois (.inr (globalChk_legal _ _ _))
  case ldlod =>
    cases hc
    exact access_traps (exec_ldlod h.issues) h.acts h.found hmay hpois (.inr fun _ h => nomatch h)
  case sample =>
    cases hc
    exact access_traps (exec_sample h.issues) h.acts h.found hmay hpois (.inr fun _ h => nomatch h)
  case st =>
    cases hc
    exact access_traps (exec_st h.issues) (realLanes_one h.acts hh) h.found hmay hpois (.inr (globalChk_legal _ _ _))
  case rdm =>
    cases hc
    exact access_traps (exec_rdm h.issues) (realLanes_one h.acts hh) h.found hmay hpois (.inr (globalChk_legal _ _ _))
  case vbmin =>
    cases hc
    exact access_traps (exec_vbmin h.issues) (realLanes_one h.acts hh) h.found hmay hpois (.inr (globalChk_legal _ _ _))
  case atm =>
    cases hc
    exact access_traps (exec_atm_one h hh) rfl h.found hmay hpois (.inr (globalChk_legal _ _ _))
  case lsp =>
    cases hc
    exact access_traps (exec_lsp h.issues) h.acts h.found hmay hpois (.inl (by simpa using hpois))
  case ssp =>
    cases hc
    exact access_traps (exec_ssp h.issues) (realLanes_one h.acts hh) h.found hmay hpois (.inr (localChk_legal hopen _ _ _))
  case atms =>
    cases hc
    exact access_traps (exec_atms_one h hh) rfl h.found hmay hpois (.inr (localChk_legal hopen _ _ _))
  case spawn =>
    cases hc
    exact spawn_traps h hmay hh hpois hopen.1
  case cont =>
    cases hc
    exact cont_traps h hmay hopen.1 hopen.2 hpois
  case seq =>
    cases hc
    exact seq_traps h hmay hopen hpois
  case syswr =>
    cases hc
    exact syswr_traps h hmay hopen hpois
  case rstkPush =>
    cases hc
    exact rstkPush_traps h hmay hopen hpois
  all_goals cases hc

/-- Settles O11: a consumer traps before it does anything else with its operands, a computation makes its result unrecoverable or owned by a new entry of
the log, and a block conversion does so for its one poisoned lane. -/
theorem poisonResults : Obligations.PoisonResults := by
  unfold Obligations.PoisonResults
  intro s g t entry code derivedIn free
  refine ⟨?consumes, ?qput, ?hoist, ?computes, logSrc_reg, ?block⟩
  case consumes =>
    intro i os hc h hmay hh hpois hopen
    exact exec_consumes hc h hmay hh hpois (by cases i <;> exact hopen)
  case qput => exact fun a q h hmay hh hpois hport => qput_poisoned h hmay hh hpois hport
  case hoist =>
    intro q vs b tgt n any os h hmay hh htx hport hpois
    exact hoist_poisoned h hmay hh htx hport hpois
  case computes =>
    intro i d w n hc h hpois
    rw [computes_derives hc h hpois]
    refine ⟨fun hlost => ?_, fun hlost hinh hroom => ?_, fun hlost hmay hfull => ?_⟩
    · rw [derive_lost hlost]
      rfl
    · rw [derive_joins hlost hinh hroom]
      rfl
    · rw [derive_kept hlost, deriveInto_full h.found hmay hfull hlost]
  case block =>
    intro scale b2 tt len rnd d e a ph i n m srcs h hactive hlane hpois hlost hinh hroom
    cases scale
    case false =>
      refine (exec_body (i := .convb g d a tt len rnd e ph) (by rfl) h.issues).trans (congrArg _ ?_)
      exact convBlock_derives h.acts hactive hlane hpois hlost hinh hroom
    case true =>
      refine (exec_body (i := .scaleb g d a tt len b2 rnd e ph) (by rfl) h.issues).trans (congrArg _ ?_)
      exact convBlock_derives h.acts hactive hlane hpois hlost hinh hroom

end Sys2Proof.Machine
end

section
/-! O35, SysrdResults: what a read of an index gives and leaves, and the statement. -/

namespace Sys2Proof.Machine

/-! ## Reads of a register (R348, R360) -/

section
variable (s : State) (r : Requester) {k : Nat}

theorem regRead_hidden (h : regHidden k = true) : s.regRead r k = (0, s) := if_pos h

/-- A register that clears on a read is none that is held elsewhere than among the registers. -/
theorem ne_of_regRc {view : Nat} (h : regRc view k = true) : regHidden k = false ∧ k ∉ [0x0C00, 0x0C01, 0x2000, 0x2001, 0x2010, 0x2800]
    ∧ ¬(0x0800 ≤ k ∧ k < 0x0A00) := by
  simp only [regRc, regHidden, Bool.or_eq_true, Bool.and_eq_true, decide_eq_true_eq, beq_iff_eq, Bool.or_eq_false_iff, beq_eq_false_iff_ne,
    Bool.and_eq_false_iff, decide_eq_false_iff_not, List.mem_cons, List.not_mem_nil, or_false] at h ⊢
  omega

/-- A register of the plain kind is read, and cleared where a read clears it. -/
theorem regRead_held (hhid : regHidden k = false) (hq : 0x0800 ≤ k → k < 0x0A00 → k % 16 ≠ 9)
    (h : k ∉ [0x0C00, 0x0C01, 0x2000, 0x2001, 0x2010, 0x2800]) :
    s.regRead r k = (s.rreg r.view k, if regRc r.view k then s.wreg r.view k 0#32 else s) := by
  have stat : (decide (0x0800 ≤ k) && decide (k < 0x0A00) && decide (k % 16 = 9)) = false := by
    simp only [Bool.and_eq_false_iff, decide_eq_false_iff_not]
    omega
  simp only [List.mem_cons, List.not_mem_nil, or_false, not_or] at h
  obtain ⟨h1, h2, h3, h4, h5, h6⟩ := h
  simp only [State.regRead, hhid, stat, h1, h2, h3, h4, h5, h6, Bool.false_eq_true, if_false]
  cases regRc r.view k <;> rfl

theorem regRead_clears (h : regRc r.view k = true) : s.regRead r k = (s.rreg r.view k, s.wreg r.view k 0#32) := by
  obtain ⟨hhid, hne, hq⟩ := ne_of_regRc h
  rw [regRead_held s r hhid (fun hlo hhi => absurd ⟨hlo, hhi⟩ hq) hne, if_pos h]

end

/-! ## SYSRD (R293) -/

theorem xcause_eq (t : Thread) : t.xcause = BitVec.ofNat 32 ((if t.trap.inh then 2 ^ 31 else 0) + t.log.length % 256 * 2 ^ 16
    + t.trap.rslot * 2 ^ 12 + t.trap.oslot * 2 ^ 8 + t.trap.cause) := by
  rw [Thread.xcause]
  cases t.trap.inh <;> rfl

theorem userReg_none {s : State} {t : Thread} {k : Nat} (h : ¬((0x080 ≤ k ∧ k ≤ 0x086) ∨ k = 0x090 ∨ k = 0x091)) : s.userReg t k = none := by
  unfold State.userReg
  split
  iterate 9 · exact absurd h (by decide)
  · rfl

/-- A thread reads by its launch's level, through the view that serves it (R343). -/
theorem threadReq_of_launch {s : State} {t : Thread} {l : Launch} (hl : s.launchOfWg t.wg = some l) : s.threadReq t =
    ⟨if l.level = .f then (if 252 < s.coreOf t.wg then s.coreOf t.wg - 252 else l.asid / 64) else 0, l.level, false, 64 + t.uid⟩ := by
  simp only [State.threadReq, hl]
  rfl

section
variable {s : State} {g : Pred} {d : Dst} {idx : BitVec 14} {t : Thread}

theorem sysrd_one (h : s.alone (.sysrd g d idx) g t) : exec (.sysrd g d idx) s = .next (match s.userReg t idx.toNat with
    | some w => s.updThr t.uid fun t => (t.wr d w).trimLog
    | none =>
        if Requester.opens (s.threadReq t) idx.toNat false then
          let (w, s1) := s.regRead (s.threadReq t) idx.toNat
          s1.updThr t.uid fun t => (t.wr d w).trimLog
        else s.trapHere t.uid 24 0 0) := by
  refine (exec_body (i := .sysrd g d idx) (by rfl) h.issues).trans (congrArg _ ?_)
  exact eachLane_one h.acts _

/-- A register of the user level gives its word at every level (R223). -/
theorem sysrd_user {w : Word} (h : s.alone (.sysrd g d idx) g t) (hw : s.userReg t idx.toNat = some w) :
    exec (.sysrd g d idx) s = .next (s.updThr t.uid fun u => (u.wr d w).trimLog) := by rw [sysrd_one h, hw]

theorem sysrd_denied {entry : DWord} (h : s.alone (.sysrd g d idx) g t) (huser : s.userReg t idx.toNat = none)
    (hopen : Requester.opens (s.threadReq t) idx.toNat false = false) (hmay : s.mayTrap t entry) :
    exec (.sysrd g d idx) s = .next (s.trapsHere t entry 24 0 0) := by
  rw [sysrd_one h, huser, ← trapHere_mayTrap h.found hmay]
  simp only [hopen, Bool.false_eq_true, if_false]

theorem sysrd_reads {w : Word} {s1 : State} (h : s.alone (.sysrd g d idx) g t) (huser : s.userReg t idx.toNat = none)
    (hopen : Requester.opens (s.threadReq t) idx.toNat false = true) (hread : s.regRead (s.threadReq t) idx.toNat = (w, s1)) :
    exec (.sysrd g d idx) s = .next (s1.updThr t.uid fun u => (u.wr d w).trimLog) := by
  rw [sysrd_one h, huser]
  simp only [hopen, if_true, hread]

end

/-- Settles O35: an index of the user level by its word, one that the level opens by what its read gives and leaves, and any other by the trap. -/
theorem sysrdResults : Obligations.SysrdResults := by
  unfold Obligations.SysrdResults
  intro s g d idx t l entry h hl k q gives user
  have hq : s.threadReq t = q := threadReq_of_launch hl
  have hasid : s.asidOf t.wg = l.asid := by rw [State.asidOf, hl]; rfl
  have word : ∀ n w, s.userReg t n = some w → k = n → gives s w := fun n w hw hk => sysrd_user h (by rw [← hw, ← hk])
  refine ⟨word _ _ rfl, word _ _ rfl, word _ _ (congrArg some (xcause_eq t)), word _ _ rfl, word _ _ rfl, word _ _ rfl, word _ _ rfl,
    word _ _ (by rw [← hasid]; rfl), word _ _ (by rw [← hasid]; rfl), ?denied, ?opened⟩
  case denied => exact fun hu hopen hmay => sysrd_denied h (userReg_none hu) (hq ▸ hopen) hmay
  case opened =>
    intro hu hopen
    have reads : ∀ {w s1}, s.regRead q k = (w, s1) → gives s1 w := fun hread => sysrd_reads h (userReg_none hu) (hq ▸ hopen) (hq ▸ hread)
    refine ⟨fun hk => reads ?_, fun hk => reads ?_, fun hhid => reads (regRead_hidden s q hhid), fun hrc => reads (regRead_clears s q hrc),
      fun hhid hrc hstat hne => reads ?_⟩
    · rw [hk]; rfl
    · rw [hk]; rfl
    · rw [regRead_held s q hhid hstat hne, hrc]; rfl

end Sys2Proof.Machine
end

section
/-! O36, RegisterWrites: writes of the trap registers, accesses that are not open, and the statement. -/

namespace Sys2Proof.Machine

/-! ## Trap registers (R223) -/

theorem pairOf_hi32 (x : DWord) (v : Word) : pairOf v (hi32 x) = (x >>> 32) <<< 32 ||| v.setWidth 64 := by
  have high : ((x >>> 32).setWidth 32).setWidth 64 = x >>> 32 := by
    apply BitVec.eq_of_toNat_eq
    have := x.isLt
    simp only [BitVec.toNat_setWidth, BitVec.toNat_ushiftRight, Nat.shiftRight_eq_div_pow]
    omega
  rw [pairOf, hi32, high]

theorem pairOf_lo32 (x : DWord) (v : Word) :
    pairOf (lo32 x) (v &&& 0xFFFFF#32) = (v.setWidth 64 &&& 0xFFFFF#64) <<< 32 ||| (x.setWidth 32).setWidth 64 := by
  rw [pairOf, lo32, BitVec.setWidth_and]
  rfl

theorem writeTrapReg_outside {t : Thread} (h : t.trap.inh = false) (k : Nat) (v : Word) : t.writeTrapReg k v = t :=
  if_pos (by rw [h]; rfl)

/-- In the handler XPC and RSLOT take the word, and no other trap register does. -/
theorem writeTrapReg_handler {t : Thread} (h : t.trap.inh = true) (v : Word) :
    t.writeTrapReg 0x080 v = { t with trap := { t.trap with xpc := (t.trap.xpc >>> 32) <<< 32 ||| v.setWidth 64 } }
    ∧ t.writeTrapReg 0x081 v =
      { t with trap := { t.trap with xpc := (v.setWidth 64 &&& 0xFFFFF#64) <<< 32 ||| (t.trap.xpc.setWidth 32).setWidth 64 } }
    ∧ t.writeTrapReg 0x082 v = { t with trap := { t.trap with rslot := v.toNat / 2 ^ 12 % 4 } }
    ∧ ∀ k, 0x083 ≤ k → t.writeTrapReg k v = t := by
  have inside : ¬(!t.trap.inh) = true := by rw [h]; exact Bool.false_ne_true
  refine ⟨?low, ?high, if_neg inside, fun k hk => ?rest⟩
  case low => rw [← pairOf_hi32]; exact if_neg inside
  case high => rw [← pairOf_lo32]; exact if_neg inside
  case rest =>
    unfold Thread.writeTrapReg
    rw [if_neg inside]
    split
    iterate 3 · omega
    · rfl

/-- Updates that do the same to every thread of a name are one. -/
theorem updThr_congr {s : State} {n : Nat} {f f' : Thread → Thread} (h : ∀ u ∈ s.threads, u.uid = n → f u = f' u) :
    s.updThr n f = s.updThr n f' := by
  have same : (s.threads.map fun u => if u.uid = n then f u else u) = s.threads.map fun u => if u.uid = n then f' u else u := by
    refine List.map_congr_left fun u hu => ?_
    by_cases hn : u.uid = n
    · rw [if_pos hn, if_pos hn, h u hu hn]
    · rw [if_neg hn, if_neg hn]
  rw [State.updThr, State.updThr, same]

/-! ## SYSWR (R293) -/

/-- Of one register that can be recovered, the code of POISON_CONSUMED is its field (R223). -/
theorem poisonCode_one {t : Thread} {v : Src} (hpois : t.opPois (.s v) = true) (hlost : ∀ r, (t.reg r).mark ≠ .lost) :
    poisonCode t [.s v] = 4 * v.code := by
  have kept : anyLost t [.s v] = false := by simp [anyLost, hlost]
  have first : firstPoisoned t [.s v] = v.code := by
    rw [firstPoisoned, List.find?_cons_of_pos hpois]
    rfl
  rw [poisonCode, kept, first, if_neg Bool.false_ne_true, Nat.zero_add]

section
variable {s : State} {g : Pred} {v : Src} {idx : BitVec 14} {t : Thread}

theorem syswr_one (h : s.alone (.syswr g v idx) g t) : exec (.syswr g v idx) s = .next (
    if !(decide (0x080 ≤ idx.toNat) && decide (idx.toNat ≤ 0x085)) && !Requester.opens (s.threadReq t) idx.toNat true then s.trapHere t.uid 24 0 0
    else if t.opPois (.s v) then s.trapPoison t false [.s v]
    else if decide (0x080 ≤ idx.toNat) && decide (idx.toNat ≤ 0x085) then s.updThr t.uid fun t => t.writeTrapReg idx.toNat (s.src t v)
    else s.regWrite (s.threadReq t) idx.toNat (s.src t v)) := by
  refine (exec_body (i := .syswr g v idx) (by rfl) h.issues).trans (congrArg _ ?_)
  exact eachLane_one h.acts _

theorem syswr_denied {entry : DWord} (h : s.alone (.syswr g v idx) g t) (htrap : ¬(0x080 ≤ idx.toNat ∧ idx.toNat ≤ 0x085))
    (hopen : Requester.opens (s.threadReq t) idx.toNat true = false) (hmay : s.mayTrap t entry) :
    exec (.syswr g v idx) s = .next (s.trapsHere t entry 24 0 0) := by
  have other : (decide (0x080 ≤ idx.toNat) && decide (idx.toNat ≤ 0x085)) = false := by simpa using htrap
  rw [syswr_one h, other, hopen, ← trapHere_mayTrap h.found hmay]
  rfl

theorem syswr_writes (h : s.alone (.syswr g v idx) g t) (hpois : t.opPois (.s v) = false) (htrap : ¬(0x080 ≤ idx.toNat ∧ idx.toNat ≤ 0x085))
    (hopen : Requester.opens (s.threadReq t) idx.toNat true = true) :
    exec (.syswr g v idx) s = .next (s.regWrite (s.threadReq t) idx.toNat (s.src t v)) := by
  rw [syswr_one h, if_neg (by simp [hopen]), hpois, if_neg Bool.false_ne_true, if_neg (by simpa using htrap)]

/-- A write of a trap register changes every thread of the lane's name, of which there is one. -/
theorem syswr_trapReg (h : s.alone (.syswr g v idx) g t) (hpois : t.opPois (.s v) = false) (htrap : 0x080 ≤ idx.toNat ∧ idx.toNat ≤ 0x085)
    (huniq : ∀ u ∈ s.threads, u.uid = t.uid → u = t) {f : Thread → Thread} (hf : t.writeTrapReg idx.toNat (s.src t v) = f t) :
    exec (.syswr g v idx) s = .next (s.updThr t.uid f) := by
  obtain ⟨hlo, hhi⟩ := htrap
  rw [syswr_one h, if_neg (by simp [hlo, hhi]), hpois, if_neg Bool.false_ne_true, if_pos (by simp [hlo, hhi])]
  refine congrArg _ (updThr_congr fun u hu hn => ?_)
  rw [huniq u hu hn, hf]

end

/-! ## REGISTER_WRITE (R348) -/

section
variable {s : State} {r : Requester} {k : Nat}

theorem registerWrite_open (x : Word) (h : Requester.opens r k true = true) : exec (.registerWrite r k x) s = .next (s.regWrite r k x) :=
  congrArg _ (if_pos h)

theorem registerWrite_denied (x : Word) (h : Requester.opens r k true = false) : exec (.registerWrite r k x) s = .next (s.deny r) :=
  congrArg _ (if_neg (by rw [h]; exact Bool.false_ne_true))

theorem deny_host (h : r.host = true) : s.deny r = s.bump 0 0x0420 := if_pos h

/-- An access of a management core traps in its thread (R348). -/
theorem deny_core (h : r.host = false) : s.deny r = match s.mgmtThread r with
    | some t => s.takeTrap t.uid 24 (slotOf t.pc) 0 0 t.pc
    | none => s := if_neg (by rw [h]; exact Bool.false_ne_true)

end

/-- Settles O36: what is not open by the trap or the count of its requester, a trap register by what the handler may change, and the rest by the
register's write. -/
theorem registerWrites : Obligations.RegisterWrites := by
  unfold Obligations.RegisterWrites
  intro s g v idx t l entry
  refine ⟨?syswr, fun r k x => ?write⟩
  case syswr =>
    intro h hl k q x trapReg sets
    have hq : s.threadReq t = q := threadReq_of_launch hl
    refine ⟨fun htrap hopen hmay => syswr_denied h htrap (hq ▸ hopen) hmay, fun hpois hlost hopen hmay => ?_, fun hpois =>
      ⟨fun htrap hopen => hq ▸ syswr_writes h hpois htrap (hq ▸ hopen), fun hinh htrap _ huniq => ?_, fun hinh huniq => ?_⟩⟩
    · rw [syswr_traps h hmay (hq ▸ hopen) (by simpa using hpois), poisonCode_one hpois hlost]
    · rw [syswr_trapReg h hpois htrap huniq (f := fun u => u) (writeTrapReg_outside hinh _ _), updThr_id]
    · obtain ⟨lo, hi, slot, rest⟩ := writeTrapReg_handler hinh x
      have writes : ∀ {n : Nat} {f : Thread → Thread}, k = n → 0x080 ≤ n ∧ n ≤ 0x085 → t.writeTrapReg n x = f t →
          exec (.syswr g v idx) s = .next (s.updThr t.uid f) := by
        rintro n f rfl hn hf
        exact syswr_trapReg h hpois hn huniq hf
      refine ⟨fun hk => writes hk (by decide) lo, fun hk => writes hk (by decide) hi, fun hk => writes hk (by decide) slot, fun hlo hhi => ?_⟩
      rw [writes (f := fun u => u) rfl ⟨by omega, hhi⟩ (rest k hlo), updThr_id]
  case write =>
    refine ⟨registerWrite_open x, fun hopen hhost hnone => ?_, fun u hopen hhost hsome hu htx hmay => ?_, fun hopen hhost => ?_⟩
    · rw [registerWrite_denied x hopen, deny_core hhost, hnone]
    · rw [registerWrite_denied x hopen, deny_core hhost, hsome]
      exact congrArg _ (takeTrap_mayTrap hu hmay 24 (slotOf u.pc) 0 0 u.pc)
    · rw [registerWrite_denied x hopen, deny_host hhost, State.bump]

end Sys2Proof.Machine
end

section
/-! SUPPORT. Laws of faults: one record found and updated, the turn at the page-request queue (R400), and what a fault with an entry does (R397). -/

namespace Sys2Proof.Machine

/-! ## One record found and updated -/

section
variable {s : State} {r : FaultRec}

/-- Where records have names of their own, the one that is found is the only one of its name. -/
theorem eq_of_fault? {x : FaultRec} (hids : (s.faults.map (·.id)).Nodup) (hr : s.fault? r.id = some r) (hx : x ∈ s.faults) (hid : x.id = r.id) :
    x = r :=
  List.inj_on_of_nodup_map hids hx (List.mem_of_find?_eq_some hr) hid

/-- Updates that do the same to the record are one. -/
theorem updFault_congr {f f' : FaultRec → FaultRec} (hids : (s.faults.map (·.id)).Nodup) (hr : s.fault? r.id = some r) (h : f r = f' r) :
    s.updFault r.id f = s.updFault r.id f' := by
  have same : (s.faults.map fun (x : FaultRec) => if x.id = r.id then f x else x) = s.faults.map fun x => if x.id = r.id then f' x else x := by
    refine List.map_congr_left fun x hx => ?_
    by_cases hid : x.id = r.id
    · rw [if_pos hid, if_pos hid, eq_of_fault? hids hr hx hid, h]
    · rw [if_neg hid, if_neg hid]
  rw [State.updFault, State.updFault, same]

theorem fault?_only (h : s.faults = [r]) : s.fault? r.id = some r := by
  rw [State.fault?, h, List.find?_cons_of_pos (by simp)]

theorem updFault_only (h : s.faults = [r]) (f : FaultRec → FaultRec) : s.updFault r.id f = { s with faults := [f r] } := by
  rw [State.updFault, h, List.map_cons, List.map_nil, if_pos rfl]

/-! ## An entry that is free again (R400) -/

/-- The machine without a record. -/
def State.withoutFault (s : State) (n : Nat) : State := { s with faults := s.faults.filter (·.id != n) }

/-- Where no fault waits for an entry, nothing else happens. -/
theorem prqDone_noneWait (h : ∀ x ∈ s.faults, x.phase ≠ .waitEntry) (n : Nat) : s.prqDone n = s.withoutFault n := by
  have none : ((s.withoutFault n).faults.filter (·.phase == .waitEntry)) = [] := List.filter_eq_nil_iff.mpr fun x hx => by
    simpa using h x (List.mem_of_mem_filter hx)
  change (s.withoutFault n).posts (((s.withoutFault n).faults.filter (·.phase == .waitEntry)).map fun r => Instr.prqEntryGrant r.id) = _
  rw [none, State.posts, List.map_nil, List.append_nil]

theorem withoutFault_only (h : s.faults = [r]) : s.withoutFault r.id = { s with faults := [] } := by
  rw [State.withoutFault, h, List.filter_cons_of_neg (by simp), List.filter_nil]

/-! ## The turn at the queue (R400, R408) -/

/-- The fault of a front end that is first in the line for an entry. -/
def State.firstWaiting (s : State) (fe : Nat) : Option FaultRec := s.faults.find? fun x => x.phase == .waitEntry && x.asid / 64 == fe

/-- Has a fault its turn for an entry, its front end's share allowing? -/
def State.hasTurn (s : State) (r : FaultRec) : Bool :=
  s.prqMay (r.asid / 64) && ((s.firstWaiting (r.asid / 64)).isNone || (s.firstWaiting (r.asid / 64)).map (·.id) == some r.id)

theorem faultTry_eq : s.faultTry r = if s.hasTurn r then s.faultHeld r
    else if r.phase = .new then (s.updFault r.id fun r => { r with phase := .waitEntry }).bump (r.asid / 64) 0x2002 else s := rfl

theorem faultTry_turn (hmay : s.prqMay (r.asid / 64) = true) (h : ∀ x, s.firstWaiting (r.asid / 64) = some x → x.id = r.id) :
    s.faultTry r = s.faultHeld r := by
  rw [faultTry_eq, if_pos]
  rw [State.hasTurn, hmay, Bool.true_and]
  cases hx : s.firstWaiting (r.asid / 64) with
  | none => rfl
  | some x => simp [h x hx]

theorem firstWaiting_none (h : ∀ x ∈ s.faults, x.phase ≠ .waitEntry) (fe : Nat) : s.firstWaiting fe = none :=
  List.find?_eq_none.mpr fun x hx => by simp [h x hx]

theorem faultTry_noTurn (h : s.prqMay (r.asid / 64) = false ∨ ∃ x, s.firstWaiting (r.asid / 64) = some x ∧ x.id ≠ r.id) : s.faultTry r =
    if r.phase = .new then (s.updFault r.id fun r => { r with phase := .waitEntry }).bump (r.asid / 64) 0x2002 else s := by
  rw [faultTry_eq, if_neg]
  rcases h with h | ⟨x, hx, hne⟩
  · simp [State.hasTurn, h]
  · simp [State.hasTurn, hx, hne]

/-! ## What holds an entry (R397) -/

theorem faultHeld_stage2 (h : r.stage2 = true) : s.faultHeld r = s.updFault r.id fun r => { r with phase := .stage2 } := if_pos h

/-- The record of a stage-1 fault goes to its ring, with a token where it awaits a response. -/
def State.toRing (s : State) (r : FaultRec) : State :=
  s.updFault r.id fun x => { x with phase := .waitRing, token := if r.resp then s.freeToken (r.asid / 64) else 0 }

theorem updFault_toRing (hids : (s.faults.map (·.id)).Nodup) (hr : s.fault? r.id = some r) :
    (s.updFault r.id fun r => { r with phase := .waitRing, token := if r.resp then s.freeToken (feOf r.asid) else 0 }) = s.toRing r :=
  updFault_congr hids hr rfl

theorem faultHeld_cmd {n : Nat} (hids : (s.faults.map (·.id)).Nodup) (hr : s.fault? r.id = some r) (hsrc : r.src = .cmd n) (h : r.stage2 = false) :
    s.faultHeld r = (s.toRing r).post (.faultRecordWrite r.id) := by
  rw [State.faultHeld, if_neg (by simp [h]), updFault_toRing hids hr, hsrc]

end

end Sys2Proof.Machine
end

section
/-! O33, Faults: the fault of a command from its detection to its resolution, the fault of a load, and the statement. -/

namespace Sys2Proof.Machine

/-! ## Detection and entry -/

section
variable {s : State} {r : FaultRec}

theorem accessFault_tries (hr : s.fault? r.id = some r) (hphase : r.phase = .new) : exec (.accessFault r.id) s = .next (s.faultTry r) := by
  change execAccessFault r.id s = _
  rw [execAccessFault, hr]
  exact congrArg _ (if_pos hphase)

theorem prqEntryGrant_tries (hr : s.fault? r.id = some r) (hphase : r.phase = .waitEntry) : exec (.prqEntryGrant r.id) s = .next (s.faultTry r) := by
  change execPrqEntryGrant r.id s = _
  rw [execPrqEntryGrant, hr]
  exact congrArg _ (if_pos hphase)

/-- With an entry a stage-2 fault of a command waits for the security core, and the record of a stage-1 fault goes to its ring (R397). -/
theorem faultTry_cmd {n : Nat} (hids : (s.faults.map (·.id)).Nodup) (hr : s.fault? r.id = some r) (hsrc : r.src = .cmd n)
    (hmay : s.prqMay (r.asid / 64) = true) (h : ∀ x, s.firstWaiting (r.asid / 64) = some x → x.id = r.id) :
    s.faultTry r = if r.stage2 then s.updFault r.id fun r => { r with phase := .stage2 } else (s.toRing r).post (.faultRecordWrite r.id) := by
  rw [faultTry_turn hmay h]
  cases hstage : r.stage2 with
  | true => exact faultHeld_stage2 hstage
  | false => exact faultHeld_cmd hids hr hsrc hstage

/-- A fault that is new stands in no line yet. -/
theorem firstWaiting_ne (hids : (s.faults.map (·.id)).Nodup) (hr : s.fault? r.id = some r) (hphase : r.phase = .new)
    (h : ∃ x ∈ s.faults, x.phase = .waitEntry ∧ x.asid / 64 = r.asid / 64) :
    ∃ x, s.firstWaiting (r.asid / 64) = some x ∧ x.id ≠ r.id := by
  obtain ⟨x, hx, hwait, hfe⟩ := h
  cases hfirst : s.firstWaiting (r.asid / 64) with
  | none => exact absurd (List.find?_eq_none.mp hfirst x hx) (by simp [hwait, hfe])
  | some y =>
      have waits := List.find?_some hfirst
      simp only [Bool.and_eq_true, beq_iff_eq] at waits
      obtain ⟨hy, -⟩ := waits
      refine ⟨y, rfl, fun hid => ?_⟩
      rw [eq_of_fault? hids hr (List.mem_of_find?_eq_some hfirst) hid, hphase] at hy
      exact absurd hy (by decide)

theorem phase_of_firstWaiting {x : FaultRec} {fe : Nat} (h : s.firstWaiting fe = some x) : x ∈ s.faults ∧ x.phase = .waitEntry := by
  have waits := List.find?_some h
  simp only [Bool.and_eq_true, beq_iff_eq] at waits
  obtain ⟨hphase, -⟩ := waits
  exact ⟨List.mem_of_find?_eq_some h, hphase⟩

/-! ## The record's ring (R399) -/

section
variable (hfaults : s.faults = [r]) (hphase : r.phase = .waitRing) (hsrc : r.src ≠ .record r.id)
include hfaults hphase hsrc

/-- The one record of the machine has its turn at its ring. -/
theorem ring_turn : ((s.faults.find? fun x => x.asid == r.asid && x.phase == .waitRing).map (·.id)) = some r.id
    ∧ (s.faults.any (·.src == .record r.id)) = false := by
  constructor
  · simp [hfaults, hphase]
  · simp [hfaults, hsrc]

theorem faultRecordWrite_noRing (hbase : s.rreg2 (r.asid / 64) (0x1C00 + 8 * (r.asid % 64) + 2) = 0) :
    exec (.faultRecordWrite r.id) s = .next (State.fatal { s with faults := [] } r.asid 9) := by
  obtain ⟨first, unblocked⟩ := ring_turn hfaults hphase hsrc
  have alone : ∀ x ∈ s.faults, x.phase ≠ .waitEntry := by simp [hfaults, hphase]
  change execFaultRecordWrite r.id s = _
  simp only [execFaultRecordWrite, fault?_only hfaults, first, unblocked, feOf, hbase, ne_eq, not_true, decide_false, Bool.or_self,
    Bool.false_eq_true, if_false, if_true, prqDone_noneWait alone, withoutFault_only hfaults]

theorem faultRecordWrite_full (hbase : s.rreg2 (r.asid / 64) (0x1C00 + 8 * (r.asid % 64) + 2) ≠ 0)
    (hused : (s.rregN (r.asid / 64) (0x1C00 + 8 * (r.asid % 64) + 6) + 2 ^ 32 - s.rregN (r.asid / 64) (0x1C00 + 8 * (r.asid % 64) + 5)) % 2 ^ 32
      = s.rregN (r.asid / 64) (0x1C00 + 8 * (r.asid % 64) + 4)) :
    exec (.faultRecordWrite r.id) s = .next s := by
  obtain ⟨first, unblocked⟩ := ring_turn hfaults hphase hsrc
  change execFaultRecordWrite r.id s = _
  simp only [execFaultRecordWrite, fault?_only hfaults, first, unblocked, feOf, hbase, hused, ne_eq, not_true, decide_false, Bool.or_self,
    Bool.false_eq_true, if_false, decide_true, Bool.true_or, if_true]

/-- A ring that holds records already, and has room for one more, takes it; a record with a response then waits for it. -/
theorem faultRecordWrite_writes {base size tail head : Nat} {p : Phys} {s2 : State}
    (hbase : s.rreg2 (r.asid / 64) (0x1C00 + 8 * (r.asid % 64) + 2) = base)
    (hsize : s.rregN (r.asid / 64) (0x1C00 + 8 * (r.asid % 64) + 4) = size) (hhead : s.rregN (r.asid / 64) (0x1C00 + 8 * (r.asid % 64) + 5) = head)
    (htail : s.rregN (r.asid / 64) (0x1C00 + 8 * (r.asid % 64) + 6) = tail) (hne : base ≠ 0) (hroom : (tail + 2 ^ 32 - head) % 2 ^ 32 ≠ size)
    (hpos : size ≠ 0) (hsome : (tail + 2 ^ 32 - head) % 2 ^ 32 ≠ 0) (hresp : r.resp = true) (hafter : s2.faults = [r])
    (hx : s.xlate (feCluster (r.asid / 64)) r.asid (base + 32 * (tail % size)) .store false = (.ok p, s))
    (hw : s.ctxWrite (feCluster (r.asid / 64)) r.asid .sys 8 (base + 32 * (tail % size)) r.bytes = .ok s2) :
    exec (.faultRecordWrite r.id) s = .next
      { s2.wreg (r.asid / 64) (0x1C00 + 8 * (r.asid % 64) + 6) (BitVec.ofNat 32 (tail + 1)) with faults := [{ r with phase := .waitResp }] } := by
  obtain ⟨first, unblocked⟩ := ring_turn hfaults hphase hsrc
  have answered := updFault_only (s := s2.wreg (r.asid / 64) (0x1C00 + 8 * (r.asid % 64) + 6) (BitVec.ofNat 32 (tail + 1))) hafter fun r =>
    { r with phase := .waitResp }
  have noneLeft : ([{ r with phase := .waitResp }].filter fun x : FaultRec => x.asid == r.asid && x.phase == .waitRing) = [] :=
    List.filter_cons_of_neg (by simp)
  change execFaultRecordWrite r.id s = _
  simp only [execFaultRecordWrite, fault?_only hfaults, first, unblocked, feOf, hbase, hsize, hhead, htail, hne, hroom, hpos, hsome, hx, hw,
    if_pos hresp, answered, noneLeft, State.posts, List.take_nil, List.map_nil, List.append_nil, ne_eq, not_true, decide_false, Bool.or_self,
    Bool.false_eq_true, if_false]

end

/-! ## The answer (R397, R399) -/

section
variable {c : Cmd} (halone : ∀ x ∈ s.faults, x.phase ≠ .waitEntry) (hsrc : r.src = .cmd c.id)
include halone hsrc

/-- A command whose access may go on makes it again. -/
theorem walkAgain_cmd : (s.prqDone r.id).walkAgain r = { (s.withoutFault r.id).updCmd c.id fun c => { c with paused := false } with
    agenda := s.agenda ++ r.redo } := by
  rw [prqDone_noneWait halone, State.walkAgain, hsrc]
  rfl

/-- A command that is refused ends with FAULT. -/
theorem refuse_cmd : (s.prqDone r.id).refuse r =
    { (s.withoutFault r.id).updCmd c.id fun c => { c with status := 3, ended := true, paused := false } with
    agenda := s.agenda ++ [.commandComplete c.id] } := by
  rw [prqDone_noneWait halone, State.refuse, hsrc]
  rfl

end

theorem pageRequest_answers {fe token : Nat} (h : s.tokenRec fe token = some r) :
    exec (.pageRequestRetry fe token) s = .next ((s.prqDone r.id).walkAgain r)
    ∧ exec (.pageRequestRefuse fe token) s = .next ((s.prqDone r.id).refuse r) := by
  change execPageRequestRetry fe token s = _ ∧ execPageRequestRefuse fe token s = _
  rw [execPageRequestRetry, execPageRequestRefuse, h]
  exact ⟨rfl, rfl⟩

theorem stage2_answers (hr : s.fault? r.id = some r) (hphase : r.phase = .stage2) :
    exec (.stage2Resolve r.id) s = .next ((s.prqDone r.id).walkAgain r) ∧ exec (.stage2Refused r.id) s = .next ((s.prqDone r.id).refuse r) := by
  change execStage2Resolve r.id s = _ ∧ execStage2Refused r.id s = _
  rw [execStage2Resolve, execStage2Refused, hr]
  exact ⟨congrArg _ (if_pos hphase), congrArg _ (if_pos hphase)⟩
end

/-! ## The fault of a load (R224, R397) -/

section
variable {s : State} {t : Thread}

theorem makeRoom_short (h : t.log.length < 190) : t.makeRoom = t :=
  if_pos ((List.length_filter_le ..).trans_lt h)

theorem setReg_log (t : Thread) (r : Nat) (v : Word) (m : Mark) : (t.setReg r v m).log = t.log := by unfold Thread.setReg; split <;> rfl

theorem anyPoison_setReg (t : Thread) (d : Fin 120) (v : Word) {m : Mark} (h : m ≠ .clean) : (t.setReg d.val v m).anyPoison = true := by
  have held : (⟨v, m⟩ : Reg) ∈ (t.regs.set d.val ⟨v, m⟩ d.isLt).toList := by
    rw [Vector.mem_toList_iff]
    exact Vector.mem_set ..
  rw [Thread.setReg, dif_pos d.isLt, Thread.anyPoison]
  exact List.any_eq_true.mpr ⟨_, held, by simpa using h⟩

/-- A thread that an entry of its log owes the word of a register. -/
def Thread.owed (t : Thread) (d : Nat) (w : Word) (e : LogEntry) : Thread := { t.setReg d w (.owned e.id 0) with log := t.log ++ [e] }

/-- A faulting load of one register gets its entry in a log with room. -/
theorem logAccess_load {i : Instr} {d : Fin 120} (slot : Nat) (l : LaneAcc) (hload : Instr.loadKind i = true)
    (hregs : i.dsts.flatMap (·.regs) = [d.val]) (huniq : ∀ u ∈ s.threads, u.uid = t.uid → u = t) (hinh : t.trap.inh = false)
    (hlen : t.log.length < 190) : s.logAccess t i slot l = ({ s with fresh := s.fresh + 2 } : State).updThr t.uid
      (·.owed d.val (Config.poisonWord s.fresh) ⟨s.fresh + 1, i, .access { l with held := false, fault := none } false⟩) := by
  have room : ¬190 ≤ t.accesses := Nat.not_le.mpr ((List.length_filter_le ..).trans_lt hlen)
  have room' : ∀ v m, ¬190 ≤ (t.setReg d.val v m).accesses := fun v m => by rwa [Thread.accesses, setReg_log]
  simp only [State.logAccess, makeRoom_short hlen, hinh, hload, hregs, room, ge_iff_le, State.freeWords, State.newId, Bool.false_eq_true, if_false,
    decide_false, Bool.false_and, Bool.not_true, Bool.not_false, Bool.true_or, if_true]
  refine updThr_congr fun u hu hn => ?_
  rw [huniq u hu hn]
  simp only [makeRoom_short hlen, if_neg room]
  have grown : ∀ v m (e : LogEntry), (if 190 ≤ (t.setReg d.val v m).accesses then (t.setReg d.val v m).log else (t.setReg d.val v m).log ++ [e])
      = t.log ++ [e] := fun v m e => by rw [if_neg (room' v m), setReg_log]
  exact congrArg (fun log => ({ t.setReg d.val (Config.poisonWord s.fresh) (.owned (s.fresh + 1) 0) with log := log } : Thread)) (grown _ _ _)

/-- The last lane of the last operation leaves it. -/
theorem finishLane_last {o : Op} {l : LaneAcc} (hops : s.ops = [o]) (hlanes : o.lanes = [l]) (ht : s.thr? l.uid = some t) (hpark : t.park = none) :
    s.finishLane o l [] = { s.updThr l.uid (·.takes [] o.cls) with ops := [] } := by
  obtain ⟨f, hf⟩ : ∃ f : Thread → Thread, f = fun u => (u.lower o.cls).trimLog := ⟨_, rfl⟩
  have uids : ∀ u, (f u).uid = u.uid := fun u => by rw [hf]; exact takes_uid u [] o.cls
  have parks : ∀ u, (f u).park = u.park := fun u => by rw [hf]; exact takes_park u [] o.cls
  have gone : (s.updThr l.uid f).setOp o.id (fun o => { o with lanes := o.lanes.filter fun x => !(x.uid == l.uid && x.lane == l.lane) })
      = { s.updThr l.uid f with ops := [] } := by
    simp [State.setOp, hops, hlanes]
  have noneHeld := unhold_self (s := { s.updThr l.uid f with ops := [] }) (f := fun x y => y.uid == l.uid || x.id == o.id) (by simp)
  have found : ({ s.updThr l.uid f with ops := [] } : State).thr? l.uid = some (f t) := by
    have hid : t.uid = l.uid := by simpa using List.find?_some ht
    have updated := thr?_updThr s l.uid l.uid f uids
    rwa [ht, Option.map_some, if_pos hid] at updated
  have arrived := reorderArrive_unparked found ((parks t).trans hpark)
  simp only [State.finishLane, List.foldl_nil, ← hf, gone, noneHeld, arrived, ht, Option.isSome_some, if_true]
  rw [hf]
  rfl

/-- The lanes of an operation of one lane that waits for a fault get their entry, and the lane leaves the operation (R219). -/
theorem failLanes_one {o : Op} {l : LaneAcc} {n : Nat} (hops : s.ops = [o]) (hlanes : o.lanes = [l]) (hfault : l.fault = some n)
    (ht : s.thr? l.uid = some t) : s.failLanes o.id n = (s.logAccess t o.instr o.slot l).finishLane o l [] := by
  have found : s.ops.find? (·.id == o.id) = some o := by rw [hops, List.find?_cons_of_pos (by simp)]
  have waits : (o.lanes.filter fun l => l.fault == some n) = [l] := by rw [hlanes, List.filter_cons_of_pos (by simp [hfault]), List.filter_nil]
  simp only [State.failLanes, found, waits, State.over, List.foldl_cons, List.foldl_nil, ht]

theorem faultHeld_op {r : FaultRec} {m n : Nat} (hids : (s.faults.map (·.id)).Nodup) (hr : s.fault? r.id = some r) (hsrc : r.src = .op m n)
    (h : r.stage2 = false) : s.faultHeld r = ((s.toRing r).failLanes m r.id).post (.faultRecordWrite r.id) := by
  rw [State.faultHeld, if_neg (by simp [h]), updFault_toRing hids hr, hsrc]

/-- A load whose result is owed has ended for its thread: its counter falls, and the log stays. -/
theorem takes_owed (t : Thread) (d : Fin 120) (w : Word) (e : LogEntry) : (t.owed d.val w e).takes [] .l =
    { t.setReg d.val w (.owned e.id 0) with cntL := t.cntL - 1, log := t.log ++ [e] } := by
  have poisoned : ((t.owed d.val w e).lower .l).anyPoison = true := anyPoison_setReg t d w (by simp)
  rw [Thread.takes, List.foldl_nil, Thread.trimLog, poisoned, Bool.or_true, if_pos rfl, Thread.lower, ← setReg_cntL t d.val w (.owned e.id 0)]
  rfl

/-- The fault of the one load of the one thread leaves an entry that owns the load's register (R224). -/
theorem failLanes_load {o : Op} {l : LaneAcc} {d : Fin 120} {n : Nat} (hops : s.ops = [o]) (hlanes : o.lanes = [l]) (hfault : l.fault = some n)
    (hthreads : s.threads = [t]) (huid : l.uid = t.uid) (hcls : o.cls = .l) (hload : Instr.loadKind o.instr = true)
    (hregs : o.instr.dsts.flatMap (·.regs) = [d.val]) (hinh : t.trap.inh = false) (hpark : t.park = none) (hlen : t.log.length < 190) :
    s.failLanes o.id n = { s with
      fresh := s.fresh + 2, ops := []
      threads := [{ t.setReg d.val (Config.poisonWord s.fresh) (.owned (s.fresh + 1) 0) with
        cntL := t.cntL - 1
        log := t.log ++ [⟨s.fresh + 1, o.instr, .access { l with held := false, fault := none } false⟩] }] } := by
  have found : s.thr? t.uid = some t := by rw [State.thr?, hthreads, List.find?_cons_of_pos (by simp)]
  have uids : ∀ w e (u : Thread), (u.owed d.val w e).uid = u.uid := fun w e u => setReg_uid ..
  have parks : ∀ w e, (t.owed d.val w e).park = none := fun w e => (setReg_park ..).trans hpark
  rw [failLanes_one hops hlanes hfault (huid ▸ found), logAccess_load o.slot l hload hregs (by simp [hthreads]) hinh hlen]
  have owes : ∀ w e, (({ s with fresh := s.fresh + 2 } : State).updThr t.uid (·.owed d.val w e)).thr? l.uid = some (t.owed d.val w e) :=
    fun w e => huid ▸ thr?_updThr_same found (uids w e)
  refine (finishLane_last (s := ({ s with fresh := s.fresh + 2 } : State).updThr t.uid _) hops hlanes (owes _ _) (parks _ _)).trans ?_
  rw [huid, updThr_updThr _ _ _ _ (uids _ _), hcls]
  simp only [takes_owed, State.updThr, hthreads, List.map_cons, List.map_nil, if_pos]

end

/-- Settles O33: a command's fault by the turn it has at the queue, what it does with an entry, its record's ring and the answer; the fault of a load
by the entry that the log takes. -/
theorem faults : Obligations.Faults := by
  unfold Obligations.Faults
  refine ⟨?command, ?load⟩
  case command =>
    intro s r c hr hids hsrc hc fe phase recorded gone on failed alone
    have notRecord : r.src ≠ .record r.id := by simp [hsrc]
    have enters : s.prqMay fe = true → (∀ x, s.firstWaiting fe = some x → x.id = r.id) →
        s.faultTry r = if r.stage2 then phase .stage2 else recorded := fun hmay h => faultTry_cmd hids hr hsrc hmay h
    refine ⟨fun hnew hmay halone => ?new, fun hnew hno => ?noEntry, fun hwait hmay hfirst => ?grant, fun hwait hno => ?noGrant,
      fun hring hfaults => ?ring, fun hresp halone htoken => ?response, fun hstage halone => ?stage2⟩
    case new => rw [accessFault_tries hr hnew, enters hmay (by simp [firstWaiting_none halone])]
    case noEntry => rw [accessFault_tries hr hnew, faultTry_noTurn (hno.imp_right (firstWaiting_ne hids hr hnew)), if_pos hnew]
    case grant =>
      have mine : ∀ x, s.firstWaiting fe = some x → x.id = r.id := fun x hx => (phase_of_firstWaiting hx).elim (hfirst x)
      rw [prqEntryGrant_tries hr hwait, enters hmay mine]
    case noGrant => rw [prqEntryGrant_tries hr hwait, faultTry_noTurn (.inl hno), if_neg (by simp [hwait])]
    case ring =>
      refine ⟨faultRecordWrite_noRing hfaults hring notRecord, faultRecordWrite_full hfaults hring notRecord,
        fun p s2 hne hroom hpos hsome hresp hafter hfe hx hw => ?_⟩
      have cluster : feCluster (r.asid / 64) = 18 + fe := if_neg (by omega)
      exact faultRecordWrite_writes hfaults hring notRecord rfl rfl rfl rfl hne hroom hpos hsome hresp hafter (cluster ▸ hx) (cluster ▸ hw)
    case response =>
      obtain ⟨retried, refused⟩ := pageRequest_answers htoken
      rw [retried, refused, walkAgain_cmd halone hsrc, refuse_cmd halone hsrc]
      exact ⟨rfl, rfl⟩
    case stage2 =>
      obtain ⟨resolved, refused⟩ := stage2_answers hr hstage
      rw [resolved, refused, walkAgain_cmd halone hsrc, refuse_cmd halone hsrc]
      exact ⟨rfl, rfl⟩
  case load =>
    intro s r o l t g d a hfaults hsrc hnew hstage hresp hmay hops hlanes hfault huid hinstr hcls hthreads hinh hpark hpend hlen
    have hr := fault?_only hfaults
    have hids : (s.faults.map (·.id)).Nodup := by simp [hfaults]
    have noneWait : ∀ x ∈ s.faults, x.phase ≠ .waitEntry := by simp [hfaults, hnew]
    have ringed : s.toRing r = { s with faults := [{ r with phase := .waitRing, token := 0 }] } := by
      rw [State.toRing, updFault_only hfaults, hresp]; rfl
    have regs : o.instr.dsts.flatMap (·.regs) = [d.val] := by
      rw [hinstr]
      simp [Instr.dsts, Instr.operands, Opnd.s2, Size.dst, Opnd.d, Opnd.regs, Dst.code, upFrom]
    rw [accessFault_tries hr hnew, faultTry_turn hmay (by simp [firstWaiting_none noneWait]), faultHeld_op hids hr hsrc hstage,
      failLanes_load (s := s.toRing r) hops hlanes hfault hthreads huid hcls (by rw [hinstr]; rfl) regs hinh hpark hlen, ringed]
    rfl

end Sys2Proof.Machine
end

section
/-! O16, WaitResults: prefetches, fences, waits and their polls in one lane, and the statement. -/

namespace Sys2Proof.Machine

/-! ## PREF (R244, R401) -/

section
variable {s : State} {g : Pred} {t : Thread} {a : Src} {l2 : Bool}

theorem pref_one (h : s.alone (.pref g a l2) g t) : exec (.pref g a l2) s = .next (
    if t.opPois (.s2 a) || decide (2 ^ 52 ≤ (s.src2 t a).toNat) then s
    else match s.tlbHit (clusterOf s.iss.core) s.issAsid (s.src2 t a).toNat .load with
      | some e => s.prefetch s.iss.core s.issAsid (s.src2 t a).toNat l2 ⟨e.pa + ((s.src2 t a).toNat - e.va), e.w && e.d⟩
      | none => match s.xlate (clusterOf s.iss.core) s.issAsid (s.src2 t a).toNat .load true with
        | (.error _, s1) => s1.bump (feOf s.issAsid) 0x1E08
        | (.ok _, s1) => s1) := by
  refine (exec_body (i := .pref g a l2) (by rfl) h.issues).trans (congrArg _ ?_)
  exact eachLane_one h.acts _

theorem pref_dropped (h : s.alone (.pref g a l2) g t) (hbad : t.opPois (.s2 a) = true ∨ 2 ^ 52 ≤ (s.src2 t a).toNat) :
    exec (.pref g a l2) s = .next s := by
  rw [pref_one h, if_pos (by simpa using hbad)]

section
variable (h : s.alone (.pref g a l2) g t) (hpois : t.opPois (.s2 a) = false) (hva : (s.src2 t a).toNat < 2 ^ 52)
include h hpois hva

theorem pref_hit {e : TlbEntry} (he : s.tlbHit (clusterOf s.iss.core) s.issAsid (s.src2 t a).toNat .load = some e) : exec (.pref g a l2) s =
    .next (s.prefetch s.iss.core s.issAsid (s.src2 t a).toNat l2 ⟨e.pa + ((s.src2 t a).toNat - e.va), e.w && e.d⟩) := by
  rw [pref_one h, if_neg (by simpa [hpois] using hva), he]

theorem pref_miss_ok {p : Phys} {s1 : State} (hmiss : s.tlbHit (clusterOf s.iss.core) s.issAsid (s.src2 t a).toNat .load = none)
    (hx : s.xlate (clusterOf s.iss.core) s.issAsid (s.src2 t a).toNat .load true = (.ok p, s1)) : exec (.pref g a l2) s = .next s1 := by
  rw [pref_one h, if_neg (by simpa [hpois] using hva), hmiss, hx]

theorem pref_miss_refused {f : XFault} {s1 : State} (hmiss : s.tlbHit (clusterOf s.iss.core) s.issAsid (s.src2 t a).toNat .load = none)
    (hx : s.xlate (clusterOf s.iss.core) s.issAsid (s.src2 t a).toNat .load true = (.error f, s1)) :
    exec (.pref g a l2) s = .next (s1.bump (s.issAsid / 64) 0x1E08) := by
  rw [pref_one h, if_neg (by simpa [hpois] using hva), hmiss, hx]
  rfl
end
end

section
variable {s : State} {core asid va key : Nat} {w : Bool} (hshadows : s.shadows = []) (hecc : s.ecc = []) (hdram : key < 2 ^ 40)
include hshadows hecc hdram

/-- A prefetch into the L2 is a fill of it. -/
theorem prefetch_l2 : s.prefetch core asid va true ⟨key, w⟩ = s.seen asid key := by
  simp only [State.prefetch, homeOf_dram hdram, State.bad, hecc, hshadows]
  rfl

/-- A prefetch into an L1 without lines fills one line, clean and with the tag of the core. -/
theorem prefetch_l1 (hl1 : s.l1 = []) : s.prefetch core asid va false ⟨key, w⟩ = { s.seen asid (key - va % 128) with
    l1 := [⟨core, asid, va / 128 * 128, key - va % 128, w, .core, 0, s.cycleCount core, 0, mgets 0#8 s.mem (key - va % 128) 128⟩] } := by
  have base : homeOf (key - va % 128) = .dram := homeOf_dram (by omega)
  have read := homeRead_plain (asid := asid) hshadows hecc base 128
  obtain ⟨⟨n, ls, ts, hseen⟩, -⟩ := onlyFills_seen hshadows asid (key - va % 128)
  have noStale : s.l1Stale core asid va (key - va % 128) = s := by simp [State.l1Stale, hl1, State.over]
  have room : s.l1Room core = s := by simp [State.l1Room, hl1]
  have noLine : s.l1at core asid va = none := by rw [State.l1at, hl1]; rfl
  have fills : s.prefetch core asid va false ⟨key, w⟩ = s.l1Fill core asid va key w .core := by
    simp only [State.prefetch, homeOf_dram hdram, State.bad, hecc, hshadows, noLine]
    rfl
  have same : ({ s with l1 := s.l1.map fun (l : L1Line) =>
      if l.core = core && l.pa = key - va % 128 then { l with asid := asid, va := lineOf va, wr := w } else l } : State) = s := by
    rw [hl1, List.map_nil, ← hl1]
  rw [fills]
  simp only [State.l1Fill, noStale, same, noLine, room, read]
  rw [hseen]
  simp only [hl1, List.nil_append]
  rfl
end

/-! ## FENCE (R245) -/

section
variable {s : State} {g : Pred} {t : Thread} {sc : Scope}

/-- What a fence does to the caches of the core that issues it. -/
def State.fenced (s : State) (k : FenceKind) (sc : Scope) : State :=
  match k with
  | .full => (s.release s.iss.core s.issAsid sc).acquire s.iss.core s.issAsid sc
  | .rel => s.release s.iss.core s.issAsid sc
  | .acq => s.acquire s.iss.core s.issAsid sc

theorem fence_one {k : FenceKind} (h : s.alone (.fence g k sc) g t) (htx : t.tx = none) (hcalm : ∀ o ∈ s.ops, ∀ l ∈ o.lanes, l.uid ≠ t.uid) :
    exec (.fence g k sc) s = .next (s.fenced k sc) := by
  refine (exec_body (i := .fence g k sc) (by rfl) h.issues).trans (congrArg _ ((eachLane_one h.acts _).trans ?_))
  simp only [htx, drained_of_ops hcalm, Option.isSome_none, Bool.false_and, Bool.not_true, Bool.false_eq_true, if_false]
  rfl

theorem fence_narrow {k : FenceKind} (h : s.alone (.fence g k sc) g t) (htx : t.tx = none) (hcalm : ∀ o ∈ s.ops, ∀ l ∈ o.lanes, l.uid ≠ t.uid)
    (hsc : Scope.num sc ≤ 1) : exec (.fence g k sc) s = .next s := by
  rw [fence_one h htx hcalm]
  cases k with
  | full => rw [State.fenced, release_narrow hsc, acquire_narrow hsc]
  | rel => rw [State.fenced, release_narrow hsc]
  | acq => rw [State.fenced, acquire_narrow hsc]

end

/-! ## Waits (R246, R269) -/

section
variable {s s1 : State} {t : Thread} {va n key : Nat} {sc : Scope}

theorem waitIssue_starts {addr : DWord} {al : Nat} (start : State → State) (htx : t.tx = none) (halign : addr.toNat % al = 0)
    (hva : addr.toNat < 2 ^ 52) (hcalm : ∀ o ∈ s.ops, ∀ l ∈ o.lanes, l.uid ≠ t.uid) : s.waitIssue t addr al start = start s := by
  simp only [State.waitIssue, htx, halign, Nat.not_le.mpr hva, drained_of_ops hcalm, Option.isSome_none, bne_self_eq_false, Bool.not_true,
    Bool.false_eq_true, if_false]

/-- What MONWAIT does with the word that it has read: another one than it compares with, and a full table of monitors, let it return. -/
theorem monStart_reads {core asid slot : Nat} {want : Word} {i : Instr} (h : s.waitRead core asid va 4 sc = (.ok (n, key), s1)) :
    s.monStart t core asid va want sc i slot = s1.updThr t.uid fun u =>
      if n ≠ want.toNat then { u with park := none, st := { u.st with monFull := false } }
      else if 64 ≤ s1.monCount core then { u with park := none, st := { u.st with monFull := true } }
      else { u with park := some (.mon va key want sc slot s.dlc) } := by
  simp only [State.monStart, h]
  by_cases hother : n ≠ want.toNat
  · simp only [if_pos hother]; rfl
  · by_cases hfull : 64 ≤ s1.monCount core
    · simp only [if_neg hother, ge_iff_le, if_pos hfull]; rfl
    · simp only [if_neg hother, ge_iff_le, if_neg hfull]

/-- What CPLWAIT does with the counter that it has read. -/
theorem cplStart_reads {core asid slot : Nat} {want : DWord} {ext : Bool} {i : Instr} (h : s.waitRead core asid va 8 sc = (.ok (n, key), s1)) :
    s.cplStart t core asid va want sc ext i slot = s1.updThr t.uid fun u =>
      if want.toNat ≤ n then { u with park := none } else { u with park := some (.cpl va key want sc ext slot s.dlc) } := by
  simp only [State.cplStart, h]
  by_cases hreached : want.toNat ≤ n
  · simp only [ge_iff_le, if_pos hreached]; rfl
  · simp only [ge_iff_le, if_neg hreached]


section
variable {g : Pred} {v a : Src} (hpois : t.opPois (.s2 a) = false) (htx : t.tx = none) (hva : (s.src2 t a).toNat < 2 ^ 52)
  (hcalm : ∀ o ∈ s.ops, ∀ l ∈ o.lanes, l.uid ≠ t.uid)
include hpois htx hva hcalm

theorem monwait_starts (h : s.alone (.monwait g v a sc) g t) (hpois' : t.opPois (.s v) = false) (halign : (s.src2 t a).toNat % 4 = 0) :
    exec (.monwait g v a sc) s = .next
      (s.monStart t s.iss.core s.issAsid (s.src2 t a).toNat (s.src t v) sc (.monwait g v a sc) s.iss.slot) := by
  refine (exec_body (i := .monwait g v a sc) (by rfl) h.issues).trans (congrArg _ ?_)
  exact (consuming_one h.acts (by simp [hpois, hpois']) _).trans (waitIssue_starts _ htx halign hva hcalm)

theorem cplwait_starts {ext : Bool} (h : s.alone (.cplwait g v a ext sc) g t) (hpois' : t.opPois (.s2 v) = false)
    (halign : (s.src2 t a).toNat % 16 = 0) : exec (.cplwait g v a ext sc) s = .next
      (s.cplStart t s.iss.core s.issAsid (s.src2 t a).toNat (s.src2 t v) sc ext (.cplwait g v a ext sc) s.iss.slot) := by
  refine (exec_body (i := .cplwait g v a ext sc) (by rfl) h.issues).trans (congrArg _ ?_)
  exact (consuming_one h.acts (by simp [hpois, hpois']) _).trans (waitIssue_starts _ htx halign hva hcalm)
end
end

/-! ## Polls (R246, R269) -/

section
variable {s s1 : State} {t : Thread} {va pa n key slot last : Nat} {sc : Scope}

theorem pollAll_stopped {ev : Nat → Instr} {f : State → Nat → State} (ht : s.thr? t.uid = some t) (hrun : s.runs t.wg = false) :
    s.pollAll t.uid ev f = s := by
  simp only [State.pollAll, ht, hrun, Bool.not_false, if_true]

/-- The one thread of its lane group that is to poll does so by itself. -/
theorem pollAll_one {ev : Nat → Instr} {f : State → Nat → State} (ht : s.thr? t.uid = some t) (hrun : s.runs t.wg = true)
    (hgroup : s.threads.filter (fun u => u.gid == t.gid) = [t]) (hev : ev t.uid ∉ s.agenda) : s.pollAll t.uid ev f = f s t.uid := by
  have turn : (s.threads.filter fun u => u.gid == t.gid && (u.uid == t.uid || s.agenda.contains (ev u.uid) || s.readDue u)) = [t] := by
    simp only [Bool.and_comm (_ == t.gid), ← List.filter_filter, hgroup]
    rw [List.filter_cons_of_pos (by simp), List.filter_nil]
  have kept : (s.agenda.filter fun i => !(([t].map fun u => ev u.uid).contains i)) = s.agenda :=
    List.filter_eq_self.mpr fun i hi => by
      have : i ≠ ev t.uid := fun h => hev (h ▸ hi)
      simp [this]
  simp only [State.pollAll, ht, hrun, Bool.not_true, Bool.false_eq_true, if_false, turn, sortKey_one, kept]
  rfl

/-- Before a fresh read this device's copies of another one's line go (R246, R269). -/
theorem freshen_eq (core asid : Nat) : s.freshen core asid va pa =
    if homeOf pa = .peer ∨ homeOf pa = .host then (s.l1Out core asid va (pa / 128 * 128)).rdcDrop (pa / 128 * 128) else s := by
  rw [State.freshen]
  simp only [Bool.or_eq_true, beq_iff_eq]
  rfl

theorem keeps_l1Out (s : State) (core asid va line : Nat) : KeepsHome s (s.l1Out core asid va line) :=
  KeepsHome.over _ (fun s l => keeps_l1Drop s l .dev) _ s

/-- A fresh read takes no time. -/
theorem freshen_dlc (s : State) (core asid va pa : Nat) : (s.freshen core asid va pa).dlc = s.dlc := by
  unfold State.freshen
  split
  · obtain ⟨-, -, -, -, hdlc⟩ := ((keeps_l1Out s core asid va (lineOf pa)).trans (keeps_rdcDrop _ (lineOf pa))).work
    exact hdlc
  · rfl

/-- A parked MONWAIT of a word that this device homes waits on (R246). -/
theorem monPoll_homed {want : Word} (ht : s.thr? t.uid = some t) (hpark : t.park = some (.mon va pa want sc slot last)) (hpeer : homeOf pa ≠ .peer)
    (hhost : homeOf pa ≠ .host) : s.monPoll t.uid = s := by
  simp only [State.monPoll, ht, hpark, hpeer, hhost, decide_false, Bool.or_self, Bool.false_eq_true, if_false]

/-- One of another's word reads it afresh, and returns when it differs. -/
theorem monPoll_reads {want : Word} (ht : s.thr? t.uid = some t) (hpark : t.park = some (.mon va pa want sc slot last))
    (hhome : homeOf pa = .peer ∨ homeOf pa = .host)
    (hread : (s.freshen (s.coreOf t.wg) (s.asidOf t.wg) va pa).waitRead (s.coreOf t.wg) (s.asidOf t.wg) va 4 sc = (.ok (n, key), s1)) :
    s.monPoll t.uid = if n = want.toNat then s1.updThr t.uid fun u => { u with park := some (.mon va pa want sc slot s.dlc) }
      else s1.updThr t.uid fun u => { u with park := none, st := { u.st with monFull := false } } := by
  have elsewhere : (decide (homeOf pa = .peer) || decide (homeOf pa = .host)) = true := by simpa using hhome
  simp only [State.monPoll, ht, hpark, elsewhere, if_true, hread]
  by_cases hsame : n = want.toNat
  · rw [if_neg (not_not.mpr hsame), if_pos hsame]
  · rw [if_pos hsame, if_neg hsame]; rfl

/-- A parked CPLWAIT starts again, with a fresh read (R269). -/
theorem cplPoll_reads {want : DWord} {ext : Bool} (ht : s.thr? t.uid = some t) (hpark : t.park = some (.cpl va pa want sc ext slot last))
    (hread : ((s.freshen (s.coreOf t.wg) (s.asidOf t.wg) va pa).unpark t.uid).waitRead (s.coreOf t.wg) (s.asidOf t.wg) va 8 sc = (.ok (n, key), s1)) :
    s.cplPoll t.uid = s1.updThr t.uid fun u =>
      if want.toNat ≤ n then { u with park := none } else { u with park := some (.cpl va key want sc ext slot s.dlc) } := by
  have kept : ((s.freshen (s.coreOf t.wg) (s.asidOf t.wg) va pa).unpark t.uid).dlc = s.dlc := freshen_dlc ..
  simp only [State.cplPoll, ht, hpark]
  rw [cplStart_reads hread, kept]

end

/-- Settles O16: PREF by its hit or miss, FENCE by what it acts on, and each wait and poll by what it does with the word that it reads. -/
theorem waitResults : Obligations.WaitResults := by
  unfold Obligations.WaitResults
  refine ⟨?issues, ?polls⟩
  case issues =>
    intro s g t v a sc va core asid
    refine ⟨fun l2 h => ?pref, fun k h htx hcalm => ?fence, fun h hpois hpois' htx halign hva hcalm n key s1 hread => ?mon,
      fun ext h hpois hpois' htx halign hva hcalm n key s1 hread => ?cpl⟩
    case pref =>
      refine ⟨pref_dropped h, fun hpois hva => ⟨fun key hmap hshadows hecc hl1 => ?_, fun hmiss s1 =>
        ⟨fun p hx => pref_miss_ok h hpois hva hmiss hx, fun f hx => pref_miss_refused h hpois hva hmiss hx⟩⟩⟩
      obtain ⟨hdram, -, -, hentry⟩ := hmap
      obtain ⟨e, he, hkey⟩ := Option.map_eq_some_iff.mp hentry
      have below : key < 2 ^ 40 := by omega
      have hit := pref_hit h hpois hva he
      rw [hkey] at hit
      rw [hit]
      refine ⟨fun hl2 => ?_, fun hl2 => ⟨e.w && e.d, ?_⟩⟩
      · rw [hl2, prefetch_l2 hshadows hecc below]
      · rw [hl2, prefetch_l1 hshadows hecc below hl1]
    case fence => exact ⟨fence_one h htx hcalm, fence_narrow h htx hcalm⟩
    case mon => rw [monwait_starts hpois htx hva hcalm h hpois' halign, monStart_reads hread]
    case cpl => rw [cplwait_starts hpois htx hva hcalm h hpois' halign, cplStart_reads hread]
  case polls =>
    intro s s1 t va pa n key slot last sc ht hgroup hmon hcpl core asid fresh
    have freshened : s.freshen core asid va pa = fresh := freshen_eq core asid
    have mon : s.runs t.wg = true → exec (.monwaitPoll t.uid) s = .next (s.monPoll t.uid) := fun hrun => congrArg _ (pollAll_one ht hrun hgroup hmon)
    have cpl : s.runs t.wg = true → exec (.cplwaitPoll t.uid) s = .next (s.cplPoll t.uid) := fun hrun => congrArg _ (pollAll_one ht hrun hgroup hcpl)
    refine ⟨fun hstop => ⟨congrArg _ (pollAll_stopped ht hstop), congrArg _ (pollAll_stopped ht hstop)⟩, fun hrun want hpark =>
      ⟨fun hpeer hhost => by rw [mon hrun, monPoll_homed ht hpark hpeer hhost], fun hhome hread => ?_⟩, fun hrun want ext hpark hread => ?_⟩
    · rw [mon hrun, monPoll_reads ht hpark hhome (freshened ▸ hread)]
    · rw [cpl hrun, cplPoll_reads ht hpark (freshened ▸ hread)]
      by_cases hreached : want.toNat ≤ n
      · simp only [if_pos hreached]
      · simp only [if_neg hreached]

end Sys2Proof.Machine
end

section
/-! SUPPORT. Laws of a workgroup's sequencer: what an update of it leaves, its tiles, the instruction that it executes, and the end of a stream. -/

namespace Sys2Proof.Machine

/-! ## One sequencer updated -/

/-- A workgroup, found by its name, which no other bears, with its sequencer. -/
structure State.sequences (s : State) (w : Wg) (q : Seq) : Prop where
  found : s.wg? w.id = some w
  seq   : w.seq = some q
  apart : (s.wgs.map (·.id)).Nodup

theorem updWg_congr {s : State} {n : Nat} {w : Wg} {f f' : Wg → Wg} (hs : (s.wgs.map (·.id)).Nodup) (hw : s.wg? n = some w) (h : f w = f' w) :
    s.updWg n f = s.updWg n f' := by
  have same : (s.wgs.map fun x => if x.id = n then f x else x) = s.wgs.map fun x => if x.id = n then f' x else x := by
    refine List.map_congr_left fun x hx => ?_
    by_cases hn : x.id = n
    · rw [if_pos hn, if_pos hn, eq_of_wg? hs hw hx hn, h]
    · rw [if_neg hn, if_neg hn]
  rw [State.updWg, State.updWg, same]

theorem updSeq_updSeq (s : State) (n : Nat) (f h : Seq → Seq) : (s.updSeq n f).updSeq n h = s.updSeq n fun q => h (f q) := by
  refine (updWg_updWg s n (fun w => { w with seq := w.seq.map f }) (fun w => { w with seq := w.seq.map h }) fun _ => rfl).trans ?_
  simp only [Option.map_map]
  rfl

section
variable {s : State} {w : Wg} {q : Seq} (h : s.sequences w q)
include h

theorem State.sequences.updSeq (f : Seq → Seq) : (s.updSeq w.id f).sequences { w with seq := some (f q) } (f q) where
  found := by
    rw [State.updSeq, wg?_updWg_same h.found, h.seq]
    rfl
  seq := rfl
  apart := by
    have names : ((s.updSeq w.id f).wgs.map (·.id)) = s.wgs.map (·.id) := by
      rw [updSeq_wgs, List.map_map]
      exact List.map_congr_left fun x _ => by simp only [Function.comp]; split <;> rfl
    rw [names]
    exact h.apart

/-- Updates that do the same to the one sequencer are the same. -/
theorem State.sequences.updSeq_congr {f f' : Seq → Seq} (hf : f q = f' q) : s.updSeq w.id f = s.updSeq w.id f' :=
  updWg_congr h.apart h.found (by rw [h.seq, Option.map_some, Option.map_some, hf])

theorem State.sequences.updSeq_self {f : Seq → Seq} (hf : f q = q) : s.updSeq w.id f = s :=
  updWg_eq_self fun x hx hn => by rw [eq_of_wg? h.apart h.found hx hn, h.seq, Option.map_some, hf, ← h.seq]

theorem State.sequences.seq? : s.seq? w.id = some q := by rw [State.seq?, h.found, Option.bind_some, h.seq]

theorem State.sequences.tile (t : Nat) : s.tile w.id t = q.tiles.getD t .fresh := by rw [State.tile, h.seq?, Option.map_some, Option.getD_some]

/-- The sequencer of the workgroup that executes. -/
theorem State.sequences.sq (hx : w.id = s.seqWg) : s.sq = some (w, q) := by rw [State.sq, ← hx, h.found, Option.bind_some, h.seq]; rfl

theorem State.sequences.sqTrap (hx : w.id = s.seqWg) (cause n : Nat) : s.sqTrap cause n = s.seqTrap w.id cause (q.pc - n) := by
  rw [State.sqTrap, ← hx, h.seq?, Option.map_some, Option.getD_some]

end

theorem sequences_of_seqWg {s : State} {w : Wg} {q : Seq} (hw : s.wg? s.seqWg = some w) (hq : w.seq = some q) (hs : (s.wgs.map (·.id)).Nodup) :
    s.sequences w q :=
  ⟨(wg?_id hw).symm ▸ hw, hq, hs⟩

/-! ## The end of a stream (R310, R314, R322) -/

/-- A sequencer after the end of its stream. -/
def Seq.ended (q : Seq) : Seq :=
  { q with st := .idle, cur := none, loops := [], idx := 0, stallBar := none, wait := false, drop := false, fault := none }

theorem seqDetach_noGens {s : State} (h : s.gens = []) (n : Nat) : s.seqDetach n = s := by
  rw [State.seqDetach, h]
  exact congrArg (fun gs => ({ s with gens := gs } : State)) h.symm

/-- A word of a sequencer whose workgroup has bound no mailbox is discarded, with those that wait (R255, R314). -/
theorem State.sequences.mailPush_unbound {s : State} {w : Wg} {q : Seq} (h : s.sequences w q) (hmail : ∀ k : Fin 16, w.queues[k].port ≠ .mailbox)
    (x : Word) : s.mailPush w.id x = s.updSeq w.id fun q => { q with mail := [] } := by
  have pushed := h.updSeq fun q => { q with mail := q.mail ++ [x] }
  have found : ((s.updSeq w.id fun q => { q with mail := q.mail ++ [x] }).wg? w.id).bind (·.seq) = some { q with mail := q.mail ++ [x] } := pushed.seq?
  have unbound : (s.updSeq w.id fun q => { q with mail := q.mail ++ [x] }).boundTo w.id .mailbox = none := boundTo_none pushed.found hmail
  rw [State.mailPush, State.mailFlush, found]
  simp only [unbound, updSeq_updSeq]

/-- A workgroup with a live thread goes on (R33). -/
theorem State.sequences.wgCheck_live {s : State} {w : Wg} {q : Seq} (h : s.sequences w q) {u : Thread} (hu : u ∈ s.threads) (huw : u.wg = w.id) :
    s.wgCheck w.id = s := by
  have live : (s.wgThreads w.id).isEmpty = false := by
    rw [List.isEmpty_eq_false_iff_exists_mem]
    exact ⟨u, List.mem_filter.mpr ⟨hu, by simp [huw]⟩⟩
  rw [State.wgCheck, h.found]
  cases s.launchOfWg w.id with
  | none => rfl
  | some l => simp [live]

/-- The last stream of a queue ends: its thread's T count falls (R310). -/
theorem State.sequences.seqEnd_last {s : State} {w : Wg} {q : Seq} {c : Stream} {t : Thread} (h : s.sequences w q) (hcur : q.cur = some c)
    (hgens : s.gens = []) (hqueue : q.queue = []) (ht : s.thr? c.uid = some t) (hpark : t.park = none) (hwg : t.wg = w.id)
    (hmail : ∀ k : Fin 16, w.queues[k].port ≠ .mailbox) :
    s.seqEnd w.id = (s.updSeq w.id fun q => { q.ended with mail := [] }).updThr c.uid (·.lower .t) := by
  have hid : t.uid = c.uid := by simpa using List.find?_some ht
  obtain ⟨s1, hs1⟩ : ∃ s1 : State, s1 = (s.updSeq w.id Seq.ended).updThr c.uid (·.lower .t) := ⟨_, rfl⟩
  have ended : s1.sequences { w with seq := some q.ended } q.ended := by
    obtain ⟨found, seq, apart⟩ := h.updSeq Seq.ended
    exact hs1 ▸ ⟨found, seq, apart⟩
  have thread : s1.thr? c.uid = some (t.lower .t) := by
    rw [hs1, ← hid]
    exact thr?_updThr_same (s := s.updSeq w.id Seq.ended) (hid ▸ ht)
  have arrived : s1.reorderArrive c.uid = s1 := reorderArrive_unparked thread hpark
  have detached : (s.updSeq w.id Seq.ended).seqDetach w.id = s.updSeq w.id Seq.ended := seqDetach_noGens (s := s.updSeq w.id Seq.ended) hgens w.id
  have mailed := ended.updSeq fun q => { q with mail := [] }
  have live := mailed.wgCheck_live (thr?_mem thread) hwg
  have pushed := ended.mailPush_unbound hmail
  have steps : s.seqEnd w.id = (s1.updSeq w.id fun q => { q with mail := [] }).wgCheck w.id := by
    rw [State.seqEnd, h.seq?]
    simp only [hcur, hqueue, Option.map_some, Option.getD_some, Option.isSome_some, List.isEmpty_nil, if_true]
    change ((((((s.updSeq w.id Seq.ended).seqDetach w.id).updThr c.uid (·.lower .t)).reorderArrive c.uid).mailPush w.id _).wgCheck w.id) = _
    rw [detached, ← hs1, arrived]
    exact congrArg (State.wgCheck · w.id) (pushed _)
  rw [steps]
  refine live.trans ?_
  rw [hs1]
  exact congrArg (State.updThr · c.uid (·.lower .t)) (updSeq_updSeq s w.id Seq.ended fun q => { q with mail := [] })

end Sys2Proof.Machine
end

section
/-! SUPPORT. Laws of the tile ports of a sequencer: an update of a tile, what an arrival leaves of the port, and an arrival that applies at once. -/

namespace Sys2Proof.Machine

/-! ## Tiles of a sequencer -/

/-- Changing what stands at one position of a list. -/
theorem zip_upFrom_map {α : Type} (f : α → α) (d : α) (t : Nat) (xs : List α) :
    (((upFrom 0 xs.length).zip xs).map fun p => if p.1 = t then f p.2 else p.2) = xs.set t (f (xs.getD t d)) := by
  rw [upFrom_eq_map]
  refine List.ext_getElem (by simp) fun k _ hk => ?_
  have inside : k < xs.length := by simpa using hk
  by_cases hkt : k = t
  · subst hkt
    simp [inside]
  · simp [hkt, Ne.symm hkt]

/-- A sequencer with another tile at a number. -/
def Seq.withTile (q : Seq) (t : Nat) (x : Tile) : Seq := { q with tiles := q.tiles.set t x }

/-- The same, in which flags were raised. -/
def Seq.taking (q : Seq) (t : Nat) (x : Tile) (fl : Flags) : Seq := { q with tiles := q.tiles.set t x, flags := q.flags ||| fl }

theorem updTile_eq (s : State) (n t : Nat) (f : Tile → Tile) : s.updTile n t f = s.updSeq n fun q => q.withTile t (f (q.tiles.getD t .fresh)) := by
  rw [State.updTile]
  simp only [zip_upFrom_map f .fresh]
  rfl

theorem getD_set_same {α : Type} {xs : List α} {t : Nat} (ht : t < xs.length) (x d : α) : (xs.set t x).getD t d = x := by
  simp [ht]

/-! ## Ports (R324, R325) -/

/-- A tile at whose port these arrivals wait. -/
def Tile.holding (x : Tile) (as : List Arrival) : Tile := { x with waiting := as }

theorem next_noneWaiting {x : Tile} (h : x.waiting = []) : x.next = none := by
  rw [Tile.next, h]
  split <;> rfl

/-- Out of ordered mode, and between steps for what is no chunk, the one arrival has its turn. -/
theorem next_one {x : Tile} {a : Arrival} (hw : x.waiting = [a]) (h : x.ordered = false ∨ x.pos = [] ∧ chunkOf a.instr = none) : x.next = some a := by
  rw [Tile.next, hw]
  rcases h with ho | ⟨hpos, hc⟩
  · simp [ho]
  · split <;> simp [hpos, hc]

/-- The port after an arrival has applied and left a tile. -/
def Arrival.leaves (a : Arrival) (x : Tile) : Tile :=
  match a.instr with
  | .mstep .. => { x with waiting := x.waiting.erase a }
  | _ => x.pass a

/-- The one arrival leaves nothing behind: it takes part in no step. -/
theorem leaves_one {x : Tile} {a : Arrival} (hw : x.waiting = [a]) (h : x.ordered = false ∨ chunkOf a.instr = none) :
    a.leaves x = x.holding [] := by
  have left : x.waiting.erase a = [] := by rw [hw]; simp
  have passed : x.pass a = x.holding [] := by
    rw [Tile.pass, left, if_pos (by rcases h with h | h <;> simp [h])]
    rfl
  unfold Arrival.leaves
  split
  · rw [left]
    rfl
  · exact passed

/-- What an arrival reads of its sequencer and workgroup does not lie in the tiles. -/
theorem apply_withTile (w : Wg) (q : Seq) (t : Nat) (y : Tile) (a : Arrival) (x : Tile) :
    Wg.apply { w with seq := some (q.withTile t y) } (q.withTile t y) a x = w.apply q a x := rfl

/-- A sequencer that an arrival of its has let go on. -/
def Seq.goesOn (q : Seq) : Seq := if q.wait then { q with st := .running, wait := false } else q

theorem goesOn_drop (q : Seq) : q.goesOn.drop = q.drop := by unfold Seq.goesOn; split <;> rfl

/-- A port at which nothing waits has no event to come. -/
theorem State.sequences.portCheck_idle {s : State} {w : Wg} {q : Seq} {t : Nat} (h : s.sequences w q)
    (hnone : (q.tiles.getD t .fresh).waiting = []) : s.portCheck w.id t = s := by
  rw [State.portCheck, h.tile, next_noneWaiting hnone]
  rfl

section
variable {s : State} {w : Wg} {q : Seq} {a : Arrival} {t : Nat} {x : Tile} {fl : Flags} (h : s.sequences w q) (ha : a.wg = w.id)
  (hdrop : q.drop = false)
include h ha hdrop

/-- An arrival without events applies: its tile and the flags of its sequencer change, and the sequencer goes on. -/
theorem State.sequences.applyArrival_ok (happ : w.apply q a (q.tiles.getD t .fresh) = .ok (x, 0, fl)) :
    s.applyArrival w.id t a = s.updSeq w.id fun q => (q.taking t (a.leaves x) fl).goesOn := by
  obtain ⟨s1, hs1⟩ : ∃ s1 : State, s1 = ((s.updTile w.id t fun _ => a.leaves x).seqRaise w.id fl).updSeq w.id Seq.goesOn := ⟨_, rfl⟩
  have eq : s1 = s.updSeq w.id fun q => (q.taking t (a.leaves x) fl).goesOn := by
    rw [hs1, updTile_eq, State.seqRaise, updSeq_updSeq, updSeq_updSeq]
    rfl
  have kept : ((s1.seq? w.id).map (·.drop)).getD false = false := by
    rw [eq, (h.updSeq _).seq?]
    exact (goesOn_drop _).trans hdrop
  have steps : s.applyArrival w.id t a = if ((s1.seq? w.id).map (·.drop)).getD false then s1.seqEnd w.id else s1 := by
    rw [hs1, State.applyArrival, ha, h.found, h.seq?]
    simp only [h.tile, happ]
    rfl
  rw [steps, kept, if_neg Bool.false_ne_true, eq]

end

end Sys2Proof.Machine
end

section
/-! O24, PhaseResults, and O26, SequencerEvents: commands to a sequencer, the start of a stream, an arrival whose turn has
come, and the statements. -/

namespace Sys2Proof.Machine

/-- A sequencer after RESUME (R314). -/
def Seq.resumed (q : Seq) : Seq := if q.st = .trapped then { q with st := .running } else q

/-- A sequencer with its next stream. -/
def Seq.started (q : Seq) (c : Stream) (cs : List Stream) : Seq :=
  { q with st := .running, cur := some c, queue := cs, pc := 0, loops := [], idx := 0, stallBar := none, wait := false, drop := false, fault := none }

/-- Settles O24: the reservation is among those of the workgroup, or the sequencer traps at the word before. -/
theorem phaseResults : Obligations.PhaseResults := by
  unfold Obligations.PhaseResults
  intro s w q c hw hq _ hs ph id
  have h := sequences_of_seqWg hw hq hs
  have hx : w.id = s.seqWg := wg?_id hw
  change (_ → execMphase ph id s = _) ∧ (_ → execMphase ph id s = _)
  simp only [execMphase, h.sq hx]
  refine ⟨fun held => ?held, fun unknown => ?unknown⟩
  case held =>
    have found : (w.resv.any fun r => r.id == id.toNat) = true := by simpa using held
    rw [if_pos found]
  case unknown =>
    have none : ¬(w.resv.any fun r => r.id == id.toNat) = true := by simpa using unknown
    rw [if_neg none, h.sqTrap hx]

section
variable {s : State} {w : Wg} {q : Seq} (h : s.sequences w q)
include h

theorem State.sequences.resume_trapped (hst : q.st = .trapped) : exec (.resume w.id) s = .next (s.updSeq w.id fun q => { q with st := .running }) :=
  congrArg _ (h.updSeq_congr (f := Seq.resumed) (f' := fun q => { q with st := .running }) (if_pos hst))

theorem State.sequences.resume_other (hst : q.st ≠ .trapped) : exec (.resume w.id) s = .next s :=
  congrArg _ (h.updSeq_self (f := Seq.resumed) (if_neg hst))

theorem State.sequences.abandon_eq : exec (.abandon w.id) s = .next (if q.st = .idle then s
    else if q.wait then s.updSeq w.id fun q => { q with drop := true } else s.seqEnd w.id) := by
  change execAbandon w.id s = _
  rw [execAbandon, h.seq?]

theorem State.sequences.start_next {x : Stream} {xs : List Stream} (hst : q.st = .idle) (hqueue : q.queue = x :: xs) :
    exec (.seqStreamStart w.id) s = .next (s.updSeq w.id (·.started x xs)) := by
  refine congrArg _ (h.updSeq_congr ?_)
  rw [hst, hqueue]
  rfl

/-- An MZERO whose turn has come at a port where it alone waits: it empties the tile, and its sequencer goes on (R318, R325). -/
theorem State.sequences.step_mzero {t : Nat} {tl : Tile} {m : TileMode} {n : BitVec 3} {a : Arrival} (htl : q.tiles[t]? = some tl)
    (hone : tl.waiting = [a]) (hinstr : a.instr = .mzero m n) (ha : a.wg = w.id) (hwait : q.wait = true) (hdrop : q.drop = false)
    (hturn : tl.ordered = false ∨ tl.pos = []) : exec (.orderedStepApply w.id t) s = .next (s.updSeq w.id fun q =>
      { q with tiles := q.tiles.set t { tl.zeroed m with waiting := [] }, st := .running, wait := false }) := by
  have stands : q.tiles.getD t .fresh = tl := by rw [List.getD_eq_getElem?_getD, htl, Option.getD_some]
  have noChunk : chunkOf a.instr = none := by rw [hinstr]; rfl
  have turn : tl.next = some a := next_one hone (hturn.imp_right (⟨·, noChunk⟩))
  have happ : w.apply q a (q.tiles.getD t .fresh) = .ok (tl.zeroed m, 0, 0) := by rw [stands, Wg.apply, hinstr]
  have left : a.leaves (tl.zeroed m) = { tl.zeroed m with waiting := [] } := leaves_one hone (.inr noChunk)
  obtain ⟨hlen, -⟩ := List.getElem?_eq_some_iff.mp htl
  change execOrderedStepApply w.id t s = _
  rw [execOrderedStepApply, h.tile, stands, turn]
  refine congrArg _ ?_
  dsimp only
  rw [h.applyArrival_ok ha hdrop happ, left, (h.updSeq _).portCheck_idle ?_]
  · refine h.updSeq_congr ?_
    rw [Seq.goesOn, Seq.taking, if_pos hwait]
    simp
  · rw [Seq.goesOn, Seq.taking, if_pos hwait, getD_set_same hlen]
end

/-- Settles O26: each command by what it does in the state that the sequencer is in, and the arrival by its turn at the port. -/
theorem sequencerEvents : Obligations.SequencerEvents := by
  unfold Obligations.SequencerEvents
  intro s w q hw hq hs
  have h : s.sequences w q := ⟨hw, hq, hs⟩
  refine ⟨h.resume_trapped, h.resume_other, rfl, fun hst => ?idle, fun c t hst hwait hcur hgens hqueue ht hpark hwg hmail => ?abandon,
    fun x xs hst hqueue => h.start_next hst hqueue, fun t tl m n a htl hone hinstr ha hwait hdrop hturn => ?step⟩
  case idle => rw [h.abandon_eq, if_pos hst]
  case abandon =>
    rw [h.abandon_eq, if_neg hst, if_neg (by simp [hwait]), h.seqEnd_last hcur hgens hqueue ht hpark hwg hmail]
    rfl
  case step => exact h.step_mzero htl hone hinstr ha hwait hdrop hturn

end Sys2Proof.Machine
end

section
/-! O25, StreamResults: loops, a sequencer's arrival at a barrier, the end of its stream, a tile written to a reservation, and the statement. -/

namespace Sys2Proof.Machine

/-! ## Barriers (R312) -/

/-- The generation that a sequencer opens at a barrier of its workgroup: it has arrived, and no thread has. -/
def State.seqGen (s : State) (n b : Nat) : Gen :=
  ⟨.wg n b, (s.threads.filter (·.wg == n)).map (·.uid), (s.seedsOf n).map fun x => (n, x), [], true, true⟩

section
variable {s : State} {w : Wg} {q : Seq} (h : s.sequences w q)
include h

/-- A running sequencer that its mask attaches to a barrier opens a generation of it, and waits there if it is to. -/
theorem State.sequences.seqArrive_opens {c : Stream} {b : Nat} (hst : q.st = .running) (hcur : q.cur = some c) (hmask : bitOf c.mask b = true)
    (hgens : s.gens = []) (hlive : ∃ u ∈ s.threads, u.wg = w.id) (n : Nat) (waits : Bool) : s.seqArrive w.id b n waits =
      { if waits then s.updSeq w.id fun q => { q with st := .stalled, stallBar := some (b, true) } else s with gens := [s.seqGen w.id b] } := by
  obtain ⟨u, hu, huw⟩ := hlive
  have attached : s.seqAttached (.wg w.id b) = true := by
    simp only [State.seqAttached, h.found, h.seq, Option.bind_some, Option.map_some, Option.getD_some, Seq.attached, hst, hcur, hmask]
    rfl
  have opened : (s.openGen (.wg w.id b)).updGen (.wg w.id b) (fun g => { g with seqHere := true }) = { s with gens := [s.seqGen w.id b] } := by
    simp only [State.openGen, hgens, List.any_nil, Bool.false_eq_true, if_false, List.nil_append, State.updGen, List.map_cons, List.map_nil, if_true,
      attached, State.barLive, State.barSeeds, barWgs_wg, List.contains_cons, List.contains_nil, Bool.or_false, List.flatMap_cons, List.flatMap_nil,
      List.append_nil]
    rfl
  have expected : u.uid ∈ (s.seqGen w.id b).expected := List.mem_map.mpr ⟨u, List.mem_filter.mpr ⟨hu, by simp [huw]⟩, rfl⟩
  have waiting : ∀ s1 : State, s1.gens = [s.seqGen w.id b] → s1.genCheck (.wg w.id b) 2 = s1 := fun s1 hs1 =>
    genCheck_waits (g := s.seqGen w.id b) (by rw [hs1]; simp [State.seqGen]) expected List.not_mem_nil 2
  simp only [State.seqArrive, hgens, List.any_nil, Bool.false_eq_true, if_false, opened]
  cases waits <;> exact waiting _ rfl

end

/-! ## The instructions -/

section
variable {s : State} {w : Wg} {q : Seq} {c : Stream} (h : s.sequences w q) (hx : w.id = s.seqWg)
include h hx

/-- MLOOP outside a loop opens one (R322). -/
theorem State.sequences.mloop_opens {len : BitVec 10} (cnt : BitVec 12) (hlen : 2 ≤ len.toNat) (hloops : q.loops = []) :
    exec (.mloop len false cnt) s = .next (s.updSeq w.id fun q => { q with
      loops := [⟨q.pc, q.pc - 1 + len.toNat, cnt.toNat + 1, q.idx⟩], idx := 0 }) := by
  change execMloop len false cnt s = _
  simp only [execMloop, h.sq hx, hloops, Nat.not_lt.mpr hlen, Bool.false_and, List.length_nil, Bool.false_eq_true, if_false, decide_false, Bool.or_self,
    Bool.not_true, Nat.add_one_ne_zero, show ¬(0 ≥ 4) by decide]
  exact congrArg _ (h.updSeq_congr (by simp [hloops]))

/-- One of no iterations skips its body. -/
theorem State.sequences.mloop_skips {len : BitVec 10} (hlen : 2 ≤ len.toNat) (hloops : q.loops = []) (hcur : q.cur = some c) (hpar : c.par = 0) :
    exec (.mloop len true 0) s = .next (s.updSeq w.id fun q => { q with pc := q.pc - 1 + len.toNat }) := by
  change execMloop len true 0 s = _
  simp only [execMloop, h.sq hx, hloops, hcur, hpar, Nat.not_lt.mpr hlen, List.length_nil, Bool.false_eq_true, if_false, decide_false, Bool.or_self,
    Bool.not_true, Option.map_some, Option.getD_some, show ¬(0 ≥ 4) by decide, ne_eq, not_true, Bool.and_false, if_true]
  exact congrArg _ (h.updSeq_congr rfl)

theorem State.sequences.sqBar_attached {b : Nat} (hcur : q.cur = some c) (hmask : bitOf c.mask b = true) (waits : Bool) :
    s.sqBar b waits = s.seqArrive w.id b (q.pc - 1) waits := by
  simp only [State.sqBar, h.sq hx, hcur, hmask, Option.map_some, Option.getD_some, Bool.not_true, Bool.false_eq_true, if_false]

/-- MEXPORT into a reservation that is not held (R321). -/
theorem State.sequences.mexport_unknown {did : BitVec 6} {t : BitVec 3} {dr dc : BitVec 12} (hnone : ∀ r ∈ w.resv, r.id ≠ did.toNat) :
    exec (.mexport false did t dr dc) s = .next (s.seqTrap w.id 2 (q.pc - 2)) := by
  have unknown : w.resv.find? (·.id == did.toNat) = none := List.find?_eq_none.mpr fun r hr => by simpa using hnone r hr
  change execMexport false did t dr dc s = _
  simp only [execMexport, h.sq hx, unknown, h.sqTrap hx]

/-- MEXPORT of a tile of 64 columns as F32, without scales: its rows go into the buffer, and their flags are raised (R321). -/
theorem State.sequences.mexport_f32 {did : BitVec 6} {t : BitVec 3} {dr dc : BitVec 12} {r : Resv} (hr : w.resv.find? (·.id == did.toNat) = some r)
    (hfmt : r.fmt = .f32) (hsc : r.sc = false) (hmode : (q.tiles.getD t.toNat .fresh).mode ≠ .f64)
    (hcovers : r.covers dr.toNat 16 (32 * dc.toNat) 64 = true) {out : SMap Byte × Flags}
    (hout : (upFrom 0 16).foldl (fun (acc : SMap Byte × Flags) i =>
      ((exportRow (q.tiles.getD t.toNat .fresh) r .rn i (dr.toNat + i) (32 * dc.toNat) acc.1).1,
        acc.2 ||| (exportRow (q.tiles.getD t.toNat .fresh) r .rn i (dr.toNat + i) (32 * dc.toNat) acc.1).2)) (w.obuf, 0) = out) :
    exec (.mexport false did t dr dc) s = .next ((s.updWg w.id fun w => { w with obuf := out.1 }).updSeq w.id fun q => { q with
      flags := q.flags ||| out.2 }) := by
  have cols : (q.tiles.getD t.toNat .fresh).cols = 64 := if_neg hmode
  change execMexport false did t dr dc s = _
  simp only [execMexport, h.sq hx, hr, h.tile, hfmt, hsc, exportFmt, cols, hcovers, hout, Bool.false_and, Bool.and_false, Bool.not_true, Bool.or_self,
    Bool.false_eq_true, if_false, List.map_id']
  rfl

end

/-- Settles O25: each instruction by the lemma about it; a stream ends as by ABANDON. -/
theorem streamResults : Obligations.StreamResults := by
  unfold Obligations.StreamResults
  intro s w q c hw hq hcur hs
  have h := sequences_of_seqWg hw hq hs
  have hx : w.id = s.seqWg := wg?_id hw
  refine ⟨rfl, fun len cnt hlen hloops => ⟨h.mloop_opens hx cnt hlen hloops, h.mloop_skips hx hlen hloops hcur⟩,
    fun b hmask hgens hlive hst => ?barrier, fun t hgens hqueue ht hpark hwg hmail => ?mend, fun did t dr dc => ⟨h.mexport_unknown hx,
      fun r hr hfmt hsc hmode hcovers => ?written⟩⟩
  case barrier =>
    have attached : bitOf c.mask b.toNat = true := by simpa [bitOf] using hmask
    have arrives := h.seqArrive_opens hst hcur attached hgens hlive (q.pc - 1)
    have sends := (h.sqBar_attached hx hcur attached false).trans (arrives false)
    have waits := (h.sqBar_attached hx hcur attached true).trans (arrives true)
    exact ⟨congrArg Host.Outcome.next sends, congrArg Host.Outcome.next waits⟩
  case mend =>
    change execMend s = _
    simp only [execMend, h.sq hx, h.seqEnd_last hcur hgens hqueue ht hpark hwg hmail]
    rfl
  case written => exact h.mexport_f32 hx hr hfmt hsc hmode hcovers (by rw [upFrom_eq_map]; simp)

end Sys2Proof.Machine
end

section
/-! SUPPORT. Laws of the rows of a tile: integer accumulation, the chunks of bits, and the shift of mantissas. -/

namespace Sys2Proof.Machine

/-! ## Integer rows (R307) -/

theorem signedOf_mod (n x : Nat) : signedOf n (x % 2 ^ n) = signedOf n x := by rw [signedOf, signedOf, Nat.mod_mod]

/-- The element of an I32 tile. -/
theorem signedOf_setWidth (v : DWord) : signedOf 32 v.toNat = (v.setWidth 32).toInt := by
  rw [← signedOf_toNat (v.setWidth 32), BitVec.toNat_setWidth, signedOf_mod]

/-- What a row becomes when each of its columns has an integer to add. -/
theorem i32Row_some (row : TileRow) (as : List Int) : i32Row row (as.map some) = { row with
    vals := (row.vals.zip as).map fun p => BitVec.ofInt 64 (((p.1.setWidth 32).toInt + p.2) % 2 ^ 32)
    ovf := row.ovf || (row.vals.zip as).any fun p =>
      decide ((p.1.setWidth 32).toInt + p.2 < -2 ^ 31) || decide ((p.1.setWidth 32).toInt + p.2 ≥ 2 ^ 31) } := by
  simp only [i32Row, List.zip_map_right, List.map_map, List.any_map, Function.comp_def, Prod.map, id, signedOf_setWidth]

theorem i32Row_length (row : TileRow) {as : List Int} (hlen : row.vals.length = as.length) :
    (i32Row row (as.map some)).vals.length = row.vals.length := by
  simp [i32Row_some, hlen]

theorem i32Row_getElem (row : TileRow) {as : List Int} {k : Nat} {v : DWord} {a : Int} (hv : row.vals[k]? = some v) (ha : as[k]? = some a) :
    (i32Row row (as.map some)).vals[k]? = some (BitVec.ofInt 64 (((v.setWidth 32).toInt + a) % 2 ^ 32)) := by
  have pair : (row.vals.zip as)[k]? = some (v, a) := List.getElem?_zip_eq_some.mpr ⟨hv, ha⟩
  simp only [i32Row_some, List.getElem?_map, pair, Option.map_some]

theorem i32Row_ovf (row : TileRow) (as : List Int) : (i32Row row (as.map some)).ovf = true ↔ row.ovf = true ∨
    ∃ (k : Nat) (v : DWord) (a : Int), row.vals[k]? = some v ∧ as[k]? = some a ∧
      ((v.setWidth 32).toInt + a < -2 ^ 31 ∨ 2 ^ 31 ≤ (v.setWidth 32).toInt + a) := by
  simp only [i32Row_some, Bool.or_eq_true, List.any_eq_true, decide_eq_true_eq, ge_iff_le, List.mem_iff_getElem?]
  refine or_congr_right ⟨?_, ?_⟩
  · rintro ⟨⟨v, a⟩, ⟨k, hk⟩, hout⟩
    obtain ⟨hv, ha⟩ := List.getElem?_zip_eq_some.mp hk
    exact ⟨k, v, a, hv, ha, hout⟩
  · rintro ⟨k, v, a, hv, ha, hout⟩
    exact ⟨(v, a), ⟨k, List.getElem?_zip_eq_some.mpr ⟨hv, ha⟩⟩, hout⟩

/-- The set bits of a row and a column, combined by exclusive or, or by and. -/
theorem length_filter_bits (xr : Bool) (ps : List (Bool × Bool)) :
    (ps.filter fun p => if xr then p.1 != p.2 else p.1 && p.2).length =
      (ps.map fun p => if xr then (if p.1 = p.2 then 0 else 1) else if p.1 && p.2 then 1 else 0).sum := by
  have bit : ∀ p : Bool × Bool, (if xr then (if p.1 = p.2 then 0 else 1) else if p.1 && p.2 then 1 else 0) =
      if (if xr then p.1 != p.2 else p.1 && p.2) then 1 else 0 := by
    revert xr
    decide
  simp only [bit, List.sum_map_ite, Bool.decide_eq_true, List.map_const', List.sum_replicate, smul_eq_mul, Nat.mul_one, Nat.mul_zero, Nat.add_zero]

theorem bin_getElem (t : Tile) (xr : Bool) {a : List (List Bool)} (b : List (List Bool)) {k : Nat} {r : TileRow} {x : List Bool}
    (hr : t.rows[k]? = some r) (hx : a[k]? = some x) : (t.bin xr a b).rows[k]? = some (i32Row r (b.map fun c =>
      some (((x.zip c).map fun p => if xr then (if p.1 = p.2 then 0 else 1) else if p.1 && p.2 then 1 else 0).sum : Nat))) := by
  have pair : (t.rows.zip a)[k]? = some (r, x) := List.getElem?_zip_eq_some.mpr ⟨hr, hx⟩
  simp only [Tile.bin, List.getElem?_map, pair, Option.map_some, length_filter_bits]

/-! ## Mantissas (R320) -/

/-- A quotient rounded half to even is at most half a unit away. -/
theorem half_even_near (m d q : Nat) (hd : 0 < d)
    (hq : q = if 2 * (m % d) > d || (2 * (m % d) = d && m / d % 2 = 1) then m / d + 1 else m / d) :
    2 * (q * d) ≤ 2 * m + d ∧ 2 * m ≤ 2 * (q * d) + d := by
  have whole : m / d * d + m % d = m := Nat.div_add_mod' m d
  have rest : m % d < d := Nat.mod_lt m hd
  split at hq
  next up =>
    have half : d ≤ 2 * (m % d) := by
      simp only [Bool.or_eq_true, Bool.and_eq_true, decide_eq_true_eq] at up
      omega
    have grown : q * d = m / d * d + d := by rw [hq, Nat.add_mul, Nat.one_mul]
    omega
  next down =>
    have half : 2 * (m % d) ≤ d := by
      simp only [Bool.or_eq_true, Bool.and_eq_true, decide_eq_true_eq] at down
      omega
    rw [hq]
    omega

theorem rhe_near (m : Int) (k : Nat) : (2 * (rhe m k * 2 ^ k - m)).natAbs ≤ 2 ^ k := by
  obtain ⟨q, hq⟩ : ∃ q, q = if 2 * (m.natAbs % 2 ^ k) > 2 ^ k || (2 * (m.natAbs % 2 ^ k) = 2 ^ k && m.natAbs / 2 ^ k % 2 = 1)
    then m.natAbs / 2 ^ k + 1 else m.natAbs / 2 ^ k := ⟨_, rfl⟩
  have signed : rhe m k = if m < 0 then -(q : Int) else q := by rw [hq]; rfl
  obtain ⟨above, below⟩ := half_even_near m.natAbs (2 ^ k) q (Nat.two_pow_pos k) hq
  obtain ⟨p, hp⟩ : ∃ p : Nat, p = q * 2 ^ k := ⟨_, rfl⟩
  have scaled : (q : Int) * 2 ^ k = p := by rw [hp]; push_cast; rfl
  rw [← hp] at above below
  rw [signed]
  split
  · rw [Int.neg_mul, scaled]
    omega
  · rw [scaled]
    omega

/-- A shift to the right that keeps E in its range moves E and rounds the finite elements. -/
theorem renorm_right {r : TileRow} {n : Nat} (hempty : r.empty = false) (he : r.e + n ≤ 2047) : (r.renorm true n).e = r.e + n
    ∧ ∀ (k : Nat) (m : Int), r.cols[k]? = some (.fin m) → (r.renorm true n).cols[k]? = some (.fin (rhe m n)) := by
  simp only [TileRow.renorm, hempty, Bool.false_eq_true, if_false, if_true, gt_iff_lt, Int.not_lt.mpr he, true_and]
  intro k m hm
  rw [List.getElem?_map, hm]
  rfl

end Sys2Proof.Machine
end

section
/-! O23, TileResults: an arrival at a tile of the executing sequencer's own, the instructions that make one, and the statement. -/

namespace Sys2Proof.Machine

/-! ## Arrivals at a quiet port (R324) -/

/-- The arrival that an instruction of `n` words of a workgroup outside gangs makes. -/
def Wg.arrival (w : Wg) (q : Seq) (i : Instr) (n : Nat) : Arrival := ⟨0, w.id, i, q.idx, q.pc - n, q.loops, w.resv⟩

theorem arrival_eq {w : Wg} (hgang : w.gang = none) (q : Seq) (i : Instr) (n : Nat) :
    (⟨(w.gang.map (·.2)).getD 0, w.id, i, q.idx, q.pc - n, q.loops, w.resv⟩ : Arrival) = w.arrival q i n := by
  rw [hgang]
  rfl

/-- What an instruction of chunks leaves of the port of its tile, and that its sources were good. -/
theorem chunk_of_apply {w : Wg} {q : Seq} {a : Arrival} {x y : Tile} {n : Nat} {fl : Flags} {c : Chunk} (hc : chunkOf a.instr = some c)
    (happ : w.apply q a x = .ok (y, n, fl)) :
    (∃ src, Wg.chunkSrc { w with resv := a.resv } q c a.idx x.mode = .ok src) ∧ y.ordered = x.ordered ∧ y.waiting = x.waiting := by
  unfold Wg.apply at happ
  split at happ
  next hi => rw [hi] at hc; cases hc
  next hi => rw [hi] at hc; cases hc
  next hi => rw [hi] at hc; cases hc
  next =>
    rw [hc] at happ
    dsimp only at happ
    cases hsrc : Wg.chunkSrc { w with resv := a.resv } q c a.idx x.mode with
    | error e => rw [hsrc] at happ; cases happ
    | ok src =>
        rw [hsrc] at happ
        dsimp only at happ
        refine ⟨⟨src, rfl⟩, ?_⟩
        split at happ
        · cases happ; exact ⟨rfl, rfl⟩
        · simp only [Except.ok.injEq] at happ
          obtain ⟨rfl, -, -⟩ := Prod.mk.inj happ
          exact ⟨rfl, rfl⟩

/-- MRENORM of all rows shifts each of them (R320). -/
theorem apply_mrenorm_all (w : Wg) (q : Seq) {a : Arrival} {x : Tile} {n : BitVec 6} {right : Bool} {row : BitVec 4} {t : BitVec 3}
    (hinstr : a.instr = .mrenorm n right true row t) (hmode : x.mode = .bfp48) :
    w.apply q a x = .ok ({ x with rows := ((List.range 16).zip x.rows).map fun p => p.2.renorm right n.toNat }, 0, 0) := by
  rw [Wg.apply, hinstr]
  exact if_neg (not_not.mpr hmode)

/-- A port at which nothing waits, of a tile out of ordered mode; the tile is one of its sequencer's, which neither waits nor is to end. -/
structure Seq.quiet (q : Seq) (t : Nat) : Prop where
  inside    : t < q.tiles.length
  unordered : (q.tiles.getD t .fresh).ordered = false
  noArrival : (q.tiles.getD t .fresh).waiting = []
  goes      : q.wait = false
  stays     : q.drop = false

section
variable {s : State} {w : Wg} {q : Seq} (h : s.sequences w q) {t : Nat} (hquiet : q.quiet t)
include h hquiet

/-- An arrival at a quiet port applies at once. -/
theorem State.sequences.tileArrive_quiet {a : Arrival} {x y : Tile} {fl : Flags} (ha : a.wg = w.id)
    (happ : w.apply q a ((q.tiles.getD t .fresh).holding [a]) = .ok (x, 0, fl)) (hleft : a.leaves x = y) (hy : y.waiting = []) :
    s.tileArrive w.id t a = s.updSeq w.id (·.taking t y fl) := by
  obtain ⟨tl, htl⟩ : ∃ tl : Tile, tl = ((q.tiles.getD t .fresh).holding [a]) := ⟨_, rfl⟩
  have waits : (s.updTile w.id t fun x => { x with waiting := x.waiting ++ [a] }) = s.updSeq w.id (·.withTile t tl) := by
    rw [updTile_eq]
    exact h.updSeq_congr (by rw [hquiet.noArrival, htl, List.nil_append]; rfl)
  have arrived := h.updSeq (·.withTile t tl)
  have stands : (q.withTile t tl).tiles.getD t .fresh = tl := getD_set_same hquiet.inside tl _
  have turn : tl.next = some a := next_one (by rw [htl]; rfl) (.inl (by rw [htl]; exact hquiet.unordered))
  have applies : Wg.apply { w with seq := some (q.withTile t tl) } (q.withTile t tl) a ((q.withTile t tl).tiles.getD t .fresh) = .ok (x, 0, fl) := by
    rw [apply_withTile, stands, htl]
    exact happ
  have taken : (((q.withTile t tl).taking t y fl).goesOn) = q.taking t y fl := by
    have noWait : ¬((q.withTile t tl).taking t y fl).wait = true := by simp [Seq.withTile, Seq.taking, hquiet.goes]
    rw [Seq.goesOn, if_neg noWait, Seq.taking, Seq.withTile, List.set_set]
    rfl
  have done : (s.updSeq w.id (·.withTile t tl)).applyArrival w.id t a = s.updSeq w.id (·.taking t y fl) := by
    refine (arrived.applyArrival_ok ha hquiet.stays applies).trans ((updSeq_updSeq s w.id _ _).trans ?_)
    rw [hleft]
    exact h.updSeq_congr taken
  have atPort := arrived.tile t
  rw [stands] at atPort
  rw [State.tileArrive, waits, atPort, if_pos turn]
  refine (congrArg (State.portCheck · w.id t) done).trans ((h.updSeq _).portCheck_idle ?_)
  rw [Seq.taking, getD_set_same hquiet.inside, hy]

variable (hx : w.id = s.seqWg) (hgang : w.gang = none)
include hgang

/-- An instruction that is no chunk and applies at its own tile. -/
theorem State.sequences.ownArrive_quiet {i : Instr} {n : Nat} {y : Tile} {fl : Flags} (hc : chunkOf i = none) (hy : y.waiting = [])
    (happ : w.apply q (w.arrival q i n) ((q.tiles.getD t .fresh).holding [w.arrival q i n]) = .ok (y.holding [w.arrival q i n], 0, fl)) :
    s.ownArrive w q i t n = s.updSeq w.id (·.taking t y fl) := by
  have left : (w.arrival q i n).leaves (y.holding [w.arrival q i n]) = y := by
    rw [leaves_one rfl (.inr hc), ← hy]
    rfl
  rw [State.ownArrive, arrival_eq hgang]
  exact h.tileArrive_quiet hquiet rfl happ left hy

include hx
/-- A chunk into a tile of the workgroup's own (R319). -/
theorem State.sequences.chunk_quiet {i : Instr} {c : Chunk} {x : Tile} {fl : Flags} (hc : chunkOf i = some c) (ht : c.t = t)
    (hbid : c.w = true → c.bid = 0) (hmem : c.mem = 15)
    (happ : w.apply q (w.arrival q i 2) ((q.tiles.getD t .fresh).holding [w.arrival q i 2]) = .ok (x, 0, fl)) :
    s.chunk i = s.updSeq w.id (·.taking t (x.holding []) fl) := by
  have hinstr : chunkOf (w.arrival q i 2).instr = some c := hc
  obtain ⟨⟨src, hsrc⟩, hordered, hwaiting⟩ := chunk_of_apply hinstr happ
  have good : w.chunkErr q c [(q.tiles.getD t .fresh).mode] = none := by
    have same : w.chunkSrc q c q.idx (q.tiles.getD t .fresh).mode = .ok src := hsrc
    simp only [Wg.chunkErr, List.filterMap_cons, List.filterMap_nil, same, List.length_nil, List.length_cons, Nat.lt_add_one, if_true, zero_add]
  have inside : (decide (c.mem ≠ 15) && decide (c.mem ≥ s.gangOf w)) = false := by simp [hmem]
  have own : s.memberOf w c.mem = some w := if_pos hmem
  have now : Tile.next { q.tiles.getD t .fresh with waiting := (q.tiles.getD t .fresh).waiting ++ [w.arrival q i 2] } = some (w.arrival q i 2) :=
    next_one (by rw [hquiet.noArrival, List.nil_append]) (.inl hquiet.unordered)
  have noB : (c.w && decide (c.bid ≠ 0)) = false := by cases hw : c.w <;> simp [hbid, hw]
  have arrives := h.tileArrive_quiet hquiet rfl happ (leaves_one hwaiting (.inl (hordered.trans hquiet.unordered))) rfl
  simp only [State.chunk, h.sq hx, hc, noB, inside, own, h.tile, ht, arrival_eq hgang, now, good, arrives, Bool.false_eq_true, if_false, if_true]
end

/-! ## The statement -/

/-- Settles O23: each instruction's arrival applies at the quiet port; rows and mantissas by their own laws. -/
theorem tileResults : Obligations.TileResults := by
  unfold Obligations.TileResults
  refine ⟨?instrs, fun row as hlen => ⟨i32Row_length row hlen, fun k v a hv ha => i32Row_getElem row hv ha, i32Row_ovf row as,
    fun t xr a b _ _ k r x hr hx => bin_getElem t xr b hr hx⟩⟩
  intro s w q t hw hq hs hgang hlen hwait hdrop tl put hord hnone hpos
  have h := sequences_of_seqWg hw hq hs
  have hx : w.id = s.seqWg := wg?_id hw
  have hquiet : q.quiet t.toNat := ⟨by have := t.isLt; omega, hord, hnone, hwait, hdrop⟩
  have lone : s.gangOf w = 1 := by rw [State.gangOf, hgang]
  refine ⟨fun mode => ?mzero, fun mask => ⟨?enter, ?leave⟩, fun n hmode hlo hhi => ⟨?mrenorm, fun r hempty he => ?mantissas⟩, ?chunks⟩
  case mzero =>
    have applied := h.ownArrive_quiet hquiet hgang (i := .mzero mode t) (n := 1) (y := tl.zeroed mode) rfl hnone rfl
    change execMzero mode t s = _
    simp only [execMzero, h.sq hx, applied]
    rfl
  case enter =>
    rintro rfl
    have applied := h.ownArrive_quiet hquiet hgang (i := .mstep 1 true t) (n := 1)
      (y := { tl with ordered := true, mask := 1, pos := [] }) rfl hnone rfl
    have members : ((setBits 12 (1 : BitVec 12).toNat).any fun i => decide (i ≥ 1)) = false := by decide
    change execMstep 1 true t s = _
    simp only [execMstep, h.sq hx, lone, members, applied]
    rfl
  case leave =>
    rintro rfl
    have applied := h.ownArrive_quiet hquiet hgang (i := .mstep 0 false t) (n := 1)
      (y := { tl with ordered := false, mask := 0, pos := [] }) rfl hnone rfl
    change execMstep 0 false t s = _
    simp only [execMstep, h.sq hx, applied]
    rfl
  case mrenorm =>
    have applied := h.ownArrive_quiet hquiet hgang (i := .mrenorm n true true 0 t) (n := 1)
      (y := { tl with rows := ((List.range 16).zip tl.rows).map fun p => p.2.renorm true n.toNat }) rfl hnone (apply_mrenorm_all w q rfl hmode)
    have nonzero : n ≠ 0 := fun hn => by simp [hn] at hlo
    have floats : (q.tiles.getD t.toNat .fresh).mode = .bfp48 := hmode
    change execMrenorm n true true 0 t s = _
    simp only [execMrenorm, h.sq hx, h.tile, floats, nonzero, Nat.not_lt.mpr hhi, applied, ne_eq, not_true, decide_false, Bool.and_false,
      Bool.not_true, Bool.false_and, Bool.or_self, Bool.false_eq_true, if_false]
    rfl
  case mantissas =>
    obtain ⟨he', hcols⟩ := renorm_right hempty he
    exact ⟨he', fun k m hm => ⟨rhe m n.toNat, hcols k m hm, rhe_near m n.toNat⟩⟩
  case chunks =>
    intro bi ai ki wt bid aid kb ar br isBin xr x fl i hbid happ
    have noB : wt = true → bid.toNat = 0 := fun hwt => by rw [hbid hwt]; rfl
    cases isBin with
    | false => exact congrArg Host.Outcome.next (h.chunk_quiet hquiet hx hgang (i := .mmac bi ai ki wt bid aid 15 t kb ar br) rfl rfl noB rfl happ)
    | true => exact congrArg Host.Outcome.next (h.chunk_quiet hquiet hx hgang (i := .mbin xr bi ai ki wt bid aid 15 t kb ar br) rfl rfl noB rfl happ)

end Sys2Proof.Machine
end

section
/-! O22, MatrixThreadResults: reservations, the submission of a stream and tile reads in one lane, and the statement. -/

namespace Sys2Proof.Machine

section
variable {s : State} {g : Pred} {t : Thread} {w : Wg} {l : Launch} {d : Dst} {a b e : Src} {entry : DWord}

/-! ## RESV and RFREE (R297, R298) -/

/-- What RESV does in its one lane without poison. -/
theorem resv_one {fmt : ResFmt} {bl : BlkLen} {scl ten : Bool} {ph : BitVec 7} (h : s.alone (.resv g d a b fmt bl scl ten ph) g t)
    (hw : s.wg? t.wg = some w) (hl : s.launchOfWg t.wg = some l) (ha : t.opPois (.s a) = false) (hb : t.opPois (.s b) = false) :
    exec (.resv g d a b fmt bl scl ten ph) s = .next (
      if resvBad (resvRec 0 (s.src t a) (s.src t b) fmt bl scl ten ph.toNat) (s.src t a) (s.src t b) l.obuf then s.trapHere t.uid 27 0 0
      else match (upFrom 0 64).find? fun n => w.resv.all fun r => r.id != n with
        | none => s.updThr t.uid fun u => (u.wr d 0xFFFFFFFF#32).trimLog
        | some id => (s.updWg t.wg fun w => { w with resv := w.resv ++ [resvRec id (s.src t a) (s.src t b) fmt bl scl ten ph.toNat] }).updThr t.uid
            fun u => (u.wr d (BitVec.ofNat 32 id)).trimLog) := by
  refine (exec_body (i := .resv g d a b fmt bl scl ten ph) (by rfl) h.issues).trans (congrArg _ ?_)
  refine (consuming_one (os := [.s a, .s b]) h.acts (by simp [ha, hb]) _).trans ?_
  rw [hl, hw]
  rfl

/-- The operand limits of RESV, in the words of R297. -/
theorem resvBad_iff {r : Resv} {x y : Word} {lines : Nat} : resvBad r x y lines = false ↔
    x.toNat < 2 ^ 23 ∧ y.toNat < 2 ^ 22 ∧ 0 < r.count ∧ r.base + r.count ≤ lines ∧ 0 < r.rl
      ∧ (r.sc = true → (r.fmt = .t6 ∨ r.fmt = .t8 ∨ r.fmt = .e4m3 ∨ r.fmt = .e5m2) ∧ 0 < r.soff ∧ r.soff < r.count ∧ r.rl % r.bl.elems = 0)
      ∧ (r.sc = false → r.soff = 0) := by
  have hx : fld x.toNat 23 9 = 0 ↔ x.toNat < 2 ^ 23 := by have := x.isLt; rw [fld]; omega
  have hy : fld y.toNat 22 10 = 0 ↔ y.toNat < 2 ^ 22 := by have := y.isLt; rw [fld]; omega
  have hfmt : (!(r.fmt == .t6 || r.fmt == .t8 || r.fmt == .e4m3 || r.fmt == .e5m2)) = false ↔
      r.fmt = .t6 ∨ r.fmt = .t8 ∨ r.fmt = .e4m3 ∨ r.fmt = .e5m2 := by
    rw [Bool.not_eq_false']
    simp [or_assoc]
  cases hsc : r.sc <;> simp only [resvBad, hsc, hx, hy, hfmt, Bool.or_eq_false_iff, Bool.true_and, Bool.not_true, Bool.false_and, Bool.not_false,
    decide_eq_false_iff_not, not_not, ne_eq, Nat.pos_iff_ne_zero, and_assoc, true_imp_iff, ge_iff_le, not_le, gt_iff_lt, not_lt, reduceCtorEq,
    false_imp_iff, and_true, true_and]

/-- The lowest id that the workgroup does not hold. -/
theorem freeId_some {rs : List Resv} {id : Nat} (hid : id < 64) (hfree : ∀ x ∈ rs, x.id ≠ id) (hbelow : ∀ k, k < id → ∃ x ∈ rs, x.id = k) :
    ((upFrom 0 64).find? fun n => rs.all fun r => r.id != n) = some id :=
  find?_upFrom (by simpa using hfree) (fun j _ hj => by simpa using hbelow j hj) (Nat.zero_le id) (by omega)

theorem freeId_none {rs : List Resv} (hheld : ∀ k, k < 64 → ∃ x ∈ rs, x.id = k) :
    ((upFrom 0 64).find? fun n => rs.all fun r => r.id != n) = none :=
  List.find?_eq_none.mpr fun k hk => by simpa using hheld k (by have := mem_upFrom.mp hk; omega)

theorem rfree_one (h : s.alone (.rfree g a) g t) (hw : s.wg? t.wg = some w) (ha : t.opPois (.s a) = false) : exec (.rfree g a) s = .next (
    if w.resv.any (·.id == (s.src t a).toNat) then s.updWg t.wg fun w => { w with resv := w.resv.filter (·.id != (s.src t a).toNat) }
    else s.trapHere t.uid 27 0 0) := by
  refine (exec_body (i := .rfree g a) (by rfl) h.issues).trans (congrArg _ ?_)
  refine (consuming_one (os := [.s a]) h.acts (by simp [ha]) _).trans ?_
  rw [hw]
  rfl

/-! ## SEQ (R310, R311) -/

/-- SEQ with room in its queue: its stream joins the queue, and starts where the sequencer is idle. -/
theorem seq_submits {q : Seq} (h : s.alone (.seq g a b e) g t) (hw : s.wg? t.wg = some w) (hq : w.seq = some q) (hroom : q.queue.length < 4)
    (hpois : [Opnd.s2 a, .s b, .s e].any t.opPois = false) (hva : (s.src2 t a).toNat < 2 ^ 52) (halign : (s.src2 t a).toNat % 4 = 0)
    (hmask : (s.src t b).toNat < 2 ^ 16) (hcnt : t.cntT < 63) : exec (.seq g a b e) s = .next
      (((s.updSeq t.wg fun q => { q with queue := q.queue ++ [⟨(s.src2 t a).toNat, (s.src t b).toNat, s.src t e, t.uid, t.tid⟩] }).updThr t.uid
        (·.raiseCnt .t)).seqStart t.wg) := by
  have found : s.seq? t.wg = some q := by rw [State.seq?, hw, Option.bind_some, hq]
  have room : s.seqFull t.wg = false := by rw [State.seqFull, found]; simpa using hroom
  refine (exec_body (i := .seq g a b e) (by rfl) h.issues).trans (congrArg _ ((eachLane_one h.acts _).trans ?_))
  simp only [room, hpois, found, Nat.not_le.mpr hva, Nat.not_le.mpr hmask, Nat.not_le.mpr hcnt, halign, Bool.false_eq_true, if_false, ne_eq,
    not_true]

/-! ## ACCRD (R326) -/

/-- The raw value of an element of an I32 tile. -/
theorem accVal_elem_i32 {q : Seq} {tl : Tile} {rnd : Rnd} {row lane : Nat} {half : Bool} {ws : List Word} {fl : Flags} (hmode : tl.mode = .i32)
    (hval : q.accVal tl .elem 4 rnd row lane half = some (ws, fl)) :
    ws = [lo32 ((tl.rows.getD row (.zero tl.mode)).vals.getD ((if half then 32 else 0) + lane) 0)] := by
  simp only [Seq.accVal, hmode, reduceCtorEq, if_false, if_true] at hval
  split at hval
  · cases hval
  · cases hval
    rw [hmode]
    cases half <;> rfl

theorem updThr_withOp (s : State) (n : Nat) (f : Thread → Thread) (i : Instr) (cls : OpClass) (done : Nat → Instr) (l : LaneAcc) :
    (s.withOp i cls done [l]).updThr n f = (s.updThr n f).withOp i cls done [l] := rfl

/-- ACCRD of a tile that suits it, in a lane that it gives a value: the flags are raised at issue, and the value comes with the completion. -/
theorem accrd_issues {q : Seq} {tl : Tile} {what : AccSel} {fmt : BitVec 4} {rnd : Rnd} {n : BitVec 3} {row : BitVec 4} {half : Bool} {ws : List Word}
    {fl : Flags} (h : s.alone (.accrd g d what fmt rnd n row half) g t) (hwg : s.issWg = t.wg) (hw : s.wg? t.wg = some w) (hq : w.seq = some q)
    (htl : q.tiles.getD n.toNat .fresh = tl) (hgood : accBad tl what fmt.toNat half = false) (hcnt : t.cntT < 63)
    (hval : q.accVal tl what fmt.toNat rnd row.toNat t.lane half = some (ws, fl)) :
    exec (.accrd g d what fmt rnd n row half) s = .next ((s.updThr t.uid fun u => s.raised { u with cntT := u.cntT + 1 } fl).withOp
      (.accrd g d what fmt rnd n row half) .t .rayTestComplete [{ s.laneAt t 0 with data := ws }]) := by
  have found : s.seq? s.issWg = some q := by rw [hwg, State.seq?, hw, Option.bind_some, hq]
  have tile : s.tile s.issWg n.toNat = tl := by rw [State.tile, found, Option.map_some, Option.getD_some, htl]
  have joins := memIssue_joins (s := s) (ts := [t]) (i := .accrd g d what fmt rnd n row half) (cls := .t) (os := []) (done := .rayTestComplete)
    (mk := fun _ u => .go { s.laneAt u 0 with
      data := ((q.accVal tl what fmt.toNat rnd row.toNat u.lane half).map (·.1)).getD [] })
    (acc := fun u => { s.laneAt u 0 with data := ((q.accVal tl what fmt.toNat rnd row.toNat u.lane half).map (·.1)).getD [] })
    (by simp) (fun u hu => ⟨rfl, by rwa [List.mem_singleton.mp hu]⟩) (fun _ _ _ => rfl) (fun _ _ htx => absurd htx Bool.false_ne_true)
  refine (exec_body (i := .accrd g d what fmt rnd n row half) (by rfl) h.issues).trans (congrArg _ ?_)
  simp only [tile, found, hgood, h.acts, Bool.false_eq_true, if_false]
  rw [List.filter_cons_of_pos (by simp [hval]), List.filter_nil, List.filter_cons_of_pos (by simpa using hcnt), List.filter_nil]
  rw [joins, State.over, List.foldl_cons, List.foldl_nil, raise_eq, State.opIssues, inThreads_one s t fun _ u => raiseCnt_uid u .t]
  refine (updThr_withOp ..).trans ?_
  rw [updThr_updThr _ _ _ _ fun u => raiseCnt_uid u .t]
  simp only [List.map_cons, List.map_nil, hval, Option.map_some, Option.getD_some]
  rfl
end

/-- Settles O22: RESV by the lowest id that is free, RFREE by what is held, SEQ by the queue that its stream joins, and ACCRD by the value of its lane. -/
theorem matrixThreadResults : Obligations.MatrixThreadResults := by
  unfold Obligations.MatrixThreadResults
  intro s g t w l d a b e entry hw hl ha hb he ha2
  refine ⟨fun fmt bl scl ten ph => ?resv, fun h => ⟨fun held => ?free, fun unknown hmay => ?noFree⟩, fun q h hq hva halign hmask hroom hcnt => ?seq,
    fun q what fmt rnd n row half ws fl h hwg hq hgood hcnt hval => ?accrd⟩
  case resv =>
    intro i x y r scaled legal
    have record : ∀ id, resvRec id (s.src t a) (s.src t b) fmt bl scl ten ph.toNat = r id := fun id => by
      simp only [resvRec, fld, pow_zero, Nat.div_one]
      rfl
    have good : resvBad (r 0) (s.src t a) (s.src t b) l.obuf = false ↔ legal := resvBad_iff
    refine ⟨fun id h hlegal hid hfree hbelow => ?_, fun h hlegal hheld => ?_, fun h hbad hmay => ?_⟩
    · rw [resv_one h hw hl ha hb, record, good.mpr hlegal, freeId_some hid hfree hbelow, ← record id]
      rfl
    · rw [resv_one h hw hl ha hb, record, good.mpr hlegal, freeId_none hheld]
      rfl
    · rw [resv_one h hw hl ha hb, record, Bool.eq_true_of_not_eq_false (mt good.mp hbad), if_pos rfl, trapHere_mayTrap h.found hmay]
  case free => rw [rfree_one h hw ha, if_pos (by simpa using held)]
  case noFree => rw [rfree_one h hw ha, if_neg (by simpa using unknown), trapHere_mayTrap h.found hmay]
  case seq =>
    rw [seq_submits h hw hq hroom (by simp [ha2, hb, he]) hva halign hmask hcnt]
    refine congrArg Host.Outcome.next (congrArg (State.updThr · t.uid (·.raiseCnt .t)) ((updSeq_updSeq ..).trans ?_))
    refine congrArg (s.updSeq t.wg) (funext fun q => ?_)
    cases q.st with
    | idle => cases q.queue <;> rfl
    | running | stalled | trapped => rfl
  case accrd =>
    refine ⟨accrd_issues h hwg hw hq rfl hgood hcnt hval, ?exp, ?elem, ?seqpc⟩
    case exp =>
      rintro rfl
      cases hval
      rfl
    case elem =>
      rintro rfl rfl hmode
      exact accVal_elem_i32 hmode hval
    case seqpc =>
      rintro rfl
      cases hval
      rfl

end Sys2Proof.Machine
end

section
/-! SUPPORT. What every step keeps: memory in canonical form, the measurement register at 64 bytes, and at most 1,024 events in the black-box ring.
Most operations leave memory, measurement and ring alone or reach them through an operation that comes before; those that write
them (`rdcFlush`, `fold`, `homeWrite`, `boxPut`, `boot`, …) keep each by a law of that component. -/

namespace Sys2Proof.Machine

/-- What every step keeps. -/
def Kept (s : State) : Prop := Mem.wf s.mem = true ∧ s.meas.length = 64 ∧ s.box.length ≤ 1024

theorem wellKept_iff {s : State} : s.wellKept = true ↔ Kept s := by
  simp [State.wellKept, Kept, and_assoc]

section
variable {s t : State}

theorem Kept.next (h : Kept s) (e : (.next s : Host.Outcome State Fault Refusal) = .next t) : Kept t := by
  cases e
  exact h

/-! ## What all operations share -/

theorem Kept.restartCycles (h : Kept s) : Kept (s.restartCycles cores) := h

theorem Kept.updThr (h : Kept s) : Kept (s.updThr uid f) := h

theorem Kept.updWg (h : Kept s) : Kept (s.updWg n f) := h

theorem Kept.updCmd (h : Kept s) : Kept (s.updCmd n f) := h

theorem Kept.updGraph (h : Kept s) : Kept (s.updGraph n f) := h

theorem Kept.updSeq (h : Kept s) : Kept (s.updSeq wg f) := h.updWg

theorem Kept.post (h : Kept s) : Kept (s.post i) := h

theorem Kept.posts (h : Kept s) : Kept (s.posts is) := h

theorem Kept.postOnce (h : Kept s) : Kept (s.postOnce i) := by
  unfold State.postOnce
  split
  · exact h
  · exact h.post

theorem Kept.newId (h : Kept s) : Kept (s.newId).2 := h

/-- A fold keeps a state whose every step does. -/
theorem Kept.over (h : Kept s) (hf : ∀ s x, Kept s → Kept (f s x)) : Kept (s.over xs f) := by
  unfold State.over
  induction xs generalizing s with
  | nil => exact h
  | cons x xs ih => exact ih (hf s x h)

/-- The same where the state is folded beside what the steps gather. -/
theorem Kept.foldFst {f : State × β → α → State × β} {r : State × β} {xs : List α} (h : Kept r.1) (hf : ∀ r x, Kept r.1 → Kept (f r x).1) :
    Kept (xs.foldl f r).1 := by
  induction xs generalizing r with
  | nil => exact h
  | cons x xs ih => exact ih (hf r x h)

theorem Kept.foldSnd {f : β × State → α → β × State} {r : β × State} {xs : List α} (h : Kept r.2) (hf : ∀ r x, Kept r.2 → Kept (f r x).2) :
    Kept (xs.foldl f r).2 := by
  induction xs generalizing r with
  | nil => exact h
  | cons x xs ih => exact ih (hf r x h)

theorem Kept.wreg (h : Kept s) : Kept (s.wreg view idx v) := h

theorem Kept.bump (h : Kept s) : Kept (s.bump view idx) := by
  unfold State.bump
  split
  · exact h
  · exact h.wreg

theorem Kept.setBit (h : Kept s) : Kept (s.setBit view idx b on) := h.wreg

theorem Kept.vector (h : Kept s) : Kept (s.vector view c) := by
  unfold State.vector
  split
  · exact h.setBit
  · exact h

theorem Kept.irq (h : Kept s) : Kept (s.irq view c) := by
  grind [State.irq, Kept, Kept.setBit, Kept.vector]

theorem Kept.boxPut (h : Kept s) : Kept (s.boxPut kind source code asid addr) := by
  grind [State.boxPut, Kept]

theorem Kept.persist (h : Kept s) : Kept (s.persist) := by
  grind [State.persist, Kept, Kept.postOnce]

theorem Kept.boxFatal (h : Kept s) : Kept (s.boxFatal fe code asid addr) := by
  grind [State.boxFatal, Kept, Kept.boxPut, Kept.persist]

theorem Kept.served (h : Kept s) : Kept (s.served asid prio) := h

theorem Kept.dispatch (h : Kept s) : Kept (s.dispatch) := h

theorem Kept.coreFreed (h : Kept s) : Kept (s.coreFreed c) := by
  grind [State.coreFreed, Kept, Kept.postOnce, Kept.dispatch, Kept.over]

theorem Kept.rdcFlush (h : Kept s) : Kept (s.rdcFlush r) := by
  unfold State.rdcFlush
  split
  · exact h
  · exact ⟨Mem.wf_writeMasked _ _ _ _ h.1, h.2⟩

theorem Kept.rdcSync (h : Kept s) : Kept (s.rdcSync asid drop) := by
  grind [State.rdcSync, Kept, Kept.over, Kept.rdcFlush]

theorem Kept.unhold (h : Kept s) : Kept (s.unhold f) := h

theorem Kept.dropWgs (h : Kept s) : Kept (s.dropWgs ids) := by
  grind [State.dropWgs, Kept, Kept.over, Kept.unhold, Kept.coreFreed]

theorem Kept.stopCtx (h : Kept s) : Kept (s.stopCtx asid) := by
  grind [State.stopCtx, Kept, Kept.dropWgs, Kept.posts, Kept.over, Kept.wreg]

theorem Kept.fatalDone (h : Kept s) : Kept (s.fatalDone asid) := by
  grind [State.fatalDone, Kept, Kept.irq, Kept.rdcSync]

theorem Kept.mgmtStop (h : Kept s) : Kept (s.mgmtStop asid) := by
  grind [State.mgmtStop, Kept, Kept.stopCtx, Kept.irq]

theorem Kept.fatalAt (h : Kept s) : Kept (s.fatalAt asid code addr) := by
  grind [State.fatalAt, Kept, Kept.mgmtStop, Kept.stopCtx, Kept.wreg, Kept.boxFatal, Kept.fatalDone]

theorem Kept.fatal (h : Kept s) : Kept (s.fatal asid code) := h.fatalAt

theorem Kept.setOp (h : Kept s) : Kept (s.setOp n f) := h

theorem Kept.abortTx (h : Kept s) : Kept (s.abortTx uid code) := by
  grind [State.abortTx, Kept, Kept.over, Kept.updThr, Kept.unhold]

theorem Kept.takeTrap (h : Kept s) : Kept (s.takeTrap uid cause oslot code xaddr resume) := by
  grind [State.takeTrap, Kept, Kept.abortTx, Kept.fatalAt, Kept.updThr]

theorem Kept.takePend (h : Kept s) : Kept (s.takePend uid) := by
  unfold State.takePend
  split
  · exact h
  · split
    · exact h
    · exact h.updThr.takeTrap

theorem Kept.trapHere (h : Kept s) : Kept (s.trapHere uid cause code xaddr) := h.takeTrap

theorem Kept.trapNext (h : Kept s) : Kept (s.trapNext uid cause code xaddr) := h.takeTrap

theorem Kept.trapPoison (h : Kept s) : Kept (s.trapPoison t' full os) := h.trapHere

theorem Kept.trapAll (h : Kept s) : Kept (s.trapAll cause) := h.over fun _ _ h => h.trapHere

theorem Kept.issued (h : Kept s) (hb : Kept (body s)) (e : issued i s body = .next t) : Kept t := by
  grind [Machine.issued, Kept.trapAll]

theorem Kept.eachLane (h : Kept s) (hf : ∀ s x, Kept s → Kept (f s x)) : Kept (s.eachLane g f) := h.over hf

theorem Kept.consuming (h : Kept s) (hf : ∀ s x, Kept s → Kept (f s x)) : Kept (s.consuming g os f) :=
  h.eachLane fun s x h => by split; exacts [h.trapPoison, hf s x h]

theorem Kept.leaves (h : Kept s) : Kept (s.leaves uid) := h

theorem Kept.illegalInTx (h : Kept s) : Kept (s.illegalInTx t') := by
  unfold State.illegalInTx
  split
  · exact h.trapHere
  · exact h.abortTx.leaves

theorem Kept.retry (h : Kept s) : Kept (s.retry uid) := by
  grind [State.retry, Kept, Kept.updThr]

/-! ## Flags and results of lanes -/

theorem Kept.raise (h : Kept s) : Kept (s.raise t' fl) := by
  unfold State.raise
  split
  · exact h
  · exact h.updThr

theorem Kept.freeWords (h : Kept s) : Kept (s.freeWords n).2 := h

theorem Kept.deriveInto (h : Kept s) : Kept (s.deriveInto i t' os srcs ds) := by
  grind [State.deriveInto, Kept, Kept.trapPoison, Kept.freeWords, Kept.newId, Kept.updThr]

theorem Kept.derive (h : Kept s) : Kept (s.derive i d w t') := by
  grind [State.derive, Kept, Kept.freeWords, Kept.updThr, Kept.deriveInto]

theorem Kept.aluLane (h : Kept s) : Kept (State.aluLane i f d w s t') := by
  unfold State.aluLane
  split
  · exact h.derive
  · split
    · exact h.updThr.raise

theorem Kept.aluExec (h : Kept s) (e : aluExec i f g d w s = .next t) : Kept t := by
  grind [aluExec, Kept, Kept.issued, Kept.eachLane, Kept.aluLane]

theorem Kept.cmpExec (h : Kept s) (e : cmpExec i f g p s = .next t) : Kept t := by
  grind [cmpExec, Kept, Kept.issued, Kept.consuming, Kept.raise, Kept.updThr]

/-! ## Operations among lanes -/

theorem Kept.tiled (h : Kept s) (hf : ∀ s x, Kept s → Kept (f s x)) : Kept (s.tiled g f) := by
  unfold State.tiled
  dsimp only
  split
  · exact h.eachLane hf
  · exact h.eachLane fun _ _ h => h.trapHere

theorem Kept.laneOut (h : Kept s) : Kept (s.laneOut t' d w pois x fl) := by
  grind [State.laneOut, Kept, Kept.raise, Kept.freeWords, Kept.updThr]

theorem Kept.execSwz (h : Kept s) (e : execSwz g d a b mode n s = .next t) : Kept t := h.issued (h.tiled fun _ _ h => h.laneOut) e

theorem Kept.execVote (h : Kept s) (e : execVote g d ps op s = .next t) : Kept t := h.issued (h.tiled fun _ _ h => h.laneOut) e

theorem Kept.execLred (h : Kept s) (e : execLred g d a ty op rnd s = .next t) : Kept t := by
  grind [execLred, Kept, Kept.issued, Kept.tiled, Kept.laneOut]

theorem Kept.execLscan (h : Kept s) (e : execLscan g d a x ty op rnd s = .next t) : Kept t := by
  grind [execLscan, Kept, Kept.issued, Kept.tiled, Kept.laneOut]

theorem Kept.execTrsp (h : Kept s) (e : execTrsp g d a sz s = .next t) : Kept t := by
  grind [execTrsp, Kept, Kept.issued, Kept.eachLane, Kept.freeWords, Kept.updThr]

theorem Kept.convBlock (h : Kept s) : Kept (s.convBlock i k g d a e') := by
  grind [State.convBlock, Kept, Kept.over, Kept.deriveInto, Kept.laneOut]

theorem Kept.execConvb (h : Kept s) (e : execConvb g d a tt len rnd e' ph s = .next t) : Kept t := h.issued h.convBlock e

theorem Kept.execScaleb (h : Kept s) (e : execScaleb g d a tt len b2 rnd e' ph s = .next t) : Kept t := h.issued h.convBlock e

theorem Kept.derive2 (h : Kept s) : Kept (s.derive2 y g d a coarse) := by
  grind [State.derive2, Kept, Kept.eachLane, Kept.laneOut, Kept.updThr]

theorem Kept.execDerx (h : Kept s) (e : execDerx g d a coarse s = .next t) : Kept t := h.issued h.derive2 e

theorem Kept.execDery (h : Kept s) (e : execDery g d a coarse s = .next t) : Kept t := h.issued h.derive2 e

theorem Kept.execPart (h : Kept s) (e : execPart g n s = .next t) : Kept t := h.issued (h.eachLane fun _ _ h => h.updThr) e

theorem Kept.execSrd (h : Kept s) (e : execSrd g d clr idx s = .next t) : Kept t := h.issued (h.eachLane fun _ _ h => h.updThr) e

/-! ## Caches, translation and homes -/

theorem Kept.fold (h : Kept s) : Kept (s.fold line) := by
  unfold State.fold
  split
  · exact h
  · exact ⟨Mem.wf_mputs _ _ _ h.1, h.2⟩

theorem Kept.monWake (h : Kept s) : Kept (s.monWake line) := h

theorem Kept.l2Evict (h : Kept s) : Kept (s.l2Evict line) := by
  grind [State.l2Evict, Kept, Kept.fold, Kept.monWake]

theorem Kept.l2Room (h : Kept s) : Kept (s.l2Room colour line) := by
  grind [State.l2Room, Kept, Kept.l2Evict]

theorem Kept.l2Fill (h : Kept s) : Kept (s.l2Fill fe line) := by
  unfold State.l2Fill
  split
  · exact h
  · split
    · exact h
    · exact h.l2Room

theorem Kept.touched (h : Kept s) : Kept (s.touched key keep) := by
  grind [State.touched, Kept, Kept.monWake]

theorem Kept.rdcDrop (h : Kept s) : Kept (s.rdcDrop line) := by
  grind [State.rdcDrop, Kept, Kept.over, Kept.rdcFlush]

theorem Kept.rdcRoom (h : Kept s) : Kept (s.rdcRoom line) := by
  grind [State.rdcRoom, Kept, Kept.rdcDrop]

theorem Kept.rdcFill (h : Kept s) : Kept (s.rdcFill asid line) := by
  unfold State.rdcFill
  split
  · exact h.rdcRoom
  · exact h

theorem Kept.freeBytes (h : Kept s) : Kept (s.freeBytes n).2 := h

theorem Kept.memErr (h : Kept s) : Kept (s.memErr asid key) := by
  unfold State.memErr
  split
  · exact h.fatalAt.boxPut.persist
  · exact h

theorem Kept.atHome (h : Kept s) : Kept (s.atHome asid key) := h.fold.l2Fill

theorem Kept.homeRead (h : Kept s) : Kept (s.homeRead asid key n sc).2 := by
  grind [State.homeRead, Kept, Kept.memErr, Kept.atHome, Kept.freeBytes, Kept.rdcDrop, Kept.rdcFill]

theorem Kept.homeWrite (h : Kept s) : Kept (s.homeWrite asid key bs sc keep) := by
  have put : ∀ {s : State}, Kept s → Kept ((({ s with mem := mputs 0#8 s.mem key bs } : State)).touched key keep) := fun h =>
    Kept.touched ⟨Mem.wf_mputs _ _ _ h.1, h.2⟩
  unfold State.homeWrite
  split
  · exact put h.atHome
  · exact put h
  · exact put h
  · exact put h
  · exact h
  · split
    · exact put h.rdcDrop
    · exact Kept.touched (s := { s.rdcFill asid (lineOf key) with rdc := _ }) h.rdcFill

theorem Kept.orEntry (h : Kept s) : Kept (s.orEntry asid key bits) := by
  grind [State.orEntry, Kept, Kept.homeRead, Kept.homeWrite]

theorem Kept.walk2 (h : Kept s) : Kept (s.walk2 asid table ia ls).2 := by
  induction ls generalizing s table with
  | nil => exact h
  | cons lvl ls ih => grind [State.walk2, Kept.homeRead]

theorem Kept.readIa (h : Kept s) : Kept (s.readIa asid ia spec).2 := by
  grind [State.readIa, Kept, Kept.walk2, Kept.orEntry]

theorem Kept.walk1 (h : Kept s) : Kept (s.walk1 asid table va spec ls).2 := by
  induction ls generalizing s table with
  | nil => exact h
  | cons lvl ls ih => grind [State.walk1, Kept.readIa, Kept.homeRead]

theorem Kept.walk (h : Kept s) : Kept (s.walk cluster asid va acc spec).2 := by
  unfold State.walk
  dsimp only
  split
  · grind [Kept.walk1]
  · split
    · grind [Kept.walk1]
    · grind [Kept.walk1, Kept.walk2, Kept.orEntry, Kept]

theorem Kept.xlate (h : Kept s) : Kept (s.xlate cluster asid va acc spec).2 := by
  unfold State.xlate
  split
  · exact h
  · split
    · exact h
    · exact h.walk

theorem Kept.stallFor (h : Kept s) : Kept (s.stallFor asid) := by
  unfold State.stallFor
  split <;> exact h

theorem Kept.irrevocable (h : Kept s) : Kept (s.irrevocable asid) := by
  unfold State.irrevocable
  split
  · exact h.postOnce.stallFor
  · exact h

theorem Kept.ctxWrite (h : Kept s) (e : s.ctxWrite cluster asid sc n va bs = .ok t) : Kept t := by
  induction n generalizing s va bs with
  | zero => grind [State.ctxWrite]
  | succ n ih => grind [State.ctxWrite, Kept.xlate, Kept.homeWrite]

theorem Kept.ctxRead (h : Kept s) : Kept (s.ctxRead cluster asid sc fuel va n).2 := by
  induction fuel generalizing s va n with
  | zero => exact h
  | succ fuel ih => grind [State.ctxRead, Kept.xlate, Kept.homeRead]

theorem Kept.newFault (h : Kept s) : Kept (s.newFault asid src va access f resp tid wg tag redo).2 := by
  unfold State.newFault
  dsimp only
  split <;> exact h

theorem Kept.deviceFault (h : Kept s) : Kept (s.deviceFault asid src va access f redo) := by
  unfold State.deviceFault
  split
  · exact h
  · exact h.newFault

theorem Kept.undoTry (h : Kept s) (e : s.undoTry cluster asid va line = .ok t) : Kept t := by
  grind [State.undoTry, Kept, Kept.postOnce, Kept.ctxWrite, Kept.wreg]

theorem Kept.undoNote (h : Kept s) : Kept (s.undoNote cluster asid va line) := by
  grind [State.undoNote, Kept.undoTry]

theorem Kept.undoGate (h : Kept s) : Kept (s.undoGate cluster asid va line redo).2 := by
  grind [State.undoGate, Kept.undoTry, Kept.postOnce, Kept.deviceFault]

theorem Kept.undoBefore (h : Kept s) : Kept (s.undoBefore cluster asid va redo).2 := by
  unfold State.undoBefore
  split
  · exact h
  · split
    · exact h
    · exact h.undoGate

theorem Kept.undoSpan (h : Kept s) : Kept (s.undoSpan cluster asid va n redo).2 :=
  Kept.foldSnd h fun r _ hr => by grind [Kept.undoBefore]

theorem Kept.updL1 (h : Kept s) : Kept (s.updL1 c asid va f) := h

theorem Kept.writeBack (h : Kept s) : Kept (s.writeBack l sc) := by
  unfold State.writeBack
  split
  · exact h
  · exact (h.updL1.over fun _ _ h => h.homeWrite)

theorem Kept.l1Drop (h : Kept s) : Kept (s.l1Drop l sc) := h.writeBack

theorem Kept.release (h : Kept s) : Kept (s.release c asid sc) := by
  unfold State.release
  split
  · exact h
  · split
    · exact (h.over fun _ _ h => h.writeBack).rdcSync
    · exact (h.over fun _ _ h => h.writeBack)

theorem Kept.acquire (h : Kept s) : Kept (s.acquire c asid sc) := by
  unfold State.acquire
  split
  · exact h
  · split
    · exact (h.over fun _ _ h => h.l1Drop).rdcSync
    · exact (h.over fun _ _ h => h.l1Drop)

theorem Kept.l1Stale (h : Kept s) : Kept (s.l1Stale c asid va base) := h.over fun _ _ h => h.l1Drop

theorem Kept.l1Room (h : Kept s) : Kept (s.l1Room c) := by
  grind [State.l1Room, Kept, Kept.l1Drop]

theorem Kept.l1Fill (h : Kept s) : Kept (s.l1Fill c asid va key w sc) := by
  grind [State.l1Fill, Kept, Kept.l1Stale, Kept.writeBack, Kept.homeRead, Kept.updL1, Kept.l1Room]

theorem Kept.l1Load (h : Kept s) : Kept (s.l1Load c asid va n sc).2 := by
  grind [State.l1Load, Kept, Kept.xlate, Kept.l1Fill]

theorem Kept.l1Grant (h : Kept s) : Kept (s.l1Grant c asid va acc).2 := by
  unfold State.l1Grant
  split
  · split
    · exact h
    · exact h.xlate
  · exact h.xlate

theorem Kept.lineSeen (h : Kept s) : Kept (s.lineSeen c asid va key).2 := by
  unfold State.lineSeen
  split
  · exact h
  · exact h.homeRead

theorem Kept.l1Out (h : Kept s) : Kept (s.l1Out c asid va line) := h.over fun _ _ h => h.l1Drop

theorem Kept.l1Store (h : Kept s) : Kept (s.l1Store c asid va bs sc).2 := by
  grind [State.l1Store, Kept, Kept.l1Grant, Kept.lineSeen, Kept.undoNote, Kept.l1Fill, Kept.updL1, Kept.l1Out, Kept.homeWrite]

/-! ## Threads and workgroups -/

theorem Kept.zeroDepth (h : Kept s) : Kept (s.zeroDepth wg sd) := by
  unfold State.zeroDepth
  split
  · split
    · exact h
    · exact h.updWg
  · exact h

theorem Kept.newGroup (h : Kept s) : Kept (s.newGroup c wg).2 := by
  grind [State.newGroup, Kept, Kept.newId]

theorem Kept.addThread (h : Kept s) : Kept (s.addThread wg gid lane sd) := by
  grind [State.addThread, Kept, Kept.newId]

theorem Kept.pruneGroups (h : Kept s) : Kept (s.pruneGroups) := h

theorem Kept.binPut (h : Kept s) : Kept (s.binPut c num unit) := by
  grind [State.binPut, Kept, Kept.postOnce]

theorem Kept.tileBegins (h : Kept s) : Kept (s.tileBegins wg unit) := by
  unfold State.tileBegins
  split <;> exact h

theorem Kept.binAccept (h : Kept s) (e : s.binAccept c wg entry unit = some t) : Kept t := by
  grind [State.binAccept, Kept, Kept.tileBegins, Kept.binPut, Kept.newId]

theorem Kept.ringPause (h : Kept s) : Kept (s.ringPause wg asid va access f) := h.updWg.deviceFault

theorem Kept.ringWrite (h : Kept s) : Kept (s.ringWrite wg) := by
  unfold State.ringWrite
  split
  · refine h.over fun s p h => ?_
    grind [Kept.undoSpan, Kept.updWg, Kept.ctxWrite, Kept.ringPause]
  · exact h

theorem Kept.placeUnit (h : Kept s) : Kept (s.placeUnit wg entry unit) := by
  grind [State.placeUnit, Kept, Kept.over, Kept.zeroDepth, Kept.fatal, Kept.postOnce, Kept.ringWrite, Kept.updWg, Kept.binAccept]

theorem Kept.ringRead (h : Kept s) (e : s.ringRead w l n i = .ok t) : Kept t := by
  induction n generalizing s i with
  | zero => grind [State.ringRead]
  | succ n ih => grind [State.ringRead, Kept.ctxRead]

theorem Kept.execRingUnitMove (h : Kept s) (e : execRingUnitMove wg s = .next t) : Kept t := by
  have h0 : Kept ((s.updWg wg fun w => { w with paused := false }).ringWrite wg) := h.updWg.ringWrite
  cases e
  dsimp only
  generalize (s.updWg wg fun w => { w with paused := false }).ringWrite wg = s0 at h0
  split
  · exact h
  · split
    · split
      · exact h0
      · split
        · exact h0
        · split
          · exact h0.ringPause
          · next e => 
            have h1 := h0.ringRead e
            grind [Kept.binAccept, Kept.updWg, Kept.postOnce]
    · exact h0

theorem Kept.execBinLaunch (h : Kept s) (e : execBinLaunch c bin s = .next t) : Kept t := by
  grind [execBinLaunch, Kept, Kept.newGroup, Kept.over, Kept.addThread, Kept.coreFreed]

theorem Kept.execBinTimerExpiry (h : Kept s) (e : execBinTimerExpiry c bin s = .next t) : Kept t := by
  grind [execBinTimerExpiry, Kept, Kept.postOnce]

theorem Kept.updGen (h : Kept s) : Kept (s.updGen k f) := h

theorem Kept.openGen (h : Kept s) : Kept (s.openGen k) := by
  unfold State.openGen
  split <;> exact h

theorem Kept.barRelease (h : Kept s) : Kept (s.barRelease k uid) := by
  unfold State.barRelease
  split
  · exact h
  · exact h.updThr.acquire

theorem Kept.seqWake (h : Kept s) : Kept (s.seqWake k) := by
  unfold State.seqWake
  split
  · exact h.updSeq
  · exact h

theorem Kept.genCheck (h : Kept s) : Kept (s.genCheck k n) := by
  induction n generalizing s with
  | zero => exact h
  | succ n ih =>
      have wake : ∀ {gs us}, Kept ((({ s with gens := gs } : State).over us fun s u => s.barRelease k u).seqWake k) := fun {gs} _ =>
        Kept.seqWake (Kept.over (s := { s with gens := gs }) h fun _ _ h => h.barRelease)
      grind [State.genCheck, Kept.openGen, Kept.updGen]

theorem Kept.arrive (h : Kept s) : Kept (s.arrive k uid) := h.openGen.updGen.updThr.genCheck

theorem Kept.leaveGens (h : Kept s) : Kept (s.leaveGens uid) := by
  grind [State.leaveGens, Kept, Kept.over, Kept.genCheck]

theorem Kept.closeRound (h : Kept s) : Kept (s.closeRound wg) := by
  grind [State.closeRound, Kept.updWg, Kept.over, Kept.updThr, Kept.foldSnd, Kept.newGroup, Kept.coreFreed, Kept.pruneGroups, Kept]

theorem Kept.roundCheck (h : Kept s) : Kept (s.roundCheck wg) := by
  unfold State.roundCheck
  split
  · exact h
  · split
    · exact h.closeRound
    · exact h

theorem Kept.reorderArrive (h : Kept s) : Kept (s.reorderArrive uid) := by
  grind [State.reorderArrive, Kept, Kept.takeTrap, Kept.roundCheck, Kept.updWg, Kept.updThr]

theorem Kept.execReorderTimerExpiry (h : Kept s) (e : execReorderTimerExpiry wg s = .next t) : Kept t := by
  cases e
  split
  · exact h.closeRound
  · exact h

theorem Kept.setQb (h : Kept s) : Kept (s.setQb wg q b) := h.updWg

theorem Kept.mailFlush (h : Kept s) : Kept (s.mailFlush wg) := by
  unfold State.mailFlush
  split
  · exact h
  · split
    · exact h.updSeq
    · exact h.setQb.updSeq

theorem Kept.mailPush (h : Kept s) : Kept (s.mailPush wg w) := h.updSeq.mailFlush

theorem Kept.wgCheck (h : Kept s) : Kept (s.wgCheck wg) := by
  grind [State.wgCheck, Kept, Kept.mailPush, Kept.updSeq, Kept.release, Kept.updWg, Kept.post, Kept.coreFreed]

theorem Kept.tileCheck (h : Kept s) : Kept (s.tileCheck wg tile) := by
  unfold State.tileCheck
  repeat' split
  all_goals exact h

theorem Kept.removeThread (h : Kept s) : Kept (s.removeThread uid) := by
  grind [State.removeThread, Kept, Kept.updWg, Kept.leaveGens, Kept.pruneGroups, Kept.roundCheck]

theorem Kept.dropTxLanes (h : Kept s) : Kept (s.dropTxLanes t') := by
  unfold State.dropTxLanes
  split <;> exact h

theorem Kept.endThread (h : Kept s) : Kept (s.endThread uid) := by
  grind [State.endThread, Kept, Kept.dropTxLanes, Kept.coreFreed, Kept.wgCheck, Kept.tileCheck, Kept.removeThread]

/-! ## Accesses -/

theorem Kept.locWrite (h : Kept s) : Kept (s.locWrite p bs) := h.updWg

theorem Kept.beforeWrite (h : Kept s) : Kept (s.beforeWrite c asid va key) := by
  grind [State.beforeWrite, Kept, Kept.lineSeen, Kept.undoNote]

theorem Kept.gAtomic (h : Kept s) : Kept (s.gAtomic c asid va op ty b e' sc).2 := by
  grind [State.gAtomic, Kept, Kept.l1Grant, Kept.beforeWrite, Kept.l1Fill, Kept.updL1, Kept.l1Out, Kept.homeRead, Kept.homeWrite]

theorem Kept.rdmDirect (h : Kept s) : Kept (s.rdmDirect asid key op ty els sc) := by
  grind [State.rdmDirect, Kept, Kept.over, Kept.homeRead, Kept.homeWrite]

theorem Kept.shadowReady (h : Kept s) : Kept (s.shadowReady line ty) := by
  unfold State.shadowReady
  split
  · exact h.fold
  · exact h

theorem Kept.rdmEls (h : Kept s) : Kept (s.rdmEls asid key op ty els) := by
  grind [State.rdmEls, Kept, Kept.rdmDirect, Kept.l2Fill, Kept.shadowReady, Kept.touched]

theorem Kept.rdmAt (h : Kept s) : Kept (s.rdmAt asid key op ty v) := h.rdmEls

theorem Kept.gRdm (h : Kept s) : Kept (s.gRdm c asid va op ty v).2 := by
  grind [State.gRdm, Kept, Kept.l1Grant, Kept.l1Out, Kept.beforeWrite, Kept.rdmAt]

theorem Kept.txLoad (h : Kept s) : Kept (s.txLoad t' x c asid va n sc).2 := by
  grind [State.txLoad, Kept, Kept.l1Load, Kept.irrevocable, Kept.updThr]

theorem Kept.txStore (h : Kept s) : Kept (s.txStore t' x c asid va bs keep).2 := by
  grind [State.txStore, Kept, Kept.l1Grant, Kept.updThr]

theorem Kept.afterAccess (h : Kept s) : Kept (s.afterAccess c asid va x uid sc write) := by
  grind [State.afterAccess, Kept, Kept.xlate, Kept.updThr, Kept.irrevocable]

theorem Kept.doLd (h : Kept s) : Kept (s.doLd o l d acq sc sz).2 := by
  grind [State.doLd, Kept, Kept.l1Load, Kept.afterAccess, Kept.txLoad, Kept.acquire]

theorem Kept.doSt (h : Kept s) : Kept (s.doSt o l rel sc sz).2 := by
  grind [State.doSt, Kept, Kept.txStore, Kept.release, Kept.l1Store, Kept.afterAccess]

theorem Kept.doAtm (h : Kept s) : Kept (s.doAtm o l d op ty sc ord).2 := by
  unfold State.doAtm
  dsimp only
  split
  · grind [Kept.txLoad, Kept.txStore]
  · grind [Kept.gAtomic, Kept.afterAccess, Kept.acquire, Kept.release]

theorem Kept.offBunting (h : Kept s) (hr : Kept r.2) : Kept (s.offBunting o l vas r).2 := by
  grind [State.offBunting]

theorem Kept.doLocal (h : Kept s) (hf : ∀ p, Kept (f p s).2) : Kept (s.doLocal l f).2 := by
  grind [State.doLocal]

theorem Kept.countNoShadow (h : Kept s) : Kept (s.countNoShadow o slice) := by
  unfold State.countNoShadow
  split
  · exact h
  · split
    · exact h
    · exact h.bump.setOp

theorem Kept.doRdm (h : Kept s) : Kept (s.doRdm o l op ty sc rel).2 := by
  grind [State.doRdm, Kept, Kept.release, Kept.offBunting, Kept.gRdm, Kept.afterAccess, Kept.countNoShadow]

theorem Kept.launchOp (h : Kept s) : Kept (s.launchOp o d lanes) := by
  grind [State.launchOp, Kept, Kept.newId, Kept.post]

/-! ## Writes of the device -/

theorem Kept.scount (h : Kept s) : Kept (s.scount slot o n) := h.wreg

theorem Kept.putEntry (h : Kept s) : Kept (s.putEntry cl asid rid page level kind frame).2 := by
  grind [State.putEntry, Kept, Kept.setBit, Kept.bump, Kept.irq, Kept.ctxWrite, Kept.wreg]

theorem Kept.putMiss (h : Kept s) : Kept (s.putMiss slot fe asid ring cap bs).2 := by
  unfold State.putMiss
  dsimp only
  split
  · exact h.scount
  · split
    · exact h
    · exact h.scount
    · next c s1 hr =>
      have h1 : Kept s1 := by grind [Kept.ctxRead]
      split
      · grind [Kept.ctxWrite, Kept.scount]
      · split
        · exact h
        · exact h.scount
        · next s2 hw =>
          have h2 := h1.ctxWrite hw
          split
          · exact h
          · exact h.scount
          · next s3 hw => exact (h2.ctxWrite hw).scount.irq.boxPut

theorem Kept.ringBytes (h : Kept s) (e : s.ringBytes asid base wr bs = .ok t) : Kept t := by
  induction bs generalizing s wr with
  | nil => grind [State.ringBytes]
  | cons b bs ih => grind [State.ringBytes, Kept.ctxWrite]

theorem Kept.dropObus (h : Kept s) : Kept (s.dropObus e' asid base) := by
  grind [State.dropObus, Kept, Kept.ctxRead, Kept.ctxWrite]

theorem Kept.putObus (h : Kept s) : Kept (s.putObus e asid base obus).2 := by
  unfold State.putObus
  dsimp only
  split
  · exact h
  · exact h.dropObus
  · next c s1 hr =>
    have h1 : Kept s1 := by grind [Kept.ctxRead]
    split
    · exact h1.dropObus
    · split
      · exact h
      · exact h1.dropObus
      · next s2 hw =>
        have h2 := h1.ringBytes hw
        grind [Kept.ctxWrite, Kept.dropObus]

theorem Kept.devTry (h : Kept s) : Kept (s.devTry w).2 := by
  cases w
  · exact h.putEntry
  · exact h.putMiss
  · exact h.putObus

theorem Kept.devLost (h : Kept s) : Kept (s.devLost w) := by
  cases w
  · exact h.bump
  · exact h.scount
  · exact h.dropObus

theorem Kept.devWrite (h : Kept s) : Kept (s.devWrite w) := by
  grind [State.devWrite, Kept, Kept.devTry, Kept.newFault]

theorem Kept.devAnswer (h : Kept s) : Kept (s.devAnswer ring granted) := by
  grind [State.devAnswer, Kept, Kept.over, Kept.devWrite, Kept.devLost]

theorem Kept.feedback (h : Kept s) : Kept (s.feedback c asid rid page level kind) := h.devWrite

/-! ## Levels of detail -/

theorem Kept.readSpec (h : Kept s) : Kept (s.readSpec c asid fuel va n).2 := by
  induction fuel generalizing s va n with
  | zero => exact h
  | succ fuel ih => grind [State.readSpec, Kept.xlate, Kept.homeRead]

theorem Kept.lodDesc (h : Kept s) : Kept (s.lodDesc c asid va).2 := by
  grind [State.lodDesc, Kept, Kept.readSpec]

theorem Kept.lodRequest (h : Kept s) : Kept (s.lodRequest c asid d req helper foot).2 := by
  grind [State.lodRequest, Kept.feedback, Kept.over, Kept.foldSnd, Kept.readSpec]

theorem Kept.doLdlod (h : Kept s) : Kept (s.doLdlod o l d lvl lreg e' sz).2 := by
  grind [State.doLdlod, Kept, Kept.lodDesc, Kept.offBunting, Kept.lodRequest]

theorem Kept.doSample (h : Kept s) : Kept (s.doSample o l d fmt bilin).2 := by
  grind [State.doSample, Kept, Kept.lodDesc, Kept.offBunting, Kept.lodRequest]

/-! ## Rays -/

theorem Kept.l1Range (h : Kept s) : Kept (s.l1Range c asid fuel va n).2 := by
  induction fuel generalizing s va n with
  | zero => exact h
  | succ fuel ih => grind [State.l1Range, Kept.l1Load]

theorem Kept.afterRange (h : Kept s) : Kept (s.afterRange o l n) := h.afterAccess.afterAccess

theorem Kept.doRbox (h : Kept s) : Kept (s.doRbox o l d).2 := by
  grind [State.doRbox, Kept, Kept.offBunting, Kept.l1Range, Kept.afterRange]

theorem Kept.doRtri (h : Kept s) : Kept (s.doRtri o l d cull).2 := by
  grind [State.doRtri, Kept, Kept.offBunting, Kept.l1Range, Kept.afterRange]

/-! ## Operations that perform -/

theorem Kept.doCpltest (h : Kept s) : Kept (s.doCpltest o l d sc).2 := by
  grind [State.doCpltest, Kept, Kept.offBunting, Kept.l1Load, Kept.acquire, Kept.afterAccess]

theorem Kept.doAccess (h : Kept s) : Kept (s.doAccess o l).2 := by
  grind [State.doAccess, Kept, Kept.doLd, Kept.doSt, Kept.doLocal, Kept.locWrite, Kept.doLdlod, Kept.doSample, Kept.doAtm, Kept.doRdm,
    Kept.doCpltest, Kept.doRbox, Kept.doRtri]

theorem Kept.doTx (h : Kept s) : Kept (s.doTx o l).2 := by
  unfold State.doTx
  split
  · exact h.doLd
  · exact h.doSt
  · exact h.doAtm
  · exact h

theorem Kept.joinLane (h : Kept s) : Kept (s.joinLane o t' l).2 := by
  grind [State.joinLane, Kept, Kept.retry, Kept.updThr, Kept.doAccess, Kept.leaves, Kept.abortTx, Kept.doTx]

theorem Kept.memIssue (h : Kept s) : Kept (s.memIssue ts i cls os d mk) := by
  refine Kept.launchOp (Kept.foldFst h fun r x hr => ?_)
  dsimp only
  split
  · exact hr.trapHere
  · exact hr.trapPoison
  · exact hr.trapHere
  · exact hr.illegalInTx
  · exact hr.joinLane

theorem Kept.finishLane (h : Kept s) : Kept (s.finishLane o l outs) := by
  grind [State.finishLane, Kept, Kept.updThr, Kept.setOp, Kept.reorderArrive, Kept.unhold, Kept.wgCheck, Kept.tileCheck]

theorem Kept.markLane (h : Kept s) : Kept (s.markLane n uid f) := h.setOp

theorem Kept.accGate (h : Kept s) : Kept (s.accGate o l).2 := by
  grind [State.accGate, Kept, Kept.xlate, Kept.undoGate, Kept.lineSeen]

theorem Kept.actLane (h : Kept s) : Kept (s.actLane o l) := by
  grind [State.actLane, Kept, Kept.accGate, Kept.doAccess, Kept.finishLane, Kept.abortTx, Kept.newFault, Kept.markLane]

theorem Kept.stepLane (h : Kept s) : Kept (s.stepLane n uid lane) := by
  unfold State.stepLane
  split
  · exact h
  · split
    · exact h
    · split
      · exact h
      · split
        · exact h.finishLane
        · split
          · exact h.markLane
          · exact h.actLane

theorem Kept.performOp (h : Kept s) : Kept (s.performOp n) := by
  unfold State.performOp
  split
  · exact h
  · exact (h.over fun _ _ h => h.stepLane)

/-! ## Sequencers -/

theorem Kept.seqDetach (h : Kept s) : Kept (s.seqDetach wg) := by
  grind [State.seqDetach, Kept, Kept.over, Kept.genCheck]

theorem Kept.seqStart (h : Kept s) : Kept (s.seqStart wg) := h.updSeq

theorem Kept.seqEnd (h : Kept s) : Kept (s.seqEnd wg) := by
  grind [State.seqEnd, Kept, Kept.seqDetach, Kept.updSeq, Kept.reorderArrive, Kept.updThr, Kept.mailPush, Kept.post, Kept.wgCheck]

theorem Kept.seqTrap (h : Kept s) : Kept (s.seqTrap wg cause pc) := h.updSeq.seqDetach.mailPush.wgCheck

theorem Kept.seqArrive (h : Kept s) : Kept (s.seqArrive wg b n' waits) := by
  grind [State.seqArrive, Kept, Kept.updSeq, Kept.updGen, Kept.openGen, Kept.genCheck]

/-! ## Faults -/

theorem Kept.updFault (h : Kept s) : Kept (s.updFault n f) := h

theorem Kept.prqDone (h : Kept s) : Kept (s.prqDone n) := by
  grind [State.prqDone, Kept, Kept.posts]

theorem Kept.logAccess (h : Kept s) : Kept (s.logAccess t0 i slot l) := by
  grind [State.logAccess, Kept, Kept.takeTrap, Kept.freeWords, Kept.updThr, Kept.newId]

theorem Kept.failWait (h : Kept s) : Kept (s.failWait uid) := by
  unfold State.failWait
  split
  · exact h
  · split
    · exact h.updThr.logAccess
    · exact h

theorem Kept.failLanes (h : Kept s) : Kept (s.failLanes op f) := by
  grind [State.failLanes, Kept, Kept.over, Kept.logAccess, Kept.finishLane]

theorem Kept.cmdFault (h : Kept s) : Kept (s.cmdFault n) := h.updCmd.post

theorem Kept.nodeFault (h : Kept s) : Kept (s.nodeFault g n) := h.updGraph.post

theorem Kept.graphFault (h : Kept s) : Kept (s.graphFault g) := h.updGraph.post

theorem Kept.entryFault (h : Kept s) : Kept (s.entryFault fe q) := h.wreg.wreg.postOnce

theorem Kept.refuse (h : Kept s) : Kept (s.refuse r) := by
  grind [State.refuse, Kept, Kept.fatalAt, Kept.seqTrap, Kept.cmdFault, Kept.graphFault, Kept.entryFault, Kept.nodeFault, Kept.posts,
    Kept.devAnswer]

theorem Kept.walkAgain (h : Kept s) : Kept (s.walkAgain r) := by
  grind [State.walkAgain, Kept, Kept.setOp, Kept.post, Kept.posts, Kept.updCmd, Kept.updSeq, Kept.devAnswer]

theorem Kept.faultHeld (h : Kept s) : Kept (s.faultHeld r) := by
  grind [State.faultHeld, Kept, Kept.updFault, Kept.failLanes, Kept.over, Kept.failWait, Kept.post]

theorem Kept.faultTry (h : Kept s) : Kept (s.faultTry r) := by
  grind [State.faultTry, Kept, Kept.faultHeld, Kept.bump, Kept.updFault]

theorem Kept.execAccessFault (h : Kept s) (e : execAccessFault f s = .next t) : Kept t := by
  cases e
  split
  · split
    · exact h.faultTry
    · exact h
  · exact h

theorem Kept.execPrqEntryGrant (h : Kept s) (e : execPrqEntryGrant f s = .next t) : Kept t := by
  cases e
  split
  · split
    · exact h.faultTry
    · exact h
  · exact h

theorem Kept.feFault (h : Kept s) : Kept (s.feFault asid src va access f redo) := by
  unfold State.feFault
  split
  · exact h
  · exact h.deviceFault

theorem Kept.execFaultRecordWrite (h : Kept s) (e : execFaultRecordWrite f s = .next t) : Kept t := by
  cases e
  dsimp only
  split
  · exact h
  · split
    · exact h
    · split
      · exact h.prqDone.fatal
      · split
        · exact h
        · split
          · grind [Kept.xlate, Kept.newFault]
          · grind [Kept.xlate, Kept.prqDone, Kept.fatal]
          · next s1 hx =>
            have h1 : Kept s1 := by grind [Kept.xlate]
            split
            · exact h1.prqDone.fatal
            · next s2 hw =>
              have h2 := h1.ctxWrite hw
              refine Kept.posts ?_
              split
              · exact Kept.updFault (by split; exacts [h2.wreg.irq, h2.wreg])
              · exact Kept.prqDone (by split; exacts [h2.wreg.irq, h2.wreg])

theorem Kept.execPageRequestRetry (h : Kept s) (e : execPageRequestRetry fe token s = .next t) : Kept t := by
  cases e
  split
  · exact h.prqDone.walkAgain
  · exact h

theorem Kept.execPageRequestRefuse (h : Kept s) (e : execPageRequestRefuse fe token s = .next t) : Kept t := by
  cases e
  split
  · exact h.prqDone.refuse
  · exact h

theorem Kept.execStage2Resolve (h : Kept s) (e : execStage2Resolve f s = .next t) : Kept t := by
  cases e
  split
  · split
    · exact h.prqDone.walkAgain
    · exact h
  · exact h

theorem Kept.execStage2Refused (h : Kept s) (e : execStage2Refused f s = .next t) : Kept t := by
  cases e
  split
  · split
    · exact h.prqDone.refuse
    · exact h
  · exact h

/-! ## Memory instructions -/

theorem Kept.execLd (h : Kept s) (e : execLd g d a acq sc sz s = .next t) : Kept t := h.issued h.memIssue e

theorem Kept.execSt (h : Kept s) (e : execSt g v a rel sc sz s = .next t) : Kept t := h.issued h.memIssue e

theorem Kept.execLsp (h : Kept s) (e : execLsp g d a sz s = .next t) : Kept t := h.issued h.memIssue e

theorem Kept.execSsp (h : Kept s) (e : execSsp g v a sz s = .next t) : Kept t := h.issued h.memIssue e

theorem Kept.execLdlod (h : Kept s) (e : execLdlod g d a b lvl lreg e' sz s = .next t) : Kept t := h.issued h.memIssue e

theorem Kept.execSample (h : Kept s) (e : execSample g d a b fmt bilin e' s = .next t) : Kept t := h.issued h.memIssue e

theorem Kept.helperZero (h : Kept s) : Kept (s.helperZero g d w) := h.over fun _ _ h => h.updThr

theorem Kept.execAtm (h : Kept s) (e : execAtm g d a b op ty sc ord e' s = .next t) : Kept t := h.issued h.helperZero.memIssue e

theorem Kept.execAtms (h : Kept s) (e : execAtms g d a b op ty e' s = .next t) : Kept t := h.issued h.helperZero.memIssue e

theorem Kept.execRdm (h : Kept s) (e : execRdm g a b op ty sc rel s = .next t) : Kept t := h.issued h.memIssue e

theorem Kept.execVbmin (h : Kept s) (e : execVbmin g a b s = .next t) : Kept t := h.issued h.memIssue e

theorem Kept.prefetch (h : Kept s) : Kept (s.prefetch c asid va l2 p) := by
  grind [State.prefetch, Kept, Kept.l2Fill, Kept.l1Fill]

theorem Kept.execPref (h : Kept s) (e : execPref g a l2 s = .next t) : Kept t := by
  grind [execPref, Kept, Kept.issued, Kept.eachLane, Kept.prefetch, Kept.xlate, Kept.bump]

theorem Kept.execFence (h : Kept s) (e : execFence g k sc s = .next t) : Kept t := by
  grind [execFence, Kept, Kept.issued, Kept.eachLane, Kept.illegalInTx, Kept.retry, Kept.acquire, Kept.release]

theorem Kept.unpark (h : Kept s) : Kept (s.unpark uid) := h.updThr

theorem Kept.monReturn (h : Kept s) : Kept (s.monReturn uid full) := h.updThr

theorem Kept.waitRead (h : Kept s) : Kept (s.waitRead c asid va n sc).2 := by
  grind [State.waitRead, Kept, Kept.l1Load, Kept.acquire, Kept.irrevocable]

theorem Kept.freshen (h : Kept s) : Kept (s.freshen c asid va pa) := by
  unfold State.freshen
  split
  · exact h.l1Out.rdcDrop
  · exact h

theorem Kept.waitFault (h : Kept s) : Kept (s.waitFault t' asid va want i slot f redo) := by
  grind [State.waitFault, Kept, Kept.newFault, Kept.updThr]

theorem Kept.monStart (h : Kept s) : Kept (s.monStart t' c asid va want sc i slot) := by
  grind [State.monStart, Kept, Kept.waitRead, Kept.waitFault, Kept.monReturn, Kept.updThr]

theorem Kept.cplStart (h : Kept s) : Kept (s.cplStart t' c asid va want sc ext i slot) := by
  grind [State.cplStart, Kept, Kept.waitRead, Kept.waitFault, Kept.unpark, Kept.updThr]

theorem Kept.waitIssue (h : Kept s) (hs : Kept (start s)) : Kept (s.waitIssue t' addr al start) := by
  grind [State.waitIssue, Kept.illegalInTx, Kept.trapHere, Kept.retry]

theorem Kept.execMonwait (h : Kept s) (e : execMonwait g v a' sc s = .next t) : Kept t :=
  h.issued (h.consuming fun _ _ h => h.waitIssue h.monStart) e

theorem Kept.execCplwait (h : Kept s) (e : execCplwait g v a' ext sc s = .next t) : Kept t :=
  h.issued (h.consuming fun _ _ h => h.waitIssue h.cplStart) e

theorem Kept.execCpltest (h : Kept s) (e : execCpltest g d a sc s = .next t) : Kept t := h.issued h.memIssue e

theorem Kept.pollAll (h : Kept s) (hf : ∀ s x, Kept s → Kept (f s x)) : Kept (s.pollAll uid ev f) := by
  unfold State.pollAll
  split
  · exact h
  · dsimp only
    split
    · exact h
    · exact Kept.over h hf

theorem Kept.monPoll (h : Kept s) : Kept (s.monPoll uid) := by
  grind [State.monPoll, Kept, Kept.waitRead, Kept.freshen, Kept.monReturn, Kept.updThr, Kept.waitFault, Kept.monStart, Kept.unpark]

theorem Kept.execMonwaitPoll (h : Kept s) (e : execMonwaitPoll uid s = .next t) : Kept t := Kept.next (h.pollAll fun _ _ h => h.monPoll) e

theorem Kept.cplPoll (h : Kept s) : Kept (s.cplPoll uid) := by
  unfold State.cplPoll
  split
  · exact h
  · split
    · exact h.freshen.unpark.cplStart
    · exact h.unpark.cplStart
    · exact h

theorem Kept.execCplwaitPoll (h : Kept s) (e : execCplwaitPoll uid s = .next t) : Kept t := Kept.next (h.pollAll fun _ _ h => h.cplPoll) e

theorem Kept.execRbox (h : Kept s) (e : execRbox g d a b s = .next t) : Kept t := h.issued h.memIssue e

theorem Kept.execRtri (h : Kept s) (e : execRtri g d a b cull s = .next t) : Kept t := h.issued h.memIssue e

theorem Kept.rstk (h : Kept s) : Kept (s.rstk g i cls d os f) := by
  unfold State.rstk
  split
  · exact h
  · refine Kept.launchOp (Kept.foldFst (h.over fun _ _ h => h.retry) fun r x hr => ?_)
    grind [Kept.trapPoison, Kept.retry, Kept.trapHere, Kept.locWrite, Kept.updThr]

theorem Kept.execRstkPush (h : Kept s) (e : execRstkPush g a s = .next t) : Kept t := h.issued h.rstk e

theorem Kept.execRstkPop (h : Kept s) (e : execRstkPop g d s = .next t) : Kept t := h.issued h.rstk e

theorem Kept.execRstkDepth (h : Kept s) (e : execRstkDepth g d s = .next t) : Kept t := h.issued h.rstk e

theorem Kept.execRstkClear (h : Kept s) (e : execRstkClear g s = .next t) : Kept t := h.issued h.rstk e

theorem Kept.execTxbegin (h : Kept s) (e : execTxbegin g off s = .next t) : Kept t := by
  grind [execTxbegin, Kept, Kept.issued, Kept.eachLane, Kept.illegalInTx, Kept.retry, Kept.updThr]

theorem Kept.execTxend (h : Kept s) (e : execTxend g s = .next t) : Kept t := by
  refine h.issued (Kept.foldFst h fun r x h => ?_) e
  grind [Kept.trapHere, Kept.retry, Kept.release, Kept.acquire, Kept.updThr, Kept.abortTx, Kept.leaves, Kept.post, Kept]

theorem Kept.txValid (h : Kept s) : Kept (s.txValid asid rs).2 := by
  induction rs generalizing s with
  | nil => exact h
  | cons r rs ih => grind [State.txValid, Kept.homeRead]

theorem Kept.txGate (h : Kept s) : Kept (s.txGate c asid redo ws).2 := by
  induction ws generalizing s with
  | nil => exact h
  | cons w ws ih => grind [State.txGate, Kept.undoGate]

theorem Kept.txCommit (h : Kept s) : Kept (s.txCommit c asid x) := (h.release.over fun _ _ h => (h.beforeWrite.over fun _ _ h => h.homeWrite)).acquire

theorem Kept.txOutcome (h : Kept s) : Kept (s.txOutcome uid) := by
  unfold State.txOutcome
  split
  · exact h
  · split
    · dsimp only
      split
      · exact h.abortTx
      · split
        · grind [Kept.txValid, Kept.txGate, Kept.txCommit, Kept.updThr, Kept.irrevocable]
        · grind [Kept.txValid, Kept.abortTx]
    · exact h

theorem Kept.execTxValidation (h : Kept s) (e : execTxValidation uid s = .next t) : Kept t := by
  cases e
  split
  · exact h.post
  · exact h.txOutcome

theorem Kept.execTxctlAbort (h : Kept s) (e : execTxctlAbort g s = .next t) : Kept t := by
  grind [execTxctlAbort, Kept, Kept.issued, Kept.eachLane, Kept.trapHere, Kept.leaves, Kept.abortTx]

theorem Kept.execTxctlTest (h : Kept s) (e : execTxctlTest g d s = .next t) : Kept t := h.issued (h.eachLane fun _ _ h => h.updThr) e

theorem Kept.execL1DirtyTimeout (h : Kept s) (e : execL1DirtyTimeout c asid line s = .next t) : Kept t := by
  cases e
  split
  · exact h.writeBack
  · exact h

theorem Kept.execL1NarrowTimeout (h : Kept s) (e : execL1NarrowTimeout c asid line s = .next t) : Kept t := by
  cases e
  split
  · split
    · exact h.l1Drop
    · exact h
  · exact h

theorem Kept.execL2Eviction (h : Kept s) (e : execL2Eviction line s = .next t) : Kept t := by
  cases e
  split
  · exact h.l2Evict
  · exact h

/-! ## Control flow -/

theorem Kept.jump (h : Kept s) : Kept (s.jump uid a) := h.updThr

theorem Kept.link (h : Kept s) : Kept (s.link uid) := h.updThr

theorem Kept.toTarget (h : Kept s) (hf : Kept (f s)) : Kept (s.toTarget t' a f) := by
  grind [State.toTarget, Kept.trapHere]

theorem Kept.execJmp (h : Kept s) (e : execJmp g off s = .next t) : Kept t := h.issued (h.eachLane fun _ _ h => h.jump) e

theorem Kept.execJmpx (h : Kept s) (e : execJmpx g a l s = .next t) : Kept t := by
  grind [execJmpx, Kept, Kept.issued, Kept.consuming, Kept.toTarget, Kept.jump, Kept.link]

theorem Kept.execCall (h : Kept s) (e : execCall g off s = .next t) : Kept t := h.issued (h.eachLane fun _ _ h => h.link.jump) e

theorem Kept.execRet (h : Kept s) (e : execRet g s = .next t) : Kept t := h.issued (h.consuming fun _ _ h => (h.toTarget h.jump)) e

theorem Kept.execExit (h : Kept s) (e : execExit g s = .next t) : Kept t := by
  grind [execExit, Kept, Kept.issued, Kept.eachLane, Kept.retry, Kept.endThread, Kept.acquire, Kept.release]

theorem Kept.execSpawn (h : Kept s) (e : execSpawn g tgt vs n s = .next t) : Kept t := by
  grind [execSpawn, Kept, Kept.issued, Kept.over, Kept.illegalInTx, Kept.trapPoison, Kept.toTarget, Kept.retry, Kept.updWg, Kept.release,
    Kept.placeUnit]

theorem Kept.contOwn {u : State} (h : Kept s) (e : u.contOwn x tgt n = some f) : Kept (f s) := by
  grind [State.contOwn, Kept.illegalInTx, Kept.trapPoison, Kept.trapHere]

theorem Kept.contUnit (h : Kept s) : Kept (s.contUnit ts entry unit) := by
  unfold State.contUnit
  split
  · exact h
  · exact (h.release.over fun _ _ h => h.removeThread).placeUnit.coreFreed

theorem Kept.contQuad {u : State} (h : Kept s) : Kept (u.contQuad s q tgt n) := by
  have stop : ∀ (s : State) (x : Thread), Kept s → Kept (match u.contOwn x tgt n with | some f => f s | none => s.trapHere x.uid 14 0 0) := by
    intro s x h
    split
    · next e => exact h.contOwn e
    · exact h.trapHere
  unfold State.contQuad
  split
  · exact h
  · dsimp only
    split
    · exact h.over stop
    · split
      · exact h.over fun _ _ h => h.retry
      · exact h.contUnit

theorem Kept.execCont (h : Kept s) (e : execCont g tgt n s = .next t) : Kept t := by
  refine h.issued ((h.over fun s' t h' => ?_).over fun _ _ h => h.contQuad) e
  dsimp only
  split
  · next e => exact h'.contOwn e
  · split
    · exact h'.retry
    · exact h'.contUnit

theorem Kept.execReorder (h : Kept s) (e : execReorder g a n s = .next t) : Kept t := by
  grind [execReorder, Kept, Kept.issued, Kept.consuming, Kept.illegalInTx, Kept.reorderArrive, Kept.updThr]

theorem Kept.execYield (h : Kept s) (e : execYield g n s = .next t) : Kept t := h.issued (h.eachLane fun _ _ h => h.updThr) e

theorem Kept.execBar (h : Kept s) (e : execBar g gang b s = .next t) : Kept t := by
  grind [execBar, Kept, Kept.issued, Kept.eachLane, Kept.illegalInTx, Kept.trapHere, Kept.retry, Kept.arrive, Kept.release]

theorem Kept.execGbar (h : Kept s) (e : execGbar g idx s = .next t) : Kept t := by
  grind [execGbar, Kept, Kept.issued, Kept.eachLane, Kept.illegalInTx, Kept.trapHere, Kept.retry, Kept.arrive, Kept.release]

theorem Kept.execWait (h : Kept s) (e : execWait g l sl c x s = .next t) : Kept t := by
  grind [execWait, Kept, Kept.issued, Kept.eachLane, Kept.retry]

theorem Kept.execTrap (h : Kept s) (e : execTrap g imm s = .next t) : Kept t := h.issued (h.eachLane fun _ _ h => h.trapNext) e

theorem Kept.execBrk (h : Kept s) (e : execBrk g imm s = .next t) : Kept t := by
  grind [execBrk, Kept, Kept.issued, Kept.eachLane, Kept.updThr, Kept.trapNext]

theorem Kept.execTime (h : Kept s) (e : execTime g d s = .next t) : Kept t := h.issued (h.eachLane fun _ _ h => h.updThr) e

theorem Kept.execRep (h : Kept s) (e : execRep sb sa sd tot s = .next t) : Kept t := h.issued (h.eachLane fun _ _ h => h.updThr) e

theorem Kept.replayFault (h : Kept s) : Kept (s.replayFault t' asid i l f).2 := by
  grind [State.replayFault, Kept, Kept.newFault, Kept.updFault, Kept.updThr]

theorem Kept.replay (h : Kept s) : Kept (s.replay t' c asid env es).2.2 := by
  induction es generalizing s env with
  | nil => exact h
  | cons e es ih =>
      unfold State.replay
      dsimp only
      split
      · split
        · grind [Kept.waitRead, Kept.replayFault, Kept.monReturn, Kept.updThr]
        · grind [Kept.waitRead, Kept.replayFault, Kept.updThr]
        · grind [Kept.accGate, Kept.doAccess, Kept.replayFault, Kept.updThr]
      · exact ih h.updThr

theorem Kept.rett (h : Kept s) : Kept (s.rett t') := by
  grind [State.rett, Kept, Kept.trapHere, Kept.retry, Kept.replay, Kept.updThr, Kept.takeTrap]

theorem Kept.execRett (h : Kept s) (e : execRett g s = .next t) : Kept t := h.issued (h.eachLane fun _ _ h => h.rett) e

/-! ## Queues of a core -/

theorem Kept.updHoist (h : Kept s) : Kept (s.updHoist h' f) := h

theorem Kept.bind (h : Kept s) : Kept (s.bind wg q p arg) := by
  grind [State.bind, Kept, Kept.mailFlush, Kept.setQb, Kept.updHoist, Kept.postOnce]

theorem Kept.execQbind (h : Kept s) (e : execQbind g port a q s = .next t) : Kept t := by
  grind [execQbind, Kept, Kept.issued, Kept.consuming, Kept.trapHere, Kept.wgCheck, Kept.bind]

theorem Kept.submit (h : Kept s) : Kept (s.submit t' c asid ws) := by
  grind [State.submit, Kept, Kept.updThr, Kept.newId, Kept.post]

theorem Kept.enginePut (h : Kept s) : Kept (s.enginePut t' p w) := by
  grind [State.enginePut, Kept, Kept.illegalInTx, Kept.trapHere, Kept.updThr, Kept.retry, Kept.submit, Kept.release]

theorem Kept.execQput (h : Kept s) (e : execQput g a q s = .next t) : Kept t := by
  grind [execQput, Kept, Kept.issued, Kept.over, Kept.trapHere, Kept.trapPoison, Kept.posts, Kept.enginePut]

theorem Kept.execQget (h : Kept s) (e : execQget g d q s = .next t) : Kept t := by
  grind [execQget, Kept, Kept.issued, Kept.eachLane, Kept.updThr, Kept.trapHere, Kept.retry, Kept.mailFlush, Kept.setQb, Kept.postOnce]

theorem Kept.execNotifyPush (h : Kept s) (e : execNotifyPush wg s = .next t) : Kept t := by
  cases e
  split
  · exact h
  · split
    · exact h.updWg
    · exact h.setQb.updWg

theorem Kept.execHoist (h : Kept s) (e : execHoist g q vs b tgt n any s = .next t) : Kept t := by
  grind [execHoist, Kept, Kept.issued, Kept.over, Kept.illegalInTx, Kept.trapHere, Kept.trapPoison, Kept.toTarget, Kept.retry,
    Kept.irrevocable, Kept.post, Kept.updHoist, Kept.release]

theorem Kept.execHoistClose (h : Kept s) (e : execHoistClose g q s = .next t) : Kept t := by
  grind [execHoistClose, Kept, Kept.issued, Kept.over, Kept.illegalInTx, Kept.trapHere, Kept.updHoist, Kept.wgCheck]

theorem Kept.execHoistDelivery (h : Kept s) (e : execHoistDelivery h' s = .next t) : Kept t := by
  grind [execHoistDelivery, Kept, Kept.updWg, Kept.updHoist, Kept.placeUnit, Kept.acquire, Kept.irrevocable, Kept.post, Kept.over,
    Kept.wgCheck]

theorem Kept.execBinFlush (h : Kept s) (e : execBinFlush g tgt s = .next t) : Kept t := by
  grind [execBinFlush, Kept, Kept.issued, Kept.eachLane, Kept.toTarget, Kept.over, Kept.postOnce]

theorem Kept.execBinCount (h : Kept s) (e : execBinCount g d tgt s = .next t) : Kept t :=
  h.issued (h.eachLane fun _ _ h => (h.toTarget h.updThr)) e

/-! ## Tiles -/

theorem Kept.updTile (h : Kept s) : Kept (s.updTile wg t' f) := h.updSeq

theorem Kept.seqRaise (h : Kept s) : Kept (s.seqRaise wg fl) := h.updSeq

theorem Kept.applyArrival (h : Kept s) : Kept (s.applyArrival own t' a) := by
  grind [State.applyArrival, Kept, Kept.updSeq, Kept.seqEnd, Kept.seqTrap, Kept.updTile, Kept.seqRaise]

theorem Kept.portCheck (h : Kept s) : Kept (s.portCheck own t') := by
  unfold State.portCheck
  split
  · exact h.postOnce
  · exact h

theorem Kept.tileArrive (h : Kept s) : Kept (s.tileArrive own t' a) := by
  grind [State.tileArrive, Kept, Kept.updTile, Kept.portCheck, Kept.applyArrival, Kept.updSeq]

theorem Kept.portDrain (h : Kept s) : Kept (s.portDrain own x n) := by
  induction n generalizing s with
  | zero => exact h
  | succ n ih => grind [State.portDrain, Kept.applyArrival]

theorem Kept.portWithdraw (h : Kept s) : Kept (s.portWithdraw own) :=
  h.over fun _ _ h => (h.portDrain.over fun _ _ h => h.updSeq).updTile

theorem Kept.execOrderedStepApply (h : Kept s) (e : execOrderedStepApply wg t' s = .next t) : Kept t := by
  cases e
  split
  · exact h
  · exact h.applyArrival.portCheck

/-! ## Matrix instructions -/

theorem Kept.execResv (h : Kept s) (e : execResv g d a b fmt bl scl ten ph s = .next t) : Kept t := by
  grind [execResv, Kept, Kept.issued, Kept.consuming, Kept.trapHere, Kept.updThr, Kept.updWg]

theorem Kept.execRfree (h : Kept s) (e : execRfree g a s = .next t) : Kept t := by
  grind [execRfree, Kept, Kept.issued, Kept.consuming, Kept.updWg, Kept.trapHere]

theorem Kept.execSeq (h : Kept s) (e : execSeq g a b c s = .next t) : Kept t :=
  h.issued (h.eachLane fun s' x h => by
    grind [Kept.retry, Kept.trapPoison, Kept.trapHere, Kept.updSeq, Kept.updThr, Kept.seqStart]) e

theorem Kept.execAccrd (h : Kept s) (e : execAccrd g d what fmt rnd t' row half s = .next t) : Kept t := by
  grind [execAccrd, Kept, Kept.issued, Kept.eachLane, Kept.trapHere, Kept.memIssue, Kept.over, Kept.raise]

theorem Kept.sqTrap (h : Kept s) : Kept (s.sqTrap cause n) := h.seqTrap

theorem Kept.ownArrive (h : Kept s) : Kept (s.ownArrive w q i t' n) := h.tileArrive

theorem Kept.execMzero (h : Kept s) (e : execMzero mode t' s = .next t) : Kept t := by
  cases e
  split
  · exact h.ownArrive
  · exact h

theorem Kept.chunk (h : Kept s) : Kept (s.chunk i) := by
  grind [State.chunk, Kept, Kept.sqTrap, Kept.tileArrive]

theorem Kept.execMrenorm (h : Kept s) (e : execMrenorm n right all row t' s = .next t) : Kept t := by
  cases e
  split
  · split
    · exact h.sqTrap
    · split
      · exact h.sqTrap
      · exact h.ownArrive
  · exact h

theorem Kept.execMexport (h : Kept s) (e : execMexport dith did t' dr dc s = .next t) : Kept t := by
  grind [execMexport, Kept, Kept.sqTrap, Kept.seqRaise, Kept.updWg]

theorem Kept.sqBar (h : Kept s) : Kept (s.sqBar b waits) := by
  unfold State.sqBar
  split
  · split
    · exact h.sqTrap
    · exact h.seqArrive
  · exact h

theorem Kept.execMloop (h : Kept s) (e : execMloop len p cnt s = .next t) : Kept t := by
  grind [execMloop, Kept, Kept.sqTrap, Kept.updSeq]

theorem Kept.execMend (h : Kept s) (e : execMend s = .next t) : Kept t := by
  cases e
  split
  · exact h.seqEnd
  · exact h

theorem Kept.execMphase (h : Kept s) (e : execMphase ph n s = .next t) : Kept t := by
  cases e
  split
  · split
    · exact h.updWg
    · exact h.sqTrap
  · exact h

theorem Kept.execMstep (h : Kept s) (e : execMstep mask on t' s = .next t) : Kept t := by
  cases e
  split
  · split
    · exact h.sqTrap
    · split
      · exact h.sqTrap
      · exact h.ownArrive
  · exact h

theorem Kept.execAbandon (h : Kept s) (e : execAbandon wg s = .next t) : Kept t := by
  cases e
  split
  · exact h
  · split
    · exact h
    · split
      · exact h.updSeq
      · exact h.seqEnd

/-! ## Engines -/

theorem Kept.cmdEnd (h : Kept s) : Kept (s.cmdEnd n status) := h.updCmd.postOnce

theorem Kept.engineBad (h : Kept s) : Kept (s.engineBad asid key) := h.boxPut.persist

theorem Kept.engRead (h : Kept s) : Kept (s.engRead c va n sc).2 := by
  grind [State.engRead, Kept, Kept.xlate, Kept.engineBad, Kept.homeRead, Kept.irrevocable]

theorem Kept.engWrite (h : Kept s) : Kept (s.engWrite c va bs sc).2 := by
  grind [State.engWrite, Kept, Kept.xlate, Kept.beforeWrite, Kept.homeWrite, Kept.irrevocable]

theorem Kept.spotRead (h : Kept s) : Kept (s.spotRead c x).2 := by
  cases x
  · exact h.engRead
  all_goals exact h

theorem Kept.spotWrite (h : Kept s) : Kept (s.spotWrite c bs x).2 := by
  cases x
  · exact h.engWrite
  all_goals exact h

theorem Kept.engStop (h : Kept s) : Kept (s.engStop c pos redo w) := by
  unfold State.engStop
  split
  · exact h.cmdEnd
  · dsimp only
    split
    · exact Kept.newFault h
    · exact Kept.newFault h

theorem Kept.engGate (h : Kept s) : Kept (s.engGate c redo x).2 := by
  cases x <;> grind [State.engGate, Kept.undoBefore]

theorem Kept.engUnits (hu : ∀ s u, Kept s → Kept (unit s u).2) (h : Kept s) : Kept (s.engUnits c total redo unit n u) := by
  induction n generalizing s u with
  | zero => exact Kept.postOnce h
  | succ n ih =>
      unfold State.engUnits
      split
      · exact h.cmdEnd
      · split
        · grind [Kept.engStop]
        · split
          · grind [Kept.engStop, Kept.spotRead]
          · grind [Kept.engStop, Kept.spotRead, Kept.engGate, Kept.spotWrite, Kept.updCmd, Kept.postOnce]

theorem Kept.engRun (hu : ∀ c s u, Kept s → Kept (unit c s u).2) (h : Kept s) : Kept (s.engRun n redo chk total isLocal unit) := by
  have hend : ∀ i st, Kept (s.cmdEnd i st) := fun _ _ => h.cmdEnd
  have hunits : ∀ c t u, Kept (s.engUnits c t redo (unit c) 512 u) := fun c _ _ => h.engUnits (hu c)
  grind [State.engRun]

theorem Kept.copyUnit (h : Kept s) : Kept (copyUnit c s u).2 := h

theorem Kept.fillUnit (h : Kept s) : Kept (fillUnit c s u).2 := h

theorem Kept.execCopy (h : Kept s) (e : execCopy n s = .next t) : Kept t := Kept.next (Kept.engRun (fun _ _ _ h => h.copyUnit) h) e

theorem Kept.execFill (h : Kept s) (e : execFill n s = .next t) : Kept t := Kept.next (Kept.engRun (fun _ _ _ h => h.fillUnit) h) e

theorem Kept.tileUnit (h : Kept s) : Kept (tileUnit c s u).2 := by
  grind [tileUnit, Kept]

theorem Kept.execTile (h : Kept s) (e : execTile n s = .next t) : Kept t := Kept.next (Kept.engRun (fun _ _ _ h => h.tileUnit) h) e

theorem Kept.gatherUnit (h : Kept s) : Kept (gatherUnit scatter c s u).2 := by
  grind [gatherUnit, Kept, Kept.engRead]

theorem Kept.execGather (h : Kept s) (e : execGather n s = .next t) : Kept t := Kept.next (Kept.engRun (fun _ _ _ h => h.gatherUnit) h) e

theorem Kept.execScatter (h : Kept s) (e : execScatter n s = .next t) : Kept t := Kept.next (Kept.engRun (fun _ _ _ h => h.gatherUnit) h) e

theorem Kept.collSrc (h : Kept s) : Kept (s.collSrc c es n va).2 := by
  induction n generalizing s va with
  | zero => exact h
  | succ n ih => grind [State.collSrc, Kept.engRead]

theorem Kept.collWrite (h : Kept s) : Kept (s.collWrite c all rank es redo n k) := by
  induction n generalizing s k with
  | zero => exact h.rdcSync.cmdEnd
  | succ n ih => grind [State.collWrite, Kept.engGate, Kept.engWrite, Kept.engStop, Kept.updCmd]

theorem Kept.collective (h : Kept s) : Kept (s.collective n peers again) := by
  grind [State.collective, Kept, Kept.cmdEnd, Kept.stallFor, Kept.collWrite, Kept.post, Kept.collSrc, Kept.engStop]

theorem Kept.execGraph (h : Kept s) (e : execGraph cmd s = .next t) : Kept t := by
  grind [execGraph, Kept, Kept.cmdEnd, Kept.newId, Kept.irrevocable, Kept.post]

theorem Kept.undoFor (h : Kept s) : Kept (s.undoFor cluster asid va key) := by
  grind [State.undoFor, Kept, Kept.homeRead, Kept.undoNote]

theorem Kept.objGate (h : Kept s) : Kept (s.objGate cluster asid va redo).2 := by
  unfold State.objGate
  split
  · exact h
  · exact h.undoBefore

theorem Kept.objAdd (h : Kept s) : Kept (s.objAdd cluster asid va status v sc).2 := by
  grind [State.objAdd, Kept, Kept.xlate, Kept.undoFor, Kept.irrevocable, Kept.homeRead, Kept.homeWrite, Kept.rdcSync]

theorem Kept.lowerC (h : Kept s) : Kept (s.lowerC uid) := h.updThr.reorderArrive

theorem Kept.notify (h : Kept s) : Kept (s.notify c) := by
  unfold State.notify
  split
  · exact h
  · split
    · exact h
    · exact h.updWg.postOnce

theorem Kept.execCommandComplete (h : Kept s) (e : execCommandComplete cmd s = .next t) : Kept t := by
  cases e
  split
  · exact h
  · split
    · exact h
    · extract_lets finish
      have fin : ∀ s, Kept s → Kept (finish s) := by
        intro s h
        have h1 : ∀ {cs a}, Kept (({ s with cmds := cs } : State).fatalDone a) := Kept.fatalDone h
        dsimp only [finish]
        split
        · have lowered : ∀ {c : Cmd} {u cs a}, Kept (if c.code = 0x20 then ({ s with cmds := cs } : State).fatalDone a else (({ s with cmds := cs } : State).fatalDone a).lowerC u) := by
            intro c u cs a
            split
            · exact h1
            · exact h1.lowerC
          split
          · exact lowered.notify.postOnce
          · exact lowered.notify
        · exact h1.updGraph.post
      clear_value finish
      split
      · exact fin s h
      · split
        · grind [Kept.objGate]
        · next s0 hg =>
          have h0 : Kept s0 := by grind [Kept.objGate]
          split
          · grind [Kept.objAdd, Kept.deviceFault]
          · next s1 ha =>
            have h1 : Kept s1 := by grind [Kept.objAdd]
            refine fin _ ?_
            split
            · exact h1.irrevocable
            · exact h1

/-! ## Placement -/

theorem Kept.setWake (h : Kept s) : Kept (s.setWake n st) := h.wreg

theorem Kept.endDeep (h : Kept s) : Kept (s.endDeep) := by
  grind [State.endDeep, Kept, Kept.over, Kept.setWake]

theorem Kept.zeroCores (h : Kept s) : Kept (s.zeroCores cl) := h.over fun _ _ h => h.l1Drop

theorem Kept.takeCluster (h : Kept s) : Kept (s.takeCluster fe cl) := by
  unfold State.takeCluster
  split
  · exact h
  · exact h.zeroCores

theorem Kept.launchThreads (h : Kept s) : Kept (s.launchThreads w l c) := by
  grind [State.launchThreads, Kept, Kept.over, Kept.newGroup, Kept.addThread]

theorem Kept.resumed (h : Kept s) : Kept (s.resumed asid) := by
  grind [State.resumed, Kept, Kept.setBit]

theorem Kept.putWg (h : Kept s) : Kept (s.putWg w l p) := by
  grind [State.putWg, Kept, Kept.newId, Kept.updWg, Kept.served, Kept.takeCluster, Kept.acquire, Kept.launchThreads, Kept.resumed]

theorem Kept.reissueOf (h : Kept s) : Kept (s.reissueOf ids) := h.posts

theorem Kept.goesOn (h : Kept s) : Kept (s.goesOn wg) := by
  unfold State.goesOn
  split
  · exact h
  · exact h.reissueOf.posts.wgCheck

theorem Kept.restoreWg (h : Kept s) : Kept (s.restoreWg w l p) := by
  grind [State.restoreWg, Kept, Kept.newId, Kept.updWg, Kept.over, Kept.resumed, Kept.served, Kept.takeCluster, Kept.goesOn, Kept.acquire]

theorem Kept.putOrRestore (h : Kept s) : Kept (s.putOrRestore w l p) := by
  unfold State.putOrRestore
  split
  · exact h.restoreWg
  · exact h.putWg

theorem Kept.placeGang (h : Kept s) (e : s.placeGang ws l barred = some t) : Kept t := by
  obtain ⟨cs, -, rfl⟩ := Option.map_eq_some_iff.mp e
  refine h.over fun s p h => ?_
  split
  · exact h.putOrRestore
  · exact h

theorem Kept.foldOption {f : Option State → β → Option State} (hf : ∀ {o x t}, f o x = some t → ∃ s, o = some s ∧ (Kept s → Kept t))
    {xs : List β} {o : Option State}
    (h : ∀ s, o = some s → Kept s) (e : xs.foldl f o = some t) : Kept t := by
  induction xs generalizing o with
  | nil => exact h t e
  | cons x xs ih => exact ih (fun s hs => by obtain ⟨u, hu, k⟩ := hf hs; exact k (h u hu)) e

theorem Kept.placeUnitOn (h : Kept s) (e : s.placeUnitOn unit barred = some t) : Kept t := by
  refine Kept.foldOption (fun {o w u} hf => ?_) (fun u hu => ?_) e
  · obtain ⟨s, rfl, hl⟩ := Option.bind_eq_some_iff.mp hf
    obtain ⟨l, -, hp⟩ := Option.bind_eq_some_iff.mp hl
    obtain ⟨p, -, rfl⟩ := Option.map_eq_some_iff.mp hp
    exact ⟨s, rfl, fun h => h.putOrRestore⟩
  · refine Kept.foldOption (fun {o ws u} hf => ?_) (fun u hu => ?_) hu
    · obtain ⟨s, rfl, hl⟩ := Option.bind_eq_some_iff.mp hf
      obtain ⟨l, -, hp⟩ := Option.bind_eq_some_iff.mp hl
      exact ⟨s, rfl, fun h => h.placeGang hp⟩
    · cases hu
      exact h

theorem Kept.afterPlace (h : Kept s) : Kept (s.afterPlace unit) := by
  grind [State.afterPlace, Kept, Kept.over, Kept.postOnce]

theorem Kept.tryUnit (h : Kept s) : Kept (s.tryUnit w l) := by
  grind [State.tryUnit, Kept, Kept.placeUnitOn, Kept.afterPlace]

theorem Kept.execWorkgroupPlacement (h : Kept s) (e : execWorkgroupPlacement wg c s = .next t) : Kept t := by
  cases e
  split
  · split
    · split
      · exact h.putWg.afterPlace
      · exact h
    · exact h
  · exact h

theorem Kept.execGangPlacement (h : Kept s) (e : execGangPlacement wg s = .next t) : Kept t := by
  cases e
  split
  · split
    · exact h.tryUnit
    · exact h
  · exact h

theorem Kept.barred (h : Kept s) : Kept (s.barred acc' asid va n).2 :=
  Kept.foldSnd h fun r a hr => by grind [Kept.xlate]

theorem Kept.unreadable (h : Kept s) : Kept (s.unreadable asid rs).2 :=
  Kept.foldSnd h fun r a hr => by grind [Kept.barred]

theorem Kept.execResumePlacement (h : Kept s) (e : execResumePlacement wg s = .next t) : Kept t := by
  grind [execResumePlacement, Kept, Kept.unreadable, Kept.feFault, Kept.tryUnit]

/-! ## Chains -/

theorem Kept.updStream (h : Kept s) : Kept (s.updStream slot f) := h

theorem Kept.updStrip (h : Kept s) : Kept (s.updStrip slot k' f) := h.updStream

theorem Kept.reach (h : Kept s) : Kept (s.reach t') := by
  unfold State.reach
  split <;> exact h

theorem Kept.stripGo (h : Kept s) : Kept (s.stripGo slot) := by
  unfold State.stripGo
  split
  · exact h
  · exact (h.over fun _ _ h => (h.over fun _ _ h => h.postOnce))

theorem Kept.stageEnd (h : Kept s) : Kept (s.stageEnd slot k' st) := by
  unfold State.stageEnd
  split
  · exact h.updStrip.stripGo.postOnce
  · exact h.updStrip.stripGo

theorem Kept.sctl (h : Kept s) : Kept (s.sctl slot state status) := h.wreg

theorem Kept.stripSweep (h : Kept s) : Kept (s.stripSweep slot) := by
  grind [State.stripSweep, Kept, Kept.updStream, Kept.sctl]

theorem Kept.finished (h : Kept s) : Kept (s.finished slot k') := h.updStrip.stripSweep

/-! ## Graphs -/

theorem Kept.feRead (h : Kept s) : Kept (s.feRead asid va n sc).2 := by
  unfold State.feRead
  split
  · exact h
  · exact h.ctxRead

theorem Kept.updNode (h : Kept s) : Kept (s.updNode g n f) := h.updGraph

theorem Kept.nodeEnd (h : Kept s) : Kept (s.nodeEnd g n status) := h.updNode.postOnce

theorem Kept.nodeLaunch (h : Kept s) : Kept (s.nodeLaunch g n) := by
  unfold State.nodeLaunch
  split
  · exact h.updNode.postOnce
  · exact h

theorem Kept.queueGo (h : Kept s) : Kept (s.queueGo fe q) := by
  unfold State.queueGo
  split
  · exact h
  · exact h.postOnce

theorem Kept.graphGone (h : Kept s) : Kept (s.graphGone g) := by
  grind [State.graphGone, Kept, Kept.irq, Kept.rdcSync, Kept.cmdEnd, Kept.nodeEnd, Kept.stripGo, Kept.stripSweep, Kept.updStrip,
    Kept.postOnce, Kept.posts, Kept.fatalDone, Kept.irrevocable, Kept.over, Kept.queueGo]

theorem Kept.graphCheck (h : Kept s) : Kept (s.graphCheck n) := by
  grind [State.graphCheck, Kept, Kept.graphGone, Kept.objGate, Kept.objAdd, Kept.feFault]

theorem Kept.readFalse (h : Kept s) : Kept (s.readFalse g nsucc bs).2 := by
  grind [State.readFalse, Kept, Kept.feRead]

theorem Kept.readNode (h : Kept s) : Kept (s.readNode g nsucc i).2 := by
  grind [State.readNode, Kept, Kept.feRead, Kept.readFalse]

theorem Kept.readNodes (h : Kept s) : Kept (s.readNodes g nsucc n i).2 := by
  induction n generalizing s i with
  | zero => exact h
  | succ n ih => grind [State.readNodes, Kept.readNode]

theorem Kept.loadGraph (h : Kept s) : Kept (s.loadGraph g queued).2 := by
  unfold State.loadGraph
  dsimp only
  grind [Kept.feRead, Kept.readNodes, Kept.rdcSync]

theorem Kept.afterStart (h : Kept s) : Kept (s.afterStart g) := by
  unfold State.afterStart
  split
  · exact h.queueGo
  · exact h

theorem Kept.execGraphStart (h : Kept s) (e : execGraphStart g s = .next t) : Kept t := by
  grind [execGraphStart, Kept, Kept.graphCheck, Kept.loadGraph, Kept.feFault, Kept.afterStart, Kept.updGraph, Kept.over, Kept.nodeLaunch]

theorem Kept.decrement (h : Kept s) : Kept (s.decrement g n) := by
  unfold State.decrement
  split
  · exact h
  · split
    · exact h.updGraph
    · split
      · exact h.updNode.nodeLaunch
      · exact h.updNode

theorem Kept.stageCheck (h : Kept s) : Kept (s.stageCheck g st) := by
  unfold State.stageCheck
  split
  · split
    · exact h.stageEnd
    · exact h
  · exact h

theorem Kept.execNodeComplete (h : Kept s) (e : execNodeComplete g n s = .next t) : Kept t := by
  grind [execNodeComplete, Kept, Kept.updNode, Kept.updGraph, Kept.over, Kept.decrement, Kept.stageCheck, Kept.postOnce, Kept.graphCheck]

theorem Kept.nodePause (h : Kept s) : Kept (s.nodePause g n) := h.updNode

theorem Kept.nodeStop (h : Kept s) : Kept (s.nodeStop asid g n va access e' redo) := h.nodePause.feFault

theorem Kept.withBody (h : Kept s) (hf : ∀ s x y bs, Kept s → Kept (f s x y bs)) : Kept (s.withBody g n redo f) := by
  grind [State.withBody, Kept.feRead, Kept.nodeStop]

theorem Kept.execCondNode (h : Kept s) (e : execCondNode g n s = .next t) : Kept t := by
  grind [execCondNode, Kept, Kept.withBody, Kept.nodeEnd, Kept.feRead, Kept.nodeStop, Kept.updNode]

theorem Kept.loopTop (h : Kept s) : Kept (s.loopTop g n) := by
  unfold State.loopTop
  dsimp only
  split
  · exact h
  · next x y _ =>
    split
    · exact h.nodeEnd
    · split
      · grind [Kept.feRead, Kept.nodeStop]
      · next w s1 e =>
        have h1 : Kept s1 := by grind [Kept.feRead]
        split
        · exact h1.nodeEnd
        · generalize hg : (if y.body.getD 4 0 = 0 || y.body.getD 4 0 + 4 > 2 ^ 52 then (true, s1) else _) = gate
          have h2 : Kept gate.2 := by grind [Kept.undoSpan]
          split
          · exact h2.nodePause
          · split
            · exact h2.nodeStop
            · next s2 hw =>
              have h3 : Kept s2 := by grind [Kept.ctxWrite]
              split
              · exact h3.updGraph.postOnce
              · exact h3.updGraph.over fun _ _ h => h.nodeLaunch

theorem Kept.execLoopNode (h : Kept s) (e : execLoopNode g n s = .next t) : Kept t := by
  grind [execLoopNode, Kept, Kept.loopTop, Kept.withBody, Kept.nodeEnd, Kept.updNode]

theorem Kept.execLoopIterationEnd (h : Kept s) (e : execLoopIterationEnd g n s = .next t) : Kept t := by
  cases e
  split
  · split
    · exact h.updNode.loopTop
    · exact h
  · exact h

theorem Kept.execSignalNode (h : Kept s) (e : execSignalNode g n s = .next t) : Kept t := by
  grind [execSignalNode, Kept, Kept.withBody, Kept.nodeEnd, Kept.objGate, Kept.nodePause, Kept.objAdd, Kept.nodeStop, Kept.irrevocable]

theorem Kept.extwaitRead (h : Kept s) : Kept (s.extwaitRead x g n body) := by
  grind [State.extwaitRead, Kept, Kept.feRead, Kept.feFault, Kept.nodeEnd]

theorem Kept.execExtwaitNode (h : Kept s) (e : execExtwaitNode g n s = .next t) : Kept t := by
  grind [execExtwaitNode, Kept, Kept.extwaitRead, Kept.withBody, Kept.nodeEnd, Kept.updNode]

theorem Kept.execSubgraphNode (h : Kept s) (e : execSubgraphNode g n s = .next t) : Kept t := by
  grind [execSubgraphNode, Kept, Kept.withBody, Kept.nodeEnd, Kept.newId, Kept.post, Kept.updNode]

theorem Kept.execCopyNode (h : Kept s) (e : execCopyNode g n s = .next t) : Kept t := by
  grind [execCopyNode, Kept, Kept.withBody, Kept.nodeEnd, Kept.newId, Kept.post, Kept.updNode]

theorem Kept.readLists (h : Kept s) : Kept (s.readLists asid image es).2 := by
  induction es generalizing s with
  | nil => exact h
  | cons e es ih => grind [State.readLists, Kept.feRead]

theorem Kept.readPart (hk : ∀ bs s, Kept s → Kept (k bs s).2) (h : Kept s) : Kept (s.readPart asid va n k).2 := by
  grind [State.readPart, Kept.feRead]

theorem Kept.readImage (h : Kept s) : Kept (s.readImage asid image const).2 := by
  grind [State.readImage, Kept, Kept.readPart, Kept.readLists]

theorem Kept.makeWgs (h : Kept s) : Kept (s.makeWgs l count) := by
  grind [State.makeWgs, Kept, Kept.over, Kept.newId]

theorem Kept.kernelLaunch (h : Kept s) : Kept (s.kernelLaunch x g n bs shade redo) := by
  grind [State.kernelLaunch, Kept, Kept.readImage, Kept.nodeStop, Kept.newId, Kept.nodeEnd, Kept.dispatch, Kept.updNode, Kept.makeWgs]

theorem Kept.readyGo (h : Kept s) : Kept (s.readyGo fe) := h.over fun _ _ h => (h.over fun _ _ h => h.postOnce)

theorem Kept.execKernelNode (h : Kept s) (e : execKernelNode g n s = .next t) : Kept t := by
  grind [execKernelNode, Kept, Kept.withBody, Kept.nodeEnd, Kept.kernelLaunch]

theorem Kept.consume (h : Kept s) : Kept (s.consume fe q) := h.wreg

theorem Kept.queueErr (h : Kept s) : Kept (s.queueErr fe q code) := h.wreg

theorem Kept.readEntry (h : Kept s) (hf : ∀ s a b c d, Kept s → Kept (f s a b c d)) : Kept (s.readEntry fe q idx redo f) := by
  grind [State.readEntry, Kept.feRead, Kept.rdcSync, Kept.feFault, Kept.queueGo, Kept.consume, Kept.queueErr]

theorem Kept.execRun (h : Kept s) (e : execRun fe q idx s = .next t) : Kept t := by
  grind [execRun, Kept, Kept.readEntry, Kept.postOnce, Kept.newId, Kept.queueGo, Kept.post, Kept.consume]

theorem Kept.writeQctl (h : Kept s) : Kept (s.writeQctl fe q v) := by
  grind [State.writeQctl, Kept, Kept.wreg, Kept.queueErr, Kept.over, Kept.postOnce, Kept.dispatch, Kept.queueGo]

theorem Kept.execQueueNotify (h : Kept s) (e : execQueueNotify fe q v s = .next t) : Kept t := by
  grind [execQueueNotify, Kept, Kept.irq, Kept.bump, Kept.endDeep, Kept.postOnce, Kept.queueErr, Kept.queueGo, Kept.wreg]

/-! ## Rasterisation -/

theorem Kept.asset (h : Kept s) : Kept (s.asset asid va n).2 := by
  grind [State.asset, Kept, Kept.feRead]

theorem Kept.readMeshlet (h : Kept s) : Kept (s.readMeshlet asid va).2 := by
  grind [State.readMeshlet, Kept, Kept.asset]

theorem Kept.visMin (h : Kept s) : Kept (s.visMin asid key v) := by
  grind [State.visMin, Kept, Kept.homeRead, Kept.homeWrite]

theorem Kept.drawMeshlet (h : Kept s) : Kept (s.drawMeshlet x k' m) := by
  grind [State.drawMeshlet, Kept, Kept.over, Kept.scount, Kept.visMin]

theorem Kept.material (h : Kept s) : Kept (s.material x k' px py).2 := by
  grind [State.material, Kept, Kept.asset]

theorem Kept.materials (h : Kept s) : Kept (s.materials x k ps).2 := by
  induction ps generalizing s with
  | nil => exact h
  | cons p ps ih => grind [State.materials, Kept.material]

theorem Kept.quadUnits (h : Kept s) : Kept (s.quadUnits x k' t' lvl qx qy).2 := by
  grind [State.quadUnits, Kept, Kept.materials]

theorem Kept.setShaded (h : Kept s) : Kept (s.setShaded x k' px py bs) := h.homeWrite

theorem Kept.cellFill (h : Kept s) : Kept (s.cellFill x k' t' lvl) := by
  grind [State.cellFill, Kept, Kept.over, Kept.materials, Kept.setShaded]

theorem Kept.lineFill (h : Kept s) : Kept (s.lineFill x k' d) := by
  grind [State.lineFill, Kept, Kept.over, Kept.setShaded]

theorem Kept.haloLine (h : Kept s) : Kept (s.haloLine x k' y slotSq half j) := h.over fun _ _ h => h.homeWrite

theorem Kept.haloCopy (h : Kept s) : Kept (s.haloCopy x k') := by
  grind [State.haloCopy, Kept, Kept.over, Kept.haloLine]

theorem Kept.outFill (h : Kept s) : Kept (s.outFill x k') := by
  grind [State.outFill, Kept, Kept.homeWrite, Kept.over]

/-! ## STRIP frames -/

theorem Kept.execStreamOpen (h : Kept s) (e : execStreamOpen slot s = .next t) : Kept t := by
  cases e
  dsimp only
  split
  · exact h
  · split
    · exact h.asset.sctl
    · split
      · exact h.asset.sctl
      · split
        · exact h.asset.sctl
        · refine Kept.sctl ?_
          exact h.asset

theorem Kept.chainNames (h : Kept s) : Kept (s.chainNames g).2 := by
  grind [State.chainNames, Kept, Kept.feRead]

theorem Kept.entryDone (h : Kept s) : Kept (s.entryDone fe q flags) := by
  grind [State.entryDone, Kept, Kept.consume, Kept.queueGo, Kept.irq, Kept.rdcSync]

theorem Kept.refuseChain (h : Kept s) : Kept (s.refuseChain handle fe q flags g status redo) := by
  grind [State.refuseChain, Kept, Kept.sctl, Kept.entryDone, Kept.objGate, Kept.objAdd, Kept.feFault]

theorem Kept.execRegister (h : Kept s) (e : execRegister fe q idx s = .next t) : Kept t := by
  cases e
  refine h.readEntry fun s va op flags handle h => ?_
  dsimp only
  split
  · exact h
  · split
    · grind [Kept.loadGraph, Kept.feFault]
    · next g bad s1 hg =>
      have h1 : Kept s1 := by grind [Kept.loadGraph]
      split
      · exact h1.refuseChain
      · split
        · grind [Kept.chainNames, Kept.feFault]
        · next s2 hc =>
          have h2 : Kept s2 := by grind [Kept.chainNames]
          repeat' split
          · exact h2.refuseChain
          · exact h2.refuseChain
          · exact h2.refuseChain
          · exact h2.updStream.sctl.entryDone

theorem Kept.execRetire (h : Kept s) (e : execRetire fe q idx s = .next t) : Kept t := by
  grind [execRetire, Kept, Kept.readEntry, Kept.entryDone, Kept.stripSweep, Kept.updStream]

theorem Kept.execChainInstantiate (h : Kept s) (e : execChainInstantiate slot s = .next t) : Kept t := by
  grind [execChainInstantiate, Kept, Kept.newId, Kept.post, Kept.wreg, Kept.updStream]

theorem Kept.execReservationStart (h : Kept s) (e : execReservationStart slot k' st s = .next t) : Kept t := by
  grind [execReservationStart, Kept, Kept.post, Kept.updStrip]

theorem Kept.openWindow (h : Kept s) : Kept (s.openWindow slot k' st) := h.updStrip.stripGo.dispatch

theorem Kept.execReservationEnd (h : Kept s) (e : execReservationEnd slot k' st s = .next t) : Kept t := by
  grind [execReservationEnd, Kept, Kept.dispatch]

theorem Kept.missRecord (h : Kept s) : Kept (s.missRecord x t' flags) := by
  unfold State.missRecord
  split
  · exact h
  · exact h.devWrite

theorem Kept.readList (h : Kept s) : Kept (s.readList x va n).2 := by
  induction n generalizing s va with
  | zero => exact h
  | succ n ih => grind [State.readList, Kept.asset, Kept.scount]

theorem Kept.showLevel (h : Kept s) : Kept (s.showLevel x k lvl) := h.wreg

theorem Kept.levelStart (h : Kept s) : Kept (s.levelStart x t') := h.updStrip.showLevel

theorem Kept.levelSeen (h : Kept s) : Kept (s.levelSeen x t') := by
  unfold State.levelSeen
  split
  · split
    · exact h.levelStart
    · exact h.updStrip
  · exact h.levelStart

theorem Kept.renderDone (h : Kept s) : Kept (s.renderDone x t' g n) := h.updStream.updStrip.levelSeen.post.nodeEnd

theorem Kept.execRenderNode (h : Kept s) (e : execRenderNode g n upto s = .next t) : Kept t := by
  cases e
  split
  · refine h.withBody fun s y _ bs h => ?_
    split
    · dsimp only
      split
      · exact h.nodeEnd
      · split
        · exact h
        · refine (Kept.updNode (Kept.updStream (Kept.updStrip (Kept.readList ?_)))).postOnce
          have vis : ∀ {xs : List Nat} {a : Nat} {k : Nat → Nat} {b : List Byte}, Kept (s.over xs fun s i => s.homeWrite a (k i) b .dev none) :=
            h.over fun _ _ h => h.homeWrite
          split
          · exact vis.asset.scount
          · exact vis.asset.scount
    · exact h
  · split
    · exact h
    · split
      · split
        · exact h
        · split
          · exact h
          · split
            · exact h.renderDone
            · grind [Kept.readMeshlet, Kept.updStrip, Kept.scount, Kept.drawMeshlet, Kept.postOnce]
      · exact h

theorem Kept.execRenderWindowEnd (h : Kept s) (e : execRenderWindowEnd slot k' s = .next t) : Kept t := by
  cases e
  split
  · exact h
  · split
    · exact h.reach
    · exact h.reach.updStrip

theorem Kept.placeQuad (h : Kept s) : Kept (s.placeQuad wg u) := by
  unfold State.placeQuad
  split
  · exact h
  · exact h.updWg.placeUnit

theorem Kept.tileUnits (h : Kept s) : Kept (s.tileUnits x k n lvl).2 :=
  Kept.foldSnd h fun _ _ hr => hr.quadUnits (t' := n)

theorem Kept.placeTile (h : Kept s) : Kept (s.placeTile x t' l g n) := by
  grind [State.placeTile, Kept, Kept.over, Kept.wgCheck, Kept.tileUnits, Kept.updStrip, Kept.placeQuad, Kept.postOnce, Kept.post]

theorem Kept.execShadeNode (h : Kept s) (e : execShadeNode g n s = .next t) : Kept t := by
  have body : ∀ {y : Graph} {s : State} {bs : List Byte} {slot sq : Nat} {x : StripStream} {z : Strip}, Kept s →
      Kept (if at' bs 36 4 ≠ slot + 1 then s.nodeEnd g n 8
        else ((if z.ended.contains 6 then s else s.levelStart x z).kernelLaunch y g n bs (some (slot, sq)) (.shadeNode g n)).postOnce (.shadeNode g n)) := by
    intro y s bs slot sq x z h
    grind [Kept.nodeEnd, Kept.levelStart, Kept.kernelLaunch, Kept.postOnce]
  cases e
  split
  · exact h
  · split
    · split
      · exact h
      · split
        · grind [Kept.placeTile]
        · split
          · exact h
          · exact h.withBody fun _ _ _ _ h => body h
    · exact h

theorem Kept.noteCost (h : Kept s) : Kept (s.noteCost x t') := h.updStream

theorem Kept.execTileComplete (h : Kept s) (e : execTileComplete slot k' t' s = .next t) : Kept t := by
  grind [execTileComplete, Kept, Kept.over, Kept.release, Kept.cellFill, Kept.updStrip, Kept.post, Kept.noteCost]

theorem Kept.execHaloCopy (h : Kept s) (e : execHaloCopy slot k' s = .next t) : Kept t := by
  grind [execHaloCopy, Kept, Kept.updStrip, Kept.haloCopy, Kept.post]

theorem Kept.relevel (h : Kept s) : Kept (s.relevel x k' k lvl) := by
  grind [State.relevel, Kept, Kept.over, Kept.tileUnits, Kept.postOnce, Kept.ringWrite, Kept.updWg]

theorem Kept.execShadingRatePrediction (h : Kept s) (e : execShadingRatePrediction slot k' s = .next t) : Kept t := by
  grind [execShadingRatePrediction, Kept, Kept.showLevel, Kept.updStrip, Kept.relevel]

theorem Kept.l1Forget (h : Kept s) : Kept (s.l1Forget asid lo size filled) := h.over fun _ _ h => h.updL1.l1Drop

theorem Kept.endWork (h : Kept s) : Kept (s.endWork x slotAt size filled wgs hit) := by
  grind [State.endWork, Kept, Kept.over, Kept.ringWrite, Kept.l1Forget, Kept.endThread]

theorem Kept.drainWork (h : Kept s) : Kept (s.drainWork wgs) := by
  grind [State.drainWork, Kept, Kept.over, Kept.performOp]

theorem Kept.shadeFill (h : Kept s) : Kept (s.shadeFill x t') := by
  grind [State.shadeFill, Kept, Kept.noteCost, Kept.updStrip, Kept.lineFill, Kept.over, Kept.wgCheck, Kept.updNode, Kept.post]

theorem Kept.shadeStop (h : Kept s) : Kept (s.shadeStop x t') := h.endWork.drainWork.updStrip

theorem Kept.execShadeHardFinish (h : Kept s) (e : execShadeHardFinish slot k' s = .next t) : Kept t := by
  grind [execShadeHardFinish, Kept, Kept.reach, Kept.levelStart, Kept.shadeStop, Kept.shadeFill]

theorem Kept.stopUpscale (h : Kept s) : Kept (s.stopUpscale x k' y) := by
  grind [State.stopUpscale, Kept, Kept.dropWgs, Kept.drainWork, Kept.endWork, Kept.updGraph]

theorem Kept.lateFill (h : Kept s) : Kept (s.lateFill x t') := by
  unfold State.lateFill
  split
  · exact h.shadeFill
  · exact h

theorem Kept.execHardFinish (h : Kept s) (e : execHardFinish slot k' s = .next t) : Kept t := by
  grind [execHardFinish, Kept, Kept.lateFill, Kept.reach, Kept.finished, Kept.missRecord, Kept.stopUpscale, Kept.stageEnd, Kept.updStrip,
    Kept.outFill, Kept.nodeLaunch, Kept.dispatch]

theorem Kept.encode (h : Kept s) : Kept (s.encode x k' e') := by
  grind [State.encode, Kept, Kept.devWrite]

theorem Kept.execPublishNode (h : Kept s) (e : execPublishNode g n s = .next t) : Kept t := by
  grind [execPublishNode, Kept, Kept.withBody, Kept.nodeEnd, Kept.updStrip, Kept.encode]

theorem Kept.execScanout (h : Kept s) (e : execScanout slot k' s = .next t) : Kept t := by
  grind [execScanout, Kept, Kept.reach, Kept.missRecord, Kept.updStream, Kept.updStrip, Kept.stripGo, Kept.stripSweep]

/-! ## Pre-emption -/

theorem Kept.landed (h : Kept s) (ho : ∀ t, o = .next t → Kept t) : Kept (landed s o) := by
  unfold Machine.landed
  split
  · exact ho _ rfl
  · exact h

theorem Kept.haltThread (h : Kept s) : Kept (s.haltThread uid) := by
  grind [State.haltThread, Kept, Kept.takePend, Kept.txOutcome, Kept.monReturn, Kept.unpark, Kept.abortTx]

theorem Kept.replayable (h : Kept s) : Kept (s.replayable ids uids) := h

theorem Kept.forceStores (h : Kept s) : Kept (s.forceStores ids) := by
  grind [State.forceStores, Kept, Kept.over, Kept.actLane]

theorem Kept.haltLane (h : Kept s) : Kept (s.haltLane o l) := by
  grind [State.haltLane, Kept, Kept.stepLane]

theorem Kept.haltOp (h : Kept s) : Kept (s.haltOp n) := by
  unfold State.haltOp
  split
  · exact h
  · exact (h.over fun _ _ h => h.haltLane)

theorem Kept.standWgs (h : Kept s) : Kept (s.standWgs ids) := h

theorem Kept.haltWgs (h : Kept s) : Kept (s.haltWgs ids) := by
  grind [State.haltWgs, Kept, Kept.over, Kept.replayable, Kept.forceStores, Kept.haltOp, Kept.haltThread, Kept.standWgs,
    Kept.portWithdraw, Kept.release]

theorem Kept.goOn (h : Kept s) : Kept (s.goOn ids) := by
  grind [State.goOn, Kept, Kept.over, Kept.goesOn]

theorem Kept.askHalt (h : Kept s) : Kept (s.askHalt ids why) := by
  grind [State.askHalt, Kept, Kept.post]

theorem Kept.preemptWgs (h : Kept s) : Kept (s.preemptWgs ids) := by
  grind [State.preemptWgs, Kept, Kept.askHalt]

theorem Kept.offDevice (h : Kept s) : Kept (s.offDevice wg) := h

theorem Kept.leaveCores (h : Kept s) : Kept (s.leaveCores wgs) := (h.over fun _ _ h => h.offDevice).over fun _ _ h => h.coreFreed

theorem Kept.execPreemptHalt (h : Kept s) (e : execPreemptHalt wgs s = .next t) : Kept t := by
  cases e
  dsimp only
  split
  · exact h
  · split
    · exact h
    · refine (Kept.over ?_ fun s a h => ?_).leaveCores
      · split
        · exact h.haltWgs
        · exact h.haltWgs
      · split
        · exact h
        · exact h

theorem Kept.wdogsDone (h : Kept s) : Kept (s.wdogsDone) := by
  grind [State.wdogsDone, Kept, Kept.over, Kept.irq]

theorem Kept.threadRecords (h : Kept s) : Kept (s.threadRecords aregs ts).2 := by
  induction ts generalizing s with
  | nil => exact h
  | cons x xs ih => grind [State.threadRecords, Kept.freeBytes]

theorem Kept.imageBytes (h : Kept s) : Kept (s.imageBytes wg l).2 := by
  grind [State.imageBytes, Kept, Kept.freeBytes, Kept.threadRecords]

theorem Kept.saveOverflow (h : Kept s) : Kept (s.saveOverflow asid q) := h.queueErr.fatal

theorem Kept.takeSpace (h : Kept s) (e : s.takeSpace asid q slot ws = some t) : Kept t := by
  obtain ⟨off, -, rfl⟩ := Option.map_eq_some_iff.mp e
  exact h

theorem Kept.writeImages (h : Kept s) (e : s.writeImages slot ws = .ok t) : Kept t := by
  induction ws generalizing s with
  | nil => grind [State.writeImages]
  | cons w ws ih =>
      unfold State.writeImages at e
      split at e
      · grind [Kept.barred, Kept.imageBytes, Kept.ctxWrite]
      · exact ih h e

theorem Kept.saveUnit (h : Kept s) : Kept (s.saveUnit redo unit) := by
  unfold State.saveUnit
  split
  · exact h
  · dsimp only
    split
    · exact h.saveOverflow
    · next s1 e =>
      split
      · exact h.feFault
      · next s2 e' =>
        have h2 : Kept s2 := (h.takeSpace e).writeImages e'
        refine Kept.leaveCores ?_
        exact h2

theorem Kept.execPreciseSave (h : Kept s) (e : execPreciseSave wgs s = .next t) : Kept t := by
  grind [execPreciseSave, Kept, Kept.wdogsDone, Kept.over, Kept.saveUnit]

theorem Kept.ckpSpace (h : Kept s) (e : s.ckpSpace asid slot ws = .ok t) : Kept t := by
  induction ws generalizing s with
  | nil => grind [State.ckpSpace]
  | cons w ws ih => grind [State.ckpSpace, Kept.takeSpace]

theorem Kept.unstall (h : Kept s) : Kept (s.unstall asid) := h

theorem Kept.moveStrays (h : Kept s) : Kept (s.moveStrays f) := by
  grind [State.moveStrays, Kept, Kept.preemptWgs]

theorem Kept.ckpResume (h : Kept s) : Kept (s.ckpResume asid ids) := by
  grind [State.ckpResume, Kept, Kept.moveStrays, Kept.goOn]

theorem Kept.execCheckpoint (h : Kept s) (e : execCheckpoint asid s = .next t) : Kept t := by
  have h1 : ∀ {c run}, Kept (({ s with clocks := c } : State).haltWgs run) := Kept.haltWgs h
  cases e
  dsimp only
  split
  · exact h.unstall
  · split
    · exact h
    · split
      · exact h
      · split
        · exact h1.saveOverflow
        · next s3 e =>
          have h3 : Kept s3 := by
            refine Kept.ckpSpace ?_ e
            exact h1
          split
          · refine Kept.feFault ?_
            exact h1
          · next s4 e =>
            have h4 : Kept s4 := h3.writeImages e
            refine (Kept.setBit (Kept.unstall (Kept.ckpResume ?_))).post
            exact h4

theorem Kept.setUndo (h : Kept s) : Kept (s.setUndo asid n) := h.wreg

theorem Kept.undoMove (h : Kept s) (e : s.undoMove asid k us = .ok t) : Kept t := by
  induction us generalizing s k with
  | nil => grind [State.undoMove]
  | cons u us ih => grind [State.undoMove, Kept.ctxWrite]

theorem Kept.protectEnds (h : Kept s) : Kept (s.protectEnds asid) := by
  grind [State.protectEnds, Kept, Kept.setBit]

theorem Kept.execCheckpointComplete (h : Kept s) (e : execCheckpointComplete asid s = .next t) : Kept t := by
  cases e
  split
  · exact h
  · dsimp only
    split
    · exact h.feFault
    · next s0 e =>
      have h0 : Kept s0 := by
        split at e
        · cases e
          exact h
        · exact h.undoMove e
      refine (Kept.setUndo (Kept.wreg ?_)).protectEnds
      exact h0

theorem Kept.writeBackUndo (h : Kept s) (e : s.writeBackUndo asid us = .ok t) : Kept t := by
  induction us generalizing s with
  | nil => grind [State.writeBackUndo]
  | cons u us ih => grind [State.writeBackUndo, Kept.ctxWrite]

theorem Kept.dropContext (h : Kept s) : Kept (s.dropContext asid ids) := h.dropWgs

theorem Kept.putBack (h : Kept s) : Kept (s.putBack asid c now) := by
  unfold State.putBack
  split <;> exact h

theorem Kept.rollbackCtx (h : Kept s) : Kept (s.rollbackCtx asid) := by
  grind [State.rollbackCtx, Kept, Kept.haltWgs, Kept.unreadable, Kept.feFault, Kept.writeBackUndo, Kept.fatalDone, Kept.unstall,
    Kept.putBack, Kept.dropContext, Kept.over, Kept.setUndo, Kept.wreg, Kept.coreFreed]

theorem Kept.execRollback (h : Kept s) (e : execRollback asid s = .next t) : Kept t := by
  grind [execRollback, Kept, Kept.post, Kept.wdogsDone, Kept.dispatch, Kept.rollbackCtx, Kept.postOnce]

theorem Kept.preemptFor (h : Kept s) : Kept (s.preemptFor wg prio) := by
  unfold State.preemptFor
  split
  · split
    · exact h
    · split
      · split
        · exact h
        · exact h.preemptWgs
      · exact h
  · exact h

theorem Kept.handOn (h : Kept s) : Kept (s.handOn fe cls) := by
  grind [State.handOn, Kept, Kept.over, Kept.zeroCores]

theorem Kept.execSliceEnd (h : Kept s) (e : execSliceEnd fe s = .next t) : Kept t := by
  grind [execSliceEnd, Kept, Kept.post, Kept.dispatch, Kept.handOn, Kept.over, Kept.rollbackCtx]

/-! ## Groups that are ready -/

theorem Kept.icacheRoom (h : Kept s) : Kept (s.icacheRoom c) := by
  grind [State.icacheRoom, Kept]

theorem Kept.icacheFill (h : Kept s) : Kept (s.icacheFill c launch asid va key) := by
  grind [State.icacheFill, Kept, Kept.homeRead, Kept.icacheRoom]

theorem Kept.fetchHit (h : Kept s) : Kept (s.fetchHit i va).2 := by
  grind [State.fetchHit, Kept]

theorem Kept.fetchWord (h : Kept s) : Kept (s.fetchWord c launch asid va).2 := by
  grind [State.fetchWord, Kept, Kept.fetchHit, Kept.xlate, Kept.icacheFill]

theorem Kept.fetchWords (h : Kept s) : Kept (s.fetchWords c launch asid n va).2 := by
  induction n generalizing s va with
  | zero => exact h
  | succ n ih => grind [State.fetchWords, Kept.fetchWord]

theorem Kept.fetchPacket (h : Kept s) : Kept (s.fetchPacket c wg pc).2 := h.fetchWords

theorem Kept.execWatchdogFire (h : Kept s) (e : execWatchdogFire asid s = .next t) : Kept t := by
  grind [execWatchdogFire, Kept, Kept.preemptWgs, Kept.over, Kept.wreg, Kept.wdogsDone, Kept.boxPut, Kept.setBit]

/-! ## System registers -/

theorem Kept.regRead (h : Kept s) : Kept (s.regRead r idx).2 := by
  unfold State.regRead
  repeat' split
  all_goals exact h

theorem Kept.deny (h : Kept s) : Kept (s.deny r) := by
  unfold State.deny
  split
  · exact h.bump
  · split
    · exact h.takeTrap
    · exact h

theorem Kept.readView (h : Kept s) : Kept (s.readView r view idx) := by
  grind [State.readView, Kept, Kept.regRead, Kept.deny]

theorem Kept.outsideRead (h : Kept s) : Kept (s.outsideRead r idx) := h.readView

theorem Kept.execFeNoshadowRead (h : Kept s) (e : execFeNoshadowRead req c s = .next t) : Kept t := by
  cases e
  split
  · exact h.readView
  · exact h

theorem Kept.execFeNotifydropRead (h : Kept s) (e : execFeNotifydropRead req n s = .next t) : Kept t := by
  cases e
  split
  · exact h.readView
  · exact h

theorem Kept.execStreamCounterRead (h : Kept s) (e : execStreamCounterRead req slot o s = .next t) : Kept t := by
  cases e
  split
  · exact h.outsideRead
  · exact h

theorem Kept.execTlbSpecdropRead (h : Kept s) (e : execTlbSpecdropRead req fe s = .next t) : Kept t := by
  cases e
  split
  · exact h.readView
  · exact h

theorem Kept.execLodFbdropRead (h : Kept s) (e : execLodFbdropRead req fe c s = .next t) : Kept t := by
  cases e
  split
  · exact h.readView
  · exact h

theorem Kept.execPrqWaitsRead (h : Kept s) (e : execPrqWaitsRead req fe s = .next t) : Kept t := by
  cases e
  split
  · exact h.readView
  · exact h

theorem Kept.unmask (h : Kept s) : Kept (s.unmask view old new) := h.over fun _ _ h => h.vector

theorem Kept.postWrite (h : Kept s) : Kept (s.postWrite is) := h

theorem Kept.writeWakeCtl (h : Kept s) : Kept (s.writeWakeCtl n v) := by
  unfold State.writeWakeCtl
  split
  · exact h.wreg.postWrite
  · exact h.wreg

theorem Kept.writeSide (h : Kept s) : Kept (s.writeSide view idx old v) := by
  unfold State.writeSide
  split
  · exact h.unmask
  split
  · exact h.setBit
  split
  · exact h.posts
  split
  · exact h
  split
  · dsimp only
    split
    · exact h.setBit
    · exact h.setBit.setBit.postOnce
  · exact h

theorem Kept.regWrite (h : Kept s) : Kept (s.regWrite r idx v) := by
  grind [State.regWrite, Kept, Kept.wreg, Kept.postWrite, Kept.writeSide, Kept.writeWakeCtl]

theorem Kept.execRegisterWrite (h : Kept s) (e : execRegisterWrite req idx v s = .next t) : Kept t := by
  cases e
  split
  · exact h.regWrite
  · exact h.deny

theorem Kept.mmio (h : Kept s) : Kept (s.mmio bar off v) := by
  unfold State.mmio
  extract_lets view inside r idx
  split
  · exact h
  · split
    · split
      · exact h.outsideRead
      · exact h
    · split
      · exact h.landed fun _ e => h.execRegisterWrite e
      · exact h

theorem Kept.execSysrd (h : Kept s) (e : execSysrd g d idx s = .next t) : Kept t := by
  grind [execSysrd, Kept, Kept.issued, Kept.eachLane, Kept.updThr, Kept.regRead, Kept.trapHere]

theorem Kept.execSyswr (h : Kept s) (e : execSyswr g v idx s = .next t) : Kept t := by
  grind [execSyswr, Kept, Kept.issued, Kept.eachLane, Kept.trapHere, Kept.trapPoison, Kept.updThr, Kept.regWrite]

theorem Kept.execTtsStep (h : Kept s) (e : execTtsStep v s = .next t) : Kept t := by
  grind [execTtsStep, Kept, Kept.setBit]

theorem Kept.execStepHoldEnd (h : Kept s) (e : execStepHoldEnd s = .next t) : Kept t := by
  grind [execStepHoldEnd, Kept, Kept.setBit]

theorem Kept.stampAt (h : Kept s) : Kept (s.stampAt idx) := h.wreg.wreg

theorem Kept.execReferenceLost (h : Kept s) (e : execReferenceLost s = .next t) : Kept t := by
  grind [execReferenceLost, Kept, Kept.setBit]

theorem Kept.execReferenceRestored (h : Kept s) (e : execReferenceRestored s = .next t) : Kept t := by
  grind [execReferenceRestored, Kept, Kept.setBit]

theorem Kept.invStart (h : Kept s) : Kept (s.invStart fe lvl kind ctx) := by
  grind [State.invStart, Kept, Kept.setBit, Kept.post]

theorem Kept.execTlbInvComplete (h : Kept s) (e : execTlbInvComplete fe s = .next t) : Kept t := by
  grind [execTlbInvComplete, Kept, Kept.over, Kept.l1Drop, Kept.setBit, Kept.walkAgain]

/-! ## Partitions and power -/

theorem Kept.withRange (h : Kept s) : Kept (s.withRange f v) := h.wreg.wreg.wreg

theorem Kept.scrStat (h : Kept s) : Kept (s.scrStat f clusters colours busy d) := h.wreg

theorem Kept.scrubStart (h : Kept s) : Kept (s.scrubStart f cls cols) := by
  grind [State.scrubStart, Kept, Kept.postWrite, Kept.scrStat]

theorem Kept.scrubAdded (h : Kept s) : Kept (s.scrubAdded f cls cols) := by
  unfold State.scrubAdded
  split
  · exact h
  · exact h.scrubStart

theorem Kept.shareClusters (h : Kept s) : Kept (s.shareClusters) := by
  grind [State.shareClusters, Kept, Kept.over]

theorem Kept.execPtnRangeCommit (h : Kept s) (e : execPtnRangeCommit f v s = .next t) : Kept t := by
  grind [execPtnRangeCommit, Kept, Kept.shareClusters, Kept.withRange, Kept.scrubAdded, Kept.moveStrays, Kept.postOnce, Kept.dispatch,
    Kept.readyGo, Kept.wreg]

theorem Kept.execScrubComplete (h : Kept s) (e : execScrubComplete f s = .next t) : Kept t := by
  grind [execScrubComplete, Kept, Kept.over, Kept.zeroCores, Kept.l2Evict, Kept.rdcSync, Kept.dispatch, Kept.irq, Kept.scrStat]

theorem Kept.powerUp (h : Kept s) : Kept (s.powerUp n) := by
  grind [State.powerUp, Kept, Kept.restartCycles]

theorem Kept.wakeEvent (h : Kept s) : Kept (s.wakeEvent n) := by
  grind [State.wakeEvent, Kept, Kept.endDeep, Kept.post, Kept.setWake]

theorem Kept.sendHeld (h : Kept s) : Kept (s.sendHeld fe) := by
  grind [State.sendHeld, Kept, Kept.over, Kept.wreg, Kept.vector]

theorem Kept.flrWake (h : Kept s) : Kept (s.flrWake n) := by
  unfold State.flrWake
  split
  · exact h.endDeep
  · exact h.endDeep.powerUp.setWake.irq.sendHeld

theorem Kept.vfDropped {fe n : Nat} (h : Kept s) : Kept { s with
    cmds := s.cmds.filter fun (c : Cmd) => feOf c.asid != fe
    graphs := s.graphs.filter fun (g : Graph) => feOf g.asid != fe
    faults := s.faults.filter fun (f : FaultRec) => feOf f.asid != fe
    devq := s.devq.filter fun w => feOf (DevWrite.asid w) != fe
    invals := s.invals.filter fun (v : Inval) => v.fe != fe
    fatals := s.fatals.filter fun a => feOf a != fe
    wdogs := s.wdogs.filter fun a => feOf a != fe
    waking := mput 0 s.waking n 0
    regs := s.regs.filter fun (p : Nat × Word) => keepOverFlr n p.1 } := h

theorem Kept.execVfFlr (h : Kept s) (e : execVfFlr n s = .next t) : Kept t := by
  refine Kept.next ?_ e
  split
  · exact h
  · extract_lets fe s0 s1 s2 s3 s4 ctl s5
    have h1 : Kept s1 := h.flrWake
    have h2 : Kept s2 := h1.over fun _ _ h => h.stopCtx
    have h3 : Kept s3 := h2.over fun _ _ h => h.landed fun _ e => h.execCommandComplete e
    have h4 : Kept s4 := h3.over fun _ _ h => h.landed fun _ e => h.execGraphStart e
    clear_value s4
    refine Kept.post (Kept.scrubStart (Kept.boxPut (Kept.wreg (s := s5) ?_)))
    exact h4.vfDropped

theorem Kept.execFlrComplete (h : Kept s) (e : execFlrComplete n s = .next t) : Kept t := by
  cases e
  split
  · exact h.post
  · exact h

theorem Kept.saveArea (h : Kept s) (e : s.saveArea fe = .ok t) : Kept t := by
  grind [State.saveArea, Kept, Kept.barred, Kept.freeBytes, Kept.ctxWrite]

theorem Kept.collapseStart (h : Kept s) : Kept (s.collapseStart n) := by
  unfold State.collapseStart
  split
  · exact h
  · exact (h.setWake.over fun _ _ h => h.rollbackCtx).handOn.haltWgs.post

theorem Kept.collapseSaves (h : Kept s) : Kept (s.collapseSaves n is) := by
  induction is generalizing s with
  | nil => exact h
  | cons i is ih => grind [State.collapseSaves, Kept.saveUnit]

theorem Kept.collapseSave (h : Kept s) : Kept (s.collapseSave n) := by
  grind [State.collapseSave, Kept, Kept.collapseSaves, Kept.saveArea, Kept.feFault, Kept.over, Kept.l1Drop, Kept.rdcSync, Kept.l2Evict,
    Kept.zeroCores, Kept.setWake]

theorem Kept.collapse (h : Kept s) : Kept (s.collapse n) := by
  unfold State.collapse
  split
  · exact h.collapseStart
  · exact h

theorem Kept.execCollapseComplete (h : Kept s) (e : execCollapseComplete n s = .next t) : Kept t := by
  grind [execCollapseComplete, Kept, Kept.setWake, Kept.collapseSave]

theorem Kept.execReservationWake (h : Kept s) (e : execReservationWake n s = .next t) : Kept t := by
  cases e
  split
  · exact h
  · exact h.wakeEvent

theorem Kept.wakeBarred (h : Kept s) : Kept (s.wakeBarred rs).2 := by
  induction rs generalizing s with
  | nil => exact h
  | cons r rs ih => grind [State.wakeBarred, Kept.unreadable]

theorem Kept.wakeWork (h : Kept s) : Kept (s.wakeWork n) := by
  grind [State.wakeWork, Kept, Kept.over, Kept.goOn, Kept.tryUnit]

theorem Kept.awake (h : Kept s) : Kept (s.awake n) := by
  grind [State.awake, Kept, Kept.wreg, Kept.dispatch, Kept.sendHeld, Kept.irq, Kept.over, Kept.moveStrays, Kept.queueGo]

theorem Kept.execWakeComplete (h : Kept s) (e : execWakeComplete n s = .next t) : Kept t := by
  grind [execWakeComplete, Kept, Kept.wakeBarred, Kept.feFault, Kept.wakeWork, Kept.setWake, Kept.powerUp, Kept.awake]

theorem Kept.execDeepStateEntry (h : Kept s) (e : execDeepStateEntry s = .next t) : Kept t := by
  grind [execDeepStateEntry, Kept, Kept.over, Kept.l1Drop, Kept.setWake]

theorem Kept.setPoint (h : Kept s) : Kept (s.setPoint p) := h.wreg

theorem Kept.retarget (h : Kept s) : Kept (s.retarget) := by
  unfold State.retarget
  split
  · exact h.setBit
  · exact h.setBit.postOnce

theorem Kept.execOppStep (h : Kept s) (e : execOppStep s = .next t) : Kept t := by
  cases e
  split
  · exact h.setPoint.retarget
  · split
    · exact h.setPoint.retarget
    · exact h.retarget

theorem Kept.execDroopAlarm (h : Kept s) (e : execDroopAlarm cl s = .next t) : Kept t := by
  grind [execDroopAlarm, Kept, Kept.bump, Kept.boxPut, Kept.post]

theorem Kept.setCap (h : Kept s) : Kept (s.setCap key c) := by
  grind [State.setCap, Kept, Kept.retarget, Kept.setBit]

theorem Kept.execThrottleDown (h : Kept s) (e : execThrottleDown s = .next t) : Kept t := by
  cases e
  split
  · exact h.setCap.irq
  · exact h

theorem Kept.execThrottleUp (h : Kept s) (e : execThrottleUp s = .next t) : Kept t := by
  cases e
  split
  · exact h.setCap
  · exact h

theorem Kept.persistTrip (h : Kept s) : Kept (s.persistTrip before) := by
  grind [State.persistTrip, Kept, Kept.postOnce]

theorem Kept.execThermalTrip (h : Kept s) (e : execThermalTrip s = .next t) : Kept t := by
  grind [execThermalTrip, Kept, Kept.haltWgs, Kept.over, Kept.fatal, Kept.persistTrip, Kept.boxPut, Kept.setBit, Kept.irq]

theorem Kept.sensor (h : Kept s) : Kept (s.sensor power temp) := by
  grind [State.sensor, Kept, Kept.wreg, Kept.landed, Kept.execThermalTrip]

theorem Kept.execFunctionCoreUnresponsive (h : Kept s) (e : execFunctionCoreUnresponsive n s = .next t) : Kept t := by
  cases e
  split
  · exact h.irq
  · exact h

/-! ## Firmware -/

theorem Kept.extend (h : Kept s) : Kept (s.extend item) := ⟨h.1, Vector.length_toList, h.2.2⟩

theorem Kept.recover (h : Kept s) : Kept (s.recover) := by
  grind [State.recover, Kept, Kept.persist, Kept.boxPut]

theorem Kept.startCore (h : Kept s) : Kept (s.startCore im p) := by
  unfold State.startCore
  refine Kept.launchThreads ?_
  exact ⟨Mem.wf_mputs _ _ _ h.1, h.2⟩

theorem Kept.bootKinds (h : Kept s) : Kept (s.bootKinds cfg trip ks) := by
  induction ks generalizing s with
  | nil => exact h
  | cons k ks ih =>
      unfold State.bootKinds
      split
      · exact h.recover
      · have h2 : ∀ {im}, Kept { s.extend im with running := (s.extend im).running ++ [imgSvn im] } := h.extend
        grind [Kept.over, Kept.startCore, Kept.extend, Kept]

theorem Kept.bootRun (h : Kept s) : Kept (s.bootRun trip) := by
  grind [State.bootRun, Kept, Kept.recover, Kept.bootKinds, Kept.extend]

theorem Kept.lost (h : Kept s) : Kept s.lost := ⟨mwf_filter _ _ _ _ h.1, rfl, Nat.zero_le _⟩

theorem Kept.warm (h : Kept s) : Kept (s.warm) := by
  grind [State.warm, Kept, Kept.lost, Kept.setBit, Kept.bootRun, Kept.boxPut]

theorem Kept.mail (h : Kept s) : Kept (s.mail ty st body) := h

theorem Kept.request (h : Kept s) (hf : Kept (f s)) (e : s.request ty inRecovery f = .next t) : Kept t := by
  cases e
  split
  · exact hf
  · split
    · exact hf
    · exact h
  · exact h
  · exact h

theorem Kept.onFlash (h : Kept s) (hf : Kept (f s)) : Kept (s.onFlash ty f) := by
  unfold State.onFlash
  split
  · exact h
  · exact hf

theorem Kept.attest (h : Kept s) : Kept (s.attest body) := by
  grind [State.attest, Kept, Kept.mail, Kept.onFlash]

theorem Kept.execAttest (h : Kept s) (e : execAttest body s = .next t) : Kept t := by
  grind [execAttest, Kept, Kept.request, Kept.attest]

theorem Kept.execGetMeas (h : Kept s) (e : execGetMeas body s = .next t) : Kept t := by
  grind [execGetMeas, Kept, Kept.request, Kept.mail]

theorem Kept.mailChunk (h : Kept s) (hl : ∀ s kind im, Kept s → Kept (last s kind im)) : Kept (s.mailChunk ty lo hi body last) := by
  grind [State.mailChunk, Kept.mail, Kept]

theorem Kept.installImage (h : Kept s) : Kept (s.installImage kind im) := by
  grind [State.installImage, Kept, Kept.mail, Kept.onFlash, Kept.warm]

theorem Kept.execUpdate (h : Kept s) (e : execUpdate body s = .next t) : Kept t := by
  grind [execUpdate, Kept, Kept.request, Kept.mailChunk, Kept.installImage]

theorem Kept.execCommitSvn (h : Kept s) (e : execCommitSvn body s = .next t) : Kept t := by
  grind [execCommitSvn, Kept, Kept.request, Kept.mail, Kept.onFlash]

theorem Kept.xferBusy (h : Kept s) : Kept (s.xferBusy) := by
  grind [State.xferBusy, Kept, Kept.over, Kept.mail]

theorem Kept.xfer (h : Kept s) : Kept (s.xfer body) := by
  grind [State.xfer, Kept, Kept.mail, Kept.onFlash, Kept.xferBusy, Kept.warm, Kept.boxPut]

theorem Kept.execXferOwner (h : Kept s) (e : execXferOwner body s = .next t) : Kept t := by
  grind [execXferOwner, Kept, Kept.request, Kept.xfer]

theorem Kept.installCfg (h : Kept s) : Kept (s.installCfg _kind im) := by
  grind [State.installCfg, Kept, Kept.mail, Kept.onFlash]

theorem Kept.execSetConfig (h : Kept s) (e : execSetConfig body s = .next t) : Kept t := by
  grind [execSetConfig, Kept, Kept.request, Kept.mailChunk, Kept.installCfg]

theorem Kept.execBbxRead (h : Kept s) (e : execBbxRead body s = .next t) : Kept t := by
  grind [execBbxRead, Kept, Kept.request, Kept.mail]

theorem Kept.execBbxSave (h : Kept s) (e : execBbxSave body s = .next t) : Kept t := by
  grind [execBbxSave, Kept, Kept.request, Kept.mail, Kept.persist]

theorem Kept.bmcRead (h : Kept s) : Kept (s.bmcRead idx) := by
  grind [State.bmcRead, Kept, Kept.regRead]

theorem Kept.execBbxPersistComplete (h : Kept s) (e : execBbxPersistComplete s = .next t) : Kept t := by
  grind [execBbxPersistComplete, Kept, Kept.irq, Kept.boxPut, Kept.persist]

theorem Kept.execFabric (h : Kept s) (e : execFabric body s = .next t) : Kept t := by
  grind [execFabric, Kept, Kept.request, Kept.mail]

theorem Kept.doe (h : Kept s) : Kept (s.doe vendor obj bs) := by
  grind [State.doe, Kept, Kept.landed, Kept.request, Kept.mail, Kept.execAttest, Kept.execGetMeas, Kept.execUpdate, Kept.execCommitSvn,
    Kept.execXferOwner, Kept.execSetConfig, Kept.execBbxRead, Kept.execBbxSave, Kept.execFabric]

theorem Kept.writeLines (h : Kept s) : Kept (s.writeLines n pa bs) := by
  induction n generalizing s pa bs with
  | zero => exact h
  | succ n ih => cases bs <;> grind [State.writeLines, Kept.homeWrite]

theorem Kept.execPostedWrite (h : Kept s) (e : execPostedWrite pa data s = .next t) : Kept t := by
  cases e
  split
  · exact h.writeLines
  · exact h

theorem Kept.execFabricAccess (h : Kept s) (e : execFabricAccess pa data s = .next t) : Kept t := by
  cases e
  split
  · exact h
  · split
    · split
      · exact h.writeLines
      · exact h
    · split
      · exact h.fold
      · exact h

theorem Kept.execReductionDelivery (h : Kept s) (e : execReductionDelivery pa ty v s = .next t) : Kept t := by
  cases e
  split
  · exact h
  · split
    · split
      · exact h.rdmEls.bump
      · exact h.rdmEls
    · exact h

theorem Kept.execFabricPortFallback (h : Kept s) (e : execFabricPortFallback port s = .next t) : Kept t := by
  cases e
  split <;> exact h

theorem Kept.execUncorrectableError (h : Kept s) (e : execUncorrectableError s = .next t) : Kept t := by
  cases e
  split
  · exact h.boxPut.persist.recover
  · exact h

theorem Kept.hostRead (h : Kept s) : Kept (s.hostRead pa len) := by
  grind [State.hostRead, Kept, Kept.over, Kept.fold]

theorem Kept.memError (h : Kept s) : Kept (s.memError key hard) := by
  grind [State.memError, Kept, Kept.landed, Kept.execUncorrectableError]

theorem Kept.flashEffect (h : Kept s) : Kept (s.flashEffect i) := by
  unfold State.flashEffect
  split
  · exact h.landed fun _ e => h.execAttest e
  · exact h.landed fun _ e => h.execXferOwner e
  · exact h.doe
  · exact h

theorem Kept.execPowerLoss (h : Kept s) (e : execPowerLoss s = .next t) : Kept t := by
  grind [execPowerLoss, Kept, Kept.flashEffect, Kept.lost]

/-! ## Floating point -/

theorem Kept.execFaddF32 (h : Kept s) (e : execFaddF32 g d a b s = .next t) : Kept t := by
  grind [execFaddF32, Kept, Kept.aluExec]

theorem Kept.execFsubF32 (h : Kept s) (e : execFsubF32 g d a b s = .next t) : Kept t := by
  grind [execFsubF32, Kept, Kept.aluExec]

theorem Kept.execFmulF32 (h : Kept s) (e : execFmulF32 g d a b s = .next t) : Kept t := by
  grind [execFmulF32, Kept, Kept.aluExec]

theorem Kept.execFmaF32 (h : Kept s) (e : execFmaF32 g d a b s = .next t) : Kept t := by
  grind [execFmaF32, Kept, Kept.aluExec]

theorem Kept.execFminF32 (h : Kept s) (e : execFminF32 g d a b s = .next t) : Kept t := by
  grind [execFminF32, Kept, Kept.aluExec]

theorem Kept.execFmaxF32 (h : Kept s) (e : execFmaxF32 g d a b s = .next t) : Kept t := by
  grind [execFmaxF32, Kept, Kept.aluExec]

theorem Kept.execFaddH2 (h : Kept s) (e : execFaddH2 g d a b s = .next t) : Kept t := by
  grind [execFaddH2, Kept, Kept.aluExec]

theorem Kept.execFmulH2 (h : Kept s) (e : execFmulH2 g d a b s = .next t) : Kept t := by
  grind [execFmulH2, Kept, Kept.aluExec]

theorem Kept.execFmaH2 (h : Kept s) (e : execFmaH2 g d a b s = .next t) : Kept t := by
  grind [execFmaH2, Kept, Kept.aluExec]

theorem Kept.execFaddB2 (h : Kept s) (e : execFaddB2 g d a b s = .next t) : Kept t := by
  grind [execFaddB2, Kept, Kept.aluExec]

theorem Kept.execFmulB2 (h : Kept s) (e : execFmulB2 g d a b s = .next t) : Kept t := by
  grind [execFmulB2, Kept, Kept.aluExec]

theorem Kept.execFmaB2 (h : Kept s) (e : execFmaB2 g d a b s = .next t) : Kept t := by
  grind [execFmaB2, Kept, Kept.aluExec]

theorem Kept.execIdot4 (h : Kept s) (e : execIdot4 g d a b s = .next t) : Kept t := by
  grind [execIdot4, Kept, Kept.aluExec]

theorem Kept.execFdot2 (h : Kept s) (e : execFdot2 g d a b s = .next t) : Kept t := by
  grind [execFdot2, Kept, Kept.aluExec]

theorem Kept.execDadd (h : Kept s) (e : execDadd g d a b s = .next t) : Kept t := by
  grind [execDadd, Kept, Kept.aluExec]

theorem Kept.execDmul (h : Kept s) (e : execDmul g d a b s = .next t) : Kept t := by
  grind [execDmul, Kept, Kept.aluExec]

theorem Kept.execDfma (h : Kept s) (e : execDfma g d a b s = .next t) : Kept t := by
  grind [execDfma, Kept, Kept.aluExec]

theorem Kept.execFclass (h : Kept s) (e : execFclass g d a w s = .next t) : Kept t := by
  grind [execFclass, Kept, Kept.aluExec]

theorem Kept.execFop (h : Kept s) (e : execFop g d a b pk fn ty rnd e' s = .next t) : Kept t := by
  grind [execFop, Kept, Kept.aluExec]

theorem Kept.execFrnd (h : Kept s) (e : execFrnd g d a x ty rnd s = .next t) : Kept t := by
  grind [execFrnd, Kept, Kept.aluExec]

theorem Kept.execFsf (h : Kept s) (e : execFsf g d a fn s = .next t) : Kept t := by
  grind [execFsf, Kept, Kept.aluExec]

theorem Kept.execConv (h : Kept s) (e : execConv g d a ts tt rnd s = .next t) : Kept t := by
  grind [execConv, Kept, Kept.aluExec]

theorem Kept.execConvx (h : Kept s) (e : execConvx g d a h' k ty s = .next t) : Kept t := by
  grind [execConvx, Kept, Kept.aluExec]

theorem Kept.execMov (h : Kept s) (e : execMov g d a w s = .next t) : Kept t := by
  grind [execMov, Kept, Kept.aluExec]

theorem Kept.execMovi (h : Kept s) (e : execMovi g d imm s = .next t) : Kept t := by
  grind [execMovi, Kept, Kept.aluExec]

theorem Kept.execMovhi (h : Kept s) (e : execMovhi g d imm s = .next t) : Kept t := by
  grind [execMovhi, Kept, Kept.aluExec]

theorem Kept.execMovk (h : Kept s) (e : execMovk g d w n s = .next t) : Kept t := h.issued (h.eachLane fun _ _ h => h.updThr) e

/-! ## Integers -/

theorem Kept.execIadd (h : Kept s) (e : execIadd g d a b s = .next t) : Kept t := by
  grind [execIadd, Kept, Kept.aluExec]

theorem Kept.execIsub (h : Kept s) (e : execIsub g d a b s = .next t) : Kept t := by
  grind [execIsub, Kept, Kept.aluExec]

theorem Kept.execImul (h : Kept s) (e : execImul g d a b s = .next t) : Kept t := by
  grind [execImul, Kept, Kept.aluExec]

theorem Kept.execImulh (h : Kept s) (e : execImulh g d a b s = .next t) : Kept t := by
  grind [execImulh, Kept, Kept.aluExec]

theorem Kept.execNmulh (h : Kept s) (e : execNmulh g d a b s = .next t) : Kept t := by
  grind [execNmulh, Kept, Kept.aluExec]

theorem Kept.execIma (h : Kept s) (e : execIma g d a b s = .next t) : Kept t := by
  grind [execIma, Kept, Kept.aluExec]

theorem Kept.execImin (h : Kept s) (e : execImin g d a b s = .next t) : Kept t := by
  grind [execImin, Kept, Kept.aluExec]

theorem Kept.execImax (h : Kept s) (e : execImax g d a b s = .next t) : Kept t := by
  grind [execImax, Kept, Kept.aluExec]

theorem Kept.execNmin (h : Kept s) (e : execNmin g d a b s = .next t) : Kept t := by
  grind [execNmin, Kept, Kept.aluExec]

theorem Kept.execNmax (h : Kept s) (e : execNmax g d a b s = .next t) : Kept t := by
  grind [execNmax, Kept, Kept.aluExec]

theorem Kept.execIsad (h : Kept s) (e : execIsad g d a b s = .next t) : Kept t := by
  grind [execIsad, Kept, Kept.aluExec]

theorem Kept.execIadd64 (h : Kept s) (e : execIadd64 g d a b s = .next t) : Kept t := by
  grind [execIadd64, Kept, Kept.aluExec]

theorem Kept.execIsub64 (h : Kept s) (e : execIsub64 g d a b s = .next t) : Kept t := by
  grind [execIsub64, Kept, Kept.aluExec]

theorem Kept.execImul64 (h : Kept s) (e : execImul64 g d a b s = .next t) : Kept t := by
  grind [execImul64, Kept, Kept.aluExec]

theorem Kept.execImaw (h : Kept s) (e : execImaw g d a b s = .next t) : Kept t := by
  grind [execImaw, Kept, Kept.aluExec]

theorem Kept.execNmaw (h : Kept s) (e : execNmaw g d a b s = .next t) : Kept t := by
  grind [execNmaw, Kept, Kept.aluExec]

theorem Kept.execNop (h : Kept s) (e : execNop g s = .next t) : Kept t := h.issued h e

/-! ## Logic -/

theorem Kept.execAnd (h : Kept s) (e : execAnd g d a b s = .next t) : Kept t := by
  grind [execAnd, Kept, Kept.aluExec]

theorem Kept.execOr (h : Kept s) (e : execOr g d a b s = .next t) : Kept t := by
  grind [execOr, Kept, Kept.aluExec]

theorem Kept.execXor (h : Kept s) (e : execXor g d a b s = .next t) : Kept t := by
  grind [execXor, Kept, Kept.aluExec]

theorem Kept.execAndn (h : Kept s) (e : execAndn g d a b s = .next t) : Kept t := by
  grind [execAndn, Kept, Kept.aluExec]

theorem Kept.execShl (h : Kept s) (e : execShl g d a b s = .next t) : Kept t := by
  grind [execShl, Kept, Kept.aluExec]

theorem Kept.execShr (h : Kept s) (e : execShr g d a b s = .next t) : Kept t := by
  grind [execShr, Kept, Kept.aluExec]

theorem Kept.execSar (h : Kept s) (e : execSar g d a b s = .next t) : Kept t := by
  grind [execSar, Kept, Kept.aluExec]

theorem Kept.execSel (h : Kept s) (e : execSel g d a b s = .next t) : Kept t := by
  grind [execSel, Kept, Kept.aluExec]

theorem Kept.execBperm (h : Kept s) (e : execBperm g d a b e' s = .next t) : Kept t := by
  grind [execBperm, Kept, Kept.aluExec]

theorem Kept.execTern (h : Kept s) (e : execTern g d a b e' tt s = .next t) : Kept t := by
  grind [execTern, Kept, Kept.aluExec]

theorem Kept.execFsh (h : Kept s) (e : execFsh g d a b dir amt s = .next t) : Kept t := by
  grind [execFsh, Kept, Kept.aluExec]

theorem Kept.execPcnt (h : Kept s) (e : execPcnt g d a w s = .next t) : Kept t := by
  grind [execPcnt, Kept, Kept.aluExec]

theorem Kept.execClz (h : Kept s) (e : execClz g d a w s = .next t) : Kept t := by
  grind [execClz, Kept, Kept.aluExec]

theorem Kept.execBrev (h : Kept s) (e : execBrev g d a w s = .next t) : Kept t := by
  grind [execBrev, Kept, Kept.aluExec]

theorem Kept.execBfe (h : Kept s) (e : execBfe g d a sx pos len s = .next t) : Kept t := by
  grind [execBfe, Kept, Kept.aluExec]

theorem Kept.execBfi (h : Kept s) (e : execBfi g d a pos len s = .next t) : Kept t := by
  grind [execBfi, Kept, Kept.aluExec]

theorem Kept.execIcmp (h : Kept s) (e : execIcmp g w c p a b s = .next t) : Kept t := by
  grind [execIcmp, Kept, Kept.cmpExec]

theorem Kept.execFcmp (h : Kept s) (e : execFcmp g c p a b s = .next t) : Kept t := by
  grind [execFcmp, Kept, Kept.cmpExec]

theorem Kept.execDcmp (h : Kept s) (e : execDcmp g c p a b s = .next t) : Kept t := by
  grind [execDcmp, Kept, Kept.cmpExec]

theorem Kept.execPlop (h : Kept s) (e : execPlop g p a b tt s = .next t) : Kept t := h.issued (h.eachLane fun _ _ h => h.updThr) e

/-! ## Every instruction and event -/

theorem Kept.exec (h : Kept s) : ∀ {i : Instr}, exec i s = .next t → Kept t
  | .mnop | .lodFlush .. | .halvedIssueEnd .. | .eventMessage | .pcGroupAged .. => Kept.next h
  | .mmac .. | .mbin .. => Kept.next h.chunk
  | .mwait .. | .msig .. => Kept.next h.sqBar
  | .loadReturn .. | .storePerform .. | .rayTestComplete .. => Kept.next h.performOp
  | .allreduce .. | .reduce .. | .broadcast .. | .allgather .. | .reducescatter .. => Kept.next h.collective
  | .resume .. | .clrflags .. => Kept.next h.updSeq
  | .highPriorityPreempt .. | .normalPriorityPreempt .. => Kept.next h.preemptFor
  | .tlbInvStage1Range .. | .tlbInvContext .. | .tlbInvStage2Range .. | .tlbInvFrontEnd .. => Kept.next h.invStart
  | .idleCollapse .. | .collapse .. => Kept.next h.collapse
  | .feDeniedRead .. | .pwrDroopsRead .. => Kept.next h.readView
  | .nop .. => h.execNop
  | .iadd .. => h.execIadd
  | .isub .. => h.execIsub
  | .imul .. => h.execImul
  | .imulh .. => h.execImulh
  | .nmulh .. => h.execNmulh
  | .ima .. => h.execIma
  | .imin .. => h.execImin
  | .imax .. => h.execImax
  | .nmin .. => h.execNmin
  | .nmax .. => h.execNmax
  | .isad .. => h.execIsad
  | .iadd64 .. => h.execIadd64
  | .isub64 .. => h.execIsub64
  | .imul64 .. => h.execImul64
  | .imaw .. => h.execImaw
  | .and .. => h.execAnd
  | .or .. => h.execOr
  | .xor .. => h.execXor
  | .andn .. => h.execAndn
  | .shl .. => h.execShl
  | .shr .. => h.execShr
  | .sar .. => h.execSar
  | .sel .. => h.execSel
  | .tern .. => h.execTern
  | .fsh .. => h.execFsh
  | .pcnt .. => h.execPcnt
  | .clz .. => h.execClz
  | .brev .. => h.execBrev
  | .bfe .. => h.execBfe
  | .bfi .. => h.execBfi
  | .bperm .. => h.execBperm
  | .faddF32 .. => h.execFaddF32
  | .fsubF32 .. => h.execFsubF32
  | .fmulF32 .. => h.execFmulF32
  | .fmaF32 .. => h.execFmaF32
  | .fminF32 .. => h.execFminF32
  | .fmaxF32 .. => h.execFmaxF32
  | .faddH2 .. => h.execFaddH2
  | .fmulH2 .. => h.execFmulH2
  | .fmaH2 .. => h.execFmaH2
  | .faddB2 .. => h.execFaddB2
  | .fmulB2 .. => h.execFmulB2
  | .fmaB2 .. => h.execFmaB2
  | .icmp .. => h.execIcmp
  | .fcmp .. => h.execFcmp
  | .plop .. => h.execPlop
  | .fclass .. => h.execFclass
  | .dadd .. => h.execDadd
  | .dmul .. => h.execDmul
  | .dfma .. => h.execDfma
  | .dcmp .. => h.execDcmp
  | .fop .. => h.execFop
  | .frnd .. => h.execFrnd
  | .fsf .. => h.execFsf
  | .conv .. => h.execConv
  | .convb .. => h.execConvb
  | .convx .. => h.execConvx
  | .scaleb .. => h.execScaleb
  | .idot4 .. => h.execIdot4
  | .fdot2 .. => h.execFdot2
  | .nmaw .. => h.execNmaw
  | .mov .. => h.execMov
  | .movi .. => h.execMovi
  | .movhi .. => h.execMovhi
  | .movk .. => h.execMovk
  | .srd .. => h.execSrd
  | .swz .. => h.execSwz
  | .vote .. => h.execVote
  | .lred .. => h.execLred
  | .lscan .. => h.execLscan
  | .trsp .. => h.execTrsp
  | .part .. => h.execPart
  | .rep .. => h.execRep
  | .derx .. => h.execDerx
  | .dery .. => h.execDery
  | .qput .. => h.execQput
  | .qget .. => h.execQget
  | .jmp .. => h.execJmp
  | .jmpx .. => h.execJmpx
  | .call .. => h.execCall
  | .ret .. => h.execRet
  | .exit .. => h.execExit
  | .spawn .. => h.execSpawn
  | .cont .. => h.execCont
  | .reorder .. => h.execReorder
  | .yield .. => h.execYield
  | .bar .. => h.execBar
  | .gbar .. => h.execGbar
  | .wait .. => h.execWait
  | .trap .. => h.execTrap
  | .rett .. => h.execRett
  | .brk .. => h.execBrk
  | .time .. => h.execTime
  | .ld .. => h.execLd
  | .st .. => h.execSt
  | .lsp .. => h.execLsp
  | .ssp .. => h.execSsp
  | .ldlod .. => h.execLdlod
  | .sample .. => h.execSample
  | .atm .. => h.execAtm
  | .atms .. => h.execAtms
  | .rdm .. => h.execRdm
  | .vbmin .. => h.execVbmin
  | .pref .. => h.execPref
  | .fence .. => h.execFence
  | .monwait .. => h.execMonwait
  | .txbegin .. => h.execTxbegin
  | .txend .. => h.execTxend
  | .txctlAbort .. => h.execTxctlAbort
  | .txctlTest .. => h.execTxctlTest
  | .qbind .. => h.execQbind
  | .cplwait .. => h.execCplwait
  | .cpltest .. => h.execCpltest
  | .hoist .. => h.execHoist
  | .hoistClose .. => h.execHoistClose
  | .binFlush .. => h.execBinFlush
  | .binCount .. => h.execBinCount
  | .rbox .. => h.execRbox
  | .rtri .. => h.execRtri
  | .rstkPush .. => h.execRstkPush
  | .rstkPop .. => h.execRstkPop
  | .rstkDepth .. => h.execRstkDepth
  | .rstkClear .. => h.execRstkClear
  | .resv .. => h.execResv
  | .rfree .. => h.execRfree
  | .accrd .. => h.execAccrd
  | .seq .. => h.execSeq
  | .sysrd .. => h.execSysrd
  | .syswr .. => h.execSyswr
  | .mzero .. => h.execMzero
  | .mrenorm .. => h.execMrenorm
  | .mexport .. => h.execMexport
  | .mloop .. => h.execMloop
  | .mend => h.execMend
  | .mphase .. => h.execMphase
  | .mstep .. => h.execMstep
  | .binLaunch .. => h.execBinLaunch
  | .ringUnitMove .. => h.execRingUnitMove
  | .workgroupPlacement .. => h.execWorkgroupPlacement
  | .gangPlacement .. => h.execGangPlacement
  | .hoistDelivery .. => h.execHoistDelivery
  | .txValidation .. => h.execTxValidation
  | .monwaitPoll .. => h.execMonwaitPoll
  | .cplwaitPoll .. => h.execCplwaitPoll
  | .copy .. => h.execCopy
  | .fill .. => h.execFill
  | .tile .. => h.execTile
  | .gather .. => h.execGather
  | .scatter .. => h.execScatter
  | .graph .. => h.execGraph
  | .commandComplete .. => h.execCommandComplete
  | .notifyPush .. => h.execNotifyPush
  | .abandon .. => h.execAbandon
  | .seqStreamStart .. => Kept.next h.seqStart
  | .orderedStepApply .. => h.execOrderedStepApply
  | .queueNotify .. => h.execQueueNotify
  | .queueEnable .. => Kept.next h.writeQctl
  | .run .. => h.execRun
  | .register .. => h.execRegister
  | .retire .. => h.execRetire
  | .graphStart .. => h.execGraphStart
  | .kernelNode .. => h.execKernelNode
  | .copyNode .. => h.execCopyNode
  | .condNode .. => h.execCondNode
  | .loopNode .. => h.execLoopNode
  | .loopIterationEnd .. => h.execLoopIterationEnd
  | .signalNode .. => h.execSignalNode
  | .extwaitNode .. => h.execExtwaitNode
  | .subgraphNode .. => h.execSubgraphNode
  | .renderNode .. => h.execRenderNode
  | .shadeNode .. => h.execShadeNode
  | .publishNode .. => h.execPublishNode
  | .nodeComplete .. => h.execNodeComplete
  | .chainInstantiate .. => h.execChainInstantiate
  | .tileComplete .. => h.execTileComplete
  | .haloCopy .. => h.execHaloCopy
  | .shadingRatePrediction .. => h.execShadingRatePrediction
  | .renderWindowEnd .. => h.execRenderWindowEnd
  | .shadeHardFinish .. => h.execShadeHardFinish
  | .hardFinish .. => h.execHardFinish
  | .scanout .. => h.execScanout
  | .streamOpen .. => h.execStreamOpen
  | .streamClose .. => Kept.next h.updStream.stripSweep
  | .reservationStart .. => h.execReservationStart
  | .reservationEnd .. => h.execReservationEnd
  | .ttsStep .. => h.execTtsStep
  | .stepHoldEnd => h.execStepHoldEnd
  | .sliceEnd .. => h.execSliceEnd
  | .preemptHalt .. => h.execPreemptHalt
  | .preciseSave .. => h.execPreciseSave
  | .resumePlacement .. => h.execResumePlacement
  | .checkpoint .. => h.execCheckpoint
  | .checkpointComplete .. => h.execCheckpointComplete
  | .rollback .. => h.execRollback
  | .watchdogFire .. => h.execWatchdogFire
  | .accessFault .. => h.execAccessFault
  | .faultRecordWrite .. => h.execFaultRecordWrite
  | .prqEntryGrant .. => h.execPrqEntryGrant
  | .pageRequestRetry .. => h.execPageRequestRetry
  | .pageRequestRefuse .. => h.execPageRequestRefuse
  | .tlbInvComplete .. => h.execTlbInvComplete
  | .registerWrite .. => h.execRegisterWrite
  | .ptnRangeCommit .. => h.execPtnRangeCommit
  | .scrubComplete .. => h.execScrubComplete
  | .vfFlr .. => h.execVfFlr
  | .flrComplete .. => h.execFlrComplete
  | .collapseComplete .. => h.execCollapseComplete
  | .wakeWake .. => Kept.next h.wakeEvent
  | .reservationWake .. => h.execReservationWake
  | .wakeComplete .. => h.execWakeComplete
  | .deepStateEntry => h.execDeepStateEntry
  | .oppStep => h.execOppStep
  | .bbxPersistComplete => h.execBbxPersistComplete
  | .ttsDlcloRead .. => Kept.next h.outsideRead
  | .ppsEdge => Kept.next h.stampAt.setBit
  | .referenceLost => h.execReferenceLost
  | .genlockEdge => Kept.next h.stampAt
  | .feNoshadowRead .. => h.execFeNoshadowRead
  | .feNotifydropRead .. => h.execFeNotifydropRead
  | .streamCounterRead .. => h.execStreamCounterRead
  | .tlbSpecdropRead .. => h.execTlbSpecdropRead
  | .lodFbdropRead .. => h.execLodFbdropRead
  | .prqWaitsRead .. => h.execPrqWaitsRead
  | .stage2Resolve .. => h.execStage2Resolve
  | .stage2Refused .. => h.execStage2Refused
  | .droopAlarm .. => h.execDroopAlarm
  | .throttleDown => h.execThrottleDown
  | .throttleUp => h.execThrottleUp
  | .thermalTrip => h.execThermalTrip
  | .coldReset => Kept.next h.lost.boxPut.bootRun
  | .warmReset => Kept.next h.warm
  | .attest .. => h.execAttest
  | .getMeas .. => h.execGetMeas
  | .update .. => h.execUpdate
  | .commitSvn .. => h.execCommitSvn
  | .xferOwner .. => h.execXferOwner
  | .setConfig .. => h.execSetConfig
  | .bbxRead .. => h.execBbxRead
  | .bbxSave .. => h.execBbxSave
  | .fabric .. => h.execFabric
  | .bmcBbxSave => Kept.next h.persist
  | .reductionDelivery .. => h.execReductionDelivery
  | .referenceRestored => h.execReferenceRestored
  | .powerLoss => h.execPowerLoss
  | .uncorrectableError => h.execUncorrectableError
  | .postedWrite .. => h.execPostedWrite
  | .fabricAccess .. => h.execFabricAccess
  | .functionCoreUnresponsive .. => h.execFunctionCoreUnresponsive
  | .fabricPortFallback .. => h.execFabricPortFallback
  | .l2Eviction .. => h.execL2Eviction
  | .l1DirtyTimeout .. => h.execL1DirtyTimeout
  | .l1NarrowTimeout .. => h.execL1NarrowTimeout
  | .binTimerExpiry .. => h.execBinTimerExpiry
  | .reorderTimerExpiry .. => h.execReorderTimerExpiry

/-! ## Selection -/

theorem Kept.runInstrs (h : Kept s) : Kept (s.runInstrs ps) := by
  induction ps generalizing s with
  | nil => exact h
  | cons p ps ih =>
      unfold State.runInstrs
      dsimp only
      have h1 : Kept { s with iss := { s.iss with slot := p.1 } } := h
      exact ih (h1.landed fun _ e => h1.exec e)

theorem Kept.enterIssue (h : Kept s) : Kept (s.enterIssue c gid pc ch lanes muted) := h

theorem Kept.endRepeat (h : Kept s) : Kept (s.endRepeat) := h

theorem Kept.chainRun (h : Kept s) : Kept (s.chainRun c gid pc ch lanes muted) := by
  unfold State.chainRun
  dsimp only
  split
  · refine Kept.trapAll ?_
    exact h
  · split
    · exact h.enterIssue.runInstrs.endRepeat
    · exact h.enterIssue.runInstrs

theorem Kept.settle (h : Kept s) : Kept (s.settle c gid pc ch n lanes muted).2 := by
  induction n generalizing lanes muted with
  | zero => exact h.chainRun
  | succ n ih => grind [State.settle, Kept.chainRun]

theorem Kept.fetchFault (h : Kept s) : Kept (s.fetchFault asid pc f lanes) := by
  unfold State.fetchFault
  split
  · exact h
  · exact h.newFault.updFault

theorem Kept.issuedAt (h : Kept r.after) : Kept (s.issuedAt g r) := h

theorem Kept.countYields (h : Kept s) : Kept (s.countYields g) := h

theorem Kept.readyAt (h : Kept s) (e : s.readyAt g ts = some r) : Kept r.after := by
  unfold State.readyAt at e
  split at e
  · cases e
  · grind [Kept.fetchPacket, Kept.fetchFault, Kept.settle]

theorem Kept.selectFrom (h : Kept s) (e : s.selectFrom g = some t) : Kept t := by
  unfold State.selectFrom at e
  dsimp only at e
  split at e
  · cases e
  · next a rest he =>
    have ha : a ∈ (s.countYields g).readyGroups g := mem_sortKey.mp (he ▸ List.mem_cons_self)
    obtain ⟨k, -, hk⟩ := List.mem_filterMap.mp ha
    cases e
    exact Kept.issuedAt (s := s.countYields g) (g := g) (h.countYields.readyAt hk)

theorem Kept.issueSecond (h : Kept s) (e : s.issueSecond = some t) : Kept t := by
  unfold State.issueSecond at e
  split at e
  · cases e
  · split at e
    · cases e
    · obtain ⟨r, hr, rfl⟩ := Option.map_eq_some_iff.mp e
      exact Kept.issuedAt (Kept.readyAt (s := { s with second := none }) h hr)

theorem Kept.stillAged (h : Kept s) : Kept (s.stillAged) := by
  unfold State.stillAged
  split <;> exact h

theorem Kept.firstActing {f : α → Option State} (hf : ∀ x t, f x = some t → Kept t) (e : firstActing f xs = some t) : Kept t := by
  induction xs with
  | nil => cases e
  | cons x xs ih => grind [Machine.firstActing]

theorem Kept.pendingTrap (h : Kept s) (e : s.pendingTrap = some t) : Kept t := by
  obtain ⟨x, -, rfl⟩ := Option.map_eq_some_iff.mp e
  exact h.takePend

theorem Kept.threadTurn (h : Kept s) (e : s.threadTurn = some t) : Kept t := by
  grind [State.threadTurn, Kept, Kept.pendingTrap, Kept.issueSecond, Kept.firstActing, Kept.selectFrom]

theorem Kept.seqFetch (h : Kept s) : Kept (s.seqFetch w c pc).2 := by
  grind [State.seqFetch, Kept, Kept.l1Load]

theorem Kept.seqFault (h : Kept s) : Kept (s.seqFault w c pc f) := by
  grind [State.seqFault, Kept, Kept.newFault, Kept.updSeq]

theorem Kept.seqExec (h : Kept s) : Kept (s.seqExec w i n) := by
  grind [State.seqExec, Kept, Kept.updSeq, Kept.landed, Kept.exec]

theorem Kept.seqIssue (h : Kept s) : Kept (s.seqIssue w q c) := by
  grind [State.seqIssue, Kept, Kept.seqFetch, Kept.seqFault, Kept.seqTrap, Kept.seqExec]

theorem Kept.seqTurn (h : Kept s) (e : s.seqTurn = some t) : Kept t := by
  grind [State.seqTurn, Kept, Kept.seqIssue]

theorem Kept.nextEvent (h : Kept s) (e : s.nextEvent = some t) : Kept t := by
  obtain ⟨i, -, rfl⟩ := Option.map_eq_some_iff.mp e
  have h1 : Kept { s with agenda := s.agenda.erase i } := h
  exact h1.landed fun _ e => h1.exec e

theorem Kept.writeFirst (h : Kept s) (e : s.writeFirst = some t) : Kept t := by
  grind [State.writeFirst, Kept, Kept.nextEvent]

theorem Kept.input (h : Kept s) (e : s.input i = .next t) : Kept t := by
  cases i <;> grind [State.input, Kept.exec, Kept.mmio, Kept.bmcRead, Kept.doe, Kept.hostRead, Kept.memError, Kept.sensor, Kept]

theorem Kept.nextInput (h : Kept s) (e : s.nextInput = some (i, t)) : Kept t := by
  obtain ⟨x, -, hx⟩ := Option.map_eq_some_iff.mp e
  cases hx
  exact h

theorem Kept.keepTime (h : Kept s) : Kept (s.keepTime) := h

theorem Kept.lineLimits (h : Kept s) : Kept (s.lineLimits l) := by
  grind [State.lineLimits, Kept, Kept.landed, Kept.execL1DirtyTimeout, Kept.execL1NarrowTimeout]

theorem Kept.allLimits (h : Kept s) : Kept (s.allLimits) := by
  grind [State.allLimits, Kept, Kept.over, Kept.lineLimits]

theorem Kept.runProtect (h : Kept s) : Kept (s.runProtect d) := by
  grind [State.runProtect, Kept, Kept.over, Kept.protectEnds]

theorem Kept.tick (h : Kept s) : Kept (s.tick) := by
  grind [State.tick, Kept, Kept.runProtect, Kept.keepTime, Kept.stillAged, Kept.allLimits]

theorem Kept.expire (h : Kept s) : Kept (s.expire p) := by
  grind [State.expire, Kept, Kept.runProtect, Kept.reach, Kept.landed, Kept.execBinTimerExpiry, Kept.execReorderTimerExpiry,
    Kept.execL1DirtyTimeout, Kept.execL1NarrowTimeout, Kept.openWindow, Kept.execShadingRatePrediction, Kept.exec]

theorem Kept.timerTurn (h : Kept s) (e : s.timerTurn idle = some t) : Kept t := by
  grind [State.timerTurn, Kept, Kept.expire]

theorem Kept.source (h : Kept s) (e : s.source k = some t) : Kept t := by
  grind [State.source, Kept, Kept.nextEvent, Kept.threadTurn, Kept.seqTurn]

theorem Kept.ownTurn (h : Kept s) : Kept s.ownTurn := by
  have own : ∀ t, (match Machine.firstActing (fun k => (s.source k).map fun s1 => ({ s1 with turn := (k + 1) % 3 } : State))
      [s.turn, s.turn + 1, s.turn + 2] with
      | some s1 => some s1
      | none => s.timerTurn true) = some t → Kept t := by
    intro t e
    split at e
    · next e' =>
      cases e
      refine Kept.firstActing (fun k t e => ?_) e'
      obtain ⟨u, hu, rfl⟩ := Option.map_eq_some_iff.mp e
      have hk : Kept u := h.source hu
      exact hk
    · exact h.timerTurn e
  have getD : ∀ {o : Option State}, (∀ t, o = some t → Kept t) → Kept (o.getD s) := by
    intro o ho
    cases o
    · exact h
    · exact ho _ rfl
  unfold State.ownTurn
  dsimp only
  split
  · refine getD fun t e => ?_
    cases ht : s.timerTurn false with
    | none => exact own t (by rwa [ht] at e)
    | some u => exact h.timerTurn (ht.trans (by rwa [ht] at e))
  · exact getD own

/-! ## The step -/

theorem Kept.step (h : Kept s) (e : step s = .next t) : Kept t := by
  unfold Machine.step at e
  split at e
  · next e' => cases e; exact h.tick.writeFirst e'
  · split at e
    · next e' => exact (h.tick.nextInput e').input e
    · cases e
      exact h.tick.ownTurn

end

/-- Settles O59: each operation of the model keeps the three, and a step is made of them. -/
theorem stepKeeps : Obligations.StepKeeps := by
  unfold Obligations.StepKeeps
  intro s t h e
  exact wellKept_iff.mpr ((wellKept_iff.mp h).step e)

end Sys2Proof.Machine
end

section
/-! O60, ResetState: at reset no register is listed, so each one reads the reset value of its block. -/

namespace Sys2Proof.Machine

/-! ## Reset values by blocks -/

theorem regReset_low {k i : Nat} (hk : k % 16384 = i) (h : i < 0x0800) : regReset k = 0#32 := by
  have notQueue : ¬(0x0800 ≤ i) := by omega
  have notContext : ¬(0x0A00 ≤ i) := by omega
  have notPartition : ¬(0x1000 ≤ i) := by omega
  have notWake : ¬(0x1800 ≤ i) := by omega
  have notTranslation : ¬(0x1C00 ≤ i) := by omega
  have notLod : ¬(0x2400 ≤ i) := by omega
  have notPower : i ≠ 0x2C02 := by omega
  simp [regReset, hk, notQueue, notContext, notPartition, notWake, notTranslation, notLod, notPower]

theorem regReset_queue {k i : Nat} (hk : k % 16384 = i) (h : 0x0800 ≤ i ∧ i < 0x0A00) :
    regReset k = if i % 16 = 0 then 0x08000000#32 else if i % 16 = 3 then 16#32 else 0#32 := by
  simp [regReset, hk, h]

theorem regReset_context {k i : Nat} (hk : k % 16384 = i) (h : 0x0A00 ≤ i ∧ i < 0x0C00) :
    regReset k = if i % 8 = 0 then 100#32 else if i % 8 = 5 then 10000#32 else 0#32 := by
  have notQueue : ¬(i < 0x0A00) := by omega
  simp [regReset, hk, h, notQueue]

theorem regReset_partition {k i : Nat} (hk : k % 16384 = i) (h : 0x1000 ≤ i ∧ i < 0x1088) :
    regReset k = if i = 0x1000 then 0x80110000#32 else if i = 0x1001 ∨ i = 0x1002 ∨ i = 0x1005 ∨ i = 0x1006 then 0xFFFFFFFF#32
      else if i % 8 = 3 then 1000#32 else 0#32 := by
  have notQueue : ¬(i < 0x0A00) := by omega
  have notContext : ¬(i < 0x0C00) := by omega
  simp [regReset, hk, h, notQueue, notContext, or_assoc]

theorem regReset_wake {k : Nat} (h : 0x1800 ≤ k ∧ k < 0x1880) : regReset k = if k % 8 = 2 then 1000#32 else 0#32 := by
  have hk : k % 16384 = k := by omega
  have notQueue : ¬(k < 0x0A00) := by omega
  have notContext : ¬(k < 0x0C00) := by omega
  have notPartition : ¬(k < 0x1088) := by omega
  simp [regReset, hk, h, notQueue, notContext, notPartition]

theorem regReset_translation {k i : Nat} (hk : k % 16384 = i) (h : 0x1C00 ≤ i ∧ i < 0x1E00) : regReset k = if i % 8 = 4 then 16#32 else 0#32 := by
  have notQueue : ¬(i < 0x0A00) := by omega
  have notContext : ¬(i < 0x0C00) := by omega
  have notPartition : ¬(i < 0x1088) := by omega
  have notWake : ¬(i < 0x1880) := by omega
  simp [regReset, hk, h, notQueue, notContext, notPartition, notWake]

theorem regReset_lod {k i : Nat} (hk : k % 16384 = i) (h : 0x2400 ≤ i ∧ i < 0x2600) : regReset k = if i % 8 = 2 then 64#32 else 0#32 := by
  have notQueue : ¬(i < 0x0A00) := by omega
  have notContext : ¬(i < 0x0C00) := by omega
  have notPartition : ¬(i < 0x1088) := by omega
  have notWake : ¬(i < 0x1880) := by omega
  have notTranslation : ¬(i < 0x1E00) := by omega
  simp [regReset, hk, h, notQueue, notContext, notPartition, notWake, notTranslation]

theorem regReset_power {k i : Nat} (hk : k % 16384 = i) (h : 0x2600 ≤ i) : regReset k = if i = 0x2C02 then 2400#32 else 0#32 := by
  have notQueue : ¬(i < 0x0A00) := by omega
  have notContext : ¬(i < 0x0C00) := by omega
  have notPartition : ¬(i < 0x1088) := by omega
  have notWake : ¬(i < 0x1880) := by omega
  have notTranslation : ¬(i < 0x1E00) := by omega
  have notLod : ¬(i < 0x2600) := by omega
  simp [regReset, hk, notQueue, notContext, notPartition, notWake, notTranslation, notLod]

/-! ## Where a view's registers stand -/

/-- Outside the blocks that the views share, a register has its own index. -/
theorem regKey_own {view idx : Nat} (h : idx < 0x0C00 ∨ 0x1808 ≤ idx) (hi : idx < 16384) : regKey view idx % 16384 = idx := by
  have notShared : ¬(0x0C00 ≤ idx ∧ idx < 0x1800) := by omega
  have notWake : ¬(0x1800 ≤ idx ∧ idx < 0x1808) := by omega
  simp only [regKey, regHome, Bool.and_eq_true, decide_eq_true_eq, notShared, notWake, false_and, if_false]
  omega

theorem reset_rreg (view idx : Nat) : State.reset.rreg view idx = regReset (regKey view idx) := rfl

/-- The registers of one partition, in the block that the views share. -/
theorem reset_rreg_partition {i : Nat} (h : 0x1000 ≤ i ∧ i < 0x1088) :
    State.reset.rreg 0 i = if i = 0x1000 then 0x80110000#32 else if i = 0x1001 ∨ i = 0x1002 ∨ i = 0x1005 ∨ i = 0x1006 then 0xFFFFFFFF#32
      else if i % 8 = 3 then 1000#32 else 0#32 := by
  have shared : 0x0C00 ≤ i ∧ i < 0x1800 := by omega
  refine regReset_partition ?_ h
  simp only [regKey, regHome, Bool.and_eq_true, decide_eq_true_eq, shared, and_self, if_true]
  omega

theorem reset_rreg_wake (n : Nat) {i : Nat} (hn : n < 16) (h : i < 8) : State.reset.rreg (n + 1) (0x1800 + i) = if i = 2 then 1000#32 else 0#32 := by
  rw [reset_rreg, regKey_wake (by omega) (by omega) (by omega), regReset_wake (by omega)]
  exact if_congr (by omega) rfl rfl

theorem reset_rreg_power {i : Nat} (h : i < 16) : State.reset.rreg 0 (0x2C00 + i) = if i = 2 then 2400#32 else 0#32 := by
  refine (regReset_power (regKey_own (by omega) (by omega)) (by omega)).trans ?_
  exact if_congr (by omega) rfl rfl

/-- Settles O60: a register reads the reset value of its block, whose value the remainder of the index fixes. -/
theorem resetState : Obligations.ResetState := by
  unfold Obligations.ResetState
  refine ⟨wellKept_iff.mpr ⟨rfl, List.length_replicate, Nat.zero_le _⟩, rfl, rfl, rfl, fun view q _ hq => ?queues, fun view c _ hc => ?contexts,
    reset_rreg_partition (by decide), reset_rreg_partition (by decide), reset_rreg_partition (by decide), fun f hf => ?clusters, fun f hf hf' => ?vfs,
    fun n hn => ?wakes, fun view hv => ?irqs, reset_rreg_power (i := 2) (by decide), reset_rreg_power (i := 3) (by decide),
    reset_rreg_power (i := 4) (by decide)⟩
  case queues =>
    simp only [reset_rreg]
    refine ⟨?_, ?_, ?_, ?_⟩ <;> rw [regReset_queue (regKey_own (by omega) (by omega)) (by omega)]
    all_goals simp [Nat.add_mod]
  case contexts =>
    simp only [reset_rreg]
    refine ⟨?_, ?_, ?_, ?_, ?_⟩
    · rw [regReset_context (regKey_own (by omega) (by omega)) (by omega)]; simp [Nat.add_mod]
    · rw [regReset_context (regKey_own (by omega) (by omega)) (by omega)]; simp [Nat.add_mod]
    · rw [regReset_translation (regKey_own (by omega) (by omega)) (by omega)]; simp [Nat.add_mod]
    · rw [regReset_translation (regKey_own (by omega) (by omega)) (by omega)]; simp [Nat.add_mod]
    · rw [regReset_lod (regKey_own (by omega) (by omega)) (by omega)]; simp [Nat.add_mod]
  case clusters => rw [reset_rreg_partition (by omega), if_neg (by omega), if_neg (by omega), if_pos (by omega)]
  case vfs => rw [reset_rreg_partition (by omega), if_neg (by omega), if_neg (by omega), if_neg (by omega)]
  case wakes => exact ⟨reset_rreg_wake n (i := 0) hn (by decide), reset_rreg_wake n (i := 2) hn (by decide), reset_rreg_wake n (i := 3) hn (by decide)⟩
  case irqs =>
    simp only [reset_rreg]
    exact ⟨regReset_low (regKey_own (by decide) (by decide)) (by decide), regReset_low (regKey_own (by decide) (by decide)) (by decide)⟩
end Sys2Proof.Machine
end

section
/-! O34, RegisterLevels: what a requester's level and view open, block by block of the register map. -/

namespace Sys2Proof.Machine

/-- The registers that open to level S alone (R347). -/
theorem secOnly_iff {idx : Nat} : secOnly idx = true ↔ idx = 0x1E00 ∨ idx = 0x1E01 ∨ idx = 0x1E09 ∨ idx = 0x1E0A := by
  simp [secOnly, or_assoc]

/-- What a level opens, with the level's rights spelled out. -/
theorem opens_iff (r : Requester) (idx : Nat) (write : Bool) : Requester.opens r idx write = true ↔
    (0x0400 ≤ idx ∧ idx < 0x3000) ∧
    (r.view = 0 → if Level.atLeastR r.level then (0x2800 ≤ idx → idx < 0x2C00 → write = false) ∧ (secOnly idx = true → r.level = .s)
      else Level.atLeastF r.level = true ∧ idx < 0x0800 ∧ ¬(0x0460 ≤ idx ∧ idx < 0x0472) ∧ (write = true → ¬(0x0480 ≤ idx ∧ idx < 0x04B0)))
    ∧ (r.view ≠ 0 → idx < 0x2800 ∧ (secOnly idx = true → r.level = .s) ∧ Level.atLeastF r.level = true ∧
      (Level.atLeastR r.level = false → write = true → ¬(0x0C00 ≤ idx ∧ idx < 0x1800) ∧ ¬(0x2000 ≤ idx ∧ idx < 0x2400))) := by
  obtain ⟨view, level, host, slot⟩ := r
  have sec : secOnly idx = true → 0x1E00 ≤ idx ∧ idx < 0x1E0B := by rw [secOnly_iff]; omega
  cases level <;> simp [Requester.opens, Level.atLeastF, Level.atLeastR] <;> grind

/-- Settles O34: at each level and view the rights of `opens_iff` come down to ranges of indices. -/
theorem registerLevels : Obligations.RegisterLevels := by
  unfold Obligations.RegisterLevels
  intro r idx write
  simp only [opens_iff, secOnly_iff]
  refine ⟨fun hl => ?_, fun hi => ?_, fun hl hv => ?_, fun hl hv => ?_, fun hl hv => ?_, fun hl hv => ?_, fun hl hv => ?_, fun hl hv => ?_⟩
  · by_cases hv : r.view = 0 <;> simp [hl, hv, Level.atLeastF, Level.atLeastR]
  · omega
  · simp only [hl, hv, Level.atLeastR]
    cases write
    · simp
    · simp
      omega
  · simp only [hl, hv, Level.atLeastR]
    cases write <;> simp <;> omega
  · simp only [hl, hv, Level.atLeastF, Level.atLeastR]
    simp
    omega
  · simp only [hl, hv, Level.atLeastF, Level.atLeastR]
    simp
    omega
  · simp only [hl, hv, Level.atLeastF, Level.atLeastR]
    cases write <;> simp <;> omega
  · simp only [hl, hv, Level.atLeastF, Level.atLeastR]
    cases write <;> simp <;> omega

end Sys2Proof.Machine
end

section
/-! SUPPORT. All that an operation at a home or on an L1 line can change: memory, the caches and what they combine, waiting threads, events to come,
and the counter of names. Whatever else the state has stays. -/

namespace Sys2Proof.Machine

/-- The state with the memory and the caches of another one, and what their changes reach. -/
def State.cachesOf (s t : State) : State :=
  { s with mem := t.mem, l1 := t.l1, l2 := t.l2, rdc := t.rdc, shadows := t.shadows, threads := t.threads, agenda := t.agenda, fresh := t.fresh }

/-- State `t` differs from `s` in memory and the caches alone. -/
def InCaches (s t : State) : Prop := t = s.cachesOf t

theorem InCaches.trans {s t u : State} (h : InCaches s t) (k : InCaches t u) : InCaches s u := by
  have twice : t.cachesOf u = (s.cachesOf t).cachesOf u := congrArg (State.cachesOf · u) h
  exact Eq.trans k twice

theorem InCaches.over {f : State → β → State} (hf : ∀ s x, InCaches s (f s x)) : ∀ (xs : List β) (s : State), InCaches s (s.over xs f)
  | [], _ => rfl
  | x :: xs, s => (hf s x).trans (InCaches.over hf xs (f s x))

theorem inCaches_fold (s : State) (line : Nat) : InCaches s (s.fold line) := by
  unfold State.fold
  split <;> rfl

theorem inCaches_touched (s : State) (key : Nat) (keep : Option Nat) : InCaches s (s.touched key keep) := rfl

theorem inCaches_rdcFlush (s : State) (r : RdcLine) : InCaches s (s.rdcFlush r) := by
  unfold State.rdcFlush
  split <;> rfl

theorem inCaches_rdcSync (s : State) (asid : Nat) (drop : Bool) : InCaches s (s.rdcSync asid drop) := by
  have flushed := InCaches.over inCaches_rdcFlush (s.rdc.filter (·.asids.contains asid)) s
  unfold State.rdcSync
  split
  · exact flushed.trans rfl
  · exact flushed

theorem inCaches_rdcDrop (s : State) (line : Nat) : InCaches s (s.rdcDrop line) := (InCaches.over inCaches_rdcFlush _ s).trans rfl

theorem inCaches_l2Evict (s : State) (line : Nat) : InCaches s (s.l2Evict line) := (inCaches_fold s line).trans rfl

theorem inCaches_l2Room (s : State) (colour line : Nat) : InCaches s (s.l2Room colour line) := by
  unfold State.l2Room
  dsimp only
  split
  · rfl
  · split
    · exact InCaches.trans (t := { s with fresh := s.fresh + 1 }) rfl (inCaches_l2Evict _ _)
    · rfl

theorem inCaches_l2Fill (s : State) (fe line : Nat) : InCaches s (s.l2Fill fe line) := by
  unfold State.l2Fill
  split
  · rfl
  · split
    · rfl
    · exact (inCaches_l2Room s _ _).trans rfl

theorem inCaches_rdcRoom (s : State) (line : Nat) : InCaches s (s.rdcRoom line) := by
  unfold State.rdcRoom
  dsimp only
  split
  · rfl
  · split
    · exact InCaches.trans (t := { s with fresh := s.fresh + 1 }) rfl (inCaches_rdcDrop _ _)
    · rfl

theorem inCaches_rdcFill (s : State) (asid line : Nat) : InCaches s (s.rdcFill asid line) := by
  unfold State.rdcFill
  split
  · exact (inCaches_rdcRoom s line).trans rfl
  · rfl

theorem inCaches_homeWrite (s : State) (asid key : Nat) (bs : List Byte) (sc : Scope) (keep : Option Nat) :
    InCaches s (s.homeWrite asid key bs sc keep) := by
  have put : ∀ t : State, InCaches t (({ t with mem := mputs 0#8 t.mem key bs } : State).touched key keep) := fun _ => rfl
  unfold State.homeWrite
  split
  · exact ((inCaches_fold s _).trans (inCaches_l2Fill _ _ _)).trans (put _)
  · exact put s
  · exact put s
  · exact put s
  · rfl
  · split
    · exact (inCaches_rdcDrop s _).trans (put _)
    · exact (inCaches_rdcFill s asid _).trans rfl

theorem inCaches_writeBack (s : State) (l : L1Line) (sc : Scope) : InCaches s (s.writeBack l sc) := by
  unfold State.writeBack
  split
  · rfl
  · exact InCaches.trans (t := s.updL1 l.core l.asid l.va fun l => { l with dirty := 0 }) rfl (.over (fun _ _ => inCaches_homeWrite ..) _ _)

theorem inCaches_l1Drop (s : State) (l : L1Line) (sc : Scope) : InCaches s (s.l1Drop l sc) := (inCaches_writeBack s l sc).trans rfl

end Sys2Proof.Machine
end

section
/-! O39, TimeEvents: the events of the deadline counter, what the passing of a step leaves of the counter, and the statement. -/

namespace Sys2Proof.Machine

/-! ## The passing of a step (R361) -/

/-- What every step of a fold leaves as it is, the fold leaves. -/
theorem over_field {g : State → γ} {f : State → β → State} (hf : ∀ s x, g (f s x) = g s) : ∀ (xs : List β) (s : State), g (s.over xs f) = g s
  | [], _ => rfl
  | x :: xs, s => (over_field hf xs (f s x)).trans (hf s x)

theorem inCaches_lineLimits (s : State) (l : L1Line) : InCaches s (s.lineLimits l) := by
  have dirty : ∀ s : State, InCaches s (landed s (execL1DirtyTimeout l.core l.asid l.va s)) := fun s => by
    unfold execL1DirtyTimeout landed
    dsimp only
    split
    · exact inCaches_writeBack ..
    · rfl
  have narrow : ∀ s : State, InCaches s (landed s (execL1NarrowTimeout l.core l.asid l.va s)) := fun s => by
    unfold execL1NarrowTimeout landed
    dsimp only
    split
    · split
      · exact inCaches_l1Drop ..
      · rfl
    · rfl
  unfold State.lineLimits
  dsimp only
  split
  · split
    · exact (dirty s).trans (narrow _)
    · exact narrow s
  · split
    · exact dirty s
    · rfl

theorem inCaches_allLimits (s : State) : InCaches s s.allLimits := by
  unfold State.allLimits
  split
  · rfl
  · exact .over inCaches_lineLimits _ _

theorem allLimits_eq_self {s : State} (h : s.l1 = [] ∨ s.boot ≠ .ready) : s.allLimits = s := by
  rcases h with h | h
  · simp [State.allLimits, h, State.over]
  · exact if_pos h

/-- The deadline counter with its fraction, what is left of a negative step, and the number of steps. -/
def State.time (s : State) : Nat × Nat × Nat × Nat := (s.dlc, s.frac, s.holdLeft, s.stepNo)

/-- All that passes with a step's time but for the L1 limits touches threads that were selected, the clocks, and the contexts in protection. -/
structure KeepsTime (s t : State) : Prop where
  time : t.time = s.time
  mem : t.mem = s.mem
  threads : t.threads = s.threads
  agenda : t.agenda = s.agenda
  regs : s.protect = [] → t.regs = s.regs

theorem runProtect_time (s : State) (d : Nat) : KeepsTime s (s.runProtect d) := by
  have ends : ∀ (s : State) (n : Nat), (s.protectEnds n).time = s.time ∧ (s.protectEnds n).mem = s.mem ∧ (s.protectEnds n).threads = s.threads
      ∧ (s.protectEnds n).agenda = s.agenda := fun s n => by
    unfold State.protectEnds
    dsimp only
    split <;> exact ⟨rfl, rfl, rfl, rfl⟩
  refine ⟨over_field (g := State.time) (fun s x => ?_) _ s, over_field (g := State.mem) (fun s x => ?_) _ s,
    over_field (g := State.threads) (fun s x => ?_) _ s, over_field (g := State.agenda) (fun s x => ?_) _ s, fun h => ?_⟩
  · exact (ends _ _).1
  · exact (ends _ _).2.1
  · exact (ends _ _).2.2.1
  · exact (ends _ _).2.2.2
  · simp [State.runProtect, h, State.over]

theorem keepTime_time (s : State) : KeepsTime s s.stillAged.keepTime ∧ s.stillAged.keepTime.protect = s.protect := by
  unfold State.stillAged
  split <;> exact ⟨⟨rfl, rfl, rfl, rfl, fun _ => rfl⟩, rfl⟩

/-- What a step's time gives the counter before the limits of the L1 lines: its fields, and the lines with those of halted cores held. -/
def State.ticked (s : State) : State :=
  let add := s.frac + Config.dlcTicks s.stepNo * 2 ^ 32 * (1000000000000 + (s.rreg 0 0x0C02).toInt).toNat / 1000000000000
  { s with
    stepNo := s.stepNo + 1
    l1 := s.heldLines
    dlc := if s.holdLeft = 0 then s.dlc + add / 2 ^ 32 else s.dlc
    frac := if s.holdLeft = 0 then add % 2 ^ 32 else s.frac
    holdLeft := if s.holdLeft = 0 then 0 else max 1 (s.holdLeft - Config.dlcTicks s.stepNo) }

theorem heldLines_nil {s : State} (h : s.l1 = []) : s.heldLines = [] := by simp [State.heldLines, h]

theorem tick_keeps (s : State) : KeepsTime s.ticked.allLimits s.tick := by
  obtain ⟨aged, protect⟩ := keepTime_time s.ticked.allLimits
  have run := runProtect_time s.ticked.allLimits.stillAged.keepTime
    (if s.holdLeft = 0 then (s.frac + Config.dlcTicks s.stepNo * 2 ^ 32 * (1000000000000 + (s.rreg 0 0x0C02).toInt).toNat / 1000000000000) / 2 ^ 32 else 0)
  exact ⟨run.time.trans aged.time, run.mem.trans aged.mem, run.threads.trans aged.threads, run.agenda.trans aged.agenda,
    fun h => (run.regs (protect.trans h)).trans (aged.regs h)⟩

theorem tick_time (s : State) : s.tick.time = s.ticked.time := by
  have limits : s.ticked.allLimits.time = (s.ticked.cachesOf s.ticked.allLimits).time := congrArg State.time (inCaches_allLimits s.ticked)
  exact (tick_keeps s).time.trans limits

/-- While no negative step is absorbed, the counter with its fraction gains all that the source gives. -/
theorem tick_gains {s : State} (h : s.holdLeft = 0) : s.tick.dlc * 2 ^ 32 + s.tick.frac = s.dlc * 2 ^ 32 + (s.frac +
    Config.dlcTicks s.stepNo * 2 ^ 32 * (1000000000000 + (s.rreg 0 0x0C02).toInt).toNat / 1000000000000) ∧ s.tick.frac < 2 ^ 32 := by
  have time := tick_time s
  simp only [State.time, State.ticked, h, if_true, Prod.mk.injEq] at time
  obtain ⟨dlc, frac, -⟩ := time
  rw [dlc, frac]
  generalize s.frac + _ = add
  omega

/-- While one is absorbed, the counter stands. -/
theorem tick_holds {s : State} (h : s.holdLeft ≠ 0) : s.tick.dlc = s.dlc ∧ s.tick.frac = s.frac ∧ 0 < s.tick.holdLeft := by
  have time := tick_time s
  simp only [State.time, State.ticked, h, if_false, Prod.mk.injEq] at time
  obtain ⟨dlc, frac, hold, -⟩ := time
  exact ⟨dlc, frac, by omega⟩

theorem tick_still {s : State} (h : s.l1 = [] ∨ s.boot ≠ .ready) : s.ticked.allLimits = s.ticked :=
  allLimits_eq_self (h.imp heldLines_nil id)

/-! ## The events -/

theorem pairOf_eq_append (lo hi : Word) : pairOf lo hi = hi ++ lo := by
  refine BitVec.eq_of_toNat_eq ?_
  rw [toNat_pairOf, BitVec.toNat_append, ← Nat.shiftLeft_add_eq_or_of_lt lo.isLt, Nat.shiftLeft_eq, Nat.mul_comm, Nat.add_comm]

theorem ttsStep_eq (s : State) {v : Word} {d : Int} (hd : (v ++ s.rreg 0 0x0C03).toInt = d) : exec (.ttsStep v) s = .next (
    if d ≥ 0 then { s with dlc := s.dlc + d.toNat }
    else if -d > 2 ^ 32 then s
    else ({ s with holdLeft := max 1 s.holdLeft + (-d).toNat } : State).setBit 0 0x0C05 3 true) := by
  rw [← hd, ← pairOf_eq_append]
  rfl

theorem referenceLost_eq (s : State) : exec .referenceLost s = .next (if (s.rreg 0 0x0C08).getLsbD 0 = true then
    (({ s with ref10 := false } : State).setBit 0 0x0C05 1 true).setBit 0 0x0C05 0 false else { s with ref10 := false }) := by
  rw [← bitOf_toNat]
  rfl

theorem referenceRestored_eq (s : State) : exec .referenceRestored s = .next (if (s.rreg 0 0x0C08).getLsbD 0 = true then
    ({ s with ref10 := true } : State).setBit 0 0x0C05 0 true else { s with ref10 := true }) := by
  rw [← bitOf_toNat]
  rfl

/-- Settles O39: the events by their definitions, and a step's time by what its parts leave of the counter. -/
theorem timeEvents : Obligations.TimeEvents := by
  unfold Obligations.TimeEvents
  refine ⟨fun s v => ⟨fun h => ?_, fun h => ?_, fun h h' => ?_, rfl, rfl, rfl, fun h => ?_, fun h => ?_, rfl⟩,
    fun s => ⟨fun h => ⟨(tick_gains h).1, fun _ => (tick_gains h).2⟩, tick_holds, ?_, fun hp h => ?_, fun h => ?_⟩⟩
  · rw [ttsStep_eq s rfl, if_pos h]
  · rw [ttsStep_eq s rfl, if_neg (by omega), if_pos (by omega)]
  · rw [ttsStep_eq s rfl, if_neg (by omega), if_neg (by omega)]
    exact congrArg (fun k => Host.Outcome.next (({ s with holdLeft := max 1 s.holdLeft + k } : State).setBit 0 0x0C05 3 true)) (by omega)
  · rw [referenceLost_eq, if_pos h, referenceRestored_eq, if_pos h]
    exact ⟨rfl, rfl⟩
  · rw [referenceLost_eq, h, referenceRestored_eq, h]
    exact ⟨rfl, rfl⟩
  · exact congrArg (fun time => time.2.2.2) (tick_time s)
  · have keeps := tick_keeps s
    rw [tick_still h] at keeps
    exact ⟨keeps.regs hp, keeps.agenda⟩
  · have keeps := tick_keeps s
    rw [tick_still h] at keeps
    exact ⟨keeps.mem, keeps.threads⟩

end Sys2Proof.Machine
end

section
/-! O40, Invalidations: which may start, what a start leaves, what one hits, and the statement. -/

namespace Sys2Proof.Machine

/-- May an invalidation of this kind not start (R394)? -/
def State.invRefuses (s : State) (fe : Nat) (lvl : Level) (kind : Nat) : Prop :=
  (s.rreg fe 0x1E06).getLsbD 0 = true ∨ (2 ≤ kind ∧ lvl ≠ .s) ∨ lvl = .u ∨ ((kind = 0 ∨ kind = 2) ∧ s.rregN fe 0x1E05 = 0)

theorem rregN_eq_zero {s : State} {view idx : Nat} : s.rregN view idx = 0 ↔ s.rreg view idx = 0#32 :=
  ⟨fun h => BitVec.eq_of_toNat_eq h, fun h => congrArg BitVec.toNat h⟩

theorem invStart_guard {s : State} {fe kind : Nat} {lvl : Level} : s.invRefuses fe lvl kind ↔
    (bitOf (s.rregN fe 0x1E06) 0 || (kind ≥ 2 && lvl != .s) || !Level.atLeastF lvl || ((kind == 0 || kind == 2) && s.rreg fe 0x1E05 == 0#32)) = true := by
  have user : lvl = .u ↔ Level.atLeastF lvl = false := by cases lvl <;> decide
  rw [State.invRefuses, rregN_eq_zero, user, ← bitOf_toNat]
  simp [State.rregN, or_assoc]

theorem invStart_refused {s : State} {fe kind : Nat} {lvl : Level} (h : s.invRefuses fe lvl kind) (ctx : Nat) :
    s.invStart fe lvl kind ctx = s.setBit fe 0x1E06 1 true := if_pos (invStart_guard.mp h)

theorem invStart_going {s : State} {fe kind : Nat} {lvl : Level} (h : ¬s.invRefuses fe lvl kind) (ctx : Nat) :
    s.invStart fe lvl kind ctx = (({ s with invals := s.invals ++ [⟨fe, kind, ctx, s.rreg2 fe 0x1E03, 4096 * s.rregN fe 0x1E05⟩] } : State).setBit
      fe 0x1E06 0 true).post (.tlbInvComplete fe) := if_neg fun g => h (invStart_guard.mpr g)

theorem hits_iff {v : Inval} {e : TlbEntry} : v.hits e = true ↔
    (v.kind = 0 ∧ e.asid = 64 * v.fe + v.ctx ∧ e.va < v.addr + v.len ∧ v.addr < e.va + 2 ^ e.bits)
      ∨ (v.kind = 1 ∧ e.asid = 64 * v.fe + v.ctx)
      ∨ (v.kind = 2 ∧ e.asid / 64 = v.fe ∧ e.ia < v.addr + v.len ∧ v.addr < e.ia + 2 ^ e.bits)
      ∨ (v.kind ≥ 3 ∧ e.asid / 64 = v.fe) := by
  obtain ⟨fe, kind, ctx, addr, len⟩ := v
  rcases kind with _ | _ | _ | kind <;> simp [Inval.hits, feOf, and_assoc]

/-- The completion of a front end's only invalidation, where no L1 line and no walk is to follow it (R395). -/
theorem tlbInvComplete_only {s : State} {v : Inval} (hv : s.invals = [v]) (hl1 : s.l1 = []) (hfaults : s.faults = []) :
    exec (.tlbInvComplete v.fe) s = .next (({ s with tlb := s.tlb.filter fun e => !v.hits e, invals := [] } : State).setBit v.fe 0x1E06 0 false) := by
  have found : s.invals.find? (·.fe == v.fe) = some v := by rw [hv]; simp
  have others : s.invals.filter (·.fe != v.fe) = [] := by rw [hv]; simp
  refine congrArg Host.Outcome.next ?_
  simp [found, others, hl1, hfaults, State.over]

/-- Settles O40: starts by their guard, and the completion by what an invalidation hits. -/
theorem invalidations : Obligations.Invalidations := by
  unfold Obligations.Invalidations
  intro s fe ctx lvl
  refine ⟨fun h => ⟨?_, ?_⟩, fun h => ⟨?_, ?_⟩, fun h => ⟨?_, ?_⟩, fun hb hl => ⟨?_, fun hlen => ?_⟩, fun hb hl => ⟨?_, fun hlen => ?_⟩, ?_, fun v => ?_⟩
  · exact congrArg _ (invStart_refused (h.imp_right fun h => .inr (.inl h)) ctx)
  · exact congrArg _ (invStart_refused (h.imp_right fun h => .inr (.inl h)) ctx)
  · exact congrArg _ (invStart_refused (h.imp_right fun h => .inl ⟨by decide, h⟩) 0)
  · exact congrArg _ (invStart_refused (h.imp_right fun h => .inl ⟨by decide, h⟩) 0)
  · exact congrArg _ (invStart_refused (.inr (.inr (.inr ⟨.inl rfl, h⟩))) ctx)
  · exact congrArg _ (invStart_refused (.inr (.inr (.inr ⟨.inr rfl, h⟩))) 0)
  · exact congrArg _ (invStart_going (by rw [State.invRefuses, hb]; simp [hl]) ctx)
  · exact congrArg _ (invStart_going (by rw [State.invRefuses, hb]; simp [hl, hlen]) ctx)
  · exact congrArg _ (invStart_going (by rw [State.invRefuses, hb]; simp [hl]) 0)
  · exact congrArg _ (invStart_going (by rw [State.invRefuses, hb]; simp [hl, hlen]) 0)
  · rintro v hv rfl hl1 hfaults
    refine ⟨_, tlbInvComplete_only hv hl1 hfaults, fun e => ?_⟩
    rw [List.mem_filter, ← hits_iff, Bool.not_eq_true', Bool.not_eq_true]
  · exact ⟨_, rfl, fun p => by simp [fld]⟩

end Sys2Proof.Machine
end

section
/-! SUPPORT. Registers after a bit of one is set and after an interrupt cause rises. -/

namespace Sys2Proof.Machine

theorem rreg_setBit (s : State) (view idx b : Nat) (on : Bool) : (s.setBit view idx b on).rreg view idx =
    if on then s.rreg view idx ||| (1#32 <<< b) else s.rreg view idx &&& ~~~(1#32 <<< b) := by
  rw [State.setBit, rreg_wreg, if_pos rfl]

theorem rreg_setBit_ne {s : State} {view idx view' idx' b : Nat} {on : Bool} (h : regKey view' idx' ≠ regKey view idx) :
    (s.setBit view idx b on).rreg view' idx' = s.rreg view' idx' := rreg_wreg_ne h

/-- A bit that was just set reads as set. -/
theorem setBit_getLsbD (s : State) (view idx : Nat) {b : Nat} (hb : b < 32) (on : Bool) : ((s.setBit view idx b on).rreg view idx).getLsbD b = on := by
  rw [rreg_setBit]
  cases on <;> simp [hb]

theorem rreg_vector_ne {s : State} {view c view' idx' : Nat} (h : regKey view' idx' ≠ regKey view 0x0412) :
    (s.vector view c).rreg view' idx' = s.rreg view' idx' := by
  unfold State.vector
  split
  · exact rreg_setBit_ne h
  · rfl

/-- An interrupt cause that rises leaves every register but FE_IRQST and FE_IRQPND of its view. -/
theorem rreg_irq_ne {s : State} {view c view' idx' : Nat} (h : regKey view' idx' ≠ regKey view 0x0410) (h' : regKey view' idx' ≠ regKey view 0x0412) :
    (s.irq view c).rreg view' idx' = s.rreg view' idx' := by
  unfold State.irq
  dsimp only
  split
  · rw [rreg_vector_ne h', rreg_setBit_ne h]
  · exact rreg_setBit_ne h

theorem rreg_irq (s : State) (view c : Nat) : (s.irq view c).rreg view 0x0410 = s.rreg view 0x0410 ||| (1#32 <<< c) := by
  have other : regKey view 0x0410 ≠ regKey view 0x0412 := by simp [regKey, regHome]
  unfold State.irq
  dsimp only
  split
  · rw [rreg_vector_ne other, rreg_setBit, if_pos rfl]
  · rw [rreg_setBit, if_pos rfl]

/-- A cause that rises is set afterwards. -/
theorem irq_getLsbD (s : State) (view : Nat) {c : Nat} (hc : c < 32) : ((s.irq view c).rreg view 0x0410).getLsbD c = true := by
  rw [rreg_irq]
  simp [hc]

end Sys2Proof.Machine
end

section
/-! O43, PowerEvents: the operating point, droops, the throttle cap, the trip, and the statement. -/

namespace Sys2Proof.Machine

/-! ## The operating point (R425) -/

theorem oppStep_up {s : State} (h : s.curPoint < s.target') : exec .oppStep s = .next (s.setPoint (s.curPoint + 1)).retarget :=
  congrArg _ (if_pos h)

theorem oppStep_down {s : State} (h : s.target' < s.curPoint) : exec .oppStep s = .next (s.setPoint (s.curPoint - 1)).retarget :=
  congrArg _ ((if_neg (by omega)).trans (if_pos h))

theorem retarget_there {s : State} (h : s.curPoint = s.target') : s.retarget = s.setBit 0 0x2C01 31 false := if_pos h

theorem oppStep_there {s : State} (h : s.curPoint = s.target') : exec .oppStep s = .next (s.setBit 0 0x2C01 31 false) :=
  congrArg Host.Outcome.next (((if_neg (by omega)).trans (if_neg (by omega))).trans (retarget_there h))

theorem postOnce_new {s : State} {i : Instr} (h : i ∉ s.agenda) : s.postOnce i = { s with agenda := s.agenda ++ [i] } := by
  rw [State.postOnce, List.contains_eq_mem, decide_eq_false h]
  rfl

theorem postOnce_setBit {s : State} {i : Instr} (h : i ∉ s.agenda) (view idx b : Nat) (on : Bool) :
    (s.setBit view idx b on).postOnce i = { s.setBit view idx b on with agenda := s.agenda ++ [i] } := postOnce_new h

theorem retarget_posts {s : State} (h : s.curPoint ≠ s.target') (hnew : Instr.oppStep ∉ s.agenda) :
    s.retarget = { s.setBit 0 0x2C01 31 true with agenda := s.agenda ++ [.oppStep] } := by
  rw [State.retarget, if_neg h, postOnce_setBit hnew]

/-! ## Droops (R426, R427) -/

/-- What an alarm leaves of the cluster's issue, whether it is recorded or not. -/
def State.drooped (s : State) (cl : Nat) : State :=
  ({ s with
    halved := if s.halved.contains cl then s.halved else s.halved ++ [cl]
    agenda := s.agenda.filter (· != .halvedIssueEnd cl) } : State).post (.halvedIssueEnd cl)

theorem bump_regs (s : State) (view idx : Nat) : ∃ rs, s.bump view idx = { s with regs := rs } := by
  unfold State.bump
  split
  · exact ⟨s.regs, rfl⟩
  · exact ⟨_, rfl⟩

/-- Was a droop recorded less than 1 ms ago? -/
def State.droopRecent (s : State) : Bool := (s.boxDroop.map fun d => decide (s.dlc < d + micros 1000)).getD false

theorem lt_getD_iff {o : Option Nat} {now span : Nat} : (o.map fun d => decide (now < d + span)).getD false = true ↔ ∃ d, o = some d ∧ now < d + span := by
  cases o <;> simp

theorem droopRecent_iff {s : State} : s.droopRecent = true ↔ ∃ d, s.boxDroop = some d ∧ s.dlc < d + micros 1000 := lt_getD_iff

theorem droopAlarm_eq (s : State) (cl : Nat) : exec (.droopAlarm cl) s = .next ((if s.droopRecent then s.bump 0 0x2C05
    else { (s.bump 0 0x2C05).boxPut 5 cl 0 0 0 with boxDroop := some s.dlc }).drooped cl) := rfl

/-! ## The throttle cap (R428) -/

theorem throttleDown_eq (s : State) : exec .throttleDown s =
    .next (if s.hot && s.clockPast 16384 1000 then (s.setCap 16384 (s.cap - 1)).irq 0 17 else s) := rfl

theorem throttleUp_eq (s : State) : exec .throttleUp s =
    .next (if s.recovers && s.clockPast 16385 10000 then s.setCap 16385 (s.cap + 1) else s) := rfl

theorem hot_iff {s : State} : s.hot = true ↔ s.rregN 0 0x2C02 < s.rregN 0 0x2C03 ∨ 840 ≤ (s.rreg 0 0x2C04).toInt := by
  simp only [State.hot, Bool.or_eq_true, decide_eq_true_eq]
  rfl

theorem recovers_iff {s : State} : s.recovers = true ↔
    s.rregN 0 0x2C03 * 100 ≤ s.rregN 0 0x2C02 * 95 ∧ (s.rreg 0 0x2C04).toInt < 800 ∧ s.cap < s.rregN 0 0x2C00 := by
  simp only [State.recovers, Bool.and_eq_true, decide_eq_true_eq, and_assoc]
  rfl

theorem clockPast_iff {s : State} {key us : Nat} : s.clockPast key us = true ↔
    mget 0 s.clocks key ≠ 0 ∧ mget 0 s.clocks key - 1 + us * 2 ^ 32 / 1000000 ≤ s.dlc := by
  simp only [State.clockPast, Bool.and_eq_true, decide_eq_true_eq, bne_iff_ne]
  rfl

/-! ## The trip (R429) -/

theorem box_irq (s : State) (view c : Nat) : (s.irq view c).box = s.box ∧ (s.irq view c).boxSnap = s.boxSnap := by
  obtain ⟨rs, os, h⟩ := irq_out s view c
  rw [h]
  exact ⟨rfl, rfl⟩

theorem box_setBit (s : State) (view idx b : Nat) (on : Bool) : (s.setBit view idx b on).box = s.box ∧ (s.setBit view idx b on).boxSnap = s.boxSnap :=
  ⟨rfl, rfl⟩

theorem box_postOnce (s : State) (i : Instr) : (s.postOnce i).box = s.box ∧ (s.postOnce i).boxSnap = s.boxSnap := by
  unfold State.postOnce
  split <;> exact ⟨rfl, rfl⟩

theorem box_persistTrip (s : State) (before : Bool) : (s.persistTrip before).box = s.box ∧ (before = false → (s.persistTrip before).boxSnap.isSome = true) := by
  cases before
  · obtain ⟨hbox, hsnap⟩ := box_postOnce { s with boxSnap := some s.box } .bbxPersistComplete
    refine ⟨hbox, fun _ => ?_⟩
    exact congrArg Option.isSome hsnap
  · exact ⟨rfl, fun h => nomatch h⟩

theorem thermalTrip_trips {s : State} (h : 920 ≤ s.temp) : ∃ t, exec .thermalTrip s = .next t ∧ t.boot = .tripped
    ∧ (t.rreg 0 0x2C01).getLsbD 2 = true ∧ (t.rreg 0 0x0410).getLsbD 17 = true ∧ (∃ e, t.box.getLast? = some e ∧ e.kind = 4 ∧ e.code = 7)
    ∧ (s.boxSnap = none → t.boxSnap.isSome = true) := by
  obtain ⟨s2, trips⟩ : ∃ s2 : State, exec .thermalTrip s =
      .next { (((s2.boxPut 4 0xFFFF 7 0 0).persistTrip s.boxSnap.isSome).irq 0 17).setBit 0 0x2C01 2 true with boot := .tripped } :=
    ⟨_, congrArg Host.Outcome.next (if_neg (by omega))⟩
  obtain ⟨hbox, hsnap⟩ := box_irq ((s2.boxPut 4 0xFFFF 7 0 0).persistTrip s.boxSnap.isSome) 0 17
  obtain ⟨hbox', hsnap'⟩ := box_persistTrip (s2.boxPut 4 0xFFFF 7 0 0) s.boxSnap.isSome
  have other : regKey 0 0x0410 ≠ regKey 0 0x2C01 := by simp [regKey, regHome]
  have stat := setBit_getLsbD (((s2.boxPut 4 0xFFFF 7 0 0).persistTrip s.boxSnap.isSome).irq 0 17) 0 0x2C01 (b := 2) (by decide) true
  have cause := irq_getLsbD ((s2.boxPut 4 0xFFFF 7 0 0).persistTrip s.boxSnap.isSome) 0 (c := 17) (by decide)
  rw [← rreg_setBit_ne (b := 2) (on := true) other] at cause
  have last : ((((s2.boxPut 4 0xFFFF 7 0 0).persistTrip s.boxSnap.isSome).irq 0 17).setBit 0 0x2C01 2 true).box.getLast? =
      some ⟨s2.dlc, 4, 0xFFFF, 7, 0, 0⟩ := by
    rw [(box_setBit ..).1, hbox, hbox']
    exact List.getLast?_concat
  have snap : s.boxSnap = none → ((((s2.boxPut 4 0xFFFF 7 0 0).persistTrip s.boxSnap.isSome).irq 0 17).setBit 0 0x2C01 2 true).boxSnap.isSome = true :=
    fun hnone => by
    rw [(box_setBit ..).2, hsnap]
    exact hsnap' (by rw [hnone]; rfl)
  generalize (((s2.boxPut 4 0xFFFF 7 0 0).persistTrip s.boxSnap.isSome).irq 0 17).setBit 0 0x2C01 2 true = u at *
  exact ⟨_, trips, rfl, stat, cause, ⟨_, last, rfl, rfl⟩, snap⟩

/-- Settles O43: each event by its equation, with its guard spelled out. -/
theorem powerEvents : Obligations.PowerEvents := by
  unfold Obligations.PowerEvents
  intro s cl
  refine ⟨oppStep_up, oppStep_down, fun h => ⟨oppStep_there h, retarget_there h⟩, retarget_posts, ⟨?_, ?_⟩, rfl, ?_, ?_, ?_, ?_, ?_, thermalTrip_trips⟩
  · intro h
    obtain ⟨rs, hcount⟩ := bump_regs s 0 0x2C05
    rw [droopAlarm_eq, if_pos (droopRecent_iff.mpr h), hcount, State.drooped]
    simp [State.post, bne]
    rfl
  · intro h hlen
    obtain ⟨rs, hcount⟩ := bump_regs s 0 0x2C05
    rw [droopAlarm_eq, if_neg (fun hr => h (droopRecent_iff.mp hr)), hcount, State.drooped, State.boxPut, if_neg (by simpa using hlen)]
    simp [State.post, bne]
    rfl
  · rintro ⟨hhot, hran⟩
    rw [throttleDown_eq, hot_iff.mpr hhot, clockPast_iff.mpr hran]
    rfl
  · intro h
    rw [throttleDown_eq, if_neg]
    rwa [Bool.and_eq_true, hot_iff, clockPast_iff]
  · rintro ⟨hpower, htemp, hcap, hran⟩
    rw [throttleUp_eq, recovers_iff.mpr ⟨hpower, htemp, hcap⟩, clockPast_iff.mpr hran]
    rfl
  · intro h
    rw [throttleUp_eq, if_neg]
    rwa [Bool.and_eq_true, recovers_iff, clockPast_iff, and_assoc, and_assoc]
  · exact fun h => congrArg Host.Outcome.next (if_pos h)

end Sys2Proof.Machine
end

section
/-! O44, QueueEntries: notifies, enables, the next entry of a queue, and the statement. -/

namespace Sys2Proof.Machine

/-! ## Little-endian numbers -/

theorem leNat_eq_zero {bs : List Byte} : leNat bs = 0 ↔ bs.all (· == 0#8) = true := by
  induction bs with
  | nil => simp [leNat]
  | cons b bs ih =>
    have byte : b.toNat = 0 ↔ b = 0#8 := ⟨fun h => BitVec.eq_of_toNat_eq h, fun h => congrArg BitVec.toNat h⟩
    rw [leNat, List.all_cons, Bool.and_eq_true, beq_iff_eq, ← ih, ← byte]
    omega

theorem zeroAt_iff {bs : List Byte} {o n : Nat} : zeroAt bs o n = true ↔ at' bs o n = 0 := leNat_eq_zero.symm

theorem at'_one_lt (bs : List Byte) (o : Nat) : at' bs o 1 < 256 := by
  unfold at'
  cases hd : bs.drop o with
  | nil => simp [leNat]
  | cons b rest =>
    have := b.isLt
    simp [leNat]
    omega

/-! ## The next entry (R354, R355) -/

section
variable {s : State} {fe q : Nat}

theorem queueGo_idle (h : s.pending fe q = 0 ∨ (s.rreg fe (0x0800 + 16 * q)).getLsbD 31 = false) : s.queueGo fe q = s := by
  refine if_pos ?_
  rw [State.rregN, bitOf_toNat, Bool.or_eq_true, decide_eq_true_eq, Bool.not_eq_true']
  exact h

theorem queueGo_posts (hleft : s.pending fe q ≠ 0) (hen : (s.rreg fe (0x0800 + 16 * q)).getLsbD 31 = true)
    (hnew : Instr.run fe q (s.queueHead fe q) ∉ s.agenda) :
    s.queueGo fe q = { s with agenda := s.agenda ++ [.run fe q (s.queueHead fe q)] } := by
  refine (if_neg ?_).trans (postOnce_new hnew)
  rw [State.rregN, bitOf_toNat, hen]
  simpa using hleft

/-- A queue that is not enabled, whose next entry is another one, or that has none, takes none. -/
theorem readEntry_none {idx : Nat} (h : (s.rreg fe (0x0800 + 16 * q)).getLsbD 31 = false ∨ s.queueHead fe q ≠ idx ∨ s.pending fe q = 0)
    (redo : Instr) (f : State → Nat → Nat → Nat → Nat → State) : s.readEntry fe q idx redo f = s := by
  have held : s.mayTake fe q idx = false := by
    simp only [State.mayTake, State.rregN, bitOf_toNat]
    rcases h with h | h | h
    · rw [h]
      simp
    · simp [h]
    · simp [h]
  simp [State.readEntry, held]

/-- An entry within its limits (R355): OP, FLAGS, the reserved bytes, and OP 1 and 2 in a STRIP queue alone. -/
def goodEntry (bs : List Byte) (strip : Prop) : Prop :=
  at' bs 8 1 ≤ 2 ∧ at' bs 9 1 < 2 ∧ at' bs 10 2 = 0 ∧ (at' bs 8 1 = 0 → at' bs 12 4 = 0) ∧ (1 ≤ at' bs 8 1 → strip)

theorem goodEntry_iff {bs : List Byte} {mode : Nat} : goodEntry bs (mode = 0) ↔
    (decide (at' bs 8 1 > 2) || decide (fld (at' bs 9 1) 1 7 ≠ 0) || !zeroAt bs 10 2 || (decide (at' bs 8 1 = 0) && !zeroAt bs 12 4)
      || (decide (at' bs 8 1 ≥ 1) && !(mode == 0))) = false := by
  have flags : fld (at' bs 9 1) 1 7 = 0 ↔ at' bs 9 1 < 2 := by
    have := at'_one_lt bs 9
    rw [fld]
    omega
  simp only [goodEntry, Bool.or_eq_false_iff, Bool.and_eq_false_iff, decide_eq_false_iff_not, Bool.not_eq_false', zeroAt_iff, beq_iff_eq, ← flags, not_lt, ge_iff_le, gt_iff_lt,
    ne_eq, not_not, and_assoc, imp_iff_not_or]

section
variable {idx : Nat} {bs : List Byte} (hmay : s.mayTake fe q idx = true)
  (hread : (s.rdcSync (64 * fe + fld (s.rregN fe (0x0800 + 16 * q)) 16 6) true).feRead (64 * fe + fld (s.rregN fe (0x0800 + 16 * q)) 16 6)
    (s.rreg2 fe (0x0800 + 16 * q + 1) + 16 * idx) 16 .sys = (.ok bs, s))
include hmay hread

theorem readEntry_good (h : goodEntry bs (fld (s.rregN fe (0x0800 + 16 * q)) 26 2 = 0)) (redo : Instr) (f : State → Nat → Nat → Nat → Nat → State) :
    s.readEntry fe q idx redo f = f s (at' bs 0 8) (at' bs 8 1) (at' bs 9 1) (at' bs 12 4) := by
  simp only [State.readEntry, hmay, hread, goodEntry_iff.mp h, Bool.not_true, Bool.false_eq_true, if_false]

theorem readEntry_bad (h : ¬goodEntry bs (fld (s.rregN fe (0x0800 + 16 * q)) 26 2 = 0)) (redo : Instr) (f : State → Nat → Nat → Nat → Nat → State) :
    s.readEntry fe q idx redo f = ((s.queueErr fe q 1).consume fe q).queueGo fe q := by
  have bad := mt goodEntry_iff.mpr h
  rw [Bool.not_eq_false] at bad
  simp only [State.readEntry, hmay, hread, bad, Bool.not_true, Bool.false_eq_true, if_false, if_true]

end

/-- An error of a queue leaves its HEAD where it is. -/
theorem consume_queueErr (s : State) (fe q code : Nat) : (s.queueErr fe q code).consume fe q =
    (s.queueErr fe q code).wreg fe (0x0800 + 16 * q + 4) (BitVec.ofNat 32 ((s.queueHead fe q + 1) % s.queueSize fe q)) := by
  have other : ∀ o, o < 9 → regKey fe (0x0800 + 16 * q + o) ≠ regKey fe (0x0800 + 16 * q + 9) := fun o ho => by
    unfold regKey regHome
    split_ifs <;> simp_all <;> omega
  have size : (s.queueErr fe q code).queueSize fe q = s.queueSize fe q := by
    rw [State.queueSize, State.rregN, State.queueErr, rreg_wreg_ne (other 3 (by decide))]
    rfl
  have head : (s.queueErr fe q code).queueHead fe q = s.queueHead fe q := by
    rw [State.queueHead, size, State.rregN, State.queueErr, rreg_wreg_ne (other 4 (by decide))]
    rfl
  rw [State.consume, size, head]

end

/-! ## Notifies (R354, R416, R422) -/

section
variable {s : State} {fe q : Nat} {v : Word}

theorem notify_dropped (hfe : 0 < fe) (h : fe ∈ s.flrs) : exec (.queueNotify fe q v) s = .next ((s.bump 0 (0x0440 + (fe - 1))).irq 0 8) :=
  congrArg Host.Outcome.next (if_pos (by simpa [hfe] using h))

/-- What a notify does once the VF that is not awake is on its way (`t`). -/
theorem notify_taken {t : State} (h : fe ∉ s.flrs)
    (ht : (if fe = 0 then s.endDeep else if s.wakeState fe ≠ 0 || s.deep then s.postOnce (.wakeWake (fe - 1)) else s) = t) :
    exec (.queueNotify fe q v) s = .next (if v.toNat ≥ t.rregN fe (0x0800 + 16 * q + 3) then t.queueErr fe q 2
      else (t.wreg fe (0x0800 + 16 * q + 5) v).queueGo fe q) := by
  rw [← ht]
  exact congrArg Host.Outcome.next (if_neg (by simp [h]))

theorem notify_awake (h : fe ∉ s.flrs) (hawake : fe = 0 ∨ s.wakeState fe = 0) (hdeep : s.deep = false) :
    exec (.queueNotify fe q v) s = .next (if v.toNat ≥ s.rregN fe (0x0800 + 16 * q + 3) then s.queueErr fe q 2
      else (s.wreg fe (0x0800 + 16 * q + 5) v).queueGo fe q) := by
  refine notify_taken h ?_
  rcases hawake with rfl | hawake
  · simp [State.endDeep, hdeep]
  · simp [hawake, hdeep, State.endDeep]

theorem notify_wakes (h : fe ∉ s.flrs) (hfe : 0 < fe) (hasleep : s.wakeState fe ≠ 0 ∨ s.deep = true) (hnew : Instr.wakeWake (fe - 1) ∉ s.agenda)
    (hv : v.toNat < s.rregN fe (0x0800 + 16 * q + 3)) :
    exec (.queueNotify fe q v) s = .next (({ s with agenda := s.agenda ++ [.wakeWake (fe - 1)] } : State).wreg fe (0x0800 + 16 * q + 5) v |>.queueGo fe q) := by
  have woken : (if fe = 0 then s.endDeep else if s.wakeState fe ≠ 0 || s.deep then s.postOnce (.wakeWake (fe - 1)) else s)
      = { s with agenda := s.agenda ++ [.wakeWake (fe - 1)] } := by
    rw [if_neg (by omega), if_pos (by simpa using hasleep), postOnce_new hnew]
  exact (notify_taken h woken).trans (congrArg Host.Outcome.next (if_neg (Nat.not_le.mpr hv)))

end

/-! ## Enables (R352) -/

section
variable {s : State} {fe q : Nat} {v : Word}

theorem queueEnable_frozen (h : (s.rreg fe (0x0800 + 16 * q)).getLsbD 31 = true) : exec (.queueEnable fe q v) s =
    .next (if ((v &&& 0x8F3F0000#32) ^^^ s.rreg fe (0x0800 + 16 * q)) &&& 0x0F3F0000#32 = 0 then s.wreg fe (0x0800 + 16 * q) (v &&& 0x8F3F0000#32) else s) :=
  congrArg Host.Outcome.next (if_pos ((bitOf_toNat _ _).trans h))

section
variable (h : (s.rreg fe (0x0800 + 16 * q)).getLsbD 31 = false)
include h

theorem queueEnable_off (hv : (v &&& 0x8F3F0000#32).getLsbD 31 = false) :
    exec (.queueEnable fe q v) s = .next (s.wreg fe (0x0800 + 16 * q) (v &&& 0x8F3F0000#32)) := by
  refine congrArg Host.Outcome.next ((if_neg ?_).trans (if_pos ?_))
  · rw [bitOf_toNat, h]
    exact Bool.false_ne_true
  · rw [bitOf_toNat, qctlMask, hv]
    rfl

variable (hv : (v &&& 0x8F3F0000#32).getLsbD 31 = true)
include hv

theorem queueEnable_refused (hbad : ((v &&& 0x8F3F0000#32).toNat / 2 ^ 26 % 4 = 0 ∧ (v &&& 0x8F3F0000#32).getLsbD 25 = true)
      ∨ s.rreg fe (0x0800 + 16 * q + 8) = 0 ∨ s.rreg2 fe (0x0800 + 16 * q + 6) = 0) :
    exec (.queueEnable fe q v) s = .next ((s.wreg fe (0x0800 + 16 * q) ((v &&& 0x8F3F0000#32) &&& 0x7FFFFFFF#32)).queueErr fe q 3) := by
  refine congrArg Host.Outcome.next ((if_neg ?_).trans ((if_neg ?_).trans (if_pos ?_)))
  · rw [bitOf_toNat, h]
    exact Bool.false_ne_true
  · rw [bitOf_toNat, qctlMask, hv]
    exact Bool.false_ne_true
  · rw [bitOf_toNat, qctlMask]
    simpa [fld, or_assoc] using hbad

theorem queueEnable_on (hmode : ¬((v &&& 0x8F3F0000#32).toNat / 2 ^ 26 % 4 = 0 ∧ (v &&& 0x8F3F0000#32).getLsbD 25 = true))
    (hsize : s.rreg fe (0x0800 + 16 * q + 8) ≠ 0) (hbase : s.rreg2 fe (0x0800 + 16 * q + 6) ≠ 0) (hgraphs : s.graphs = []) :
    exec (.queueEnable fe q v) s = .next ((s.wreg fe (0x0800 + 16 * q) (v &&& 0x8F3F0000#32)).queueGo fe q).dispatch := by
  refine congrArg Host.Outcome.next ((if_neg ?_).trans ((if_neg ?_).trans ((if_neg ?_).trans ?_)))
  · rw [bitOf_toNat, h]
    exact Bool.false_ne_true
  · rw [bitOf_toNat, qctlMask, hv]
    exact Bool.false_ne_true
  · rw [bitOf_toNat, qctlMask]
    have size : (s.rreg fe (0x0800 + 16 * q + 8) = 0) ↔ False := ⟨hsize, False.elim⟩
    rw [show (4 : Nat) = 2 ^ 2 from rfl] at hmode
    simpa only [fld, Bool.or_eq_true, Bool.and_eq_true, beq_iff_eq, decide_eq_true_eq, size, hbase, or_false, decide_false,
      Bool.false_eq_true] using hmode
  · rw [hgraphs]
    rfl

end

end

/-! ## The statement -/

/-- Settles O44: notifies and enables by their guards, an entry by whether it is the next and within its limits. -/
theorem queueEntries : Obligations.QueueEntries := by
  unfold Obligations.QueueEntries
  intro s fe q idx v bs
  refine ⟨fun h hfe => notify_dropped hfe h, fun h hawake hdeep => ⟨fun hv => ?_, fun hv => ?_⟩, notify_wakes, ⟨queueGo_idle, queueGo_posts⟩,
    queueEnable_frozen, fun h => ⟨queueEnable_off h, queueEnable_refused h, fun hv hm hs hb hg _ => queueEnable_on h hv hm hs hb hg⟩,
    fun h => ⟨?_, ?_, ?_⟩, fun hen hboot hflr hawake hhead hleft hgraphs hread => ?_⟩
  · exact (notify_awake h hawake hdeep).trans (congrArg Host.Outcome.next (if_pos hv))
  · exact (notify_awake h hawake hdeep).trans (congrArg Host.Outcome.next (if_neg (Nat.not_le.mpr hv)))
  · exact congrArg Host.Outcome.next (readEntry_none h _ _)
  · exact congrArg Host.Outcome.next (readEntry_none h _ _)
  · exact congrArg Host.Outcome.next (readEntry_none h _ _)
  · have may : s.mayTake fe q idx = true := by
      have hhead' : s.queueHead fe q = idx := hhead
      have hleft' : s.pending fe q ≠ 0 := hleft
      simp [State.mayTake, State.queueGraphs, State.running', hgraphs, State.rregN, bitOf_toNat, hen, hboot, hawake, hflr, hhead', hleft']
    refine ⟨fun hgood hop => ?_, fun hgood hop hnew => ?_, fun hgood hop hnew => ?_, fun hbad _ => ?_⟩
    · subst hhead
      refine congrArg Host.Outcome.next ((readEntry_good may hread hgood _ _).trans ?_)
      rw [hop, if_neg (by decide), if_neg (by decide)]
      have flag : bitOf (at' bs 9 1) 0 = decide (at' bs 9 1 % 2 = 1) := by
        rw [bitOf, Nat.pow_zero, Nat.div_one]
        rfl
      simp only [State.newId, hgraphs, List.nil_append, flag]
      rfl
    · refine congrArg Host.Outcome.next ((readEntry_good may hread hgood _ _).trans ?_)
      rw [hop, if_pos rfl, postOnce_new hnew]
    · refine congrArg Host.Outcome.next ((readEntry_good may hread hgood _ _).trans ?_)
      rw [hop, if_neg (by decide), if_pos rfl, postOnce_new hnew]
    · refine congrArg Host.Outcome.next ((readEntry_bad may hread hbad _ _).trans ?_)
      rw [consume_queueErr]
      rfl

end Sys2Proof.Machine
end

section
/-! O38, RegisterReadEvents: a read of a register that clears, by what the requester reaches and what is open to it, accesses to a BAR, and the
statement. -/

namespace Sys2Proof.Machine

/-! ## Reads from outside (R348) -/

section
variable {s : State} {r : Requester} {view idx : Nat}

/-- The requester reaches the view, and the register is open to it there. -/
def Requester.reads (r : Requester) (view idx : Nat) : Bool := Requester.reaches r view && Requester.opens { r with view := view } idx false

theorem readView_clears (h : Requester.reads r view idx = true) (hrc : regRc view idx = true) :
    s.readView r view idx = { s.wreg view idx 0 with out := s.out ++ [.read view idx (s.rreg view idx)] } := by
  refine (if_pos h).trans ?_
  rw [regRead_clears s { r with view := view } hrc]
  rfl

theorem readView_denied (h : Requester.reads r view idx = false) (hhost : r.host = true) :
    s.readView r view idx = { s.bump 0 0x0420 with out := s.out ++ [.read view idx 0] } := by
  refine (if_neg (by rw [← Requester.reads, h]; exact Bool.false_ne_true)).trans ((if_pos hhost).trans ?_)
  rw [deny_host hhost]
  rfl

theorem readView_traps {u : Thread} {entry : DWord} (h : Requester.reads r view idx = false) (hhost : r.host = false) (hsome : s.mgmtThread r = some u)
    (hu : s.thr? u.uid = some u) (hmay : s.mayTrap u entry) :
    s.readView r view idx = s.updThr u.uid (·.trapped entry u.pc 24 (u.pc.toNat % 12 / 4) 0 0) := by
  refine (if_neg (by rw [← Requester.reads, h]; exact Bool.false_ne_true)).trans ((if_neg (by rw [hhost]; exact Bool.false_ne_true)).trans ?_)
  rw [deny_core hhost, hsome]
  exact takeTrap_mayTrap hu hmay 24 (slotOf u.pc) 0 0 u.pc

end

theorem regRc_iff {view idx : Nat} : regRc view idx = true ↔
    (view = 0 ∧ (idx = 0x0420 ∨ (0x0440 ≤ idx ∧ idx < 0x0450) ∨ (0x0460 ≤ idx ∧ idx < 0x0472) ∨ idx = 0x2C05))
      ∨ (0x0D00 ≤ idx ∧ idx < 0x0F00 ∧ ((15 ≤ idx % 32 ∧ idx % 32 ≤ 21) ∨ idx % 32 = 24))
      ∨ idx = 0x1E08 ∨ idx = 0x2002 ∨ (0x2400 ≤ idx ∧ idx < 0x2600 ∧ idx % 8 = 5) := by
  simp only [regRc, Bool.or_eq_true, Bool.and_eq_true, beq_iff_eq, decide_eq_true_eq, or_assoc, and_assoc]

/-- A requester of level R or S reaches every view; one of level F its own and the global one. -/
theorem reads_iff {r : Requester} {view idx : Nat} : Requester.reads r view idx = true ↔
    (view = r.view ∨ view = 0 ∨ Level.atLeastR r.level = true) ∧ Requester.opens { r with view := view } idx false = true := by
  simp [Requester.reads, Requester.reaches, or_assoc]

/-- FE_ registers of the global view that level F opens are read by every level but U. -/
theorem reads_global {r : Requester} {idx : Nat} (h : 0x0400 ≤ idx ∧ idx < 0x0460) : Requester.reads r 0 idx = true ↔ r.level ≠ .u := by
  have low : secOnly idx ≠ true := by rw [ne_eq, secOnly_iff]; omega
  rw [reads_iff, opens_iff]
  obtain ⟨view, level, host, latch⟩ := r
  cases level <;> simp [Level.atLeastR, Level.atLeastF, low] <;> omega

/-- The other registers of the global view that clear are read by levels R and S. -/
theorem reads_managed {r : Requester} {idx : Nat} (h : (0x0460 ≤ idx ∧ idx < 0x0472) ∨ idx = 0x2C05) :
    Requester.reads r 0 idx = true ↔ r.level = .r ∨ r.level = .s := by
  have low : secOnly idx ≠ true := by rw [ne_eq, secOnly_iff]; omega
  rw [reads_iff, opens_iff]
  obtain ⟨view, level, host, latch⟩ := r
  cases level <;> simp [Level.atLeastR, Level.atLeastF, low] <;> omega

/-- The registers of a view that clear are read by levels R and S, and by level F in the view of its own VF. -/
theorem reads_view {r : Requester} {view idx : Nat} (h : 0x0C00 ≤ idx ∧ idx < 0x2800) (hsec : secOnly idx ≠ true) :
    Requester.reads r view idx = true ↔ (r.level = .r ∨ r.level = .s) ∨ (view ≠ 0 ∧ view = r.view ∧ r.level = .f) := by
  rw [reads_iff, opens_iff]
  obtain ⟨own, level, host, latch⟩ := r
  cases level <;> simp [Level.atLeastR, Level.atLeastF, hsec] <;> omega

/-! ## Accesses to a BAR (R346) -/

section
variable {s : State} (h : s.boot = .ready)
include h

/-- Where a view's register lies in BAR 0, and in BAR 2 of its VF. -/
theorem mmio_inside {bar view idx : Nat} (hview : view ≤ 16) (hidx : idx < 16384) (hbar : bar = 0 ∨ bar = view) (v : Option Word) :
    s.mmio bar ((if bar = 0 then 65536 * view else 0) + 4 * idx) v =
      (let host : Requester := ⟨view, if bar = 0 then .r else .f, true, view⟩
      match v with
      | none => s.outsideRead host idx
      | some w => landed s (execRegisterWrite host idx w s)) := by
  by_cases hzero : bar = 0
  · subst hzero
    have hat : (65536 * view + 4 * idx) / 65536 = view := by omega
    have hix : (65536 * view + 4 * idx) % 65536 / 4 = idx := by omega
    have inside : ((65536 * view + 4 * idx) % 4 == 0 && decide (view ≤ 16) && (0 == 0 || decide (65536 * view + 4 * idx < 65536))) = true := by
      simp only [beq_self_eq_true, Bool.true_or, Bool.and_true, Bool.and_eq_true, beq_iff_eq, decide_eq_true_eq]
      omega
    cases v <;> simp only [State.mmio, if_pos, hat, hix, inside, h, ne_eq, not_true_eq_false, if_false]
  · obtain rfl := hbar.resolve_left hzero
    have hix : (4 * idx) % 65536 / 4 = idx := by omega
    have inside : (4 * idx % 4 == 0 && decide (bar ≤ 16) && (bar == 0 || decide (4 * idx < 65536))) = true := by
      simp only [Bool.and_eq_true, beq_iff_eq, decide_eq_true_eq, Bool.or_eq_true]
      omega
    cases v <;> simp only [State.mmio, if_neg hzero, Nat.zero_add, hix, inside, h, ne_eq, not_true_eq_false, if_false, if_true]

theorem mmio_behind {off : Nat} (hoff : 65536 * 17 ≤ off) (v : Option Word) : s.mmio 0 off v =
    match v with
    | none => { s with out := s.out ++ [.read (off / 65536) (off % 65536 / 4) 0] }
    | some _ => s := by
  have outside : ¬(off / 65536 ≤ 16) := by omega
  cases v <;> simp [State.mmio, h, outside]

end

theorem mmio_booting {s : State} (h : s.boot ≠ .ready) (bar off : Nat) (v : Option Word) : s.mmio bar off v = s := if_pos h

/-! ## The statement -/

section
variable {s : State} {r : Requester} {i : Instr} {view idx : Nat}

/-- What a read event gives its requester: the value, and the register at 0. -/
def takesRead (s : State) (i : Instr) (view idx : Nat) : Prop :=
  exec i s = .next { s.wreg view idx 0 with out := s.out ++ [.read view idx (s.rreg view idx)] }

/-- What it gives one to whom the register is not open. -/
def deniesRead (s : State) (r : Requester) (entry : DWord) (i : Instr) (view idx : Nat) : Prop :=
  (r.host = true → exec i s = .next { s.bump 0 0x0420 with out := s.out ++ [.read view idx 0] })
    ∧ ∀ u, r.host = false → s.mgmtThread r = some u → s.thr? u.uid = some u → u.tx = none → s.mayTrap u entry →
        exec i s = .next (s.updThr u.uid (·.trapped entry u.pc 24 (u.pc.toNat % 12 / 4) 0 0))

variable (he : exec i s = .next (s.readView r view idx)) {P : Prop} (hP : Requester.reads r view idx = true ↔ P)
include he hP

theorem takesRead_of (hrc : regRc view idx = true) (h : P) : takesRead s i view idx :=
  he.trans (congrArg _ (readView_clears (hP.mpr h) hrc))

theorem deniesRead_of (h : ¬P) (entry : DWord) : deniesRead s r entry i view idx := by
  have closed := Bool.eq_false_iff.mpr (mt hP.mp h)
  exact ⟨fun hhost => he.trans (congrArg _ (readView_denied closed hhost)),
    fun u hhost hsome hu _ hmay => he.trans (congrArg _ (readView_traps closed hhost hsome hu hmay))⟩

theorem read_event [Decidable P] (hrc : regRc view idx = true) (entry : DWord) : if P then takesRead s i view idx else deniesRead s r entry i view idx := by
  split
  · exact takesRead_of he hP hrc ‹_›
  · exact deniesRead_of he hP ‹_› entry

end

/-- Settles O38: each event is a read of one register, whose index tells who reads it. -/
theorem registerReadEvents : Obligations.RegisterReadEvents := by
  unfold Obligations.RegisterReadEvents
  intro s r entry
  refine ⟨read_event rfl (reads_global (by decide)) rfl entry, fun c hc => ?noshadow, fun n hn => ?notifydrop, fun slot o hslot hlo hhi h22 h23 => ?stream,
    fun fe hfe => ?translation, fun fe c hfe hc => ?lod, read_event rfl (reads_managed (by decide)) rfl entry, fun n => rfl,
    fun hboot bar view idx hview hidx hbar => ?bar, fun hboot off hoff => ?behind, fun hboot bar off w => mmio_booting hboot bar off w⟩
  case noshadow =>
    refine read_event (congrArg _ (if_pos hc)) (reads_managed (by omega)) (regRc_iff.mpr (.inl ⟨rfl, by omega⟩)) entry
  case notifydrop =>
    refine read_event (congrArg _ (if_pos hn)) (reads_global (by omega)) (regRc_iff.mpr (.inl ⟨rfl, by omega⟩)) entry
  case stream =>
    have offset : (decide (slot < 16) && ((decide (15 ≤ o) && decide (o ≤ 21)) || decide (o = 24))) = true := by
      simp only [Bool.and_eq_true, decide_eq_true_eq, Bool.or_eq_true]
      omega
    have index : 0x0C00 ≤ 0x0D00 + 32 * slot + o ∧ 0x0D00 + 32 * slot + o < 0x2800 := by omega
    refine read_event (congrArg _ (if_pos offset)) ((reads_view index ?_).trans ?_) ?_ entry
    · rw [ne_eq, secOnly_iff]
      omega
    · simp
    · rw [regRc_iff]
      omega
  case translation =>
    have specdrop : exec (.tlbSpecdropRead r fe) s = .next (s.readView r fe 0x1E08) := congrArg _ (if_pos hfe)
    have waits : exec (.prqWaitsRead r fe) s = .next (s.readView r fe 0x2002) := congrArg _ (if_pos hfe)
    have hspec := reads_view (r := r) (view := fe) (idx := 0x1E08) (by decide) (by decide)
    have hwaits := reads_view (r := r) (view := fe) (idx := 0x2002) (by decide) (by decide)
    split
    · exact ⟨takesRead_of specdrop hspec (by simp [regRc]) ‹_›, takesRead_of waits hwaits (by simp [regRc]) ‹_›⟩
    · exact ⟨deniesRead_of specdrop hspec ‹_› entry, deniesRead_of waits hwaits ‹_› entry⟩
  case lod =>
    have index : 0x2400 + 8 * c + 5 = 0x2405 + 8 * c := by omega
    have event : exec (.lodFbdropRead r fe c) s = .next (s.readView r fe (0x2405 + 8 * c)) := by
      rw [← index]
      exact congrArg _ (if_pos (by simp [hfe, hc]))
    refine read_event event (reads_view (by omega) ?_) ?_ entry
    · rw [ne_eq, secOnly_iff]
      omega
    · rw [regRc_iff]
      omega
  case bar =>
    have inside := mmio_inside hboot hview hidx hbar
    generalize (if bar = 0 then 65536 * view else 0) + 4 * idx = off at *
    generalize (if bar = 0 then Level.r else Level.f) = level at *
    dsimp only at *
    refine ⟨fun hopen => (inside none).trans (if_pos ?_), fun hclosed => (inside none).trans ?_, fun w => ?_⟩
    · simp [Requester.reaches, hopen]
    · exact readView_denied (by simp [Requester.reads, hclosed]) rfl
    · rw [inside]
      rfl
  case behind => exact ⟨fun w => mmio_behind hboot hoff (some w), mmio_behind hboot hoff none⟩

end Sys2Proof.Machine
end

section
/-! SUPPORT. What boot leaves of the state: flash, the registers and all that no firmware has started; the workgroup and the thread of each management
core; the measurement. -/

namespace Sys2Proof.Machine

/-! ## Maps read past a write and through a filter -/

/-- A write leaves every other key, canonical or not. -/
theorem mget_mput_ne [DecidableEq α] {d v : α} {k j : Nat} (h : j ≠ k) : ∀ m : SMap α, mget d (mput d m k v) j = mget d m j
  | [] => by by_cases hv : v = d <;> simp [mput, mget, hv, h]
  | (k', v') :: m => by
    have ih := mget_mput_ne (d := d) (v := v) h m
    by_cases hlt : k < k'
    · by_cases hv : v = d <;> simp [mput, mget, hlt, hv, h]
    · by_cases heq : k = k'
      · subst heq
        by_cases hv : v = d <;> simp [mput, mget, hv, h]
      · simp [mput, mget, hlt, heq, ih]

/-- Keys below those that are written stay. -/
theorem mget_mputs_below [DecidableEq α] {d : α} {j : Nat} : ∀ (vs : List α) (m : SMap α) (k : Nat), j < k → mget d (mputs d m k vs) j = mget d m j
  | [], _, _, _ => rfl
  | v :: vs, m, k, h => (mget_mputs_below vs _ (k + 1) (by omega)).trans (mget_mput_ne (by omega) m)

/-- A filter by keys leaves what it lets through, and nothing else. -/
theorem mget_filter {d : α} {p : Nat → Bool} {j : Nat} : ∀ m : SMap α, mget d (m.filter fun c => p c.1) j = if p j then mget d m j else d
  | [] => by simp [mget]
  | (k, v) :: m => by
    have ih := mget_filter (d := d) (p := p) (j := j) m
    by_cases hj : j = k
    · subst hj
      by_cases hp : p j = true <;> simp [mget, hp, ih]
    · by_cases hp : p k = true <;> simp [mget, hp, hj, ih]

/-! ## What every part of boot keeps -/

/-- Boot of `s` has led to `t`: only management cores have been given work, and their memory alone was written. -/
structure Boots (s t : State) : Prop where
  flash : t.flash = s.flash
  regs : t.regs = s.regs
  graphs : t.graphs = s.graphs
  tlb : t.tlb = s.tlb
  l1 : t.l1 = s.l1
  dlc : t.dlc = s.dlc
  inputs : t.inputs = s.inputs
  low : ∀ a, a < ownBase 0 → mget 0#8 t.mem a = mget 0#8 s.mem a
  cores : ∀ w ∈ t.wgs, w ∈ s.wgs ∨ (252 ≤ w.core ∧ w.core < 270)
  wgs : ∀ w ∈ s.wgs, w ∈ t.wgs
  threads : ∀ u ∈ s.threads, u ∈ t.threads

theorem Boots.refl (s : State) : Boots s s := ⟨rfl, rfl, rfl, rfl, rfl, rfl, rfl, fun _ _ => rfl, fun _ h => .inl h, fun _ h => h, fun _ h => h⟩

theorem Boots.trans {s t u : State} (h : Boots s t) (k : Boots t u) : Boots s u where
  flash := k.flash.trans h.flash
  regs := k.regs.trans h.regs
  graphs := k.graphs.trans h.graphs
  tlb := k.tlb.trans h.tlb
  l1 := k.l1.trans h.l1
  dlc := k.dlc.trans h.dlc
  inputs := k.inputs.trans h.inputs
  low a ha := (k.low a ha).trans (h.low a ha)
  cores w hw := (k.cores w hw).elim (h.cores w) .inr
  wgs w hw := k.wgs w (h.wgs w hw)
  threads u hu := k.threads u (h.threads u hu)

/-- What the start of a core leaves that the rest of boot changes. -/
structure StartsCore (s t : State) : Prop extends Boots s t where
  meas : t.meas = s.meas
  running : t.running = s.running
  boot : t.boot = s.boot
  box : t.box = s.box
  boxSnap : t.boxSnap = s.boxSnap
  agenda : t.agenda = s.agenda

theorem StartsCore.refl (s : State) : StartsCore s s := ⟨.refl s, rfl, rfl, rfl, rfl, rfl, rfl⟩

theorem StartsCore.trans {s t u : State} (h : StartsCore s t) (k : StartsCore t u) : StartsCore s u :=
  ⟨h.toBoots.trans k.toBoots, k.meas.trans h.meas, k.running.trans h.running, k.boot.trans h.boot, k.box.trans h.box, k.boxSnap.trans h.boxSnap,
    k.agenda.trans h.agenda⟩

/-! ## A management core (R9, R431) -/

/-- The thread of a launch of one on an ensign core has a group of its own. -/
theorem launchThreads_ensign (s : State) (w : Wg) {l : Launch} {core : Nat} (hsize : l.wgsize = 1) (hcore : 216 ≤ core) :
    s.launchThreads w l core = ((s.newGroup core w.id).2).addThread w.id (s.newGroup core w.id).1 0 ⟨false, l.entry, 0, [], 0, false, false, none⟩ := by
  have ensign : isEnsign core = true := by simpa [isEnsign] using hcore
  simp only [State.launchThreads, ensign, hsize, if_true, ceilDiv, State.over]
  rfl

/-- A management core that starts has a workgroup with a thread at its image's entry. -/
theorem startCore_starts (s : State) (im : List Byte) {p : Nat × Level} (hp : 252 ≤ p.1 ∧ p.1 < 270) : StartsCore s (s.startCore im p)
    ∧ ∃ w ∈ (s.startCore im p).wgs, w.core = p.1 ∧ ∃ u ∈ (s.startCore im p).threads, u.wg = w.id ∧ u.pc = Config.fwEntry im := by
  have started := launchThreads_ensign { s with
    fresh := s.fresh + 1 + 1, mem := mputs 0#8 s.mem (ownBase (p.1 - 252)) ((im.drop 32).take (imgSize im))
    launches := s.launches ++ [fwLaunch s.fresh p.1 p.2 im], wgs := s.wgs ++ [fwWg (s.fresh + 1) s.fresh p.1] }
    (fwWg (s.fresh + 1) s.fresh p.1) (l := fwLaunch s.fresh p.1 p.2 im) (core := p.1) rfl (by omega)
  have eq : s.startCore im p = _ := started
  have low : ∀ a, a < ownBase 0 → a < ownBase (p.1 - 252) := fun a ha => Nat.lt_of_lt_of_le ha (by unfold ownBase; omega)
  rw [eq]
  refine ⟨⟨⟨rfl, rfl, rfl, rfl, rfl, rfl, rfl, fun a ha => mget_mputs_below _ _ _ (low a ha), fun w hw => ?_, fun w hw => List.mem_append_left _ hw,
    fun u hu => List.mem_append_left _ hu⟩, rfl, rfl, rfl, rfl, rfl, rfl⟩, fwWg (s.fresh + 1) s.fresh p.1, List.mem_append_right _ (List.mem_singleton.mpr rfl),
    rfl, _, List.mem_append_right _ (List.mem_singleton.mpr rfl), rfl, rfl⟩
  rcases List.mem_append.mp hw with hw | hw
  · exact .inl hw
  · rw [List.mem_singleton.mp hw]
    exact .inr hp

theorem startCores_start (im : List Byte) : ∀ (ps : List (Nat × Level)) (s : State), (∀ p ∈ ps, 252 ≤ p.1 ∧ p.1 < 270) →
    StartsCore s (s.over ps fun s p => s.startCore im p) ∧ ∀ p ∈ ps, ∃ w ∈ (s.over ps fun s p => s.startCore im p).wgs, w.core = p.1
      ∧ ∃ u ∈ (s.over ps fun s p => s.startCore im p).threads, u.wg = w.id ∧ u.pc = Config.fwEntry im
  | [], s, _ => ⟨.refl s, fun _ h => absurd h List.not_mem_nil⟩
  | p :: ps, s, h => by
    obtain ⟨first, w, hw, hcore, u, hu, hat⟩ := startCore_starts s im (h p List.mem_cons_self)
    obtain ⟨rest, others⟩ := startCores_start im ps (s.startCore im p) fun q hq => h q (List.mem_cons_of_mem _ hq)
    refine ⟨first.trans rest, fun q hq => ?_⟩
    rcases List.mem_cons.mp hq with rfl | hq
    · exact ⟨w, rest.wgs w hw, hcore, u, rest.threads u hu, hat⟩
    · exact others q hq

theorem mem_fwCores {kind : Nat} {p : Nat × Level} (h : p ∈ fwCores kind) : 252 ≤ p.1 ∧ p.1 < 270 := by
  unfold fwCores at h
  split at h
  · rw [List.mem_singleton.mp h]
    decide
  · split at h
    · rw [List.mem_singleton.mp h]
      decide
    · obtain ⟨c, hc, rfl⟩ := List.mem_map.mp h
      have := mem_upFrom.mp hc
      dsimp only
      omega

/-! ## Boot, KIND by KIND (R431 to R434) -/

/-- The state after the image of a KIND was accepted, measured and started. -/
def State.fwStart (s : State) (kind : Nat) (im : List Byte) : State :=
  ({ s.extend (imgSigned im) with running := s.running ++ [imgSvn im] } : State).over (fwCores kind) fun s p => s.startCore im p

theorem bootKinds_refused {s : State} {cfg : List Byte} {kind : Nat} (h : s.flash.bootImage cfg kind = none) (trip : Bool) (ks : List Nat) :
    s.bootKinds cfg trip (kind :: ks) = s.recover := by
  rw [State.bootKinds, h]

theorem bootKinds_accepted {s : State} {cfg im : List Byte} {kind : Nat} (h : s.flash.bootImage cfg kind = some im) (trip : Bool) (ks : List Nat) :
    s.bootKinds cfg trip (kind :: ks) = if trip then { s.fwStart kind im with boot := .tripped } else (s.fwStart kind im).bootKinds cfg trip ks := by
  rw [State.bootKinds, h]
  rfl

theorem fwStart_starts (s : State) (kind : Nat) (im : List Byte) :
    StartsCore { s.extend (imgSigned im) with running := s.running ++ [imgSvn im] } (s.fwStart kind im) :=
  (startCores_start im _ _ fun _ => mem_fwCores).1

theorem fwStart_meas (s : State) (kind : Nat) (im : List Byte) : (s.fwStart kind im).meas = digest (s.meas ++ digest (imgSigned im)) :=
  (fwStart_starts s kind im).meas

theorem fwStart_running (s : State) (kind : Nat) (im : List Byte) : (s.fwStart kind im).running = s.running ++ [imgSvn im] :=
  (fwStart_starts s kind im).running

theorem fwStart_boots (s : State) (kind : Nat) (im : List Byte) : Boots s (s.fwStart kind im) :=
  Boots.trans (t := { s.extend (imgSigned im) with running := s.running ++ [imgSvn im] }) ⟨rfl, rfl, rfl, rfl, rfl, rfl, rfl, fun _ _ => rfl,
    fun _ h => .inl h, fun _ h => h, fun _ h => h⟩ (fwStart_starts s kind im).toBoots

/-- Recovery keeps what boot keeps; its event is persisted. -/
theorem recover_boots (s : State) : Boots s s.recover := by
  unfold State.recover State.persist State.postOnce
  split
  · exact ⟨rfl, rfl, rfl, rfl, rfl, rfl, rfl, fun _ _ => rfl, fun _ h => .inl h, fun _ h => h, fun _ h => h⟩
  · split <;> exact ⟨rfl, rfl, rfl, rfl, rfl, rfl, rfl, fun _ _ => rfl, fun _ h => .inl h, fun _ h => h, fun _ h => h⟩

theorem boot_boots (s : State) (b : Boot) : Boots s { s with boot := b } :=
  ⟨rfl, rfl, rfl, rfl, rfl, rfl, rfl, fun _ _ => rfl, fun _ h => .inl h, fun _ h => h, fun _ h => h⟩

theorem bootKinds_boots (cfg : List Byte) (trip : Bool) : ∀ (ks : List Nat) (s : State), Boots s (s.bootKinds cfg trip ks)
  | [], s => boot_boots s .ready
  | k :: ks, s => by
    cases hk : s.flash.bootImage cfg k with
    | none =>
      rw [bootKinds_refused hk]
      exact recover_boots s
    | some im =>
      rw [bootKinds_accepted hk]
      have started := fwStart_boots s k im
      split
      · exact started.trans (boot_boots _ .tripped)
      · exact started.trans (bootKinds_boots cfg trip ks _)

/-- The state in which the images are verified: the configuration record of slot `k` has been accepted. -/
def State.cfgStart (s : State) (k : Nat) : State := ({ s with running := [k] } : State).extend (Config.cfgSigned (s.flash.configs.getD k []))

theorem bootRun_some {s : State} {k : Nat} (h : s.flash.bootCfg = some k) (trip : Bool) :
    s.bootRun trip = (s.cfgStart k).bootKinds (s.flash.configs.getD k []) trip [1, 2, 3] := by
  rw [State.bootRun, h]
  rfl

theorem bootRun_none {s : State} (h : s.flash.bootCfg = none) (trip : Bool) : s.bootRun trip = s.recover := by
  rw [State.bootRun, h]

theorem bootRun_boots (s : State) (trip : Bool) : Boots s (s.bootRun trip) := by
  cases h : s.flash.bootCfg with
  | none =>
    rw [bootRun_none h]
    exact recover_boots s
  | some k =>
    rw [bootRun_some h]
    exact Boots.trans (t := s.cfgStart k) ⟨rfl, rfl, rfl, rfl, rfl, rfl, rfl, fun _ _ => rfl, fun _ h => .inl h, fun _ h => h, fun _ h => h⟩
      (bootKinds_boots _ trip _ _)

/-! ## Where boot ends -/

/-- The configuration record and the three images verify. -/
def Flash.boots (f : Flash) : Prop :=
  ∃ k, f.bootCfg = some k ∧ ∀ j, 1 ≤ j → j ≤ 3 → (f.bootImage (f.configs.getD k []) j).isSome = true

/-- The event that recovery records. -/
def bootFail (s : State) : BoxEv := ⟨s.dlc, 2, 0xFFFF, 0, 0, 0⟩

/-- Boot has ended in recovery, with its event recorded and to be persisted. -/
structure Recovers (s t : State) : Prop where
  boot : t.boot = .recovery
  box : s.box.length < 1024 → t.box = s.box ++ [bootFail s]
  persists : s.boxSnap = none → .bbxPersistComplete ∈ t.agenda

theorem recover_recovers (s : State) : Recovers s s.recover := by
  have persisted : ∀ u : State, u.persist.boot = u.boot ∧ u.persist.box = u.box ∧ (u.boxSnap = none → .bbxPersistComplete ∈ u.persist.agenda) := fun u => by
    unfold State.persist State.postOnce
    split
    · next h => exact ⟨rfl, rfl, fun hn => by simp [hn] at h⟩
    · split
      · next h => exact ⟨rfl, rfl, fun _ => List.contains_iff_mem.mp h⟩
      · exact ⟨rfl, rfl, fun _ => List.mem_append_right _ (List.mem_singleton.mpr rfl)⟩
  obtain ⟨boot, box, persists⟩ := persisted (({ s with boot := .recovery } : State).boxPut 2 0xFFFF 0 0 0)
  refine ⟨boot, fun h => box.trans ?_, persists⟩
  exact congrArg (· ++ [bootFail s]) (if_neg (by simpa using h))

/-- Boot in the case that all verifies: the three images run one after the other. -/
theorem bootRun_ready {s : State} {k : Nat} {a b c : List Byte} (hk : s.flash.bootCfg = some k)
    (ha : s.flash.bootImage (s.flash.configs.getD k []) 1 = some a) (hb : s.flash.bootImage (s.flash.configs.getD k []) 2 = some b)
    (hc : s.flash.bootImage (s.flash.configs.getD k []) 3 = some c) :
    s.bootRun false = { (((s.cfgStart k).fwStart 1 a).fwStart 2 b).fwStart 3 c with boot := .ready } := by
  have first : ((s.cfgStart k).fwStart 1 a).flash = s.flash := (fwStart_boots _ 1 a).flash
  have second : (((s.cfgStart k).fwStart 1 a).fwStart 2 b).flash = s.flash := (fwStart_boots _ 2 b).flash.trans first
  rw [bootRun_some hk, bootKinds_accepted (s := s.cfgStart k) ha, if_neg Bool.false_ne_true, bootKinds_accepted (by rw [first]; exact hb), if_neg Bool.false_ne_true,
    bootKinds_accepted (by rw [second]; exact hc), if_neg Bool.false_ne_true]
  rfl

/-- The black box is as it was, and nothing of it is being persisted that was not before. -/
structure SameBox (s u : State) : Prop where
  box : u.box = s.box
  boxSnap : u.boxSnap = s.boxSnap
  dlc : u.dlc = s.dlc

theorem fwStart_sameBox (s : State) (kind : Nat) (im : List Byte) : SameBox s (s.fwStart kind im) :=
  have started := fwStart_starts s kind im
  ⟨started.box, started.boxSnap, started.dlc⟩

theorem SameBox.trans {s t u : State} (h : SameBox s t) (k : SameBox t u) : SameBox s u :=
  ⟨k.box.trans h.box, k.boxSnap.trans h.boxSnap, k.dlc.trans h.dlc⟩

theorem SameBox.recovers {s u : State} (h : SameBox s u) : Recovers s u.recover := by
  obtain ⟨boot, box, persists⟩ := recover_recovers u
  refine ⟨boot, fun hlen => ?_, fun hsnap => persists (h.boxSnap.trans hsnap)⟩
  rw [box (h.box ▸ hlen), h.box, bootFail, h.dlc]
  rfl

/-- An image that does not verify ends boot in recovery. -/
theorem bootKinds_recovers {cfg : List Byte} : ∀ {ks : List Nat} {s : State}, (∃ j ∈ ks, s.flash.bootImage cfg j = none) →
    Recovers s (s.bootKinds cfg false ks)
  | [], s, h => absurd h (by simp)
  | k :: ks, s, h => by
    cases hk : s.flash.bootImage cfg k with
    | none =>
      rw [bootKinds_refused hk]
      exact recover_recovers s
    | some im =>
      obtain ⟨j, hj, hnone⟩ := h
      have later : j ∈ ks := (List.mem_cons.mp hj).resolve_left fun e => by simp [e, hk] at hnone
      have same := fwStart_sameBox s k im
      have rest := bootKinds_recovers (s := s.fwStart k im) ⟨j, later, by rw [(fwStart_boots s k im).flash]; exact hnone⟩
      rw [bootKinds_accepted hk, if_neg Bool.false_ne_true]
      refine ⟨rest.boot, fun hlen => (rest.box (same.box ▸ hlen)).trans ?_, fun hsnap => rest.persists (same.boxSnap.trans hsnap)⟩
      rw [same.box, bootFail, same.dlc]
      rfl

theorem bootRun_recovers {s : State} (h : ¬s.flash.boots) : Recovers s (s.bootRun false) := by
  cases hk : s.flash.bootCfg with
  | none =>
    rw [bootRun_none hk]
    exact recover_recovers s
  | some k =>
    have refused : ∃ j ∈ [1, 2, 3], s.flash.bootImage (s.flash.configs.getD k []) j = none := by
      by_contra hall
      refine h ⟨k, hk, fun j hlo hhi => ?_⟩
      have listed : j ∈ [1, 2, 3] := by
        simp only [List.mem_cons, List.not_mem_nil, or_false]
        omega
      cases hj : s.flash.bootImage (s.flash.configs.getD k []) j with
      | none => exact absurd ⟨j, listed, hj⟩ hall
      | some im => rfl
    rw [bootRun_some hk]
    obtain ⟨boot, box, persists⟩ := bootKinds_recovers (s := s.cfgStart k) refused
    exact ⟨boot, box, persists⟩

/-- Where all verifies, boot records nothing. -/
theorem bootRun_runs {s : State} (h : s.flash.boots) : (s.bootRun false).boot = .ready ∧ (s.bootRun false).box = s.box := by
  obtain ⟨k, hk, images⟩ := h
  obtain ⟨a, ha⟩ := Option.isSome_iff_exists.mp (images 1 (by decide) (by decide))
  obtain ⟨b, hb⟩ := Option.isSome_iff_exists.mp (images 2 (by decide) (by decide))
  obtain ⟨c, hc⟩ := Option.isSome_iff_exists.mp (images 3 (by decide) (by decide))
  have same := ((fwStart_sameBox (s.cfgStart k) 1 a).trans (fwStart_sameBox _ 2 b)).trans (fwStart_sameBox _ 3 c)
  rw [bootRun_ready hk ha hb hc]
  exact ⟨rfl, same.box⟩

/-- A device that has tripped does not come to run. -/
theorem bootRun_trip (s : State) : (s.bootRun true).boot ≠ .ready := by
  have stays : ∀ s : State, s.recover.boot ≠ .ready := fun s h => nomatch (recover_recovers s).boot.symm.trans h
  cases hk : s.flash.bootCfg with
  | none =>
    rw [bootRun_none hk]
    exact stays s
  | some k =>
    rw [bootRun_some hk]
    cases ha : (s.cfgStart k).flash.bootImage (s.flash.configs.getD k []) 1 with
    | none =>
      rw [bootKinds_refused ha]
      exact stays _
    | some a =>
      rw [bootKinds_accepted ha, if_pos rfl]
      exact fun h => nomatch h

/-- The measurement, and what runs, after a boot in which all verifies (R434). -/
theorem bootRun_measures {s : State} {k : Nat} {a b c : List Byte} (hk : s.flash.bootCfg = some k)
    (ha : s.flash.bootImage (s.flash.configs.getD k []) 1 = some a) (hb : s.flash.bootImage (s.flash.configs.getD k []) 2 = some b)
    (hc : s.flash.bootImage (s.flash.configs.getD k []) 3 = some c) :
    let ext := fun (m item : List Byte) => digest (m ++ digest item)
    (s.bootRun false).meas = ext (ext (ext (ext s.meas (Config.cfgSigned (s.flash.configs.getD k []))) (imgSigned a)) (imgSigned b)) (imgSigned c)
      ∧ (s.bootRun false).running = [k, imgSvn a, imgSvn b, imgSvn c] := by
  intro ext
  rw [bootRun_ready hk ha hb hc]
  constructor
  · change ((((s.cfgStart k).fwStart 1 a).fwStart 2 b).fwStart 3 c).meas = _
    rw [fwStart_meas, fwStart_meas, fwStart_meas]
    rfl
  · change ((((s.cfgStart k).fwStart 1 a).fwStart 2 b).fwStart 3 c).running = _
    rw [fwStart_running, fwStart_running, fwStart_running]
    rfl

/-- Each management core runs its image after such a boot (R431). -/
theorem bootRun_cores {s : State} {k : Nat} {a b c : List Byte} (hk : s.flash.bootCfg = some k)
    (ha : s.flash.bootImage (s.flash.configs.getD k []) 1 = some a) (hb : s.flash.bootImage (s.flash.configs.getD k []) 2 = some b)
    (hc : s.flash.bootImage (s.flash.configs.getD k []) 3 = some c) {n : Nat} (hn : n < 18) :
    ∃ w ∈ (s.bootRun false).wgs, w.core = 252 + n ∧ ∃ u ∈ (s.bootRun false).threads, u.wg = w.id
      ∧ u.pc = Config.fwEntry (if n = 17 then a else if n = 0 then b else c) := by
  have runs : ∀ (u : State) (kind : Nat) (im : List Byte) {core : Nat} {lv : Level}, (core, lv) ∈ fwCores kind →
      ∃ w ∈ (u.fwStart kind im).wgs, w.core = core ∧ ∃ x ∈ (u.fwStart kind im).threads, x.wg = w.id ∧ x.pc = Config.fwEntry im :=
    fun u kind im {core lv} h => (startCores_start im _ _ fun _ => mem_fwCores).2 (core, lv) h
  have second := fwStart_boots ((s.cfgStart k).fwStart 1 a) 2 b
  have third := fwStart_boots (((s.cfgStart k).fwStart 1 a).fwStart 2 b) 3 c
  rw [bootRun_ready hk ha hb hc]
  by_cases h17 : n = 17
  · obtain ⟨w, hw, hcore, u, hu, hat⟩ := runs (s.cfgStart k) 1 a (core := 252 + n) (lv := .s) (by simp [fwCores, h17])
    rw [if_pos h17]
    exact ⟨w, third.wgs w (second.wgs w hw), hcore, u, third.threads u (second.threads u hu), hat⟩
  · by_cases h0 : n = 0
    · obtain ⟨w, hw, hcore, u, hu, hat⟩ := runs ((s.cfgStart k).fwStart 1 a) 2 b (core := 252 + n) (lv := .r) (by simp [fwCores, h0])
      rw [if_neg h17, if_pos h0]
      exact ⟨w, third.wgs w hw, hcore, u, third.threads u hu, hat⟩
    · have listed : (252 + n, Level.f) ∈ fwCores 3 := List.mem_map.mpr ⟨252 + n, mem_upFrom.mpr (by omega), rfl⟩
      obtain ⟨w, hw, hcore, u, hu, hat⟩ := runs (((s.cfgStart k).fwStart 1 a).fwStart 2 b) 3 c listed
      rw [if_neg h17, if_neg h0]
      exact ⟨w, hw, hcore, u, hu, hat⟩

end Sys2Proof.Machine
end

section
/-! O53, Resets: what a loss of state leaves, the resets, errors of the management core, and the statement. -/

namespace Sys2Proof.Machine

/-- Flash, and memory outside the device, are all that was before; only management cores have work. -/
structure Keeps (s t : State) : Prop where
  flash : t.flash = s.flash
  cores : ∀ w ∈ t.wgs, 252 ≤ w.core ∧ w.core < 270
  graphs : t.graphs = []
  tlb : t.tlb = []
  l1 : t.l1 = []
  dlc : t.dlc = 0
  mem : ∀ a, a < ownBase 0 → mget 0#8 t.mem a = if hostBase ≤ a then mget 0#8 s.mem a else 0#8

/-- What is lost, with any registers and any black box, keeps these. -/
theorem lost_keeps (s : State) : Keeps s s.lost := by
  refine ⟨rfl, fun w hw => absurd hw List.not_mem_nil, rfl, rfl, rfl, rfl, fun a ha => ?_⟩
  refine (mget_filter (p := fun k => decide (hostBase ≤ k) && decide (k < ownBase 0)) s.mem).trans ?_
  simp [ha]

theorem Boots.keeps {s u t : State} (h : Keeps s u) (k : Boots u t) : Keeps s t :=
  ⟨k.flash.trans h.flash, fun w hw => (k.cores w hw).elim (h.cores w) id, k.graphs.trans h.graphs, k.tlb.trans h.tlb, k.l1.trans h.l1, k.dlc.trans h.dlc,
    fun a ha => (k.low a ha).trans (h.mem a ha)⟩

/-- The state in which a reset starts boot. -/
def State.bootsFrom (s : State) (regs : SMap Word) (box : List BoxEv) (count code : Nat) : State :=
  ({ s.lost with regs := regs, box := box, boxCount := count } : State).boxPut 1 0xFFFF code 0 0

theorem bootsFrom_keeps (s : State) (regs : SMap Word) (box : List BoxEv) (count code : Nat) : Keeps s (s.bootsFrom regs box count code) := by
  obtain ⟨flash, cores, graphs, tlb, l1, dlc, mem⟩ := lost_keeps s
  exact ⟨flash, cores, graphs, tlb, l1, dlc, mem⟩

theorem coldReset_eq (s : State) : exec .coldReset s = .next ((s.bootsFrom [] [] 0 (Config.resetCode 0)).bootRun false) := rfl

/-- The event that a reset records. -/
theorem bootsFrom_box {s : State} {box : List BoxEv} (h : box.length < 1024) (regs : SMap Word) (count code : Nat) :
    (s.bootsFrom regs box count code).box = box ++ [⟨0, 1, 0xFFFF, code, 0, 0⟩] :=
  congrArg (· ++ _) (if_neg (by simpa using h))

/-- A device that has not tripped, or has cooled, boots anew after a warm reset. -/
theorem warm_cool {s : State} (h : (s.rreg 0 0x2C01).getLsbD 2 = false ∨ (s.rreg 0 0x2C04).toInt < 800) :
    s.warm = (s.bootsFrom [] s.box s.boxCount (Config.resetCode 1)).bootRun false := by
  have cool : (bitOf (s.rregN 0 0x2C01) 2 && decide (800 ≤ s.temp)) = false := by
    rw [State.rregN, bitOf_toNat, Bool.and_eq_false_iff, decide_eq_false_iff_not, not_le]
    exact h
  unfold State.warm
  rw [cool]
  rfl

theorem warm_hot {s : State} (h : (s.rreg 0 0x2C01).getLsbD 2 = true) (h' : 800 ≤ (s.rreg 0 0x2C04).toInt) :
    ∃ regs, s.warm = (s.bootsFrom regs s.box s.boxCount (Config.resetCode 1)).bootRun true
      ∧ ((s.bootsFrom regs s.box s.boxCount (Config.resetCode 1)).rreg 0 0x2C01).getLsbD 2 = true := by
  have hot : (bitOf (s.rregN 0 0x2C01) 2 && decide (800 ≤ s.temp)) = true := by
    rw [State.rregN, bitOf_toNat, h, Bool.true_and, decide_eq_true_eq]
    exact h'
  have set := setBit_getLsbD { s.lost with box := s.box, boxCount := s.boxCount } 0 0x2C01 (b := 2) (by decide) true
  obtain ⟨regs, hset⟩ := setBit_regs { s.lost with box := s.box, boxCount := s.boxCount } 0 0x2C01 2 true
  rw [hset] at set
  refine ⟨regs, ?_, set⟩
  unfold State.warm
  rw [hot]
  simp only [if_true, hset]
  rfl

/-! ## Errors of the management core (R450) -/

theorem recover_keeps (s : State) : s.recover.mem = s.mem ∧ s.recover.regs = s.regs := by
  unfold State.recover State.persist State.postOnce
  split
  · exact ⟨rfl, rfl⟩
  · split <;> exact ⟨rfl, rfl⟩

theorem persist_keeps (s : State) : s.persist.mem = s.mem ∧ s.persist.regs = s.regs ∧ s.persist.box = s.box ∧ s.persist.dlc = s.dlc := by
  unfold State.persist State.postOnce
  split
  · exact ⟨rfl, rfl, rfl, rfl⟩
  · split <;> exact ⟨rfl, rfl, rfl, rfl⟩

theorem boxPut_box {s : State} (h : s.box.length < 1024) (kind source code asid addr : Nat) :
    (s.boxPut kind source code asid addr).box = s.box ++ [⟨s.dlc, kind, source, code, asid, addr⟩] :=
  congrArg (· ++ _) (if_neg (by simpa using h))

theorem uncorrectableError_recovers {s : State} (h : s.boot = .ready) (hlen : s.box.length < 1000) :
    ∃ t, exec .uncorrectableError s = .next t ∧ t.boot = .recovery ∧ t.mem = s.mem ∧ t.regs = s.regs
      ∧ ∃ a b, t.box = s.box ++ [a, b] ∧ a.kind = 8 ∧ b.kind = 2 := by
  obtain ⟨mem, regs, box, -⟩ := persist_keeps (s.boxPut 8 0xFFFF 8 0 0)
  obtain ⟨mem', regs'⟩ := recover_keeps (s.boxPut 8 0xFFFF 8 0 0).persist
  have put := boxPut_box (s := s) (by omega) 8 0xFFFF 8 0 0
  obtain ⟨boot, box', -⟩ := recover_recovers (s.boxPut 8 0xFFFF 8 0 0).persist
  refine ⟨_, congrArg Host.Outcome.next (if_pos h), boot, mem'.trans mem, regs'.trans regs, ⟨s.dlc, 8, 0xFFFF, 8, 0, 0⟩,
    bootFail (s.boxPut 8 0xFFFF 8 0 0).persist, (box' ?_).trans ?_, rfl, rfl⟩
  · rw [box, put, List.length_append, List.length_singleton]
    omega
  · rw [box, put, List.append_assoc]
    rfl

/-! ## Loss of power (R440) -/

/-- Where no request that reaches flash waits, a loss of power loses everything but flash, and the inputs that have arrived. -/
theorem powerLoss_lost {s : State} (h : ∀ p ∈ s.inputs, p.1 ≤ s.stepNo → toFlash p.2 = false) : ∃ t : State, exec .powerLoss s = .next t.lost
    ∧ t.flash = s.flash ∧ t.mem = s.mem ∧ t.inputs = s.inputs.filter fun p => decide (s.stepNo < p.1) := by
  have none : (s.inputs.filter fun p => decide (p.1 ≤ s.stepNo)).find? (fun p => toFlash p.2) = none := by
    refine List.find?_eq_none.mpr fun p hp => ?_
    obtain ⟨hp, hdue⟩ := List.mem_filter.mp hp
    rw [h p hp (of_decide_eq_true hdue)]
    exact Bool.false_ne_true
  refine ⟨{ s with fresh := s.fresh + 1, inputs := s.inputs.filter fun p => decide (s.stepNo < p.1) }, ?_, rfl, rfl, rfl⟩
  refine Eq.trans (b := execPowerLoss s) rfl ?_
  simp only [execPowerLoss, none]

/-! ## The statement -/

/-- Settles O53: a reset is what it leaves followed by boot, and boot by what its parts keep. -/
theorem resets : Obligations.Resets := by
  unfold Obligations.Resets
  intro s
  refine ⟨?cold, fun hcool hlen => ?warm, fun hbit htemp => ?trip, fun hquiet => ?loss, fun h => congrArg Host.Outcome.next (if_neg h), uncorrectableError_recovers⟩
  case cold =>
    have from' := bootsFrom_keeps s [] [] 0 (Config.resetCode 0)
    have boot := bootRun_boots (s.bootsFrom [] [] 0 (Config.resetCode 0)) false
    obtain ⟨flash, cores, graphs, tlb, l1, dlc, mem⟩ := boot.keeps from'
    refine ⟨_, coldReset_eq s, ⟨flash, cores, graphs, tlb, l1, dlc, mem⟩, boot.regs, fun h =>
      (bootRun_runs (s := s.bootsFrom [] [] 0 (Config.resetCode 0)) h).1, fun h => ?_, fun k a b c hk ha hb hc => ?_⟩
    · have recovers := bootRun_recovers (s := s.bootsFrom [] [] 0 (Config.resetCode 0)) h
      exact ⟨recovers.boot, recovers.persists rfl⟩
    · obtain ⟨meas, running⟩ := bootRun_measures (s := s.bootsFrom [] [] 0 (Config.resetCode 0)) hk ha hb hc
      exact ⟨meas, running, fun n hn => bootRun_cores (s := s.bootsFrom [] [] 0 (Config.resetCode 0)) hk ha hb hc hn⟩
  case warm =>
    have from' := bootsFrom_keeps s [] s.box s.boxCount (Config.resetCode 1)
    have boot := bootRun_boots (s.bootsFrom [] s.box s.boxCount (Config.resetCode 1)) false
    have box := bootsFrom_box (s := s) (box := s.box) (by omega) [] s.boxCount (Config.resetCode 1)
    obtain ⟨flash, cores, graphs, tlb, l1, dlc, mem⟩ := boot.keeps from'
    have event : ∃ ev, (s.warm).box = s.box ++ ev ∧ ∃ e es, ev = e :: es ∧ e.kind = 1 := by
      rw [warm_cool hcool]
      by_cases h : s.flash.boots
      · exact ⟨_, ((bootRun_runs (s := s.bootsFrom [] s.box s.boxCount (Config.resetCode 1)) h).2.trans box), _, [], rfl, rfl⟩
      · have recovers := bootRun_recovers (s := s.bootsFrom [] s.box s.boxCount (Config.resetCode 1)) h
        refine ⟨_, (recovers.box ?_).trans ((congrArg (· ++ _) box).trans (List.append_assoc ..)), _, _, rfl, rfl⟩
        rw [box, List.length_append, List.length_singleton]
        omega
    obtain ⟨ev, hev⟩ := event
    refine ⟨s.warm, ev, rfl, ?_, ?_, fun h => ?_, fun h => ?_, hev⟩ <;> rw [warm_cool hcool]
    · exact ⟨flash, cores, graphs, tlb, l1, dlc, mem⟩
    · exact boot.regs
    · exact (bootRun_runs (s := s.bootsFrom [] s.box s.boxCount (Config.resetCode 1)) h).1
    · exact (bootRun_recovers (s := s.bootsFrom [] s.box s.boxCount (Config.resetCode 1)) h).boot
  case trip =>
    obtain ⟨regs, hwarm, hset⟩ := warm_hot hbit htemp
    have boot := bootRun_boots (s.bootsFrom regs s.box s.boxCount (Config.resetCode 1)) true
    obtain ⟨flash, cores, graphs, tlb, l1, dlc, mem⟩ := boot.keeps (bootsFrom_keeps s regs s.box s.boxCount (Config.resetCode 1))
    refine ⟨_, congrArg Host.Outcome.next hwarm, ⟨flash, cores, graphs, tlb, l1, dlc, mem⟩, ?_, bootRun_trip _⟩
    rw [State.rreg, boot.regs]
    exact hset
  case loss =>
    obtain ⟨t, ht, flash, mem, rest⟩ := powerLoss_lost hquiet
    obtain ⟨flash', cores, graphs, tlb, l1, dlc, mem'⟩ := lost_keeps t
    refine ⟨t.lost, ht, ⟨flash'.trans flash, cores, graphs, tlb, l1, dlc, fun a ha => ?_⟩, rfl, rfl, rfl, rfl, rfl, rest⟩
    rw [mem' a ha, mem]

end Sys2Proof.Machine
end

section
/-! O54, Mailbox: a data object as the message that its TYPE names, each request and its answers, and the statement. -/

namespace Sys2Proof.Machine

/-! ## Requests (R431, R436, R437) -/

section
variable {s : State} {ty : Nat} {inRecovery : Bool} {f : State → State}

theorem request_ready (h : s.boot = .ready) : s.request ty inRecovery f = .next (f s) := by rw [State.request, h]

theorem request_recovery (h : s.boot = .recovery) : s.request ty true f = .next (f s) := by
  rw [State.request, h]
  rfl

theorem request_busy (h : s.boot = .recovery) : s.request ty false f = .next (s.mail ty .busy []) := by
  rw [State.request, h]
  rfl

theorem request_unanswered (h : s.boot = .held ∨ s.boot = .tripped) : s.request ty inRecovery f = .next s := by
  rcases h with h | h <;> rw [State.request, h]

theorem request_served (h : s.boot = .ready ∨ s.boot = .recovery) : s.request ty true f = .next (f s) :=
  h.elim request_ready request_recovery

/-- A request always comes to an end. -/
theorem landed_request (s : State) (ty : Nat) (inRecovery : Bool) (f : State → State) : .next (landed s (s.request ty inRecovery f)) = s.request ty inRecovery f :=
  rfl

theorem onFlash_writes (h : s.flashBad = false) : s.onFlash ty f = f s := by
  rw [State.onFlash, h]
  rfl

theorem onFlash_fails (h : s.flashBad = true) : s.onFlash ty f = ({ s with flashBad := false } : State).mail ty .flashError [] := by
  rw [State.onFlash, h]
  rfl

end

/-- The message of a TYPE. -/
def State.serve (s : State) (ty : Nat) (body : List Byte) : Host.Outcome State Fault Refusal :=
  match ty with
  | 1 => execAttest body s
  | 2 => execGetMeas body s
  | 3 => execUpdate body s
  | 4 => execCommitSvn body s
  | 5 => execXferOwner body s
  | 6 => execSetConfig body s
  | 7 => execBbxRead body s
  | 8 => execBbxSave body s
  | 9 => execFabric body s
  | _ => s.request ty false fun s => s.mail ty .badRequest []

theorem serve_unknown (s : State) {ty : Nat} (h : ty = 0 ∨ 9 < ty) (body : List Byte) :
    s.serve ty body = s.request ty false fun s => s.mail ty .badRequest [] := by
  rcases h with rfl | h
  · rfl
  · obtain ⟨k, rfl⟩ : ∃ k, ty = k + 10 := ⟨ty - 10, by omega⟩
    rfl

/-- A data object of this mailbox whose header has TYPE alone is served as the message of that TYPE. -/
theorem doe_serves {s : State} {ty : Nat} (hty : ty < 256) (body : List Byte) :
    s.doe Config.vendorId 0x51 (bytesOf 4 ty ++ body) = landed s (s.serve ty body) := by
  have high : ty / 256 = 0 := by omega
  have header : bytesOf 4 ty = [BitVec.ofNat 8 ty, 0#8, 0#8, 0#8] := by simp [bytesOf, high]
  have hat : leAt (bytesOf 4 ty ++ body) 0 1 = ty := by
    rw [header]
    simp [leAt, leNat, Nat.mod_eq_of_lt hty]
  have clean : (decide ((bytesOf 4 ty ++ body).length < 4) || !byteZero (bytesOf 4 ty ++ body) 1 3) = false := by
    rw [header]
    simp [byteZero, leAt, leNat]
  have rest : (bytesOf 4 ty ++ body).drop 4 = body := by
    rw [header]
    rfl
  simp only [State.doe, hat, rest, doeType, clean, ne_eq, not_true_eq_false, decide_false, Bool.or_self, Bool.false_eq_true, if_false]
  rfl

theorem doe_other {s : State} {ven obj : Nat} (h : ven ≠ Config.vendorId ∨ obj ≠ 0x51) (bs : List Byte) : s.doe ven obj bs = s :=
  if_pos (by rwa [Bool.or_eq_true, decide_eq_true_eq, decide_eq_true_eq])

/-! ## Chunks (R438) -/

/-- A chunk within its limits that begins an image or a record. -/
structure FirstChunk (body : List Byte) (lo hi : Nat) : Prop where
  head : 12 ≤ body.length
  kind : lo ≤ leAt body 0 1 ∧ leAt body 0 1 ≤ hi
  flags : leAt body 1 1 ≤ 1
  reserved : leAt body 2 2 = 0
  size : 4 ≤ leAt body 8 4 ∧ leAt body 8 4 ≤ 65536 ∧ leAt body 8 4 % 4 = 0
  length : body.length = 12 + leAt body 8 4
  offset : leAt body 4 4 = 0

section
variable {s : State} {ty lo hi : Nat} {body : List Byte} {last : State → Nat → List Byte → State} (h : FirstChunk body lo hi)
include h

theorem FirstChunk.form : chunkForm body lo hi = true := by
  obtain ⟨head, ⟨hlo, hhi⟩, flags, reserved, ⟨h4, hmax, hmod⟩, length, -⟩ := h
  simp [chunkForm, byteZero, head, hlo, hhi, flags, reserved, h4, hmax, hmod, ← length]

theorem mailChunk_more (hmore : leAt body 1 1 = 0) : s.mailChunk ty lo hi body last =
    ({ s with upload := some (leAt body 0 1, body.drop 12) } : State).mail ty .ok [] := by
  simp [State.mailChunk, h.form, h.offset, hmore, bitOf]

theorem mailChunk_last (hlast : leAt body 1 1 = 1) : s.mailChunk ty lo hi body last =
    last { s with upload := none } (leAt body 0 1) (body.drop 12) := by
  simp [State.mailChunk, h.form, h.offset, hlast, bitOf]

end

/-! ## Attestation (R435) -/

theorem pub_eq (o : Owner) : o.pub = if o.key = [] then Config.defaultOwner else o.key := by
  simp [Owner.pub]

section
variable {s : State} {body : List Byte}

theorem attest_form (h : body.length ≠ 32) : s.attest body = s.mail 1 .badRequest [] := if_pos h

theorem attest_exhausted (h : body.length = 32) (hleaf : 2 ^ 20 ≤ s.flash.leaf) : s.attest body = s.mail 1 .keyExhausted [] :=
  (if_neg (not_not.mpr h)).trans (if_pos hleaf)

/-- The report of an attestation. -/
def State.attestReport (s : State) (body : List Byte) : List Byte :=
  body ++ s.meas ++ s.digests4 ++ bytesOf 4 (Config.cfgVersion s.cfg) ++ digest s.flash.own.pub ++ bytesOf 4 s.flash.leaf

theorem attest_served (h : body.length = 32) (hleaf : s.flash.leaf < 2 ^ 20) : s.attest body = s.onFlash 1 fun s' =>
    ({ s' with flash := { s'.flash with leaf := s.flash.leaf + 1 } } : State).mail 1 .ok
      (body ++ s'.meas ++ s'.digests4 ++ bytesOf 4 (Config.cfgVersion s'.cfg) ++ digest s'.flash.own.pub ++ bytesOf 4 s.flash.leaf
        ++ (Config.xmssSign s.flash.leaf (body ++ s'.meas ++ s'.digests4 ++ bytesOf 4 (Config.cfgVersion s'.cfg) ++ digest s'.flash.own.pub
          ++ bytesOf 4 s.flash.leaf)).toList) :=
  (if_neg (not_not.mpr h)).trans (if_neg (Nat.not_le.mpr hleaf))

end

/-! ## Images, records and owners (R433, R439 to R441) -/

section
variable {s : State} {kind : Nat} {im : List Byte}

theorem installImage_unsigned (h : s.flash.signed s.cfg im kind = false) : s.installImage kind im = s.mail 3 .badSignature [] :=
  if_pos (by rw [h]; rfl)

theorem installImage_stale (h : s.flash.signed s.cfg im kind = true) (hstale : s.flash.fresh s.cfg im kind = false) :
    s.installImage kind im = s.mail 3 .stale [] :=
  (if_neg (by rw [h]; exact Bool.false_ne_true)).trans (if_pos (by rw [hstale]; rfl))

theorem installImage_writes (h : s.flash.signed s.cfg im kind = true) (hfresh : s.flash.fresh s.cfg im kind = true) (hready : s.boot = .ready)
    (hbad : s.flashBad = false) : s.installImage kind im =
      ({ s with flash := { s.flash with images := s.flash.images.set ((s.flash.slots kind).getLastD 0) im } } : State).mail 3 .ok [] := by
  refine (if_neg (by rw [h]; exact Bool.false_ne_true)).trans ((if_neg (by rw [hfresh]; exact Bool.false_ne_true)).trans ?_)
  rw [onFlash_writes hbad]
  exact if_neg (by rw [hready]; exact nofun)

theorem installCfg_writes (h : cfgOk im = true) (hnew : Config.cfgVersion s.cfg < Config.cfgVersion im) (hbad : s.flashBad = false) :
    s.installCfg kind im = ({ s with flash := { s.flash with configs := s.flash.configs.set (1 - (s.running.head?).getD 0) im } } : State).mail 6 .ok [] := by
  refine (if_neg (by rw [h]; exact Bool.false_ne_true)).trans ((if_neg (Nat.not_le.mpr hnew)).trans ?_)
  rw [onFlash_writes hbad]

end

/-- A warm reset keeps flash and the inputs, and no graph. -/
theorem warm_keeps (s : State) : s.warm.flash = s.flash ∧ s.warm.inputs = s.inputs ∧ s.warm.graphs = [] := by
  have boots : ∃ u trip, s.warm = State.bootRun u trip ∧ u.flash = s.flash ∧ u.inputs = s.inputs ∧ u.graphs = [] := by
    unfold State.warm
    dsimp only
    split
    · exact ⟨_, _, rfl, rfl, rfl, rfl⟩
    · exact ⟨_, _, rfl, rfl, rfl, rfl⟩
  obtain ⟨u, trip, hwarm, flash, inputs, graphs⟩ := boots
  have kept := bootRun_boots u trip
  rw [hwarm]
  exact ⟨kept.flash.trans flash, kept.inputs.trans inputs, kept.graphs.trans graphs⟩

/-- The answers to the transfers that wait leave all but the inputs and what has left the device. -/
theorem xferBusy_keeps (s : State) : s.xferBusy.flash = s.flash ∧ s.xferBusy.flashBad = s.flashBad
    ∧ s.xferBusy.inputs = s.inputs.filter fun p => !(decide (p.1 ≤ s.stepNo) && isXfer p.2) :=
  ⟨over_field (g := State.flash) (f := fun s _ => s.mail 5 .busy []) (fun _ _ => rfl) _ _,
    over_field (g := State.flashBad) (f := fun s _ => s.mail 5 .busy []) (fun _ _ => rfl) _ _,
    over_field (g := State.inputs) (f := fun s _ => s.mail 5 .busy []) (fun _ _ => rfl) _ _⟩

/-- A transfer of ownership that is in order (R439, R440). -/
theorem xfer_served {s : State} {body : List Byte} (hlen : body.length = 5520) (hfields : s.xferFields body = true)
    (hmaker : Config.xmssVerify (Config.cfgMaker s.cfg) (body.take 200) ((body.drop 200).take 2820) = true)
    (howner : Config.xmssVerify s.flash.own.pub (body.take 200) (body.drop 3020) = true) (hbad : s.flashBad = false) :
    (s.xfer body).flash = { s.flash with
        owner := 1 - s.flash.owner
        owners := (s.flash.owners.map fun _ => (⟨[], 0, [], []⟩ : Owner)).set (1 - s.flash.owner) ⟨(body.drop 128).take 68, s.flash.own.count + 1, [], []⟩ }
      ∧ (s.xfer body).graphs = [] ∧ (s.xfer body).inputs = s.inputs.filter fun p => !(decide (p.1 ≤ s.stepNo) && isXfer p.2) := by
  obtain ⟨flash, bad, inputs⟩ := xferBusy_keeps s
  have verified : (!(Config.xmssVerify (Config.cfgMaker s.cfg) (body.take 200) ((body.drop 200).take msigLen)
      && Config.xmssVerify s.flash.own.pub (body.take 200) (body.drop 3020))) = false := by
    rw [msigLen, hmaker, howner]
    rfl
  have served : s.xfer body = _ := (if_neg (not_not.mpr hlen)).trans ((if_neg (by rw [hfields]; exact Bool.false_ne_true)).trans
    ((if_neg (by rw [verified]; exact Bool.false_ne_true)).trans (onFlash_writes (bad.trans hbad))))
  obtain ⟨flash', inputs', graphs'⟩ := warm_keeps ((({ s.xferBusy with flash := { s.xferBusy.flash with
    owner := 1 - s.xferBusy.flash.owner
    owners := (s.xferBusy.flash.owners.map fun _ => (⟨[], 0, [], []⟩ : Owner)).set (1 - s.xferBusy.flash.owner)
      ⟨(body.drop 128).take 68, s.xferBusy.flash.own.count + 1, [], []⟩ } } : State).boxPut 9 0xFFFF 0 0 0).mail 5 .ok [])
  rw [served]
  refine ⟨flash'.trans ?_, graphs', inputs'.trans inputs⟩
  change ({ s.xferBusy.flash with owner := _, owners := _ } : Flash) = _
  rw [flash]

/-! ## Answers and requests -/

/-- An answer as it leaves the device (R437). -/
theorem mail_ok (s : State) (ty : Nat) (bs : List Byte) : s.mail ty .ok bs =
    { s with out := s.out ++ [.mailbox Config.vendorId 0x51 (bytesOf 4 (ty + 256 * 0) ++ bs)] } := rfl

theorem mail_refused (s : State) (ty : Nat) {st : MailStatus} (h : st ≠ .ok) : s.mail ty st [] =
    { s with out := s.out ++ [.mailbox Config.vendorId 0x51 (bytesOf 4 (ty + 256 * st.code) ++ [])] } := by
  rw [State.mail, if_neg h]
  rfl

section
variable (s : State) (body : List Byte)

theorem exec_attest : exec (.attest body) s = s.request 1 false fun s => s.attest body := rfl
theorem exec_getMeas : exec (.getMeas body) s =
    s.request 2 true fun s => if body.isEmpty then s.mail 2 .ok (s.meas ++ s.digests4) else s.mail 2 .badRequest [] := rfl
theorem exec_update : exec (.update body) s = s.request 3 true fun s => s.mailChunk 3 1 3 body State.installImage := rfl
theorem exec_commitSvn : exec (.commitSvn body) s = s.request 4 false fun s =>
    if body.length ≠ 4 || leAt body 0 1 < 1 || leAt body 0 1 > 3 || !byteZero body 1 3 then s.mail 4 .badRequest []
    else s.onFlash 4 fun s =>
      let v := max (s.flash.live.getD (leAt body 0 1 - 1) 0) (s.running.getD (leAt body 0 1) 0)
      ({ s with flash := { s.flash with live := s.flash.live.set (leAt body 0 1 - 1) v } } : State).mail 4 .ok (bytesOf 4 v) := rfl
theorem exec_xferOwner : exec (.xferOwner body) s = s.request 5 false fun s => s.xfer body := rfl
theorem exec_setConfig : exec (.setConfig body) s = s.request 6 false fun s => s.mailChunk 6 0 0 body State.installCfg := rfl
theorem exec_bbxRead : exec (.bbxRead body) s = s.request 7 true fun s =>
    if body.length ≠ 4 || leAt body 0 2 > 1023 || !byteZero body 2 2 then s.mail 7 .badRequest []
    else s.mail 7 .ok (bytesOf 4 s.bbxStat.toNat ++ (upFrom (leAt body 0 2) 64).flatMap fun k => s.boxAt (k % 1024)) := rfl
theorem exec_bbxSave : exec (.bbxSave body) s = s.request 8 true fun s =>
    if !body.isEmpty then s.mail 8 .badRequest [] else if s.boxSnap.isSome then s.mail 8 .busy [] else s.persist.mail 8 .ok [] := rfl
theorem exec_fabric : exec (.fabric body) s = s.request 9 false fun s => if body.isEmpty then s.mail 9 .badRequest []
    else if leAt body 0 1 = 0 then (match fabWin body with
      | none => s.mail 9 .badRequest []
      | some (w, x) => ({ s with windows := mput .none s.windows w x, tlb := s.tlb.filter fun e => homeOf e.pa != .peer && homeOf e.pa != .reduce } : State).mail 9 .ok [])
    else if leAt body 0 1 = 1 then (match fabGroup body with
      | none => s.mail 9 .badRequest []
      | some g => ({ s with cgroups := (s.cgroups.filter fun x => !(x.fe == g.fe && x.ctx == g.ctx && x.group == g.group)) ++ [g] } : State).mail 9 .ok [])
    else s.mail 9 .badRequest [] := rfl

end

/-- Settles O54. -/
theorem mailbox : Obligations.Mailbox := by
  unfold Obligations.Mailbox
  intro s body
  have message : ∀ {ty : Nat} {f : State → State} {r : Bool}, ty < 256 → s.serve ty body = s.request ty r f →
      s.request ty r f = .next (s.doe Config.vendorId 0x51 (bytesOf 4 ty ++ body)) := fun hty h => by
    rw [doe_serves hty, h, landed_request]
  have busy : ∀ {ty : Nat} {f : State → State}, s.boot = .recovery → s.request ty false f = .next (
      { s with out := s.out ++ [.mailbox Config.vendorId 0x51 (bytesOf 4 (ty + 256 * 4) ++ [])] }) := fun h =>
    (request_busy h).trans (congrArg _ (mail_refused s _ (by decide)))
  refine ⟨⟨(exec_attest ..).trans (message (by decide) rfl), (exec_getMeas ..).trans (message (by decide) rfl),
      (exec_update ..).trans (message (by decide) rfl), (exec_commitSvn ..).trans (message (by decide) rfl),
      (exec_xferOwner ..).trans (message (by decide) rfl), (exec_setConfig ..).trans (message (by decide) rfl),
      (exec_bbxRead ..).trans (message (by decide) rfl), (exec_bbxSave ..).trans (message (by decide) rfl),
      (exec_fabric ..).trans (message (by decide) rfl)⟩, fun ty hty hun => ⟨fun h => ?unknown, fun h => ?unknownBusy⟩, fun ven obj h => doe_other h body,
    fun h => ⟨(exec_attest ..).trans (request_unanswered h), (exec_getMeas ..).trans (request_unanswered h),
      (exec_bbxRead ..).trans (request_unanswered h)⟩,
    fun h => ⟨(exec_attest ..).trans (busy h), (exec_commitSvn ..).trans (busy h), (exec_xferOwner ..).trans (busy h),
      (exec_setConfig ..).trans (busy h), (exec_fabric ..).trans (busy h)⟩,
    fun h hlen => ?form, fun h hlen => ⟨fun hleaf => ?exhausted, fun hleaf hbad => ?flashError, fun hleaf hbad => ?report⟩,
    fun h => ⟨?measurements, fun hne => ⟨?measForm, ?saveForm⟩, fun hlen hi hz => ?boxRead, fun hsnap hnew => ?boxSave, fun hsnap => ?boxBusy,
      fun h1 h2 h3 h4 h5 h6 h7 h8 h9 h10 => ⟨fun hmore => ?more, fun hlast hsig => ?signature, fun hlast hsig hfresh => ?stale,
        fun hlast hsig hfresh hready hbad => ?image⟩⟩,
    fun h => ⟨fun hlen h1 h2 hz hbad => ?svn, fun hlen => ?xferForm, fun hlen hfields => ?xferStale, fun hlen hfields hmaker howner hbad => ?xfer,
      fun h1 h2 h3 h4 h5 h6 h7 h8 h9 hcfg hver hbad => ?config, fun n x hk hwin hne => ?window, fun g hk hgrp => ?group⟩⟩
  case unknown =>
    rw [doe_serves hty, serve_unknown s hun, request_ready h]
    exact mail_refused s ty (by decide)
  case unknownBusy =>
    rw [doe_serves hty, serve_unknown s hun, request_busy h]
    exact mail_refused s ty (by decide)
  case form =>
    rw [exec_attest, request_ready h, attest_form hlen]
    exact congrArg _ (mail_refused s 1 (by decide))
  case exhausted =>
    rw [exec_attest, request_ready h, attest_exhausted hlen hleaf]
    exact congrArg _ (mail_refused s 1 (by decide))
  case flashError =>
    rw [exec_attest, request_ready h, attest_served hlen hleaf, onFlash_fails hbad]
    exact congrArg _ (mail_refused _ 1 (by decide))
  case report =>
    rw [exec_attest, request_ready h, attest_served hlen hleaf, onFlash_writes hbad, mail_ok]
    simp only [pub_eq]
    rfl
  case measurements =>
    rw [exec_getMeas, request_served h]
    rfl
  case measForm =>
    rw [exec_getMeas, request_served h, if_neg (by simpa using hne)]
    exact congrArg _ (mail_refused s 2 (by decide))
  case saveForm =>
    rw [exec_bbxSave, request_served h, if_pos (by simpa using hne)]
    exact congrArg _ (mail_refused s 8 (by decide))
  case boxRead =>
    have index : leAt body 0 2 ≤ 1023 := hi
    have high : leAt body 2 2 = 0 := hz
    rw [exec_bbxRead, request_served h, if_neg (by simp [hlen, index, byteZero, high]), mail_ok, upFrom_eq_map, List.flatMap_map]
    rfl
  case boxSave => 
    rw [exec_bbxSave, request_served h, if_neg (by simp), if_neg (by simp [hsnap]), persist_idle hsnap hnew]
    rfl
  case boxBusy => 
    rw [exec_bbxSave, request_served h, if_neg (by simp), if_pos (by simpa [Option.isSome_iff_ne_none] using hsnap)]
    exact congrArg _ (mail_refused s 8 (by decide))
  case more => 
    rw [exec_update, request_served h, mailChunk_more ⟨h1, ⟨h2, h3⟩, h4, h5, ⟨h6, h7, h8⟩, h9, h10⟩ hmore]
    rfl
  case signature =>
    have first : FirstChunk body 1 3 := ⟨h1, ⟨h2, h3⟩, h4, h5, ⟨h6, h7, h8⟩, h9, h10⟩
    rw [exec_update, request_served h, mailChunk_last first hlast]
    exact congrArg _ ((installImage_unsigned (s := { s with upload := none }) hsig).trans (mail_refused _ 3 (by decide)))
  case stale =>
    have first : FirstChunk body 1 3 := ⟨h1, ⟨h2, h3⟩, h4, h5, ⟨h6, h7, h8⟩, h9, h10⟩
    rw [exec_update, request_served h, mailChunk_last first hlast]
    exact congrArg _ ((installImage_stale (s := { s with upload := none }) hsig hfresh).trans (mail_refused _ 3 (by decide)))
  case image =>
    have first : FirstChunk body 1 3 := ⟨h1, ⟨h2, h3⟩, h4, h5, ⟨h6, h7, h8⟩, h9, h10⟩
    rw [exec_update, request_served h, mailChunk_last first hlast]
    exact congrArg _ (installImage_writes (s := { s with upload := none }) hsig hfresh hready hbad)
  case svn =>
    have form : (decide (body.length ≠ 4) || decide (leAt body 0 1 < 1) || decide (leAt body 0 1 > 3) || !byteZero body 1 3) = false := by
      have lo : 1 ≤ leAt body 0 1 := h1
      have hi : leAt body 0 1 ≤ 3 := h2
      have zero : leAt body 1 3 = 0 := hz
      have some : leAt body 0 1 ≠ 0 := by omega
      simp [hlen, some, hi, byteZero, zero]
    rw [exec_commitSvn, request_ready h, form, if_neg Bool.false_ne_true, onFlash_writes hbad]
    rfl
  case xferForm =>
    rw [exec_xferOwner, request_ready h]
    exact congrArg _ ((if_pos hlen).trans (mail_refused _ 5 (by decide)))
  case xferStale =>
    rw [exec_xferOwner, request_ready h]
    exact congrArg _ ((if_neg (not_not.mpr hlen)).trans ((if_pos (by rw [hfields]; rfl)).trans (mail_refused _ 5 (by decide))))
  case xfer =>
    have ownKey : Config.xmssVerify s.flash.own.pub (body.take 200) (body.drop 3020) = true := by
      rw [pub_eq]
      exact howner
    obtain ⟨flash, graphs, inputs⟩ := xfer_served hlen hfields hmaker ownKey hbad
    refine ⟨s.xfer body, (exec_xferOwner s body).trans (request_ready h), congrArg Flash.owner flash, graphs, fun p hp hdue => ?_, fun hle htwo => ?_⟩
    · rw [inputs] at hp
      simpa [hdue] using (List.mem_filter.mp hp).2
    · rw [flash]
      exact List.getElem?_set_self (by rw [List.length_map, htwo]; omega)
  case config =>
    have first : FirstChunk body 0 0 := ⟨h1, ⟨Nat.zero_le _, Nat.le_of_eq h2⟩, Nat.le_of_eq h3, h4, ⟨h5, h6, h7⟩, h8, h9⟩
    rw [exec_setConfig, request_ready h, mailChunk_last first h3]
    exact congrArg _ (installCfg_writes (s := { s with upload := none }) hcfg hver hbad)
  case window =>
    have kind : leAt body 0 1 = 0 := hk
    rw [exec_fabric, request_ready h, if_neg (by simpa using hne), if_pos kind, hwin]
    rfl
  case group =>
    have kind : leAt body 0 1 = 1 := hk
    have some : body ≠ [] := by
      rintro rfl
      exact absurd kind (by decide)
    rw [exec_fabric, request_ready h, if_neg (by simpa using some), if_neg (by omega), if_pos kind, hgrp]
    rfl

end Sys2Proof.Machine
end

section
/-! O52, Checkpoints: checkpoints and rollbacks of a context none of whose workgroups stands in the device, and the statement. -/

namespace Sys2Proof.Machine

/-! ## Halting and resuming nothing -/

section
variable {s : State}

theorem replayable_nil (s : State) : s.replayable [] [] = s := by
  unfold State.replayable
  extract_lets dropped
  have hops : (s.ops.map fun o => if ([] : List Nat).contains o.wg then { o with lanes := o.lanes.map fun l => { l with held := false, fault := none } } else o) =
      s.ops := by simp
  have hfaults : (s.faults.filter fun r => !dropped r) = s.faults := List.filter_eq_self.mpr fun r _ => by cases h : r.src <;> simp [dropped, h]
  rw [hops, hfaults]

theorem standWgs_nil (s : State) : s.standWgs [] = s := by
  simp only [State.standWgs, List.filter_nil, List.contains_nil, Bool.false_eq_true, if_false, List.map_id']

theorem forceStores_nil (s : State) : s.forceStores [] = s := by simp [State.forceStores, State.over]

theorem haltWgs_nil (s : State) : s.haltWgs [] = s := by
  unfold State.haltWgs
  extract_lets uids ops s1 s2
  have hs1 : s1 = s := by cases h : s.second <;> simp [s1, h] <;> rw [← h]
  have huids : uids = [] := by simp [uids]
  have hops : ops = [] := by simp [ops]
  have hs2 : s2 = s := by
    clear_value uids ops s1
    simp only [s2, hs1, huids, hops, State.over, List.foldl_nil, forceStores_nil, replayable_nil]
  clear_value s2
  simp only [hs2, State.over, List.foldl_nil, standWgs_nil]

theorem goOn_nil (s : State) : s.goOn [] = s := by
  unfold State.goOn
  extract_lets now
  have hnow : now = [] := by simp [now]
  rw [hnow]
  simp only [State.over, List.foldl_nil, List.contains_nil, Bool.false_eq_true, if_false, List.map_id']

theorem moveStrays_none (h : s.wgs = []) (f : Nat) : s.moveStrays f = s := if_pos (by simp [h])

theorem ckpResume_none (h : s.wgs = []) (asid : Nat) : s.ckpResume asid [] = s := by
  have hhalts : (s.halts.filter fun p => !(([] : List Nat).contains p.1 && p.2 == .checkpoint)) = s.halts := by simp
  unfold State.ckpResume
  rw [hhalts, goOn_nil]
  exact moveStrays_none h _

theorem ckpWgs_none (h : s.wgs = []) (asid : Nat) : s.ckpWgs asid = [] := by simp [State.ckpWgs, h]

theorem capture_none (h : s.wgs = []) (asid slot : Nat) : (s.capture asid slot).wgs = [] ∧ (s.capture asid slot).threads = [] := by
  simp [State.capture, ckpWgs_none h, h]

/-! ## Checkpoints (R375) -/

variable {asid : Nat}

theorem checkpoint_waits (ht : s.takesCkp asid = true) (hc : s.collRuns asid = false)
    (h : (s.ckps.any fun c => c.asid == asid && !c.complete) = true ∨ (s.threads.any fun t => t.st.irrev && s.asidOf t.wg == asid) = true) :
    exec (.checkpoint asid) s = .next { s with agenda := s.agenda ++ [.checkpoint asid] } := by
  refine congrArg Host.Outcome.next ((if_neg (by simp [ht])).trans ((if_neg (by simp [hc])).trans ((if_pos ?_).trans rfl)))
  rwa [Bool.or_eq_true]

/-- The state in which a checkpoint of a context that stands nowhere is captured. -/
def State.atCkp (s : State) (asid slot : Nat) : State :=
  { s with clocks := mput 0 s.clocks (4 * asid) (s.dlc + 1), saves := s.saves.filter fun i => !(i.asid == asid && i.slot == slot) }

/-- The slot that no checkpoint of the context uses, the first if none does. -/
def State.ckpSlot (s : State) (asid : Nat) : Nat := if s.ckps.any fun c => c.asid == asid && c.slot == 1 then 2 else 1

/-- The context goes on, its checkpoint captured. -/
def State.captured (s : State) (asid : Nat) : State :=
  ({ s.atCkp asid (s.ckpSlot asid) with ckps := s.ckps ++ [(s.atCkp asid (s.ckpSlot asid)).capture asid (s.ckpSlot asid)] } : State).unstall asid

theorem checkpoint_captures (ht : s.takesCkp asid = true) (hc : s.collRuns asid = false)
    (h : ((s.ckps.any fun c => c.asid == asid && !c.complete) || s.threads.any fun t => t.st.irrev && s.asidOf t.wg == asid) = false) (hwgs : s.wgs = []) :
    exec (.checkpoint asid) s = .next (((s.captured asid).setBit (feOf asid) (ctxst asid) 1 true).post (.checkpointComplete asid)) := by
  refine congrArg Host.Outcome.next ((if_neg (by simp [ht])).trans ((if_neg (by simp [hc])).trans ((if_neg (by simp [h])).trans ?_)))
  extract_lets paused run s0 s1 slot s2 held
  have hrun : run = [] := by simp [run, hwgs]
  have hs1 : s1 = s0 := by simp only [s1, hrun, haltWgs_nil]
  have hs2 : s2 = s.atCkp asid (s.ckpSlot asid) := by simp only [s2, hs1]; rfl
  have hheld : held = [] := by simp only [held, hs2, State.atCkp, hwgs, List.filter_nil, List.map_nil]
  clear_value s1 s2 held run
  subst hs1 hs2 hheld hrun
  refine congrArg (fun t : State => ((t.unstall asid).setBit (feOf asid) (ctxst asid) 1 true).post (.checkpointComplete asid)) (ckpResume_none ?_ asid)
  exact hwgs

theorem protectEnds_free (h : s.protect = []) : s.protectEnds asid = s := if_neg (by simp [h, mget])

theorem ctxst_eq (asid : Nat) : ctxst asid = 0x0A06 + 8 * (asid % 64) := by
  unfold ctxst
  omega

theorem setUndo_eq (s : State) (asid n : Nat) :
    s.setUndo asid n = s.wreg (feOf asid) (0x0A04 + 8 * (asid % 64)) (BitVec.ofNat 32 (144 * n)) := by
  rw [State.setUndo, show 0x0A00 + 8 * (asid % 64) + 4 = 0x0A04 + 8 * (asid % 64) by omega]

theorem checkpointComplete_moves {c : Ckp} {r : State} (hc : (s.ckps.find? fun c => c.asid == asid && !c.complete) = some c)
    (hr : if s.rregN (feOf asid) (0x0A03 + 8 * (asid % 64)) = 0 then r = s
      else s.undoMove asid 0 ((s.undo.filter fun u => u.1 == asid).drop c.pos) = .ok r) (hp : r.protect = []) :
    exec (.checkpointComplete asid) s = .next { (r.wreg (feOf asid) (ctxst asid) (r.rreg (feOf asid) (ctxst asid) &&& 0xC#32)).wreg (feOf asid)
        (0x0A04 + 8 * (asid % 64)) (BitVec.ofNat 32 (144 * ((s.undo.filter fun u => u.1 == asid).drop c.pos).length)) with
      undo := (r.undo.filter fun u => u.1 != asid) ++ (s.undo.filter fun u => u.1 == asid).drop c.pos
      ckps := (r.ckps.filter fun x => x.asid != asid) ++ [{ c with complete := true, pos := 0 }] } := by
  have hidx : 0x0A00 + 8 * (asid % 64) + 3 = 0x0A03 + 8 * (asid % 64) := by omega
  have hmoved : (if s.rregN (feOf asid) (0x0A00 + 8 * (asid % 64) + 3) = 0 then .ok s
      else s.undoMove asid 0 ((s.undo.filter fun u => u.1 == asid).drop c.pos)) = Except.ok r := by
    rw [hidx]
    split at hr
    next h => rw [if_pos h, hr]
    next h => rw [if_neg h, hr]
  refine congrArg Host.Outcome.next ?_
  rw [hc]
  simp only [hmoved]
  have hprotect : mput 0 r.protect asid (if mget 0 r.protect asid % 2 = 1 then mget 0 r.protect asid + 1 else mget 0 r.protect asid) = r.protect := by
    simp [hp, mget, mput]
  rw [hprotect, setUndo_eq]
  exact protectEnds_free hp

/-! ## Rollback (R378) -/

/-- What memory, the undo log, the L1s and the registers hold. -/
def State.store (s : State) : Mem × List (Nat × Nat × List Byte) × List L1Line × SMap Word × List Nat := (s.mem, s.undo, s.l1, s.regs, s.fatals)

theorem store_postOnce (s : State) (i : Instr) : (s.postOnce i).store = s.store := by
  unfold State.postOnce
  split <;> rfl

theorem store_coreFreed (s : State) (core : Nat) : (s.coreFreed core).store = s.store := by
  unfold State.coreFreed
  refine (over_field (fun s w => store_postOnce s _) _ _).trans ?_
  split
  · exact store_postOnce s _
  · rfl

theorem store_dropWgs (s : State) (ids : List Nat) : (s.dropWgs ids).store = s.store := over_field store_coreFreed _ _

theorem store_dropContext (s : State) (asid : Nat) (ids : List Nat) : (s.dropContext asid ids).store = s.store := store_dropWgs s ids

/-- What stays of a rollback of a context that stands nowhere and has neither graphs nor checkpoints. -/
def State.rolledBack (r : State) (asid : Nat) : State :=
  let s4 := (((r.dropContext asid []).putBack asid none []).unstall asid).fatalDone asid
  let s5 : State := { s4 with
    l1 := s4.l1.filter fun l => l.asid != asid
    undo := s4.undo.filter fun u => u.1 != asid
    ckps := s4.ckps.filter fun c => c.asid != asid || c.complete }
  let rolls := min 15 (fld (s5.rregN (feOf asid) (ctxst asid)) 4 4 + 1)
  (s5.wreg (feOf asid) (ctxst asid) ((s5.rreg (feOf asid) (ctxst asid) &&& 0xC#32) ||| BitVec.ofNat 32 (16 * rolls))).setUndo asid 0

theorem rollbackCtx_alone {r : State} (hwgs : s.wgs = []) (hread : s.unreadable asid (s.rollbackReads asid) = (none, s))
    (hback : s.writeBackUndo asid (s.undo.filter fun u => u.1 == asid).reverse = .ok r) (hgraphs : r.graphs = []) (hckps : r.ckps = []) :
    s.rollbackCtx asid = r.rolledBack asid := by
  have hnow : r.ckpGraphs asid = [] := by simp [State.ckpGraphs, hgraphs]
  unfold State.rollbackCtx
  extract_lets ids run s1 cores
  have hids : ids = [] := ckpWgs_none hwgs asid
  have hrun : run = [] := by simp [run, hwgs]
  have hs1 : s1 = s := by simp only [s1, hrun, haltWgs_nil]
  have hcores : cores = [] := by simp [cores, hs1, hwgs]
  clear_value ids run s1 cores
  subst hids hcores
  rw [hs1, hread]
  simp only [hback, hnow, hckps, List.find?_nil]
  rfl

theorem fatalDone_free (h : asid ∉ s.fatals) : s.fatalDone asid = s := if_neg (by simp [h])

theorem rolls_field (x : Word) {n : Nat} (hn : n < 2 ^ 28) : ((x &&& 0xC#32) ||| BitVec.ofNat 32 (16 * n)).toNat / 16 = n := by
  have hlow : (x.toNat &&& (12#32).toNat) / 2 ^ 4 = 0 := by rw [Nat.and_div_two_pow]; exact Nat.and_zero _
  have hn16 : (BitVec.ofNat 32 (16 * n)).toNat / 2 ^ 4 = n := by rw [BitVec.toNat_ofNat]; omega
  rw [BitVec.toNat_or, BitVec.toNat_and]
  change _ / 2 ^ 4 = n
  rw [Nat.or_div_two_pow, hlow, hn16, Nat.zero_or]

theorem ctx_key_ne (asid : Nat) {idx : Nat} (h : idx < 0x0C00) (hne : idx ≠ ctxst asid) (fe : Nat) : regKey (feOf asid) (ctxst asid) ≠ regKey fe idx := by
  have hst : regKey (feOf asid) (ctxst asid) % 16384 = ctxst asid := regKey_own (by unfold ctxst; omega) (by unfold ctxst; omega)
  have hidx : regKey fe idx % 16384 = idx := regKey_own (by omega) (by omega)
  omega

theorem rolledBack_store (h : asid ∉ s.fatals) : (s.rolledBack asid).mem = s.mem ∧ (s.rolledBack asid).undo = s.undo.filter (fun u => u.1 != asid)
    ∧ (s.rolledBack asid).l1 = s.l1.filter (fun l => l.asid != asid) ∧ (s.rolledBack asid).rregN (feOf asid) (ctxst asid) / 16 =
      min 15 (s.rregN (feOf asid) (ctxst asid) / 16 % 16 + 1) := by
  obtain ⟨hmem, hundo, hl1, hregs, hfatals⟩ : _ ∧ _ ∧ _ ∧ _ ∧ _ := by simpa only [State.store, Prod.mk.injEq] using store_dropContext s asid []
  unfold State.rolledBack
  extract_lets s4 s5 rolls
  have hs4 : s4 = (((s.dropContext asid []).putBack asid none []).unstall asid) := fatalDone_free (by
    show asid ∉ (s.dropContext asid []).fatals
    rwa [hfatals])
  have hrolls : s5.rregN (feOf asid) (ctxst asid) = s.rregN (feOf asid) (ctxst asid) := by
    simp only [s5, hs4]
    exact congrArg (fun rs => (regGet rs (regKey (feOf asid) (ctxst asid))).toNat) hregs
  rw [setUndo_eq]
  refine ⟨?_, ?_, ?_, ?_⟩
  · simp only [wreg_mem, s5, hs4]
    exact hmem
  · simp only [wreg_undo, s5, hs4]
    exact congrArg (List.filter fun u => u.1 != asid) hundo
  · simp only [wreg_l1, s5, hs4]
    exact congrArg (List.filter fun l => l.asid != asid) hl1
  · have hkey := ctx_key_ne asid (idx := 0x0A04 + 8 * (asid % 64)) (by omega) (by unfold ctxst; omega) (feOf asid)
    rw [State.rregN, rreg_wreg_ne hkey, rreg_wreg, if_pos rfl, rolls_field _ (by omega)]
    simp only [rolls, hrolls, fld, Nat.reducePow]

theorem wdogsDone_store (s : State) (asid : Nat) : s.wdogsDone.mem = s.mem ∧ s.wdogsDone.undo = s.undo ∧ s.wdogsDone.l1 = s.l1
    ∧ s.wdogsDone.rregN (feOf asid) (ctxst asid) = s.rregN (feOf asid) (ctxst asid) := by
  have h : ∀ (s : State) (a : Nat), (fun t : State => (t.mem, t.undo, t.l1, t.rregN (feOf asid) (ctxst asid)))
      (({ s with wdogs := s.wdogs.filter (· != a) } : State).irq (feOf a) 5) = (s.mem, s.undo, s.l1, s.rregN (feOf asid) (ctxst asid)) := fun s a => by
    have hreg := rreg_irq_ne (s := { s with wdogs := s.wdogs.filter (· != a) }) (c := 5)
      (ctx_key_ne asid (idx := 0x0410) (by omega) (by unfold ctxst; omega) (feOf a)) (ctx_key_ne asid (idx := 0x0412) (by omega) (by unfold ctxst; omega) (feOf a))
    simp only [State.rregN, hreg]
    obtain ⟨rs, os, h⟩ := irq_out { s with wdogs := s.wdogs.filter (· != a) } (feOf a) 5
    rw [h]
    rfl
  have hall := over_field (g := fun t : State => (t.mem, t.undo, t.l1, t.rregN (feOf asid) (ctxst asid))) h (s.wdogs.filter fun a => !s.leaving a) s
  simp only [Prod.mk.injEq] at hall
  exact hall

theorem rollback_alone {r : State} (hp : s.ckpPending asid = false) (hwgs : s.wgs = []) (hread : s.unreadable asid (s.rollbackReads asid) = (none, s))
    (hback : s.writeBackUndo asid (s.undo.filter fun u => u.1 == asid).reverse = .ok r) (hgraphs : r.graphs = []) (hckps : r.ckps = [])
    (hfatal : asid ∉ r.fatals) : ∃ t, exec (.rollback asid) s = .next t ∧ t.mem = r.mem ∧ t.undo = r.undo.filter (fun u => u.1 != asid)
      ∧ t.l1 = r.l1.filter (fun l => l.asid != asid)
      ∧ t.rregN (feOf asid) (ctxst asid) / 16 = min 15 (r.rregN (feOf asid) (ctxst asid) / 16 % 16 + 1) := by
  obtain ⟨hmem, hundo, hl1, hrolls⟩ := rolledBack_store (s := r) hfatal
  obtain ⟨wmem, wundo, wl1, wrolls⟩ := wdogsDone_store (r.rolledBack asid).dispatch asid
  have hcalm : exec (.rollback asid) s = .next (if (r.rolledBack asid).dispatch.wdogsDone.wakeState (feOf asid) = 1
      then (r.rolledBack asid).dispatch.wdogsDone.postOnce (.collapseComplete (feOf asid - 1)) else (r.rolledBack asid).dispatch.wdogsDone) := by
    rw [← rollbackCtx_alone hwgs hread hback hgraphs hckps]
    exact congrArg Host.Outcome.next (if_neg (by simp [hp]))
  refine ⟨_, hcalm, ?_⟩
  have hsame : ∀ (t : State) (i : Instr), (if t.wakeState (feOf asid) = 1 then t.postOnce i else t).store = t.store := fun t i => by
    split
    · exact store_postOnce t i
    · rfl
  obtain ⟨smem, sundo, sl1, sregs, -⟩ : _ ∧ _ ∧ _ ∧ _ ∧ _ := by
    simpa only [State.store, Prod.mk.injEq] using hsame (r.rolledBack asid).dispatch.wdogsDone (.collapseComplete (feOf asid - 1))
  refine ⟨(smem.trans wmem).trans hmem, (sundo.trans wundo).trans hundo, (sl1.trans wl1).trans hl1, ?_⟩
  rw [State.rregN, State.rreg, sregs]
  exact (congrArg (· / 16) wrolls).trans hrolls

end

/-- Settles O52, clause by clause from the equations above. -/
theorem checkpoints : Obligations.Checkpoints := by
  unfold Obligations.Checkpoints
  intro s asid
  refine ⟨fun ht => ?_, fun ht hwait hc => ?_, fun ht hc => ?_, fun ht hc hdone hrev hwgs => ?_, fun hdone => ?_, fun c r hc hr hp => ?_, fun hp => ?_,
    fun r hp hwgs hgraphs hckps hread hback hrw hrg hrc hfatal hregs => ?_, fun va bs hundo => ?_⟩
  · exact congrArg Host.Outcome.next (if_pos (by simp [ht]))
  · refine checkpoint_waits ht hc ?_
    simpa [and_comm] using hwait
  · exact congrArg Host.Outcome.next ((if_neg (by simp [ht])).trans (if_pos hc))
  · have hnot : ((s.ckps.any fun c => c.asid == asid && !c.complete) || s.threads.any fun t => t.st.irrev && s.asidOf t.wg == asid) = false := by
      rw [Bool.or_eq_false_iff, List.any_eq_false, List.any_eq_false]
      exact ⟨by simpa using hdone, fun t ht' => by simp [hrev t ht']⟩
    have hkeeps : ∀ (u : State) (view idx b : Nat) (i : Instr), ((u.setBit view idx b true).post i).ckps = u.ckps
        ∧ ((u.setBit view idx b true).post i).stalls = u.stalls ∧ ((u.setBit view idx b true).post i).agenda = u.agenda ++ [i]
        ∧ ((u.setBit view idx b true).post i).mem = u.mem := fun _ _ _ _ _ => ⟨rfl, rfl, rfl, rfl⟩
    obtain ⟨hckps, hstalls, hagenda, hmem⟩ := hkeeps (s.captured asid) (feOf asid) (ctxst asid) 1 (.checkpointComplete asid)
    have hset := setBit_getLsbD (s.captured asid) (feOf asid) (ctxst asid) (b := 1) (by omega) true
    refine ⟨_, _, checkpoint_captures ht hc hnot hwgs, hckps, rfl, rfl, ?_, ?_, ?_, rfl, ?_, ?_, rfl, hagenda, ?_, hmem⟩
    · show s.ckpSlot asid = 1 ∨ s.ckpSlot asid = 2
      unfold State.ckpSlot
      split <;> simp
    · rintro ⟨x, hx, hxa, hxs⟩
      exact if_pos (List.any_eq_true.mpr ⟨x, hx, by simp [hxa, hxs]⟩)
    · exact fun hin => absurd (List.mem_filter.mp (show asid ∈ s.stalls.filter (· != asid) from hin)).2 (by simp)
    · exact (capture_none (s := s.atCkp asid (s.ckpSlot asid)) hwgs asid _).1
    · exact (capture_none (s := s.atCkp asid (s.ckpSlot asid)) hwgs asid _).2
    · show ((((s.captured asid).setBit (feOf asid) (ctxst asid) 1 true).post (.checkpointComplete asid)).rreg (feOf asid)
        (0x0A06 + 8 * (asid % 64))).getLsbD 1 = true
      rw [← ctxst_eq]
      exact hset
  · have hnone : (s.ckps.find? fun c => c.asid == asid && !c.complete) = none := List.find?_eq_none.mpr (by simpa using hdone)
    refine congrArg Host.Outcome.next ?_
    rw [hnone]
  · rw [← ctxst_eq]
    exact checkpointComplete_moves hc hr hp
  · exact congrArg Host.Outcome.next (if_pos hp)
  · obtain ⟨t, ht, hmem, hundo, hl1, hrolls⟩ := rollback_alone hp hwgs hread hback hrg hrc hfatal
    refine ⟨t, ht, hmem, hundo, ?_, ?_⟩
    · simp [hl1]
    · have hrs : r.rregN (feOf asid) (ctxst asid) = s.rregN (feOf asid) (ctxst asid) :=
        congrArg (fun rs => (regGet rs (regKey (feOf asid) (ctxst asid))).toNat) hregs
      rw [hrs, ctxst_eq] at hrolls
      exact hrolls
  · rw [hundo]
    simp only [List.filter_cons, List.filter_nil, beq_self_eq_true, if_true, List.reverse_singleton, State.writeBackUndo]
    rfl

end Sys2Proof.Machine
end

section
/-! O51, Preemption: units that pre-empt, halts, saves, slices and the watchdog, and the statement. -/

namespace Sys2Proof.Machine

/-! ## Pre-emption by priority (R358) -/

section
variable {s : State} {w v : Wg} {l : Launch}

theorem mem_victim (h : s.victim w l = some v) : v ∈ s.wgs ∧ v.state = .resident ∧ ∃ m, s.launch? v.launch = some m
    ∧ Prio.num l.prio < Prio.num m.prio ∧ m.prio ≠ .strip ∧ feOf m.asid = feOf l.asid := by
  have hmem := mem_sortKey.mp (List.mem_of_find?_eq_some h)
  obtain ⟨hwgs, hv⟩ := List.mem_filter.mp hmem
  obtain ⟨hstate, hlower⟩ := Bool.and_eq_true_iff.mp hv
  refine ⟨hwgs, by simpa using hstate, ?_⟩
  split at hlower
  next m hm => exact ⟨m, hm, by simpa [and_assoc] using hlower⟩
  next => cases hlower

/-- A unit that may pre-empt once it has waited for so many µs. -/
def State.mayPreempt (s : State) (w : Wg) (l : Launch) (us : Nat) : Prop :=
  (w.state = .waiting ∨ w.state = .saved) ∧ (∀ h ∈ s.halts, s.asidOf h.1 / 64 ≠ l.asid / 64) ∧ s.mayPlace (l.asid / 64) = true
    ∧ w.since + us * 2 ^ 32 / 1000000 ≤ s.dlc

theorem preemptFor_guard {us : Nat} {p : Prio} (hp : l.prio = p) (hus : patience p = us * 2 ^ 32 / 1000000) :
    (l.prio ≠ p || !(w.state == .waiting || w.state == .saved) || (s.halts.any fun h => feOf (s.asidOf h.1) == feOf l.asid) || !s.mayPlace (feOf l.asid)
      || s.dlc < w.since + patience p) = false ↔ s.mayPreempt w l us := by
  simp [State.mayPreempt, hp, hus, feOf, and_assoc]
  exact fun _ _ _ => or_iff_not_imp_left.symm

variable (hw : s.wg? w.id = some w) (hl : s.launchOfWg w.id = some l)
include hw hl

theorem preemptFor_eq {us : Nat} {p : Prio} (hp : l.prio = p) (hus : patience p = us * 2 ^ 32 / 1000000) :
    (s.mayPreempt w l us → s.victim w l = none → s.preemptFor w.id p = s) ∧ (¬s.mayPreempt w l us → s.preemptFor w.id p = s)
      ∧ (s.mayPreempt w l us → s.victim w l = some v → s.protected' (s.asidOf v.id) = false → s.preemptFor w.id p = s.preemptWgs ((s.unitOf v).map (·.id))) := by
  have hguard := preemptFor_guard (s := s) (w := w) hp hus
  simp only [State.preemptFor, hw, hl]
  refine ⟨fun h hv => ?_, fun h => if_pos (eq_true_of_ne_false (mt hguard.mp h)), fun h hv hprot => ?_⟩
  · rw [hguard.mpr h, hv]
    rfl
  · rw [hguard.mpr h, hv]
    simp [hprot]

omit hw hl

theorem askHalt_one {i : Nat} (h : ∀ p ∈ s.halts, p.1 ≠ i) (why : HaltFor) :
    s.askHalt [i] why = { s with halts := s.halts ++ [(i, why)], agenda := s.agenda ++ [.preemptHalt [i]] } := by
  have hfresh : ([i].filter fun i => s.halts.all fun p => p.1 != i) = [i] := by
    have hall : (s.halts.all fun p => p.1 != i) = true := List.all_eq_true.mpr (by simpa using h)
    simp [hall]
  unfold State.askHalt
  simp only [hfresh]
  rfl

theorem preemptWgs_one {i : Nat} (h : ∀ p ∈ s.halts, p.1 ≠ i) : s.preemptWgs [i] =
    { s with halts := s.halts ++ [(i, if s.rollsBack i then .rollback else .save)], agenda := s.agenda ++ [.preemptHalt [i]] } := by
  unfold State.preemptWgs
  cases hr : s.rollsBack i <;> simp [hr, askHalt_one h]

end

/-! ## The halt (R369, R371) -/

section
variable {s : State} {w : Wg} {l : Launch}

theorem halts_post (s : State) (hs : List (Nat × HaltFor)) (i : Instr) :
    ({ s with halts := hs } : State).post i = { s with halts := hs, agenda := s.agenda ++ [i] } := rfl

theorem leaveCores_nil (s : State) : s.leaveCores [] = s := by simp [State.leaveCores, State.over]

theorem preemptHalt_none {ids : List Nat} (h : ∀ x ∈ s.wgs, x.id ∈ ids → x.state ≠ .resident) : exec (.preemptHalt ids) s = .next s := by
  have hnone : (s.wgs.filter fun w => ids.contains w.id && w.state == .resident) = [] := List.filter_eq_nil_iff.mpr (by simpa using h)
  exact congrArg Host.Outcome.next (if_pos (by simp only [hnone]; rfl))

theorem filter_resident (hw : s.wg? w.id = some w) (hstate : w.state = .resident) (hnodup : (s.wgs.map (·.id)).Nodup) :
    (s.wgs.filter fun x => [w.id].contains x.id && x.state == .resident) = [w] := by
  obtain ⟨-, front, back, hwgs, hfront⟩ := List.find?_eq_some_iff_append.mp hw
  rw [hwgs, List.map_append, List.map_cons, List.nodup_append] at hnodup
  have hback : ∀ x ∈ back, x.id ≠ w.id := fun x hx heq => (List.nodup_cons.mp hnodup.2.1).1 (List.mem_map.mpr ⟨x, hx, heq⟩)
  have none_front : (front.filter fun x => [w.id].contains x.id && x.state == .resident) = [] :=
    List.filter_eq_nil_iff.mpr fun x hx => by simpa using fun heq => absurd heq (by simpa using hfront x hx)
  have none_back : (back.filter fun x => [w.id].contains x.id && x.state == .resident) = [] :=
    List.filter_eq_nil_iff.mpr fun x hx => by simpa using fun heq => absurd heq (hback x hx)
  rw [hwgs, List.filter_append, none_front, List.filter_cons_of_pos (by simp [hstate]), none_back, List.nil_append]

theorem asidOf_eq (hl : s.launchOfWg w.id = some l) : s.asidOf w.id = l.asid := by simp [State.asidOf, hl]

variable (hw : s.wg? w.id = some w) (hstate : w.state = .resident) (hnodup : (s.wgs.map (·.id)).Nodup) (hl : s.launchOfWg w.id = some l)
include hw hstate hnodup hl

theorem preemptHalt_waits (hp : s.ckpPending l.asid = true) : exec (.preemptHalt [w.id]) s = .next { s with agenda := s.agenda ++ [.preemptHalt [w.id]] } := by
  unfold exec execPreemptHalt
  simp only [filter_resident hw hstate hnodup, List.map_cons, List.map_nil, asidOf_eq hl]
  simp [List.eraseDups_cons, hp]
  rfl

theorem preemptHalt_saves (hp : s.ckpPending l.asid = false) (hmode : s.rollsBack w.id = false) (hhalts : s.halts = []) :
    exec (.preemptHalt [w.id]) s = .next { s.haltWgs [w.id] with
      halts := ((s.haltWgs [w.id]).halts.filter fun p => p.1 != w.id) ++ [(w.id, .save)], agenda := (s.haltWgs [w.id]).agenda ++ [.preciseSave [w.id]] } := by
  refine congrArg Host.Outcome.next ?_
  extract_lets ids asids why s1 s2 saves back s3
  have hids : ids = [w.id] := congrArg (List.map (·.id)) (filter_resident hw hstate hnodup)
  have hasids : asids = [l.asid] := by simp only [asids, hids, List.map_cons, List.map_nil, asidOf_eq hl]; rfl
  have hwhy : why w.id = .save := by simp [why, hhalts, hmode]
  have hsaves : saves = [w.id] := by simp [saves, hids, hwhy]
  have hback : back = [] := by simp [back, hids, hwhy]
  have hs2 : s2 = { s.haltWgs [w.id] with halts := ((s.haltWgs [w.id]).halts.filter fun p => p.1 != w.id) ++ [(w.id, .save)] } := by
    simp only [s2, s1, hids, List.map_cons, List.map_nil, hwhy, List.contains_cons, List.contains_nil, Bool.or_false]
    rfl
  have hs3 : s3 = s2.post (.preciseSave [w.id]) := by simp only [s3, hsaves]; rfl
  rw [if_neg (by simp [hids]), if_neg (by simp [hasids, hp]), hback, leaveCores_nil]
  show s3 = _
  rw [hs3, hs2]
  exact halts_post (s.haltWgs [w.id]) _ _

end

/-! ## Images (R371, R372) -/

section
variable {s : State} {w : Wg} {l : Launch}

/-- A place that is found lies within the capacity and apart from the ranges in use. -/
theorem freeRange_free {al cap n off : Nat} {used : List (Nat × Nat)} (h : freeRange al cap n used = some off) :
    off + n ≤ cap ∧ ∀ u ∈ used, 0 < n → 0 < u.2 → off + n ≤ u.1 ∨ u.1 + u.2 ≤ off := by
  have hok := (List.mem_filter.mp (mem_sortKey.mp (List.mem_of_mem_head? h))).2
  simp only [Bool.and_eq_true, decide_eq_true_eq, List.all_eq_true] at hok
  refine ⟨hok.1, fun u hu hn hlen => ?_⟩
  have hapart := hok.2 u hu
  simp only [overlaps, Bool.not_eq_true', Bool.and_eq_false_iff, decide_eq_false_iff_not] at hapart
  omega

theorem length_freeBytes (s : State) (n : Nat) : (s.freeBytes n).1.length = n := by rw [State.freeBytes, List.length_map, length_upFrom]

theorem length_threadRecords (aregs : Nat) : ∀ (ts : List Thread) (s : State), (s.threadRecords aregs ts).1.length = ts.length * (256 + 4 * aregs)
  | [], _ => (Nat.zero_mul _).symm
  | t :: ts, s => by
      have hregs : ((upFrom 0 aregs).flatMap fun r => bytesOf 4 (t.val r).toNat).length = 4 * aregs := by
        simp [List.length_flatMap, length_bytesOf, List.map_const', length_upFrom]
        omega
      have hrest := length_threadRecords aregs ts (s.freeBytes 256).2
      simp only [State.threadRecords, List.length_append, length_freeBytes, hregs, hrest, List.length_cons]
      ring

theorem wgThreads_freeBytes (s : State) (n id : Nat) : (s.freeBytes n).2.wgThreads id = s.wgThreads id := rfl

theorem length_imageBytes (s : State) (id : Nat) (l : Launch) : (s.imageBytes id l).1.length = s.imageSize id l := by
  unfold State.imageBytes State.imageSize
  have hfixed := length_freeBytes s 32768
  have hsame := wgThreads_freeBytes s 32768 id
  generalize s.freeBytes 32768 = fixed at hfixed hsame ⊢
  obtain ⟨fixed, s1⟩ := fixed
  have hthreads := length_threadRecords l.aregs (s1.wgThreads id) s1
  dsimp only at hfixed hsame ⊢
  generalize s1.threadRecords l.aregs (s1.wgThreads id) = threads at hthreads ⊢
  obtain ⟨threads, s2⟩ := threads
  have hlogs := length_freeBytes s2 (32 * s.recordsOf id)
  have htiles := length_freeBytes (s2.freeBytes (32 * s.recordsOf id)).2 65536
  dsimp only at hthreads ⊢
  rw [hsame] at hthreads
  cases l.isMatrix
  · simp only [Bool.false_eq_true, if_false, List.length_append, length_mgets, hfixed, hthreads, hlogs, Nat.add_zero]
  · have hsum : ∀ n, n + 131072 + 65536 = n + 196608 := fun n => by omega
    rw [if_pos rfl, if_pos rfl]
    dsimp only
    rw [List.length_append, htiles, List.length_append, length_mgets, hsum]
    simp only [List.length_append, length_mgets, hfixed, hthreads, hlogs]

theorem imageSize_pos (s : State) (id : Nat) (l : Launch) : 0 < s.imageSize id l := by
  unfold State.imageSize
  omega

theorem preciseSave_one (hw : s.wg? w.id = some w) (hstate : w.state = .halted) (hunit : s.unitOf w = [w]) :
    exec (.preciseSave [w.id]) s = .next (s.saveUnit (.preciseSave [w.id]) [w.id]).wdogsDone := by
  refine congrArg (fun t : State => Host.Outcome.next t.wdogsDone) ?_
  simp [State.over, hw, hstate, hunit]

theorem saveUnit_full {redo : Instr} (hl : s.launchOfWg w.id = some l)
    (h : s.takeSpace l.asid (s.launchQueue l) 0 [(w.id, s.imageSize w.id l)] = none) : s.saveUnit redo [w.id] = s.saveOverflow l.asid (s.launchQueue l) := by
  simp only [State.saveUnit, List.head?_cons, Option.bind_some, hl, List.map_cons, List.map_nil, h]

theorem saveUnit_written {redo : Instr} {r t : State} (hl : s.launchOfWg w.id = some l)
    (h : s.takeSpace l.asid (s.launchQueue l) 0 [(w.id, s.imageSize w.id l)] = some r) (hwrite : r.writeImages 0 [w.id] = .ok t) :
    s.saveUnit redo [w.id] = ({ t with halts := t.halts.filter fun (h : Nat × HaltFor) => !([w.id].contains h.1) } : State).leaveCores [w.id] := by
  simp only [State.saveUnit, List.head?_cons, Option.bind_some, hl, List.map_cons, List.map_nil, h, hwrite]

theorem takeSpace_one {r : State} {asid q size : Nat} (hsize : 0 < size)
    (h : s.takeSpace asid q 0 [(w.id, size)] = some r) : ∃ off,
    off + size ≤ s.rregN (feOf asid) (0x0800 + 16 * q + 8)
    ∧ r = { s with saves := (s.saves.filter fun i => !(i.slot == 0 && i.wg == w.id)) ++ [⟨asid, q, w.id, 0, off, size⟩] }
    ∧ ∀ i ∈ s.saves, i.asid = asid → i.q = q → (i.slot == 0 && i.wg == w.id) = false → 0 < i.len → off + size ≤ i.off ∨ i.off + i.len ≤ off := by
  obtain ⟨off, hfree, rfl⟩ := Option.map_eq_some_iff.mp h
  have hothers : (s.saves.filter fun i => !(i.slot == 0 && [(w.id, size)].any fun p => p.1 == i.wg)) = s.saves.filter fun i => !(i.slot == 0 && i.wg == w.id) :=
    List.filter_congr fun i _ => by simp only [List.any_cons, List.any_nil, Bool.or_false, BEq.comm (a := w.id)]
  obtain ⟨hcap, hapart⟩ := freeRange_free hfree
  refine ⟨off, by simpa using hcap, ?_, fun i hi hasid hq hmine hlen => ?_⟩
  · rw [hothers]
    rfl
  · rw [hothers] at hapart
    have hused : (i.off, i.len) ∈ (((s.saves.filter fun i => !(i.slot == 0 && i.wg == w.id)).filter fun i => i.asid == asid && i.q == q).map fun i => (i.off, i.len)) :=
      List.mem_map.mpr ⟨i, List.mem_filter.mpr ⟨List.mem_filter.mpr ⟨hi, by rw [hmine]; rfl⟩, by simp [hasid, hq]⟩, rfl⟩
    have hsum : ([(w.id, size)].map (·.2)).foldl (· + ·) 0 = size := by simp
    rw [hsum] at hapart
    exact hapart _ hused hsize hlen

end

/-! ## Time slices (R359, R412) -/

section
variable {s : State} {fe : Nat}

/-- Shared clusters after their front end has handed them on: their holders, and their cores zeroed. -/
def State.handedOn (s : State) (cls : List Nat) (holder : Nat → Nat) : State :=
  { s with
    slices := cls.foldl (fun m c => mput 0 m c (holder c + 1)) s.slices
    icache := s.icache.filter fun i => !cls.contains (clusterOf i.core)
    past := s.past.filter fun x => !cls.contains (clusterOf x.core)
    ended := s.ended.filter fun p => !cls.contains (clusterOf p.1) }

theorem filter_contains_one {α : Type} (k : α → Nat) (c : Nat) (xs : List α) :
    (xs.filter fun x => !([c].contains (k x))) = xs.filter fun x => k x != c :=
  List.filter_congr fun x _ => by rw [List.contains_cons, List.contains_nil, Bool.or_false]; rfl

theorem handedOn_nil (s : State) (holder : Nat → Nat) : s.handedOn [] holder = s := by
  simp only [State.handedOn, List.foldl_nil, List.contains_nil, Bool.not_false, List.filter_true]

theorem filter_contains_cons {α : Type} (k : α → Nat) (c : Nat) (cs : List Nat) (xs : List α) :
    (xs.filter fun x => !(c :: cs).contains (k x)) = (xs.filter fun x => k x != c).filter fun x => !cs.contains (k x) := by
  rw [List.filter_filter]
  exact List.filter_congr fun x _ => by rw [List.contains_cons, Bool.not_or, Bool.and_comm]; rfl

theorem handedOn_cons (s : State) (c : Nat) (cs : List Nat) (holder : Nat → Nat) :
    s.handedOn (c :: cs) holder = (s.handedOn [c] holder).handedOn cs holder := by
  simp only [State.handedOn, filter_contains_cons, List.foldl_cons, List.foldl_nil, List.contains_nil, Bool.not_false, List.filter_true]

theorem zeroCores_eq (h : s.l1 = []) (c : Nat) (holder : Nat → Nat) :
    ({ s.zeroCores c with slices := mput 0 s.slices c (holder c + 1) } : State) = s.handedOn [c] holder := by
  simp only [State.zeroCores, h, List.filter_nil, State.over, List.foldl_nil, State.handedOn, filter_contains_cons, List.foldl_cons,
    List.contains_nil, Bool.not_false, List.filter_true]

theorem handOn_eq (cls : List Nat) : ∀ {s : State}, s.l1 = [] → (∀ c ∈ cls, (s.nextHolder fe c).isSome = true) →
    s.handOn fe cls = s.handedOn cls fun c => (s.nextHolder fe c).getD 0 := by
  induction cls with
  | nil => exact fun _ _ => (handedOn_nil _ _).symm
  | cons c cs ih =>
    intro s hl1 hnext
    obtain ⟨f, hf⟩ := Option.isSome_iff_exists.mp (hnext c List.mem_cons_self)
    have hzero := zeroCores_eq hl1 c fun c => (s.nextHolder fe c).getD 0
    rw [hf, Option.getD_some] at hzero
    have hstep : s.handOn fe (c :: cs) = (s.handedOn [c] fun c => (s.nextHolder fe c).getD 0).handOn fe cs := by
      rw [← hzero]
      simp only [State.handOn, State.over, List.foldl_cons, hf]
    exact hstep.trans ((ih (s := s.handedOn [c] _) hl1 fun c hc => hnext c (List.mem_cons_of_mem _ hc)).trans (handedOn_cons s c cs _).symm)

/-- The shared clusters that a front end holds and that have a next holder. -/
def State.handable (s : State) (fe : Nat) : List Nat :=
  (upFrom 0 18).filter fun c => (s.sharers c).length ≥ 2 && mget 0 s.slices c == fe + 1 && (s.nextHolder fe c).isSome

theorem sliceEnd_idle (h : ∀ x ∈ s.wgs, x.holds = true → ∀ m, s.launch? x.launch = some m → feOf m.asid ≠ fe ∨ m.prio = .strip) (hl1 : s.l1 = []) :
    exec (.sliceEnd fe) s = .next (s.handedOn (s.handable fe) fun c => (s.nextHolder fe c).getD 0).dispatch := by
  refine congrArg Host.Outcome.next ?_
  extract_lets cls units asids
  have hunits : units = [] := List.filter_eq_nil_iff.mpr fun x hx => by
    cases hholds : x.holds
    · simp
    · cases hm : s.launch? x.launch with
      | none => simp
      | some m => cases h x hx hholds m hm with
        | inl hfe => simp [hfe]
        | inr hstrip => simp [hstrip]
  have hasids : asids = [] := by simp only [asids, hunits, List.map_nil]; rfl
  rw [hasids]
  refine congrArg State.dispatch (handOn_eq (s.handable fe) hl1 fun c hc => ?_)
  exact (Bool.and_eq_true_iff.mp (List.mem_filter.mp hc).2).2

end

/-! ## The watchdog (R384) -/

section
variable {s : State} {asid : Nat}

theorem watchdogFire_calm (h : s.rregN (feOf asid) (0x0A05 + 8 * (asid % 64)) = 0 ∨ s.deadlocked asid = false) : exec (.watchdogFire asid) s = .next s := by
  refine congrArg Host.Outcome.next (if_pos ?_)
  have hidx : 0x0A00 + 8 * (asid % 64) + 5 = 0x0A05 + 8 * (asid % 64) := by omega
  rw [hidx]
  simpa using h

theorem wdogsDone_one (h : s.wdogs = [asid]) : s.wdogsDone = if s.leaving asid then s else ({ s with wdogs := [] } : State).irq (feOf asid) 5 := by
  unfold State.wdogsDone
  cases hl : s.leaving asid <;> simp [h, hl, State.over]

/-- The queues of a context stop. -/
def State.stopQueues (s : State) (asid : Nat) : State :=
  s.over (upFrom 0 32) fun s q =>
    let w := s.rreg (feOf asid) (0x0800 + 16 * q)
    if fld w.toNat 16 6 = asid % 64 then s.wreg (feOf asid) (0x0800 + 16 * q) (w &&& 0x7FFFFFFF#32) else s

/-- The watchdog's bit of a context, in a register, and its event. -/
def State.notedAt (s : State) (asid view idx : Nat) : State :=
  ({ s.setBit view idx 2 true with wdogs := s.wdogs ++ [asid] } : State).boxPut 7 view 0 asid 0

theorem notedAt_fields (s : State) (asid view idx : Nat) : (s.notedAt asid view idx).wdogs = s.wdogs ++ [asid] ∧ (s.notedAt asid view idx).mem = s.mem
    ∧ (s.notedAt asid view idx).threads = s.threads ∧ (s.notedAt asid view idx).regs = (s.setBit view idx 2 true).regs
    ∧ ∃ e, (s.notedAt asid view idx).box.getLast? = some e ∧ e.kind = 7 ∧ e.asid = asid :=
  ⟨rfl, rfl, rfl, rfl, _, List.getLast?_concat .., rfl, rfl⟩

/-- The work of a context in deadlock is halted, its queues have stopped, and the watchdog's bit and its event stand. -/
def State.watchdogRaised (s : State) (asid : Nat) : State :=
  ((s.preemptWgs ((s.wgsOf asid).filter (·.state == .resident) |>.map (·.id))).stopQueues asid).notedAt asid (feOf asid) (ctxst asid)

theorem watchdogFire_fires (h : s.rregN (feOf asid) (0x0A05 + 8 * (asid % 64)) ≠ 0) (hd : s.deadlocked asid = true) :
    exec (.watchdogFire asid) s = .next (s.watchdogRaised asid).wdogsDone := by
  refine congrArg Host.Outcome.next (if_neg ?_)
  have hidx : 0x0A00 + 8 * (asid % 64) + 5 = 0x0A05 + 8 * (asid % 64) := by omega
  rw [hidx]
  simpa [hd] using h

theorem preemptWgs_asks (s : State) (ids : List Nat) : ∃ hs is, s.preemptWgs ids = { s with halts := hs, agenda := is } := by
  unfold State.preemptWgs
  extract_lets rb s1 pr
  have hs1 : ∃ hs is, s1 = { s with halts := hs, agenda := is } := by
    simp only [s1]
    split
    · exact ⟨s.halts, s.agenda, rfl⟩
    · exact ⟨_, _, rfl⟩
  obtain ⟨hs, is, h⟩ := hs1
  split
  · exact ⟨hs, is, h⟩
  · rw [h]
    exact ⟨_, _, rfl⟩

/-- A queue of the context does not run. -/
def State.queueStopped (s : State) (asid q : Nat) : Prop :=
  (s.rreg (feOf asid) (0x0800 + 16 * q)).toNat / 2 ^ 16 % 64 = asid % 64 → (s.rreg (feOf asid) (0x0800 + 16 * q)).getLsbD 31 = false

/-- One queue of the context stops. -/
def State.stopQueue (s : State) (asid q : Nat) : State :=
  let w := s.rreg (feOf asid) (0x0800 + 16 * q)
  if fld w.toNat 16 6 = asid % 64 then s.wreg (feOf asid) (0x0800 + 16 * q) (w &&& 0x7FFFFFFF#32) else s

theorem stopQueue_stops (s : State) (asid q : Nat) : (s.stopQueue asid q).queueStopped asid q := by
  unfold State.stopQueue State.queueStopped
  dsimp only
  split
  · intro _
    rw [rreg_wreg, if_pos rfl]
    simp
  next h => exact fun hctx => absurd hctx h

theorem queue_key_ne {fe q q' : Nat} (hq : q < 32) (hq' : q' < 32) (h : q' ≠ q) : regKey fe (0x0800 + 16 * q') ≠ regKey fe (0x0800 + 16 * q) := by
  have hk : regKey fe (0x0800 + 16 * q) % 16384 = 0x0800 + 16 * q := regKey_own (by omega) (by omega)
  have hk' : regKey fe (0x0800 + 16 * q') % 16384 = 0x0800 + 16 * q' := regKey_own (by omega) (by omega)
  omega

theorem stopQueue_keeps {q q' : Nat} (hq : q < 32) (hq' : q' < 32) (h : s.queueStopped asid q') : (s.stopQueue asid q).queueStopped asid q' := by
  by_cases hqq : q' = q
  · rw [hqq]
    exact stopQueue_stops s asid q
  · have hreg : (s.stopQueue asid q).rreg (feOf asid) (0x0800 + 16 * q') = s.rreg (feOf asid) (0x0800 + 16 * q') := by
      unfold State.stopQueue
      dsimp only
      split
      · exact rreg_wreg_ne (queue_key_ne hq hq' hqq)
      · rfl
    rw [State.queueStopped, hreg]
    exact h

theorem over_stopQueue {q : Nat} (hq : q < 32) : ∀ (qs : List Nat) (s : State), (∀ x ∈ qs, x < 32) → q ∈ qs ∨ s.queueStopped asid q →
    (s.over qs fun s q => s.stopQueue asid q).queueStopped asid q
  | [], _, _, h => h.resolve_left List.not_mem_nil
  | x :: xs, s, hxs, h => by
      refine over_stopQueue hq xs (s.stopQueue asid x) (fun y hy => hxs y (List.mem_cons_of_mem _ hy)) ?_
      rw [List.mem_cons] at h
      obtain (rfl | hin) | hstopped := h
      · exact .inr (stopQueue_stops s asid q)
      · exact .inl hin
      · exact .inr (stopQueue_keeps (hxs x List.mem_cons_self) hq hstopped)

theorem stopQueues_stopped (s : State) {q : Nat} (hq : q < 32) : (s.stopQueues asid).queueStopped asid q :=
  over_stopQueue hq (upFrom 0 32) s (fun _ hx => by have := mem_upFrom.mp hx; omega) (.inl (mem_upFrom.mpr (by omega)))

theorem stopQueues_regs (s : State) (asid : Nat) : ∃ rs, s.stopQueues asid = { s with regs := rs } := by
  have hone : ∀ (s : State) (q : Nat), ∃ rs, s.stopQueue asid q = { s with regs := rs } := fun s q => by
    unfold State.stopQueue
    dsimp only
    split
    · exact ⟨_, rfl⟩
    · exact ⟨s.regs, rfl⟩
  have hall : ∀ (qs : List Nat) (s : State), ∃ rs, (s.over qs fun s q => s.stopQueue asid q) = { s with regs := rs } := fun qs => by
    induction qs with
    | nil => exact fun s => ⟨s.regs, rfl⟩
    | cons q qs ih =>
      intro s
      obtain ⟨rs, h⟩ := hone s q
      obtain ⟨rs', h'⟩ := ih (s.stopQueue asid q)
      refine ⟨rs', h'.trans ?_⟩
      rw [h]
  exact hall _ s

theorem irq_keeps_bit {view b : Nat} (h : (s.rreg view 0x0410).getLsbD b = true) (view' c : Nat) : ((s.irq view' c).rreg view 0x0410).getLsbD b = true := by
  by_cases hv : view' = view
  · rw [hv, rreg_irq, BitVec.getLsbD_or, h, Bool.true_or]
  · have h0 : regKey view 0x0410 = view * 16384 + 0x0410 := regKey_irq (.inl rfl)
    have h1 : regKey view' 0x0410 = view' * 16384 + 0x0410 := regKey_irq (.inl rfl)
    have h2 : regKey view' 0x0412 % 16384 = 0x0412 := regKey_own (by omega) (by omega)
    rw [rreg_irq_ne (by omega) (by omega)]
    exact h

/-- WATCHDOG is raised for a context whose work has left. -/
def State.wdogDone (s : State) (a : Nat) : State := ({ s with wdogs := s.wdogs.filter (· != a) } : State).irq (feOf a) 5

theorem wdogsDone_eq (s : State) : s.wdogsDone = s.over (s.wdogs.filter fun a => !s.leaving a) State.wdogDone := rfl

theorem wdogDone_keeps (s : State) (a : Nat) : ∃ rs os, s.wdogDone a = { s with wdogs := s.wdogs.filter (· != a), regs := rs, out := os } := by
  obtain ⟨rs, os, h⟩ := irq_out { s with wdogs := s.wdogs.filter (· != a) } (feOf a) 5
  exact ⟨rs, os, h⟩

theorem wdogsDone_field {γ : Type} {g : State → γ} (hg : ∀ (s : State) (a : Nat), g (s.wdogDone a) = g s) (s : State) : g s.wdogsDone = g s :=
  over_field hg _ _

theorem wdogsDone_rreg {view idx : Nat} (h : ∀ fe, regKey view idx ≠ regKey fe 0x0410 ∧ regKey view idx ≠ regKey fe 0x0412) (s : State) :
    s.wdogsDone.rreg view idx = s.rreg view idx :=
  wdogsDone_field (g := fun t => t.rreg view idx) (fun _ a => rreg_irq_ne (h (feOf a)).1 (h (feOf a)).2) s

theorem over_wdogDone_stays : ∀ (xs : List Nat) (t : State), asid ∉ xs → asid ∈ t.wdogs → asid ∈ (t.over xs State.wdogDone).wdogs
  | [], _, _, h => h
  | x :: xs, t, hnot, hin => by
      rw [List.mem_cons, not_or] at hnot
      obtain ⟨rs, os, h⟩ := wdogDone_keeps t x
      refine over_wdogDone_stays xs (t.wdogDone x) hnot.2 ?_
      rw [h]
      exact List.mem_filter.mpr ⟨hin, by simpa using hnot.1⟩

theorem over_wdogDone_raises : ∀ (xs : List Nat) (t : State), asid ∈ xs ∨ (t.rreg (feOf asid) 0x0410).getLsbD 5 = true →
    ((t.over xs State.wdogDone).rreg (feOf asid) 0x0410).getLsbD 5 = true
  | [], _, h => h.resolve_left List.not_mem_nil
  | x :: xs, t, h => by
      refine over_wdogDone_raises xs (t.wdogDone x) ?_
      rw [List.mem_cons] at h
      obtain (rfl | hin) | hbit := h
      · exact .inr (irq_getLsbD _ _ (by omega))
      · exact .inl hin
      · exact .inr (irq_keeps_bit (s := { t with wdogs := t.wdogs.filter (· != x) }) hbit _ _)

/-- A context whose watchdog has fired waits for its work to leave, or its interrupt stands. -/
theorem wdogsDone_raises (h : asid ∈ s.wdogs) : asid ∈ s.wdogsDone.wdogs ∨ (s.wdogsDone.rreg (feOf asid) 0x0410).getLsbD 5 = true := by
  rw [wdogsDone_eq]
  cases hl : s.leaving asid
  · exact .inr (over_wdogDone_raises _ s (.inl (List.mem_filter.mpr ⟨h, by simp [hl]⟩)))
  · exact .inl (over_wdogDone_stays _ s (fun hin => by simpa [hl] using (List.mem_filter.mp hin).2) h)

/-- What stands once the watchdog of a context has fired. -/
theorem watchdogRaised_stands (s : State) (asid : Nat) : asid ∈ (s.watchdogRaised asid).wdogs ∧ (s.watchdogRaised asid).mem = s.mem
    ∧ (s.watchdogRaised asid).threads = s.threads ∧ (∃ e, (s.watchdogRaised asid).box.getLast? = some e ∧ e.kind = 7 ∧ e.asid = asid)
    ∧ ((s.watchdogRaised asid).rreg (feOf asid) (ctxst asid)).getLsbD 2 = true ∧ ∀ q, q < 32 → (s.watchdogRaised asid).queueStopped asid q := by
  obtain ⟨hs, is, hasks⟩ := preemptWgs_asks s ((s.wgsOf asid).filter (·.state == .resident) |>.map (·.id))
  have hqueues : ∀ q, q < 32 → _ := fun q hq => stopQueues_stopped (asid := asid) (s.preemptWgs ((s.wgsOf asid).filter (·.state == .resident) |>.map (·.id))) hq
  obtain ⟨rs, hstop⟩ := stopQueues_regs (s.preemptWgs ((s.wgsOf asid).filter (·.state == .resident) |>.map (·.id))) asid
  have hmem : ((s.preemptWgs ((s.wgsOf asid).filter (·.state == .resident) |>.map (·.id))).stopQueues asid).mem = s.mem := by rw [hstop, hasks]
  have hthreads : ((s.preemptWgs ((s.wgsOf asid).filter (·.state == .resident) |>.map (·.id))).stopQueues asid).threads = s.threads := by
    rw [hstop, hasks]
  unfold State.watchdogRaised
  generalize (s.preemptWgs ((s.wgsOf asid).filter (·.state == .resident) |>.map (·.id))).stopQueues asid = s2 at hqueues hmem hthreads ⊢
  obtain ⟨nwdogs, nmem, nthreads, nregs, nbox⟩ := notedAt_fields s2 asid (feOf asid) (ctxst asid)
  have hreg : ∀ view idx, (s2.notedAt asid (feOf asid) (ctxst asid)).rreg view idx = (s2.setBit (feOf asid) (ctxst asid) 2 true).rreg view idx :=
    fun view idx => congrArg (regGet · (regKey view idx)) nregs
  refine ⟨nwdogs ▸ List.mem_append.mpr (.inr List.mem_cons_self), nmem.trans hmem, nthreads.trans hthreads, nbox, ?_, fun q hq => ?_⟩
  · rw [hreg]
    exact setBit_getLsbD s2 _ _ (by omega) true
  · rw [State.queueStopped, hreg, rreg_setBit_ne (ctx_key_ne asid (by omega) (by unfold ctxst; omega) _).symm]
    exact hqueues q hq

end

/-- Settles O51, clause by clause from the equations above. -/
theorem preemption : Obligations.Preemption := by
  unfold Obligations.Preemption
  intro s w v l hw hl
  refine ⟨mem_victim, fun hi hp => ?_, fun ids h => preemptHalt_none h, fun hstate huniq hnodup hmode hhalts => ⟨fun hckp => ?_, fun hckp => ?_⟩, fun hstate hunit => ?_,
    fun f hwork hl1 => ?_, fun asid => ⟨fun h => watchdogFire_calm h, fun hlim hdead => ?_, wdogsDone_one⟩⟩
  · have hprio : patience (if hi then .high else .normal) = (if hi then 50 else 1000) * 2 ^ 32 / 1000000 := by cases hi <;> rfl
    obtain ⟨hnone, hnot, hsome⟩ := preemptFor_eq (v := v) hw hl hp hprio
    have hexec : exec (if hi then Instr.highPriorityPreempt w.id else .normalPriorityPreempt w.id) s =
        .next (s.preemptFor w.id (if hi then .high else .normal)) := by cases hi <;> rfl
    dsimp only
    rw [hexec]
    refine ⟨fun hable hv hunit hhalts hprot => ?_, fun hable hv => congrArg _ (hnone hable hv), fun h => congrArg _ (hnot h)⟩
    have hprot' : s.protected' (s.asidOf v.id) = false := by
      rw [← ctxst_eq] at hprot
      exact (bitOf_toNat _ _).trans hprot
    rw [hsome hable hv hprot', hunit, List.map_cons, List.map_nil, preemptWgs_one hhalts]
  · exact preemptHalt_waits hw hstate hnodup hl hckp
  · exact preemptHalt_saves hw hstate hnodup hl hckp hmode hhalts
  · dsimp only
    rw [preciseSave_one hw hstate hunit]
    refine ⟨fun hnone => ?_, fun r htook => takeSpace_one (imageSize_pos s w.id l) htook, fun bs r himage => ?_, fun r t htook hwrite => ?_⟩
    · rw [saveUnit_full hl hnone]
      rfl
    · rw [← length_imageBytes, himage]
    · rw [saveUnit_written hl htook hwrite, filter_contains_one]
  · have hcls : s.handable f = (List.range 18).filter fun c => decide (2 ≤ (s.sharers c).length) && mget 0 s.slices c == f + 1 && (s.nextHolder f c).isSome := rfl
    dsimp only
    rw [sliceEnd_idle (fun x hx hholds m hm => hwork x hx hholds (by simp [hm]) m hm) hl1, hcls]
    rfl
  · obtain ⟨hwdog, hmem, hthreads, hbox, hbit, hqueues⟩ := watchdogRaised_stands s asid
    have hfields : ∀ (t : State) (a : Nat), (t.wdogDone a).mem = t.mem ∧ (t.wdogDone a).threads = t.threads ∧ (t.wdogDone a).box = t.box := fun t a => by
      obtain ⟨rs, os, h⟩ := wdogDone_keeps t a
      rw [h]
      exact ⟨rfl, rfl, rfl⟩
    have hirq : ∀ idx, idx ≠ 0x0410 → idx ≠ 0x0412 → idx < 0x0C00 → ∀ fe, regKey (feOf asid) idx ≠ regKey fe 0x0410 ∧ regKey (feOf asid) idx ≠ regKey fe 0x0412 := by
      intro idx h0 h2 hlow fe
      have hi : regKey (feOf asid) idx % 16384 = idx := regKey_own (by omega) (by omega)
      have hs : regKey fe 0x0410 % 16384 = 0x0410 := regKey_own (by omega) (by omega)
      have hp : regKey fe 0x0412 % 16384 = 0x0412 := regKey_own (by omega) (by omega)
      omega
    refine ⟨_, watchdogFire_fires hlim hdead, ?_, wdogsDone_raises hwdog, (wdogsDone_field (fun t a => (hfields t a).1) _).trans hmem,
      (wdogsDone_field (fun t a => (hfields t a).2.1) _).trans hthreads, ?_, fun q hq => ?_⟩
    · rw [← ctxst_eq]
      exact (congrArg (·.getLsbD 2) (wdogsDone_rreg (hirq _ (by unfold ctxst; omega) (by unfold ctxst; omega) (by unfold ctxst; omega)) _)).trans hbit
    · rw [wdogsDone_field (g := State.box) (fun t a => (hfields t a).2.2)]
      exact hbox
    · have hq' := hqueues q hq
      rw [State.queueStopped, ← wdogsDone_rreg (hirq (0x0800 + 16 * q) (by omega) (by omega) (by omega))] at hq'
      exact hq'

end Sys2Proof.Machine
end

section
/-! O41, PartitionEvents: commits of a range and a mask, scrubs, function-level resets, and the statement. -/

namespace Sys2Proof.Machine

/-! ## Commits (R410, R413) -/

section
variable {s : State} {f : Nat} {v : Word}

theorem rreg2_lt (s : State) (view idx : Nat) : s.rreg2 view idx < 2 ^ 64 := by
  have hlo : s.rregN view idx < 2 ^ 32 := BitVec.isLt _
  have hhi : s.rregN view (idx + 1) < 2 ^ 32 := BitVec.isLt _
  unfold State.rreg2
  omega

theorem mem_setBits {n w c : Nat} : c ∈ setBits n w ↔ c < n ∧ w.testBit c = true := by
  rw [setBits, List.mem_filter, mem_upFrom, bitOf_eq_testBit]
  simp

theorem setBits_eq_nil {n w : Nat} (h : w < 2 ^ n) : setBits n w = [] ↔ w = 0 := by
  constructor
  · intro hnil
    refine Nat.eq_of_testBit_eq fun i => ?_
    rw [Nat.zero_testBit]
    by_cases hi : i < n
    · exact Bool.eq_false_iff.mpr fun hbit => by simpa [hnil] using mem_setBits.mpr ⟨hi, hbit⟩
    · exact Nat.testBit_lt_two_pow (lt_of_lt_of_le h (Nat.pow_le_pow_right (by omega) (by omega)))
  · rintro rfl
    exact List.filter_eq_nil_iff.mpr fun i _ => by simp [bitOf]

theorem setBits_meet {n a b : Nat} (h : a < 2 ^ n) : (setBits n a).any (setBits n b).contains = true ↔ a &&& b ≠ 0 := by
  rw [List.any_eq_true]
  constructor
  · rintro ⟨c, hc, hcb⟩ hzero
    have hbit := congrArg (·.testBit c) hzero
    simp [Nat.testBit_and, (mem_setBits.mp hc).2, (mem_setBits.mp (List.contains_iff_mem.mp hcb)).2] at hbit
  · intro hne
    obtain ⟨c, hc⟩ := Nat.exists_testBit_of_ne_zero hne
    rw [Nat.testBit_and, Bool.and_eq_true] at hc
    have hn : c < n := by
      by_contra hge
      exact absurd hc.1 (by simp [Nat.testBit_lt_two_pow (lt_of_lt_of_le h (Nat.pow_le_pow_right (n := 2) (by omega) (not_lt.mp hge)))])
    exact ⟨c, mem_setBits.mpr ⟨hn, hc.1⟩, List.contains_iff_mem.mpr (mem_setBits.mpr ⟨hn, hc.2⟩)⟩

/-- A range that R410 does not allow. -/
def State.badRange (s : State) (f : Nat) (v : Word) : Prop :=
  v.getLsbD 31 = true ∧ (v.toNat % 32 > v.toNat / 2 ^ 16 % 32 ∨ v.toNat / 2 ^ 16 % 32 > 17 ∨ s.rreg2 0 (0x1001 + 8 * f) = 0)

/-- Another front end has one of the staged colours. -/
def State.colourClash (s : State) (f : Nat) : Prop :=
  ∃ g, g < 17 ∧ g ≠ f ∧ (s.rreg 0 (0x1000 + 8 * g)).getLsbD 31 = true ∧ s.rreg2 0 (0x1005 + 8 * g) &&& s.rreg2 0 (0x1001 + 8 * f) ≠ 0

theorem badRange_iff : s.badRange f v ↔
    (bitOf v.toNat 31 && (fld v.toNat 0 5 > fld v.toNat 16 5 || fld v.toNat 16 5 > 17 || (s.staged' f).isEmpty)) = true := by
  have hstaged : (s.staged' f).isEmpty = true ↔ s.rreg2 0 (0x1001 + 8 * f) = 0 := by rw [List.isEmpty_iff]; exact setBits_eq_nil (rreg2_lt s _ _)
  rw [State.badRange, Bool.and_eq_true, Bool.or_eq_true, Bool.or_eq_true, hstaged, bitOf_toNat, decide_eq_true_eq, decide_eq_true_eq, or_assoc]
  simp [fld]

theorem colourClash_iff : s.colourClash f ↔ ((upFrom 0 17).any fun g => g != f && s.partValid g && (s.colours g).any (s.staged' f).contains) = true := by
  have hmeet : ∀ g, (s.colours g).any (s.staged' f).contains = true ↔ s.rreg2 0 (0x1005 + 8 * g) &&& s.rreg2 0 (0x1001 + 8 * f) ≠ 0 :=
    fun g => setBits_meet (rreg2_lt s _ _)
  have hvalid : ∀ g, s.partValid g = (s.rreg 0 (0x1000 + 8 * g)).getLsbD 31 := fun g => bitOf_toNat _ _
  rw [State.colourClash, List.any_eq_true]
  refine exists_congr fun g => ?_
  rw [mem_upFrom, Bool.and_eq_true, Bool.and_eq_true, hmeet, hvalid, bne_iff_ne]
  simp [and_assoc]

theorem rangeCause_bad (h : s.badRange f v) : s.rangeCause f v = 1 := if_pos (badRange_iff.mp h)

theorem rangeCause_clash (hb : ¬s.badRange f v) (h : s.colourClash f) : s.rangeCause f v = 2 :=
  (if_neg (mt badRange_iff.mpr hb)).trans (if_pos (colourClash_iff.mp h))

theorem withRange_wgs (s : State) (f : Nat) (v : Word) : (s.withRange f v).wgs = s.wgs := by simp only [State.withRange, wreg_wgs]

theorem withRange_streams (s : State) (f : Nat) (v : Word) : (s.withRange f v).streams = s.streams := by simp only [State.withRange, wreg_streams]

theorem rangeCause_free (hb : ¬s.badRange f v) (hc : ¬s.colourClash f) (hwgs : s.wgs = []) (hstreams : s.streams = []) : s.rangeCause f v = 0 := by
  refine (if_neg (mt badRange_iff.mpr hb)).trans ((if_neg (mt colourClash_iff.mpr hc)).trans (if_neg ?_))
  have hunits : (s.withRange f v).unitsFit f = true := by
    rw [State.unitsFit, withRange_wgs, hwgs, List.all_nil]
  have hstrips : (s.withRange f v).stripsFit = true := List.all_eq_true.mpr fun g _ => by
    have hnone : (s.withRange f v).admitted g = [] := by
      rw [State.admitted, withRange_streams, hstreams, List.filter_nil]
    simp [hnone]
  simp [hunits, hstrips]

theorem ptnRangeCommit_refused {c : Nat} (hf : f < 17) (h : s.rangeCause f v = c + 1) :
    exec (.ptnRangeCommit f v) s = .next (s.wreg 0 (0x1004 + 8 * f) (BitVec.ofNat 32 (2 ^ 31 + (c + 1)))) := by
  refine congrArg Host.Outcome.next ((if_neg (by omega)).trans ?_)
  rw [h]
  rfl

theorem regKey_zero (idx : Nat) : regKey 0 idx = idx := by simp [regKey, regHome]

/-- Steps that each replace one part of the state replace that part and no more. -/
theorem over_update {β γ : Type} {get : State → γ} {put : State → γ → State} (hid : ∀ s, put s (get s) = s) (hput : ∀ s a b, put (put s a) b = put s b)
    {g : State → β → State} (hg : ∀ s x, ∃ a, g s x = put s a) : ∀ (xs : List β) (s : State), ∃ a, s.over xs g = put s a
  | [], s => ⟨get s, (hid s).symm⟩
  | x :: xs, s => by
      obtain ⟨a, ha⟩ := hg s x
      obtain ⟨b, hb⟩ := over_update hid hput hg xs (g s x)
      exact ⟨b, hb.trans (by rw [ha, hput])⟩

theorem shareClusters_slices (s : State) : ∃ m, s.shareClusters = { s with slices := m } := by
  refine over_update (get := State.slices) (put := fun t m => { t with slices := m }) (fun _ => rfl) (fun _ _ _ => rfl) (fun t c => ?_) _ s
  dsimp only
  split
  · exact ⟨_, rfl⟩
  · split
    · exact ⟨t.slices, rfl⟩
    · split
      · exact ⟨_, rfl⟩
      · exact ⟨t.slices, rfl⟩

/-- A scrub changes the scrubs, the events to come, and SCR_STAT of its front end. -/
theorem scrubStart_changes (s : State) (f : Nat) (cls cols : List Nat) : ∃ xs is rs, s.scrubStart f cls cols = { s with scrubs := xs, agenda := is, regs := rs }
    ∧ (∃ x ∈ xs, x.fe = f) ∧ ∀ k, k ≠ 0x1400 + f → regGet rs k = regGet s.regs k := by
  unfold State.scrubStart
  split
  next y hy =>
    refine ⟨_, s.agenda, s.regs, rfl, ⟨_, List.mem_map.mpr ⟨y, List.mem_of_find?_eq_some hy, rfl⟩, ?_⟩, fun _ _ => rfl⟩
    have hfe : y.fe = f := by simpa using List.find?_some hy
    simp [hfe]
  next =>
    refine ⟨s.scrubs ++ [⟨f, cls, cols⟩], _, _, rfl, ⟨_, List.mem_append.mpr (.inr List.mem_cons_self), rfl⟩, fun k hk => ?_⟩
    rw [← regKey_zero (0x1400 + f)] at hk
    exact (regGet_regPut _ _ _ _).trans (if_neg hk)

theorem postOnce_agenda (s : State) (i : Instr) : ∃ is, s.postOnce i = { s with agenda := is } := by
  unfold State.postOnce
  split
  · exact ⟨s.agenda, rfl⟩
  · exact ⟨_, rfl⟩

theorem readyGo_agenda (s : State) (f : Nat) : ∃ is, s.readyGo f = { s with agenda := is } :=
  over_update (get := State.agenda) (put := fun t is => { t with agenda := is }) (fun _ => rfl) (fun _ _ _ => rfl)
    (fun t _ => over_update (get := State.agenda) (put := fun t is => { t with agenda := is }) (fun _ => rfl) (fun _ _ _ => rfl)
      (fun t _ => postOnce_agenda t _) _ t) _ s

/-- The events after a commit: a front end that is not awake wakes, nodes that are ready go on, and units are placed. -/
def State.afterCommit (s : State) (f : Nat) : State :=
  ((if f > 0 && (s.wakeState f ≠ 0 || s.deep) then s.postOnce (.wakeWake (f - 1)) else s).readyGo f).dispatch

theorem afterCommit_agenda (s : State) (f : Nat) : ∃ is, s.afterCommit f = { s with agenda := is } := by
  have hwake : ∃ is, (if f > 0 && (s.wakeState f ≠ 0 || s.deep) then s.postOnce (.wakeWake (f - 1)) else s) = { s with agenda := is } := by
    split
    · exact postOnce_agenda s _
    · exact ⟨s.agenda, rfl⟩
  obtain ⟨is, hwake⟩ := hwake
  obtain ⟨is', hready⟩ := readyGo_agenda { s with agenda := is } f
  unfold State.afterCommit
  rw [hwake, hready]
  exact ⟨_, rfl⟩

theorem scrubAdded_changes (s : State) (f : Nat) (cls cols : List Nat) : ∃ xs is rs, s.scrubAdded f cls cols = { s with scrubs := xs, agenda := is, regs := rs }
    ∧ (cls ≠ [] → ∃ x ∈ xs, x.fe = f) ∧ ∀ k, k ≠ 0x1400 + f → regGet rs k = regGet s.regs k := by
  unfold State.scrubAdded
  split
  next h => exact ⟨s.scrubs, s.agenda, s.regs, rfl, fun hne => absurd h (by simp [hne]), fun _ _ => rfl⟩
  next =>
    obtain ⟨xs, is, rs, heq, hin, hregs⟩ := scrubStart_changes s f cls cols
    exact ⟨xs, is, rs, heq, fun _ => hin, hregs⟩

theorem clustersOf_congr {t : State} (h : t.regs = s.regs) (f : Nat) : t.clustersOf f = s.clustersOf f := by
  have hrange : t.rangeOf f = s.rangeOf f := congrArg (fun rs => (regGet rs (regKey 0 (0x1000 + 8 * f))).toNat) h
  rw [State.clustersOf, State.clustersOf, State.partValid, State.partValid, hrange]

theorem ptnRangeCommit_changes (hf : f < 17) (h : s.rangeCause f v = 0) (hwgs : s.wgs = []) : ∃ m xs is rs,
    exec (.ptnRangeCommit f v) s = .next { s with slices := m, scrubs := xs, agenda := is, regs := rs }
    ∧ ((∃ c ∈ (s.withRange f v).clustersOf f, c ∉ s.clustersOf f) → ∃ x ∈ xs, x.fe = f)
    ∧ ∀ k, k ≠ 0x1400 + f → regGet rs k = regGet (s.withRange f v).regs k := by
  have hexec : exec (.ptnRangeCommit f v) s = .next (((((s.withRange f v).shareClusters.scrubAdded f
      (((s.withRange f v).shareClusters.clustersOf f).filter fun c => !(s.clustersOf f).contains c)
      (((s.withRange f v).shareClusters.colours f).filter fun c => !(s.colours f).contains c)).moveStrays f).afterCommit f)) := by
    refine congrArg Host.Outcome.next ((if_neg (by omega)).trans ?_)
    rw [h]
    rfl
  have hwithin : ∃ rs, s.withRange f v = { s with regs := rs } := ⟨(s.withRange f v).regs, by simp only [State.withRange, State.wreg]⟩
  generalize s.withRange f v = u at hexec hwithin ⊢
  obtain ⟨rs0, hu⟩ := hwithin
  obtain ⟨m, hshare⟩ := shareClusters_slices u
  have hcls : u.shareClusters.clustersOf f = u.clustersOf f := clustersOf_congr (by rw [hshare]) f
  rw [hcls] at hexec
  obtain ⟨xs, is, rs, hscrub, hin, hregs⟩ := scrubAdded_changes u.shareClusters f ((u.clustersOf f).filter fun c => !(s.clustersOf f).contains c)
    ((u.shareClusters.colours f).filter fun c => !(s.colours f).contains c)
  rw [hscrub, hshare, hu] at hexec
  have hstay : ({ s with slices := m, scrubs := xs, agenda := is, regs := rs } : State).moveStrays f = { s with slices := m, scrubs := xs, agenda := is, regs := rs } :=
    moveStrays_none (by exact hwgs) f
  obtain ⟨is', hafter⟩ := afterCommit_agenda { s with slices := m, scrubs := xs, agenda := is, regs := rs } f
  refine ⟨m, xs, is', rs, ?_, fun ⟨c, hc, hnew⟩ => hin (List.ne_nil_of_mem (List.mem_filter.mpr ⟨hc, by simpa using hnew⟩)), ?_⟩
  · rw [hexec]
    refine congrArg Host.Outcome.next ?_
    exact (congrArg (State.afterCommit · f) hstay).trans hafter
  · rw [hshare] at hregs
    exact hregs

theorem withRange_range (s : State) (f : Nat) (v : Word) : (s.withRange f v).rreg 0 (0x1000 + 8 * f) = v &&& 0x801F001F#32 := by
  have hlo : regKey 0 (0x1000 + 8 * f) ≠ regKey 0 (0x1005 + 8 * f) := by rw [regKey_zero, regKey_zero]; omega
  have hhi : regKey 0 (0x1000 + 8 * f) ≠ regKey 0 (0x1006 + 8 * f) := by rw [regKey_zero, regKey_zero]; omega
  rw [State.withRange, rreg_wreg_ne hhi, rreg_wreg_ne hlo, rreg_wreg, if_pos rfl]

theorem withRange_mask (s : State) (f : Nat) (v : Word) : (s.withRange f v).rreg2 0 (0x1005 + 8 * f) = s.rreg2 0 (0x1001 + 8 * f) := by
  have hne : regKey 0 (0x1005 + 8 * f) ≠ regKey 0 (0x1006 + 8 * f) := by rw [regKey_zero, regKey_zero]; omega
  have hlo : 0x1005 + 8 * f + 1 = 0x1006 + 8 * f := by omega
  have hhi : 0x1001 + 8 * f + 1 = 0x1002 + 8 * f := by omega
  simp only [State.rreg2, State.rregN, hlo, hhi, State.withRange]
  rw [rreg_wreg_ne hne, rreg_wreg, if_pos rfl, rreg_wreg, if_pos rfl]

theorem ptnRangeCommit_accepted (hf : f < 17) (h : s.rangeCause f v = 0) (hwgs : s.wgs = []) : ∃ t, exec (.ptnRangeCommit f v) s = .next t
    ∧ t.rreg 0 (0x1000 + 8 * f) = v &&& 0x801F001F#32 ∧ t.rreg2 0 (0x1005 + 8 * f) = s.rreg2 0 (0x1001 + 8 * f) ∧ t.threads = s.threads ∧ t.mem = s.mem
    ∧ ((∃ c, c < 18 ∧ c ∈ t.clustersOf f ∧ c ∉ s.clustersOf f) → ∃ x ∈ t.scrubs, x.fe = f) := by
  obtain ⟨m, xs, is, rs, hexec, hscrub, hregs⟩ := ptnRangeCommit_changes hf h hwgs
  have hreg : ∀ idx, idx ≠ 0x1400 + f → regGet rs (regKey 0 idx) = (s.withRange f v).rreg 0 idx := fun idx hidx => hregs _ (by rwa [regKey_zero])
  have hrange : regGet rs (regKey 0 (0x1000 + 8 * f)) = (s.withRange f v).rreg 0 (0x1000 + 8 * f) := hreg _ (by omega)
  refine ⟨_, hexec, hrange.trans (withRange_range s f v), ?_, rfl, rfl, fun ⟨c, _, hc, hnew⟩ => hscrub ⟨c, ?_, hnew⟩⟩
  · rw [← withRange_mask s f v]
    simp only [State.rreg2, State.rregN, ← hreg (0x1005 + 8 * f) (by omega), ← hreg (0x1005 + 8 * f + 1) (by omega)]
    rfl
  · have hsame : (s.withRange f v).rangeOf f = (regGet rs (regKey 0 (0x1000 + 8 * f))).toNat := congrArg BitVec.toNat hrange.symm
    rw [State.clustersOf, State.partValid, hsame]
    exact hc

/-! ## Scrubs (R413, R414) -/

/-- The state with the cores of some clusters zeroed. -/
def State.zeroed (s : State) (cls : List Nat) : State :=
  { s with
    icache := s.icache.filter fun i => !cls.contains (clusterOf i.core)
    past := s.past.filter fun x => !cls.contains (clusterOf x.core)
    ended := s.ended.filter fun p => !cls.contains (clusterOf p.1) }

theorem over_zeroCores (cls : List Nat) : ∀ {s : State}, s.l1 = [] → (s.over cls fun s c => s.zeroCores c) = s.zeroed cls := by
  induction cls with
  | nil => exact fun _ => by simp only [State.zeroed, State.over, List.foldl_nil, List.contains_nil, Bool.not_false, List.filter_true]
  | cons c cs ih =>
    intro s hl1
    have hone : s.zeroCores c = { s with
        icache := s.icache.filter fun i => clusterOf i.core != c
        past := s.past.filter fun x => clusterOf x.core != c
        ended := s.ended.filter fun p => clusterOf p.1 != c } := by
      simp only [State.zeroCores, hl1, List.filter_nil, State.over, List.foldl_nil]
    refine (ih (s := s.zeroCores c) (by rw [hone]; exact hl1)).trans ?_
    simp only [State.zeroed, filter_contains_cons, hone]

theorem over_l2Evict : ∀ (ls : List L2Line) {s : State}, s.shadows = [] → (∀ u ∈ s.threads, u.park = none) → ∃ l2,
    (s.over ls fun s l => s.l2Evict l.line) = { s with l2 := l2 } ∧ ∀ y, y ∈ l2 ↔ y ∈ s.l2 ∧ ∀ x ∈ ls, y.line ≠ x.line
  | [], s, _, _ => ⟨s.l2, rfl, fun y => by simp⟩
  | x :: xs, s, hshadows, hpark => by
      have hone := l2Evict_unparked hpark hshadows x.line
      obtain ⟨l2, hl2, hmem⟩ := over_l2Evict xs (s := s.l2Evict x.line) (by rw [hone]; exact hshadows) (by rw [hone]; exact hpark)
      refine ⟨l2, hl2.trans (by rw [hone]), fun y => ?_⟩
      rw [hmem, hone, List.mem_filter, bne_iff_ne, List.forall_mem_cons, and_assoc]

theorem dispatch_none (hwgs : s.wgs = []) (hwaking : s.waking = []) : s.dispatch = { s with agenda := s.agenda.filter fun i => !Instr.places i } := by
  have hnone : (s.wgs.filter fun w => w.state == .waiting || w.state == .saved) = [] := by rw [hwgs]; rfl
  have hwake : ((s.waking.map fun p => Instr.wakeComplete p.1).filter fun i => !s.agenda.contains i) = [] := by rw [hwaking]; rfl
  unfold State.dispatch
  rw [hnone, hwake, List.append_nil]
  exact congrArg (fun is => ({ s with agenda := is } : State)) (List.append_nil _)

/-- The state with other events to come. -/
def State.withAgenda (s : State) (is : List Instr) : State := { s with agenda := is }

theorem rreg_withAgenda (s : State) (is : List Instr) (view idx : Nat) : (s.withAgenda is).rreg view idx = s.rreg view idx := rfl

theorem rregN_withAgenda (s : State) (is : List Instr) (view idx : Nat) : (s.withAgenda is).rregN view idx = s.rregN view idx := rfl

theorem setBit_withAgenda (s : State) (is : List Instr) (view idx b : Nat) (on : Bool) :
    (s.withAgenda is).setBit view idx b on = (s.setBit view idx b on).withAgenda is := rfl

theorem vecHeld_withAgenda (s : State) (is : List Instr) (view : Nat) : (s.withAgenda is).vecHeld view = s.vecHeld view := by
  rw [State.vecHeld, State.vecHeld, rregN_withAgenda, rregN_withAgenda]

theorem vector_withAgenda (s : State) (is : List Instr) (view c : Nat) : (s.withAgenda is).vector view c = (s.vector view c).withAgenda is := by
  unfold State.vector
  rw [vecHeld_withAgenda, setBit_withAgenda]
  split <;> rfl

theorem irq_withAgenda (s : State) (is : List Instr) (view c : Nat) : (s.withAgenda is).irq view c = (s.irq view c).withAgenda is := by
  unfold State.irq
  rw [rregN_withAgenda, rregN_withAgenda, setBit_withAgenda]
  dsimp only
  rw [vector_withAgenda]
  exact (apply_ite (State.withAgenda · is) _ _ _).symm

/-- The state at the end of a scrub, before its interrupt. -/
def State.scrubbed (s : State) (x : Scrub) (f : Nat) (l2 : List L2Line) : State :=
  ({ s.zeroed x.clusters with scrubs := [], l2 := l2 } : State).wreg 0 (0x1400 + f)
    (BitVec.ofNat 32 (x.colours.length % 64 * 2 ^ 16 + x.clusters.length * 2 ^ 8) ||| 1#32)

theorem scrubComplete_ends {x : Scrub} (hscrubs : s.scrubs = [x]) (hfe : x.fe = f) (hl1 : s.l1 = []) (hshadows : s.shadows = []) (hflrs : s.flrs = [])
    (hwgs : s.wgs = []) (hwaking : s.waking = []) (hpark : ∀ u ∈ s.threads, u.park = none) : ∃ l2,
    exec (.scrubComplete f) s = .next (((s.scrubbed x f l2).withAgenda (s.agenda.filter fun i => !Instr.places i)).irq f 7)
    ∧ ∀ y ∈ l2, y ∈ s.l2 ∧ y.colour ∉ x.colours := by
  have hfind : (s.scrubs.find? fun y => y.fe == f) = some x := by simp [hscrubs, hfe]
  obtain ⟨l2, hevict, hl2⟩ := over_l2Evict ((s.zeroed x.clusters).l2.filter fun l => x.colours.contains l.colour) (s := s.zeroed x.clusters) hshadows hpark
  refine ⟨l2, congrArg Host.Outcome.next ?_, fun y hy => ?_⟩
  · split
    next hnone => rw [hfind] at hnone; cases hnone
    next y hy =>
      obtain rfl : x = y := Option.some.inj (hfind.symm.trans hy)
      extract_lets s1 s2 s3 s4
      have hs1 : s1 = s.zeroed x.clusters := over_zeroCores x.clusters hl1
      have hs2 : s2 = { s.zeroed x.clusters with l2 := l2 } := by
        simp only [s2]
        rw [hs1]
        exact hevict
      have hs3 : s3 = s2 := if_neg (by rw [hs2]; simp [State.zeroed, hflrs])
      have hs4 : s4 = { s.zeroed x.clusters with scrubs := [], l2 := l2 } := by
        have hnone : (s.scrubs.filter fun y => y.fe != f) = [] := by simp [hscrubs, hfe]
        simp only [s4, hs3, hs2]
        exact congrArg (fun xs => ({ s.zeroed x.clusters with scrubs := xs, l2 := l2 } : State)) hnone
      have hstat : s4.scrStat f x.clusters.length x.colours.length false true = s.scrubbed x f l2 := by
        rw [hs4, State.scrStat, State.scrubbed, if_neg Bool.false_ne_true, Nat.zero_add, if_pos rfl]
      rw [hstat]
      obtain ⟨rs, os, hirq⟩ := irq_out (s.scrubbed x f l2) f 7
      rw [irq_withAgenda, dispatch_none (by rw [hirq]; exact hwgs) (by rw [hirq]; exact hwaking), hirq]
      rfl
  · obtain ⟨hin, hapart⟩ := (hl2 y).mp hy
    exact ⟨hin, fun hcol => hapart y (List.mem_filter.mpr ⟨hin, List.contains_iff_mem.mpr hcol⟩) rfl⟩

end

/-! ## Function-level resets (R416, R417) -/

section
variable {s t u : State} {n : Nat}

theorem regKey_vf {idx : Nat} (h : 0x1800 ≤ idx ∧ idx < 0x1808) (n : Nat) : regKey (n + 1) idx = idx + 8 * n := by
  rw [regKey_wake (Nat.succ_pos n) h.1 h.2, Nat.succ_sub_one]

theorem regKey_view {idx : Nat} (h : idx < 0x0C00 ∨ 0x1808 ≤ idx) (view : Nat) : regKey view idx = view * 16384 + idx := by
  have hshared : ¬(0x0C00 ≤ idx ∧ idx < 0x1800) := by omega
  have hwake : ¬(0x1800 ≤ idx ∧ idx < 0x1808) := by omega
  simp only [regKey, regHome, Bool.and_eq_true, decide_eq_true_eq, hshared, hwake, false_and, if_false]

/-- The registers that a function-level reset may change before it resets the view's own: WAKE_STAT of any VF, and the view's interrupts and
queues. -/
def flrTouches (n k : Nat) : Prop := (∃ m, m < 16 ∧ k = 0x1803 + 8 * m) ∨ k / 16384 = n + 1 ∧ k % 16384 < 0x0C00

/-- What the steps of a function-level reset leave alone where nothing runs. -/
structure FlrKeeps (n : Nat) (s t : State) : Prop where
  mem : t.mem = s.mem
  flrs : t.flrs = s.flrs
  wgs : s.wgs = [] → t.wgs = []
  cmds : s.cmds = [] → t.cmds = []
  graphs : s.graphs = [] → t.graphs = []
  deep : s.deep = false → t.deep = false
  out : ∀ o ∈ s.out, o ∈ t.out
  regs : ∀ k, ¬flrTouches n k → regGet t.regs k = regGet s.regs k

theorem FlrKeeps.refl (n : Nat) (s : State) : FlrKeeps n s s := ⟨rfl, rfl, id, id, id, id, fun _ => id, fun _ _ => rfl⟩

theorem FlrKeeps.trans (h : FlrKeeps n s t) (k : FlrKeeps n t u) : FlrKeeps n s u where
  mem := k.mem.trans h.mem
  flrs := k.flrs.trans h.flrs
  wgs hs := k.wgs (h.wgs hs)
  cmds hs := k.cmds (h.cmds hs)
  graphs hs := k.graphs (h.graphs hs)
  deep hs := k.deep (h.deep hs)
  out o ho := k.out o (h.out o ho)
  regs i hi := (k.regs i hi).trans (h.regs i hi)

theorem FlrKeeps.over {β : Type} {g : State → β → State} : ∀ {xs : List β} {s : State}, (∀ s, ∀ x ∈ xs, FlrKeeps n s (g s x)) → FlrKeeps n s (s.over xs g)
  | [], s, _ => .refl n s
  | x :: xs, s, h => (h s x List.mem_cons_self).trans (FlrKeeps.over (xs := xs) fun s y hy => h s y (List.mem_cons_of_mem _ hy))

/-- A write of a register that the reset may touch. -/
theorem flrKeeps_wreg {view idx : Nat} (h : flrTouches n (regKey view idx)) (v : Word) : FlrKeeps n s (s.wreg view idx v) where
  mem := rfl
  flrs := rfl
  wgs := id
  cmds := id
  graphs := id
  deep := id
  out _ := id
  regs k hk := (regGet_regPut _ _ _ _).trans (if_neg fun heq : k = regKey view idx => hk (by rwa [heq]))

theorem flrTouches_own {idx : Nat} (h : idx < 0x0C00) : flrTouches n (regKey (n + 1) idx) := by
  rw [regKey_view (.inl h)]
  exact .inr (by omega)

theorem flrTouches_wakeStat {m : Nat} (hm : m < 16) (n : Nat) : flrTouches n (regKey (m + 1) 0x1803) := by
  rw [regKey_vf (by omega)]
  exact .inl ⟨m, hm, by omega⟩

theorem flrKeeps_vector (c : Nat) : FlrKeeps n s (s.vector (n + 1) c) := by
  unfold State.vector
  split
  · exact flrKeeps_wreg (flrTouches_own (by omega)) _
  · exact ⟨rfl, rfl, id, id, id, id, fun o ho => List.mem_append.mpr (.inl ho), fun _ _ => rfl⟩

theorem flrKeeps_irq (c : Nat) : FlrKeeps n s (s.irq (n + 1) c) := by
  have hbit : FlrKeeps n s (s.setBit (n + 1) 0x0410 c true) := flrKeeps_wreg (flrTouches_own (by omega)) _
  unfold State.irq
  dsimp only
  split
  · exact hbit.trans (flrKeeps_vector c)
  · exact hbit

theorem flrKeeps_sendHeld : FlrKeeps n s (s.sendHeld (n + 1)) := by
  have hclear : FlrKeeps n s (s.wreg (n + 1) 0x0412 0#32) := flrKeeps_wreg (flrTouches_own (by omega)) _
  refine hclear.trans (FlrKeeps.over fun t c _ => ?_)
  split
  · exact .refl n t
  · exact flrKeeps_vector c

theorem flrKeeps_setWake {m : Nat} (hm : m < 16) (st : Nat) : FlrKeeps n s (s.setWake m st) := flrKeeps_wreg (flrTouches_wakeStat hm n) _

theorem flrKeeps_endDeep : FlrKeeps n s s.endDeep := by
  unfold State.endDeep
  split
  · exact .refl n s
  · have hawake : FlrKeeps n s { s with deep := false, cycles := [(1000, s.stepNo)] } := ⟨rfl, rfl, id, id, id, fun _ => rfl, fun _ => id, fun _ _ => rfl⟩
    refine hawake.trans (FlrKeeps.over fun t m hm => ?_)
    have hm16 : m < 16 := by have := mem_upFrom.mp hm; omega
    split
    · exact flrKeeps_setWake hm16 2
    · exact .refl n t

theorem endDeep_deep (s : State) : s.endDeep.deep = false := by
  unfold State.endDeep
  split
  next h => simpa using h
  next =>
    refine (over_field (g := State.deep) (fun t m => ?_) _ _).trans rfl
    split <;> rfl

theorem flrKeeps_powerUp (m : Nat) : FlrKeeps n s (s.powerUp m) := by
  unfold State.powerUp
  split
  · exact .refl n s
  · exact ⟨rfl, rfl, id, id, id, id, fun _ => id, fun _ _ => rfl⟩

theorem flrKeeps_flrWake (hn : n < 16) : FlrKeeps n s (s.flrWake n) := by
  unfold State.flrWake
  dsimp only
  split
  · exact flrKeeps_endDeep
  · exact (((flrKeeps_endDeep.trans (flrKeeps_powerUp n)).trans (flrKeeps_setWake hn 0)).trans (flrKeeps_irq 6)).trans flrKeeps_sendHeld

theorem flrWake_deep (hn : n < 16) : (s.flrWake n).deep = false := by
  unfold State.flrWake
  dsimp only
  split
  · exact endDeep_deep s
  · exact ((((flrKeeps_powerUp n).trans (flrKeeps_setWake hn 0)).trans (flrKeeps_irq 6)).trans flrKeeps_sendHeld).deep (endDeep_deep s)

theorem flrKeeps_coreFreed (core : Nat) : FlrKeeps n s (s.coreFreed core) := by
  have hpost : ∀ (t : State) (i : Instr), FlrKeeps n t (t.postOnce i) := fun t i => by
    obtain ⟨is, h⟩ := postOnce_agenda t i
    rw [h]
    exact ⟨rfl, rfl, id, id, id, id, fun _ => id, fun _ _ => rfl⟩
  have hdispatch : ∀ t : State, FlrKeeps n t t.dispatch := fun t => ⟨rfl, rfl, id, id, id, id, fun _ => id, fun _ _ => rfl⟩
  unfold State.coreFreed
  refine FlrKeeps.trans ?_ (hdispatch _)
  refine FlrKeeps.trans ?_ (FlrKeeps.over fun t w _ => hpost t _)
  split
  · exact hpost s _
  · exact .refl n s

theorem flrKeeps_dropWgs (ids : List Nat) : FlrKeeps n s (s.dropWgs ids) := by
  unfold State.dropWgs
  refine FlrKeeps.trans ?_ (FlrKeeps.over fun t c _ => flrKeeps_coreFreed c)
  exact ⟨rfl, rfl, fun h => (congrArg _ h).trans (List.filter_nil ..), id, id, id, fun _ => id, fun _ _ => rfl⟩

theorem flrKeeps_stopQueue {asid : Nat} (h : feOf asid = n + 1) {q : Nat} (hq : q < 32) : FlrKeeps n s (s.stopQueue asid q) := by
  unfold State.stopQueue
  dsimp only
  rw [h]
  split
  · exact flrKeeps_wreg (flrTouches_own (by omega)) _
  · exact .refl n s

theorem flrKeeps_stopCtx {asid : Nat} (h : feOf asid = n + 1) : FlrKeeps n s (s.stopCtx asid) := by
  unfold State.stopCtx
  extract_lets fe s1 s2 s3
  have h1 : FlrKeeps n s s1 := flrKeeps_dropWgs _
  have h2 : FlrKeeps n s1 s2 := ⟨rfl, rfl, id, fun h => (congrArg _ h).trans List.map_nil, fun h => (congrArg _ h).trans List.map_nil, id, fun _ => id, fun _ _ => rfl⟩
  have h3 : FlrKeeps n s2 s3 := ⟨rfl, rfl, id, id, id, id, fun _ => id, fun _ _ => rfl⟩
  clear_value s1
  refine ((h1.trans h2).trans h3).trans (FlrKeeps.over fun t q hq => ?_)
  exact flrKeeps_stopQueue h (by have := mem_upFrom.mp hq; omega)

theorem setWake_low (s : State) (n : Nat) {st : Nat} (h : st < 8) : (s.setWake n st).rregN (n + 1) 0x1803 % 8 = st := by
  have hreg : (s.setWake n st).rreg (n + 1) 0x1803 = (s.rreg (n + 1) 0x1803 &&& 0xFFFF0000#32) ||| BitVec.ofNat 32 st := by
    rw [State.setWake, rreg_wreg, if_pos rfl]
  have hhigh : ((s.rreg (n + 1) 0x1803).toNat &&& (0xFFFF0000#32).toNat) % 2 ^ 3 = 0 := by
    rw [Nat.and_mod_two_pow]
    exact Nat.and_zero _
  have hlow : (BitVec.ofNat 32 st).toNat % 2 ^ 3 = st := by rw [BitVec.toNat_ofNat]; omega
  rw [State.rregN, hreg, BitVec.toNat_or, BitVec.toNat_and]
  change _ % 2 ^ 3 = st
  rw [Nat.or_mod_two_pow, hhigh, hlow, Nat.zero_or]

/-- A VF that is not awake raises WAKE when its reset begins, and its vector leaves at once. -/
theorem flrWake_raises (hn : n < 16) (hasleep : s.rregN (n + 1) 0x1803 % 8 ≠ 0) (hst : (s.rreg (n + 1) 0x0410).getLsbD 6 = false)
    (hmask : (s.rreg (n + 1) 0x0411).getLsbD 6 = false) : Out.msix (n + 1) 6 ∈ (s.flrWake n).out := by
  have hwake : s.wakeState (n + 1) ≠ 0 := by
    rw [State.wakeState, if_neg (Nat.succ_ne_zero n), fld, pow_zero, Nat.div_one]
    exact hasleep
  have hflr : s.flrWake n = (((s.endDeep.powerUp n).setWake n 0).irq (n + 1) 6).sendHeld (n + 1) := if_neg hwake
  have hrest : FlrKeeps (n + 1) s ((s.endDeep.powerUp n).setWake n 0) := (flrKeeps_endDeep.trans (flrKeeps_powerUp n)).trans (flrKeeps_setWake hn 0)
  have hkept : ∀ idx, idx < 0x0C00 → ((s.endDeep.powerUp n).setWake n 0).rreg (n + 1) idx = s.rreg (n + 1) idx := fun idx hidx => by
    refine hrest.regs _ ?_
    rw [regKey_view (.inl hidx)]
    rintro (⟨m, hm, hk⟩ | ⟨hview, -⟩) <;> omega
  have hheld : ((s.endDeep.powerUp n).setWake n 0).vecHeld (n + 1) = false := by
    have hlow := setWake_low (s.endDeep.powerUp n) n (st := 0) (by omega)
    simp [State.vecHeld, fld, hlow]
  rw [hflr]
  refine flrKeeps_sendHeld.out _ ?_
  rw [irq_sent (by rw [hkept _ (by omega)]; exact hst) (by rw [hkept _ (by omega)]; exact hmask) hheld]
  exact List.mem_append.mpr (.inr List.mem_cons_self)

theorem regGet_filter (p : Nat → Bool) (k : Nat) : ∀ m : SMap Word, regGet (m.filter fun e => p e.1) k = if p k then regGet m k else regReset k
  | [] => by simp [regGet]
  | (j, v) :: m => by
      have ih := regGet_filter p k m
      by_cases hj : k = j
      · subst hj
        cases hp : p k
        · rw [List.filter_cons_of_neg (by simp [hp]), ih, hp]
          rfl
        · rw [List.filter_cons_of_pos (by exact hp)]
          simp [regGet]
      · have hne : regGet ((j, v) :: m) k = regGet m k := if_neg hj
        rw [hne, ← ih]
        cases hp : p j
        · rw [List.filter_cons_of_neg (by simp [hp])]
        · rw [List.filter_cons_of_pos (by exact hp)]
          exact if_neg hj

theorem over_empty {α β : Type} {xs : List α} (h : xs = []) (s : State) (p : α → Bool) (k : α → β) (g : State → β → State) :
    s.over ((xs.filter p).map k) g = s := by
  subst h
  rfl

/-- The state of a VF's reset once its contexts have stopped. -/
def State.flrStopped (s : State) (n : Nat) : State :=
  ({ s.flrWake n with flrs := s.flrs ++ [n + 1] } : State).over (upFrom (64 * (n + 1)) 64) fun s a => s.stopCtx a

theorem flrStopped_keeps (s : State) (n : Nat) : FlrKeeps n { s.flrWake n with flrs := s.flrs ++ [n + 1] } (s.flrStopped n) :=
  FlrKeeps.over fun t a ha => flrKeeps_stopCtx (by have := mem_upFrom.mp ha; unfold feOf; omega)

/-- The state of a VF's reset once its registers have returned to their reset values. -/
def State.flrDropped (s : State) (n : Nat) : State :=
  { s with
    cmds := s.cmds.filter fun c => feOf c.asid != n + 1
    graphs := s.graphs.filter fun g => feOf g.asid != n + 1
    faults := s.faults.filter fun f => feOf f.asid != n + 1
    devq := s.devq.filter fun w => feOf (DevWrite.asid w) != n + 1
    invals := s.invals.filter fun v => v.fe != n + 1
    fatals := s.fatals.filter fun a => feOf a != n + 1
    wdogs := s.wdogs.filter fun a => feOf a != n + 1
    waking := mput 0 s.waking n 0
    regs := s.regs.filter fun p => keepOverFlr n p.1 }

/-- The same, with the class that stays. -/
def State.flrCleared (s : State) (n : Nat) (ctl : Word) : State := (s.flrDropped n).wreg (n + 1) 0x1800 ctl

theorem vfFlr_eq (hn : n < 16) (hnew : n + 1 ∉ s.flrs) (hcmds : s.cmds = []) (hgraphs : s.graphs = []) (t : State)
    (ht : t = (s.flrStopped n).flrCleared n ((s.flrStopped n).rreg (n + 1) 0x1800 &&& 3#32)) :
    exec (.vfFlr n) s = .next (((t.boxPut 1 0xFFFF (Config.resetCode 2) 0 0).scrubStart (n + 1) (t.clustersOf (n + 1)) (t.colours (n + 1))).post
      (.flrComplete n)) := by
  have hkeeps := flrStopped_keeps s n
  have hwake := flrKeeps_flrWake (s := s) hn
  have hc : (s.flrStopped n).cmds = [] := hkeeps.cmds (hwake.cmds hcmds)
  have hg : (s.flrStopped n).graphs = [] := hkeeps.graphs (hwake.graphs hgraphs)
  refine congrArg Host.Outcome.next ((if_neg (by simp [hnew]; omega)).trans ?_)
  extract_lets fe s0 s1 s2 s3 s4 ctl s5 s6
  have hs2 : s2 = s.flrStopped n := rfl
  have hs3 : s3 = s2 := over_empty (by rw [hs2]; exact hc) s2 _ _ _
  have hs4 : s4 = s3 := over_empty (by rw [hs3, hs2]; exact hg) s3 _ _ _
  clear_value s4 s3 s2
  have hs6 : s6 = s4.flrCleared n (s4.rreg (n + 1) 0x1800 &&& 3#32) := rfl
  rw [hs6, hs4, hs3, hs2, ← ht]

theorem regGet_wreg (s : State) (view idx : Nat) (v : Word) (k : Nat) :
    regGet (s.wreg view idx v).regs k = if k = regKey view idx then v else regGet s.regs k := regGet_regPut _ _ _ _

/-- The registers of a VF's reset: its own blocks return to their reset values, and the class stays. -/
theorem flrCleared_regs (s : State) (n : Nat) (ctl : Word) (k : Nat) : regGet (s.flrCleared n ctl).regs k =
    if k = 0x1800 + 8 * n then ctl else if keepOverFlr n k then regGet s.regs k else regReset k := by
  have hkey : regKey (n + 1) 0x1800 = 0x1800 + 8 * n := regKey_vf (by omega) n
  have hdropped : (s.flrDropped n).regs = s.regs.filter fun p => keepOverFlr n p.1 := rfl
  rw [State.flrCleared, regGet_wreg, hkey, hdropped, regGet_filter]

theorem boxPut_keeps (s : State) (kind source code asid addr : Nat) : (s.boxPut kind source code asid addr).mem = s.mem
    ∧ (s.boxPut kind source code asid addr).flrs = s.flrs ∧ (s.boxPut kind source code asid addr).wgs = s.wgs
    ∧ (s.boxPut kind source code asid addr).deep = s.deep ∧ (s.boxPut kind source code asid addr).out = s.out
    ∧ (s.boxPut kind source code asid addr).regs = s.regs := ⟨rfl, rfl, rfl, rfl, rfl, rfl⟩

theorem flrCleared_keeps (s : State) (n : Nat) (ctl : Word) : (s.flrCleared n ctl).mem = s.mem ∧ (s.flrCleared n ctl).flrs = s.flrs
    ∧ (s.flrCleared n ctl).wgs = s.wgs ∧ (s.flrCleared n ctl).deep = s.deep ∧ (s.flrCleared n ctl).out = s.out := ⟨rfl, rfl, rfl, rfl, rfl⟩

theorem posted_fields (s : State) (xs : List Scrub) (is : List Instr) (rs : SMap Word) (i : Instr) :
    (({ s with scrubs := xs, agenda := is, regs := rs } : State).post i).flrs = s.flrs
    ∧ i ∈ (({ s with scrubs := xs, agenda := is, regs := rs } : State).post i).agenda
    ∧ (({ s with scrubs := xs, agenda := is, regs := rs } : State).post i).mem = s.mem
    ∧ (({ s with scrubs := xs, agenda := is, regs := rs } : State).post i).wgs = s.wgs
    ∧ (({ s with scrubs := xs, agenda := is, regs := rs } : State).post i).deep = s.deep
    ∧ (({ s with scrubs := xs, agenda := is, regs := rs } : State).post i).scrubs = xs
    ∧ (({ s with scrubs := xs, agenda := is, regs := rs } : State).post i).out = s.out
    ∧ (({ s with scrubs := xs, agenda := is, regs := rs } : State).post i).regs = rs :=
  ⟨rfl, List.mem_append.mpr (.inr List.mem_cons_self), rfl, rfl, rfl, rfl, rfl, rfl⟩

theorem vfFlr_resets (hn : n < 16) (hnew : n + 1 ∉ s.flrs) (hcmds : s.cmds = []) (hgraphs : s.graphs = []) (hwgs : s.wgs = []) : ∃ t,
    exec (.vfFlr n) s = .next t ∧ t.flrs = s.flrs ++ [n + 1] ∧ Instr.flrComplete n ∈ t.agenda ∧ t.mem = s.mem ∧ t.wgs = [] ∧ t.deep = false
    ∧ (∃ x ∈ t.scrubs, x.fe = n + 1) ∧ (∀ o ∈ (s.flrWake n).out, o ∈ t.out)
    ∧ ∀ k, k ≠ 0x1400 + (n + 1) → regGet t.regs k = if k = 0x1800 + 8 * n then s.rreg (n + 1) 0x1800 &&& 3#32
      else if keepOverFlr n k then regGet (s.flrStopped n).regs k else regReset k := by
  have hkeeps := flrStopped_keeps s n
  have hwake := flrKeeps_flrWake (s := s) hn
  have hctl : (s.flrStopped n).rreg (n + 1) 0x1800 = s.rreg (n + 1) 0x1800 := by
    have hkey : regKey (n + 1) 0x1800 = 0x1800 + 8 * n := regKey_vf (by omega) n
    have hfree : ¬flrTouches n (regKey (n + 1) 0x1800) := by
      rw [hkey]
      rintro (⟨m, hm, hk⟩ | ⟨hview, -⟩) <;> omega
    exact (hkeeps.regs _ hfree).trans (hwake.regs _ hfree)
  have hexec := vfFlr_eq hn hnew hcmds hgraphs _ rfl
  have hregs := flrCleared_regs (s.flrStopped n) n (s.rreg (n + 1) 0x1800 &&& 3#32)
  obtain ⟨cmem, cflrs, cwgs, cdeep, cout⟩ := flrCleared_keeps (s.flrStopped n) n (s.rreg (n + 1) 0x1800 &&& 3#32)
  rw [hctl] at hexec
  generalize (s.flrStopped n).flrCleared n (s.rreg (n + 1) 0x1800 &&& 3#32) = u at hexec hregs cmem cflrs cwgs cdeep cout
  obtain ⟨bmem, bflrs, bwgs, bdeep, bout, bregs⟩ := boxPut_keeps u 1 0xFFFF (Config.resetCode 2) 0 0
  generalize u.boxPut 1 0xFFFF (Config.resetCode 2) 0 0 = b at hexec bmem bflrs bwgs bdeep bout bregs
  obtain ⟨xs, is, rs, hscrub, hin, hrs⟩ := scrubStart_changes b (n + 1) (u.clustersOf (n + 1)) (u.colours (n + 1))
  rw [hscrub] at hexec
  obtain ⟨tflrs, tagenda, tmem, twgs, tdeep, tscrubs, tout, tregs⟩ := posted_fields b xs is rs (.flrComplete n)
  generalize ({ b with scrubs := xs, agenda := is, regs := rs } : State).post (.flrComplete n) = t at hexec tflrs tagenda tmem twgs tdeep tscrubs tout tregs
  refine ⟨t, hexec, tflrs.trans ((bflrs.trans cflrs).trans hkeeps.flrs), tagenda, tmem.trans ((bmem.trans cmem).trans (hkeeps.mem.trans hwake.mem)),
    twgs.trans ((bwgs.trans cwgs).trans (hkeeps.wgs (hwake.wgs hwgs))), tdeep.trans ((bdeep.trans cdeep).trans (hkeeps.deep (flrWake_deep hn))), ?_,
    fun o ho => ?_, fun k hk => ?_⟩
  · rw [tscrubs]
    exact hin
  · rw [tout, bout, cout]
    exact hkeeps.out o ho
  · rw [tregs, hrs k hk, bregs]
    exact hregs k

end

theorem keepOverFlr_view {n view idx : Nat} (h : idx < 16384) : keepOverFlr n (view * 16384 + idx) = if view = n + 1 then
    idx == 0x1E00 || idx == 0x1E01 || !((0x0400 ≤ idx && idx < 0x0C00) || (0x1C00 ≤ idx && idx < 0x2000) || (0x2400 ≤ idx && idx < 0x2800))
    else !(view = 0 && (idx == 0x1801 + 8 * n || idx == 0x1802 + 8 * n || idx == 0x1803 + 8 * n)) := by
  have hview : (view * 16384 + idx) / 16384 = view := by omega
  have hidx : (view * 16384 + idx) % 16384 = idx := by omega
  simp only [keepOverFlr, hview, hidx]

/-- What a reset of a VF leaves in the registers. -/
theorem vfFlr_registers {s t : State} {n : Nat} (hn : n < 16)
    (h : ∀ k, k ≠ 0x1400 + (n + 1) → regGet t.regs k = if k = 0x1800 + 8 * n then s.rreg (n + 1) 0x1800 &&& 3#32
      else if keepOverFlr n k then regGet (s.flrStopped n).regs k else regReset k) :
    (∀ idx, (0x0400 ≤ idx ∧ idx < 0x0C00) ∨ (0x1C00 ≤ idx ∧ idx < 0x1E00) ∨ (0x2400 ≤ idx ∧ idx < 0x2800) →
      t.rreg (n + 1) idx = regReset ((n + 1) * 16384 + idx))
    ∧ (∀ idx, idx = 0x1E00 ∨ idx = 0x1E01 ∨ idx = 0x1804 ∨ idx = 0x1805 → t.rreg (n + 1) idx = s.rreg (n + 1) idx)
    ∧ t.rreg (n + 1) 0x1800 = s.rreg (n + 1) 0x1800 &&& 3#32 ∧ t.rregN (n + 1) 0x1803 = 0
    ∧ ∀ view idx, view ≠ 0 → view ≠ n + 1 → idx < 0x0C00 → t.rreg view idx = s.rreg view idx := by
  have hstay : ∀ k, ¬flrTouches n k → regGet (s.flrStopped n).regs k = regGet s.regs k := fun k hk =>
    ((flrStopped_keeps s n).regs k hk).trans ((flrKeeps_flrWake hn).regs k hk)
  have hreset : ∀ k, k ≠ 0x1400 + (n + 1) → k ≠ 0x1800 + 8 * n → keepOverFlr n k = false → regGet t.regs k = regReset k := fun k hscr hcls hkeep => by
    rw [h k hscr, if_neg hcls, hkeep]
    rfl
  have hkept : ∀ k, k ≠ 0x1400 + (n + 1) → k ≠ 0x1800 + 8 * n → keepOverFlr n k = true → ¬flrTouches n k → regGet t.regs k = regGet s.regs k :=
    fun k hscr hcls hkeep htouch => by rw [h k hscr, if_neg hcls, if_pos hkeep, hstay k htouch]
  have hown : ∀ idx, idx < 16384 → (idx == 0x1E00 || idx == 0x1E01 || !((0x0400 ≤ idx && idx < 0x0C00) || (0x1C00 ≤ idx && idx < 0x2000)
      || (0x2400 ≤ idx && idx < 0x2800))) = keepOverFlr n ((n + 1) * 16384 + idx) := fun idx hidx => by rw [keepOverFlr_view hidx, if_pos rfl]
  refine ⟨fun idx hidx => ?_, fun idx hidx => ?_, ?_, ?_, fun view idx hview hother hidx => ?_⟩
  · rw [State.rreg, regKey_view (by omega)]
    refine hreset _ (by omega) (by omega) ?_
    rw [← hown idx (by omega)]
    simp
    omega
  · by_cases hstage : idx = 0x1E00 ∨ idx = 0x1E01
    · rw [State.rreg, State.rreg, regKey_view (by omega)]
      refine hkept _ (by omega) (by omega) ?_ ?_
      · rw [← hown idx (by omega)]
        simp [hstage]
      · rintro (⟨m, hm, hk⟩ | ⟨-, hlow⟩) <;> omega
    · have hkeep : keepOverFlr n (idx + 8 * n) = true := by
        have hview := keepOverFlr_view (n := n) (view := 0) (idx := idx + 8 * n) (by omega)
        rw [Nat.zero_mul, Nat.zero_add] at hview
        rw [hview, if_neg (by omega)]
        simp
        omega
      rw [State.rreg, State.rreg, regKey_vf (by omega)]
      refine hkept _ (by omega) (by omega) hkeep ?_
      rintro (⟨m, hm, hk⟩ | ⟨hv, -⟩) <;> omega
  · have hkey : regKey (n + 1) 0x1800 = 0x1800 + 8 * n := regKey_vf (by omega) n
    rw [State.rreg, hkey, h _ (by omega), if_pos rfl]
  · have hkey : regKey (n + 1) 0x1803 = 0x1803 + 8 * n := regKey_vf (by omega) n
    have hkeep : keepOverFlr n (0x1803 + 8 * n) = false := by
      have hview := keepOverFlr_view (n := n) (view := 0) (idx := 0x1803 + 8 * n) (by omega)
      rw [Nat.zero_mul, Nat.zero_add] at hview
      rw [hview]
      simp
    rw [State.rregN, State.rreg, hkey, hreset _ (by omega) (by omega) hkeep, regReset_wake (by omega), if_neg (by omega)]
    rfl
  · rw [State.rreg, State.rreg, regKey_view (.inl hidx)]
    refine hkept _ (by omega) (by omega) ?_ ?_
    · rw [keepOverFlr_view (by omega), if_neg hother]
      simp [hview]
    · rintro (⟨m, hm, hk⟩ | ⟨hv, -⟩) <;> omega

theorem mem_filter_apart {α : Type} (k : α → Nat) (cs : List Nat) (xs : List α) (y : α) :
    y ∈ (xs.filter fun x => !cs.contains (k x)) ↔ y ∈ xs ∧ k y ∉ cs := by simp

/-- Settles O41: the causes of R410 from the staged mask, and a reset's registers from what its filter keeps. -/
theorem partitionEvents : Obligations.PartitionEvents := by
  unfold Obligations.PartitionEvents
  refine ⟨fun s f v hf => ⟨fun hbad => ?_, fun hbad hclash => ?_, fun hbad hclash hwgs hstreams => ?_, fun x hscrubs hfe hl1 hshadows hflrs hwgs hwaking hpark => ?_⟩,
    fun s n hn => ⟨fun hin => ?_, fun hnew hcmds hgraphs hwgs => ?_, fun hscrubs => ?_, fun hscrubs => ?_⟩⟩
  · exact ptnRangeCommit_refused hf (rangeCause_bad hbad)
  · exact ptnRangeCommit_refused hf (rangeCause_clash hbad hclash)
  · exact ptnRangeCommit_accepted hf (rangeCause_free hbad hclash hwgs hstreams) hwgs
  · obtain ⟨l2, hexec, hl2⟩ := scrubComplete_ends hscrubs hfe hl1 hshadows hflrs hwgs hwaking hpark
    exact ⟨s.icache.filter fun i => !x.clusters.contains (clusterOf i.core), l2, s.past.filter fun y => !x.clusters.contains (clusterOf y.core),
      s.ended.filter fun p => !x.clusters.contains (clusterOf p.1), hexec, fun y => mem_filter_apart _ _ _ y, fun y => mem_filter_apart _ _ _ y,
      fun y => mem_filter_apart _ _ _ y, hl2⟩
  · exact congrArg Host.Outcome.next (if_pos (by simp [hin]))
  · obtain ⟨t, hexec, hflrs, hagenda, hmem, hwgs', hdeep, hscrub, hout, hregs⟩ := vfFlr_resets hn hnew hcmds hgraphs hwgs
    obtain ⟨hreset, hkept, hclass, hstat, hviews⟩ := vfFlr_registers hn hregs
    exact ⟨t, hexec, hflrs, hagenda, hmem, hwgs', hdeep, hscrub, hreset, hkept, hclass, hstat,
      fun hasleep hst hmask => hout _ (flrWake_raises hn hasleep hst hmask), hviews⟩
  · exact congrArg Host.Outcome.next (if_neg (by simp [hscrubs]))
  · obtain ⟨x, hx, hfe⟩ := hscrubs
    exact congrArg Host.Outcome.next (if_pos (List.any_eq_true.mpr ⟨x, hx, by simp [hfe]⟩))

end Sys2Proof.Machine
end

section
/-! O42, CollapseAndWake: the entry into the deep state drops the L1 lines one by one, each by the line that holds its address; a line that records
another address than its line's stays, and the statement asks that none does. -/

namespace Sys2Proof.Machine

section
variable {s : State} {l : L1Line}

/-- A clean line whose address is not its line's is not found, and stays. -/
theorem l1Drop_stray (hl1 : s.l1 = [l]) (hclean : l.dirty = 0) (hstray : l.va ≠ lineOf l.va) (sc : Scope) : (s.l1Drop l sc).l1 = [l] := by
  have hmiss : l.isAt l.core l.asid l.va = false := by simp [L1Line.isAt, hstray]
  rw [l1Drop_clean hclean, hl1]
  simp [hmiss]

theorem deepStateEntry_stray (hl1 : s.l1 = [l]) (hclean : l.dirty = 0) (hstray : l.va ≠ lineOf l.va) : ∃ t, exec .deepStateEntry s = .next t ∧ t.l1 = [l] := by
  have hdrop : (s.over s.l1 fun s l => s.l1Drop l .dev).l1 = [l] := by
    rw [hl1]
    exact l1Drop_stray hl1 hclean hstray .dev
  refine ⟨_, rfl, ?_⟩
  split
  · exact hl1
  · exact (over_field (g := State.l1) (f := fun s n => s.setWake n 4) (fun _ _ => rfl) _ _).trans hdrop

end

/-- A clean line of core 0 with an address in the midst of a line. -/
def strayLine : L1Line := ⟨0, 64, 1, 0, false, .core, 0, 0, 0, []⟩

/-- The device at reset, but for that line. -/
def strayState : State := { State.reset with l1 := [strayLine] }

theorem strayState_idle : strayState.isIdle 0 = true := by decide +kernel

theorem strayState_disabled (n : Nat) {q : Nat} (hq : q < 32) : (strayState.rreg (n + 1) (0x0800 + 16 * q)).getLsbD 31 = false := by
  have hreset : strayState.rreg (n + 1) (0x0800 + 16 * q) = State.reset.rreg (n + 1) (0x0800 + 16 * q) := rfl
  rw [hreset, reset_rreg, regReset_queue (regKey_own (by omega) (by omega)) (by omega)]
  simp [Nat.add_mod]

/-- Refutes O42: the device at reset may enter the deep state, and a clean L1 line that records address 1 is still there afterwards, for a drop
looks for the line by the address of its line, 0. -/
theorem not_collapseAndWake : ¬Obligations.CollapseAndWake := by
  unfold Obligations.CollapseAndWake
  rintro ⟨-, hdeep⟩
  have hmay := (hdeep strayState).2 ⟨rfl, rfl, strayState_idle, fun n _ ⟨q, hq, hon⟩ => by
    rw [strayState_disabled n hq] at hon
    cases hon⟩
  obtain ⟨t, hexec, -, hgone, -⟩ := hmay
  obtain ⟨u, hexec', hstays⟩ := deepStateEntry_stray (s := strayState) rfl rfl (by decide)
  obtain rfl : t = u := Host.Outcome.next.inj (hexec.symm.trans hexec')
  rw [hstays] at hgone
  cases hgone

end Sys2Proof.Machine
end
